-- ==== Sys2Proof/Word.lean ====
section
/-! DEFINITION. The byte type, byte strings and the plainest number helpers (Table 0.2). -/

namespace Sys2Proof

/-- One byte. -/
abbrev Byte := BitVec 8

/-- A byte string, lowest offset first (Table 0.2). -/
abbrev Bytes := List Byte

/-- A 32-bit host-window register (R285). -/
abbrev Word := BitVec 32

/-- The byte of a number's lowest eight bits. -/
def byte (n : Nat) : Byte := BitVec.ofNat 8 n

end Sys2Proof
end

