-- ==== Sys2Proof/Syntax.lean ====
section
/-! DEFINITION. The commands and events of the GL640 (spec/opcode_table.json): one constructor of
`Instr` for each row, with the operands that the row needs from outside the part. -/

namespace Sys2Proof

/-- The time that passes before a command, as counted by three clocks of Table 3.1 (R72: no two
domains hold a fixed phase): cycles of the system clock, of the modulator rate f_MOD, and ticks of
the 32.768 kHz always-on clock. (DESIGN CHOICE, log 1.) -/
structure Ticks where
  sys : Nat
  mod : Nat
  aon : Nat
  deriving DecidableEq, Repr

/-- The origins of Table 11.11 (R303). -/
inductive Origin where
  | host | service | optical | fabric
  deriving DecidableEq, Repr

/-- A command in flight is named by its route and its TAG (R292, R295); on the fabric route `tag`
is the TUNNEL_ID (R407). -/
structure Call where
  origin : Origin
  tag : Nat
  deriving DecidableEq, Repr

/-- The supplies of Table 2.1 (R41). -/
inductive Rail where
  | core | io | vdda
  deriving DecidableEq, Repr

/-- What a loss of power or a reset catches half-written (R42, R218, R235): nothing, an entry of one
of the logs, a log's head index, or the bank copy of a metering point. -/
inductive Cut where
  | none
  | eventSlot | eventHead | sealSlot | sealHead
  | bankCopy (mp : Nat)
  | legalUncommitted
  /-- A drain of the retained buffer: before its steps 1 to 3 have completed, or after them and before step 4 (R67). -/
  | drain (committed : Bool)
  /-- The newest ledger record is half-written (R438). -/
  | ledgerRecord
  deriving DecidableEq, Repr

/-- The levels of the three switch pins (R57): true is high. -/
structure PinLevels where
  sealHigh : Bool
  coverHigh : Bool
  termHigh : Bool
  deriving DecidableEq, Repr

/-- What the front end meets at the pins of a channel, its driver and its source as a diagnostic row
happens (R103, R106, R110, R111, Table 4.6). -/
structure Sensed where
  /-- The voltages of PCHn_P and PCHn_N and VDDA, in mV. -/
  pinP : Int
  pinN : Int
  vdda : Int
  /-- The instantaneous differential input, before any integration, in nV. -/
  input : Int
  /-- VDD_EXC in mV. -/
  vddExc : Nat
  /-- The resistance that the driver's cells present behind the leads, and of its two force leads
  together, in mΩ. -/
  load : Nat
  lead : Nat
  /-- A sense pin is open. -/
  senseOpen : Bool
  /-- For how many µs without a break the driver has been at its current limit. -/
  limitUs : Nat
  /-- The resistances of the RTD and of R_REF in mΩ. -/
  rtd : Nat
  rRef : Nat
  deriving DecidableEq, Repr

/-- Everything outside the firmware that decides how a start ends (R48, R51 to R55, R59, R547,
R551, R278, R522). -/
structure StartEnv where
  /-- TEST reads high at reset release (R547). -/
  testHigh : Bool
  /-- The ROM digest matches (R48 step 1). -/
  romOk : Bool
  /-- Every OTP word passes its check (Table 2.5). -/
  otpOk : Bool
  /-- The 25 MHz crystal oscillates within 20 ms. -/
  xtal : Bool
  /-- Both PLLs lock within 2 ms. -/
  pll : Bool
  /-- The first 1,024 raw bits of the noise source after its start (R53, R274), bit 0 first. -/
  noise : BitVec 1024
  /-- The density in MiB that the flash reports to its identification read, 0 where it does not answer (R356). -/
  flash : Nat
  /-- Igfaen reaches LEGAL_READY within 1 s (R47). -/
  legalReady : Bool
  /-- Undercoat reaches READY within 2 s (R47). -/
  appReady : Bool
  /-- MCLK_IN met TRACK in every complete window, at least two, with no STOP or GLITCH (R551). -/
  mclkTrack : Bool
  /-- The wrapped reading and attestation keys pass their integrity check (R278). -/
  readingKeyOk : Bool
  attestKeyOk : Bool
  /-- The levels of KEY0 to KEY3 at LEGAL_READY, true when held down (Table 2.11). -/
  keysDown : List Bool
  /-- The die temperature in °C, for the display (R432, R434). -/
  dieTemp : Int
  /-- The first filtered (A, B) sample of each counter input (R118). -/
  counterLevels : List Bool
  deriving DecidableEq, Repr

/-- What an MRAM word that cannot be corrected holds (R354, R209, R522, R523, R248). -/
inductive ScrubFinding where
  | corrected
  | legalParam (id : Nat)
  | classNParam (id : Nat)
  | auditCounter (index valueHalf complementHalf : Nat)
  | bankCopy (mp copy : Nat)
  | calCopy (copy : Nat)
  | storeWord (store : Nat)
  | bootRecord (component : Nat)
  | otherNonLegal (word : Nat)
  deriving DecidableEq, Repr

/-- What a read of one SRAM line finds (R364). -/
inductive LineFinding where
  | good | corrected | fails
  deriving DecidableEq, Repr

/-- A SPI frame whose HSPI_CS_N rises before its status phase ends (R283): the frame, with the
whole data words received before the cut. -/
inductive CutFrame where
  | regWrite (addr : Nat) (words : List Word)
  | memWrite (addr : Nat) (words : List Word)
  | read (memory : Bool) (addr nwords : Nat)
  | other
  deriving DecidableEq, Repr

/-- One sample of the four EPD rails, in mV (R433, R436). -/
structure RailSamples where
  vPlus : Int
  vMinus : Int
  cPlus : Int
  cMinus : Int
  deriving DecidableEq, Repr

/-- A DMA descriptor as submitted (Table 13.9, R371). -/
structure Descriptor where
  src : Nat
  dst : Nat
  len : Nat
  ctrl : Nat
  next : Nat
  reservedZero : Bool
  user : Nat
  deriving DecidableEq, Repr

/-- The commands and events, one constructor for each row of the table, in the table's order. The
first operand is the time that passes before the row acts. -/
inductive Instr where
  /-- R48: Reset is released 2.0 ms after the last supply or RESET_N condition clears, and the full start runs ROM check, clocks, memory init, image check, LEGAL_START, APP_START and READY. -/
  | resetRelease (dt : Ticks) (env : StartEnv)
  /-- R53: One second after a failed entropy start-up test Primer retries, and after three failures derives the SRAM tag key and sets ENTROPY_DEGRADED. -/
  | entropyStartRetry (dt : Ticks) (noise : BitVec 1024) (env : StartEnv)
  /-- R47: The main crystal has not oscillated within 20 ms, so start stops at HALTED with XTAL_MAIN. -/
  | xtalMainTimeout (dt : Ticks)
  /-- R47: A PLL has not locked within 2 ms, so start stops at HALTED with PLL_LOCK. -/
  | pllLockTimeout (dt : Ticks)
  /-- R518: Igfaen has not reached LEGAL_READY within 1 s, which counts as an LC watchdog expiry. -/
  | legalStartFail (dt : Ticks) (env : StartEnv)
  /-- R519: Undercoat has not reached READY within 2 s of release, which is a counted AC-side restart. -/
  | appStartFail (dt : Ticks) (env : StartEnv)
  /-- R42: A supply stays below its falling threshold beyond the filter time, so reset is asserted after any MRAM word write in progress completes. -/
  | brownOut (dt : Ticks) (rail : Rail) (cut : Cut)
  /-- R43: A low pulse on RESET_N of 1 µs or longer resets the whole chip except the always-on domain. -/
  | resetPinLow (dt : Ticks) (widthNs : Nat) (cut : Cut)
  /-- R57: The always-on domain detects the loss of main power, stores a MAIN_POWER entry, and the EPD outputs are tied to 0 V. -/
  | mainPowerLoss (dt : Ticks) (cut : Cut)
  /-- R57: The always-on domain powers up from no supply, takes reference levels, empties the buffer and restarts the RTC from 2000-01-01. -/
  | aonPowerUp (dt : Ticks) (levels : PinLevels)
  /-- R99: The always-on domain loses its supply, so the RTC stops and RTC_VALID clears. -/
  | aonSupplyLoss (dt : Ticks)
  /-- R57: Every 125 ms the always-on domain samples SEAL_N and the tamper inputs, stores an entry for each level change, and counts transitions to low. -/
  | tamperSample (dt : Ticks) (levels : PinLevels)
  /-- R58: Igfaen drains the retained buffer, logging the entries, adding the counts, committing the epoch, and then removing the drained part. -/
  | retainedDrain (dt : Ticks)
  /-- R59: A timed phase of the start display sequence ends, and the next of ALL_ON, ALL_OFF, LCV and normal composition begins. -/
  | displaySequencePhaseEnd (dt : Ticks) (mismatch : Bool)
  /-- R517: The lockstep checker finds differing LC outputs, blocks them and starts an LC-side restart. -/
  | lockstepMismatch (dt : Ticks) (env : StartEnv)
  /-- R516: The LC watchdog expires and causes an LC-side restart. -/
  | lcWatchdogExpiry (dt : Ticks) (env : StartEnv)
  /-- R516: The AC watchdog expires and causes an AC-side restart. -/
  | acWatchdogExpiry (dt : Ticks) (env : StartEnv)
  /-- R367: The LC, or the FA writing the sample buffer, receives INTEGRITY, which causes an LC-side restart. -/
  | lcIntegrityFault (dt : Ticks) (env : StartEnv)
  /-- R520: An AC load or fetch outside the Hawk area and the capture region returns INTEGRITY, which causes an AC-side restart. -/
  | acIntegrityFault (dt : Ticks) (addr : Nat) (env : StartEnv)
  /-- R521: The main crystal or PLL_SYS fails, so the system domain moves to the internal RC oscillator, the FA stops and links go down. -/
  | mainClockFault (dt : Ticks)
  /-- R521: Each second the GL640 retries PLL_SYS and returns to it once the lock has held for 1 s, after which the chains restart. -/
  | pllRestartTry (dt : Ticks) (locked : Bool)
  /-- R520: PLL_DSP unlocks, so the FA stops and relock is tried every second. -/
  | dspClockFault (dt : Ticks)
  /-- R89: MCLK_IN stops or glitches, so the modulator clock switches to XO_MOD, chains restart and the latch is checked. -/
  | mclkStop (dt : Ticks) (glitchPs : Option Nat)
  /-- R88: A 1 ms window of the period monitor closes and MCLK_IN is classified TRACK or out of range, which can declare RELOCK. -/
  | mclkWindow (dt : Ticks) (meanPpm : Int) (periodsOk : Bool)
  /-- R93: MCLK_IN has met TRACK cleanly for 1 s, so the modulator domain switches back to MCLK_IN. -/
  | mclkReturn (dt : Ticks)
  /-- R94: XO_MOD stops while it is the source, so every channel stops. -/
  | xoModLost (dt : Ticks)
  /-- R94: Each second the GL640 restarts XO_MOD and logs XO_MOD_RESTORED when it runs. -/
  | xoModRestartTry (dt : Ticks) (runs : Bool)
  /-- R73: Every 6,144 f_MOD cycles the NTU stamps the modulator epoch with node time. -/
  | modEpoch (dt : Ticks)
  /-- R78: |NET_SLEW| reaches a new whole second and TIME/SLEW_SECOND is logged. -/
  | slewSecond (dt : Ticks)
  /-- R78: |NET_SLEW| reaches 60 s, so RATE_ADJ that would increase it is ignored and the clamp is logged. -/
  | slewClamp (dt : Ticks)
  /-- R82: No discipline offset has arrived for 60 s, so FINE falls to COARSE. -/
  | fineHoldoverExpiry (dt : Ticks)
  /-- R85: While FINE the LC writes the RTC from node time every 3,600 s and sets its trim. -/
  | rtcHourlyWrite (dt : Ticks)
  /-- R117: An accepted filtered edge on a SINGLE counter adds 1 to its 32-bit count. -/
  | counterInputEdge (dt : Ticks) (cnt : Nat) (rising : Bool) (heldNs : Nat)
  /-- R118: A change of a quadrature pair moves the position, counts forward or reverse cycles, or counts an illegal transition. -/
  | quadTransition (dt : Ticks) (cnt : Nat) (a b : Bool) (heldANs heldBNs : Nat)
  /-- R117: Every 10 ms the NTU latches every counter with a node-time stamp, and WATER and HEAT volumes accrue from the differences. -/
  | counterLatch (dt : Ticks)
  /-- R136: A chain forms an output record with value, status and SEQ and writes it to the sample buffer and any capture ring. -/
  | faOutput (dt : Ticks) (pch : Nat) (words : List (BitVec 4)) (x3Held : Bool)
  /-- R134: No crossing for 33.3 ms, or a period out of range, puts LINE resamplers into hold with LINE_HOLD. -/
  | lineHoldTimeout (dt : Ticks) (pch : Nat)
  /-- R137: With no lock 100 ms after the reference has settled, the resampler settles in hold. -/
  | lineLockTimeout (dt : Ticks) (pch : Nat)
  /-- R111: A front-end diagnostic condition sets its status bit, makes the affected metering points INCOMPLETE and is logged. -/
  | diagBitSet (dt : Ticks) (pch bit : Nat) (seen : Sensed)
  /-- R113: An invalidating condition has been absent for 100 ms, so the bit clears and the chain restarts. -/
  | diagBitClear (dt : Ticks) (pch bit : Nat) (seen : Sensed)
  /-- R114: Ten seconds without a transition ends a burst, and one summary event with the unlogged count is logged. -/
  | diagSummary (dt : Ticks) (pch : Nat)
  /-- R141: A qualified rising edge on SYNC_IN causes a sync event, or is counted as ignored. -/
  | syncInEdge (dt : Ticks) (lowLow highHigh : Bool)
  /-- R141: The NTU comparator fires at t − 81.4 ns and the armed SYNC_AT resets the decimators. -/
  | syncAtFire (dt : Ticks) (afterPs : Nat)
  /-- R184: An ELEC analysis cycle completes and P, Q and S per phase and in total are formed and accrued with direction. -/
  | analysisCycle (dt : Ticks) (mp : Nat)
  /-- R155: With the records of every cell at one position, Igfaen computes S, m, gross and net, stability, zero tracking and the indication. -/
  | weighPosition (dt : Ticks) (mp : Nat)
  /-- R168: An open transaction's timeout expires, so it is closed without record, logged and reported by an unsolicited reply. -/
  | weighTimeout (dt : Ticks) (mp : Nat)
  /-- R193: At each whole second of node time Igfaen commits the amounts to the registers under the tariff and writes the bank copy. -/
  | commitSecond (dt : Ticks)
  /-- R244: At the first minute boundary at or after ACTIVATE_AT with time not INVALID, the passive calendar becomes active and is logged. -/
  | calendarActivation (dt : Ticks)
  /-- R450: A debounced press on a KEY input is accepted or ignored and dispatched by KEY_FUNC. -/
  | keyPress (dt : Ticks) (key : Nat) (second : Bool)
  /-- R222: A SHOW_LCV screen left for 5 s returns the display to the indication. -/
  | showLcvTimeout (dt : Ticks)
  /-- R450: A key that has been down for 60 s is stuck, its press is ignored and it is counted. -/
  | keyStuck (dt : Ticks) (key : Nat)
  /-- R214: An open calibration sequence without an accepted step for 3,600 s is discarded and logged. -/
  | calIdleTimeout (dt : Ticks)
  /-- R171: Undercoat computes the provisional gross from capture copies and updates the NLMS canceller and the shown value. -/
  | provUpdate (dt : Ticks) (mp : Nat)
  /-- R172: At least every 100 ms Undercoat reads legal stability and blanks the provisional field when the legal path is stable. -/
  | provStabilityPoll (dt : Ticks) (mp : Nat)
  /-- R195: Once per second Undercoat computes harmonics from capture copies and posts a HARMONIC record on BULK. -/
  | harmonicSecond (dt : Ticks) (mp : Nat)
  /-- R28: The LC serves READ_STATUS and replies with the seal state, counters and measurement status. -/
  | gateReadStatus (dt : Ticks)
  /-- R233: The LC serves READ_REGISTERS with the values of the latest completed commit. -/
  | gateReadRegisters (dt : Ticks)
  /-- R263: The LC builds, numbers and signs a snapshot reading, or re-signs a stored transaction. -/
  | gateSignReading (dt : Ticks)
  /-- R219: The LC returns consecutive entries of the event log or the seal log with head numbers. -/
  | gateReadLog (dt : Ticks)
  /-- R266: The LC commits ASEQ and signs an attestation report over the slots and the requester nonce. -/
  | gateAttest (dt : Ticks)
  /-- R224: The LC checks and applies a legal-side parameter write, updating counter, logs and slot 7 as one step. -/
  | gateSetParam (dt : Ticks)
  /-- R79: The LC applies an owner-authenticated node-time step or UTC offset, logs it and resets NET_SLEW. -/
  | gateSetTime (dt : Ticks)
  /-- R240: The LC checks a calendar and its authentication and replaces the passive calendar. -/
  | gateLoadCalendar (dt : Ticks)
  /-- R498: The LC checks the owner authentication and sets OWNER_LOCK. -/
  | gateSetOwnerLock (dt : Ticks)
  /-- R165: The LC opens a waste transaction, sets any preset tare and assigns the transaction number. -/
  | gateWeighBegin (dt : Ticks)
  /-- R166: The LC checks a gross or final pass and on a final pass accrues the net and signs the transaction reading. -/
  | gateWeighCommit (dt : Ticks)
  /-- R168: The LC closes the open transaction with no record and no accrual. -/
  | gateWeighCancel (dt : Ticks)
  /-- R212: The CALIBRATE BEGIN step opens a calibration sequence for a settled metering point. -/
  | calBegin (dt : Ticks)
  /-- R212: The CALIBRATE ZERO step stages the mean S of a stable window as the zero point. -/
  | calZero (dt : Ticks)
  /-- R212: The CALIBRATE CORNER step records ΔS for a test load over one cell. -/
  | calCorner (dt : Ticks)
  /-- R212: The CALIBRATE SPAN step records ΔS for the centred reference load. -/
  | calSpan (dt : Ticks)
  /-- R212: The CALIBRATE ELEC_REF step averages 50 cycles of one phase and stages KV, KI and TAU. -/
  | calElecRef (dt : Ticks)
  /-- R212: The CALIBRATE RREF step stages the measured R_REF of one RTD source. -/
  | calRref (dt : Ticks)
  /-- R213: The CALIBRATE COMMIT step checks the staged set and writes the block, CALCNT, log entries and slot 6 as one step. -/
  | calCommit (dt : Ticks)
  /-- R214: The CALIBRATE ABORT step discards the open sequence and logs the abort. -/
  | calAbort (dt : Ticks)
  /-- R502: The LC verifies the manifests, applies checks 5 to 10 and revokes the guard windows of the legal banks. -/
  | gateActivateLegal (dt : Ticks)
  /-- R502: At the next whole second after its commit the LC retests the seal, makes the bank active in TRIAL, replies DONE and restarts the legal side. -/
  | legalActivationSwitch (dt : Ticks) (env : StartEnv)
  /-- R220: The LC checks the digest, signs an event reading, clears the seal log and increases SLARCH. -/
  | gateSealLogArchive (dt : Ticks)
  /-- R221: The LC signs an event reading over a NONE bank's digest, zeroes the bank and increases CFGCNT. -/
  | gateRegArchive (dt : Ticks)
  /-- R28: A reserved gate code is answered BAD_OPCODE and logged as a gate reject. -/
  | gateReservedCode (dt : Ticks)
  /-- R28: The AC takes a gate reply, solicited or unsolicited, and completes the command or posts the event or reading. -/
  | gateReplyReceive (dt : Ticks)
  /-- R37: Self-scheduled AC work that needs the gate is submitted once a request slot frees. -/
  | gateSlotFreeSubmit (dt : Ticks)
  /-- R299: A signed reading waiting in the delivery queue is posted on BULK and appended to the profile store once room exists. -/
  | readingDelivery (dt : Ticks)
  /-- R281: An SPI MEM_READ frame reads words of the Hawk area with per-word checks. -/
  | memRead (dt : Ticks) (addr nwords : Nat) (failing : List Nat)
  /-- R281: An SPI MEM_WRITE frame writes words to COMMAND or the host region, with full-line or partial writes. -/
  | memWrite (dt : Ticks) (addr : Nat) (words : List Word) (failing : List Nat)
  /-- R280: An SPI frame with a reserved code performs nothing and returns BAD_OPCODE. -/
  | spiReservedFrame (dt : Ticks) (code : Nat)
  /-- R283: HSPI_CS_N rises before the status phase, so whole words stand, FRAME_ERR increases and SPI_ERR sets. -/
  | spiFrameCut (dt : Ticks) (cut : CutFrame)
  /-- R285: A REG_WRITE to a host-window register with no behaviour of its own stores the value or is ignored. -/
  | registerWrite (dt : Ticks) (addr : Nat) (words : List Word)
  /-- R46: Writing 1 to a bit of HW.RESET_CAUSE clears that bit. -/
  | resetCauseWrite (dt : Ticks) (value : Word)
  /-- R300: Writing 1 to a WC bit of HW.IRQ_STATUS clears it and may release HIRQ_N. -/
  | irqStatusWrite (dt : Ticks) (value : Word)
  /-- R314: HAWK_RESET disables the rings, completes host commands in flight, resets ring registers and the pool, and re-enables the rings. -/
  | hawkReset (dt : Ticks)
  /-- R284: A read of HW.NODE_TIME_LO latches node time so that HW.NODE_TIME_HI returns the same value. -/
  | nodeTimeLatch (dt : Ticks) (addr nwords : Nat)
  /-- R298: A read of HW.EVENT_LOST returns the count and clears it. -/
  | eventLostRead (dt : Ticks) (nwords : Nat)
  /-- R299: A read of HW.BULK_DROPPED returns the count and clears it. -/
  | bulkDroppedRead (dt : Ticks) (nwords : Nat)
  /-- R288: A write of HW.RING0_TAIL advances the COMMAND ring, or is ignored with IDX_ERR. -/
  | commandDoorbell (dt : Ticks) (tail : Word)
  /-- R288: A write of HW.RINGn_HEAD frees consumed entries and bulk buffers, or is ignored with IDX_ERR. -/
  | ringHeadWrite (dt : Ticks) (ring : Nat) (head : Word)
  /-- R286: Setting ENABLE on a ring checks its placement, resets HEAD and TAIL, and sets ACTIVE or CFG_ERR. -/
  | ringEnable (dt : Ticks) (ring : Nat) (cfg : Word)
  /-- R309: Clearing ENABLE quiesces the ring, aborting untaken commands or holding responses. -/
  | ringDisable (dt : Ticks) (ring : Nat) (cfg : Word)
  /-- R294: Undercoat takes the next COMMAND entry when room and the in-flight limit allow, checks it and reserves a RESPONSE entry. -/
  | commandTake (dt : Ticks) (failing : Bool)
  /-- R301: The oldest unconsumed entry of a ring has waited COAL_US, so the AVAIL bit sets. -/
  | coalesceTimerExpiry (dt : Ticks) (ring : Nat)
  /-- R304: A whole Rilfy frame arrives over USB or the optical head and is checked and fed to the command processor, or discarded. -/
  | rilfyFrameReceive (dt : Ticks) (port : Origin) (frame : Bytes)
  /-- R317: GET_INFO returns the chip ID, versions, NODE_ID, LCV and boot registers. -/
  | getInfo (dt : Ticks) (c : Call) (p : Bytes)
  /-- R321: READ_STATUS returns the extension named by EXT through the gate. -/
  | readStatus (dt : Ticks) (c : Call) (p : Bytes)
  /-- R339: GET_PARAM returns a parameter's stored value or default, and clears RC fields such as those of TCH_STATE. -/
  | getParam (dt : Ticks) (c : Call) (p : Bytes)
  /-- R341: SET_PARAM checks a parameter write and stores it or forwards it to the LC. -/
  | setParam (dt : Ticks) (c : Call) (p : Bytes)
  /-- R339: GET_PARAM_INFO returns a parameter's size, class, class rule, route and whether it has been written. -/
  | getParamInfo (dt : Ticks) (c : Call) (p : Bytes)
  /-- R320: SYSTEM_RESET posts DONE and causes a full start with HOST_CMD within 10 ms. -/
  | systemReset (dt : Ticks) (c : Call) (p : Bytes) (env : StartEnv)
  /-- R317: PING echoes its data unchanged. -/
  | ping (dt : Ticks) (c : Call) (p : Bytes)
  /-- R322: CHAIN_INFO returns fs2, fs3, delay and settling of a channel's stored chain. -/
  | chainInfo (dt : Ticks) (c : Call) (p : Bytes)
  /-- R145: SYNC_NOW triggers a sync event after its checks. -/
  | syncNow (dt : Ticks) (c : Call) (p : Bytes) (latePs : Nat)
  /-- R145: SYNC_AT arms the NTU comparator for node time t after its checks. -/
  | syncAt (dt : Ticks) (c : Call) (p : Bytes)
  /-- R145: SYNC_STATUS returns the last sync source, the armed time and the hold-off end. -/
  | syncStatus (dt : Ticks) (c : Call) (p : Bytes)
  /-- R212: CALIBRATE forwards one calibration step to the LC as a gate request. -/
  | calibrate (dt : Ticks) (c : Call) (p : Bytes)
  /-- R165: WEIGH_BEGIN inserts WG_TXN_TIMEOUT and forwards the transaction opening to the LC. -/
  | weighBegin (dt : Ticks) (c : Call) (p : Bytes)
  /-- R166: WEIGH_COMMIT forwards a gross or final pass to the LC. -/
  | weighCommit (dt : Ticks) (c : Call) (p : Bytes)
  /-- R168: WEIGH_CANCEL forwards the cancellation of the open transaction. -/
  | weighCancel (dt : Ticks) (c : Call) (p : Bytes)
  /-- R323: PROV_SAMPLES delivers host-forwarded accelerometer samples to the provisional path. -/
  | provSamples (dt : Ticks) (c : Call) (p : Bytes)
  /-- R323: PROV_STATUS reports whether the provisional field is shown and its drop and reset counts. -/
  | provStatus (dt : Ticks) (c : Call) (p : Bytes)
  /-- R233: READ_REGISTERS returns register values of one commit through the gate. -/
  | readRegisters (dt : Ticks) (c : Call) (p : Bytes)
  /-- R263: SIGN_READING requests a signed snapshot or transaction reading through the gate. -/
  | signReading (dt : Ticks) (c : Call) (p : Bytes)
  /-- R219: READ_LOG requests log entries through the gate. -/
  | readLog (dt : Ticks) (c : Call) (p : Bytes)
  /-- R220: SEAL_LOG_ARCHIVE requests archiving and clearing of the seal log. -/
  | sealLogArchive (dt : Ticks) (c : Call) (p : Bytes)
  /-- R324: PROFILE_READ returns stored profile readings from FROM, oldest first. -/
  | profileRead (dt : Ticks) (c : Call) (p : Bytes)
  /-- R324: PROFILE_STATUS returns the counts and time span of the profile store. -/
  | profileStatus (dt : Ticks) (c : Call) (p : Bytes)
  /-- R324: READ_EXTERNAL returns the external heat and volume registers, tagged EXTERNAL. -/
  | readExternal (dt : Ticks) (c : Call) (p : Bytes)
  /-- R221: REG_ARCHIVE requests archiving and clearing of a NONE metering point's bank. -/
  | regArchive (dt : Ticks) (c : Call) (p : Bytes)
  /-- R325: GET_TIME returns node time, status, offset, RATE_ADJ, NET_SLEW and RTC_VALID. -/
  | getTime (dt : Ticks) (c : Call) (p : Bytes)
  /-- R325: SET_TIME forwards a step or set of node time with the owner authentication. -/
  | setTime (dt : Ticks) (c : Call) (p : Bytes)
  /-- R550: DISCIPLINE feeds one offset to the discipline law and updates RATE_ADJ and the lock count. -/
  | discipline (dt : Ticks) (c : Call) (p : Bytes)
  /-- R240: LOAD_CALENDAR forwards a signed passive calendar to the LC. -/
  | loadCalendar (dt : Ticks) (c : Call) (p : Bytes)
  /-- R327: READ_CALENDAR returns the active or passive calendar and its state. -/
  | readCalendar (dt : Ticks) (c : Call) (p : Bytes)
  /-- R327: TARIFF_STATUS returns the tariff, its source and the next switch. -/
  | tariffStatus (dt : Ticks) (c : Call) (p : Bytes)
  /-- R498: SET_OWNER_LOCK forwards an owner-signed lock value to the LC. -/
  | setOwnerLock (dt : Ticks) (c : Call) (p : Bytes)
  /-- R327: OWNER_STATUS returns whether a key is set, the lock and the owner counter. -/
  | ownerStatus (dt : Ticks) (c : Call) (p : Bytes)
  /-- R328: COMM_SEGMENTS writes raw segment bits of one common into the commercial staging copy. -/
  | commSegments (dt : Ticks) (c : Call) (p : Bytes)
  /-- R424: COMM_DIGITS renders text into a commercial digit group's staging copy. -/
  | commDigits (dt : Ticks) (c : Call) (p : Bytes)
  /-- R423: STATUS_ICONS sets and clears status-layer icon bits in the staging copy. -/
  | statusIcons (dt : Ticks) (c : Call) (p : Bytes)
  /-- R328: COMM_COMMIT marks the staged layers ready and completes after the frame boundary that composes them. -/
  | commCommit (dt : Ticks) (c : Call) (p : Bytes)
  /-- R442: DISPLAY_STATUS returns mode, flags, VLCD, frames, the largest ledger and the temperature band. -/
  | displayStatus (dt : Ticks) (c : Call) (p : Bytes)
  /-- R329: FABRIC_STATUS returns role, address, manager, links, node count and offset. -/
  | fabricStatus (dt : Ticks) (c : Call) (p : Bytes)
  /-- R393: PORT_STATUS returns a port's state, peer and counters. -/
  | portStatus (dt : Ticks) (c : Call) (p : Bytes)
  /-- R329: PORT_ENABLE enables or disables a fabric port. -/
  | portEnable (dt : Ticks) (c : Call) (p : Bytes)
  /-- R399: NODE_LIST returns entries of the LSA database. -/
  | nodeList (dt : Ticks) (c : Call) (p : Bytes)
  /-- R400: ROUTE_TABLE returns entries of the routing table. -/
  | routeTable (dt : Ticks) (c : Call) (p : Bytes)
  /-- R392: INSTALL_LINK_KEY writes a port's link key and restarts bring-up of a link that is up. -/
  | installLinkKey (dt : Ticks) (c : Call) (p : Bytes)
  /-- R407: On a manager, TUNNEL_SEND sends a command to a worker as BULK frames and a TUNNEL_CMD. -/
  | tunnelSend (dt : Ticks) (c : Call) (p : Bytes)
  /-- R504: UPDATE_STATUS returns bank states, trial time left, VBAT and the lock. -/
  | updateStatus (dt : Ticks) (c : Call) (p : Bytes)
  /-- R494: STAGE_BEGIN checks the request, marks the inactive bank STAGED and erases its sectors. -/
  | stageBegin (dt : Ticks) (c : Call) (p : Bytes)
  /-- R495: STAGE_DATA programs the next bytes of the staged image. -/
  | stageData (dt : Ticks) (c : Call) (p : Bytes)
  /-- R496: STAGE_END checks the transfer CRC and closes the staging. -/
  | stageEnd (dt : Ticks) (c : Call) (p : Bytes)
  /-- R496: STAGE_ABORT closes the staging and leaves the bank EMPTY. -/
  | stageAbort (dt : Ticks) (c : Call) (p : Bytes)
  /-- R499: ACTIVATE checks and starts the activation of a component's VALID or CONFIRMED inactive bank. -/
  | activate (dt : Ticks) (c : Call) (p : Bytes) (env : StartEnv)
  /-- R490: READ_MANIFEST returns the 256-byte manifest of a bank. -/
  | readManifest (dt : Ticks) (c : Call) (p : Bytes)
  /-- R266: ATTEST requests an attestation report through the gate. -/
  | attest (dt : Ticks) (c : Call) (p : Bytes)
  /-- R332: READ_CERT returns DER bytes of a certificate from OFFSET. -/
  | readCert (dt : Ticks) (c : Call) (p : Bytes)
  /-- R269: CTX_OPEN opens a crypto engine context for SHA-256 or GCM at a priority. -/
  | ctxOpen (dt : Ticks) (c : Call) (p : Bytes)
  /-- R332: CTX_UPDATE feeds AAD or text into an open context. -/
  | ctxUpdate (dt : Ticks) (c : Call) (p : Bytes)
  /-- R332: CTX_FINAL completes the context's digest, tag or verified plaintext. -/
  | ctxFinal (dt : Ticks) (c : Call) (p : Bytes)
  /-- R269: CTX_ABORT closes a context and zeroes it. -/
  | ctxAbort (dt : Ticks) (c : Call) (p : Bytes)
  /-- R331: SIGN signs a digest with an AC key slot using a deterministic nonce. -/
  | sign (dt : Ticks) (c : Call) (p : Bytes)
  /-- R271: VERIFY checks the public key and verifies an ECDSA signature. -/
  | verify (dt : Ticks) (c : Call) (p : Bytes)
  /-- R331: ECDH derives a shared secret into an AES-256 key slot. -/
  | ecdh (dt : Ticks) (c : Call) (p : Bytes)
  /-- R331: KEYGEN generates a P-256 key pair into a slot and returns the public key. -/
  | keygen (dt : Ticks) (c : Call) (p : Bytes)
  /-- R331: KEY_LOAD stores a key into an AC key slot. -/
  | keyLoad (dt : Ticks) (c : Call) (p : Bytes)
  /-- R331: KEY_ERASE erases an AC key slot. -/
  | keyErase (dt : Ticks) (c : Call) (p : Bytes)
  /-- R274: RANDOM returns bytes from the DRBG. -/
  | random (dt : Ticks) (c : Call) (p : Bytes)
  /-- R275: ENTROPY_STATUS returns the entropy flags and health counters. -/
  | entropyStatus (dt : Ticks) (c : Call) (p : Bytes)
  /-- R333: CAPTURE_START starts Skim-coded capture of the masked channels onto BULK. -/
  | captureStart (dt : Ticks) (c : Call) (p : Bytes)
  /-- R333: CAPTURE_STOP ends the capture at the next block boundary. -/
  | captureStop (dt : Ticks) (c : Call) (p : Bytes)
  /-- R334: SEPARATION_TEST makes the AC attempt the seven blocked accesses and reports each result. -/
  | separationTest (dt : Ticks) (c : Call) (p : Bytes)
  /-- R525: DIAG_COUNTERS returns diagnostic counters by index. -/
  | diagCounters (dt : Ticks) (c : Call) (p : Bytes)
  /-- R334: MBUS_LIST returns the state of M-Bus table entries. -/
  | mbusList (dt : Ticks) (c : Call) (p : Bytes)
  /-- R465: MBUS_READ returns the raw user data of an entry's last valid long frame. -/
  | mbusRead (dt : Ticks) (c : Call) (p : Bytes)
  /-- R268: A crypto engine operation completes and posts its result and suspension count. -/
  | cryptoJobComplete (dt : Ticks) (ctx : Nat)
  /-- R270: An LC open with all contexts held saves the lowest-priority AC job at its next boundary and grants the context to the LC. -/
  | cryptoPreempt (dt : Ticks)
  /-- R275: A health-test failure marks the DRBG unseeded and fails waiting random requests. -/
  | entropyHealthFail (dt : Ticks) (bits : List Bool)
  /-- R275: One second after a failure the noise source restarts its tests and reseeds the DRBG, or latches after three failures. -/
  | entropySourceRestart (dt : Ticks) (noise : BitVec 1024)
  /-- R274: After 65,536 generate calls or 60 s the DRBG reseeds. -/
  | drbgReseed (dt : Ticks)
  /-- R425: At a frame boundary ready staging copies become live and the composite image is formed, and an EPD update may start. -/
  | displayFrameBoundary (dt : Ticks) (dieTemp : Int)
  /-- R426: The LC writes the legal image at a change, and at least every 500 ms. -/
  | legalImageWrite (dt : Ticks)
  /-- R426: Two seconds without a legal image replace the legal layer with dashes and set LEGAL_STALE. -/
  | legalStale (dt : Ticks)
  /-- R435: A phase of an EPD waveform or compensation pulse ends and the next phase's levels are driven. -/
  | epdPhaseEnd (dt : Ticks) (rails : List RailSamples)
  /-- R438: An EPD update ends, the CLOSED ledger record is written and compensation is started where needed. -/
  | epdUpdateEnd (dt : Ticks)
  /-- R440: An output mismatching in two consecutive frames or phases is in error and may latch a legal display error. -/
  | readbackMismatch (dt : Ticks) (output : Nat) (measured : Int)
  /-- R441: While a legal display error is latched the legal layer shows Err d for 1 s in every 5 s. -/
  | legalErrorFlash (dt : Ticks)
  /-- R432: Once per second VLCD is recomputed from the die temperature. -/
  | vlcdUpdate (dt : Ticks) (dieTemp : Int)
  /-- R451: Every 20 ms each enabled pad is scanned, its baseline tracked and PRESSED, RELEASED or RECAL set. -/
  | touchScan (dt : Ticks) (raws : List Nat)
  /-- R455: Every 10 s the LC measures VBAT and updates the low-battery state. -/
  | vbatMeasure (dt : Ticks) (mv : Nat)
  /-- R457: VBUS at or above 4.1 V for 50 ms switches on the D+ pull-up and starts a service session. -/
  | vbusValid (dt : Ticks)
  /-- R457: VBUS below 3.8 V for 1 ms switches off the pull-up and ends the session. -/
  | vbusInvalid (dt : Ticks)
  /-- R459: An IEC 62056-21 sign-on that addresses the node is answered with the identification message. -/
  | optSignOn (dt : Ticks) (msg : Bytes)
  /-- R459: The ACK option message starts a mode C readout at rate Z, or switches the port to Rilfy. -/
  | optOptionSelect (dt : Ticks) (msg : Bytes)
  /-- R459: A reader message incomplete 1,500 ms after its expected start returns the port to idle and is counted. -/
  | optMessageTimeout (dt : Ticks)
  /-- R461: Thirty seconds without a valid frame end the optical Rilfy session. -/
  | optRilfyIdleTimeout (dt : Ticks)
  /-- R464: At a multiple of MBUS_PERIOD a poll cycle starts, or is skipped if the previous one still runs. -/
  | mbusPollCycle (dt : Ticks)
  /-- R465: A valid M-Bus reply is stored and its volume used for a HEAT subtype 1 metering point. -/
  | mbusReply (dt : Ticks) (frame : Bytes)
  /-- R464: No valid reply within the wait repeats the request, or fails the poll after the third try. -/
  | mbusReplyTimeout (dt : Ticks)
  /-- R393: 200 ms after FE start or enable, a port leaves QUIET for SEEKING or NO_KEY. -/
  | quietEnd (dt : Ticks) (port : Nat)
  /-- R393: A SEEKING or UP port sends its HELLO after the jitter and then every 250 ms. -/
  | helloTimer (dt : Ticks) (port : Nat)
  /-- R394: A received HELLO advances link bring-up, completes a session renewal or takes the link down. -/
  | helloReceive (dt : Ticks) (port : Nat) (frame : Bytes)
  /-- R395: No authenticated frame for 1,000 ms takes the link down. -/
  | linkSilenceTimeout (dt : Ticks) (port : Nat)
  /-- R391: At session age 3,600 s, and every 60 s after while it has not completed, the lower NODE_ID end starts a key renewal. -/
  | sessionRenewal (dt : Ticks) (port : Nat)
  /-- R391: At session age 7,200 s the link goes down. -/
  | sessionDeadline (dt : Ticks) (port : Nat)
  /-- R399: A newer LSA is stored and re-flooded on every other UP port. -/
  | lsaReceive (dt : Ticks) (port : Nat) (frame : Bytes)
  /-- R399: A node re-originates its LSA every 10 s, or within 250 ms of a change. -/
  | lsaRefresh (dt : Ticks)
  /-- R399: A database entry not refreshed for 35 s is removed. -/
  | lsaAgeOut (dt : Ticks) (nodeId : Nat)
  /-- R400: Within 200 ms of a database change the node recomputes shortest paths. -/
  | routeCompute (dt : Ticks)
  /-- R397: A TENTATIVE address with a link UP and no conflict for 1,000 ms becomes ASSIGNED. -/
  | addressAssign (dt : Ticks)
  /-- R406: Election is evaluated first 1,500 ms after QUIET ends, and a changed result takes effect after standing 500 ms. -/
  | electionEvaluate (dt : Ticks)
  /-- R401: Every 125 ms each end of an UP link sends a TIME_REQ. -/
  | timeReqTimer (dt : Ticks) (port : Nat)
  /-- R401: A TIME_REQ is stamped t2 and its response is scheduled for t3. -/
  | timeReqReceive (dt : Ticks) (port : Nat) (frame : Bytes)
  /-- R401: At t3 the scheduled TIME_RESP leaves with t2, t3 and the time status. -/
  | timeRespSend (dt : Ticks) (port : Nat)
  /-- R401: A TIME_RESP is stamped t4, and offset and delay are computed. -/
  | timeRespReceive (dt : Ticks) (port : Nat) (frame : Bytes)
  /-- R402: Once per second a WORKER feeds the median offset from its upstream to the discipline law. -/
  | fabricDisciplineSecond (dt : Ticks)
  /-- R407: A worker assembles and runs a TUNNEL_CMD from the manager as origin FABRIC. -/
  | tunnelCmdReceive (dt : Ticks) (port : Nat) (frame : Bytes)
  /-- R407: The manager assembles a TUNNEL_RESP and completes TUNNEL_SEND. -/
  | tunnelRespReceive (dt : Ticks) (port : Nat) (frame : Bytes)
  /-- R407: A BULK frame piece is appended to its tunnel's assembly, or drops the tunnel. -/
  | tunnelBulkReceive (dt : Ticks) (port : Nat) (frame : Bytes)
  /-- R407: Pieces not followed by their closing frame within 2 s are discarded. -/
  | tunnelPieceTimeout (dt : Ticks) (tunnel : Nat)
  /-- R329: No tunnel response within 10 s completes TUNNEL_SEND with TIMEOUT. -/
  | tunnelResponseTimeout (dt : Ticks) (tunnel : Nat)
  /-- R408: Every 10 s the manager tunnels differing calendar or lock items to workers. -/
  | distributionRepeat (dt : Ticks)
  /-- R409: The manager posts a forwarded READING as FABRIC_READING and answers READING_ACK. -/
  | readingReceive (dt : Ticks) (port : Nat) (frame : Bytes)
  /-- R409: A worker removes the acknowledged reading from its forward queue. -/
  | readingAckReceive (dt : Ticks) (port : Nat) (frame : Bytes)
  /-- R409: A reading unacknowledged for 2 s is resent to the manager. -/
  | readingResend (dt : Ticks) (rid : Nat)
  /-- R388: A routed frame for another node is forwarded with HOP_LIMIT decremented, or dropped. -/
  | routedFrameForward (dt : Ticks) (port : Nat) (frame : Bytes)
  /-- R387: A frame that fails CRC, length, authentication or reserved checks is dropped and counted. -/
  | frameReject (dt : Ticks) (port : Nat) (frame : Bytes)
  /-- R411: When the line is free a port sends the next queued frame in class priority order. -/
  | portTransmit (dt : Ticks) (port : Nat)
  /-- R371: A DMA descriptor is submitted, checked and started, or refused before any byte. -/
  | dmaSubmit (dt : Ticks) (ch prio index : Nat) (descs : List Descriptor) (root : Nat) (tables : List (Nat × Word))
  /-- R375: An IOMMU walk translates a page or suspends or aborts the channel by cause. -/
  | dmaPageWalk (dt : Ticks) (ch : Nat) (failing : List Nat)
  /-- R377: A higher-priority ready channel pre-empts a running channel at its next granule boundary. -/
  | dmaPreempt (dt : Ticks) (ch granules : Nat)
  /-- R378: The AC resumes a suspended channel from DONE. -/
  | dmaResume (dt : Ticks) (ch : Nat)
  /-- R378: The AC aborts a suspended channel and every later descriptor of its chain. -/
  | dmaAbort (dt : Ticks) (ch : Nat)
  /-- R379: A channel is disabled and its descriptor and chain become ABORTED. -/
  | dmaChannelDisable (dt : Ticks) (ch granules : Nat)
  /-- R379: A descriptor completes DONE and the next descriptor of its chain starts. -/
  | dmaTransferEnd (dt : Ticks) (ch : Nat) (failing : List Nat)
  /-- R374: The AC invalidates one TLB page or the whole TLB. -/
  | iommuInvalidate (dt : Ticks) (page : Option Nat) (tables : List (Nat × Word))
  /-- R376: The LC revokes a guard window and invalidates every TLB entry inside it. -/
  | guardWindowRevoke (dt : Ticks) (window : Nat)
  /-- R376: The LC releases the guard windows at LEGAL_READY. -/
  | guardWindowRelease (dt : Ticks)
  /-- R354: The MRAM scrubber reads words over 24 h and corrects single-bit errors. -/
  | mramScrub (dt : Ticks) (finding : ScrubFinding)
  /-- R366: Every 406.9 µs the scrubber checks one SRAM line and corrects or poisons it. -/
  | sramScrubLine (dt : Ticks) (line : Nat) (finding : LineFinding)
  /-- R358: A flash erase completes, is blank-checked and journalled ERASED, or retried and marked BAD. -/
  | flashEraseComplete (dt : Ticks) (sector : Nat) (good : Bool)
  /-- R361: A flash program completes and the store head advances. -/
  | flashProgramComplete (dt : Ticks)
  /-- R361: Archive records are committed in batches by updating the head word at most every 100 ms. -/
  | archiveHeadCommit (dt : Ticks)
  /-- R480: Undercoat takes a completed capture line and adds the records to the Skim block in progress. -/
  | captureRecord (dt : Ticks) (pch : Nat)
  /-- R501: A non-legal component that has not ended its pause 1.8 s after the switch is restarted and reverted. -/
  | nonlegalActivationTimeout (dt : Ticks) (env : StartEnv)
  /-- R502: Igfaen that has not re-enabled its channels 650 ms after s is restarted and reverted. -/
  | legalActivationTimeout (dt : Ticks) (env : StartEnv)
  /-- R505: A component in TRIAL that passes every health check becomes CONFIRMED and posts UPDATE. -/
  | trialConfirm (dt : Ticks) (component : Nat)
  /-- R506: A component still in TRIAL after 300 s is restarted and reverted to its previous bank. -/
  | trialWatchdogExpiry (dt : Ticks) (component : Nat) (env : StartEnv)
  /-- R57: The supervisor detects the return of main power and the always-on domain stores a MAIN_POWER entry with LEVEL returned, timed at detection. -/
  | mainPowerReturn (dt : Ticks)
  /-- R448: A key's debounced state changes to up after 20 ms stable, which re-enables presses that waited for all keys up or for release after LEGAL_READY. -/
  | keyRelease (dt : Ticks) (key : Nat)
  /-- R520: Each second after a DSP_CLOCK fault the GL640 tries to relock PLL_DSP and on lock restarts the chains. -/
  | dspClockRelockTry (dt : Ticks) (locked : Bool)
  /-- R429: The 1 s identification screen or 5 s value screen of the legal register list ends and the next entry, or a rebuilt pass, is shown. -/
  | registerListScreenEnd (dt : Ticks)
  /-- R222: With fewer than eight legal digits, an 8-digit screen switches after 2.5 s from its upper four digits to its lower four with the symbol flashing. -/
  | screenHalfSwitch (dt : Ticks)
  /-- R459: Transmission of the mode C readout ends with BCC and the optical port returns to 300 baud idle. -/
  | optReadoutEnd (dt : Ticks)
  /-- R285: A write of 1 to IDX_ERR or CFG_ERR in HW.RINGn_STATUS clears that WC bit. -/
  | ringStatusWrite (dt : Ticks) (ring : Nat) (value : Word)
  /-- R503: When no service session starts within 60 s of READY after a SERVICE-origin Undercoat activation, the pending final response is discarded. -/
  | activateResponseDiscard (dt : Ticks)
  deriving DecidableEq, Repr

end Sys2Proof
end

