-- ==== Sys2Proof/Config.lean ====
section
/-! DEFINITION. What an implementation fixes and the values that the manual leaves open. No
proof can see a value of an opaque constant. -/

namespace Sys2Proof.Config

/-- A value of `w` bits that the manual leaves open, by the number of the draw (log 9). -/
opaque freeValue (w : Nat) : Nat → BitVec w

/-- The raw entropy of draw `n`: 48 bytes of seed material for the DRBG (R274, log 9). -/
opaque entropy : Nat → BitVec 384

/-- NODE_ID[47:0], fused in OTP (R258, log 8). -/
opaque nodeIdLow : BitVec 48

/-- The reading key's scalar, before it is brought into range (Table 10.1, log 8). -/
opaque readingKey : BitVec 256

/-- The attestation key's scalar, before it is brought into range (Table 10.1, log 8). -/
opaque attestKey : BitVec 256

/-- The AES-256 key-encryption key of OTP (R255, log 8). -/
opaque keyEncryptionKey : BitVec 256

/-- The wrapped form of a 256-bit key under a key-encryption key; the manual does not name the wrapping (R255, log 8). -/
opaque keyWrap (kek key : BitVec 256) : BitVec 320

/-- The reading key (0) and the attestation key (1) as legal MRAM holds them. -/
def wrappedKey (k : Nat) : List (BitVec 8) :=
  let w := keyWrap keyEncryptionKey (if k = 0 then readingKey else attestKey)
  (List.range 40).map (fun i => BitVec.ofNat 8 (w.toNat / 256 ^ i))

/-- The image public key, X then Y (Table 10.1, log 8). -/
opaque imageKey : BitVec 512

/-- The OTP device secret (R53, log 8). -/
opaque deviceSecret : BitVec 256

/-- The 98,304 bytes of the mask ROM (Table 2.9 slot 1, Table 13.1, log 8). -/
opaque rom : List (BitVec 8)

/-- The private scalar of authority `a`: 0 the Root, 1 the Device, 2 the Image authority (R256, log 8). -/
opaque caKey (a : Nat) : BitVec 256

/-- What R256 leaves open of the names of the authorities (0 to 2) and of the image key's holder (3), and of
their certificates: serial numbers and ends of validity (log 8). -/
opaque caName (a : Nat) : List (BitVec 8)
opaque caSerial (a : Nat) : BitVec 64
opaque caNotAfter (a : Nat) : List (BitVec 8)

/-- What R256 leaves open of certificate `n`: its notBefore, further extensions and its signature's nonce
(log 8). -/
opaque certNotBefore (n : Nat) : List (BitVec 8)
opaque certExtra (n : Nat) : List (BitVec 8)
opaque certNonce (n : Nat) : BitVec 256

/-- What R256 leaves open of a node's certificate: the kind of its strings, the order of CN and OU, and
whether its key usage is critical (log 8). -/
opaque nameTag : BitVec 8
opaque unitFirst : Bool
opaque usageCritical : Bool

/-- The 256-byte manifest of the image of manufacture of a component, as a number (log 6). -/
opaque factoryManifest : Nat → BitVec 2048

/-- The payload of that image (log 6). -/
opaque factoryPayload : Nat → List (BitVec 8)

/-- Coefficient `tap` of FIR response `id`, before it is brought into 24 bits (R129: the ROM's contents
are not in the manual; log 12). -/
opaque firCoefficient (id tap : Nat) : Int

/-- The fraction bits of the coefficients of FIR response `id` (log 12). -/
opaque firShift (id : Nat) : Nat

/-- How many codes of R101's scale one unit of the modulator word stands for (R128, log 12). -/
opaque wordScale : Nat

/-- How the phases of LCD waveform A run, and the polarity of the first phase of a frame: the manual leaves both
open (R431, log 53). -/
opaque lcdAdjacent : Bool
opaque lcdFirstHigh : Bool

/-- The current limit of driver `n` in µA, before it is brought within 65 mA to 85 mA (R106, log 53). -/
opaque excLimit (n : Nat) : Nat

/-- The regulation error of driver `n` in ppm, before it is brought within 0.5 % (R106, log 53). -/
opaque excError (n : Nat) : Int

/-- The error that the RTD sources share and that of source `n`, in ppm, before they are brought within
their limits (R110, log 53). -/
opaque rtdError : Int
opaque rtdMismatch (n : Nat) : Int

/-- Coefficient `tap` of the resampler's kernel at phase `phase`, scaled by 2^30 (R132: the ROM's
contents are not in the manual; log 12). -/
opaque resamplerKernel (phase tap : Nat) : Int

end Sys2Proof.Config
end

