-- ==== Sys2Proof/Machine/Bytes.lean ====
section
/-! DEFINITION. Byte strings: fields, little-endian and big-endian numbers (Table 0.2), the CRCs of
Tables 2.10 and 8.6, and the rounding that the rules name. -/

namespace Sys2Proof.Machine

/-- `k` bytes of `n`, least significant first (Table 0.2). -/
def leBytes : Nat → Nat → Bytes
  | 0, _ => []
  | k + 1, n => byte n :: leBytes k (n / 256)

/-- The number that bytes spell, least significant first. -/
def leNat : Bytes → Nat
  | [] => 0
  | b :: bs => b.toNat + 256 * leNat bs

/-- `k` bytes of `n`, most significant first (fields marked BE). -/
def beBytes (k n : Nat) : Bytes := (leBytes k n).reverse

/-- The number that bytes spell, most significant first. -/
def beNat (bs : Bytes) : Nat := leNat bs.reverse

/-- Two's complement in `k` bytes. -/
def sBytes (k : Nat) (i : Int) : Bytes := leBytes k (i % (256 ^ k : Int)).toNat

/-- Read as two's complement of `k` bytes. -/
def toSigned (k n : Nat) : Int := if n < 256 ^ k / 2 then (n : Int) else (n : Int) - (256 ^ k : Int)

/-- `len` bytes from offset `off`. -/
def slice (p : Bytes) (off len : Nat) : Bytes := (p.drop off).take len

/-- The field of `len` bytes at `off`, unsigned. -/
def field (p : Bytes) (off len : Nat) : Nat := leNat (slice p off len)

/-- The field of `len` bytes at `off`, signed. -/
def sfield (p : Bytes) (off len : Nat) : Int := toSigned len (field p off len)

/-- `n` bytes of 0. -/
def zeros (n : Nat) : Bytes := List.replicate n 0

/-- The bytes, cut or padded with 0 to `n`. -/
def padTo (n : Nat) (bs : Bytes) : Bytes := bs.take n ++ zeros (n - bs.length)

/-- Whether every byte is 0, as a reserved field must be (R315). -/
def allZero (bs : Bytes) : Bool := bs.all (· == 0)

/-- Whether the `len` bytes at `off` are all 0. -/
def rsv (p : Bytes) (off len : Nat) : Bool := allZero (slice p off len)

/-- The bytes `bs` with `new` written over them from `off`. -/
def overlay (bs : Bytes) (off : Nat) (new : Bytes) : Bytes :=
  bs.take off ++ new ++ bs.drop (off + new.length)

/-- One bit of the reflected CRC-32 of Table 8.6. -/
def crc32Bit (c : BitVec 32) : BitVec 32 :=
  if c.getLsbD 0 then (c >>> 1) ^^^ 0xEDB88320#32 else c >>> 1

def iter {α : Type} (f : α → α) : Nat → α → α
  | 0, a => a
  | n + 1, a => iter f n (f a)

/-- CRC-32 of Table 8.6. -/
def crc32 (bs : Bytes) : Nat :=
  ((bs.foldl (fun (c : BitVec 32) b => iter crc32Bit 8 (c ^^^ b.setWidth 32)) 0xFFFFFFFF#32)
    ^^^ 0xFFFFFFFF#32).toNat

def crc8Bit (c : BitVec 8) : BitVec 8 :=
  if c.getLsbD 7 then (c <<< 1) ^^^ 0x07#8 else c <<< 1

/-- CRC-8 of Table 2.10. -/
def crc8 (bs : Bytes) : Nat := (bs.foldl (fun c b => iter crc8Bit 8 (c ^^^ b)) 0#8).toNat

/-- The nearest integer to `n / d`, ties away from zero (R153, R550). -/
def roundDiv (n : Int) (d : Nat) : Int :=
  if d = 0 then 0
  else if 0 ≤ n then (2 * n + d) / (2 * d) else -((-2 * n + d) / (2 * d))

/-- `n` limited to `lo` .. `hi`. -/
def clampInt (lo hi n : Int) : Int := if n < lo then lo else if hi < n then hi else n

/-- `a + b`, stopped at `top`. -/
def satAdd (top a b : Nat) : Nat := min top (a + b)

/-- Replaces the element at `i`. -/
def setAt {α : Type} (l : List α) (i : Nat) (a : α) : List α := l.set i a

/-- Applies `f` at `i`. -/
def modAt {α : Type} (l : List α) (i : Nat) (f : α → α) : List α := l.modify i f

/-- The numbers `0 .. n - 1`. -/
def upTo (n : Nat) : List Nat := List.range n

/-- Bit `i` of `n`. -/
def bit (n i : Nat) : Bool := n.testBit i

/-- A truth value as 1 or 0. -/
def b2n (b : Bool) : Nat := if b then 1 else 0

/-- The ASCII bytes of a string. -/
def ascii (s : String) : Bytes := s.toList.map (fun c => byte c.toNat)

end Sys2Proof.Machine
end

