-- ==== Sys2Proof/Machine/State.lean ====
section
/-! DEFINITION. The state of the GL640 as plain data. Every field's comment opens with
[width; rule; reset value]. "n/a" as a rule marks a field of the model's own (log 17). -/

namespace Sys2Proof.Machine

/-! ### Clocks, node time and the always-on domain (chapter 3) -/

/-- Table 3.5. -/
inductive TimeStatus where
  | invalid | coarse | fine
  deriving DecidableEq, Repr

/-- What clocks the system domain (R48, R521, R61). -/
inductive SysSource where
  | stopped | pll | rc
  deriving DecidableEq, Repr

/-- What clocks the modulator domain (R71, R94). -/
inductive ModSource where
  | xoMod | mclk | stopped
  deriving DecidableEq, Repr

/-- The node-time unit and the discipline (R75 to R83, R550). -/
structure Ntu where
  /-- [96; R75; 0 (log 5)] Node time in units of 2^-32 ns: the upper 64 bits are node time. -/
  acc : Nat
  /-- [64 s; R80; 0] Sum in ns of the steps and seeds applied to node time; node time less this sum times every duration "with steps excluded". -/
  steps : Int
  /-- [32 s; R77; 0 (log 5)] RATE_ADJ in ppb, within -100,000 to 100,000. -/
  rateAdj : Int
  /-- [64 s; R78; 0 (log 5)] NET_SLEW in units of 2^-32 ns. -/
  slew : Int
  /-- [8; R78; 0] Highest whole number of seconds that the magnitude of NET_SLEW has reached since SET_TIME. -/
  slewHigh : Nat
  /-- [1; R78; false] The clamp was logged in this SET_TIME interval. -/
  clampLogged : Bool
  /-- [2; R82; INVALID (log 5)] TIME_STATUS. -/
  status : TimeStatus
  /-- [4; R82; 0] Consecutive offsets counted toward the lock. -/
  lockCount : Nat
  /-- [64; R82; none] Step-free node time of the latest discipline offset. -/
  lastOffset : Option Nat
  /-- [rational; R550; 0] Frequency term F of the discipline, in ppb. -/
  freq : Rat
  /-- [64 s, 64; R550; none] The previous offset o_prev in ns and its T_MEAS t_prev in ns. -/
  prevOffset : Option (Int × Nat)
  /-- [rational; R550; 0] Time integral of RATE_ADJ since the previous offset, in ppb ns. -/
  adjIntegral : Rat
  /-- [1; R550; false] A SET_TIME with a non-zero step fell since the previous offset. -/
  steppedSince : Bool
  /-- [enum; R521, R48; stopped] What clocks the system domain. -/
  sysSource : SysSource
  /-- [64; R521; none] Step-free node time at which PLL_SYS last locked again during a MAIN_CLOCK fault. -/
  pllLockedAt : Option Nat
  /-- [64; R85; 0] Step-free node time of the last write of the RTC. -/
  rtcWriteAt : Nat
  /-- [1; R520; true] PLL_DSP runs and is locked, so the FA runs. -/
  dspLocked : Bool
  /-- [32 + 5; R144; 0 (log 5)] The FA's cycle counter in units of 1/32 of a DSP cycle, modulo 2^37: its upper 32 bits count cycles. -/
  faCycle : Nat
  /-- [64; R117; none] Node time of the multiple of 10 ms at which the counters were last latched. -/
  latchAt : Option Nat
  deriving DecidableEq, Repr

/-- The modulator domain (R71, R73, R88 to R94, R551). -/
structure ModDomain where
  /-- [enum; R71; stopped] The source of the modulator clock. -/
  source : ModSource
  /-- [64; R73; 0] f_MOD cycles since the modulator domain started. -/
  cycle : Nat
  /-- [64; R73, R140; 0] f_MOD cycle at which the epoch counter last restarted. -/
  epochBase : Nat
  /-- [64 + 64; R73, R81; none] The latest modulator epoch stamps, at most 512: f_MOD cycle and node time in ns, newest first. -/
  stamps : List (Nat × Nat)
  /-- [64; R93; none] Step-free node time since which MCLK_IN has met TRACK with no STOP or GLITCH while it is not the source. -/
  trackSince : Option Nat
  /-- [1; R88, R91; false] The latest window lay outside TRACK with every period within 2 %. -/
  outside : Bool
  /-- [1; R91; false] A RELOCK has been declared since MCLK_IN last met TRACK or became the source. -/
  relocked : Bool
  /-- [64 each; R93; empty] Step-free node times of the switches caused by a STOP or GLITCH of MCLK_IN within the last 60 s, newest first. -/
  switches : List Nat
  /-- [1; R93; false] MCLK_LATCHED is in force. -/
  latched : Bool
  /-- [1; R94; true] XO_MOD runs. -/
  xoRuns : Bool
  /-- [64; R94; none] Step-free node time since which XO_MOD has run again without a stop. -/
  xoSince : Option Nat
  /-- [1; R71; false] The rate in force: true is 3.072 MHz. -/
  halfRate : Bool
  deriving DecidableEq, Repr

/-- One retained entry (Table 2.10). -/
structure RetainedEntry where
  rtcSec : Nat
  sub : Nat
  source : Nat
  level : Nat
  check : Nat
  deriving DecidableEq, Repr

/-- The always-on domain (R57, R84, R85, R99, R438). -/
structure AlwaysOn where
  /-- [1; R99; true] The domain has its supply. -/
  powered : Bool
  /-- [32; R84, R99; 0] RTC_SEC. -/
  rtcSec : Nat
  /-- [15; R84, R99; 0] The RTC fraction in units of 1/32,768 s. -/
  rtcFrac : Nat
  /-- [10 s; R85, R99; 0] The RTC trim in steps of 0.954 ppm. -/
  trim : Int
  /-- [n/a; R85; 0] Trim remainder: ticks gained or lost, in millionths of a thousandth tick. -/
  trimAcc : Int
  /-- [1; R85, R99; false] RTC_VALID. -/
  rtcValid : Bool
  /-- [1; R54; false] The domain lost its supply while main power was off, since the last start. -/
  lostSupply : Bool
  /-- [3; R57; none] The latest sampled levels of SEAL_N, TMP_COVER_N, TMP_TERM_N; none before the first sample. -/
  levels : Option PinLevels
  /-- [64 x 64; R57; empty] The retained buffer, oldest first, at most 64 entries. -/
  buffer : List RetainedEntry
  /-- [16; R57; 0] Transition count of SEAL_N to low. -/
  sealCount : Nat
  /-- [16; R57; 0] Transition count of TMP_COVER_N to low. -/
  coverCount : Nat
  /-- [16; R57; 0] Transition count of TMP_TERM_N to low. -/
  termCount : Nat
  /-- [16; R57; 0] The buffer epoch. -/
  epoch : Nat
  /-- [1; R57; false] EPOCH_SET. -/
  epochSet : Bool
  /-- [1; R66; false] An entry was lost since the last drain. -/
  overflow : Bool
  /-- [1; R57; true] Main power is present, as the supervisor sees it. -/
  mainPower : Bool
  /-- [16; R438; 0] UPD_GEN. -/
  updGen : Nat
  /-- [16 x 32; R438; empty] The integral of each rail over each phase of the EPD update, first phase first: V+, V-, +V_C, -V_C. -/
  railIntegrals : List (Int × Int × Int × Int)
  deriving DecidableEq, Repr

/-! ### Start and boot registers (chapter 2) -/

/-- Table 2.8. -/
inductive BankState where
  | empty | staged | valid | trial | confirmed | rejected
  deriving DecidableEq, Repr

/-- One flash bank of a component, as the boot record and the model see it (R49, R494). -/
structure Bank where
  /-- [3; R49; CONFIRMED for bank A, EMPTY for bank B (log 6)] The bank's state. -/
  state : BankState
  /-- [1; R494; false] A STAGED bank whose STAGE_END matched. -/
  complete : Bool
  /-- [n/a; log 6; true for bank A] The bank still holds the image of manufacture, whose bytes the spec does not give. -/
  factory : Bool
  deriving DecidableEq, Repr

/-- The boot record of one component (R49). -/
structure Component where
  /-- [1; R49; A (log 6)] The active bank: true is B. -/
  activeB : Bool
  bankA : Bank
  bankB : Bank
  /-- [64; R504; none] Step-free node time of the restart of the activation, while in TRIAL. -/
  trialSince : Option Nat
  /-- [32; R504; none] Consecutive commits, or the exits the health checks wait for, since that restart. -/
  trialCommits : Nat
  /-- [1; R45; false] The component's image runs. -/
  running : Bool
  /-- [1; R523; false] The record's word is uncorrectable, to be rebuilt at the next start. -/
  recordBad : Bool
  deriving DecidableEq, Repr

/-- The boot registers and what the start keeps (R44 to R56). -/
structure Boot where
  /-- [8; R45, Table 2.4; 0, reset held (log 4)] HW.BOOT_STAGE STAGE. -/
  stage : Nat
  /-- [1; Table 2.4; false] HW.BOOT_STAGE MEASURING. -/
  measuring : Bool
  /-- [8; R47, Table 2.5; 0] HW.BOOT_ERROR CODE. -/
  errCode : Nat
  /-- [4; R47; 0] HW.BOOT_ERROR COMPONENT. -/
  errComponent : Nat
  /-- [1; R47; false] HW.BOOT_ERROR BANK: true is B. -/
  errBankB : Bool
  /-- [10; Table 2.6; 0] HW.BOOT_WARN. -/
  warn : Word
  /-- [1; R47; false] The 25 MHz crystal oscillates. -/
  xtal : Bool
  /-- [9; R46, Table 2.2; POR set] HW.RESET_CAUSE. -/
  cause : Word
  /-- [32; R45; 0] HW.LCV. -/
  lcv : Nat
  /-- [32 x 4; R45; 0] HW.VER_IGFAEN, HW.VER_FA, HW.VER_UNDERCOAT, HW.VER_FE. -/
  versions : List Nat
  /-- [8 x 256; R52, Table 2.9; 32 bytes of 0 each (log 5)] Measurement slots 1 to 8. -/
  slots : List Bytes
  /-- [boot records; R49] Igfaen, FA microcode, Undercoat, FE microcode. -/
  components : List Component
  /-- [32; R53; 0 (log 5)] The boot counter in non-legal MRAM. -/
  bootCounter : Nat
  /-- [2; R53; 0] Failed entropy start-up attempts of this start. -/
  entropyTries : Nat
  /-- [64; R53; 0] ENTROPY_START_RETRY waits: step-free time in system cycles since the last failed attempt. -/
  entropyWait : Nat
  /-- [256; R53; 32 bytes of 0 (log 5)] The SRAM tag key. -/
  tagKey : Bytes
  /-- [4 images; R52; none loaded] What Primer has streamed into legal SRAM, the filter array's instruction memory, system SRAM and the fabric engine's memory, in the order of the components. -/
  loaded : List Bytes
  /-- [1 + 1; R350; open] Mask-ROM reads and fetches end in a bus error on the LC, and on the AC. -/
  romLockLc : Bool
  romLockAc : Bool
  /-- [3; R41; all good] VDD_CORE, VDD_IO, VDDA above their thresholds. -/
  railsGood : List Bool
  /-- [1; R41; true] Internal reset is held. -/
  held : Bool
  /-- [1; R43, R485; false] RESET_N is low. -/
  resetLow : Bool
  /-- [1; R61; false] LEGAL_READY has been declared in this run. -/
  legalReady : Bool
  /-- [1; R518; false] LC_HALT. -/
  lcHalt : Bool
  /-- [64 x 3; R518; empty] Step-free node times of the last counted LC-side restarts, newest first. -/
  lcRestarts : List Nat
  /-- [64 x 3; R519; empty] Step-free node times of the last counted AC-side restarts, newest first. -/
  acRestarts : List Nat
  /-- [1; R518; none] FAULT code and count to log as POWER/LC_HALT at the next full start. -/
  haltToLog : Option (Nat × Nat)
  /-- [list; R518, R524; empty] FAULT code and count of each LC-side restart to log at the next legal start. -/
  lcToLog : List (Nat × Nat)
  /-- [32; R55; none] RTC seconds of the last MAIN_POWER loss entry drained. -/
  lossRtc : Option Nat
  /-- [64; R502; none] Commit second s at which a legal activation's pause began. -/
  pauseFrom : Option Nat
  /-- [4; R59; 0] Display sequence: 0 off or holding, 1 repair, 2 ALL_ON, 3 ALL_OFF, 4 LCV, 5 normal composition. -/
  displayPhase : Nat
  /-- [64; R59; 0] Step-free node time at which that phase began. -/
  displayPhaseAt : Nat
  /-- [1; R521; false] A MAIN_CLOCK fault is in force. -/
  mainClockFault : Bool
  /-- [64; R47, R55; 0] Step-free node time at which LEGAL_START was entered. -/
  legalStartAt : Nat
  /-- [64; R47; 0] Step-free node time at which APP_START was entered. -/
  appStartAt : Nat
  /-- [list; R506, R520; empty] Code and payload of the events raised while no EVENT ring exists. -/
  toPost : List (Nat × Bytes)
  /-- [3; R63, R502; 0] What the running start does to the legal images: the code of its IMAGE entry, 0 for none. -/
  imageLog : Nat
  /-- [1; R502; false] That entry also goes to the seal log: the start is the restart of a legal activation. -/
  imageSealed : Bool
  deriving DecidableEq, Repr

/-! ### Front end, chains and counters (chapters 4 and 5) -/

/-- One output record as the LC sees it (Table 5.9, R136, R138). -/
structure Record where
  value : Int
  status : BitVec 16
  seqNo : BitVec 16
  /-- Node time in ns of the instant the record represents (R136). -/
  instant : Nat
  /-- The output's position in the chain: the count of outputs since its last reset (R155). -/
  position : Nat
  deriving DecidableEq, Repr

/-- An excitation driver: its reversal counter, and what it drives (R106 to R108). -/
structure Driver where
  /-- [64; R107, R108; 0] f_MOD cycle at which the reversal counter last restarted. -/
  revBase : Nat
  /-- [mV; R106; 5,500 (log 53)] VDD_EXC as last met. -/
  vddExc : Nat
  /-- [mΩ; R106; 1,000,000,000 and 0 (log 53)] The load and the force leads as last met. -/
  load : Nat
  lead : Nat
  /-- [1; R106; false (log 53)] A sense pin is open, as last met. -/
  senseOpen : Bool
  deriving DecidableEq, Repr

/-- A FIR output: before and after the integrator, each saturated to 32 bits, and whether either
saturated (R129, R131, Table 5.10). -/
structure FirOut where
  pre : Int
  post : Int
  clip : Bool
  deriving DecidableEq, Repr

/-- LINE resampler of a channel (R134). -/
structure LineState where
  /-- Positive-going crossings taken since the reference settled. -/
  crossings : Nat
  /-- Node time in units of 2^-16 ns of the last crossing taken. -/
  lastCrossing : Option Nat
  /-- The last measured period in units of 2^-16 ns. -/
  period : Option Nat
  /-- Good periods in succession. -/
  good : Nat
  locked : Bool
  hold : Bool
  everLocked : Bool
  deriving DecidableEq, Repr

/-- The crossing detector of a channel used as reference (R134). -/
structure Crossing where
  armed : Bool
  prevFir : Int
  prevInstant : Nat
  peak : Int
  /-- The interpolated instant of the last pass through 0 since the detector armed, in 2^-16 ns. -/
  zeroAt : Option Nat
  /-- The instant of the latest crossing taken, in 2^-16 ns. -/
  latest : Option Nat
  /-- The latest period between two crossings, in 2^-16 ns. -/
  period : Option Nat
  /-- Periods within 45 Hz to 65 Hz in succession. -/
  good : Nat
  /-- Periods in succession in which the signal peaked above 10 % FS. -/
  strong : Nat
  deriving DecidableEq, Repr

/-- One precision channel's run-time state (R111 to R114, R119, R128 to R139, R351). -/
structure Channel where
  /-- [1; R119; false] The chain runs. -/
  running : Bool
  /-- [1; R137; false] The chain has delivered a settled output since its last reset. -/
  settled : Bool
  /-- [64; R136; 0] f_MOD cycle of the chain's last reset. -/
  resetCycle : Nat
  /-- [64; R136; 0] FIR outputs formed since the reset. -/
  firCount : Nat
  /-- [64; R136; 0] Outputs formed since the reset. -/
  outCount : Nat
  /-- [64; R128; 0] Modulator words taken since the reset. -/
  words : Nat
  /-- [N x 64; R128; 0 each] The integrator registers of the CIC, the first one first. -/
  integrators : List (BitVec 64)
  /-- [N x 64; R128; 0 each] The comb registers of the CIC, the first one first. -/
  combs : List (BitVec 64)
  /-- [384 x 32 s; R129; empty] The latest CIC outputs, newest first. -/
  cics : List Int
  /-- [rational; R131; 0] The output of the Rogowski integrator before rounding, and its last input. -/
  integral : Rat
  integralIn : Int
  /-- [16; R132, R111; empty] The latest FIR outputs, newest first. -/
  firs : List FirOut
  /-- [32.32; R132; 0] Resampler position p in units of 2^-32 FIR outputs. -/
  rsPos : Nat
  /-- [32.32; R133; 2^32] Resampler increment. -/
  rsStep : Nat
  /-- [16; R139; 0] The SEQ of the next record. -/
  seqNo : BitVec 16
  /-- [7; R111; 0] Diagnostic conditions now set, STATUS[6:0]. -/
  diag : BitVec 8
  /-- [7; R111; 0] Diagnostic bits set at any time since the last record. -/
  diagSeen : BitVec 8
  /-- [7 x 64; R113; 0 each] Step-free node time at which the condition of each bit was last present. -/
  diagAt : List Nat
  /-- [64; R114; none] Step-free node time of the last logged set-and-clear pair. -/
  lastPair : Option Nat
  /-- [1; R114; false] A set of the current pair was logged. -/
  setLogged : Bool
  /-- [64; R114; none] Step-free node time of the last transition while a burst is counted. -/
  burstAt : Option Nat
  /-- [16; R114; 0] Transitions left unlogged in the burst. -/
  burst : Nat
  /-- [16; R114; 0] DIAG_CNT. -/
  diagCnt : Nat
  /-- [64; R138; none] The latest record, delivered to the sample buffer. -/
  latest : Option Record
  /-- [16 x 64; R155, R171; empty] The latest records since the chain's restart, newest first, from which positions are put together. -/
  recent : List Record
  /-- [R34; none] Node time of the last complete sample. -/
  lastGood : Option Nat
  line : LineState
  cross : Crossing
  /-- [1; R146; false] The next TIME-mode output is the first after a node-time step. -/
  timeStep : Bool
  /-- [131,072 x 64; R181, R182, R212; empty] The latest settled samples of an ELEC channel, oldest first. -/
  cycle : List Record
  /-- [11; R351; 0] Write index of the capture ring. -/
  capIndex : Nat
  /-- [64 each; R136; empty] Instants of the records that the capture ring holds, oldest first, at most 2,048. -/
  capTimes : List Nat
  /-- [11; R351; 0] How many of them Undercoat has not taken. -/
  capUnread : Nat
  /-- [64 x 3; R351; empty] Capture records waiting for their line of four. -/
  capLine : List Record
  /-- [1; R74; false] Capture records were dropped before the next. -/
  capLoss : Bool
  /-- [64; R551, R91; none] Step-free node time at which a TIME chain's 4 ms ratio measurement ends. -/
  ratioUntil : Option Nat
  deriving DecidableEq, Repr

/-- One counter input (R116 to R120). -/
structure Counter where
  /-- [32; R117, R118; 0 (log 5)] The count, or the forward count of a pair. -/
  fwd : BitVec 32
  /-- [32; R118; 0 (log 5)] The reverse count of a pair. -/
  rev : BitVec 32
  /-- [16; R118; 0 (log 5)] QUAD_ERROR. -/
  quadError : Nat
  /-- [int; R118; 0] The signed position in quarters. -/
  pos : Int
  /-- [int; R118; 0] LAST. -/
  last : Int
  /-- [2; R118; none] The reference state (A, B); none until the first filtered sample after an enable. -/
  ref : Option (Bool × Bool)
  /-- [32 + 32; R117; 0] The latest latch of both counts. -/
  latchFwd : BitVec 32
  latchRev : BitVec 32
  /-- [64; R117; 0] Node time of the latest latch. -/
  latchTime : Nat
  /-- [1; R120; false] A latch since the enable or the binding exists, so the next interval counts. -/
  primed : Bool
  /-- [32 + 32; R189; 0] Counts held over INCOMPLETE intervals. -/
  heldFwd : Nat
  heldRev : Nat
  /-- [1; R116; none] The level that the filter last accepted; none before the first. -/
  level : Option Bool
  /-- [1; R118; false] The running interval holds a QUAD_ERROR. -/
  errorNow : Bool
  /-- [64; R118; none] Step-free node time of the last logged DIAG/QUAD_ERROR. -/
  errorAt : Option Nat
  /-- [16; R114, R118; 0] Intervals with a QUAD_ERROR that the limit of 10 s left unlogged. -/
  unlogged : Nat
  deriving DecidableEq, Repr

/-- Sync state of the NTU and the FA (R140 to R145). -/
structure Sync where
  /-- [2; R145; 0 none] Source of the last accepted event. -/
  lastSource : Nat
  /-- [64; R145; 0] Node time of the last E. -/
  lastE : Nat
  /-- [64; R141; none] Step-free node time of the last accepted event. -/
  acceptedAt : Option Nat
  /-- [16; R141; 0] Ignored events since the last accepted one. -/
  ignored : Nat
  /-- [64; R141; none] The armed SYNC_AT time and the command that armed it. -/
  armed : Option (Nat × Call)
  /-- [1; R143; false] SYNC_OUT has been pulsed by the last event. -/
  outHigh : Bool
  deriving DecidableEq, Repr

/-! ### Metering points (chapters 6, 7, 9) -/

/-- A gap being measured (R34): its start in node time, its KIND and its fault code (Table 19.3). -/
structure Gap where
  start : Nat
  kind : Nat
  fault : Nat
  deriving DecidableEq, Repr

/-- An open waste transaction (R165 to R168). -/
structure Txn where
  number : Nat
  tareKind : Nat
  tenant : Nat
  preset : Nat
  timeoutS : Nat
  /-- Step-free node time of the acceptance of WEIGH_BEGIN. -/
  since : Nat
  /-- The gross pass of kind 2: G in g and its node time. -/
  grossPass : Option (Int × Nat)
  deriving DecidableEq, Repr

/-- A tare in force: its value in mg, and whether it is a preset tare (R163 to R165). -/
structure Tare where
  mg : Int
  preset : Bool
  deriving DecidableEq, Repr

/-- One settled, valid position in the stability window (R158). -/
structure WeighPoint where
  instant : Nat
  gross : Int
  mass : Int
  /-- The codes of the cells. -/
  codes : List Int
  deriving DecidableEq, Repr

/-- The weighing state of a metering point (R153 to R169). -/
structure Weigh where
  /-- [1; R159; NONE] The zero state: true is SET. -/
  zeroSet : Bool
  /-- [64 s; R159; 0] Zop in mg. -/
  zop : Int
  /-- [64 s; R159; 0] Z_init in mg. -/
  zInit : Int
  /-- [R163; none] The tare in force. -/
  tare : Option Tare
  /-- [list; R158; empty] The window, newest first. -/
  window : List WeighPoint
  /-- [64; R158; none] Instant of the first settled position since the last restart of the cells. -/
  since : Option Nat
  /-- [1; R158; false] Stable. -/
  stable : Bool
  /-- [R155; none] The latest position computed. -/
  latest : Option WeighPoint
  /-- [64; R155; none] The latest instant among the records of the last position taken. -/
  lastPosition : Option Nat
  /-- [64; Table 6.6; none] Instant of the last position that a record with an invalidating bit spoilt. -/
  badAt : Option Nat
  /-- [1; R159; false] ZERO_ERROR shows. -/
  zeroError : Bool
  /-- [R165; none] The open transaction. -/
  txn : Option Txn
  /-- [32; R165; 1 (log 18)] The next transaction number. -/
  nextTxn : Nat
  /-- [64 x 128 bytes; R169; empty] Bodies of the last 64 committed transactions, newest first, with their number. -/
  bodies : List (Nat × Bytes)
  deriving DecidableEq, Repr

/-- The provisional path of a metering point (R170 to R172), in Undercoat. -/
structure Prov where
  /-- [16 x 64; R171; +0.0 each] The NLMS weights, as binary64 bits. -/
  weights : List UInt64
  /-- [R171; empty] Accelerometer samples of the last second: instant and code, newest first. -/
  accel : List (Nat × Int)
  /-- [16 x 64; R171; empty] The last a values, as binary64 bits, newest first. -/
  hist : List UInt64
  /-- [8 x 64; R172; empty] The last 8 values of p in mg, newest first. -/
  last : List Int
  /-- [64; R171; none] Instant of the last position taken. -/
  lastTaken : Option Nat
  /-- [48 bytes; R171; none] EXT 2 as Undercoat last read it: C, Z0, K, Zop and the tare. -/
  terms : Option Bytes
  /-- [1; R172; false] The field and the icon are shown. -/
  shown : Bool
  /-- [32; R323; 0] Host samples dropped as late. -/
  lateDropped : Nat
  /-- [32; R323; 0] Resets of the weights. -/
  weightResets : Nat
  deriving DecidableEq, Repr

/-- The record of an open profile interval in legal MRAM (R246, R250, R251, R253). -/
structure OpenRecord where
  at_ : Option Nat
  sums : List Nat
  short : Bool
  period : Nat
  interval : Word
  deriving DecidableEq, Repr

/-- One phase's, or the total's, values of the last whole second (R187, Table 12.2 EXT 3). -/
structure PhaseMean where
  vrms : Nat
  irms : Nat
  p : Int
  q : Int
  s : Int
  pf : Int
  freq : Nat
  deriving DecidableEq, Repr

/-- A bank copy (Table 9.4). -/
structure BankCopy where
  gen : Nat
  mp : Nat
  type : Nat
  subtype : Nat
  tstat : Nat
  commitS : Nat
  tariff : Nat
  saturated : Bool
  wasReset : Bool
  regs : List Nat
  /-- The CRC and GEN_TAIL match: false after a torn or damaged write. -/
  intact : Bool
  deriving DecidableEq, Repr

/-- One metering point (R17 to R36, R178 to R254). -/
structure MeterPoint where
  /-- [R34; none] The gap in progress: the metering point is INCOMPLETE. -/
  gap : Option Gap
  /-- [32; R261; 0] MSTAT conditions that held in the running second. -/
  now : Word
  /-- [32; R261; 0] MSTAT of the last completed second. -/
  mstat : Word
  /-- [32; R261; 0] MSTAT conditions of the open profile interval, or those that the next one opens with. -/
  interval : Word
  /-- [32 x 64; R193; 0] Amounts of each scope and QD (index REG_KEY[7:3]) in units of 2^-32 of the register's unit. -/
  amounts : List Nat
  /-- [32 x 64; R193; 0] Amounts of the part of a cycle after the coming whole second. -/
  carried : List Nat
  /-- [bank; R234, R553] Copy A. -/
  copyA : BankCopy
  /-- [bank; R234, R553] Copy B. -/
  copyB : BankCopy
  /-- [1; R248; false] REG_FAULT. -/
  regFault : Bool
  /-- [8 x 64; R246; 0] Opening sums of the profile interval per QD (legal MRAM). -/
  openSums : List Nat
  /-- [64; R246; none] COMMIT_S of the commit that opened the interval. -/
  openAt : Option Nat
  /-- [1; R246; false] The interval began away from a period boundary. -/
  openShort : Bool
  /-- [8; R253; 15] The PROFILE_PERIOD the open interval was opened with. -/
  openPeriod : Nat
  /-- [5 fields; R235, R246; none, empty, false, 15, 0] The record of the open interval before the latest bank write, with which it
  is written in one step: a torn write leaves it. -/
  heldOpen : OpenRecord
  /-- [list; R191; empty] Valid, settled samples of θs and θr not yet used by a commit: instant and 2^-32 °C, newest first. -/
  supply : List (Nat × Int)
  back : List (Nat × Int)
  /-- [64; R191; 0] Forward volume in 2^-32 mL counted in the second to be committed next, and after it. -/
  volFwd : Nat
  volNext : Nat
  /-- [64 s; R187; none] SECOND_END and the blocks for the total, L1, L2, L3. -/
  means : Option (Nat × List PhaseMean)
  /-- [R187; empty] Parts of cycles not yet averaged: the second's end, the part's ns, and four blocks in 2^-16 of the units of `means`. -/
  cycles : List (Nat × Nat × List PhaseMean)
  /-- [64; R181; none] Node time of the first sample of the running analysis cycle. -/
  cycleStart : Option Nat
  /-- [64; R199; none] Node time of the end of the last complete analysis cycle. -/
  lastCycle : Option Nat
  /-- [64; R34, R200; 0] Node time at which the binding record came into force: no cycle holds an earlier sample. -/
  cyclesFrom : Nat
  /-- [64; R183; none] Node time from which the cycles have been those of 1 / F_NOM. -/
  cycleHold : Option Nat
  /-- [64; R195; none] The whole second of the last harmonic record. -/
  harmSecond : Option Nat
  /-- [2; R182; 0] Reference phase in use in TIME mode. -/
  refPhase : Nat
  weigh : Weigh
  prov : Prov
  /-- [64 + 32 x 2, 64; R196; 0 (log 5)] External heating and cooling in 2^-32 Wh, and volume in mL, in non-legal MRAM. -/
  extHeat : Nat
  extCool : Nat
  extVolume : Nat
  /-- [64; R324; 0 (log 5)] Node time of the last successful M-Bus read of the point. -/
  extLastRead : Option Nat
  /-- [64 s; R465; none] The base volume in mL. -/
  extBase : Option Int
  /-- [sum and count; R196; 0] Sums of the capture copies of θs and θr over the span. -/
  extSupplySum : Int
  extSupplyN : Nat
  extReturnSum : Int
  extReturnN : Nat
  deriving DecidableEq, Repr

/-! ### The legal core (chapters 8, 9, 10) -/

/-- One log entry (Table 8.6). -/
structure LogEntry where
  seqNo : Nat
  nodeTime : Nat
  flags : Nat
  cls : Nat
  code : Nat
  origin : Nat
  mp : Nat
  data : Bytes
  deriving DecidableEq, Repr

/-- One copy of the calibration store (R210): GEN, the four blocks, and whether its CRC and GEN_TAIL hold. -/
structure CalCopy where
  gen : Nat
  blocks : List Bytes
  intact : Bool
  deriving DecidableEq, Repr

/-- The pedigree fields of a reading (R260, R279). -/
structure Pedigree where
  sealOpen : Bool
  fabricAddr : Nat
  calcnt : Nat
  cfgcnt : Nat
  lcv : Nat
  deriving DecidableEq, Repr

/-- What a calibration sequence has staged (R212, R213): each step records its own figures, S with 16 fraction
bits (log 31). -/
structure CalSeq where
  mp : Nat
  /-- The binding record at BEGIN. -/
  binding : Bytes
  /-- Step-free node time of the last accepted step. -/
  lastStep : Nat
  /-- The zero point: the mean of S, in 2^-16 of a code. -/
  zero : Option Int
  /-- ΔS of the CORNER step of each cell, in 2^-16 of a code. -/
  corners : List (Option Int)
  /-- REF_A in mg and ΔS of SPAN in 2^-16 of a code. -/
  span : Option (Int × Int)
  /-- KV, KI, TAU of each phase. -/
  phases : List (Option (Nat × Nat × Int))
  /-- R_REF of the supply and return sources in µΩ. -/
  rref : List (Option Nat)
  deriving DecidableEq, Repr

/-- The state of a calendar in the LC (R244, R327). -/
structure CalendarSlot where
  bytes : Bytes
  /-- 0 none, 1 waiting or in force, 2 ACTIVATED (passive only). -/
  state : Nat
  /-- The fixed activation instant in ns (passive), or the instant of the activation. -/
  at_ : Nat
  deriving DecidableEq, Repr

/-- A legal activation accepted by the LC and waiting for the whole second (R502). -/
structure LegalActivation where
  component : Nat
  bankB : Bool
  gseq : Nat
  origin : Origin
  oldLcv : Nat
  /-- The commit second that had passed when the LC accepted it. -/
  after : Nat
  deriving DecidableEq, Repr

/-- An audit counter whose word the scrub found damaged (R209): its index in Table 8.2, the two halves, and the
count that the LC had then. -/
structure BadCounter where
  index : Nat
  valueHalf : Nat
  complementHalf : Nat
  live : Nat
  deriving DecidableEq, Repr

/-- A value of MRAM that is rotated across a set of words (R355): for each word that has been written, its place, the
count that its last write gave it, and its value. -/
structure Rotated (α : Type) where
  words : List (Nat × Nat × α)
  deriving DecidableEq, Repr

/-- A set of which one word has been written. -/
def Rotated.fresh {α : Type} (a : α) : Rotated α := ⟨[(0, 0, a)]⟩

/-- What the legal core keeps (R205 to R279). -/
structure Legal where
  /-- [16; R209, R553; 0] CALCNT. -/
  calcnt : Nat
  /-- [32; R209, R553; 0] CFGCNT. -/
  cfgcnt : Nat
  /-- [32; R209, R553; 0] TAMPER_SEAL. -/
  tamperSeal : Nat
  /-- [32; R209, R553; 0] TAMPER_COVER. -/
  tamperCover : Nat
  /-- [32; R209, R553; 0] TAMPER_TERM. -/
  tamperTerm : Nat
  /-- [32; R209, R553; 0] SEALSESS. -/
  sealsess : Nat
  /-- [16; R209, R553; 0] SLARCH. -/
  slarch : Nat
  /-- [32; R209, R553; 0] SEP_FAULTS. -/
  sepFaults : Nat
  /-- [32; R31, R553; 0] The owner counter. -/
  ownerCtr : Nat
  /-- [1024 x 48 bytes; R216, R553; empty] The event log, newest first. -/
  eventLog : List LogEntry
  /-- [256 x 64; R215, R355, R553; 0] The event-log head: ELSEQ that the next entry takes. -/
  elseqWords : Rotated Nat
  /-- [256 x 48 bytes; R217, R553; empty] The seal log, newest first; USED is its length. -/
  sealLog : List LogEntry
  /-- [16; R217, R553; 0] MISSED. -/
  missed : Nat
  /-- [1; R217; false] LOG/SEAL_LOG_FULL was logged in this seal session. -/
  fullLogged : Bool
  /-- [1; R206; false] Verification mode: the seal is open. -/
  sealOpen : Bool
  /-- [1; R208; false] A seal session is open. -/
  session : Bool
  /-- [4,096 x 64; R262, R355, R553; 0] The pair RSEQ_EPOCH and RSEQ. -/
  rseqWords : Rotated Nat
  /-- [4,096 x 64; R266, R355, R553; 0] ASEQ. -/
  aseqWords : Rotated Nat
  /-- [16; R58, R553; 0] The committed epoch. -/
  committedEpoch : Nat
  /-- [8; R58; 0] The committed N. -/
  committedN : Nat
  /-- [3 x 16; R58; 0] The committed transition counts of SEAL_N, TMP_COVER_N, TMP_TERM_N. -/
  committedC : List Nat
  /-- [2 x (32 + 4 x 96 x 8 + 32); R210, R553; GEN 0, all zero, valid] Copies A and B of the calibration store. -/
  calA : CalCopy
  calB : CalCopy
  /-- [4 x 96 bytes; R204; all zero] The blocks in force since the last whole second (legal SRAM). -/
  calInForce : List Bytes
  /-- [MPs; Table 19.2; empty] CAL_FAULT: the metering points that await a COMMIT. -/
  calFault : List Nat
  /-- [R212; none] The open calibration sequence (legal SRAM). -/
  calSeq : Option CalSeq
  /-- [1,920 bytes; R240, R553; none] The active calendar. -/
  active : CalendarSlot
  /-- [1,920 bytes; R240, R553; none] The passive calendar. -/
  passive : CalendarSlot
  /-- [2 x 320; R255; the wrapped keys of manufacture (log 8)] The reading key and the attestation key, wrapped under the
  key-encryption key of OTP. -/
  wrappedKeys : List Bytes
  /-- [1; R278; true] The wrapped reading key passes its check. -/
  readingKey : Bool
  /-- [1; R278; true] The wrapped attestation key passes its check. -/
  attestKey : Bool
  /-- [IDs; R522; empty] Faulted legal parameters. -/
  faulted : List Nat
  /-- [64; R54; 0 (log 5)] The last node time that Igfaen stored in legal MRAM. -/
  storedTime : Nat
  /-- [8; R238; 1] Tariff code in force for the running second. -/
  tariff : Nat
  /-- [1,024 x 192 bytes; R65; empty] Scheduled readings held for the AC, oldest first. -/
  held : List Bytes
  /-- [32; R65; 0] Scheduled readings missed while the queue is full. -/
  readingsMissed : Nat
  /-- [R502; none] A legal activation waiting for its whole second. -/
  activation : Option LegalActivation
  /-- [64; R193; 0] The last whole second committed, in ns of node time. -/
  lastCommit : Nat
  /-- [5 fields; R260, R279; all 0] The pedigree at that commit, kept for a profile interval that a loss closes there. -/
  closing : Pedigree
  /-- [64; R244, R252; 0] Node time before which no minute boundary activates the passive calendar: its acceptance, the last step, the end of INVALID. -/
  activateFrom : Nat
  /-- [1; R441; false] A legal display error is latched. -/
  displayError : Bool
  /-- [outputs; R441; empty] Outputs already logged as in error. -/
  errorOutputs : List Nat
  /-- [1; R441; false] "Err d" shows in this part of the 5 s. -/
  errShown : Bool
  /-- [64; R441; 0] Step-free node time at which that part began. -/
  errAt : Nat
  /-- [3; R222; 0] SHOW_LCV screen: 0 none, 1 LCV, 2 CALCNT, 3 CFGCNT. -/
  lcvScreen : Nat
  /-- [1; R222; false] The screen shows its lower half. -/
  lowerHalf : Bool
  /-- [64; R222; 0] Step-free node time at which the screen or its half began. -/
  screenAt : Nat
  /-- [list; R429; empty] Remaining register-list entries of this pass: MP, QD and tariff digit. -/
  regList : List (Nat × Nat × Nat)
  /-- [1; R429; false] The entry shows its value: false is the identification screen. -/
  regValue : Bool
  /-- [4; R448; up] Debounced state of KEY0 to KEY3: true is down. -/
  keysDown : List Bool
  /-- [1; R450; false] No key acts until all keys are up. -/
  keysWait : Bool
  /-- [4; R450; false] Keys counted as stuck in this period. -/
  keysStuck : List Bool
  /-- [4 x 64; R450; 0] Step-free node time of each key's last press. -/
  keysAt : List Nat
  /-- [2 x 256; Table 18.5; none] Slots 6 and 7 before the legal activation in trial. -/
  slotsBefore : Option (Bytes × Bytes)
  /-- [list; Table 18.5; empty] Channels that carried an invalidating diagnostic bit before the legal activation in trial. -/
  diagBefore : List Nat
  /-- [n/a; R218; 0] Log slots that the last loss of power or reset left torn. -/
  torn : Nat
  /-- [list; R209; empty] Audit counters whose word's halves disagree. -/
  badCounters : List BadCounter
  /-- [32; R63; 0] HW.LCV of the last legal start. -/
  lastLcv : Nat
  deriving DecidableEq, Repr

/-! ### The gate (R27, R28, R37 to R40) -/

/-- A request in a gate slot (Table 1.5): GSEQ, CODE, ORIGIN, payload, and the command it serves;
no command for work that the AC schedules for itself. -/
structure GateRequest where
  gseq : Nat
  code : Nat
  origin : Origin
  payload : Bytes
  call : Option Call
  deriving DecidableEq, Repr

/-- What an unsolicited reply carries (R28, R168, R246, R298). -/
inductive Unsolicited where
  | reading (bytes : Bytes)
  | logEntry (bytes : Bytes)
  | txnTimeout (mp txn : Nat)
  | sealState (isOpen : Bool)
  | tariffSwitch (tariff at_ : Nat)
  | timeStatus (old new : Nat)
  | syncEvent (source e : Nat)
  deriving DecidableEq, Repr

/-- A reply of the LC (R28): GSEQ 0 marks an unsolicited one. -/
inductive GateReply where
  | answer (gseq code status : Nat) (payload : Bytes)
  | news (what : Unsolicited)
  deriving DecidableEq, Repr

structure Gate where
  /-- [8 x 4 KiB; R27; empty] Occupied request slots, in the order of submission. -/
  requests : List GateRequest
  /-- [8 x 4 KiB; R27; empty] Occupied reply slots, oldest first: at most eight. -/
  replies : List GateReply
  /-- [list; R27; empty] Replies that the LC has formed and that wait for a reply slot, oldest first (log 15). -/
  outbox : List GateReply
  /-- [32; R27; 1] The next GSEQ. -/
  nextGseq : Nat
  /-- [list; R37; empty] Self-scheduled work waiting for a free slot: CODE and payload. -/
  waiting : List (Nat × Bytes)
  /-- [list; R37; empty] Self-scheduled requests submitted and not yet answered: GSEQ and payload. -/
  own : List (Nat × Bytes)
  /-- [4; R38; 0] How many of the requests were in a slot when the LC reset, to be answered ABORTED. -/
  atReset : Nat
  deriving DecidableEq, Repr

/-! ### The Hawk mailbox and the command processor (chapter 11) -/

/-- One ring's registers (Table 11.6). -/
structure Ring where
  /-- [18; Table 11.6; 0x0_0000, 0x0_1000, 0x0_2000, 0x0_6000] OFFSET of BASE. -/
  base : Nat
  /-- [4; Table 11.6; 6, 6, 8, 8] LOG2SIZE. -/
  log2 : Nat
  /-- [1; Table 11.6; 1] ENABLE. -/
  enable : Bool
  /-- [1; R286; 1] ACTIVE. -/
  active : Bool
  /-- [16; R287; 0] HEAD. -/
  head : BitVec 16
  /-- [16; R287; 0] TAIL. -/
  tail : BitVec 16
  /-- [1; R288; 0] IDX_ERR. -/
  idxErr : Bool
  /-- [1; R286; 0] CFG_ERR. -/
  cfgErr : Bool
  /-- [13; Table 11.6; 1] THRESH. -/
  thresh : Nat
  /-- [16; R298, R299; 0] SEQ of the next item on EVENT or BULK. -/
  seqNo : BitVec 16
  /-- [1; R298, R299; false] The next posted item carries LOST. -/
  lost : Bool
  /-- [64 per entry; R301; empty] Step-free node times at which the unconsumed entries were posted, oldest first. -/
  posted : List Nat
  deriving DecidableEq, Repr

/-- A command in flight (R294 to R297, R303). -/
structure InFlight where
  call : Call
  /-- The entry's TAG, echoed in every response. -/
  tag : Nat
  opcode : Nat
  fence : Bool
  bulk : Bool
  bufOff : Nat
  bufCap : Nat
  payload : Bytes
  /-- The gate request it became, if it did. -/
  gseq : Option Nat
  /-- It is checked and its work goes on. -/
  accepted : Bool
  /-- [14; R303, R407] The manager whose tunnel brought it; 0 on the other routes. -/
  peer : Nat
  /-- [1; R312] Its session or its manager's link has ended: its responses are discarded. -/
  orphan : Bool
  deriving DecidableEq, Repr

/-- A command that its route has brought, and that the processor has not taken (R296, R307). -/
structure Waiting where
  call : Call
  entry : Bytes
  data : Bytes
  peer : Nat
  deriving DecidableEq, Repr

structure Hawk where
  /-- [8; R282; 0] HW.SPI_STATUS LAST. -/
  lastStatus : Nat
  /-- [8; R282; 0] The status byte that the last frame returned on HSPI_MISO. -/
  misoStatus : Nat
  /-- [16; R283; 0] HW.SPI_STATUS FRAME_ERR. -/
  frameErr : Nat
  /-- [32; R285; 0] HW.SCRATCH. -/
  scratch : Word
  /-- [1; Table 11.5; 0] HW.IRQ_STATUS STAGE. -/
  irqStage : Bool
  /-- [1; Table 11.5; 0] HW.IRQ_STATUS RING_ERR. -/
  irqRingErr : Bool
  /-- [1; Table 11.5; 0] HW.IRQ_STATUS EVENT_LOST. -/
  irqEventLost : Bool
  /-- [1; Table 11.5; 0] HW.IRQ_STATUS SPI_ERR. -/
  irqSpiErr : Bool
  /-- [8; Table 11.4; 0x0000_0001] HW.IRQ_ENABLE. -/
  irqEnable : Word
  /-- [1; R285; 0] HW.IRQ_CFG OD. -/
  openDrain : Bool
  /-- [16; R285; 0] HW.IRQ_CFG COAL_US. -/
  coalUs : Nat
  /-- [32; R284; 0] The latched upper half of node time. -/
  timeHi : Word
  /-- [32; R285; 0] The lower half of node time at the latch, as read. -/
  timeLo : Word
  /-- [32; R298; 0] HW.EVENT_LOST. -/
  eventLost : Nat
  /-- [32; R299; 0] HW.BULK_DROPPED. -/
  bulkDropped : Nat
  /-- [18; R285; 0x0_A000] HW.BULK_POOL_BASE. -/
  poolBase : Nat
  /-- [19; R285; 0x2_0000] HW.BULK_POOL_SIZE. -/
  poolSize : Nat
  /-- [offset and size; R290; empty] Pool buffers in use, oldest first. -/
  poolItems : List (Nat × Nat)
  /-- [18; R290; 0] Where the next buffer starts, from the pool base. -/
  poolNext : Nat
  /-- [registers; Table 11.6] COMMAND, RESPONSE, EVENT, BULK. -/
  rings : List Ring
  /-- [list; R294; empty] Commands in flight on every route, in the order taken. -/
  inFlight : List InFlight
  /-- [list; R307; empty] Commands that Rilfy and the tunnels have brought and that wait to be taken, oldest first. -/
  waiting : List Waiting
  /-- [2; R307; 0 (log 14)] The route whose turn it is: an origin code. -/
  turn : Nat
  /-- [16 x 64 bytes; R309; empty] Final responses held while RESPONSE is disabled. -/
  heldResponses : List Bytes
  /-- [1,024 x 192 bytes; R299; empty] Undercoat's delivery queue, oldest first. -/
  delivery : List Bytes
  /-- [1,024 x 192 bytes; R247, R385; empty] Profile readings that wait for the profile store, oldest first. -/
  toStore : List Bytes
  /-- [words; R280; empty] The words the last read frame returned on HSPI_MISO. -/
  miso : List Word
  /-- [1; R314; false] A HAWK_RESET waits for the host's commands in flight. -/
  resetting : Bool
  deriving DecidableEq, Repr

/-! ### Memory, DMA, flash (chapter 13) -/

/-- States of a descriptor (Table 13.9). -/
inductive DescState where
  | pending | active | done | suspended | aborted
  deriving DecidableEq, Repr

/-- Causes of a descriptor (Table 13.9). -/
inductive DescCause where
  | none_ | pageFault | permission | revoked | legal | integrity | stopped | badDesc | target
  deriving DecidableEq, Repr

/-- A descriptor in the pool (Table 13.9), with what the engine writes back. -/
structure PoolDesc where
  index : Nat
  desc : Descriptor
  state : DescState
  cause : DescCause
  done : Nat
  deriving DecidableEq, Repr

/-- One DMA channel (R369, R377, R378). -/
structure DmaChannel where
  /-- [2; R369; 0 (log 5)] Priority. -/
  prio : Nat
  /-- [14; R370; none] Pool index of the current descriptor. -/
  current : Option Nat
  /-- [1; R369; false] A mover holds the channel. -/
  running : Bool
  /-- [1; R378; false] Suspended. -/
  suspended : Bool
  /-- [32; R378; 0 (log 5)] FAULT_IOVA. -/
  faultIova : Nat
  /-- [1; R378; 0 (log 5)] FAULT_SIDE: true is destination. -/
  faultDst : Bool
  /-- [64; R377; 0] Order in which the channel took its mover. -/
  since : Nat
  deriving DecidableEq, Repr

/-- A TLB entry (R374): page of the IOVA, physical page, R and W. -/
structure TlbEntry where
  page : Nat
  phys : Nat
  canRead : Bool
  canWrite : Bool
  deriving DecidableEq, Repr

/-- A guard window (R376): base and size of a physical range, and whether it is revoked. -/
structure GuardWindow where
  base : Nat
  size : Nat
  revoked : Bool
  deriving DecidableEq, Repr

structure MemSys where
  /-- [bytes; R348, R363; nothing listed] Contents of the non-legal physical map: Undercoat region, capture region, Hawk area, non-legal MRAM and flash window; canonical (log 13). -/
  cells : List Host.Cell
  /-- [1 per line; R363; none] Poisoned lines: addresses divided by 32. -/
  poisoned : List Nat
  /-- [72 per word; R352, R354; none] Words of non-legal MRAM whose check bits show an uncorrectable error: addresses divided by 8. -/
  badWords : List Nat
  /-- [channels; R369] CH0 to CH31. -/
  channels : List DmaChannel
  /-- [pool; R370; empty] Descriptors submitted and not reused. -/
  pool : List PoolDesc
  /-- [32; R373; 0 (log 5)] ROOT of the level-1 table. -/
  root : Nat
  /-- [64; R374; empty] The TLB, most recently used first. -/
  tlb : List TlbEntry
  /-- [8; R376; the four shipped windows, released] Guard windows. -/
  windows : List GuardWindow
  /-- [n/a; R377; 0] Counts mover grants, to order them. -/
  grants : Nat
  /-- [32; R378; 0] Events of the engine to the AC. -/
  events : Nat
  deriving DecidableEq, Repr

/-- An erase-journal word (Table 13.5). -/
structure JournalWord where
  sector : Nat
  state : Nat
  erases : Nat
  gen : Nat
  deriving DecidableEq, Repr

/-- What the xSPI controller is doing (R358, R361). -/
inductive FlashJob where
  | erase (sector attempts : Nat) (store : Nat)
  | programReading (bytes : Bytes)
  | programArchive (bytes : Bytes)
  deriving DecidableEq, Repr

structure Flash where
  /-- [9; R356; 256 (log 5)] Density of the fitted device in MiB: 32, 64, 128 or 256. -/
  density : Nat
  /-- [64 per sector; R358; GEN 0, WRITTEN (log 5)] Erase-journal words other than the reset word, sectors rising. -/
  journal : List JournalWord
  /-- [list; R358; empty] Erases and programs in progress, oldest first. -/
  jobs : List FlashJob
  /-- [16 x 64, sector and offset; R355, R361; first sector, 64 (log 5)] Profile store head. -/
  profHeadWords : Rotated (Nat × Nat)
  /-- [sector; R361; first sector (log 5)] Profile store tail. -/
  profTail : Nat
  /-- [64 x 64, sector and offset; R355, R361; first sector, 64 (log 5)] Archive head, as committed. -/
  archHeadWords : Rotated (Nat × Nat)
  /-- [sector; R361; first sector (log 5)] Archive tail. -/
  archTail : Nat
  /-- [R361; none] Archive head not yet committed: sector and offset. -/
  archPending : Option (Nat × Nat)
  /-- [list; R362; none] Sectors of the profile store that are skipped and whose readings count as lost. -/
  skipped : List Nat
  /-- [64; R361; 0] Step-free node time of the last archive head update. -/
  archCommitAt : Nat
  /-- [32; R247; 0] Readings lost from the profile store. -/
  profLost : Nat
  /-- [32; R484; 0] Archive records lost. -/
  archLost : Nat
  /-- [1; Table 19.2; false] FLASH_STORE fault: the profile store cannot append. -/
  storeFault : Bool
  deriving DecidableEq, Repr

/-! ### Crypto engine, keys and entropy (chapter 10) -/

/-- A key in an AC key slot (R331): TYPE 1 AES-128, 2 AES-256, 3 P-256 private. -/
structure KeySlot where
  type : Nat
  key : Bytes
  deriving DecidableEq, Repr

/-- A job of the engine (R268, R269). -/
inductive CryptoJob where
  | sha (data : Bytes)
  | gcm (decrypt : Bool) (slot : Nat) (iv aad text : Bytes) (textBegun : Bool)
  | sign (slot : Nat) (digest : Bytes)
  | verify (pub digest r s : Bytes)
  | ecdh (slot dest : Nat) (peer : Bytes)
  | keygen (slot : Nat)
  | random (count : Nat)
  | legal
  deriving DecidableEq, Repr

/-- A context of the engine (R269, R270). -/
structure Context where
  byLc : Bool
  /-- The number that the AC knows it by. -/
  number : Nat
  prio : Nat
  /-- Order of opening. -/
  opened : Nat
  /-- The route that opened it, and the command a one-shot job answers. -/
  owner : Origin
  call : Option Call
  job : CryptoJob
  /-- The key that the context holds from its open to its close (R269). -/
  key : Bytes
  /-- [16; R270] Suspensions. -/
  suspensions : Nat
  deriving DecidableEq, Repr

/-- The running state of the health tests of the noise source (R274). -/
structure NoiseTests where
  /-- The last raw bit, and how many in a row have equalled it. -/
  last : Bool
  run : Nat
  /-- The first bit of the window, how many of the window equal it, and how many bits of it have come. -/
  first : Bool
  same : Nat
  place : Nat
  deriving DecidableEq, Repr

structure Crypto where
  /-- [1 + 6, 1 + 11 + 10; R274; no bit yet] The tests on the raw bits of the noise source. -/
  noise : NoiseTests
  /-- [4; R269; all free] C0 to C3. -/
  contexts : List (Option Context)
  /-- [2; R270; empty] Save areas: the saved AC jobs, in the order saved. -/
  saved : List Context
  /-- [n/a; R269; 0] Counts openings, to order them. -/
  opens : Nat
  /-- [16 keys; R331; empty] AC key slots. -/
  slots : List (Option KeySlot)
  /-- [1; Table 12.11; false] FLAGS ENTROPY_FAIL. -/
  entropyFail : Bool
  /-- [1; R275; false] ENTROPY_LATCHED. -/
  latched : Bool
  /-- [8; R275; 0] Consecutive failed attempts. -/
  fails : Nat
  /-- [64; R275; 0] Step-free node time of the last failure. -/
  failedAt : Nat
  /-- [32; Table 12.10; 0 (log 5)] RCT_TRIPS, APT_TRIPS, RESEEDS. -/
  rctTrips : Nat
  aptTrips : Nat
  reseeds : Nat
  /-- [1; R274; false] The DRBG is seeded. -/
  seeded : Bool
  /-- [256; R274; 32 bytes of 0] The DRBG key. -/
  drbgKey : Bytes
  /-- [128; R274; 16 bytes of 0] The DRBG counter block V. -/
  drbgV : Bytes
  /-- [32; R274; 0] Generate calls since the last reseed. -/
  generates : Nat
  /-- [64; R274; 0] Step-free node time of the last reseed. -/
  reseedAt : Nat
  /-- [suspension count; R270; 0] The result of the last completed job: suspensions. -/
  lastSuspensions : Nat
  deriving DecidableEq, Repr

/-! ### Display (chapter 15) -/

/-- One EPD update in progress (R434 to R438). -/
structure EpdUpdate where
  /-- 0 to 7 the band, 8 compensation. -/
  kind : Nat
  /-- Class of each of the 48 segments (Table 15.8). -/
  classes : List Nat
  /-- Compensation: n of each segment. -/
  counts : List Nat
  /-- The phase running: 1 to 4, for compensation the binary phase 0 to 14; past the last one, ended. -/
  phase : Nat
  /-- Step-free node time at which the phase began. -/
  phaseAt : Nat
  deriving DecidableEq, Repr

/-- A ledger record (Table 15.8). -/
structure LedgerRecord where
  gen : Nat
  isOpen : Bool
  /-- The update that it describes: KIND, CLASS and COMP_N. -/
  update : Option EpdUpdate
  ledger : List Int
  total : Nat
  deriving DecidableEq, Repr

structure Display where
  /-- [512; R425; all off (log 5)] Live copies of the legal, commercial and status layers: lit segment indices, rising. -/
  legalLive : List Nat
  commLive : List Nat
  statusLive : List Nat
  /-- [512; R425; all off (log 5)] Staging copies. -/
  legalStage : List Nat
  commStage : List Nat
  statusStage : List Nat
  /-- [3; R425; false] Ready marks. -/
  legalReady : Bool
  commReady : Bool
  statusReady : Bool
  /-- [512; R423; all off (log 5)] The composite image. -/
  composite : List Nat
  /-- [1; R426; false] LEGAL_STALE. -/
  stale : Bool
  /-- [64; R426; none] Step-free node time of the last legal image copied. -/
  legalAt : Option Nat
  /-- [64; R504; none] Step-free node time of the last legal image written. -/
  legalWritten : Option Nat
  /-- [64; R426; none] Node time latched at the stale moment, not yet logged. -/
  staleTime : Option Nat
  /-- [1; R441; false] TEST_FAIL. -/
  testFail : Bool
  /-- [32; R442; 0] FRAMES. -/
  frames : Nat
  /-- [16; R432; 0] The generated VLCD in mV. -/
  vlcd : Nat
  /-- [8; R442; 0xFF] TEMP_BAND of the latest update. -/
  tempBand : Nat
  /-- [512; R434; all off (log 5)] The image on the EPD panel. -/
  panel : List Nat
  /-- [R434; none] The update in progress. -/
  update : Option EpdUpdate
  /-- [48 x 32 s; R436; 0 (log 5)] The DC ledger of each segment. -/
  ledger : List Int
  /-- [16 x 320 bytes; R438; none (log 5)] The ledger records in legal MRAM, newest first: GEN modulo 16 is the slot. -/
  records : List LedgerRecord
  /-- [32; R438; 0 (log 5)] TOTAL_UPDATES. -/
  totalUpdates : Nat
  /-- [32; R434; 0 (log 5)] TOTAL_UPDATES and step-free node time at the last full refresh. -/
  lastFull : Nat × Nat
  /-- [16 s; R437; 1,875 mV and -1,875 mV (log 5)] The latest samples of +V_C and -V_C. -/
  vcPlus : Int
  vcMinus : Int
  /-- [calls; R328; empty] COMM_COMMIT commands waiting for the frame boundary. -/
  commits : List Call
  /-- [64; R431; 0] Step-free node time of the last frame boundary of LCD mode. -/
  frameAt : Nat
  /-- [32; R440; 0] EPD phases that have ended. -/
  epdPhases : Nat
  /-- [list; R440; empty] Outputs that mismatched at their last check, with the frame or phase of that check. -/
  suspects : List (Nat × Nat)
  /-- [64 bytes each; R446; 0] LEGAL_SEG_MASK for which the staged legal image was written, and the one that the composer applies. -/
  maskStage : Bytes
  maskLive : Bytes
  deriving DecidableEq, Repr

/-! ### Operator ports (chapter 16) -/

/-- One touch pad (R451). -/
structure Pad where
  raw : Nat
  baseline : Rat
  scans : Nat
  touched : Bool
  above : Nat
  below : Nat
  since : Nat
  deriving DecidableEq, Repr

/-- One M-Bus table entry's run-time state (R464, R465). -/
structure MbusEntry where
  fcb : Bool
  failed : Nat
  responding : Option Bool
  lastOk : Option Nat
  raw : Option Bytes
  deriving DecidableEq, Repr

structure Ports where
  /-- [8 pads; R451; untouched] Touch pads. -/
  pads : List Pad
  /-- [8 each; R452; 0] TOUCHED is kept in the pads; PRESSED, RELEASED, RECAL. -/
  pressed : BitVec 8
  released : BitVec 8
  recal : BitVec 8
  /-- [32; R452; 0] SCAN_SEQ. -/
  scanSeq : BitVec 32
  /-- [16; R455; 3,000 mV (log 5)] The latest VBAT measurement in mV. -/
  vbat : Nat
  /-- [1; R455; false] VBAT counts as low. -/
  vbatLow : Bool
  /-- [1; R455; 0] Measurements at or above 2,450 mV in succession. -/
  vbatGood : Nat
  /-- [1; R457; false] VBUS is valid. -/
  vbus : Bool
  /-- [1; R457; false] A USB service session runs. -/
  usbSession : Bool
  /-- [2; R458, R459, R461; idle] Optical port: 0 idle, 1 identified, 2 readout, 3 Rilfy. -/
  optState : Nat
  /-- [64; R459, R461; 0] Step-free node time of the last optical event. -/
  optAt : Nat
  /-- [3; R459; 0] Rate index Z in force: 0 is 300 baud. -/
  optRate : Nat
  /-- [R459, R467; none] The readout message that is leaving. -/
  optOut : Bytes
  /-- [64 entries; R464; not polled] M-Bus entries. -/
  mbus : List MbusEntry
  /-- [R464; none] Poll cycle in progress: entry index, tries made, waiting for the selection's 0xE5. -/
  mbusCycle : Option (Nat × Nat × Bool)
  /-- [64; R464; 0] Node time of the last cycle start. -/
  mbusCycleAt : Nat
  /-- [64; R464; 0] Step-free node time of the last frame sent to a meter. -/
  mbusSentAt : Nat
  /-- [R468; false] The result of the transaction in progress is to be discarded. -/
  mbusDiscard : Bool
  /-- [R503; none] The pending final response of an activation for the next service session, and the step-free time of READY. -/
  servicePending : Option (Bytes × Nat)
  deriving DecidableEq, Repr

/-! ### Fabric (chapter 14) -/

/-- A frame waiting in a transmit queue (R411). -/
structure TxFrame where
  type : Nat
  dst : Nat
  hop : Nat
  src : Nat
  payload : Bytes
  deriving DecidableEq, Repr

/-- A session of a link (R389 to R391). -/
structure LinkSession where
  key : Bytes
  epoch : Nat
  since : Nat
  txSeq : Nat
  rxSeq : Nat
  /-- The renewal under way: own fresh NONCE and the peer's, once received. -/
  renewal : Option (Bytes × Option Bytes)
  /-- Step-free node time of the last renewal attempt. -/
  renewalAt : Nat
  /-- The old session's key and receive count, accepted until the first frame of the new epoch. -/
  old : Option (Bytes × Nat × Nat)
  deriving DecidableEq, Repr

/-- One fabric port (R393 to R395, R401, R411). -/
structure Port where
  /-- [3; R393; DISABLED until FE start] STATE. -/
  state : Nat
  /-- [64; R412; 0] Step-free node time of the last state change. -/
  at_ : Nat
  /-- [64; R393; 0] Step-free node time of the last HELLO sent. -/
  helloAt : Nat
  /-- [128; R393; empty] This port's NONCE. -/
  nonce : Bytes
  /-- [128; R394; empty] The latest NONCE received from the peer. -/
  peerNonce : Bytes
  /-- [64; R394; 0] NODE_ID of the sender of the latest handshake HELLO, or of the peer. -/
  peerId : Nat
  /-- [14; R394; 0] The peer's address. -/
  peerAddr : Nat
  /-- [2; R394; 0] Qualifying handshake HELLOs in succession. -/
  hellos : Nat
  /-- [64; R394; 0] Step-free node time of the latest of them. -/
  lastHello : Nat
  /-- [R391; none] The session. -/
  session : Option LinkSession
  /-- [64; R395; 0] Step-free node time of the last authenticated frame. -/
  lastAuth : Nat
  /-- [5; R395; 0] Consecutive frames that failed authentication. -/
  authFails : Nat
  /-- [32 each; Table 12.8; 0 (log 5)] RX, TX, CRC_ERR, AUTH_ERR, EARLY, DROPPED. -/
  rx : Nat
  tx : Nat
  crcErr : Nat
  authErr : Nat
  early : Nat
  dropped : Nat
  /-- [64 KiB; R411; empty] The transmit queue in arrival order. -/
  queue : List TxFrame
  /-- [64; R386, R401; 0] Step-free node time at which the line is free of the frame under way. -/
  lineUntil : Nat
  /-- [64; R401; 0] Step-free node time of the last TIME_REQ queued. -/
  reqAt : Nat
  /-- [16; R401; 0] The next REQ_ID. -/
  reqId : Nat
  /-- [R401; none] The TIME_REQ awaiting its response: REQ_ID and t1. -/
  pendingReq : Option (Nat × Nat)
  /-- [R401; none] The TIME_RESP scheduled: REQ_ID, t2, t3. -/
  pendingResp : Option (Nat × Nat × Nat)
  /-- [R402; empty] Exchanges of the running second: offset, delay, t4, upstream status FINE. -/
  exchanges : List (Int × Int × Nat × Bool)
  deriving DecidableEq, Repr

/-- An entry of the LSA database (Table 14.8). -/
structure Lsa where
  nodeId : Nat
  seqNo : Nat
  addr : Nat
  addrState : Nat
  priority : Nat
  role : Nat
  status : Nat
  lock : Nat
  calId : Nat
  /-- PEER_ID, COST, PORT of each link. -/
  links : List (Nat × Nat × Nat)
  /-- Step-free node time of receipt. -/
  at_ : Nat
  deriving DecidableEq, Repr

/-- A route (R400): destination, port, hops, cost. -/
structure Route where
  dest : Nat
  port : Nat
  hops : Nat
  cost : Nat
  deriving DecidableEq, Repr

/-- Pieces of a tunnel being assembled (R407). -/
structure TunnelPieces where
  id : Nat
  src : Nat
  /-- The port that the latest piece arrived on. -/
  port : Nat
  data : Bytes
  at_ : Nat
  deriving DecidableEq, Repr

/-- A tunnel that this node opened as manager (R329, R407). -/
structure Tunnel where
  id : Nat
  dest : Nat
  /-- The TUNNEL_SEND command, or none for a distribution item (R408). -/
  call : Option Call
  /-- For distribution: 1 calendar, 2 lock. -/
  item : Nat
  at_ : Nat
  deriving DecidableEq, Repr

structure Fabric where
  /-- [3; R393] Ports A, B, C. -/
  ports : List Port
  /-- [14; R396; 0 (log 5)] The node's address, or candidate. -/
  addr : Nat
  /-- [2; R397; NONE] ADDR_STATE: 0 NONE, 1 TENTATIVE, 2 ASSIGNED. -/
  addrState : Nat
  /-- [14; R397; none (log 5)] The address stored in non-legal MRAM. -/
  storedAddr : Option Nat
  /-- [7; R397; 0] The next candidate of R396 to try in this run. -/
  candidate : Nat
  /-- [64; R397; none] Step-free node time since which a link is UP and no conflict is seen. -/
  tentativeSince : Option Nat
  /-- [64 x 64; R355, R399; 0 (log 5)] LSA_SEQ in non-legal MRAM, rotated. -/
  lsaSeqWords : Rotated Nat
  /-- [64; R399; 0] Step-free node time of the last origination. -/
  lsaAt : Nat
  /-- [16,381; R399; empty] The LSA database. -/
  database : List Lsa
  /-- [1; R400; false] The database changed since the last computation. -/
  routesDue : Bool
  /-- [table; R400; empty] The routing table. -/
  routes : List Route
  /-- [2; R33; STANDALONE] ROLE: 0 STANDALONE, 1 WORKER, 2 MANAGER, 3 STANDBY_MANAGER. -/
  role : Nat
  /-- [14; R405; 0] The manager's and the standby manager's address in this node's view. -/
  manager : Nat
  standby : Nat
  /-- [64; R406; none] Step-free node time of the first QUIET end. -/
  quietEnd : Option Nat
  /-- [1; R406; false] The first evaluation is done. -/
  elected : Bool
  /-- [R406; none] A changed result standing: manager, standby, role, and since when. -/
  electing : Option (Nat × Nat × Nat × Nat)
  /-- [32 s; R402; 0] The latest discipline offset in ns. -/
  offset : Int
  /-- [3; R401; none] The upstream port. -/
  upstream : Option Nat
  /-- [32; R407; 1] The next TUNNEL_ID. -/
  nextTunnel : Nat
  /-- [list; R407; empty] Tunnels opened as manager. -/
  tunnels : List Tunnel
  /-- [4; R407; empty] Pieces being assembled. -/
  pieces : List TunnelPieces
  /-- [list; R407, R329; empty] Tunnels served as worker: TUNNEL_ID, the manager's address and the port that the tunnel arrives on. -/
  served : List (Nat × Nat × Nat)
  /-- [1,988 and 72 bytes; R408; none (log 5)] The distribution set: calendar and lock payloads. -/
  distCalendar : Option Bytes
  distLock : Option Bytes
  /-- [64; R408; 0] Step-free node time of the last distribution. -/
  distAt : Nat
  /-- [list; R408; empty] Refused items: worker address and item. -/
  refused : List (Nat × Nat)
  /-- [1,024; R409; empty] Readings not acknowledged: RID, reading, step-free node time sent. -/
  forward : List (Nat × Bytes × Nat)
  /-- [32; R409; 0] The next RID. -/
  nextRid : Nat
  /-- [64 per source; R409; empty] RIDs acknowledged by this manager: source and RID, newest first. -/
  acked : List (Nat × Nat)
  deriving DecidableEq, Repr

/-! ### Capture and Skim, update (chapters 17, 18) -/

/-- A Skim block in progress (R480). -/
structure SkimBlock where
  /-- The channel, or for a series 16 + 8 * MP + QD. -/
  src : Nat
  status : Nat
  seqFirst : Nat
  timeFirst : Nat
  stepS : Nat
  rseqFirst : Nat
  /-- NODE_TIME of the last reading of a series. -/
  timeLast : Nat
  /-- The block goes to the archive: as ARCHIVE_SOURCES stood when it began. -/
  archived : Bool
  /-- Newest first. -/
  samples : List Int
  deriving DecidableEq, Repr

/-- A running capture (R333). -/
structure Capture where
  call : Call
  mask : Nat
  bound : Nat
  blocksLeft : Option Nat
  sent : Nat
  dropped : Nat
  /-- CAPTURE_STOP was taken. -/
  stopping : Bool
  deriving DecidableEq, Repr

structure Skim where
  /-- [R333; none] The running capture. -/
  capture : Option Capture
  /-- [list; R480; empty] Blocks in progress. -/
  blocks : List SkimBlock
  deriving DecidableEq, Repr

/-- A staging in progress (R493 to R496). -/
structure Staging where
  component : Nat
  bankB : Bool
  size : Nat
  crc : Nat
  staged : Nat
  /-- Erases still to finish before the command completes: the command and the sectors left. -/
  call : Option Call
  sectorsLeft : List Nat
  deriving DecidableEq, Repr

/-- An activation in progress (R501 to R503, R507). -/
structure Activation where
  component : Nat
  bankB : Bool
  origin : Origin
  tag : Nat
  since : Nat
  /-- The bank was switched and the restart has begun. -/
  switched : Bool
  deriving DecidableEq, Repr

structure Update where
  /-- [R493; none] The open staging. -/
  staging : Option Staging
  /-- [R501, R507; none] The activation record. -/
  activation : Option Activation
  /-- [3; Table 18.5; empty] Ports UP at the activation of the FE microcode. -/
  portsBefore : List Nat
  /-- [1; Table 18.5; false] A READ_STATUS gate round trip returned DONE since READY. -/
  gateSeen : Bool
  deriving DecidableEq, Repr

/-- What left the part during a command, beyond the SPI port (log 16). -/
inductive Out where
  | syncOut (e : Nat)
  | syncOutLow
  | rilfy (port : Origin) (content : Bytes)
  | optical (chars : Bytes)
  | mbus (frame : Bytes)
  | scrim (port : Nat) (frame : Bytes)
  deriving DecidableEq, Repr

/-! ### The whole state -/

/-- The state of the part and the queue of commands that wait. -/
structure State where
  ntu : Ntu
  modDom : ModDomain
  aon : AlwaysOn
  boot : Boot
  /-- [sizes of Tables 12.14 to 12.16; R337 to R345, R553; every parameter at its default] Values of the parameters written since manufacture, IDs rising; a parameter not listed holds its default. -/
  params : List (Nat × Bytes)
  /-- [list; R342; empty] Values still in force for parameters whose stored value is PENDING. -/
  inForce : List (Nat × Bytes)
  /-- [16; R100] PCH0 to PCH15. -/
  channels : List Channel
  /-- [4; R105] EXC0 to EXC3. -/
  drivers : List Driver
  /-- [4 x 64; R109, R140; 0] f_MOD cycle at which the reversal counter of each RTD source last restarted. -/
  sources : List Nat
  /-- [16; R115] CNT0 to CNT15. -/
  counters : List Counter
  sync : Sync
  /-- [4; R17] MP0 to MP3. -/
  points : List MeterPoint
  legal : Legal
  gate : Gate
  hawk : Hawk
  mem : MemSys
  flash : Flash
  crypto : Crypto
  display : Display
  ports : Ports
  fabric : Fabric
  skim : Skim
  update : Update
  /-- [28 x 32; R525; 0 (log 5)] Diagnostic counters, indices 0 to 27. -/
  diagCounters : List Nat
  /-- [n/a; log 17; 0] Counts free values drawn. -/
  free : Nat
  /-- [n/a; log 16; empty] What the current command sent out of the part. -/
  out : List Out
  /-- [queue; the row's cut; empty] The commands that wait, first in first out. -/
  pending : List Instr
  deriving DecidableEq, Repr

/-! ### Reset: the part as manufactured (R553), supplies good, internal reset held (log 4) -/

def Ntu.reset : Ntu :=
  { acc := 0, steps := 0, rateAdj := 0, slew := 0, slewHigh := 0, clampLogged := false,
    status := .invalid, lockCount := 0, lastOffset := none, freq := 0, prevOffset := none,
    adjIntegral := 0, steppedSince := false, sysSource := .stopped, pllLockedAt := none,
    rtcWriteAt := 0, dspLocked := true, faCycle := 0, latchAt := none }

def ModDomain.reset : ModDomain :=
  { source := .stopped, cycle := 0, epochBase := 0, stamps := [], trackSince := none,
    outside := false, relocked := false, switches := [], latched := false, xoRuns := true,
    xoSince := none, halfRate := false }

def AlwaysOn.reset : AlwaysOn :=
  { powered := true, rtcSec := 0, rtcFrac := 0, trim := 0, trimAcc := 0, rtcValid := false,
    lostSupply := false, levels := none, buffer := [], sealCount := 0, coverCount := 0,
    termCount := 0, epoch := 0, epochSet := false, overflow := false, mainPower := true,
    updGen := 0, railIntegrals := [] }

def Component.reset : Component :=
  { activeB := false, bankA := ⟨.confirmed, false, true⟩, bankB := ⟨.empty, false, false⟩,
    trialSince := none, trialCommits := 0, running := false, recordBad := false }

def Boot.reset : Boot :=
  { stage := 0, measuring := false, errCode := 0, errComponent := 0, errBankB := false, warn := 0,
    xtal := false, cause := 1, lcv := 0, versions := [0, 0, 0, 0],
    slots := List.replicate 8 (List.replicate 32 0), components := List.replicate 4 Component.reset,
    bootCounter := 0, entropyTries := 0, entropyWait := 0, tagKey := List.replicate 32 0,
    loaded := List.replicate 4 [], romLockLc := false, romLockAc := false,
    railsGood := [true, true, true],
    held := true, resetLow := false, legalReady := false, lcHalt := false, lcRestarts := [], acRestarts := [],
    haltToLog := none, lcToLog := [], lossRtc := none, pauseFrom := none, displayPhase := 0, displayPhaseAt := 0,
    mainClockFault := false, legalStartAt := 0, appStartAt := 0, toPost := [], imageLog := 0,
    imageSealed := false }

def LineState.reset : LineState :=
  { crossings := 0, lastCrossing := none, period := none, good := 0, locked := false,
    hold := false, everLocked := false }

def Crossing.reset : Crossing :=
  { armed := false, prevFir := 0, prevInstant := 0, peak := 0, zeroAt := none, latest := none,
    period := none, good := 0, strong := 0 }

def Driver.reset : Driver :=
  { revBase := 0, vddExc := 5500, load := 1000000000, lead := 0, senseOpen := false }

def Channel.reset : Channel :=
  { running := false, settled := false, resetCycle := 0, firCount := 0, outCount := 0, words := 0,
    integrators := [], combs := [], cics := [], integral := 0, integralIn := 0, firs := [], rsPos := 0,
    rsStep := 4294967296, seqNo := 0, diag := 0, diagSeen := 0, diagAt := List.replicate 7 0,
    lastPair := none, setLogged := false, burstAt := none,
    burst := 0, diagCnt := 0, latest := none, recent := [], lastGood := none, line := LineState.reset,
    cross := Crossing.reset, timeStep := false, cycle := [], capIndex := 0, capTimes := [], capUnread := 0, capLine := [],
    capLoss := false, ratioUntil := none }

def Counter.reset : Counter :=
  { fwd := 0, rev := 0, quadError := 0, pos := 0, last := 0, ref := none, latchFwd := 0,
    latchRev := 0, latchTime := 0, primed := false, heldFwd := 0, heldRev := 0, level := none,
    errorNow := false, errorAt := none, unlogged := 0 }

def Sync.reset : Sync :=
  { lastSource := 0, lastE := 0, acceptedAt := none, ignored := 0, armed := none, outHigh := false }

def Weigh.reset : Weigh :=
  { zeroSet := false, zop := 0, zInit := 0, tare := none, window := [], since := none,
    stable := false, latest := none, lastPosition := none, badAt := none, zeroError := false, txn := none,
    nextTxn := 1, bodies := [] }

def Prov.reset : Prov :=
  { weights := List.replicate 16 0, accel := [], hist := [], last := [], lastTaken := none, terms := none,
    shown := false, lateDropped := 0, weightResets := 0 }

/-- A bank copy of manufacture (R553). -/
def BankCopy.factory (mp : Nat) : BankCopy :=
  { gen := 0, mp := mp, type := 0, subtype := 0, tstat := 0, commitS := 0, tariff := 0,
    saturated := false, wasReset := false, regs := List.replicate 256 0, intact := true }

def MeterPoint.reset (mp : Nat) : MeterPoint :=
  { gap := none, now := 0, mstat := 0, interval := 0, amounts := List.replicate 32 0,
    carried := List.replicate 32 0, copyA := BankCopy.factory mp, copyB := BankCopy.factory mp,
    regFault := false, openSums := List.replicate 8 0, openAt := none, openShort := false,
    openPeriod := 15, heldOpen := { at_ := none, sums := List.replicate 8 0, short := false, period := 15, interval := 0 },
    supply := [], back := [], volFwd := 0, volNext := 0, means := none, cycles := [],
    cycleStart := none, lastCycle := none, cyclesFrom := 0, cycleHold := none,
    harmSecond := none, refPhase := 0, weigh := Weigh.reset, prov := Prov.reset, extHeat := 0,
    extCool := 0, extVolume := 0, extLastRead := none, extBase := none, extSupplySum := 0,
    extSupplyN := 0, extReturnSum := 0, extReturnN := 0 }

/-- A copy of the calibration store of manufacture (R553). -/
def CalCopy.reset : CalCopy :=
  { gen := 0, blocks := List.replicate 4 (List.replicate 96 0), intact := true }

def Pedigree.reset : Pedigree := { sealOpen := false, fabricAddr := 0, calcnt := 0, cfgcnt := 0, lcv := 0 }

/-- No calendar (R553: every parameter at its default). -/
def CalendarSlot.none : CalendarSlot := { bytes := List.replicate 1920 0, state := 0, at_ := 0 }

def Legal.reset : Legal :=
  { calcnt := 0, cfgcnt := 0, tamperSeal := 0, tamperCover := 0, tamperTerm := 0, sealsess := 0,
    slarch := 0, sepFaults := 0, ownerCtr := 0, eventLog := [], elseqWords := .fresh 0, sealLog := [],
    missed := 0, fullLogged := false, sealOpen := false, session := false, rseqWords := .fresh 0, aseqWords := .fresh 0,
    committedEpoch := 0, committedN := 0, committedC := [0, 0, 0],
    calA := CalCopy.reset, calB := CalCopy.reset, calInForce := List.replicate 4 (List.replicate 96 0),
    calFault := [], calSeq := .none, active := CalendarSlot.none, passive := CalendarSlot.none,
    wrappedKeys := [Config.wrappedKey 0, Config.wrappedKey 1], readingKey := true, attestKey := true, faulted := [], storedTime := 0, tariff := 1, held := [],
    readingsMissed := 0, activation := .none, lastCommit := 0, closing := Pedigree.reset, activateFrom := 0,
    displayError := false,
    errorOutputs := [], errShown := false, errAt := 0, lcvScreen := 0, lowerHalf := false, screenAt := 0,
    regList := [], regValue := false, keysDown := [false, false, false, false], keysWait := false,
    keysStuck := [false, false, false, false], keysAt := [0, 0, 0, 0], slotsBefore := .none, diagBefore := [],
    torn := 0, badCounters := [], lastLcv := 0 }

def Gate.reset : Gate := { requests := [], replies := [], outbox := [], nextGseq := 1, waiting := [], own := [], atReset := 0 }

/-- A ring with the reset values of Table 11.6. -/
def Ring.reset (base log2 : Nat) : Ring :=
  { base := base, log2 := log2, enable := true, active := true, head := 0, tail := 0, idxErr := false,
    cfgErr := false, thresh := 1, seqNo := 0, lost := false, posted := [] }

/-- A ring that the part does not have. -/
def Ring.absent : Ring := { Ring.reset 0 0 with enable := false, active := false, thresh := 0 }

/-- The rings with the reset values of Table 11.6; until READY nothing uses them (R285, log 38). -/
def readyRings : List Ring :=
  [Ring.reset 0x0000 6, Ring.reset 0x1000 6, Ring.reset 0x2000 8, Ring.reset 0x6000 8]

/-- The bulk pool's reset values (Table 11.4). -/
def poolBaseReset : Nat := 0xA000
def poolSizeReset : Nat := 0x20000

def Hawk.reset : Hawk :=
  { lastStatus := 0, misoStatus := 0, frameErr := 0, scratch := 0, irqStage := false, irqRingErr := false,
    irqEventLost := false, irqSpiErr := false, irqEnable := 1, openDrain := false, coalUs := 0,
    timeHi := 0, timeLo := 0, eventLost := 0, bulkDropped := 0, poolBase := poolBaseReset, poolSize := poolSizeReset,
    poolItems := [], poolNext := 0, rings := readyRings, inFlight := [], waiting := [], turn := 0,
    heldResponses := [], delivery := [], toStore := [], miso := [], resetting := false }

def DmaChannel.reset : DmaChannel :=
  { prio := 0, current := none, running := false, suspended := false, faultIova := 0,
    faultDst := false, since := 0 }

/-- The guard windows of the firmware as shipped: four in use and four of no size (R376, Table 13.4). -/
def shippedWindows : List GuardWindow :=
  [⟨0x40000000, 0x100000, false⟩, ⟨0x40100000, 0x100000, false⟩, ⟨0x40200000, 0x40000, false⟩,
   ⟨0x40240000, 0x40000, false⟩] ++ List.replicate 4 ⟨0, 0, false⟩

def MemSys.reset : MemSys :=
  { cells := [], poisoned := [], badWords := [], channels := List.replicate 32 DmaChannel.reset, pool := [],
    root := 0, tlb := [], windows := shippedWindows, grants := 0, events := 0 }

def Flash.reset : Flash :=
  { density := 256, journal := [], jobs := [], profHeadWords := .fresh (192, 64), profTail := 192,
    archHeadWords := .fresh (1216, 64), archTail := 1216, archPending := none, skipped := [], archCommitAt := 0, profLost := 0,
    archLost := 0, storeFault := false }

def NoiseTests.reset : NoiseTests := { last := false, run := 0, first := false, same := 0, place := 0 }

def Crypto.reset : Crypto :=
  { noise := NoiseTests.reset, contexts := [none, none, none, none], saved := [], opens := 0, slots := List.replicate 16 none,
    entropyFail := false, latched := false, fails := 0, failedAt := 0, rctTrips := 0, aptTrips := 0,
    reseeds := 0, seeded := false, drbgKey := List.replicate 32 0, drbgV := List.replicate 16 0,
    generates := 0, reseedAt := 0, lastSuspensions := 0 }

def Display.reset : Display :=
  { legalLive := [], commLive := [], statusLive := [], legalStage := [], commStage := [],
    statusStage := [], legalReady := false, commReady := false, statusReady := false,
    composite := [], stale := false, legalAt := none, legalWritten := none, staleTime := none, testFail := false,
    frames := 0, vlcd := 0, tempBand := 255, panel := [], update := none,
    ledger := List.replicate 48 0, records := [], totalUpdates := 0, lastFull := (0, 0), vcPlus := 1875, vcMinus := -1875, commits := [],
    frameAt := 0, epdPhases := 0, suspects := [], maskStage := List.replicate 64 0, maskLive := List.replicate 64 0 }

def Pad.reset : Pad :=
  { raw := 0, baseline := 0, scans := 0, touched := false, above := 0, below := 0, since := 0 }

def MbusEntry.reset : MbusEntry :=
  { fcb := true, failed := 0, responding := none, lastOk := none, raw := none }

def Ports.reset : Ports :=
  { pads := List.replicate 8 Pad.reset, pressed := 0, released := 0, recal := 0, scanSeq := 0,
    vbat := 3000, vbatLow := false, vbatGood := 0, vbus := false, usbSession := false,
    optState := 0, optAt := 0, optRate := 0, optOut := [], mbus := List.replicate 64 MbusEntry.reset,
    mbusCycle := none, mbusCycleAt := 0, mbusSentAt := 0, mbusDiscard := false, servicePending := none }

def Port.reset : Port :=
  { state := 0, at_ := 0, helloAt := 0, nonce := [], peerNonce := [], peerId := 0, peerAddr := 0,
    hellos := 0, lastHello := 0, session := none, lastAuth := 0, authFails := 0, rx := 0, tx := 0,
    crcErr := 0, authErr := 0, early := 0, dropped := 0, queue := [], lineUntil := 0, reqAt := 0, reqId := 0,
    pendingReq := none, pendingResp := none, exchanges := [] }

def Fabric.reset : Fabric :=
  { ports := List.replicate 3 Port.reset, addr := 0, addrState := 0, storedAddr := none,
    candidate := 0, tentativeSince := none, lsaSeqWords := .fresh 0, lsaAt := 0,
    database := [], routesDue := false, routes := [], role := 0, manager := 0, standby := 0,
    quietEnd := none, elected := false, electing := none, offset := 0, upstream := none,
    nextTunnel := 1, tunnels := [], pieces := [], served := [], distCalendar := none,
    distLock := none, distAt := 0, refused := [], forward := [], nextRid := 0, acked := [] }

def Skim.reset : Skim := { capture := none, blocks := [] }

def Update.reset : Update :=
  { staging := none, activation := none, portsBefore := [], gateSeen := false }

/-- The machine right after reset, as log 4 says. -/
def State.reset : State :=
  { ntu := Ntu.reset, modDom := ModDomain.reset, aon := AlwaysOn.reset, boot := Boot.reset,
    params := [], inForce := [], channels := List.replicate 16 Channel.reset,
    drivers := List.replicate 4 Driver.reset, sources := List.replicate 4 0,
    counters := List.replicate 16 Counter.reset, sync := Sync.reset,
    points := (List.range 4).map MeterPoint.reset, legal := Legal.reset, gate := Gate.reset,
    hawk := Hawk.reset, mem := MemSys.reset, flash := Flash.reset, crypto := Crypto.reset,
    display := Display.reset, ports := Ports.reset, fabric := Fabric.reset, skim := Skim.reset,
    update := Update.reset, diagCounters := List.replicate 32 0, free := 0, out := [],
    pending := [] }

/-- Reasons to stop with a fault. No behaviour of the GL640 stops the machine without a state that
the spec describes, so no command raises one. -/
inductive Fault where
  /-- Raised by no command; kept so that the type has a name for a stop the spec does not describe. Safe. -/
  | undescribed
  deriving DecidableEq, Repr

/-- Reasons to refuse a command. -/
inductive Refusal where
  /-- Raised by a dispatch arm whose command has no meaning yet. Safe. -/
  | notModelled (mnemonic : String)
  deriving DecidableEq, Repr

end Sys2Proof.Machine
end

