-- ==== Sys2Proof/Machine/Ops.lean ====
section
/-! DEFINITION. The named operations over the state: memory, time, the logs, the gate, the rings and
the responses. -/

namespace Sys2Proof.Machine

/-! ### Status codes (Table 11.10) -/

def stDone : Nat := 0x00
def stAccepted : Nat := 0x01
def stBusy : Nat := 0x02
def stNotReady : Nat := 0x03
def stBadOpcode : Nat := 0x04
def stBadParam : Nat := 0x05
def stDeniedSeal : Nat := 0x06
def stDeniedLock : Nat := 0x07
def stDeniedState : Nat := 0x08
def stNoResource : Nat := 0x09
def stFault : Nat := 0x0A
def stEntropyFail : Nat := 0x0B
def stTimeInvalid : Nat := 0x0C
def stIntegrity : Nat := 0x0D
def stTimeout : Nat := 0x0E
def stAborted : Nat := 0x0F
def stIncompatible : Nat := 0x10
def stInvalid : Nat := 0x11
def stMoving : Nat := 0x12
def stLowBattery : Nat := 0x13

/-- Table 11.11. -/
def originCode : Origin → Nat
  | .host => 0
  | .service => 1
  | .optical => 2
  | .fabric => 3

/-! ### Memory (R348, R352, R363, log 13) -/

/-- The non-legal physical memory that the model holds, in one canonical form. -/
abbrev Memory := List Host.Cell

/-- What an address that no cell lists reads as: erased flash in the xSPI window, else 0. -/
def emptyByte (a : Nat) : Byte := if 0x40000000 ≤ a ∧ a ≤ 0x4FFFFFFF then 0xFF#8 else 0x00#8

/-- The byte at an address. -/
def Memory.read : Memory → Nat → Byte
  | [], a => emptyByte a
  | c :: cs, a => if c.1 = a then c.2 else Memory.read cs a

/-- One byte written, keeping the canonical form. -/
def Memory.write : Memory → Nat → Byte → Memory
  | [], a, b => if b = emptyByte a then [] else [(a, b)]
  | c :: cs, a, b =>
    if c.1 < a then c :: Memory.write cs a b
    else if c.1 = a then (if b = emptyByte a then cs else (a, b) :: cs)
    else if b = emptyByte a then c :: cs else (a, b) :: c :: cs

/-- Every address of `m` is above `lo`, rising, and no cell holds what an unlisted one reads as. -/
def Memory.wfAbove : Option Nat → Memory → Bool
  | _, [] => true
  | lo, c :: cs =>
    (match lo with
      | none => true
      | some l => decide (l < c.1)) && decide (c.2 ≠ emptyByte c.1) && Memory.wfAbove (some c.1) cs

/-- The canonical form: addresses strictly rising, no cell equal to the unlisted value. -/
def Memory.wf (m : Memory) : Bool := Memory.wfAbove none m

/-- `n` bytes from `a`. -/
def Memory.readBytes (m : Memory) (a n : Nat) : Bytes := (upTo n).map (fun i => m.read (a + i))

/-- Bytes written from `a`. -/
def Memory.writeBytes : Memory → Nat → Bytes → Memory
  | m, _, [] => m
  | m, a, b :: bs => Memory.writeBytes (m.write a b) (a + 1) bs

/-- A range made to read as never written. -/
def Memory.clear (m : Memory) (a n : Nat) : Memory := m.filter (fun c => c.1 < a || a + n ≤ c.1)

/-- The pieces of a byte string that fall in each 32-byte line. -/
def lineChunks : Nat → Nat → Bytes → List (Nat × Bytes)
  | 0, _, _ => []
  | n + 1, a, bs =>
    if bs.isEmpty then []
    else
      let k := 32 - a % 32
      (a, bs.take k) :: lineChunks n (a + k) (bs.drop k)

/-- Whether the line of an address is poisoned (R364). -/
def MemSys.isPoisoned (m : MemSys) (a : Nat) : Bool := m.poisoned.contains (a / 32)

def MemSys.poison (m : MemSys) (a : Nat) : MemSys :=
  if m.isPoisoned a then m else { m with poisoned := a / 32 :: m.poisoned }

/-- A write within one line (Table 13.7): a full line clears the poison, a partial write to a
poisoned line is not performed. -/
def MemSys.writeChunk (m : MemSys) (c : Nat × Bytes) : MemSys :=
  if c.2.length = 32 then
    { m with cells := Memory.writeBytes m.cells c.1 c.2, poisoned := m.poisoned.erase (c.1 / 32) }
  else if m.isPoisoned c.1 then m
  else { m with cells := Memory.writeBytes m.cells c.1 c.2 }

/-- A write to system SRAM, line by line (R365). -/
def MemSys.sramWrite (m : MemSys) (a : Nat) (bs : Bytes) : MemSys :=
  (lineChunks bs.length a bs).foldl MemSys.writeChunk m

/-- Whether a write of these bytes meets a poisoned line that it does not replace. -/
def MemSys.writeFails (m : MemSys) (a : Nat) (bs : Bytes) : Bool :=
  (lineChunks bs.length a bs).any (fun c => c.2.length != 32 && m.isPoisoned c.1)

/-- Whether a read of `n` bytes meets a poisoned line. -/
def MemSys.readFails (m : MemSys) (a n : Nat) : Bool :=
  m.poisoned.any (fun l => a / 32 ≤ l && l ≤ (a + n - 1) / 32 && 0 < n)

/-- The start of the Hawk area (Table 13.1). -/
def hawkBase : Nat := 0x203C0000

/-! ### Parts of the state by index -/

def State.channel (s : State) (i : Nat) : Channel := s.channels.getD i Channel.reset
def State.counter (s : State) (i : Nat) : Counter := s.counters.getD i Counter.reset
def State.point (s : State) (i : Nat) : MeterPoint := s.points.getD i (MeterPoint.reset i)
def State.port (s : State) (i : Nat) : Port := s.fabric.ports.getD i Port.reset
def State.ring (s : State) (i : Nat) : Ring := s.hawk.rings.getD i Ring.absent
def State.component (s : State) (i : Nat) : Component := s.boot.components.getD i Component.reset

def State.modChannel (s : State) (i : Nat) (f : Channel → Channel) : State :=
  { s with channels := s.channels.modify i f }
def State.modCounter (s : State) (i : Nat) (f : Counter → Counter) : State :=
  { s with counters := s.counters.modify i f }
def State.modDriver (s : State) (k : Nat) (f : Driver → Driver) : State :=
  { s with drivers := s.drivers.modify k f }
def State.modPoint (s : State) (i : Nat) (f : MeterPoint → MeterPoint) : State :=
  { s with points := s.points.modify i f }
def State.modWeigh (s : State) (i : Nat) (f : Weigh → Weigh) : State :=
  s.modPoint i (fun p => { p with weigh := f p.weigh })
def State.modProv (s : State) (i : Nat) (f : Prov → Prov) : State :=
  s.modPoint i (fun p => { p with prov := f p.prov })
def State.modFabric (s : State) (f : Fabric → Fabric) : State := { s with fabric := f s.fabric }
def State.modPort (s : State) (i : Nat) (f : Port → Port) : State :=
  s.modFabric (fun x => { x with ports := x.ports.modify i f })
def State.modHawk (s : State) (f : Hawk → Hawk) : State := { s with hawk := f s.hawk }
def State.modRing (s : State) (i : Nat) (f : Ring → Ring) : State :=
  s.modHawk (fun h => { h with rings := h.rings.modify i f })
def State.modBoot (s : State) (f : Boot → Boot) : State := { s with boot := f s.boot }
def State.modComponent (s : State) (i : Nat) (f : Component → Component) : State :=
  s.modBoot (fun b => { b with components := b.components.modify i f })
def State.modLegal (s : State) (f : Legal → Legal) : State := { s with legal := f s.legal }
def State.modNtu (s : State) (f : Ntu → Ntu) : State := { s with ntu := f s.ntu }
def State.modMod (s : State) (f : ModDomain → ModDomain) : State := { s with modDom := f s.modDom }
def State.modAon (s : State) (f : AlwaysOn → AlwaysOn) : State := { s with aon := f s.aon }
def State.modMem (s : State) (f : MemSys → MemSys) : State := { s with mem := f s.mem }
def State.modFlash (s : State) (f : Flash → Flash) : State := { s with flash := f s.flash }
def State.modCrypto (s : State) (f : Crypto → Crypto) : State := { s with crypto := f s.crypto }
def State.modDisplay (s : State) (f : Display → Display) : State := { s with display := f s.display }
def State.modPorts (s : State) (f : Ports → Ports) : State := { s with ports := f s.ports }
def State.modSync (s : State) (f : Sync → Sync) : State := { s with sync := f s.sync }
def State.modUpdate (s : State) (f : Update → Update) : State := { s with update := f s.update }
def State.modSkim (s : State) (f : Skim → Skim) : State := { s with skim := f s.skim }
def State.modGate (s : State) (f : Gate → Gate) : State := { s with gate := f s.gate }

/-- Adds `n` to a diagnostic counter, which saturates (R525). -/
def State.bump (s : State) (i : Nat) (n : Nat := 1) : State :=
  { s with diagCounters := s.diagCounters.modify i (fun c => satAdd 0xFFFFFFFF c n) }

/-- What leaves the part. -/
def State.emit (s : State) (o : Out) : State := { s with out := s.out ++ [o] }

/-- A value that the manual leaves open, of `w` bits, and the state after drawing it (log 9). -/
def State.drawFree (s : State) (w : Nat) : BitVec w × State :=
  (Config.freeValue w s.free, { s with free := s.free + 1 })

/-! ### Time (R75 to R82) -/

/-- INC at its nominal value, 32 integer and 32 fraction bits (R75). -/
def incNominal : Nat := 0x29AAAAAAB

/-- 60 s in units of 2^-32 ns: the limit of NET_SLEW (R78). -/
def slewLimit : Int := 60000000000 * 4294967296

/-- Node time in ns (R75). -/
def Ntu.time (n : Ntu) : Nat := n.acc / 4294967296 % 18446744073709551616

/-- Node time with the steps subtracted (R80). -/
def Ntu.mono (n : Ntu) : Nat := ((n.time : Int) - n.steps).toNat

def State.nodeTime (s : State) : Nat := s.ntu.time

/-- Every duration "with steps excluded" is a difference of this. -/
def State.mono (s : State) : Nat := s.ntu.mono

/-- The increment of one system cycle from the source in force (R75, R521). -/
def Ntu.inc (n : Ntu) : Nat :=
  match n.sysSource with
  | .stopped => 0
  | .pll => incNominal
  | .rc => 8 * incNominal

/-- What RATE_ADJ adds over `n` system cycles, with the clamp of R78: it never takes NET_SLEW further
from 0 than 60 s. -/
def Ntu.slewOver (u : Ntu) (n : Nat) : Int :=
  let d := ((n * u.inc : Nat) : Int) * u.rateAdj / 1000000000
  if 0 ≤ d then (if slewLimit ≤ u.slew + d then max 0 (slewLimit - u.slew) else d)
  else if u.slew + d ≤ -slewLimit then min 0 (-slewLimit - u.slew) else d

/-- `n` system cycles pass (R75, R77, R78, R144). A RATE_ADJ that the NTU ignores at the limit of R78 is not in
force, so the mean of R550 takes what it has added. -/
def Ntu.advance (u : Ntu) (n : Nat) : Ntu :=
  let d := u.slewOver n
  let total := ((n * u.inc : Nat) : Int) + d
  let whole := ((n * u.inc : Nat) : Int) * u.rateAdj / 1000000000
  let inForce : Rat := if d = whole then (u.rateAdj : Rat) * (total : Rat) else (d : Rat) * 1000000000
  { u with
    acc := ((u.acc : Int) + total).toNat % 2 ^ 96
    slew := u.slew + d
    adjIntegral := u.adjIntegral + inForce / 4294967296
    faCycle := if u.dspLocked then (u.faCycle + 125 * n) % 2 ^ 37 else u.faCycle }

/-- `n` f_MOD cycles pass (R73). -/
def ModDomain.advance (m : ModDomain) (n : Nat) : ModDomain :=
  match m.source with
  | .stopped => m
  | _ => { m with cycle := m.cycle + n }

/-- `n` ticks of the always-on clock pass, with the trim in steps of 0.954 ppm (R84, R85). -/
def AlwaysOn.advance (a : AlwaysOn) (n : Nat) : AlwaysOn :=
  if a.powered then
    let t := (n : Int) * (1000000000 + 954 * a.trim) + a.trimAcc
    let frac := a.rtcFrac + (t / 1000000000).toNat
    { a with
      trimAcc := t % 1000000000
      rtcFrac := frac % 32768
      rtcSec := (a.rtcSec + frac / 32768) % 4294967296 }
  else a

/-- SYNC_OUT falls 8 modulator clocks after E: 2 cycles of f_MOD, or 1 at 3.072 MHz (R143). -/
def State.syncFalls (s : State) (n : Nat) : Bool :=
  s.sync.outHigh && decide (s.modDom.epochBase + (if s.modDom.halfRate then 1 else 2) ≤ (s.modDom.advance n).cycle)

/-- The time before a command passes; what the last command sent is gone (log 1, log 16). -/
def State.elapse (s : State) (dt : Ticks) : State :=
  let falls := s.syncFalls dt.mod
  { s with
    ntu := s.ntu.advance dt.sys
    modDom := s.modDom.advance dt.mod
    aon := s.aon.advance dt.aon
    sync := { s.sync with outHigh := s.sync.outHigh && !falls }
    out := if falls then [.syncOutLow] else [] }

/-- Table 3.5. -/
def TimeStatus.code : TimeStatus → Nat
  | .invalid => 0
  | .coarse => 1
  | .fine => 2

/-- Whether `ns` nanoseconds have passed, steps excluded, since `t`. -/
def State.since (s : State) (t ns : Nat) : Bool := t + ns ≤ s.mono

/-- The same for a time that may not be set. -/
def State.sinceOpt (s : State) (t : Option Nat) (ns : Nat) : Bool :=
  match t with
  | none => false
  | some t => s.since t ns

def second : Nat := 1000000000
def milli : Nat := 1000000
def micro : Nat := 1000

/-- The rate f_MOD in Hz (R71). -/
def State.fMod (s : State) : Nat := if s.modDom.halfRate then 3072000 else 6144000

/-! ### The parts that run (R45, R60) -/

/-- Hawk accepts commands. -/
def State.ready (s : State) : Bool := s.boot.stage == 7

/-- Igfaen runs and has declared LEGAL_READY. -/
def State.legalRuns (s : State) : Bool := s.boot.legalReady && !s.boot.lcHalt

/-! ### The gate and the logs (R27, R28, R215 to R218) -/

/-- The LC writes a reply into a free slot of the eight, or keeps it until one frees (R27, log 15). -/
def Gate.reply (g : Gate) (r : GateReply) : Gate :=
  if g.replies.length < 8 then { g with replies := g.replies ++ [r] }
  else { g with outbox := g.outbox ++ [r] }

/-- The AC frees the oldest reply slot, and the reply that waits longest takes it (R27, log 15). -/
def Gate.freeReply (g : Gate) : Gate :=
  { g with replies := g.replies.drop 1 ++ g.outbox.take 1, outbox := g.outbox.drop 1 }

/-- The LC writes an unsolicited reply, where Undercoat runs to take it (R28, R65). -/
def State.tell (s : State) (u : Unsolicited) : State :=
  if s.ready then s.modGate (·.reply (.news u)) else s

/-- The 44 bytes that CHECK covers (Table 8.6). -/
def LogEntry.body (e : LogEntry) : Bytes :=
  leBytes 4 e.seqNo ++ leBytes 8 e.nodeTime ++ [byte e.flags, byte e.cls, byte e.code,
    byte e.origin, byte e.mp] ++ leBytes 2 (e.seqNo / 4294967296) ++ [0#8] ++ padTo 24 e.data

/-- The 48-byte entry. -/
def LogEntry.toBytes (e : LogEntry) : Bytes := e.body ++ leBytes 4 (crc32 e.body)

/-- FLAGS of an entry written now. -/
def State.logFlags (s : State) (rtc : Bool) : Nat :=
  s.ntu.status.code + 4 * b2n s.legal.sealOpen + 8 * b2n rtc

/-- The member of a rotation set with the highest count: its count and its value (R355). -/
def Rotated.newest {α : Type} (r : Rotated α) (d : α) : Nat × α :=
  r.words.foldl (fun b w => if b.1 ≤ w.2.1 then w.2 else b) (0, d)

/-- What a reader of a rotated value takes (R355). -/
def Rotated.read {α : Type} (r : Rotated α) (d : α) : α := (r.newest d).2

/-- A write of a value rotated across `n` words: the next word, with a count one higher (R355). -/
def Rotated.write {α : Type} (r : Rotated α) (n : Nat) (d a : α) : Rotated α :=
  let c := (r.newest d).1 + 1
  ⟨(c % n, c, a) :: r.words.filter (fun w => w.1 != c % n)⟩

/-- ELSEQ that the next entry takes, the pair RSEQ_EPOCH and RSEQ, and ASEQ. -/
def Legal.elseq (l : Legal) : Nat := l.elseqWords.read 0
def Legal.rseq (l : Legal) : Nat := l.rseqWords.read 0
def Legal.aseq (l : Legal) : Nat := l.aseqWords.read 0

/-- Their writes, rotated as Table 13.3 says. -/
def Legal.putElseq (l : Legal) (n : Nat) : Legal := { l with elseqWords := l.elseqWords.write 256 0 n }
def Legal.putRseq (l : Legal) (n : Nat) : Legal := { l with rseqWords := l.rseqWords.write 4096 0 n }
def Legal.putAseq (l : Legal) (n : Nat) : Legal := { l with aseqWords := l.aseqWords.write 4096 0 n }

/-- An event-log entry with its time given (R215, R216), which also goes to the AC (R28). -/
def State.logAt (s : State) (time : Nat) (rtc : Bool) (cls code origin mp : Nat) (data : Bytes) :
    State :=
  let e : LogEntry := { seqNo := s.legal.elseq, nodeTime := time, flags := s.logFlags rtc, cls := cls,
                        code := code, origin := origin, mp := mp, data := padTo 24 data }
  (s.modLegal (fun l =>
    { l with eventLog := (e :: l.eventLog).take 1024 }.putElseq (min (l.elseq + 1) 0xFFFFFFFFFFFF))).tell (.logEntry e.toBytes)

/-- An event that the LC raises itself, timed now. -/
def State.logEvent (s : State) (cls code mp : Nat) (data : Bytes) : State :=
  s.logAt s.nodeTime false cls code 0xFF mp data

/-- Whether the last 8 entries of the seal log are open to an entry (R217). -/
def sealReserved (cls code : Nat) : Bool := cls == 0x03 || (cls == 0x10 && code == 0x01)

/-- A seal-log entry, or MISSED where the log is full (R217). -/
def State.sealLogAt (s : State) (time : Nat) (rtc : Bool) (cls code origin mp : Nat) (data : Bytes) :
    State :=
  let used := s.legal.sealLog.length
  if used < 248 || (used < 256 && sealReserved cls code) then
    let e : LogEntry := { seqNo := used, nodeTime := time, flags := s.logFlags rtc, cls := cls,
                          code := code, origin := origin, mp := mp, data := padTo 24 data }
    s.modLegal (fun l => { l with sealLog := e :: l.sealLog })
  else s.modLegal (fun l => { l with missed := satAdd 65535 l.missed 1 })

/-- An entry in both logs. -/
def State.logBoth (s : State) (time : Nat) (rtc : Bool) (cls code origin mp : Nat) (data : Bytes) :
    State :=
  (s.sealLogAt time rtc cls code origin mp data).logAt time rtc cls code origin mp data

/-- One blocked attempt of row `row` of Table 8.1 (R205). -/
def State.blocked (s : State) (row : Nat) : State :=
  (s.modLegal (fun l => { l with sepFaults := satAdd 0xFFFFFFFF l.sepFaults 1 })).logEvent
    0x0F 0x01 0xFF [byte row]

/-! ### The rings (R286 to R301) -/

def Ring.size (r : Ring) : Nat := 2 ^ r.log2

/-- COUNT (R287). -/
def Ring.count (r : Ring) : Nat := (r.tail - r.head).toNat

/-- The ring takes and gives entries: enabled and passed its check (R286). -/
def Ring.works (r : Ring) : Bool := r.enable && r.active

def Ring.full (r : Ring) : Bool := r.size ≤ r.count

/-- The physical address of the entry with an index (R287). -/
def Ring.addr (r : Ring) (i : BitVec 16) : Nat := hawkBase + r.base + 64 * (i.toNat % r.size)

/-- FLAGS of an entry (Table 11.7). -/
def flagBulk : Nat := 1
def flagFence : Nat := 2
def flagFinal : Nat := 8
def flagLost : Nat := 16

/-- A 64-byte entry (Table 11.7). -/
def entryBytes (opcode tag flags origin status length seqNo : Nat) (payload : Bytes) : Bytes :=
  leBytes 2 opcode ++ leBytes 2 tag ++ [byte flags, byte origin, byte status, 0#8] ++
    leBytes 4 length ++ leBytes 2 seqNo ++ zeros 2 ++ padTo 48 payload

/-- An entry written at TAIL, which then advances (R289). -/
def State.pushEntry (s : State) (n : Nat) (entry : Bytes) : State :=
  let r := s.ring n
  let t := s.mono
  (s.modMem (fun m => m.sramWrite (r.addr r.tail) entry)).modRing n
    (fun r => { r with tail := r.tail + 1, posted := r.posted ++ [t] })

/-- One more event or bulk item that could not be posted (R298, R299, Table 11.5). -/
def State.loseEvent (s : State) : State :=
  (s.modRing 2 (fun r => { r with seqNo := r.seqNo + 1, lost := true })).modHawk
    (fun h => { h with eventLost := satAdd 0xFFFFFFFF h.eventLost 1, irqEventLost := true })

/-- An unsolicited entry on EVENT (R298): nothing is posted before READY. -/
def State.postEvent (s : State) (code : Nat) (payload : Bytes) : State :=
  if !s.ready then s
  else
    let r := s.ring 2
    if r.works && !r.full then
      (s.pushEntry 2 (entryBytes code 0 (if r.lost then flagLost else 0) 0 0 payload.length
        r.seqNo.toNat payload)).modRing 2
          (fun r => { r with seqNo := r.seqNo + 1, lost := false })
    else s.loseEvent

/-- An event of the part's own, posted at READY where no EVENT ring exists yet (log 33). -/
def State.announce (s : State) (code : Nat) (payload : Bytes) : State :=
  if s.ready then s.postEvent code payload
  else s.modBoot (fun b => { b with toPost := (b.toPost ++ [(code, payload)]).take 64 })

/-- The codes of Table 19.2 that arise on the legal side. -/
def legalFaults : List Nat := [0x02, 0x03, 0x04, 0x05, 0x06, 0x0B, 0x0E, 0x0F, 0x10, 0x12, 0x13]

/-- One FAULT event (R520); legal-side faults are not posted in LC_HALT (R527). -/
def State.postFault (s : State) (code : Nat) : State :=
  if s.boot.lcHalt && legalFaults.contains code then s
  else s.announce 0x0A81 (leBytes 2 code ++ zeros 6 ++ leBytes 8 s.nodeTime)

/-- Whether `size` bytes at `off` of the pool are free. -/
def Hawk.poolFree (h : Hawk) (off size : Nat) : Bool :=
  decide (off + size ≤ h.poolSize) &&
    h.poolItems.all (fun i => decide (i.1 + i.2 ≤ off) || decide (off + size ≤ i.1))

/-- Where an item of `size` bytes goes: next, or at the pool base where it does not fit before the
end (R290). -/
def Hawk.poolPlace (h : Hawk) (size : Nat) : Option Nat :=
  let at_ := if h.poolNext + size ≤ h.poolSize then h.poolNext else 0
  if h.poolFree at_ size then some at_ else none

/-- Whether a BULK item of `len` bytes can be posted now (R299). -/
def State.bulkRoom (s : State) (len : Nat) : Bool :=
  (s.ring 3).works && !(s.ring 3).full && (s.hawk.poolPlace ((len + 63) / 64 * 64)).isSome

/-- A BULK item in a pool buffer (R290, R299); only called where there is room. -/
def State.postBulk (s : State) (code : Nat) (item : Bytes) : State :=
  let r := s.ring 3
  let size := (item.length + 63) / 64 * 64
  match s.hawk.poolPlace size with
  | none => s
  | some off =>
    let s := s.modMem (fun m => m.sramWrite (hawkBase + s.hawk.poolBase + off) item)
    let s := s.pushEntry 3 (entryBytes code 0 (flagBulk + if r.lost then flagLost else 0) 0 0
      item.length r.seqNo.toNat (leBytes 4 (s.hawk.poolBase + off) ++ leBytes 4 size))
    (s.modRing 3 (fun r => { r with seqNo := r.seqNo + 1, lost := false })).modHawk
      (fun h => { h with poolItems := h.poolItems ++ [(off, size)], poolNext := off + size })

/-- A BULK item that is dropped (R299). -/
def State.dropBulk (s : State) : State :=
  (s.modRing 3 (fun r => { r with seqNo := r.seqNo + 1, lost := true })).modHawk
    (fun h => { h with bulkDropped := satAdd 0xFFFFFFFF h.bulkDropped 1, irqEventLost := true })

/-- A BULK item that is posted or dropped: capture data and harmonic records (R299). -/
def State.offerBulk (s : State) (code : Nat) (item : Bytes) : State :=
  if !s.ready then s else if s.bulkRoom item.length then s.postBulk code item else s.dropBulk

/-! ### Fabric queues and routes (R388, R400, R411) -/

/-- The class of a frame type, highest priority first (R411). -/
def frameClass (type : Nat) : Nat :=
  if type = 3 ∨ type = 4 then 0
  else if type = 1 then 1
  else if type = 2 then 2
  else if type = 5 ∨ type = 6 then 3
  else if type = 8 ∨ type = 9 then 4
  else 5

/-- The bytes a frame takes in a transmit queue (Table 14.2, header to CRC). -/
def TxFrame.size (f : TxFrame) : Nat := 36 + f.payload.length

def queueBytes (q : List TxFrame) : Nat := (q.map TxFrame.size).sum

/-- Removes the last element that satisfies `p`. -/
def dropLastWhere {α : Type} (p : α → Bool) (l : List α) : List α := (l.reverse.eraseP p).reverse

/-- A frame arrives at a port's transmit queue (R411). -/
def Port.enqueue (p : Port) (f : TxFrame) : Port :=
  if queueBytes p.queue + f.size ≤ 65536 then { p with queue := p.queue ++ [f] }
  else
    let worst := (p.queue.map (fun g => frameClass g.type)).foldl max 0
    if frameClass f.type < worst then
      { p with
        queue := dropLastWhere (fun g => frameClass g.type == worst) p.queue ++ [f]
        dropped := satAdd 0xFFFFFFFF p.dropped 1 }
    else { p with dropped := satAdd 0xFFFFFFFF p.dropped 1 }

/-- The port that leads to a destination, in this node's view (R388, R400). -/
def Fabric.routeFor (f : Fabric) (dst : Nat) : Option Nat :=
  let dst := if dst = 0x3FFE then f.manager else dst
  (f.routes.find? (fun r => r.dest == dst)).map (·.port)

/-- A frame enters a port's queue; a displaced or refused one counts in DROPPED (R411, R525). -/
def State.enqueueOn (s : State) (port : Nat) (f : TxFrame) : State :=
  let s' := s.modPort port (·.enqueue f)
  if (s.port port).dropped < (s'.port port).dropped then s'.bump 25 else s'

/-- A frame of this node leaves on the route to its destination, or is dropped where there is none (R400); without an
ASSIGNED address the node originates none (R398). -/
def State.sendRouted (s : State) (type dst : Nat) (payload : Bytes) : State :=
  if s.fabric.addrState ≠ 2 then s
  else match s.fabric.routeFor dst with
  | none => s.bump 25
  | some port => s.enqueueOn port { type := type, dst := dst, hop := 16, src := s.fabric.addr,
                                    payload := payload }

/-- The BULK frames of a tunnel while more than 956 bytes remain, and the closing frame (R407). -/
def State.sendTunnel (s : State) (type dst id : Nat) (entry : Bytes) : Nat → Nat → Bytes → State
  | 0, _, data => s.sendRouted type dst (leBytes 4 id ++ entry ++ data)
  | n + 1, off, data =>
    if data.length ≤ 956 then s.sendRouted type dst (leBytes 4 id ++ entry ++ data)
    else
      State.sendTunnel (s.sendRouted 7 dst (leBytes 4 id ++ leBytes 4 off ++ data.take 1016)) type dst id
        entry n (off + 1016) (data.drop 1016)

/-! ### Commands and their responses (R292 to R307) -/

/-- The room a command has for its result (R293). -/
def InFlight.room (f : InFlight) : Nat := if f.bulk then f.bufCap else 48

/-- Whether the route of an origin is open to responses (R312). -/
def State.routeOpen (s : State) : Origin → Bool
  | .host => true
  | .service => s.ports.usbSession
  | .optical => s.ports.optState == 3
  | .fabric => true

/-- The content of a Rilfy frame (Table 11.12). -/
def rilfyContent (kind : Nat) (entry data : Bytes) : Bytes :=
  let c := [0x01#8, byte kind] ++ entry ++ data
  c ++ leBytes 4 (crc32 c)

/-- Content as sent: 0x7E and 0x7D become 0x7D and the byte XOR 0x20 (R304). -/
def rilfyEscape (c : Bytes) : Bytes :=
  c.flatMap (fun b => if b = 0x7E#8 ∨ b = 0x7D#8 then [0x7D#8, b ^^^ 0x20#8] else [b])

/-- The characters of a Rilfy frame, between its delimiters (R304). -/
def rilfyFrame (kind : Nat) (entry data : Bytes) : Bytes :=
  0x7E#8 :: (rilfyEscape (rilfyContent kind entry data) ++ [0x7E#8])

/-- The content that sent characters spell; none where the last of them opens an escape. -/
def rilfyUnescape : Bytes → Option Bytes
  | [] => some []
  | [b] => if b = 0x7D#8 then none else some [b]
  | b :: c :: rest =>
    if b = 0x7D#8 then (rilfyUnescape rest).map (fun r => (c ^^^ 0x20#8) :: r)
    else (rilfyUnescape (c :: rest)).map (fun r => b :: r)

/-- The characters between two delimiters; none where that is not what arrived. -/
def rilfyInside (f : Bytes) : Option Bytes :=
  let c := (f.drop 1).dropLast
  if 2 ≤ f.length && f.head? == some 0x7E#8 && f.getLast? == some 0x7E#8 && !c.contains 0x7E#8 then some c
  else none

/-- The response entry of a command (Table 11.7). -/
def InFlight.responseEntry (f : InFlight) (final : Bool) (status : Nat) (result : Bytes) : Bytes :=
  entryBytes f.opcode f.tag ((if final then flagFinal else 0) + if f.bulk then flagBulk else 0)
    (originCode f.call.origin) status result.length 0
    (if f.bulk then leBytes 4 f.bufOff ++ leBytes 4 f.bufCap else result)

/-- A response to the host: in the entry that its command reserved, or held while RESPONSE is disabled;
HAWK_RESET discards it (R294, R309, R314). -/
def State.respondHost (s : State) (final : Bool) (entry : Bytes) : State :=
  let r := s.ring 1
  if s.hawk.resetting then s
  else if r.works && !r.full then s.pushEntry 1 entry
  else if final then s.modHawk (fun h => { h with heldResponses := h.heldResponses ++ [entry] })
  else s

/-- A response leaves on the command's route, or is discarded where that has ended (R295, R304, R305, R309,
R312). -/
def State.sendResponse (s : State) (f : InFlight) (final : Bool) (status : Nat) (result : Bytes) :
    State :=
  let entry := f.responseEntry final status result
  if f.orphan then s
  else
  match f.call.origin with
  | .host =>
    let s := if f.bulk then s.modMem (fun m => m.sramWrite (hawkBase + f.bufOff) result) else s
    s.respondHost final entry
  | .fabric =>
    match s.fabric.served.find? (fun t => t.1 == f.call.tag) with
    | none => s
    | some t =>
      (s.sendTunnel 6 t.2.1 t.1 entry 8 0 (if f.bulk then result else [])).modFabric
        (fun x => if final then { x with served := x.served.erase t } else x)
  | o =>
    if s.routeOpen o then s.emit (.rilfy o (rilfyFrame 2 entry (if f.bulk then result else [])))
    else s

/-- RESPONSE entries reserved for commands of the host in flight (R294). -/
def State.reserved (s : State) : Nat :=
  (s.hawk.inFlight.filter (fun f => f.call.origin == .host)).length

/-- A RESPONSE entry is free that no command in flight has reserved. -/
def State.spareResponse (s : State) : Bool :=
  (s.ring 1).works && decide (s.reserved + (s.ring 1).count < (s.ring 1).size)

/-- `n` of the final responses that are held are posted, as far as there are entries beyond the
reservations (R309). -/
def State.postHeld : Nat → State → State
  | 0, s => s
  | n + 1, s =>
    match s.hawk.heldResponses with
    | [] => s
    | e :: rest =>
      if s.spareResponse then
        State.postHeld n ((s.modHawk (fun h => { h with heldResponses := rest })).pushEntry 1 e)
      else s

/-- Every held response for which there is room is posted. -/
def State.postAllHeld (s : State) : State := State.postHeld s.hawk.heldResponses.length s

/-- A session of a route ends, or the manager's link that some tunnels came by: the commands of it that were
taken lose their responses, and those that wait are forgotten (R312, log 14). -/
def State.orphanRoute (s : State) (o : Origin) (of : Nat → Bool) : State :=
  s.modHawk (fun h => { h with
    inFlight := h.inFlight.map (fun f =>
      if f.call.origin = o ∧ of f.call.tag = true then { f with orphan := true } else f)
    waiting := h.waiting.filter (fun w => !(w.call.origin == o && of w.call.tag)) })

/-- HAWK_RESET ends once no command of the host is in flight (R314); SEQ and LOST run on (log 38). -/
def State.finishReset (s : State) : State :=
  if !s.hawk.resetting || s.reserved != 0 then s
  else
    s.modHawk (fun h => { h with
      resetting := false, heldResponses := [], eventLost := 0, bulkDropped := 0, frameErr := 0
      rings := List.zipWith (fun (r o : Ring) => { r with seqNo := o.seqNo, lost := o.lost }) readyRings h.rings
      poolBase := poolBaseReset, poolSize := poolSizeReset, poolItems := [], poolNext := 0 })

/-- The one final response of a command (R295). -/
def State.respond (s : State) (f : InFlight) (status : Nat) (result : Bytes) : State :=
  ((s.modHawk (fun h => { h with inFlight := h.inFlight.erase f })).sendResponse f true status
    result).finishReset

/-- A response ACCEPTED: on the rings only where an entry beyond all reservations is free (R295). -/
def State.acknowledge (s : State) (f : InFlight) : State :=
  if f.call.origin == .host && (s.ring 1).size - (s.ring 1).count ≤ s.reserved then s
  else s.sendResponse f false stAccepted []

/-- A command that holds its group: its work has not begun, or the gate has not answered it; an
activation goes on beside later commands (R296, log 14). -/
def InFlight.holds (f : InFlight) : Bool :=
  !f.accepted || (f.gseq.isSome && f.opcode != 0x0806) || f.opcode == 0x0802

/-- The commands that each route, or each manager of the fabric, may have in flight (Table 11.11). -/
def routeLimit : Origin → Nat
  | .host => 16
  | .service => 4
  | .optical => 1
  | .fabric => 4

/-- One more command of a route may be taken: its manager has fewer than the limit in flight, a fenced one
has none of its route before it, and no fenced one is in flight (R296, R303). -/
def State.mayTake (s : State) (o : Origin) (peer : Nat) (fence : Bool) : Bool :=
  let mine := s.hawk.inFlight.filter (fun g => g.call.origin == o)
  decide ((mine.filter (fun g => g.peer == peer)).length < routeLimit o) && !(fence && !mine.isEmpty) &&
    !mine.any (·.fence)

/-- The command in flight that the row runs: its work not yet begun, and the first taken of those that hold
its group (R296, R307, log 14). -/
def State.taken (s : State) (c : Call) (opcode : Nat) (p : Bytes) : Option InFlight :=
  match s.hawk.inFlight.find? (fun f => f.opcode / 256 == opcode / 256 && f.holds) with
  | none => none
  | some f => if f.call = c ∧ f.opcode = opcode ∧ f.payload = p ∧ f.accepted = false then some f else none

/-- The record of a command whose work goes on. -/
def State.accept (s : State) (f : InFlight) : State :=
  s.modHawk (fun h => { h with inFlight := h.inFlight.replace f { f with accepted := true } })

/-- The commands of a call that have been accepted. -/
def State.accepted (s : State) (c : Call) (opcode : Nat) : Option InFlight :=
  s.hawk.inFlight.find? (fun f => f.call == c && f.opcode == opcode && f.accepted)

/-- The next GSEQ; 0 is kept for unsolicited replies (R27, R28). -/
def nextSeq (n : Nat) : Nat := if n + 1 < 4294967296 then n + 1 else 1

/-- The payload that a 4 KiB gate slot takes behind its 16-byte header (Table 1.5). -/
def gatePayloadMax : Nat := 4080

/-- A command becomes a gate request: BAD_PARAM for a payload that no slot takes (Table 1.5, log 15), FAULT
in LC_HALT (R518), BUSY with eight slots occupied (R37). -/
def State.submit (s : State) (f : InFlight) (code : Nat) (payload : Bytes) : State :=
  if gatePayloadMax < payload.length then s.respond f stBadParam []
  else if s.boot.lcHalt then s.respond f stFault []
  else if 8 ≤ s.gate.requests.length then s.respond f stBusy []
  else
    let g := s.gate.nextGseq
    (s.modHawk (fun h => { h with
      inFlight := h.inFlight.replace f { f with gseq := some g, accepted := true } })).modGate
        (fun x => { x with
          requests := x.requests ++ [⟨g, code, f.call.origin, payload, some f.call⟩]
          nextGseq := nextSeq g })

/-- Work that the AC schedules for itself: into a slot, or waiting for one (R37). -/
def State.schedule (s : State) (code : Nat) (payload : Bytes) : State :=
  if s.boot.lcHalt then s
  else if 8 ≤ s.gate.requests.length then
    s.modGate (fun x => { x with waiting := x.waiting ++ [(code, payload)] })
  else
    s.modGate (fun x => { x with
      requests := x.requests ++ [⟨x.nextGseq, code, .host, payload, none⟩]
      own := x.own ++ [(x.nextGseq, payload)]
      nextGseq := nextSeq x.nextGseq })

/-- The LC answers a request, which leaves its slot (R28). -/
def State.answer (s : State) (r : GateRequest) (status : Nat) (payload : Bytes) : State :=
  s.modGate (fun g => { g with requests := g.requests.erase r }.reply (.answer r.gseq r.code status payload))

/-- The class of change of a request code (Table 1.6): 0 none, 1 L-logged, 2 L-sealed; SET_PARAM
counts as L-sealed. -/
def requestClass (code : Nat) : Nat :=
  if code = 0x06 ∨ (0x0D ≤ code ∧ code ≤ 0x10) then 2
  else if 0x07 ≤ code ∧ code ≤ 0x09 then 1
  else 0

/-- The request that the LC serves next among those of a code: the first of its class of change in
GSEQ order, if it carries the code (R39); slots hold requests in the order of submission. -/
def State.nextRequest (s : State) (code : Nat) : Option GateRequest :=
  if s.legalRuns then
    match s.gate.requests.find? (fun r => requestClass r.code == requestClass code) with
    | none => none
    | some r => if r.code = code then some r else none
  else none

end Sys2Proof.Machine
end

