-- ==== Sys2Proof/Machine/Bus.lean ====
section
/-! DEFINITION. The physical map and the rights of its masters (R348 to R350, Tables 13.1 and 13.2). -/

namespace Sys2Proof.Machine

/-- The regions of Table 13.1. -/
inductive Region where
  | maskRom | legalSram | legalConfig | undercoat | capture | hawkArea | legalMram | otherMram | xspi | peripherals
  deriving DecidableEq, Repr

/-- The masters of Table 13.2; Primer on the AC has the AC's rights and mask-ROM fetch (R349). -/
inductive Master where
  | lc | primerLc | ac | primerAc | dma | fa | spi
  deriving DecidableEq, Repr

/-- Base and last address of each region. -/
def regionMap : List (Nat × Nat × Region) :=
  [(0x00000000, 0x00017FFF, .maskRom), (0x10000000, 0x1007FFFF, .legalSram), (0x11000000, 0x1100FFFF, .legalConfig),
   (0x20000000, 0x2037FFFF, .undercoat), (0x20380000, 0x203BFFFF, .capture), (0x203C0000, 0x203FFFFF, .hawkArea),
   (0x30000000, 0x300FFFFF, .legalMram), (0x30100000, 0x301FFFFF, .otherMram), (0x40000000, 0x4FFFFFFF, .xspi),
   (0x60000000, 0x600FFFFF, .peripherals)]

/-- The region of an address; none where the table lists it not. -/
def regionOf (a : Nat) : Option Region :=
  (regionMap.find? (fun r => decide (r.1 ≤ a) && decide (a ≤ r.2.1))).map (fun r => r.2.2)

/-- What the AC may read and write of a region. -/
def acReads (r : Region) : Bool :=
  r == .undercoat || r == .capture || r == .hawkArea || r == .otherMram || r == .xspi || r == .peripherals
def acWrites (r : Region) : Bool := r == .undercoat || r == .hawkArea || r == .otherMram || r == .peripherals

/-- What a master may read of a region, or fetch from the mask ROM. -/
def mayRead : Master → Region → Bool
  | .lc, r => r == .legalSram || r == .legalConfig || r == .legalMram
  | .primerLc, r => r == .maskRom || r == .legalSram || r == .legalConfig || r == .legalMram || r == .otherMram ||
      r == .xspi || r == .peripherals
  | .ac, r => acReads r
  | .primerAc, r => r == .maskRom || acReads r
  | .dma, r => r == .undercoat || r == .capture || r == .hawkArea || r == .otherMram || r == .xspi
  | .fa, _ => false
  | .spi, r => r == .hawkArea

/-- What a master may write in a region: the FA the sample buffer alone in legal SRAM, the SPI target COMMAND and the
host region alone in the Hawk area. -/
def mayWrite : Master → Region → Bool
  | .lc, r => r == .legalSram || r == .legalConfig || r == .legalMram
  | .primerLc, r => r == .legalSram || r == .legalConfig || r == .undercoat || r == .capture || r == .hawkArea ||
      r == .legalMram || r == .otherMram || r == .peripherals
  | .ac, r => acWrites r
  | .primerAc, r => acWrites r
  | .dma, r => r == .undercoat || r == .hawkArea || r == .otherMram
  | .fa, r => r == .legalSram || r == .capture
  | .spi, r => r == .hawkArea

/-- The mask ROM is closed to a master: its core's Primer has handed over (R350). -/
def State.romLocked (s : State) : Master → Bool
  | .lc | .primerLc => s.boot.romLockLc
  | .ac | .primerAc => s.boot.romLockAc
  | _ => true

/-- A processor's access, or another master's, ends in a bus error (R348 to R350). -/
def State.busError (s : State) (m : Master) (write : Bool) (a : Nat) : Bool :=
  match regionOf a with
  | none => true
  | some r => !(if write then mayWrite m r else mayRead m r) || (r == .maskRom && s.romLocked m)

/-- A read or fetch of a byte of the mask ROM: none is a bus error (R350). -/
def State.romRead (s : State) (m : Master) (a : Nat) : Option Byte :=
  if s.busError m false a then none else if regionOf a = some .maskRom then some (Config.rom.getD a 0) else none

end Sys2Proof.Machine
end

