-- ==== Sys2Proof/Machine/Operands.lean ====
section
/-! DEFINITION. The operand forms: parameter IDs with their sizes, defaults, classes and routes
(R337 to R345, Tables 12.13 to 12.17, 15.1, 16.x), the stored values, and the fields of the binding
record. -/

namespace Sys2Proof.Machine

/-- What Tables 12.13 to 12.17 say of one parameter. `rule` is CLASS_RULE and `route` is ROUTE of
Table 12.1. -/
structure ParamInfo where
  size : Nat
  initial : Bytes
  rule : Nat
  route : Nat
  deriving DecidableEq, Repr

/-- A number of `size` bytes with class rule `rule`, written by SET_PARAM. -/
def plainParam (size initial rule : Nat) : Option ParamInfo := some ⟨size, leBytes size initial, rule, 0⟩

/-- CHAIN_CFG's default (Table 5.2). -/
def chainDefault : Bytes :=
  [4, 6, 0, 0] ++ leBytes 4 0x80000000 ++ leBytes 2 128 ++ [0, 0] ++ leBytes 4 0

/-- MP_BINDING's default: TYPE 0, every role byte 0xFF (Table 12.15). -/
def bindingDefault : Bytes :=
  [0, 0, 0, 0] ++ List.replicate 8 0xFF#8 ++ [0xFF, 0, 0xFF, 0, 0xFF, 0xFF, 0xFF, 0xFF] ++ zeros 4

/-- Table 12.16 and R143, R483: the device family. -/
def deviceParam (id : Nat) : Option ParamInfo :=
  if id = 0x0000 then plainParam 32 0 0
  else if id = 0x0010 then plainParam 1 0 0
  else if id = 0x0020 then plainParam 1 1 0
  else if id = 0x0030 then plainParam 1 0 0
  else none

/-- Table 12.14, PCH. -/
def pchParam (i : Nat) : Option ParamInfo :=
  if i ≤ 4 then plainParam 1 0 3
  else if i = 16 then some ⟨16, chainDefault, 3, 0⟩
  else if i = 17 then plainParam 1 0 0
  else none

/-- Tables 12.14 and 4.7, CNT. -/
def cntParam (i : Nat) : Option ParamInfo :=
  if i = 0 ∨ i = 3 then plainParam 1 0 3
  else if i = 1 ∨ i = 2 then plainParam 1 1 3
  else none

/-- Tables 12.14 and 4.3, EXC. -/
def excParam (i : Nat) : Option ParamInfo :=
  if i = 0 then plainParam 1 0 3
  else if i = 1 then plainParam 2 5000 3
  else if i = 2 ∨ i = 3 ∨ i = 4 then plainParam 1 1 3
  else if i = 5 then plainParam 2 256 3
  else none

/-- Table 12.15. -/
def pointParam (o : Nat) : Option ParamInfo :=
  if o = 0x00 then some ⟨24, bindingDefault, 1, 0⟩
  else if o = 0x08 then plainParam 1 15 1
  else if o = 0x40 then plainParam 24 0 1
  else if o = 0x41 then plainParam 2 600 0
  else if o = 0x60 ∨ o = 0x61 ∨ o = 0x63 then plainParam 1 0 0
  else if o = 0x62 then plainParam 1 8 0
  else if o = 0x80 then some ⟨8, leBytes 2 50 ++ leBytes 2 400 ++ zeros 4, 1, 0⟩
  else if o = 0x90 then plainParam 1 0 0
  else if o = 0xA0 then plainParam 8 0 1
  else if o = 0xB0 then
    some ⟨12, zeros 6 ++ leBytes 2 50 ++ leBytes 2 2500 ++ zeros 2, 1, 0⟩
  else none

/-- Table 15.1. -/
def displayParam (id : Nat) : Option ParamInfo :=
  if id = 0x4000 ∨ id = 0x4003 ∨ id = 0x4006 ∨ id = 0x4010 then plainParam 1 0 0
  else if id = 0x4001 then plainParam 1 4 0
  else if id = 0x4002 then plainParam 1 3 0
  else if id = 0x4004 then plainParam 2 64 0
  else if id = 0x4005 then plainParam 2 3300 0
  else if id = 0x4011 then plainParam 1 64 0
  else if 0x4020 ≤ id ∧ id ≤ 0x4027 then some ⟨130, [0, 0] ++ List.replicate 128 0xFF#8, 0, 0⟩
  else if id = 0x4030 then some ⟨64, List.replicate 64 0xFF#8, 0, 0⟩
  else none

/-- The parameters of the Scrim fabric. -/
def fabricParam (id : Nat) : Option ParamInfo :=
  if id = 0x5000 then plainParam 1 0 0
  else if id = 0x5001 then plainParam 1 7 0
  else if id = 0x5002 then plainParam 1 1 0
  else if 0x5010 ≤ id ∧ id ≤ 0x5012 then plainParam 1 10 0
  else none

/-- The parameters of the operator ports; TCH_STATE has no route. -/
def portParam (id : Nat) : Option ParamInfo :=
  if id = 0x6000 ∨ id = 0x6030 then plainParam 1 0 0
  else if id = 0x6001 ∨ id = 0x6002 then plainParam 2 30 0
  else if id = 0x6003 then plainParam 1 0xFF 0
  else if id = 0x6008 then some ⟨8, zeros 8, 0, 4⟩
  else if id = 0x6010 then plainParam 2 0x3A61 0
  else if id = 0x6011 then plainParam 2 0x0640 0
  else if id = 0x6020 then plainParam 1 3 0
  else if id = 0x6021 then some ⟨3, ascii "ONM", 0, 0⟩
  else if id = 0x6031 then plainParam 4 900 0
  else if 0x6100 ≤ id ∧ id ≤ 0x613F then plainParam 12 0 0
  else none

/-- Table 12.16, the legal family. -/
def legalParam (id : Nat) : Option ParamInfo :=
  if id = 0x8000 then plainParam 64 0 1
  else if id = 0x8010 ∨ id = 0x8011 then plainParam 1 0 1
  else if id = 0x8020 then plainParam 1 7 1
  else if id = 0x8030 then plainParam 64 0 1
  else if id = 0x8031 then some ⟨164, [0, 0, 0, 0] ++ List.replicate 160 0xFF#8, 1, 0⟩
  else if id = 0x8040 then some ⟨4, [3, 0, 0, 0], 1, 0⟩
  else none

/-- Every described parameter ID (R337, Table 12.13); none for a reserved one (R15). -/
def paramInfo (id : Nat) : Option ParamInfo :=
  if id < 0x1000 then deviceParam id
  else if id < 0x1400 then pchParam (id % 64)
  else if id < 0x1800 then cntParam (id % 64)
  else if id < 0x1900 then excParam (id % 64)
  else if id < 0x1A00 then (if id % 64 = 0 then plainParam 1 0 3 else none)
  else if id < 0x2000 then none
  else if id < 0x2400 then pointParam (id % 256)
  else if id = 0x3000 then some ⟨2, zeros 2, 2, 1⟩
  else if id = 0x3010 then plainParam 1 1 1
  else if id = 0x3100 then some ⟨1920, zeros 1920, 2, 2⟩
  else if id < 0x4000 then none
  else if id < 0x5000 then displayParam id
  else if id < 0x6000 then fabricParam id
  else if id < 0x7000 then portParam id
  else if id = 0x7000 then some ⟨1, zeros 1, 2, 3⟩
  else if id < 0x8000 then none
  else if id < 0x9000 then legalParam id
  else none

/-- The IDs that SET_PARAM sends to the LC (R340). -/
def legalSide (id : Nat) : Bool :=
  (0x1000 ≤ id && id < 0x1A00) ||
  (0x2000 ≤ id && id < 0x2400 && [0x00, 0x08, 0x40, 0x80, 0xA0, 0xB0].contains (id % 256)) ||
  id == 0x3010 || (0x8000 ≤ id && id < 0x9000)

/-! ### Stored values -/

def lookupParam (l : List (Nat × Bytes)) (id : Nat) : Option Bytes :=
  (l.find? (fun e => e.1 == id)).map (·.2)

/-- The list with a value put in at its place, IDs rising. -/
def insertParam : List (Nat × Bytes) → Nat → Bytes → List (Nat × Bytes)
  | [], id, v => [(id, v)]
  | e :: es, id, v =>
    if e.1 < id then e :: insertParam es id v
    else if e.1 = id then (id, v) :: es
    else (id, v) :: e :: es

def defaultOf (id : Nat) : Bytes :=
  match paramInfo id with
  | none => []
  | some i => i.initial

/-- The stored value, or the default (R339). -/
def State.param (s : State) (id : Nat) : Bytes := (lookupParam s.params id).getD (defaultOf id)

/-- The value in force, which a pending one has not replaced yet (R32, R342). -/
def State.paramNow (s : State) (id : Nat) : Bytes := (lookupParam s.inForce id).getD (s.param id)

/-- The stored value as an unsigned number. -/
def State.pnum (s : State) (id : Nat) : Nat := leNat (s.param id)

/-- The value in force as an unsigned number. -/
def State.pnumNow (s : State) (id : Nat) : Nat := leNat (s.paramNow id)

/-- A value stored (R342). -/
def State.putParam (s : State) (id : Nat) (v : Bytes) : State :=
  { s with params := insertParam s.params id v }

/-- A value stored while the old one stays in force until its boundary (R32, R343). -/
def State.putPending (s : State) (id : Nat) (v : Bytes) : State :=
  let old := s.paramNow id
  let s := s.putParam id v
  { s with inForce := insertParam s.inForce id old }

/-- The boundary of the IDs that satisfy `p`: their stored values come into force. -/
def State.bringIntoForce (s : State) (p : Nat → Bool) : State :=
  { s with inForce := s.inForce.filter (fun e => !p e.1) }

/-! ### Channel, counter, driver and source settings -/

def pchId (n i : Nat) : Nat := 0x1000 + 64 * n + i
def cntId (n i : Nat) : Nat := 0x1400 + 64 * n + i
def excId (n i : Nat) : Nat := 0x1800 + 64 * n + i
def rtdId (n : Nat) : Nat := 0x1900 + 64 * n
def pointId (m o : Nat) : Nat := 0x2000 + 256 * m + o

def State.pchMode (s : State) (n : Nat) : Nat := s.pnum (pchId n 0)
def State.pchGain (s : State) (n : Nat) : Nat := s.pnum (pchId n 1)
def State.pchExc (s : State) (n : Nat) : Nat := s.pnum (pchId n 2)
def State.pchRtd (s : State) (n : Nat) : Nat := s.pnum (pchId n 3)
def State.pchSensor (s : State) (n : Nat) : Nat := s.pnum (pchId n 4)
def State.chainCfg (s : State) (n : Nat) : Bytes := s.param (pchId n 16)
def State.captures (s : State) (n : Nat) : Bool := s.pnum (pchId n 17) == 1
def State.cntMode (s : State) (n : Nat) : Nat := s.pnum (cntId n 0)

/-- Modes of Table 4.1. -/
def modeBridge : Nat := 1
def modeEv : Nat := 2
def modeEi : Nat := 3
def modeRtd : Nat := 4
def modeGen : Nat := 5

/-! ### The binding record (Table 12.17, R18, R338) -/

def typeElec : Nat := 1
def typeWater : Nat := 2
def typeHeat : Nat := 3
def typeWaste : Nat := 4

def bindType (b : Bytes) : Nat := field b 0 1
def bindSub (b : Bytes) : Nat := field b 1 1
def bindPch (b : Bytes) (k : Nat) : Nat := field b (4 + k) 1
def bindCnt (b : Bytes) : Nat := field b 12 1
def bindExc (b : Bytes) : Nat := field b 14 1
def bindRtd (b : Bytes) (k : Nat) : Nat := field b (16 + k) 1
def bindMbus (b : Bytes) : Nat := field b 18 2

/-- The binding record in force: a stored one takes its place at the first sample period after its write (R32,
Table 1.8). -/
def State.binding (s : State) (m : Nat) : Bytes := s.paramNow (pointId m 0)

/-- The record in force and the one stored: both hold their resources until the boundary (log 41). -/
def State.records (s : State) (m : Nat) : List Bytes := [s.binding m, s.param (pointId m 0)]
def State.mpType (s : State) (m : Nat) : Nat := bindType (s.binding m)
def State.mpSub (s : State) (m : Nat) : Nat := bindSub (s.binding m)

/-- The channels of every role of a record. -/
def bindChannels (b : Bytes) : List Nat := ((upTo 8).map (bindPch b)).filter (· < 16)

/-- The channels of the legal roles of a record (Table 1.3). -/
def bindLegal (b : Bytes) : List Nat :=
  (match bindType b with
    | 1 => if bindSub b = 0 then (upTo 6).map (bindPch b) else [bindPch b 0, bindPch b 3]
    | 3 => [bindPch b 0, bindPch b 1]
    | 4 => (upTo 4).map (bindPch b)
    | _ => []).filter (· < 16)

/-- The counters that a record takes, with the modes now stored (Table 1.3). -/
def State.bindCounters (s : State) (b : Bytes) : List Nat :=
  let n := bindCnt b
  if 16 ≤ n then []
  else if s.cntMode n = 2 then [n, n + 1]
  else [n]

/-- The metering points, of 0 to 3, that satisfy `p`. -/
def pointsWhere (p : Nat → Bool) : List Nat := (upTo 4).filter p

/-- The metering points that bind a channel in any role. -/
def State.pointsOfChannel (s : State) (n : Nat) : List Nat :=
  pointsWhere (fun m => (bindChannels (s.binding m)).contains n)

/-- The metering points that bind a channel in a legal role. -/
def State.pointsOfLegal (s : State) (n : Nat) : List Nat :=
  pointsWhere (fun m => (bindLegal (s.binding m)).contains n)

/-- Some metering point's record, in force or stored, satisfies `p`. -/
def State.anyRecord (s : State) (p : Bytes → Bool) : Bool := (upTo 4).any (fun m => (s.records m).any p)

def State.pchBound (s : State) (n : Nat) : Bool := s.anyRecord (fun b => (bindChannels b).contains n)

def State.cntBound (s : State) (n : Nat) : Bool := s.anyRecord (fun b => (s.bindCounters b).contains n)

/-- The driver is bound to a WASTE metering point. -/
def State.excBound (s : State) (n : Nat) : Bool :=
  s.anyRecord (fun b => bindType b == typeWaste && bindExc b == n)

/-- A bound RTD channel uses the source, as its PCH_RTD_SRC stands now (R109). -/
def State.rtdBound (s : State) (n : Nat) : Bool :=
  (upTo 16).any (fun k => s.pchBound k && s.pchMode k == modeRtd && s.pchRtd k == n)

/-- Whether the condition of a conditional entry of Table 8.10 holds. -/
def State.conditionHolds (s : State) (id : Nat) : Bool :=
  if id < 0x1400 then s.pchBound ((id - 0x1000) / 64)
  else if id < 0x1800 then s.cntBound ((id - 0x1400) / 64)
  else if id < 0x1900 then s.excBound ((id - 0x1800) / 64)
  else s.rtdBound ((id - 0x1900) / 64)

/-- CLASS_NOW (R223): 0 N, 1 L-sealed, 2 L-logged. -/
def State.classNow (s : State) (id : Nat) : Nat :=
  match paramInfo id with
  | none => 0
  | some i => if i.rule = 3 then b2n (s.conditionHolds id) else i.rule

end Sys2Proof.Machine
end

