-- ==== Sys2Proof/Machine/Chain.lean ====
section
/-! DEFINITION. The filter chain's settings: the FIR ROM's table, rates, group delay, settling and
the checks of Table 5.3 (R125 to R138). -/

namespace Sys2Proof.Machine

/-- A row of Table 5.5: taps, M2, stopband edge in millionths of fs1, and the required fs1 in Hz, or
0 for any. -/
structure Fir where
  taps : Nat
  m2 : Nat
  stop : Nat
  fs1 : Nat
  deriving DecidableEq, Repr

/-- Table 5.5, F00 to F23. -/
def firTable : List Fir :=
  [⟨32, 1, 250000, 0⟩, ⟨64, 2, 250000, 0⟩, ⟨96, 4, 125000, 0⟩, ⟨128, 8, 62500, 0⟩,
   ⟨192, 16, 31250, 0⟩, ⟨256, 8, 62500, 0⟩, ⟨384, 16, 31250, 0⟩, ⟨384, 1, 450000, 0⟩,
   ⟨128, 16, 58500, 0⟩, ⟨192, 32, 29250, 0⟩, ⟨384, 64, 14625, 0⟩, ⟨256, 32, 27250, 0⟩,
   ⟨320, 64, 13625, 0⟩, ⟨384, 64, 15125, 0⟩, ⟨256, 16, 60500, 1500⟩, ⟨320, 32, 29250, 1500⟩,
   ⟨384, 32, 30250, 1500⟩, ⟨384, 64, 15125, 1500⟩, ⟨96, 2, 375000, 24000⟩,
   ⟨128, 4, 187500, 48000⟩, ⟨96, 2, 395833, 48000⟩, ⟨160, 4, 197917, 96000⟩,
   ⟨256, 64, 15125, 0⟩, ⟨384, 64, 15425, 0⟩]

/-- CHAIN_CFG by field (Table 5.2). -/
structure ChainCfg where
  order : Nat
  log2m : Nat
  fir : Nat
  mode : Nat
  ratio : Nat
  lineN : Nat
  lineRef : Nat
  reserved : Nat
  period : Nat
  deriving DecidableEq, Repr

def ChainCfg.ofBytes (b : Bytes) : ChainCfg :=
  ⟨field b 0 1, field b 1 1, field b 2 1, field b 3 1, field b 4 4, field b 8 2, field b 10 1,
    field b 11 1, field b 12 4⟩

def State.chain (s : State) (n : Nat) : ChainCfg := ChainCfg.ofBytes (s.chainCfg n)

namespace ChainCfg

def m1 (c : ChainCfg) : Nat := 2 ^ c.log2m
def row (c : ChainCfg) : Fir := firTable.getD c.fir ⟨32, 1, 250000, 0⟩
def m2 (c : ChainCfg) : Nat := c.row.m2
def taps (c : ChainCfg) : Nat := c.row.taps

/-- Modulator cycles between two FIR outputs. -/
def firCycles (c : ChainCfg) : Nat := c.m2 * c.m1

/-- The resampler is bypassed (Table 5.7). -/
def bypass (c : ChainCfg) : Bool := c.mode == 0 && c.ratio == 0x80000000

/-- fs1 in Hz. -/
def fs1 (c : ChainCfg) (fMod : Nat) : Rat := (fMod : Rat) / c.m1

/-- fs2 in S/s. -/
def fs2 (c : ChainCfg) (fMod : Nat) : Rat := (fMod : Rat) / c.firCycles

/-- fs3,max in S/s (Table 5.3). -/
def fs3 (c : ChainCfg) (fMod : Nat) : Rat :=
  if c.mode = 0 then c.fs2 fMod * c.ratio / 2147483648
  else if c.mode = 1 then (c.lineN : Rat) * 65
  else if c.period = 0 then 0
  else (1000000000 : Rat) / c.period

/-- Twice the group delay D, in modulator cycles (R136). -/
def delay2 (c : ChainCfg) : Nat := c.order * (c.m1 - 1) + c.m1 * (c.taps - 1)

/-- The settling index S, in CIC outputs (R137). -/
def settleIndex (c : ChainCfg) : Nat := c.m2 * ((c.order + c.taps - 1 + c.m2 - 1) / c.m2)

/-- The first settled FIR output. -/
def firstSettled (c : ChainCfg) : Nat := c.settleIndex / c.m2

/-- Settling in modulator cycles under Table 5.8, the LINE lock and the Rogowski term left out; the
4 ms ratio measurement of TIME mode is `fMod / 250` cycles. -/
def settleCycles (c : ChainCfg) (fMod : Nat) : Nat :=
  c.settleIndex * c.m1 + (if c.bypass then 0 else 18 * c.m2 * c.m1)
    + (if c.mode = 2 then fMod / 250 else 0)

/-- The increment Δ in units of 2^-32 (Table 5.7): FIXED exactly, LINE at 50 Hz, TIME at the nominal
clock. -/
def step (c : ChainCfg) (fMod : Nat) : Nat :=
  if c.mode = 0 then (2 ^ 64 + c.ratio) / (2 * max 1 c.ratio)
  else if c.mode = 1 then (fMod * 2 ^ 32) / (c.firCycles * 50 * max 1 c.lineN)
  else fMod * c.period * 2 ^ 32 / (c.firCycles * 1000000000)

/-- Reserved and out-of-range fields (Table 5.2). -/
def fieldsOk (c : ChainCfg) : Bool :=
  3 ≤ c.order && c.order ≤ 5 && 3 ≤ c.log2m && c.log2m ≤ 12 && c.fir ≤ 23 && c.mode ≤ 2
    && c.reserved == 0

end ChainCfg

/-- The reversal half-period of an EXC rate, in f_MOD cycles (Table 4.4). -/
def halfPeriod (fMod rate : Nat) : Nat := 49152 / 2 ^ rate * fMod / 6144000

/-- The reversal half-period of an RTD source, in f_MOD cycles (R109). -/
def rtdHalfPeriod (fMod : Nat) : Nat := 49152 * fMod / 6144000

/-- Whether the FIR stopband edge lies at or below `twice` / 2 Hz (R108, R109). -/
def ChainCfg.stopsBelow (c : ChainCfg) (fMod twice : Nat) : Bool :=
  decide (2 * (c.row.stop : Rat) * c.fs1 fMod ≤ 1000000 * twice)

/-- The single-channel checks of Table 5.3 on channel `n` as the state has it, at f_MOD; true where
it may run. -/
def State.chainOk (s : State) (n fMod : Nat) : Bool :=
  let c := s.chain n
  let mode := s.pchMode n
  let fixedRate := c.row.fs1 == 0 || decide (c.fs1 fMod = (c.row.fs1 : Rat))
  let order := !(18 ≤ c.fir && c.fir ≤ 21) || c.order == 4
  let rate := decide (c.fs3 fMod ≤ 96000)
  let byMode :=
    if c.mode = 0 then 0x20000000 ≤ c.ratio && c.ratio ≤ 0x80000000
    else if c.mode = 1 then
      32 ≤ c.lineN && c.lineN ≤ 256 && decide ((c.lineN : Rat) * 65 ≤ c.fs2 fMod)
        && decide (c.fs2 fMod ≤ 4 * ((c.lineN : Rat) * 45))
        && c.lineRef < 16 && s.pchMode c.lineRef == modeEv
    else
      c.period != 0 &&
        decide (2525 * (c.period : Rat) * c.fs2 fMod ≤ 10000000000000) &&
        decide (10000000000000 ≤ 9900 * (c.period : Rat) * c.fs2 fMod)
  let stop :=
    if mode = modeBridge && s.pnum (excId (s.pchExc n) 2) == 1 then
      c.stopsBelow fMod (125 * 2 ^ s.pnum (excId (s.pchExc n) 3))
    else if mode = modeRtd then c.stopsBelow fMod 125
    else true
  let waste := c.bypass || !s.anyRecord (fun b => bindType b == typeWaste && (bindChannels b).contains n)
  let capture := !s.captures n || decide (c.fs3 fMod ≤ 8320)
  c.fieldsOk && fixedRate && order && rate && byMode && stop && waste && capture

/-- The enabled channels: those not in OFF. -/
def State.enabled (s : State) : List Nat := (upTo 16).filter (fun n => s.pchMode n != 0)

/-- Σ fs3,max over the enabled channels is within 768,000 S/s (Table 5.3). -/
def State.sumOk (s : State) (fMod : Nat) : Bool :=
  decide ((s.enabled.map (fun n => (s.chain n).fs3 fMod)).sum ≤ (768000 : Rat))

/-- Every enabled channel passes the single-channel checks. -/
def State.chainsOk (s : State) (fMod : Nat) : Bool := s.enabled.all (fun n => s.chainOk n fMod)

/-- The status that a state's chains would be refused with, DONE where every enabled channel passes
Table 5.3 (R552). -/
def State.chainsStatus (s : State) (fMod : Nat) : Nat :=
  if s.chainsOk fMod then (if s.sumOk fMod then stDone else stNoResource) else stBadParam

/-- Every driver in AC mode has EXC_BLANK within N_half / 4 at f_MOD (Table 4.3, R127). -/
def State.blanksOk (s : State) (fMod : Nat) : Bool :=
  (upTo 4).all (fun n => s.pnum (excId n 2) != 1 ||
    4 * s.pnum (excId n 5) ≤ halfPeriod fMod (s.pnum (excId n 3)))

end Sys2Proof.Machine
end

