-- ==== Sys2Proof/Machine/Excitation.lean ====
section
/-! DEFINITION. The analogue side of a channel: full scale and sample code, the excitation drivers, the
RTD sources, what their pins drive, and the conditions of the diagnostic bits (R100 to R111, R123). -/

namespace Sys2Proof.Machine

def State.driver (s : State) (k : Nat) : Driver := s.drivers.getD k Driver.reset

/-! ### Rounding -/

/-- The nearest whole number to `n / d`, ties to even (R128, R129). -/
def roundEven (n : Int) (d : Nat) : Int :=
  let q := n / d
  let r := n - q * d
  if 2 * r < d ∨ (2 * r = d ∧ q % 2 = 0) then q else q + 1

/-- The same of a rational. -/
def roundEvenRat (x : Rat) : Int := roundEven x.num x.den

/-- The value saturated to 32 bits. -/
def sat32 (x : Int) : Int := clampInt (-2147483648) 2147483647 x

/-! ### Which drivers and sources run (R105, R109, R110, R123) -/

/-- What a force pair drives. -/
inductive PinDrive where
  | highZ | positive | negative
  deriving DecidableEq, Repr

/-- The driver is on: enabled, and past step 7 of R55 (R123). -/
def State.excOn (s : State) (k : Nat) : Bool := s.legalRuns && s.pnum (excId k 0) == 1

/-- The source is on: selected by an enabled RTD channel, and past step 7 of R55 (R110, R123). -/
def State.rtdOn (s : State) (k : Nat) : Bool :=
  s.legalRuns && (upTo 16).any (fun n => s.pchMode n == modeRtd && s.pchRtd n == k)

/-- The pull-up of a counter input is on (R123, Table 4.7). -/
def State.cntPullOn (s : State) (n : Nat) : Bool := s.legalRuns && s.pnum (cntId n 1) != 0

/-- The half-period that f_MOD cycle `c` lies in, counted from the restart of the reversal counter at
`base`; even ones are positive (R107, R108). -/
def halfIndex (base half c : Nat) : Nat := (c - base) / max 1 half

/-- The force pair of a driver: EXCn_P is positive in the first half-period after the reversal counter
restarts (R107, R108). -/
def State.excDrive (s : State) (k : Nat) : PinDrive :=
  if !s.excOn k then .highZ
  else if s.pnum (excId k 2) = 0 then .positive
  else if halfIndex (s.driver k).revBase (halfPeriod s.fMod (s.pnum (excId k 3))) s.modDom.cycle % 2 = 0
    then .positive
  else .negative

/-- The loop of a source, which reverses every 8.0 ms (R109). -/
def State.rtdDrive (s : State) (k : Nat) : PinDrive :=
  if !s.rtdOn k then .highZ
  else if halfIndex (s.sources.getD k 0) (rtdHalfPeriod s.fMod) s.modDom.cycle % 2 = 0 then .positive
  else .negative

/-! ### The driver's regulation (R106) -/

/-- The current limit in µA: 65 mA to 85 mA (log 53). -/
def excLimit (k : Nat) : Nat := min 85000 (max 65000 (Config.excLimit k))

/-- The voltage that the driver regulates to, in mV: EXC_VOLTAGE within 0.5 % (log 53). -/
def State.excTarget (s : State) (k : Nat) : Rat :=
  (s.pnum (excId k 1) : Rat) * (1000000 + clampInt (-5000) 5000 (Config.excError k)) / 1000000

/-- 6-wire sense that sees its pins; with a pin open, or in 4-wire mode, the driver regulates on its force
pins. -/
def State.sixWire (s : State) (k : Nat) : Bool := s.pnum (excId k 4) == 1 && !(s.driver k).senseOpen

/-- The force voltage in mV: the sensed voltage at the target, as far as VDD_EXC - 0.5 V and the current
limit allow. -/
def State.excForce (s : State) (k : Nat) : Rat :=
  let d := s.driver k
  let all : Rat := d.load + d.lead
  let ideal := if s.sixWire k && d.load != 0 then s.excTarget k * all / d.load else s.excTarget k
  if s.excOn k then min ideal (min ((d.vddExc - 500 : Nat) : Rat) ((excLimit k : Rat) * all / 1000000))
  else 0

/-- The voltage behind the force leads in mV. -/
def State.excRemote (s : State) (k : Nat) : Rat :=
  let d := s.driver k
  s.excForce k * d.load / max 1 ((d.load : Rat) + d.lead)

/-- The sensed voltage in mV, the reference of the driver's BRIDGE channels. -/
def State.excSense (s : State) (k : Nat) : Rat := if s.sixWire k then s.excRemote k else s.excForce k

/-- The load current in µA. -/
def State.excCurrent (s : State) (k : Nat) : Rat :=
  s.excForce k * 1000000 / max 1 (((s.driver k).load : Rat) + (s.driver k).lead)

/-- The driver is at its current limit (R121: it folds back and stays enabled). -/
def State.excLimited (s : State) (k : Nat) : Bool := s.excOn k && decide ((excLimit k : Rat) ≤ s.excCurrent k)

/-! ### The RTD sources (R109, R110, Table 4.5) -/

/-- The nominal current in µA, and R_REF in mΩ, of an RTD type. -/
def rtdMicroAmp (t : Nat) : Nat := if t = 0 then 1000 else if t = 1 then 500 else 250
def rtdRefMilliOhm (t : Nat) : Nat := if t = 0 then 400000 else if t = 1 then 2000000 else 4000000

/-- The current of source `k` in µA with no limit of its voltage: within 1 % of the nominal one, and any two
sources within 0.05 % of each other (log 53). -/
def State.rtdCurrent (s : State) (k : Nat) : Rat :=
  (rtdMicroAmp (s.pnum (rtdId k)) : Rat) * (1000000 + clampInt (-9750) 9750 Config.rtdError +
    clampInt (-240) 240 (Config.rtdMismatch k)) / 1000000

/-- The source's output voltage in mV through a loop of `r` mΩ, before its compliance limits it. -/
def State.rtdVolts (s : State) (k r : Nat) : Rat := s.rtdCurrent k * r / 1000000

/-- The voltage across a reference resistor of `ref` mΩ in mV, the source held to its 2.8 V. -/
def State.rtdRefVolts (s : State) (k rtd ref : Nat) : Rat :=
  if s.rtdVolts k (rtd + ref) ≤ 2800 then s.rtdVolts k ref
  else (2800 : Rat) * ref / max 1 ((rtd : Rat) + ref)

/-! ### Full scale and sample code (R100 to R102, Table 4.1) -/

def State.gain (s : State) (n : Nat) : Nat := 2 ^ s.pchGain n

/-- FS of a channel in nV: the nominal reference's for BRIDGE and RTD. -/
def State.fullScale (s : State) (n : Nat) : Rat :=
  let mode := s.pchMode n
  let g : Rat := s.gain n
  if mode = modeBridge then (s.pnum (excId (s.pchExc n) 1) : Rat) * 1000000 / (4 * g)
  else if mode = modeEv then 500000000
  else if mode = modeEi then 500000000 / g
  else if mode = modeRtd then
    let t := s.pnum (rtdId (s.pchRtd n))
    (rtdMicroAmp t : Rat) * rtdRefMilliOhm t / 2
  else 2500000000 / g

/-- The nominal reference voltage over the one sensed, for the ratiometric modes. -/
def State.refRatio (s : State) (n : Nat) (e : Sensed) : Rat :=
  let mode := s.pchMode n
  if mode = modeBridge then
    (s.pnum (excId (s.pchExc n) 1) : Rat) / s.excSense (s.pchExc n)
  else if mode = modeRtd then
    let t := s.pnum (rtdId (s.pchRtd n))
    (rtdMicroAmp t : Rat) * rtdRefMilliOhm t / 1000000 / s.rtdRefVolts (s.pchRtd n) e.rtd e.rRef
  else 1

/-- The sample code that R101 gives an input `x` in nV. -/
def State.sampleCode (s : State) (n : Nat) (x : Int) (e : Sensed) : Int :=
  roundEvenRat (1073741824 * ((x : Rat) * s.refRatio n e) / s.fullScale n)

/-- The code of an RTD channel whose RTD has `rtd` mΩ: R_RTD / R_REF · 2^31 (R110). -/
def rtdCode (rtd ref : Nat) : Int := roundEvenRat (2147483648 * (rtd : Rat) / ref)

/-- A code beyond FS, and beyond 1.2 FS (R111). -/
def beyondFs (x : Int) : Bool := decide (1073741824 < x.natAbs)
def beyondHard (x : Int) : Bool := decide (6442450944 < 5 * x.natAbs)

/-! ### Demodulation and blanking (R107 to R109) -/

/-- How a channel's words are demodulated: where the reversal counter restarted, the half-period and the
blanked cycles of each half; none in the modes without reversal. -/
def State.reversal (s : State) (n : Nat) : Option (Nat × Nat × Nat) :=
  let k := s.pchExc n
  if s.pchMode n = modeBridge ∧ s.pnum (excId k 2) = 1 then
    some ((s.driver k).revBase, halfPeriod s.fMod (s.pnum (excId k 3)), s.pnum (excId k 5))
  else if s.pchMode n = modeRtd then some (s.sources.getD (s.pchRtd n) 0, rtdHalfPeriod s.fMod, 512)
  else none

/-- A modulator word as the demodulator gives it at f_MOD cycle `c`. -/
def demodulate (r : Option (Nat × Nat × Nat)) (c : Nat) (w : BitVec 4) : Int :=
  match r with
  | none => w.toInt
  | some (base, half, blank) =>
    if (c - base) % max 1 half < blank then 0
    else if halfIndex base half c % 2 = 0 then w.toInt
    else -w.toInt

/-- The factor N_half / (N_half - EXC_BLANK) that makes up for the blanking, as numerator and
denominator. -/
def blankFactor (r : Option (Nat × Nat × Nat)) : Nat × Nat :=
  match r with
  | none => (1, 1)
  | some (_, half, blank) => (half, max 1 (half - blank))

/-! ### The diagnostic conditions (R103, R111, Table 4.6) -/

/-- The driver of a row's channel meets these loads. -/
def State.meet (s : State) (n : Nat) (e : Sensed) : State :=
  if s.pchMode n = modeBridge then
    s.modDriver (s.pchExc n) (fun d => { d with
      vddExc := e.vddExc, load := e.load, lead := e.lead, senseOpen := e.senseOpen })
  else s

/-- The modes in which a diagnostic bit exists (Table 4.6); OVR_SOFT comes from the FIR outputs alone. -/
def State.diagApplies (s : State) (n bit : Nat) : Bool :=
  let mode := s.pchMode n
  if bit = 0 ∨ bit = 5 then mode != 0
  else if bit = 1 then mode == modeBridge
  else if bit = 2 then mode == modeBridge && s.pnum (excId (s.pchExc n) 4) == 1
  else if bit = 3 then mode == modeBridge || mode == modeRtd
  else bit == 6 && mode == modeRtd

/-- A pin outside 0.3 V to VDDA - 0.3 V (R103). -/
def outsideWindow (pin vdda : Int) : Bool := pin < 300 || vdda - 300 < pin

/-- The condition of a diagnostic bit is present (Table 4.6). -/
def State.diagPresent (s : State) (n bit : Nat) (e : Sensed) : Bool :=
  let k := s.pchExc n
  let volts : Rat := s.pnum (excId k 1)
  let t := s.pnum (rtdId (s.pchRtd n))
  s.diagApplies n bit &&
    (if bit = 0 then outsideWindow e.pinP e.vdda || outsideWindow e.pinN e.vdda
    else if bit = 1 then s.excLimited k && decide (1000 ≤ e.limitUs)
    else if bit = 2 then
      (s.driver k).senseOpen || decide (volts < 10 * (s.excForce k - s.excRemote k))
    else if bit = 3 then
      (if s.pchMode n = modeBridge then decide (2 * s.excSense k < volts)
      else decide (2 * s.rtdRefVolts (s.pchRtd n) e.rtd e.rRef * 1000000 <
        (rtdMicroAmp t : Rat) * rtdRefMilliOhm t))
    else if bit = 5 then beyondHard (s.sampleCode n e.input e)
    else decide (2800 < s.rtdVolts (s.pchRtd n) (e.rtd + e.rRef)))

/-- A disabled driver gives no reference, whatever is met (Table 4.6). -/
def State.refOff (s : State) (n bit : Nat) : Bool :=
  bit == 3 && s.pchMode n == modeBridge && s.pnum (excId (s.pchExc n) 0) == 0

end Sys2Proof.Machine
end

