-- ==== Sys2Proof/Machine/Filters.lean ====
section
/-! DEFINITION. The arithmetic of a chain: CIC, FIR, Rogowski integrator and resampler kernel (R102, R128 to
R132). -/

namespace Sys2Proof.Machine

/-! ### The CIC decimator (R128) -/

/-- A value through the integrators, each of which adds what reaches it modulo 2^64. -/
def cicIntegrate : List (BitVec 64) → BitVec 64 → List (BitVec 64) × BitVec 64
  | [], x => ([], x)
  | r :: rs, x =>
    let y := r + x
    let t := cicIntegrate rs y
    (y :: t.1, t.2)

/-- A value through the combs of differential delay 1. -/
def cicComb : List (BitVec 64) → BitVec 64 → List (BitVec 64) × BitVec 64
  | [], x => ([], x)
  | r :: rs, x =>
    let t := cicComb rs (x - r)
    (x :: t.1, t.2)

/-- A CIC output in the scale of R101: the gain M1^N taken out, the blanking made up for, rounded to
nearest, ties to even (log 12). -/
def cicCode (cfg : ChainCfg) (factor : Nat × Nat) (y : BitVec 64) : Int :=
  roundEven (y.toInt * Config.wordScale * factor.1) (2 ^ (cfg.order * cfg.log2m) * factor.2)

/-! ### The FIR (R129) -/

/-- Coefficient `t` of a response with `taps` taps: 24 bits, and linear phase. -/
def firCoef (id taps t : Nat) : Int :=
  clampInt (-8388608) 8388607 (Config.firCoefficient id (min t (taps - 1 - t)))

/-- The FIR sum over the latest CIC outputs, newest first, rounded to nearest, ties to even. 384 products of
24 by 32 bits never fill the 72-bit accumulator. -/
def firSum (cfg : ChainCfg) (cics : List Int) : Int :=
  roundEven (((upTo cfg.taps).map (fun t => firCoef cfg.fir cfg.taps t * cics.getD t 0)).sum)
    (2 ^ Config.firShift cfg.fir)

/-! ### The Rogowski integrator (R102, R131) -/

/-- 2π in units of 10^-15. -/
def twoPi : Rat := 6283185307179586 / 1000000000000000

/-- The pole at 0.020 Hz for a period of `cycles` f_MOD cycles: exp(-ω) to its third power (log 12). -/
def rogowskiPole (fMod cycles : Nat) : Rat :=
  let w : Rat := twoPi * cycles / (50 * max 1 fMod)
  1 - w + w * w / 2 - w * w * w / 6

/-- One step of the integrator: its gain at DC is 2,500, so that its gain at 50 Hz is 1, and the mean of two
inputs keeps the phase of a true integral (log 12). -/
def rogowskiStep (pole y : Rat) (x0 x1 : Int) : Rat :=
  pole * y + 1250 * (1 - pole) * ((x0 : Rat) + x1)

/-! ### The chain, word by word -/

/-- What the chain of a channel runs with. -/
structure ChainRun where
  cfg : ChainCfg
  fMod : Nat
  /-- The reversal that its words are demodulated by (R107, R109). -/
  rev : Option (Nat × Nat × Nat)
  integrates : Bool
  deriving DecidableEq, Repr

/-- A FIR output forms from the CIC outputs (R129, R131). -/
def Channel.takeFir (c : Channel) (r : ChainRun) : Channel :=
  let x := firSum r.cfg c.cics
  let pre := sat32 x
  let y := if r.integrates then rogowskiStep (rogowskiPole r.fMod r.cfg.firCycles) c.integral c.integralIn pre
    else 0
  let raw := if r.integrates then roundEvenRat y else pre
  let out : FirOut := ⟨pre, sat32 raw, pre != x || sat32 raw != raw⟩
  { c with
    firCount := c.firCount + 1
    integral := y
    integralIn := if r.integrates then pre else 0
    firs := (out :: c.firs).take 16 }

/-- A CIC output forms, every M2 of them a FIR output. -/
def Channel.takeCic (c : Channel) (r : ChainRun) (y : BitVec 64) : Channel :=
  let t := cicComb c.combs y
  let c := { c with
    combs := t.1
    cics := (cicCode r.cfg (blankFactor r.rev) t.2 :: c.cics).take 384 }
  if c.words % r.cfg.firCycles = 0 then c.takeFir r else c

/-- One modulator word: demodulated, blanked, integrated, and every M1 of them a CIC output. -/
def Channel.takeWord (c : Channel) (r : ChainRun) (w : BitVec 4) : Channel :=
  let k := c.words + 1
  let t := cicIntegrate c.integrators (BitVec.ofInt 64 (demodulate r.rev (c.resetCycle + k) w))
  let c := { c with words := k, integrators := t.1 }
  if k % r.cfg.m1 = 0 then c.takeCic r t.2 else c

/-- The chain starts anew at f_MOD cycle `now` (R119, R140, R150). -/
def Channel.restart (c : Channel) (cfg : ChainCfg) (on : Bool) (now step : Nat) (until_ : Option Nat) :
    Channel :=
  { c with
    running := on
    settled := false
    resetCycle := now
    firCount := 0
    outCount := 0
    words := 0
    integrators := List.replicate cfg.order 0
    combs := List.replicate cfg.order 0
    cics := []
    integral := 0
    integralIn := 0
    firs := []
    rsPos := 0
    rsStep := step
    diagSeen := c.diag
    line := LineState.reset
    cross := Crossing.reset
    ratioUntil := until_
    recent := []
    cycle := [] }

/-! ### The resampler (R132) -/

/-- The output at position `p` of the last 16 samples, newest first: the ROM phase of the top 6 fraction bits,
interpolated by the next 10. -/
def resample (xs : List Int) (p : Nat) : Int :=
  let frac := p % 4294967296
  let phase := frac / 67108864
  let part := frac / 65536 % 1024
  let sum := ((upTo 16).map (fun i =>
    let a := Config.resamplerKernel phase i
    let b := Config.resamplerKernel (phase + 1) i
    (a * 1024 + (b - a) * (part : Int)) * xs.getD (15 - i) 0)).sum
  roundEven sum 1099511627776

end Sys2Proof.Machine
end

