-- ==== Sys2Proof/Machine/Calendar.lean ====
section
/-! DEFINITION. Dates, the tariff calendar's format, its checks and its evaluation (R86, R238 to
R243, Tables 9.5 to 9.10). -/

namespace Sys2Proof.Machine

/-- The date of day `n` after 2000-01-01: year, month, day (R86). -/
def dateOfDay (n : Nat) : Nat × Nat × Nat :=
  let z := n + 730425
  let doe := z % 146097
  let yoe := (doe - doe / 1460 + doe / 36524 - doe / 146096) / 365
  let doy := doe - (365 * yoe + yoe / 4 - yoe / 100)
  let mp := (5 * doy + 2) / 153
  let d := doy - (153 * mp + 2) / 5 + 1
  let m := if mp < 10 then mp + 3 else mp - 9
  (yoe + z / 146097 * 400 + (if m ≤ 2 then 1 else 0), m, d)

/-- The day number of a date from 2000 onwards. -/
def dayOfDate (y m d : Nat) : Nat :=
  let y' := if m ≤ 2 then y - 1 else y
  let yoe := y' % 400
  let doy := (153 * (if 2 < m then m - 3 else m + 9) + 2) / 5 + d - 1
  y' / 400 * 146097 + (yoe * 365 + yoe / 4 - yoe / 100 + doy) - 730425

/-- The weekday of a day number, 1 Monday to 7 Sunday; day 0 was a Saturday. -/
def weekday (n : Nat) : Nat := (n + 5) % 7 + 1

def leapYear (y : Nat) : Bool := y % 4 == 0 && (y % 100 != 0 || y % 400 == 0)

/-- The days of a month; of February, 28 or 29. -/
def monthDays (y m : Nat) : Nat :=
  if m = 2 then (if leapYear y then 29 else 28)
  else if m = 4 ∨ m = 6 ∨ m = 9 ∨ m = 11 then 30
  else 31

/-- The day number of the given occurrence of a weekday in a month; 5 is the last (Table 9.5). -/
def nthWeekday (y m week wday : Nat) : Nat :=
  let first := dayOfDate y m 1
  let off := (wday + 7 - weekday first) % 7
  let k := if week = 5 then (if off + 28 < monthDays y m then 28 else 21) else 7 * (week - 1)
  first + off + k

/-- A DST rule of the header at `off`: the UTC minute since 2000-01-01 that it names in a year. -/
def dstMinute (cal : Bytes) (off y : Nat) : Nat :=
  nthWeekday y (field cal off 1) (field cal (off + 1) 1) (field cal (off + 2) 1) * 1440
    + field cal (if off = 17 then 20 else 26) 2

/-- Whether daylight saving is in force at a UTC minute (R243). -/
def dstOn (cal : Bytes) (minute : Nat) : Bool :=
  if field cal 16 1 = 0 then false
  else
    let y := (dateOfDay (minute / 1440)).1
    let a := dstMinute cal 17 y
    let b := dstMinute cal 22 y
    if a < b then a ≤ minute && minute < b else !(b ≤ minute && minute < a)

/-- The civil minute since 2000-01-01 of a UTC minute, 400 years later so that it is no less than 0
(R86); dates repeat after 400 years. -/
def civilMinute (cal : Bytes) (offset : Int) (minute : Nat) : Nat :=
  ((minute : Int) + offset + (if dstOn cal minute then field cal 16 1 else 0) + 146097 * 1440).toNat

/-- Special-day entry `k`: YEAR, MONTH, DAY, DAY_PROF (Table 9.9). -/
def specialDay (cal : Bytes) (k : Nat) : Nat × Nat × Nat × Nat :=
  let o := 896 + 8 * k
  (field cal o 2, field cal (o + 2) 1, field cal (o + 3) 1, field cal (o + 4) 1)

/-- The week profile of the season in force on a date (R242). -/
def seasonWeek (cal : Bytes) (m d : Nat) : Nat :=
  let n := field cal 1 1
  let started := (upTo n).filter (fun k =>
    let a := field cal (32 + 4 * k) 1
    let b := field cal (33 + 4 * k) 1
    decide (a < m) || (a == m && decide (b ≤ d)))
  let k := match started.getLast? with
    | none => n - 1
    | some k => k
  field cal (34 + 4 * k) 1

/-- The day profile of a date (R242). -/
def dayProfile (cal : Bytes) (y m d wday : Nat) : Nat :=
  let specials := (upTo (field cal 2 1)).map (specialDay cal)
  let isDay (e : Nat × Nat × Nat × Nat) : Bool := e.2.1 == m && e.2.2.1 == d
  match specials.find? (fun e => e.1 == y && isDay e) with
  | some e => e.2.2.2
  | none =>
    match specials.find? (fun e => e.1 == 0 && isDay e) with
    | some e => e.2.2.2
    | none => field cal (64 + 8 * seasonWeek cal m d + (wday - 1)) 1

/-- The switch points of a day profile: MINUTE and TARIFF (Table 9.8). -/
def profilePoints (cal : Bytes) (p : Nat) : List (Nat × Nat) :=
  (upTo 12).map (fun k => (field cal (128 + 48 * p + 4 * k) 2, field cal (130 + 48 * p + 4 * k) 1))

/-- The tariff that a calendar gives a UTC minute, 1 to 8 (R242). -/
def calendarTariff (cal : Bytes) (offset : Int) (minute : Nat) : Nat :=
  let c := civilMinute cal offset minute
  let day := c / 1440
  let date := dateOfDay day
  let p := dayProfile cal (date.1 - 400) date.2.1 date.2.2 (weekday day)
  match ((profilePoints cal p).filter (fun q => decide (q.1 ≤ c % 1440))).getLast? with
  | none => 1
  | some q => q.2

/-! ### The checks of Table 9.10 -/

def dstRuleOk (cal : Bytes) (off : Nat) : Bool :=
  let m := field cal off 1
  let w := field cal (off + 1) 1
  let d := field cal (off + 2) 1
  1 ≤ m && m ≤ 12 && 1 ≤ w && w ≤ 5 && 1 ≤ d && d ≤ 7 &&
    field cal (if off = 17 then 20 else 26) 2 ≤ 1439

def headerOk (cal : Bytes) : Bool :=
  let shift := field cal 16 1
  field cal 0 1 == 1 && 1 ≤ field cal 1 1 && field cal 1 1 ≤ 8 && field cal 2 1 ≤ 128 && rsv cal 3 1
    && field cal 8 8 % 60000000000 == 0 && rsv cal 25 1 && rsv cal 28 4 &&
    (if shift = 0 then rsv cal 17 11
     else 15 ≤ shift && shift ≤ 120 && shift % 15 == 0 && dstRuleOk cal 17 && dstRuleOk cal 22 &&
       (upTo 400).all (fun k => dstMinute cal 17 (2000 + k) != dstMinute cal 22 (2000 + k)))

/-- A sequence of numbers strictly rises. -/
def rising : List Nat → Bool
  | a :: b :: rest => decide (a < b) && rising (b :: rest)
  | _ => true

def seasonsOk (cal : Bytes) : Bool :=
  let n := field cal 1 1
  rising ((upTo n).map (fun k => 32 * field cal (32 + 4 * k) 1 + field cal (33 + 4 * k) 1)) &&
    (upTo n).all (fun k =>
      let m := field cal (32 + 4 * k) 1
      let d := field cal (33 + 4 * k) 1
      1 ≤ m && m ≤ 12 && 1 ≤ d && d ≤ monthDays 2001 m && field cal (34 + 4 * k) 1 ≤ 7
        && rsv cal (35 + 4 * k) 1) &&
    rsv cal (32 + 4 * n) (32 - 4 * n)

/-- The week profiles that seasons name. -/
def weeksUsed (cal : Bytes) : List Nat :=
  (upTo (field cal 1 1)).map (fun k => field cal (34 + 4 * k) 1)

/-- The day profiles that those weeks and the special days name. -/
def daysUsed (cal : Bytes) : List Nat :=
  (weeksUsed cal).flatMap (fun w => (upTo 7).map (fun i => field cal (64 + 8 * w + i) 1)) ++
    (upTo (field cal 2 1)).map (fun k => (specialDay cal k).2.2.2)

def weeksOk (cal : Bytes) : Bool :=
  (upTo 8).all (fun w => rsv cal (71 + 8 * w) 1) &&
    (weeksUsed cal).all (fun w => (upTo 7).all (fun i => field cal (64 + 8 * w + i) 1 ≤ 15))

def profileOk (cal : Bytes) (p : Nat) : Bool :=
  let pts := profilePoints cal p
  let used := pts.takeWhile (fun q => q.1 != 0xFFFF)
  let rest := pts.drop used.length
  (used.head?.map (·.1)) == some 0 && rising (used.map (·.1)) &&
    used.all (fun q => q.1 ≤ 1439 && 1 ≤ q.2 && q.2 ≤ 8) && rest.all (fun q => q.1 == 0xFFFF && q.2 == 0)

def profilesOk (cal : Bytes) : Bool :=
  (upTo 192).all (fun k => rsv cal (131 + 4 * k) 1) && (daysUsed cal).all (fun p => profileOk cal p)

def specialsOk (cal : Bytes) : Bool :=
  let n := field cal 2 1
  let es := (upTo n).map (specialDay cal)
  es.all (fun e =>
      (e.1 == 0 || (2000 ≤ e.1 && e.1 ≤ 2135)) && 1 ≤ e.2.1 && e.2.1 ≤ 12 && 1 ≤ e.2.2.1 &&
      e.2.2.1 ≤ monthDays (if e.1 = 0 then 2000 else e.1) e.2.1 && e.2.2.2 ≤ 15) &&
    (es.map (fun e => (e.1, e.2.1, e.2.2.1))).Nodup &&
    (upTo n).all (fun k => rsv cal (901 + 8 * k) 3) && rsv cal (896 + 8 * n) (1024 - 8 * n)

/-- Every check of Table 9.10 on 1,920 bytes (R241). -/
def calendarOk (cal : Bytes) : Bool :=
  cal.length == 1920 && headerOk cal && seasonsOk cal && weeksOk cal && profilesOk cal && specialsOk cal

/-! ### The tariff in force (R238, R239) -/

def State.utcOffset (s : State) : Int := toSigned 2 (s.pnumNow 0x3000)

/-- A calendar has been active. -/
def State.calendarEver (s : State) : Bool := s.legal.active.state != 0

/-- What decides the tariff (R327): 0 the calendar, 1 T_DEF while time is INVALID, 2 T_DEF while no
calendar has ever been active. -/
def State.tariffSource (s : State) : Nat :=
  if s.ntu.status = .invalid then 1 else if s.calendarEver then 0 else 2

/-- The tariff in force at an instant of node time, 1 to 8 (R238, R239). -/
def State.tariffAt (s : State) (ns : Nat) : Nat :=
  if s.tariffSource = 0 then calendarTariff s.legal.active.bytes s.utcOffset (ns / 60000000000)
  else s.pnumNow 0x3010

end Sys2Proof.Machine
end

