-- ==== Sys2Proof/Machine/Sha.lean ====
section
/-! DEFINITION. SHA-256 and HMAC-SHA-256, which the manual names and takes from the standards
(R31, R211, R259, R264). PRESUMED from FIPS 180-4 and FIPS 198-1, log 7. -/

namespace Sys2Proof.Machine

def shaK1 : List (BitVec 32) :=
  [0x428A2F98#32, 0x71374491#32, 0xB5C0FBCF#32, 0xE9B5DBA5#32, 0x3956C25B#32, 0x59F111F1#32,
   0x923F82A4#32, 0xAB1C5ED5#32, 0xD807AA98#32, 0x12835B01#32, 0x243185BE#32, 0x550C7DC3#32,
   0x72BE5D74#32, 0x80DEB1FE#32, 0x9BDC06A7#32, 0xC19BF174#32, 0xE49B69C1#32, 0xEFBE4786#32,
   0x0FC19DC6#32, 0x240CA1CC#32, 0x2DE92C6F#32, 0x4A7484AA#32, 0x5CB0A9DC#32, 0x76F988DA#32,
   0x983E5152#32, 0xA831C66D#32, 0xB00327C8#32, 0xBF597FC7#32, 0xC6E00BF3#32, 0xD5A79147#32,
   0x06CA6351#32, 0x14292967#32]

def shaK2 : List (BitVec 32) :=
  [0x27B70A85#32, 0x2E1B2138#32, 0x4D2C6DFC#32, 0x53380D13#32, 0x650A7354#32, 0x766A0ABB#32,
   0x81C2C92E#32, 0x92722C85#32, 0xA2BFE8A1#32, 0xA81A664B#32, 0xC24B8B70#32, 0xC76C51A3#32,
   0xD192E819#32, 0xD6990624#32, 0xF40E3585#32, 0x106AA070#32, 0x19A4C116#32, 0x1E376C08#32,
   0x2748774C#32, 0x34B0BCB5#32, 0x391C0CB3#32, 0x4ED8AA4A#32, 0x5B9CCA4F#32, 0x682E6FF3#32,
   0x748F82EE#32, 0x78A5636F#32, 0x84C87814#32, 0x8CC70208#32, 0x90BEFFFA#32, 0xA4506CEB#32,
   0xBEF9A3F7#32, 0xC67178F2#32]

/-- The 64 round constants. -/
def shaK : List (BitVec 32) := shaK1 ++ shaK2

/-- The eight working words. -/
structure ShaState where
  a : BitVec 32
  b : BitVec 32
  c : BitVec 32
  d : BitVec 32
  e : BitVec 32
  f : BitVec 32
  g : BitVec 32
  h : BitVec 32
  deriving DecidableEq, Repr

def shaInit : ShaState :=
  ⟨0x6A09E667#32, 0xBB67AE85#32, 0x3C6EF372#32, 0xA54FF53A#32,
   0x510E527F#32, 0x9B05688C#32, 0x1F83D9AB#32, 0x5BE0CD19#32⟩

/-- One round with schedule word `w` and constant `k`. -/
def shaRound (s : ShaState) (w k : BitVec 32) : ShaState :=
  let s1 := s.e.rotateRight 6 ^^^ s.e.rotateRight 11 ^^^ s.e.rotateRight 25
  let ch := (s.e &&& s.f) ^^^ (~~~s.e &&& s.g)
  let t1 := s.h + s1 + ch + k + w
  let s0 := s.a.rotateRight 2 ^^^ s.a.rotateRight 13 ^^^ s.a.rotateRight 22
  let maj := (s.a &&& s.b) ^^^ (s.a &&& s.c) ^^^ (s.b &&& s.c)
  ⟨t1 + s0 + maj, s.a, s.b, s.c, s.d + t1, s.e, s.f, s.g⟩

/-- The big-endian 32-bit words of a block. -/
def shaWords (bs : Bytes) : List (BitVec 32) :=
  (upTo (bs.length / 4)).map (fun i => BitVec.ofNat 32 (beNat (slice bs (4 * i) 4)))

/-- `n` rounds, sliding a window of 16 schedule words. -/
def shaRounds : List (BitVec 32) → List (BitVec 32) → ShaState → ShaState
  | [], _, s => s
  | k :: ks, win, s =>
    let w := win.getD 0 0
    let w1 := win.getD 1 0
    let w14 := win.getD 14 0
    let next := w + (w1.rotateRight 7 ^^^ w1.rotateRight 18 ^^^ (w1 >>> 3)) + win.getD 9 0
      + (w14.rotateRight 17 ^^^ w14.rotateRight 19 ^^^ (w14 >>> 10))
    shaRounds ks (win.drop 1 ++ [next]) (shaRound s w k)

/-- The compression of one 64-byte block. -/
def shaBlock (s : ShaState) (block : Bytes) : ShaState :=
  let r := shaRounds shaK (shaWords block) s
  ⟨s.a + r.a, s.b + r.b, s.c + r.c, s.d + r.d, s.e + r.e, s.f + r.f, s.g + r.g, s.h + r.h⟩

/-- The message with its padding: a multiple of 64 bytes. -/
def shaPad (m : Bytes) : Bytes :=
  m ++ [0x80#8] ++ zeros ((119 - m.length % 64) % 64) ++ beBytes 8 (8 * m.length)

/-- `n` blocks taken off the front. -/
def shaBlocks : Nat → Bytes → ShaState → ShaState
  | 0, _, s => s
  | n + 1, bs, s => shaBlocks n (bs.drop 64) (shaBlock s (bs.take 64))

def ShaState.toBytes (s : ShaState) : Bytes :=
  ([s.a, s.b, s.c, s.d, s.e, s.f, s.g, s.h]).flatMap (fun w => beBytes 4 w.toNat)

/-- SHA-256. -/
def sha256 (m : Bytes) : Bytes :=
  let p := shaPad m
  (shaBlocks (p.length / 64) p shaInit).toBytes

/-- HMAC-SHA-256. -/
def hmacSha256 (key m : Bytes) : Bytes :=
  let k := padTo 64 (if 64 < key.length then sha256 key else key)
  sha256 (k.map (· ^^^ 0x5C#8) ++ sha256 (k.map (· ^^^ 0x36#8) ++ m))

end Sys2Proof.Machine
end

