-- ==== Sys2Proof/Machine/Ecc.lean ====
section
/-! DEFINITION. ECDSA and ECDH over P-256 (R264, R268, R271, R272). The curve and the schemes are
PRESUMED from FIPS 186-5, SP 800-186 and RFC 6979, log 7. -/

namespace Sys2Proof.Machine

def p256P : Nat := 2 ^ 256 - 2 ^ 224 + 2 ^ 192 + 2 ^ 96 - 1
def p256N : Nat := 0xFFFFFFFF00000000FFFFFFFFFFFFFFFFBCE6FAADA7179E84F3B9CAC2FC632551
def p256B : Nat := 0x5AC635D8AA3A93E7B3EBBD55769886BC651D06B0CC53B0F63BCE3C3E27D2604B
def p256Gx : Nat := 0x6B17D1F2E12C4247F8BCE6E563A440F277037D812DEB33A0F4A13945D898C296
def p256Gy : Nat := 0x4FE342E2FE1A7F9B8EE7EB4A7C0F9E162BCE33576B315ECECBB6406837BF51F5

/-- `b ^ e mod m`, over the `n` lowest bits of `e`. -/
def powMod (m : Nat) : Nat → Nat → Nat → Nat
  | 0, _, _ => 1 % m
  | n + 1, b, e =>
    let r := powMod m n (b * b % m) (e / 2)
    if e % 2 = 1 then r * b % m else r

/-- The inverse modulo a prime of at most 256 bits. -/
def invMod (m a : Nat) : Nat := powMod m 256 (a % m) (m - 2)

/-- A point of the curve: none is the point at infinity. -/
abbrev EcPoint := Option (Nat × Nat)

def p256G : EcPoint := some (p256Gx, p256Gy)

/-- The third point of the line of slope `l` through two points, reflected. -/
def ecThird (l x1 y1 x2 : Nat) : EcPoint :=
  let p := p256P
  let x := (l * l + 2 * p - x1 - x2) % p
  some (x, (l * ((x1 + p - x) % p) + p - y1) % p)

def ecDouble : EcPoint → EcPoint
  | none => none
  | some (x, y) =>
    if y = 0 then none
    else ecThird ((3 * x * x + p256P - 3) * invMod p256P (2 * y) % p256P) x y x

def ecAdd : EcPoint → EcPoint → EcPoint
  | none, q => q
  | q, none => q
  | some (x1, y1), some (x2, y2) =>
    if x1 = x2 then (if y1 = y2 then ecDouble (some (x1, y1)) else none)
    else ecThird ((y2 + p256P - y1) * invMod p256P (x2 + p256P - x1) % p256P) x1 y1 x2

/-- `k` times a point, over the `n` lowest bits of `k`. -/
def ecMulBits : Nat → Nat → EcPoint → EcPoint
  | 0, _, _ => none
  | n + 1, k, q =>
    let r := ecMulBits n (k / 2) (ecDouble q)
    if k % 2 = 1 then ecAdd r q else r

def ecMul (k : Nat) (q : EcPoint) : EcPoint := ecMulBits 256 k q

/-- The 64 bytes X then Y, big-endian (R225). -/
def ecEncode : EcPoint → Bytes
  | none => zeros 64
  | some (x, y) => beBytes 32 x ++ beBytes 32 y

/-- The public key of a private scalar. -/
def ecPublic (d : Nat) : Bytes := ecEncode (ecMul d p256G)

/-- The public-value checks of Table 10.11 on X then Y. -/
def publicKeyOk (k : Bytes) : Bool :=
  let x := beNat (k.take 32)
  let y := beNat (k.drop 32)
  k.length == 64 && x < p256P && y < p256P && !(x == 0 && y == 0)
    && y * y % p256P == (x * x * x + (p256P - 3) * x + p256B) % p256P
    && !(x == p256Gx && (y == p256Gy || y == p256P - p256Gy))

/-- A scalar within 1 to n - 1 (R272). -/
def scalarOk (d : Nat) : Bool := 0 < d && d < p256N

/-- The candidate nonces of RFC 6979: `n` tries from the HMAC state `k`, `v`. -/
def rfcSign : Nat → Bytes → Bytes → Nat → Nat → Nat × Nat
  | 0, _, _, _, _ => (0, 0)
  | n + 1, k, v, d, e =>
    let v := hmacSha256 k v
    let t := beNat v
    let r := match ecMul t p256G with
      | none => 0
      | some (x, _) => x % p256N
    let sg := invMod p256N t * (e + r * d) % p256N
    if scalarOk t && r != 0 && sg != 0 then (r, sg)
    else
      let k' := hmacSha256 k (v ++ [0x00#8])
      rfcSign n k' (hmacSha256 k' v) d e

/-- The ECDSA signature r then s, big-endian, of a 32-byte digest, with the deterministic nonce of
R264; s is not normalised. -/
def ecdsaSign (d : Nat) (digest : Bytes) : Bytes :=
  let e := beNat digest
  let x := beBytes 32 d ++ beBytes 32 (e % p256N)
  let v0 : Bytes := List.replicate 32 0x01#8
  let k1 := hmacSha256 (zeros 32) (v0 ++ [0x00#8] ++ x)
  let v1 := hmacSha256 k1 v0
  let k2 := hmacSha256 k1 (v1 ++ [0x01#8] ++ x)
  let v2 := hmacSha256 k2 v1
  let rs := rfcSign 64 k2 v2 d e
  beBytes 32 rs.1 ++ beBytes 32 rs.2

/-- Whether the signature verifies; r and s out of range are a plain no (Table 10.11). -/
def ecdsaVerify (pub digest rs : Bytes) : Bool :=
  let r := beNat (rs.take 32)
  let s := beNat (rs.drop 32)
  let e := beNat digest
  let w := invMod p256N s
  let q : EcPoint := some (beNat (pub.take 32), beNat (pub.drop 32))
  rs.length == 64 && scalarOk r && scalarOk s &&
    match ecAdd (ecMul (e * w % p256N) p256G) (ecMul (r * w % p256N) q) with
    | none => false
    | some (x, _) => x % p256N == r

/-- The ECDH shared secret: the X coordinate, 32 bytes big-endian (Table 10.10). -/
def ecdhShared (d : Nat) (peer : Bytes) : Bytes :=
  match ecMul d (some (beNat (peer.take 32), beNat (peer.drop 32))) with
  | none => zeros 32
  | some (x, _) => beBytes 32 x

end Sys2Proof.Machine
end

