-- ==== Sys2Proof/Machine/ParamCheck.lean ====
section
/-! DEFINITION. The value, record, resource and state checks of every parameter write (R224 steps 5
and 6, R341 steps 3 and 4). Each answers a status, DONE where nothing refuses. -/

namespace Sys2Proof.Machine

/-- The first status that is not DONE. -/
def firstRefusal : List Nat → Nat
  | [] => stDone
  | st :: rest => if st = stDone then firstRefusal rest else st

/-- DONE where the condition holds, else the status. -/
def need (ok : Bool) (st : Nat) : Nat := if ok then stDone else st

/-! ### Channels, counters, drivers, sources (chapter 4, R127, R552) -/

/-- The gains that a mode allows (Table 4.1), as PCH_GAIN codes. -/
def gainAllowed (mode gain : Nat) : Bool :=
  if mode = modeEv then gain == 0
  else if mode = modeEi then gain ≤ 4
  else if mode = modeRtd then gain == 1
  else if mode = modeGen then gain ≤ 2
  else gain ≤ 7

/-- An RTD source serves at most one enabled RTD channel, a driver at most four BRIDGE channels
(R122). -/
def State.sourcesOk (s : State) : Bool :=
  (upTo 4).all (fun k =>
    ((upTo 16).filter (fun n => s.pchMode n == modeRtd && s.pchRtd n == k)).length ≤ 1 &&
    ((upTo 16).filter (fun n => s.pchMode n == modeBridge && s.pchExc n == k)).length ≤ 4)

/-- A channel named as RS_LINE_REF by a bound channel in LINE mode (R127). -/
def State.lineRefBound (s : State) (n : Nat) : Bool :=
  (upTo 16).any (fun k => s.pchBound k && (s.chain k).mode == 1 && (s.chain k).lineRef == n)

/-- The metering points' rules on a bound channel's chain record (R152, R178). -/
def State.chainFits (s : State) (n : Nat) (c : ChainCfg) : Bool :=
  (upTo 4).all (fun m => (s.records m).all (fun b =>
    if !(bindLegal b).contains n then true
    else if bindType b = typeWaste then
      8 ≤ c.fir && c.fir ≤ 17 &&
        decide (4000 ≤ c.fs2 s.fMod * (field (s.param (pointId m 0x40)) 20 2 : Rat))
    else if bindType b = typeElec then
      18 ≤ c.fir && c.fir ≤ 21 &&
        ((c.mode == 1 && c.lineRef == bindPch b 0) ||
          (c.mode == 2 && 0 < c.period && c.period ≤ 125000))
    else true))

/-- A write of the PCH block, value and record checks before resources and state (R224); `t` is the state with the value
stored. A write that makes the reference of a bound LINE channel leave EV mode fails that channel's record check too, and
R127 gives its status. -/
def State.pchStatus (s t : State) (n i v : Nat) (raw : Bytes) : Nat :=
  if i = 0 then
    let leavesRef := s.pchMode n == modeEv && v != modeEv && s.lineRefBound n
    firstRefusal [
      need (v ≤ 5 && gainAllowed v (s.pchGain n)) stBadParam,
      need (!leavesRef) stDeniedState,
      need (t.chainsOk s.fMod) stBadParam,
      need (!(s.pchBound n)) stDeniedState,
      need t.sourcesOk stNoResource, t.chainsStatus s.fMod]
  else if i = 1 then need (v ≤ 7 && gainAllowed (s.pchMode n) v) stBadParam
  else if i = 2 ∨ i = 3 then firstRefusal [
    need (v ≤ 3) stBadParam, t.chainsStatus s.fMod, need t.sourcesOk stNoResource]
  else if i = 4 then need (v ≤ 2) stBadParam
  else if i = 16 then firstRefusal [
    need (ChainCfg.ofBytes raw).fieldsOk stBadParam,
    need (s.chainFits n (ChainCfg.ofBytes raw)) stBadParam,
    if s.pchMode n = 0 then stDone else t.chainsStatus s.fMod]
  else firstRefusal [need (v ≤ 1) stBadParam, t.chainsStatus s.fMod]

/-- A write of the CNT block (R115, Table 4.7). -/
def State.cntStatus (s : State) (n i v : Nat) : Nat :=
  let partner := n % 2 == 1 && s.cntMode (n - 1) == 2
  if i = 0 then firstRefusal [
    need (v ≤ 2 && !(v == 2 && n % 2 == 1)) stBadParam,
    need (!(s.cntBound n)) stDeniedState, need (!partner) stDeniedState,
    need (!(v == 2 && s.cntBound (n + 1))) stNoResource]
  else need (if i = 3 then v ≤ 1 else v ≤ 2) stBadParam

/-- A write of the EXC block (R105, Table 4.3). -/
def State.excStatus (s t : State) (n i v : Nat) : Nat :=
  if i = 0 then firstRefusal [need (v ≤ 1) stBadParam, need (!(v == 0 && s.excBound n)) stDeniedState]
  else if i = 1 then need (1000 ≤ v && v ≤ 5000 && v % 250 == 0) stBadParam
  else if i = 2 ∨ i = 4 then firstRefusal [need (v ≤ 1) stBadParam, t.chainsStatus s.fMod]
  else if i = 3 then firstRefusal [
    need (v ≤ 4 && 4 * s.pnum (excId n 5) ≤ halfPeriod s.fMod v) stBadParam, t.chainsStatus s.fMod]
  else need (64 ≤ v && v ≤ 1024 && 4 * v ≤ halfPeriod s.fMod (s.pnum (excId n 3))) stBadParam

/-! ### Metering points (chapters 1, 6, 7) -/

/-- 1, 2 or 5 times a power of ten, from 1 g to 50,000 g (Table 6.3). -/
def intervalOk (e : Nat) : Bool :=
  [1, 2, 5, 10, 20, 50, 100, 200, 500, 1000, 2000, 5000, 10000, 20000, 50000].contains e

def ratioOk (top e : Nat) : Bool := e != 0 && top % e == 0 && 100 ≤ top / e && top / e ≤ 10000

/-- WG_CFG by field (Table 6.2). -/
structure WgCfg where
  max1 : Nat
  e1 : Nat
  max2 : Nat
  e2 : Nat
  izNeg : Nat
  izPos : Nat
  ztRate : Nat
  window : Nat
  time : Nat
  reserved : Nat
  deriving DecidableEq, Repr

def WgCfg.ofBytes (b : Bytes) : WgCfg :=
  ⟨field b 0 4, field b 4 4, field b 8 4, field b 12 4, field b 16 1, field b 17 1, field b 18 1,
    field b 19 1, field b 20 2, field b 22 2⟩

def State.wg (s : State) (m : Nat) : WgCfg := WgCfg.ofBytes (s.param (pointId m 0x40))

/-- A two-range instrument. -/
def WgCfg.twoRange (c : WgCfg) : Bool := c.max2 != 0 || c.e2 != 0

/-- Max, in g (Table 6.2). -/
def WgCfg.max (c : WgCfg) : Nat := if c.twoRange then c.max2 else c.max1

/-- The interval of the highest range, in g. -/
def WgCfg.eTop (c : WgCfg) : Nat := if c.twoRange then c.e2 else c.e1

/-- Table 6.3, with the cells' fs2 and the subtype left to the callers. -/
def WgCfg.ok (c : WgCfg) : Bool :=
  intervalOk c.e1 && c.izNeg ≤ 20 && c.izPos ≤ 20 && c.izNeg + c.izPos ≤ 20 && c.ztRate ≤ 5
    && 25 ≤ c.window && c.window ≤ 200 && 200 ≤ c.time && c.time ≤ 2000 && c.time % 50 == 0
    && c.reserved == 0 && ratioOk c.max1 c.e1
    && (!c.twoRange || (intervalOk c.e2 && c.e1 < c.e2 && c.max1 < c.max2 && ratioOk c.max2 c.e2))

/-- fs2 of every cell times STAB_TIME gives at least 4 samples (Table 6.3). -/
def State.stabilityFits (s : State) (cells : List Nat) (c : WgCfg) : Bool :=
  cells.all (fun n => decide (4000 ≤ (s.chain n).fs2 s.fMod * (c.time : Rat)))

/-- Any WASTE metering point that satisfies `p`. -/
def State.anyWaste (s : State) (p : Nat → Bool) : Bool :=
  (upTo 4).any (fun m => s.mpType m == typeWaste && p m)

def State.txnOpen (s : State) (m : Nat) : Bool := (s.point m).weigh.txn.isSome

def State.wgStatus (s : State) (m : Nat) (v : Bytes) : Nat :=
  let c := WgCfg.ofBytes v
  let waste := s.mpType m == typeWaste
  firstRefusal [
    need (c.ok && (!waste || (c.twoRange == (s.mpSub m == 1) &&
      s.stabilityFits (bindLegal (s.binding m)) c))) stBadParam,
    need (!s.txnOpen m) stMoving]

def noneByte (b : Bytes) (off len : Nat) : Bool := (slice b off len).all (· == 0xFF#8)

/-- The role bytes of a record fit its type and subtype (Tables 1.3 and 12.17). -/
def rolesOk (b : Bytes) : Bool :=
  let chs := (upTo 8).map (bindPch b)
  let used : List Nat := chs.filter (· != 0xFF)
  let cellCount := (chs.take 4).takeWhile (· != 0xFF) |>.length
  let noCnt := bindCnt b == 0xFF
  let noExc := bindExc b == 0xFF
  let noRtd := noneByte b 16 2
  let noMbus := bindMbus b == 0xFFFF
  let has (k : Nat) : Bool := chs.getD k 0xFF != 0xFF
  let lacks (ks : List Nat) : Bool := ks.all (fun k => !has k)
  rsv b 2 2 && rsv b 13 1 && rsv b 15 1 && rsv b 20 4 && used.all (· < 16) && used.Nodup &&
  (match bindType b, bindSub b with
    | 0, 0 => used.isEmpty && noCnt && noExc && noRtd && noMbus
    | 1, 0 => (upTo 6).all has && !has 7 && noCnt && noExc && noRtd && noMbus
    | 1, 1 => has 0 && has 3 && lacks [1, 2, 4, 5, 7] && noCnt && noExc && noRtd && noMbus
    | 2, 0 => used.isEmpty && bindCnt b < 16 && noExc && noRtd && noMbus
    | 2, 1 => used.isEmpty && bindCnt b < 16 && bindCnt b % 2 == 0 && noExc && noRtd && noMbus
    | 3, 0 => has 0 && has 1 && lacks [2, 3, 4, 5, 6, 7] && bindCnt b < 16 && noExc
        && bindRtd b 0 < 4 && bindRtd b 1 < 4 && bindRtd b 0 != bindRtd b 1 && noMbus
    | 3, 1 => has 0 && has 1 && lacks [2, 3, 4, 5, 6, 7] && noCnt && noExc
        && bindRtd b 0 < 4 && bindRtd b 1 < 4 && bindRtd b 0 != bindRtd b 1 && bindMbus b < 64
    | 4, 0 | 4, 1 => 1 ≤ cellCount && lacks ((upTo 4).drop cellCount) && lacks [4, 5, 6]
        && (!has 7 || bindPch b 7 == 15) && noCnt && bindExc b < 4 && noRtd && noMbus
    | _, _ => false)

/-- The modes of the resources fit the roles (R19). -/
def State.modesOk (s : State) (b : Bytes) : Bool :=
  let is (k mode : Nat) : Bool := bindPch b k == 0xFF || s.pchMode (bindPch b k) == mode
  let n := bindCnt b
  let isB := n % 2 == 1 && s.cntMode (n - 1) == 2
  match bindType b with
  | 1 => is 0 modeEv && is 1 modeEv && is 2 modeEv && is 3 modeEi && is 4 modeEi && is 5 modeEi
      && is 6 modeEi
  | 2 => s.cntMode n == (if bindSub b = 0 then 1 else 2) && !isB
  | 3 => is 0 modeRtd && is 1 modeRtd && s.pchRtd (bindPch b 0) == bindRtd b 0
      && s.pchRtd (bindPch b 1) == bindRtd b 1
      && (bindSub b == 1 || ((s.cntMode n == 1 || s.cntMode n == 2) && !isB))
  | 4 => is 0 modeBridge && is 1 modeBridge && is 2 modeBridge && is 3 modeBridge && is 7 modeGen
      && (bindLegal b).all (fun c => s.pchExc c == bindExc b)
  | _ => true

/-- The chain and configuration records behind a binding fit it (R152, R178, R188, R190). -/
def State.recordsOk (s : State) (m : Nat) (b : Bytes) : Bool :=
  match bindType b with
  | 1 =>
    let c := s.chain (bindPch b 0)
    (bindLegal b).all (fun n => s.chainCfg n == s.chainCfg (bindPch b 0)) && 18 ≤ c.fir &&
      c.fir ≤ 21 && ((c.mode == 1 && c.lineRef == bindPch b 0) ||
        (c.mode == 2 && 0 < c.period && c.period ≤ 125000))
  | 2 => field (s.param (pointId m 0xA0)) 0 4 != 0
  | 3 => bindSub b == 1 || field (s.param (pointId m 0xB0)) 0 4 != 0
  | 4 =>
    let w := s.wg m
    w.ok && w.twoRange == (bindSub b == 1) && s.stabilityFits (bindLegal b) w &&
      (bindLegal b).all (fun n => 8 ≤ (s.chain n).fir && (s.chain n).fir ≤ 17) &&
      (bindChannels b).all (fun n => (s.chain n).bypass)
  | _ => true

/-- The channels that a record holds as ELEC voltages, which two ELEC points may share (R20). -/
def bindVoltages (b : Bytes) : List Nat :=
  if bindType b = 1 then ((upTo 3).map (bindPch b)).filter (· < 16) else []

/-- No resource of the record is held by another metering point (R20). -/
def State.resourcesFree (s : State) (m : Nat) (b : Bytes) : Bool :=
  (pointsWhere (· != m)).all (fun k => (s.records k).all (fun o =>
    (bindChannels b).all (fun n => !(bindChannels o).contains n ||
      ((bindVoltages b).contains n && (bindVoltages o).contains n)) &&
    (s.bindCounters b).all (fun n => !(s.bindCounters o).contains n) &&
    (16 ≤ bindExc b || bindExc b != bindExc o) &&
    [bindRtd b 0, bindRtd b 1].all (fun r => 4 ≤ r || (bindRtd o 0 != r && bindRtd o 1 != r))))

/-- The bank copy in use (R236): of the valid copies, the one with the greater GEN. -/
def MeterPoint.bank (p : MeterPoint) : BankCopy :=
  if !p.copyA.intact then p.copyB
  else if !p.copyB.intact then p.copyA
  else if p.copyA.gen < p.copyB.gen then p.copyB
  else p.copyA

/-- R36: a different type while any register is non-zero; a bank in REG_FAULT is exempt (R249). -/
def State.typeFree (s : State) (m : Nat) (b : Bytes) : Bool :=
  let k := (s.point m).bank
  (s.point m).regFault || bindType b == 0 || bindType b == k.type || k.regs.all (· == 0)

/-- A binding record (R18 to R21, R34 to R36, R152, R178, R188, R190, R196, R338). With an open transaction every record of
the metering point is refused with MOVING, whatever else its state or resources would say (R35). -/
def State.bindingStatus (s t : State) (m : Nat) (b : Bytes) : Nat :=
  firstRefusal [
    need (rolesOk b && s.modesOk b && s.recordsOk m b && t.chainsOk s.fMod) stBadParam,
    need (!s.txnOpen m) stMoving,
    need (s.resourcesFree m b) stNoResource,
    need (s.typeFree m b) stDeniedState,
    need (!(bindType b == 3 && bindSub b == 1) ||
      (s.captures (bindPch b 0) && s.captures (bindPch b 1))) stDeniedState,
    t.chainsStatus s.fMod]

/-- A metering-point parameter of the legal side. -/
def State.pointStatus (s t : State) (m o : Nat) (v : Bytes) : Nat :=
  if o = 0x00 then s.bindingStatus t m v
  else if o = 0x08 then need ([0, 1, 2, 3, 4, 5, 6, 10, 12, 15, 20, 30, 60].contains (leNat v)) stBadParam
  else if o = 0x40 then s.wgStatus m v
  else if o = 0x80 then
    need ((field v 0 2 == 50 || field v 0 2 == 60) && field v 2 2 ≤ 10000 && rsv v 4 4) stBadParam
  else if o = 0xA0 then need (field v 0 4 != 0 && rsv v 4 4) stBadParam
  else
    let external := s.mpType m == typeHeat && s.mpSub m == 1
    need ((field v 0 4 != 0 || external) && field v 4 1 ≤ 1 && rsv v 5 1 && field v 6 2 ≤ 1000 && rsv v 10 2)
      stBadParam

/-! ### Display and keys on the legal side (chapters 15 and 16) -/

/-- The 2-byte segment indices of a map from offset `off`. -/
def indices (b : Bytes) (off n : Nat) : List Nat := (upTo n).map (fun k => field b (off + 2 * k) 2)

/-- Whether a segment exists in the stored mode (R420). -/
def State.segmentExists (s : State) (i : Nat) : Bool :=
  if s.pnum 0x4000 = 1 then i < 64 * s.pnum 0x4001 else if s.pnum 0x4000 = 2 then i < 48 else false

/-- A bit of LEGAL_SEG_MASK. -/
def maskBit (mask : Bytes) (i : Nat) : Bool := bit (leNat mask) i

/-- The segments that LEGAL_DIGIT_MAP uses. -/
def mapSegments (map : Bytes) : List Nat := (indices map 4 80).filter (· != 0xFFFF)

/-- R421. -/
def State.maskStatus (s : State) (v : Bytes) : Nat :=
  need ((upTo 512).all (fun i => !maskBit v i || s.segmentExists i) && s.pnum 0x4000 != 0 &&
    (mapSegments (s.param 0x8031)).all (fun i => maskBit v i)) stBadParam

/-- R422. -/
def State.mapStatus (s : State) (v : Bytes) : Nat :=
  let n := field v 0 1
  let mask := s.param 0x8030
  let segs := mapSegments v
  need ([0, 4, 5, 6, 7, 8].contains n && rsv v 1 3 &&
    (upTo 8).all (fun d =>
      let ix := indices v (4 + 16 * d) 8
      if d < n then (ix.take 7).all (· != 0xFFFF) else ix.all (· == 0xFFFF)) &&
    segs.all (fun i => i < 512 && maskBit mask i) && segs.Nodup && field v 162 2 == 0xFFFF) stBadParam

/-- R449. -/
def keyFuncStatus (v : Bytes) : Nat :=
  let fs := v.map (·.toNat)
  need (fs.all (· ≤ 3) && (fs.filter (· != 0)).Nodup) stBadParam

/-- R127. -/
def State.modRateStatus (s : State) (v : Nat) : Nat :=
  let f := if v = 1 then 3072000 else 6144000
  firstRefusal [need (v ≤ 1) stBadParam,
    need (s.chainsStatus f == stDone && s.blanksOk f) stDeniedState]

/-- Steps 5 and 6 of R224 for a legal-side write of `v`, LEN already right; `t` is the state with the
value stored. -/
def State.legalStatus (s : State) (id : Nat) (v : Bytes) : Nat :=
  let t := s.putParam id v
  let n := leNat v
  if id < 0x1400 then s.pchStatus t ((id - 0x1000) / 64) (id % 64) n v
  else if id < 0x1800 then s.cntStatus ((id - 0x1400) / 64) (id % 64) n
  else if id < 0x1900 then s.excStatus t ((id - 0x1800) / 64) (id % 64) n
  else if id < 0x1A00 then need (n ≤ 2) stBadParam
  else if id < 0x2400 then s.pointStatus t ((id - 0x2000) / 256) (id % 256) v
  else if id = 0x3010 then need (1 ≤ n && n ≤ 8) stBadParam
  else if id = 0x8000 then need (allZero v || publicKeyOk v) stBadParam
  else if id = 0x8010 then need (n ≤ 1) stBadParam
  else if id = 0x8011 then s.modRateStatus n
  else if id = 0x8020 then need (n ≤ 7) stBadParam
  else if id = 0x8030 then s.maskStatus v
  else if id = 0x8031 then s.mapStatus v
  else keyFuncStatus v

/-! ### Class N parameters that Undercoat serves -/

/-- Every cell, and the accelerometer where PROV_SOURCE is 0, is captured as R171 asks. -/
def State.provReady (s : State) (m : Nat) : Bool :=
  let b := s.binding m
  s.mpType m == typeWaste && (bindLegal b).all s.captures &&
    (s.pnum (pointId m 0x61) == 1 ||
      (bindPch b 7 == 15 && s.captures 15 && s.chainCfg 15 == s.chainCfg (bindPch b 0)))

/-- R195. -/
def State.harmReady (s : State) (m : Nat) : Bool :=
  s.mpType m == typeElec && (s.chain (bindPch (s.binding m) 0)).mode == 1 &&
    (bindChannels (s.binding m)).all s.captures

/-- Metering-point parameters of class N (R168, R171, R195). -/
def State.pointNStatus (s : State) (m o v : Nat) : Nat :=
  if o = 0x41 then need (60 ≤ v && v ≤ 3600) stBadParam
  else if o = 0x60 then firstRefusal [need (v ≤ 1) stBadParam, need (v == 0 || s.provReady m) stDeniedState]
  else if o = 0x61 then need (v ≤ 1) stBadParam
  else if o = 0x62 then need (4 ≤ v && v ≤ 12) stBadParam
  else if o = 0x63 then need (v ≤ 7) stBadParam
  else firstRefusal [need (v ≤ 1) stBadParam, need (v == 0 || s.harmReady m) stDeniedState]

/-- Display parameters (Table 15.1, R419). -/
def State.displayStatus (s : State) (id v : Nat) (raw : Bytes) : Nat :=
  let mask := s.param 0x8030
  let segOk (i : Nat) : Bool := i < 512 || i == 0xFFFF
  if id = 0x4000 then firstRefusal [need (v ≤ 2) stBadParam, need (allZero mask) stDeniedState]
  else if id = 0x4001 then firstRefusal [need (1 ≤ v && v ≤ 8) stBadParam,
    need ((upTo 512).all (fun i => !maskBit mask i || i / 64 < v)) stDeniedState]
  else if id = 0x4002 then need (v == 3 || v == 4) stBadParam
  else if id = 0x4003 then need (v ≤ 1) stBadParam
  else if id = 0x4004 then need (32 ≤ v && v ≤ 256) stBadParam
  else if id = 0x4005 then need (2500 ≤ v && v ≤ 5400 && v % 20 == 0) stBadParam
  else if id = 0x4006 then need (v ≤ 3) stBadParam
  else if id = 0x4010 then need (-20 ≤ toSigned 1 v && toSigned 1 v ≤ 20) stBadParam
  else if id = 0x4011 then need (1 ≤ v) stBadParam
  else if id = 0x4030 then need ((indices raw 0 32).all segOk) stBadParam
  else need (field raw 0 1 ≤ 8 && rsv raw 1 1 && (indices raw 2 64).all segOk) stBadParam

/-- A MBUS_METER entry (Table 16.4). -/
def mbusMeterOk (b : Bytes) : Bool :=
  let mode := field b 0 1
  mode ≤ 2 && field b 1 1 ≤ 2 && rsv b 3 1 &&
    (if mode = 1 then 1 ≤ field b 2 1 && field b 2 1 ≤ 250 else field b 2 1 == 0) &&
    (mode == 2 || rsv b 4 8)

/-- Operator-port parameters (chapter 16). -/
def portParamStatus (id v : Nat) (raw : Bytes) : Nat :=
  if id = 0x6001 then need (5 ≤ v && v ≤ 500) stBadParam
  else if id = 0x6002 then need (5 ≤ v && v ≤ 600) stBadParam
  else if id = 0x6010 ∨ id = 0x6011 then need (1 ≤ v) stBadParam
  else if id = 0x6020 then need (v ≤ 3) stBadParam
  else if id = 0x6021 then need (raw.all (fun c => 0x41 ≤ c.toNat && c.toNat ≤ 0x5A)) stBadParam
  else if id = 0x6030 then need (v ≤ 1) stBadParam
  else if id = 0x6031 then need (60 ≤ v && v ≤ 86400) stBadParam
  else if 0x6100 ≤ id then need (mbusMeterOk raw) stBadParam
  else stDone

/-- Steps 3 and 4 of R341 for a value of the right length that Undercoat stores. -/
def State.appStatus (s : State) (id : Nat) (raw : Bytes) : Nat :=
  let v := leNat raw
  if id = 0x0000 then stDone
  else if id = 0x0010 then need (v ≤ 4) stBadParam
  else if id = 0x0020 then need (v ≤ 1) stBadParam
  else if id = 0x0030 then need (v ≤ 3) stBadParam
  else if id < 0x2400 then s.pointNStatus ((id - 0x2000) / 256) (id % 256) v
  else if id < 0x5000 then s.displayStatus id v raw
  else if id = 0x5001 then need (v ≤ 7) stBadParam
  else if id = 0x5002 then need (v ≤ 1) stBadParam
  else if 0x5010 ≤ id ∧ id ≤ 0x5012 then need (1 ≤ v) stBadParam
  else if id < 0x6000 then stDone
  else portParamStatus id v raw

end Sys2Proof.Machine
end

