-- ==== Sys2Proof/Machine/Legal.lean ====
section
/-! DEFINITION. The legal core's shared operations: slots 6 and 7, changes and their traces, the owner
authentication, register banks, gaps, readings and the calibration terms (chapters 8 to 10, R34). -/

namespace Sys2Proof.Machine

/-! ### Slots 6 and 7 (R210, R211) -/

/-- The copy of the calibration store in use: the valid one, of two the one with the larger GEN, of equals A
(R210, R236). -/
def Legal.calCopy (l : Legal) : Option CalCopy :=
  if l.calA.intact && (!l.calB.intact || decide (l.calB.gen ≤ l.calA.gen)) then some l.calA
  else if l.calB.intact then some l.calB
  else none

/-- The four blocks of the store; all zero where neither copy is valid (Table 19.2). -/
def Legal.calStore (l : Legal) : List Bytes :=
  match l.calCopy with
  | some c => c.blocks
  | none => List.replicate 4 (zeros 96)

/-- A new content of the store goes into the copy that its GEN's parity selects (R210, R234). -/
def Legal.putCal (l : Legal) (blocks : List Bytes) : Legal :=
  let gen := ((match l.calCopy with
    | some c => c.gen
    | none => max l.calA.gen l.calB.gen) + 1) % 4294967296
  let c : CalCopy := ⟨gen, blocks, true⟩
  if gen % 2 = 0 then { l with calA := c } else { l with calB := c }

/-- SHA-256 over the calibration store, or 32 bytes of 0xFF under CAL_FAULT (R210, Table 19.2). -/
def State.slot6 (s : State) : Bytes :=
  match s.legal.calCopy with
  | none => List.replicate 32 0xFF#8
  | some c => sha256 c.blocks.flatten

/-- Every ID that Table 8.10 lists, ascending. -/
def legalIds : List Nat :=
  (upTo 16).flatMap (fun n => [0, 1, 2, 3, 4, 16].map (pchId n)) ++
  (upTo 16).flatMap (fun n => [0, 1, 2, 3].map (cntId n)) ++
  (upTo 4).flatMap (fun n => [0, 1, 2, 3, 4, 5].map (excId n)) ++ (upTo 4).map rtdId ++
  (upTo 4).flatMap (fun m => [0x00, 0x08, 0x40, 0x80, 0xA0, 0xB0].map (pointId m)) ++
  [0x3000, 0x3010, 0x3100, 0x7000, 0x8000, 0x8010, 0x8011, 0x8020, 0x8030, 0x8031, 0x8040]

/-- The stored value that GET_PARAM and slot 7 see; the passive calendar is the LC's (R345). -/
def State.stored (s : State) (id : Nat) : Bytes :=
  if id = 0x3100 then s.legal.passive.bytes else s.param id

/-- The canonical configuration form (R211). -/
def State.configForm (s : State) : Bytes :=
  (legalIds.filter (fun id => s.classNow id != 0)).flatMap (fun id =>
    leBytes 2 id ++ leBytes 2 (s.stored id).length ++ s.stored id)

def State.putSlot (s : State) (k : Nat) (digest : Bytes) : State :=
  s.modBoot (fun b => { b with slots := setAt b.slots (k - 1) digest })

def State.slot (s : State) (k : Nat) : Bytes := s.boot.slots.getD (k - 1) (zeros 32)

def State.rewriteSlot6 (s : State) : State := s.putSlot 6 s.slot6
def State.rewriteSlot7 (s : State) : State := s.putSlot 7 (sha256 s.configForm)

/-! ### Changes and their traces (R30, R217, R224, Table 8.8) -/

/-- The seal log has space for an L-sealed change (R217). -/
def State.sealSpace (s : State) : Bool := s.legal.sealLog.length < 248

/-- LOG/SEAL_LOG_FULL, once in a seal session (R217), with the origin of the request refused (R29). -/
def State.noteSealFull (s : State) (origin : Nat) : State :=
  if s.legal.fullLogged then s
  else (s.logAt s.nodeTime false 0x10 0x03 origin 0xFF []).modLegal (fun l => { l with fullLogged := true })

/-- CFGCNT below its maximum (Table 8.2). -/
def State.cfgFree (s : State) : Bool := s.legal.cfgcnt < 0xFFFFFFFF

/-- An 8-byte image of a value in a PARAM entry (Table 8.8). -/
def valueImage (v : Bytes) : Bytes := if v.length ≤ 8 then padTo 8 v else (sha256 v).take 8

def paramData (id : Nat) (old new : Bytes) (counter : Nat) : Bytes :=
  leBytes 2 id ++ leBytes 2 new.length ++ valueImage old ++ valueImage new ++ leBytes 4 counter

/-- The metering point that an ID concerns. -/
def pointOfId (id : Nat) : Nat := if 0x2000 ≤ id ∧ id < 0x2400 then (id - 0x2000) / 256 else 0xFF

/-- The trace of an accepted L-sealed change of a parameter: CFGCNT, both logs, slot 7. -/
def State.traceSealed (s : State) (id : Nat) (old new : Bytes) (origin : Nat) : State :=
  let s := s.modLegal (fun l => { l with cfgcnt := satAdd 0xFFFFFFFF l.cfgcnt 1 })
  (s.logBoth s.nodeTime false 0x05 0x01 origin (pointOfId id)
    (paramData id old new s.legal.cfgcnt)).rewriteSlot7

/-- The trace of an accepted L-logged change: one event-log entry, slot 7. -/
def State.traceLogged (s : State) (id : Nat) (old new : Bytes) (origin : Nat) : State :=
  (s.logAt s.nodeTime false 0x05 0x02 origin (pointOfId id)
    (paramData id old new s.legal.ownerCtr)).rewriteSlot7

/-- The owner authentication at the end of a payload (R31, R319): the status, and the owner counter
to store when it carries one. -/
def State.ownerAuth (s : State) (p : Bytes) : Nat × Option Nat :=
  let tail := p.drop (p.length - 68)
  let ctr := field tail 0 4
  let key := s.param 0x8000
  if allZero tail && s.legal.sealOpen then (stDone, none)
  else if !allZero key && s.legal.ownerCtr < ctr && ecdsaVerify key (sha256 (p.take (p.length - 64)))
      (tail.drop 4) then (stDone, some ctr)
  else (stInvalid, none)

/-- The owner counter stored (R31). -/
def State.consume (s : State) (ctr : Option Nat) : State :=
  match ctr with
  | none => s
  | some c => s.modLegal (fun l => { l with ownerCtr := c })

/-! ### Register banks (R230 to R236, Tables 9.1 to 9.4) -/

/-- The quantity-directions of a type (Table 9.2). -/
def qdCount (type : Nat) : Nat :=
  match type with
  | 1 => 8
  | 2 => 2
  | 3 => 4
  | 4 => 1
  | _ => 0

/-- Quantity code and direction code (Table 9.2). -/
def qdCodes (type qd : Nat) : Nat × Nat :=
  if type = 1 then
    (if qd ≤ 1 then (1, qd + 1) else if qd ≤ 5 then (2, qd + 1) else (3, qd - 5))
  else if type = 2 then (4, qd + 1)
  else if type = 3 then (if qd ≤ 1 then (5, qd + 1) else (4, qd - 1))
  else (6, 1)

/-- The divisor of Table 9.2. -/
def qdDivisor (type qd : Nat) : Nat :=
  if type = 1 then 10000 else if type = 3 && qd ≤ 1 then 100 else 1000

/-- The decimals of the display format of Table 9.2. -/
def qdDecimals (type qd : Nat) : Nat :=
  if type = 1 then 2 else if type = 3 && qd ≤ 1 then 1 else 3

/-- The type and subtype recorded in a bank, by which it is addressed (R230). -/
def State.bankType (s : State) (m : Nat) : Nat × Nat := ((s.point m).bank.type, (s.point m).bank.subtype)

/-- A REG_KEY is valid (R230). -/
def State.regKeyOk (s : State) (key : Nat) : Bool :=
  let t := s.bankType (key / 256 % 4)
  key < 1024 && key / 8 % 8 < qdCount t.1 && (key / 64 % 4 == 0 || (t.1 == 1 && t.2 == 0))

def BankCopy.reg (k : BankCopy) (i : Nat) : Nat := k.regs.getD i 0

/-- The sum over T1 to T8 of one scope and quantity-direction. -/
def BankCopy.sum (k : BankCopy) (scopeQd : Nat) : Nat :=
  ((upTo 8).map (fun t => k.reg (8 * scopeQd + t))).sum

def BankCopy.flags (k : BankCopy) : Nat := b2n k.saturated + 2 * b2n k.wasReset

/-- The 2,072 bytes that CRC covers (Table 9.4). -/
def BankCopy.body (k : BankCopy) : Bytes :=
  leBytes 4 k.gen ++ [byte k.mp, byte k.type, byte k.subtype, byte k.tstat] ++ leBytes 8 k.commitS ++
    [byte k.tariff, byte k.flags] ++ zeros 6 ++ k.regs.flatMap (leBytes 8)

/-- The 2,080-byte copy (Table 9.4). -/
def BankCopy.toBytes (k : BankCopy) : Bytes :=
  k.body ++ leBytes 4 (crc32 k.body) ++ leBytes 4 k.gen

/-- The record of the open interval. -/
def MeterPoint.openRecord (p : MeterPoint) : OpenRecord :=
  { at_ := p.openAt, sums := p.openSums, short := p.openShort, period := p.openPeriod, interval := p.interval }

/-- A copy written where GEN's parity places it (R234), in one step with the record of the open interval (R246). -/
def MeterPoint.putBank (p : MeterPoint) (k : BankCopy) : MeterPoint :=
  let p := { p with heldOpen := p.openRecord }
  if k.gen % 2 = 0 then { p with copyA := k } else { p with copyB := k }

/-- The latest bank write is torn: its copy does not hold, and the record of the open interval is the one before it (R42,
R235, R246). -/
def MeterPoint.tearBank (p : MeterPoint) : MeterPoint :=
  let k := p.bank
  let r := p.heldOpen
  let p := { p with openAt := r.at_, openSums := r.sums, openShort := r.short, openPeriod := r.period
                    interval := r.interval }
  if p.copyA = k then { p with copyA := { k with intact := false } }
  else { p with copyB := { k with intact := false } }

/-- Both copies zeroed, GEN 0, REG_RESET set (R221, R249). -/
def MeterPoint.zeroBank (p : MeterPoint) (m : Nat) : MeterPoint :=
  let k := { BankCopy.factory m with wasReset := true }
  { p with copyA := k, copyB := k, regFault := false, amounts := List.replicate 32 0,
           carried := List.replicate 32 0, openAt := none, interval := 0, mstat := 0 }

def regMax : Nat := 2 ^ 64 - 1

/-! ### Gaps and the completeness of a metering point (R34, R152, R178, R522, Table 19.2) -/

def mIncomplete : Word := 0x001
def mTimeInvalid : Word := 0x002
def mNoCalendar : Word := 0x004
def mSaturated : Word := 0x008
def mReset : Word := 0x010
def mLineHold : Word := 0x020
def mOverRange : Word := 0x040
def mTempRange : Word := 0x080
def mReverse : Word := 0x100
def mTimeStep : Word := 0x200
def mPowerLoss : Word := 0x400
def mShort : Word := 0x800
def mDisplay : Word := 0x1000

def gapConfig : Nat := 1
def gapDiag : Nat := 2
def gapClock : Nat := 3
def gapSync : Nat := 4
def gapActivation : Nat := 5
def gapRestart : Nat := 6
def gapTemp : Nat := 7
def gapFault : Nat := 8

/-- The bits of STATUS[6:0] that invalidate a sample (Table 4.6): all but OVR_SOFT. -/
def invalidBits : BitVec 8 := 0x6F

/-- Table 5.10. -/
def stSettling : BitVec 16 := 0x0100
def stRestart : BitVec 16 := 0x0200
def stClip : BitVec 16 := 0x0400
def stLineHold : BitVec 16 := 0x0800
def stTimeStep : BitVec 16 := 0x1000
def stCapLoss : BitVec 16 := 0x2000

/-- A sample that Igfaen may use (R112, R138, R148). -/
def Record.good (r : Record) : Bool :=
  r.status &&& (stSettling ||| stClip ||| invalidBits.setWidth 16) == 0

/-- The channel delivers settled, valid samples now: no invalidating bit is set, and its latest record is good
(R112, R148). -/
def State.channelGood (s : State) (n : Nat) : Bool :=
  let c := s.channel n
  c.running && c.settled && c.diag &&& invalidBits == 0 && c.latest.all Record.good

/-- The chain records of the legal channels agree (R152, R178). -/
def State.chainsAgree (s : State) (m : Nat) : Bool :=
  let b := s.binding m
  match bindLegal b with
  | [] => true
  | n :: rest => (bindType b != 1 && bindType b != 4) ||
      rest.all (fun k => s.chainCfg k == s.chainCfg n)

/-- The FA runs: the modulator and DSP clocks run, and no MAIN_CLOCK fault is in force. -/
def State.faRuns (s : State) : Bool :=
  s.modDom.source != .stopped && s.ntu.dspLocked && !s.boot.mainClockFault && s.ntu.sysSource == .pll

/-- CAL_FAULT holds the metering point until its COMMIT (Table 19.2). -/
def State.calFaulty (s : State) (m : Nat) : Bool := s.mpType m != 2 && s.legal.calFault.contains m

/-- The metering point measures: nothing but CAL_FAULT could keep it INCOMPLETE. -/
def State.pointSettled (s : State) (m : Nat) : Bool :=
  let b := s.binding m
  s.legalRuns && s.boot.pauseFrom.isNone && s.legal.faulted.isEmpty && s.chainsAgree m &&
    s.faRuns && (bindLegal b).all s.channelGood

/-- Nothing keeps the metering point INCOMPLETE now. -/
def State.pointGood (s : State) (m : Nat) : Bool := s.pointSettled m && !s.calFaulty m

/-- What was complete before the run: the last commit kept with the registers, or now where there is none
(R202). -/
def State.lastKept (s : State) (m : Nat) : Nat :=
  let k := (s.point m).bank
  if k.type = 0 then s.nodeTime else k.commitS

/-- The last complete sample of a metering point: for ELEC the end of the last complete cycle (R199), for a
point without legal channels the last complete latch interval, else the earliest sample over its legal
channels (R34). -/
def State.lastComplete (s : State) (m : Nat) : Nat :=
  let kept := s.lastKept m
  let b := s.binding m
  if bindType b = typeElec then (s.point m).lastCycle.getD kept
  else
    match (bindLegal b).map (fun n => ((s.channel n).lastGood).getD kept) with
    | [] =>
      let c := s.counter (bindCnt b)
      if c.primed then c.latchTime else kept
    | t :: ts => ts.foldl min t

/-- The metering point becomes INCOMPLETE from its last complete sample (R34); a gap in progress
goes on. -/
def State.openGap (s : State) (m kind fault : Nat) : State :=
  if s.mpType m = 0 then s
  else
    let start := s.lastComplete m
    s.modPoint m (fun p => { p with
      now := p.now ||| mIncomplete
      gap := match p.gap with
        | none => some ⟨start, kind, fault⟩
        | some g => some g })

/-- The same for a change of the binding record: the gap is one of KIND 1, from the start of a gap in
progress (R34). -/
def State.openBindingGap (s : State) (m : Nat) : State :=
  (s.openGap m gapConfig 0).modPoint m (fun p => { p with
    gap := p.gap.map (fun g => ⟨g.start, gapConfig, 0⟩) })

/-- Every metering point becomes INCOMPLETE. -/
def State.openGaps (s : State) (kind fault : Nat) : State :=
  (upTo 4).foldl (fun s m => s.openGap m kind fault) s

/-- The gap ends and is logged with its start and end (Table 19.3). -/
def State.closeGap (s : State) (m : Nat) : State :=
  match (s.point m).gap with
  | none => s
  | some g =>
    (s.logEvent 0x09 0x01 m (leBytes 8 g.start ++ leBytes 8 s.nodeTime ++ [byte g.kind, 0] ++
      leBytes 2 g.fault)).modPoint m (fun p => { p with gap := none })

/-- Every channel of the binding record has settled, those outside the legal roles too (R34). -/
def State.boundSettled (s : State) (m : Nat) : Bool :=
  (bindChannels (s.binding m)).all (fun n => (s.channel n).running && (s.channel n).settled)

/-- Gaps whose cause has passed end; a temperature gap ends with a good heat second, that of a binding once
every channel of the record has settled. -/
def State.settleGaps (s : State) : State :=
  (upTo 4).foldl (fun s m =>
    match (s.point m).gap with
    | some g =>
      if g.kind != gapTemp && s.pointGood m && (g.kind != gapConfig || s.boundSettled m) then s.closeGap m
      else s
    | none => s) s

/-! ### Readings (R259 to R264, Table 10.2) -/

/-- NODE_ID (R258). -/
def nodeId : Nat := 0x0640 * 2 ^ 48 + Config.nodeIdLow.toNat

/-- A P-256 scalar from a number (log 8). -/
def toScalar (k : BitVec 256) : Nat := 1 + k.toNat % (p256N - 1)

/-- FABRIC_ADDR of a reading: 0 while unassigned or STANDALONE. -/
def State.fabricAddr (s : State) : Nat :=
  if s.fabric.role = 0 ∨ s.fabric.addrState ≠ 2 then 0 else s.fabric.addr

/-- What a body adds to the node's pedigree. -/
structure ReadingFields where
  kind : Nat
  mp : Nat
  quantity : Nat
  direction : Nat
  tariff : Nat
  scope : Nat
  tstat : Nat
  time : Nat
  value : Nat
  mstat : Word
  type : Nat
  subtype : Nat
  gen : Nat
  data : Bytes
  deriving DecidableEq, Repr

/-- The pedigree of a reading whose instant is now (R260, R279). -/
def State.pedigree (s : State) : Pedigree :=
  { sealOpen := s.legal.sealOpen, fabricAddr := s.fabricAddr, calcnt := s.legal.calcnt
    cfgcnt := s.legal.cfgcnt, lcv := s.boot.lcv }

/-- The 128-byte body with a pedigree and the numbers that the pair now holds (Table 10.2). -/
def State.bodyWith (s : State) (g : Pedigree) (f : ReadingFields) : Bytes :=
  [0x01#8, byte f.kind, byte f.mp, byte f.quantity, byte f.direction, byte f.tariff, byte f.scope,
    byte (f.tstat + 4 * b2n g.sealOpen)] ++ leBytes 8 nodeId ++ leBytes 2 g.fabricAddr ++
    leBytes 2 g.calcnt ++ leBytes 4 g.cfgcnt ++ leBytes 4 g.lcv ++
    leBytes 4 s.legal.rseq ++ leBytes 8 f.time ++ leBytes 8 f.value ++ leBytes 4 f.mstat.toNat ++
    [byte f.type, byte f.subtype] ++ leBytes 2 (s.legal.rseq / 4294967296) ++ leBytes 4 f.gen ++
    zeros 4 ++ padTo 64 f.data

/-- The body of a reading whose instant is now. -/
def State.readingBody (s : State) (f : ReadingFields) : Bytes := s.bodyWith s.pedigree f

/-- A body signed with the reading key (R259, R264). -/
def signBody (body : Bytes) : Bytes :=
  body ++ ecdsaSign (toScalar Config.readingKey) (sha256 body)

/-- Numbers are left for another body (R262). -/
def State.numbersLeft (s : State) : Bool := s.legal.rseq < 0xFFFFFFFFFFFF

/-- The pair takes the next number (R262). -/
def State.nextNumber (s : State) : State := s.modLegal (fun l => l.putRseq (l.rseq + 1))

/-- Readings on their way through the gate. -/
def Gate.readings (g : Gate) : Nat :=
  ((g.replies ++ g.outbox).filter (fun r => match r with
    | .news (.reading _) => true
    | _ => false)).length

/-- Undercoat's delivery queue has room for one more reading (R299). -/
def State.deliveryOpen (s : State) : Bool :=
  s.ready && max s.hawk.delivery.length s.hawk.toStore.length + s.gate.readings < 1024

/-- The LC can hand a scheduled reading to the AC, or hold it (R65, R299). -/
def State.canSchedule (s : State) : Bool :=
  s.legal.readingKey && s.numbersLeft &&
    ((s.deliveryOpen && s.legal.held.isEmpty) || s.legal.held.length < 1024)

/-- A signed scheduled reading goes to the AC, or waits for it behind those that wait (R28, R65). -/
def State.hand (s : State) (reading : Bytes) : State :=
  if s.deliveryOpen && s.legal.held.isEmpty then s.tell (.reading reading)
  else s.modLegal (fun l => { l with held := l.held ++ [reading] })

/-- A scheduled reading is built, numbered, signed and handed over; with the queue full it is counted
as missed, and with no key or no number nothing is built (R65, R262, R278). -/
def State.scheduleReading (s : State) (g : Pedigree) (f : ReadingFields) : State :=
  if s.canSchedule then
    let s := s.nextNumber
    s.hand (signBody (s.bodyWith g f))
  else if s.legal.readingKey && s.numbersLeft then
    s.modLegal (fun l => { l with readingsMissed := satAdd 0xFFFFFFFF l.readingsMissed 1 })
  else s

/-- 64 bits of a sum that may need more: beyond 2^64 - 1 the manual gives no value (log 9). -/
def State.sum64 (s : State) (n : Nat) : Bytes × State :=
  if n ≤ regMax then (leBytes 8 n, s)
  else
    let d := s.drawFree 64
    (leBytes 8 d.1.toNat, d.2)

/-- MSTAT of a metering point at this instant, from conditions that stand (Table 10.4). -/
def State.standing (s : State) (m : Nat) : Word :=
  let p := s.point m
  let b (c : Bool) (w : Word) : Word := if c then w else 0
  b p.gap.isSome mIncomplete ||| b (s.ntu.status == .invalid) mTimeInvalid |||
    b (!s.calendarEver) mNoCalendar ||| b p.bank.saturated mSaturated ||| b p.bank.wasReset mReset |||
    b s.legal.displayError mDisplay

/-! ### Calibration terms (Table 8.3) -/

/-- The block of a metering point that is in force (R204). -/
def State.calBlock (s : State) (m : Nat) : Bytes := s.legal.calInForce.getD m (zeros 96)

/-- The stored blocks come into force. -/
def Legal.enforceCal (l : Legal) : Legal := { l with calInForce := l.calStore }

/-- C_1 to C_4 (Q2.30). -/
def calC (b : Bytes) (k : Nat) : Nat := field b (8 + 4 * k) 4
def calZ0 (b : Bytes) : Int := sfield b 24 8
def calK (b : Bytes) : Nat := field b 32 8

/-- KV, KI (Q32.32) and TAU (ps) of phase 0 to 2. -/
def calPhase (b : Bytes) (ph : Nat) : Nat × Nat × Int :=
  (field b (8 + 20 * ph) 8, field b (16 + 20 * ph) 8, sfield b (24 + 20 * ph) 4)

/-- R_REF in µΩ of the supply (0) or return (1) source. -/
def calRRef (b : Bytes) (k : Nat) : Nat := field b (8 + 8 * k) 8

end Sys2Proof.Machine
end

