-- ==== Sys2Proof/Machine/FrontEnd.lean ====
section
/-! DEFINITION. The chains, their records, the crossing detector, the diagnostics and the counters
(chapters 4 and 5): shared operations and the meanings of their events. -/

namespace Sys2Proof.Machine

/-! ### Instants (R73, R81, R136) -/

/-- The two neighbouring stamps that bracket an instant, newest first: the first pair whose older stamp satisfies
`before`, or the oldest pair. -/
def stampPair (before : Nat × Nat → Bool) : List (Nat × Nat) → Option ((Nat × Nat) × (Nat × Nat))
  | a :: b :: rest =>
    if before b then some (a, b)
    else match stampPair before (b :: rest) with
      | some p => some p
      | none => some (a, b)
  | _ => none

/-- Node time in units of 2^-16 ns of an instant given in half f_MOD cycles since the modulator domain
started: interpolated between the two epoch stamps that bracket it, extrapolated from the nearest two where
none do, or from the nominal rate before two stamps exist (R73, R81, log 58). -/
def State.cycleTime16 (s : State) (half : Int) : Int :=
  match stampPair (fun b => decide (2 * (b.1 : Int) ≤ half)) s.modDom.stamps, s.modDom.stamps with
  | some ((c1, t1), (c0, t0)), _ =>
    (t0 : Int) * 65536 + (half - 2 * c0) * ((t1 : Int) - t0) * 65536 / (2 * ((c1 : Int) - c0))
  | none, (c1, t1) :: _ => (t1 : Int) * 65536 + (half - 2 * c1) * 1000000000 * 65536 / (2 * (s.fMod : Int))
  | none, [] => (s.nodeTime : Int) * 65536 +
      (half - 2 * s.modDom.cycle) * 1000000000 * 65536 / (2 * (s.fMod : Int))

/-- The instant, in half cycles, that position `p` (units of 2^-32 FIR outputs) of a channel
represents (R136). -/
def State.positionHalf (s : State) (n p : Nat) : Int :=
  let c := s.chain n
  2 * ((s.channel n).resetCycle : Int) + 2 * (p : Int) * c.firCycles / 4294967296 - c.delay2

/-- Node time in ns of position `p`. -/
def State.positionTime (s : State) (n p : Nat) : Nat :=
  (s.cycleTime16 (s.positionHalf n p) / 65536).toNat

/-- The instant in half f_MOD cycles of node time `t` in ns, by the same stamps (R135). -/
def State.halfAt (s : State) (t : Nat) : Int :=
  match stampPair (fun b => decide (b.2 ≤ t)) s.modDom.stamps, s.modDom.stamps with
  | some ((c1, t1), (c0, t0)), _ =>
    2 * (c0 : Int) + ((t : Int) - t0) * (2 * ((c1 : Int) - c0)) / ((t1 : Int) - t0)
  | none, (c1, t1) :: _ => 2 * (c1 : Int) + ((t : Int) - t1) * (2 * (s.fMod : Int)) / 1000000000
  | none, [] => 2 * (s.modDom.cycle : Int) + ((t : Int) - s.nodeTime) * (2 * (s.fMod : Int)) / 1000000000

/-- The position, in units of 2^-32, that represents node time `t` in ns: the inverse of `positionTime`. -/
def State.timePosition (s : State) (n t : Nat) : Int :=
  let c := s.chain n
  (s.halfAt t + c.delay2 - 2 * (s.channel n).resetCycle) * 4294967296 / (2 * max 1 c.firCycles)

/-! ### Chain restarts and stops (R119, R147, R150) -/

/-- Channel `n`'s analysis and stability windows at its metering points start again (R158, R171, R200). -/
def State.dropWindows (s : State) (n : Nat) : State :=
  (s.pointsOfLegal n).foldl (fun s m =>
    s.modPoint m (fun p => { p with
      cycleStart := none
      cycleHold := none
      refPhase := 0
      weigh := { p.weigh with window := [], since := none, stable := false, lastPosition := none }
      prov := { p.prov with
        lastTaken := none
        weights := List.replicate 16 0
        weightResets := if p.prov.weights.all (· == 0) then p.prov.weightResets
          else satAdd 0xFFFFFFFF p.prov.weightResets 1 } })) s

/-- Every other LINE channel that refers to `n` goes into hold (R147). -/
def State.holdReferring (s : State) (n : Nat) : State :=
  (upTo 16).foldl (fun s k =>
    if k != n && (s.chain k).mode == 1 && (s.chain k).lineRef == n then
      s.modChannel k (fun c => { c with line := { c.line with hold := true, good := 0 } })
    else s) s

/-- The chain of `n` runs from its reset at the present f_MOD cycle; a mode of OFF, or no FA, leaves it
stopped. -/
def State.resetChain (s : State) (n : Nat) : State :=
  let on := s.pchMode n != 0 && s.faRuns && s.legalRuns
  let cfg := s.chain n
  let until_ := if cfg.mode = 2 then some (s.mono + 4000000) else none
  (s.modChannel n (·.restart cfg on s.modDom.cycle (cfg.step s.fMod) until_)).dropWindows n

/-- The same, and the LINE channels that refer to it hold (R147). -/
def State.resetChannel (s : State) (n : Nat) : State := (s.resetChain n).holdReferring n

/-- The metering points that bind a channel legally become INCOMPLETE (R119). -/
def State.gapsOf (s : State) (n kind fault : Nat) : State :=
  (s.pointsOfLegal n).foldl (fun s m => s.openGap m kind fault) s

/-- A chain restart: the metering points that bind it legally become INCOMPLETE (R119). -/
def State.restartChannel (s : State) (n kind fault : Nat) : State :=
  (s.gapsOf n kind fault).resetChannel n

/-- The same for every enabled channel: they restart together, so a LINE channel waits for the lock and does
not hold for its reference's restart (R137, R147). -/
def State.restartAll (s : State) (kind fault : Nat) : State :=
  s.enabled.foldl State.resetChain (s.enabled.foldl (fun s n => s.gapsOf n kind fault) s)

/-- Every channel stops and no partial sample is delivered (R119). -/
def State.stopAll (s : State) (kind fault : Nat) : State :=
  let s := s.openGaps kind fault
  (upTo 16).foldl (fun s n => (s.modChannel n (fun c => { c with
    running := false, settled := false, cycle := [] })).dropWindows n) s

/-! ### The crossing detector and LINE mode (R134, R137) -/

/-- 1e9 / 65 and 1e9 / 45 ns, in 2^-16 ns: the good periods. -/
def goodPeriod (t : Nat) : Bool := 65536000000000 ≤ 65 * t && 45 * t ≤ 65536000000000

/-- One FIR output enters the detector at instant `t` (2^-16 ns); the flag says that a crossing was
taken. -/
def Crossing.feed (c : Crossing) (x : Int) (t : Nat) : Crossing × Bool :=
  let zero :=
    if c.prevFir < 0 ∧ 0 ≤ x then
      some (c.prevInstant + ((t - c.prevInstant : Nat) * (-c.prevFir).toNat) / (x - c.prevFir).toNat)
    else c.zeroAt
  let peak := max c.peak (x.natAbs : Int)
  if c.armed ∧ 1073741824 ≤ 100 * x then
    let z := zero.getD t
    let period := c.latest.map (fun l => z - l)
    ({ armed := false, prevFir := x, prevInstant := t, peak := (x.natAbs : Int), zeroAt := none,
       latest := some z, period := period,
       good := if period.any goodPeriod then c.good + 1 else 0
       strong := if period.isSome && decide (1073741824 ≤ 10 * peak) then c.strong + 1 else 0 }, true)
  else
    let arms := 100 * x ≤ -1073741824
    ({ c with armed := c.armed || arms, prevFir := x, prevInstant := t, peak := peak,
              zeroAt := if arms then none else zero }, false)

/-- What a crossing of its reference does to a LINE channel: `len` is the measured period, `strong` the periods
in succession that peaked above 10 % FS. It locks at the third crossing, or leaves hold after two good
periods; a period outside 45 Hz to 65 Hz puts it in hold, locked or not. -/
def State.lineCross (s : State) (k : Nat) (z : Nat) (len : Option Nat) (strong : Nat) : State :=
  let cfg := s.chain k
  let f := s.fMod
  s.modChannel k (fun c =>
    let l := c.line
    let seen := l.crossings + 1
    let good := if len.any goodPeriod then l.good + 1 else 0
    let locks := 2 ≤ good && (l.hold || (3 ≤ seen && 2 ≤ strong))
    let locked := l.locked || locks
    let hold := (l.hold && !locks) || !len.all goodPeriod
    let step := match len with
      | none => c.rsStep
      | some t =>
        if locked && !hold then t * f * 4294967296 / (65536 * 1000000000 * cfg.firCycles * max 1 cfg.lineN)
        else c.rsStep
    { c with
      rsStep := step
      line := { crossings := seen, lastCrossing := some z, period := len, good := good,
                locked := locked, hold := hold, everLocked := l.everLocked || locked } })

/-- One settled FIR output of channel `n` reaches its detector and the channels that refer to it; one that an
invalidating bit spoils reaches neither, so that a hold lasts until the reference has settled again
(R147). -/
def State.feedFir (s : State) (n : Nat) (x : Int) (t : Nat) : State :=
  if (s.channel n).diag &&& invalidBits != 0 then s
  else
    let r := (s.channel n).cross.feed x t
    let s := s.modChannel n (fun c => { c with cross := r.1 })
    if r.2 then
      (upTo 16).foldl (fun s k =>
        if (s.chain k).mode == 1 && (s.chain k).lineRef == n && (s.channel k).running then
          s.lineCross k (r.1.latest.getD t) r.1.period r.1.strong
        else s) s
    else s

/-! ### Output records (R132 to R139) -/

/-- How many FIR outputs must have formed for the channel's next record. -/
def State.firsNeeded (s : State) (n : Nat) : Nat :=
  if (s.chain n).bypass then (s.channel n).firCount + 1 else (s.channel n).rsPos / 4294967296 + 8

/-- The channel integrates its FIR output (R102). -/
def State.rogowski (s : State) (n : Nat) : Bool := s.pchMode n == modeEi && s.pchSensor n == 2

/-- What the chain of a channel runs with now. -/
def State.chainRun (s : State) (n : Nat) : ChainRun := ⟨s.chain n, s.fMod, s.reversal n, s.rogowski n⟩

/-- A record is due: the modulator words given complete it, and their cycles have passed. -/
def State.recordDue (s : State) (n : Nat) (words : List (BitVec 4)) : Bool :=
  let c := s.channel n
  c.running && s.faRuns &&
    c.words + words.length == max (s.firsNeeded n * (s.chain n).firCycles) c.words &&
    decide (c.resetCycle + c.words + words.length ≤ s.modDom.cycle)

/-- FIR outputs after which the chain's window lies after the reset: Table 5.8 with the 4 ms of TIME
mode and the 64 s of a Rogowski channel. -/
def State.settledFrom (s : State) (n : Nat) : Nat :=
  let c := s.chain n
  c.firstSettled + ((if c.mode = 2 then s.fMod / 250 else 0) +
    (if s.rogowski n then 64 * s.fMod else 0) + c.firCycles - 1) / max 1 c.firCycles

/-- The modulator words enter the chain one by one; each settled FIR output reaches the crossing
detector. -/
def State.takeWords (s : State) (n : Nat) : List (BitVec 4) → State
  | [] => s
  | w :: rest =>
    let k := (s.channel n).firCount
    let s := s.modChannel n (·.takeWord (s.chainRun n) w)
    let i := (s.channel n).firCount
    let s := if k < i ∧ (s.chain n).firstSettled ≤ i then
        s.feedFir n (((s.channel n).firs.head?).map (·.post) |>.getD 0)
          (s.cycleTime16 (s.positionHalf n (i * 4294967296))).toNat
      else s
    State.takeWords s n rest

/-- The next position of a TIME-mode resampler: the smallest grid instant beyond position `p`. -/
def State.nextGrid (s : State) (n p : Nat) : Nat × Nat :=
  let period := max 1 (s.chain n).period
  let t := s.positionTime n p
  let k := t / period
  match (upTo 4).find? (fun i => (p : Int) < s.timePosition n ((k + i) * period)) with
  | some i => ((s.timePosition n ((k + i) * period)).toNat, (k + i) * period)
  | none => (p + (s.chain n).step s.fMod, t + period)

/-- A capture record joins its line; a full line is written to the ring (R351). One that X3 cannot take, held off
beyond its depth, is dropped and counted, and the next one says so (R74). -/
def State.capture (s : State) (n : Nat) (r : Record) (x3Held : Bool) : State :=
  let c := s.channel n
  if !s.captures n then s
  else if x3Held then (s.modChannel n (fun c => { c with capLoss := true })).bump 8
  else
    let r := { r with status := r.status ||| (if c.capLoss then stCapLoss else 0) }
    let line := c.capLine ++ [r]
    if line.length < 4 then s.modChannel n (fun c => { c with capLine := line, capLoss := false })
    else
      let bytes := line.flatMap (fun r =>
        sBytes 4 r.value ++ leBytes 2 r.status.toNat ++ leBytes 2 r.seqNo.toNat)
      (s.modMem (fun m => m.sramWrite (0x20380000 + 16384 * n + 8 * c.capIndex) bytes)).modChannel n
        (fun c => { c with
          capLine := [], capLoss := false, capIndex := (c.capIndex + 4) % 2048
          capTimes := (c.capTimes ++ line.map (·.instant)).drop (c.capTimes.length + 4 - 2048)
          capUnread := min 2048 (c.capUnread + 4) })

/-- A settled sample, valid or not, stays for the analysis cycles of the ELEC points that bind it
(R181, R182, R199). -/
def State.keepSample (s : State) (n : Nat) (r : Record) : State :=
  if (s.pointsOfLegal n).any (fun m => s.mpType m == typeElec) then
    s.modChannel n (fun c => { c with cycle := (c.cycle ++ [r]).drop (c.cycle.length + 1 - 131072) })
  else s

/-- A settled, valid sample reaches the quantities of its metering points: the temperatures of a HEAT
point, and the flags of R112 and R261. `theta` is the sample as a
temperature in 2^-32 °C. -/
def State.useSample (s : State) (n : Nat) (r : Record) (theta : Nat → Option Int) : State :=
  let s := s.modChannel n (fun c => { c with lastGood := some r.instant })
  (s.pointsOfLegal n).foldl (fun s m =>
    s.modPoint m (fun p =>
      let p := if r.status.getLsbD 4 then { p with now := p.now ||| mOverRange } else p
      match theta m with
      | none => p
      | some t =>
        if bindPch (s.binding m) 0 = n then { p with supply := (r.instant, t) :: p.supply }
        else { p with back := (r.instant, t) :: p.back })) s

/-- A square root of a natural number to the nearest below (for R191), by `n` Newton steps. -/
def isqrtFrom : Nat → Nat → Nat → Nat
  | 0, _, g => g
  | k + 1, n, g => if g = 0 then 0 else isqrtFrom k n (min g ((g + n / g) / 2))

/-- The integer square root: the starting value is a power of 2 no less than it. -/
def isqrt (n : Nat) : Nat := isqrtFrom (n.log2 + 2) n (2 ^ (n.log2 / 2 + 1))

/-- The nominal R0 in Ω and R_REF in µΩ of an RTD type (Table 4.5, R191). -/
def rtdR0 (t : Nat) : Nat := if t = 0 then 100 else if t = 1 then 500 else 1000
def rtdRRef (t : Nat) : Nat := rtdR0 t * 4000000

/-- θ in 2^-32 °C of a resistance in 2^-31 µΩ (R191): with A and B as integers over 10^10, θ is
(A - √(A² + 4 |B| (1 - R / R0))) / (2 |B|), formed with 32 more bits and rounded down (log 28). -/
def thetaOf (r0 : Nat) (r31 : Int) : Int :=
  let scale : Int := 2 ^ 64
  let den : Int := (r0 : Int) * 1000000 * 2 ^ 31
  -- A = 39083000 / 10^10, |B| = 5775 / 10^10: work in units of 10^-10 and its square
  let a : Int := 39083000
  let b : Int := 5775
  let disc := a * a * scale + 4 * b * 10000000000 * (den - r31) * scale / den
  let root : Int := (isqrt disc.toNat : Nat)
  ((a * 2 ^ 32 - root)) / (2 * b)

/-- The temperature that a code of channel `n` gives metering point `m`; none where `m` is not HEAT. -/
def State.temperature (s : State) (n m : Nat) (code : Int) : Option Int :=
  if s.mpType m = typeHeat then
    let k := if bindPch (s.binding m) 0 = n then 0 else 1
    some (thetaOf (rtdR0 (s.pnum (rtdId (bindRtd (s.binding m) k)))) (code * calRRef (s.calBlock m) k))
  else none

/-- OVR_SOFT of a record: an FIR output within its span lies beyond FS and within 1.2 FS (Table 4.6). -/
def softOver (span : List FirOut) : Bool := span.any (fun f => beyondFs f.pre && !beyondHard f.pre)

/-- The chain of `n` forms its next record from the modulator words since the last one (R132 to R139). -/
def State.formRecord (s : State) (n : Nat) (words : List (BitVec 4)) (x3Held : Bool) : State :=
  let s := s.takeWords n words
  let c := s.channel n
  let cfg := s.chain n
  let grid := s.nextGrid n c.rsPos
  let span := if cfg.bypass then c.firs.take 1 else c.firs
  let raw := if cfg.bypass then (c.firs.head?.map (·.post)).getD 0 else resample (c.firs.map (·.post)) c.rsPos
  let first := if cfg.bypass then c.firCount else c.rsPos / 4294967296 - 7
  let lockOk := cfg.mode != 1 || c.line.locked || c.line.hold
  let isSettled := c.settled || (s.settledFrom n ≤ first && lockOk)
  let value := sat32 raw
  let clip := value != raw || span.any (·.clip)
  let soft := softOver span
  let instant :=
    if cfg.mode = 2 then (s.positionTime n c.rsPos + cfg.period / 2) / max 1 cfg.period * cfg.period
    else if cfg.bypass then s.positionTime n (c.firCount * 4294967296)
    else s.positionTime n c.rsPos
  let flag (b : Bool) (w : BitVec 16) : BitVec 16 := if b then w else 0
  let status := ((c.diag ||| c.diagSeen) &&& 0x6F).setWidth 16 ||| flag soft 0x10 |||
    flag (!isSettled) stSettling ||| flag (isSettled && !c.settled) stRestart ||| flag clip stClip |||
    flag (cfg.mode == 1 && c.line.hold) stLineHold ||| flag (cfg.mode == 2 && c.timeStep) stTimeStep
  let r : Record := { value := if isSettled then value else 0, status := status, seqNo := c.seqNo,
                      instant := instant, position := c.outCount + 1 }
  let next := if cfg.mode = 2 then grid.1 else c.rsPos + c.rsStep
  let diag := (c.diag &&& 0x6F) ||| (if soft then 0x10 else 0)
  let s := s.modChannel n (fun c => { c with
    settled := isSettled, outCount := c.outCount + 1, rsPos := next, seqNo := c.seqNo + 1
    diag := diag, diagSeen := diag, timeStep := false, latest := some r, recent := (r :: c.recent).take 16 })
  let s := s.capture n r x3Held
  let s := if isSettled then s.keepSample n r else s
  if r.good then (s.useSample n r (fun m => s.temperature n m r.value)).settleGaps
  else if isSettled then
    (s.pointsOfLegal n).foldl (fun s m => (s.openGap m gapDiag 0)) s
  else s

/-- Where the reference of a LINE channel has settled: the f_MOD cycle. -/
def State.refSettledAt (s : State) (k : Nat) : Nat :=
  (s.channel k).resetCycle + (s.chain k).settleIndex * (s.chain k).m1

/-- LINE_HOLD_TIMEOUT (R134): a channel, locked or not, whose reference has missed a crossing for 33.3 ms, counted
from its settling before the first (log 58), or whose period left 45 Hz to 65 Hz, holds its Δ: the last one,
or that for 50 Hz if it has never locked. -/
def execLineHoldTimeout (dt : Ticks) (pch : Nat) (s : State) : Host.Outcome State Fault Refusal :=
  let s := s.elapse dt
  let c := s.channel pch
  let k := (s.chain pch).lineRef
  let ref := s.channel k
  let late := match ref.cross.latest with
    | none => ref.running && decide (s.refSettledAt k + s.fMod * 333 / 10000 ≤ s.modDom.cycle)
    | some z => decide (z + 33300000 * 65536 ≤ s.nodeTime * 65536)
  let bad := ref.cross.period.any (fun t => !goodPeriod t)
  .next (if c.running && (s.chain pch).mode == 1 && !c.line.hold && (late || bad) then
      s.modChannel pch (fun c => { c with line := { c.line with hold := true, good := 0 } })
    else s)

/-- LINE_LOCK_TIMEOUT (R137): no lock 100 ms after the reference has settled, so the channel settles in
hold at the Δ for 50 Hz. -/
def execLineLockTimeout (dt : Ticks) (pch : Nat) (s : State) : Host.Outcome State Fault Refusal :=
  let s := s.elapse dt
  let c := s.channel pch
  let k := (s.chain pch).lineRef
  .next (if c.running && (s.chain pch).mode == 1 && !c.line.locked && !c.line.hold && (s.channel k).running &&
      decide (s.refSettledAt k + s.fMod / 10 ≤ s.modDom.cycle) then
      s.modChannel pch (fun c => { c with line := { c.line with hold := true, good := 0 } })
    else s)

/-! ### Diagnostics (R111 to R114, R121) -/

/-- The channels that a condition of a driver reaches (R112); any other condition is the channel's. -/
def State.diagReach (s : State) (n bit : Nat) : List Nat :=
  if 1 ≤ bit ∧ bit ≤ 3 ∧ s.pchMode n = modeBridge then
    (upTo 16).filter (fun k => s.pchMode k == modeBridge && s.pchExc k == s.pchExc n)
  else [n]

/-- A transition of an invalidating bit of a bound channel is logged or counted (R114). The entry of a channel that several
metering points share names the lowest of them (DESIGN CHOICE, log 54). -/
def State.logDiag (s : State) (n bit : Nat) (sets : Bool) : State :=
  if !s.pchBound n then s
  else
    let c := s.channel n
    let limited := match c.lastPair with
      | none => false
      | some t => !s.since t (10 * second)
    let now := s.mono
    if limited then
      s.modChannel n (fun c => { c with
        diagCnt := satAdd 65535 c.diagCnt 1, burst := satAdd 65535 c.burst 1, burstAt := some now })
    else
      (s.logEvent 0x08 (if sets then 0x01 else 0x02) ((s.pointsOfChannel n).headD 0xFF)
        [byte n, byte bit]).modChannel n (fun c => { c with
          setLogged := sets, burst := 0, burstAt := none
          lastPair := if !sets && c.setLogged then some now else c.lastPair })

def bitMask (bit : Nat) : BitVec 8 := BitVec.ofNat 8 (2 ^ bit)

/-- The condition of a bit of one channel is present now (R113). -/
def State.seeDiag (s : State) (n bit : Nat) : State :=
  let now := s.mono
  s.modChannel n (fun c => { c with diagAt := setAt c.diagAt bit now })

/-- One channel's bit sets (R111, R112, R147). -/
def State.setDiag (s : State) (n bit : Nat) : State :=
  let s := s.seeDiag n bit
  if (s.channel n).diag.getLsbD bit then s
  else
    let s := s.modChannel n (fun c => { c with
      diag := c.diag ||| bitMask bit, diagSeen := c.diagSeen ||| bitMask bit })
    let s := (s.logDiag n bit true).holdReferring n
    (s.pointsOfLegal n).foldl (fun s m => s.openGap m gapDiag 0) s

/-- One channel's bit clears after 100 ms without its condition, and its chain then restarts (R113). -/
def State.clearDiag (s : State) (n bit : Nat) : State :=
  if !(s.channel n).diag.getLsbD bit || !s.since ((s.channel n).diagAt.getD bit 0) (100 * milli) then s
  else
    let s := s.modChannel n (fun c => { c with diag := c.diag &&& ~~~(bitMask bit) })
    (s.logDiag n bit false).restartChannel n gapDiag 0

/-- DIAG_BIT_SET (R111): the condition is present. -/
def execDiagBitSet (dt : Ticks) (pch bit : Nat) (seen : Sensed) (s : State) :
    Host.Outcome State Fault Refusal :=
  let s := (s.elapse dt).meet pch seen
  .next (if pch < 16 && s.legalRuns && s.diagPresent pch bit seen then
      (s.diagReach pch bit).foldl (fun s k => s.setDiag k bit) s
    else s)

/-- DIAG_BIT_CLEAR (R113): the condition is absent, as it is where its bit no longer applies; OVR_SOFT comes and goes
with the records alone. A disabled driver keeps REF_LOSS set (Table 4.6). -/
def execDiagBitClear (dt : Ticks) (pch bit : Nat) (seen : Sensed) (s : State) :
    Host.Outcome State Fault Refusal :=
  let s := (s.elapse dt).meet pch seen
  .next (if pch < 16 && bit != 4 && s.legalRuns && !s.diagPresent pch bit seen && !s.refOff pch bit then
      (s.diagReach pch bit).foldl (fun s k => s.clearDiag k bit) s
    else s)

/-- DIAG_SUMMARY (R114). -/
def execDiagSummary (dt : Ticks) (pch : Nat) (s : State) : Host.Outcome State Fault Refusal :=
  let s := s.elapse dt
  let c := s.channel pch
  .next (if s.legalRuns && s.sinceOpt c.burstAt (10 * second) then
      (s.logEvent 0x08 0x03 ((s.pointsOfChannel pch).headD 0xFF)
        ([byte pch, 0] ++ leBytes 2 c.burst)).modChannel pch
          (fun c => { c with burst := 0, burstAt := none })
    else s)

/-- The enabled BRIDGE channels of a driver that is off carry REF_LOSS (Table 4.6). -/
def State.refLoss (s : State) : State :=
  (upTo 16).foldl (fun s n => if s.refOff n 3 then s.setDiag n 3 else s) s

/-- After a change of a channel's mode or of a driver's block, the conditions that were present until then count
their absence from now (R113). -/
def State.seeSetDiags (s : State) : State :=
  let now := s.mono
  { s with channels := s.channels.map (fun c => { c with
      diagAt := (upTo 7).map (fun i => if c.diag.getLsbD i then now else c.diagAt.getD i 0) }) }

/-! ### Counters (R115 to R120, R189) -/

/-- The counter counts in SINGLE mode: enabled, and not the B input of a pair. -/
def State.cntPartner (s : State) (n : Nat) : Bool := n % 2 == 1 && s.cntMode (n - 1) == 2

/-- The filter time of Table 4.7 in ns. -/
def filterNs (v : Nat) : Nat := if v = 0 then 20000 else if v = 1 then 1000000 else 5000000

/-- Whether the filter of a counter accepts a level that has stayed stable for `held` ns: never below the filter
time, always from 2 µs above it, and open between the two (R116, log 9). -/
def State.filterTakes (s : State) (cnt held : Nat) : Bool × State :=
  let f := filterNs (s.pnum (cntId cnt 2))
  if held < f then (false, s)
  else if f + 2000 ≤ held then (true, s)
  else ((s.drawFree 1).1 == 1, (s.drawFree 1).2)

/-- An input of counter `n`, filtered as counter `by_` says, at a level it has held for `held` ns: the filtered level
follows it where the filter accepts it. -/
def State.filterLevel (s : State) (n by_ : Nat) (level : Bool) (held : Nat) : State :=
  if (s.counter n).level = some level then s
  else
    let t := s.filterTakes by_ held
    if t.1 then t.2.modCounter n (fun c => { c with level := some level }) else t.2

/-- COUNTER_INPUT_EDGE (R116, R117): the input has changed to a level and held it. -/
def execCounterInputEdge (dt : Ticks) (cnt : Nat) (rising : Bool) (heldNs : Nat) (s : State) :
    Host.Outcome State Fault Refusal :=
  let s := s.elapse dt
  .next (if cnt < 16 && s.legalRuns && s.cntMode cnt == 1 && !s.cntPartner cnt then
      let was := (s.counter cnt).level
      let s := s.filterLevel cnt cnt rising heldNs
      if was != (s.counter cnt).level && (s.pnum (cntId cnt 3) == 1) == rising then
        s.modCounter cnt (fun c => { c with fwd := c.fwd + 1 })
      else s
    else s)

/-- The place of a filtered pair (A, B) in the forward sequence 00, 10, 11, 01 (R118). -/
def quadPhase (a b : Bool) : Nat :=
  if a then (if b then 2 else 1) else if b then 3 else 0

/-- One filtered sample of a pair (R118). An illegal transition leaves the position and makes the pair it ends in
the next reference (DESIGN CHOICE, log 54). -/
def Counter.quad (c : Counter) (a b : Bool) : Counter :=
  match c.ref with
  | none => { c with ref := some (a, b), pos := 0, last := 0 }
  | some (a0, b0) =>
    let d := (quadPhase a b + 4 - quadPhase a0 b0) % 4
    if d = 0 then c
    else if d = 2 then
      { c with ref := some (a, b), quadError := satAdd 65535 c.quadError 1, errorNow := true }
    else
      let pos := c.pos + (if d = 1 then 1 else -1)
      let c := { c with ref := some (a, b), pos := pos }
      if pos = c.last + 4 then { c with fwd := c.fwd + 1, last := pos }
      else if pos = c.last - 4 then { c with rev := c.rev + 1, last := pos }
      else c

/-- QUAD_TRANSITION (R116, R118): the inputs of a pair and how long each has held its level; the settings of the even
counter filter both. -/
def execQuadTransition (dt : Ticks) (cnt : Nat) (a b : Bool) (heldANs heldBNs : Nat) (s : State) :
    Host.Outcome State Fault Refusal :=
  let s := s.elapse dt
  .next (if cnt < 16 && cnt % 2 == 0 && s.legalRuns && s.cntMode cnt == 2 then
      let s := (s.filterLevel cnt cnt a heldANs).filterLevel (cnt + 1) cnt b heldBNs
      match (s.counter cnt).level, (s.counter (cnt + 1)).level with
      | some a, some b => s.modCounter cnt (·.quad a b)
      | _, _ => s
    else s)

/-- The end of the second that commits next (R193). -/
def State.nextSecond (s : State) : Nat := s.legal.lastCommit + second

/-- An amount in 2^-32 of the register's unit is gathered for the second that `t` falls in (R193). -/
def State.gather (s : State) (m idx amount t : Nat) : State :=
  let due := s.nextSecond
  s.modPoint m (fun p =>
    if t ≤ due then { p with amounts := modAt p.amounts idx (· + amount) }
    else { p with carried := modAt p.carried idx (· + amount) })

/-- Whether counted volume accrues for a metering point now: never in REG_FAULT, and no gap stops it
but, for HEAT, those of its temperatures (R34, R203, R248). -/
def State.volumeFlows (s : State) (m : Nat) : Bool :=
  let p := s.point m
  !p.regFault && s.legal.faulted.isEmpty && s.boot.pauseFrom.isNone && s.faRuns && !s.calFaulty m

/-- The counts of one complete interval accrue (R189, R192). -/
def State.accrueVolume (s : State) (m fwd rev t : Nat) : State :=
  let heat := s.mpType m = typeHeat
  let pulse := if heat then field (s.paramNow (pointId m 0xB0)) 0 4 else field (s.paramNow (pointId m 0xA0)) 0 4
  let vf := fwd * pulse * 4294967296 / 1000
  let vr := rev * pulse * 4294967296 / 1000
  let base := if heat then 2 else 0
  let s := (s.gather m base vf t).gather m (base + 1) vr t
  if heat then
    let due := s.nextSecond
    s.modPoint m (fun p => { p with
      volFwd := if t ≤ due then p.volFwd + vf else p.volFwd
      volNext := if t ≤ due then p.volNext else p.volNext + vf
      now := if rev = 0 then p.now else p.now ||| mReverse })
  else s

/-- The metering point that takes a counter's volume. -/
def State.pointOfCounter (s : State) (n : Nat) : Option Nat :=
  (upTo 4).find? (fun m =>
    (s.mpType m == typeWater || (s.mpType m == typeHeat && s.mpSub m == 0)) && bindCnt (s.binding m) == n)

/-- An interval with a QUAD_ERROR is INCOMPLETE and logged, once in 10 s; the rest are counted (R114, R118). -/
def State.noteQuadError (s : State) (n m : Nat) : State :=
  let c := s.counter n
  let now := s.mono
  let quiet := match c.errorAt with
    | none => true
    | some u => s.since u (10 * second)
  let s := s.modPoint m (fun p => { p with now := p.now ||| mIncomplete })
  if quiet then
    (s.logEvent 0x08 0x04 m ([byte n, 0] ++ leBytes 2 c.quadError)).modCounter n
      (fun c => { c with errorAt := some now, unlogged := 0 })
  else s.modCounter n (fun c => { c with unlogged := satAdd 65535 c.unlogged 1 })

/-- One counter is latched at node time `t`, and the interval since its last latch is delivered
(R117, R118, R120). The counts of an INCOMPLETE interval are held for the next complete one (R189); a final latch has no
next one and delivers them. -/
def State.latchCounter (s : State) (n t : Nat) (final : Bool := false) : State :=
  let c := s.counter n
  let df := (c.fwd - c.latchFwd).toNat
  let dr := (c.rev - c.latchRev).toNat
  let m := s.pointOfCounter n
  let counts := m.any s.volumeFlows && c.primed
  let bad := counts && c.errorNow
  let hold := bad && !final
  let s := s.modCounter n (fun c => { c with
    latchFwd := c.fwd, latchRev := c.rev, latchTime := t, primed := true, errorNow := false
    heldFwd := if hold then c.heldFwd + df else if counts then 0 else c.heldFwd
    heldRev := if hold then c.heldRev + dr else if counts then 0 else c.heldRev })
  match m with
  | none => s
  | some m =>
    let s := if bad then s.noteQuadError n m else s
    if counts && !hold then s.accrueVolume m (df + c.heldFwd) (dr + c.heldRev) t else s

/-- A counter takes its final latch as it is released or set to OFF (R120). -/
def State.finalLatch (s : State) (n : Nat) : State :=
  (s.latchCounter n s.nodeTime true).modCounter n (fun c => { c with primed := false })

end Sys2Proof.Machine
end

