-- ==== Sys2Proof/Machine/Clocks.lean ====
section
/-! DEFINITION. The modulator clock's supervision, node time's rate, the time status, the RTC and
sync events (chapter 3, R140 to R145). -/

namespace Sys2Proof.Machine

/-! ### Clock events (Tables 3.8 and 19.3) -/

def srcXo : Nat := 0
def srcMclk : Nat := 1

/-- A CLOCK entry: the kind, its value and the sources before and after (R92, Table 19.3). -/
def State.logClock (s : State) (code : Nat) (value : Int) (before after : Nat) : State :=
  if s.legalRuns then
    s.logEvent 0x02 code 0xFF (leBytes 8 s.nodeTime ++ sBytes 8 value ++ [byte before, byte after])
  else s

/-- The modulator domain takes another source: a switch, which restarts every enabled chain (R92). The
stamps of the old run no longer bracket a sample. -/
def State.modSwitch (s : State) (src : ModSource) : State :=
  (s.modMod (fun m => { m with
    source := src, stamps := [], outside := false, relocked := false })).restartAll gapClock 0

/-- The code of a source in a CLOCK entry (Table 19.3). -/
def ModSource.code : ModSource → Nat
  | .mclk => srcMclk
  | _ => srcXo

/-- No modulator clock remains (R94). Table 19.3 has no code for no source: SRC_BEFORE and SRC_AFTER both name the
source that stopped (DESIGN CHOICE, log 54). -/
def State.modLost (s : State) : State :=
  let was := s.modDom.source.code
  let s := s.modMod (fun m => { m with source := .stopped, stamps := [] })
  ((s.stopAll gapClock 0x0003).logClock 0x06 0 was was).postFault 0x0003

def State.prefersMclk (s : State) : Bool := s.pnum 0x8010 == 1

/-- A measured period that is a GLITCH: more than 2 % from 40.690 ns (Table 3.7). -/
def isGlitch (ps : Nat) : Bool := 50 * (((ps : Int) - 40690).natAbs) > 40690

/-- MCLK_STOP (R88, R89, R93, R94). -/
def execMclkStop (dt : Ticks) (glitchPs : Option Nat) (s : State) : Host.Outcome State Fault Refusal :=
  let s := s.elapse dt
  let real := match glitchPs with
    | none => true
    | some p => isGlitch p
  .next (if !real || !s.prefersMclk then s
    else
      let s := s.modMod (fun m => { m with trackSince := none })
      if s.modDom.source != .mclk then s
      else if s.modDom.latched || !s.modDom.xoRuns then s.modLost
      else
        let s := match glitchPs with
          | none => s.logClock 0x01 0 srcMclk srcXo
          | some p => s.logClock 0x02 p srcMclk srcXo
        let now := s.mono
        let recent := now :: s.modDom.switches.filter (fun t => decide (now ≤ t + 60 * second))
        let s := (s.modMod (fun m => { m with switches := recent })).modSwitch .xoMod
        if 3 ≤ recent.length then
          (s.modMod (fun m => { m with latched := true })).logClock 0x05 recent.length srcXo srcXo
        else s)

/-- MCLK_WINDOW (R88, R90, R91). -/
def execMclkWindow (dt : Ticks) (meanPpm : Int) (periodsOk : Bool) (s : State) :
    Host.Outcome State Fault Refusal :=
  let s := s.elapse dt
  let track := decide (meanPpm.natAbs ≤ 5000)
  .next (if !s.prefersMclk then s
    else if s.modDom.source = .mclk then
      if track then s.modMod (fun m => { m with outside := false, relocked := false })
      else if !periodsOk || s.modDom.relocked then s
      else if s.modDom.outside then
        ((s.logClock 0x03 meanPpm srcMclk srcMclk).modMod (fun m => { m with
          outside := false, relocked := true, stamps := [] })).restartAll gapClock 0
      else s.modMod (fun m => { m with outside := true })
    else
      let begun := s.mono - milli
      s.modMod (fun m => { m with
        trackSince := if track && periodsOk then some (m.trackSince.getD begun) else none }))

/-- MCLK_RETURN (R93, R94): 1 s of TRACK; the latch holds it back while XO_MOD is the source. -/
def execMclkReturn (dt : Ticks) (s : State) : Host.Outcome State Fault Refusal :=
  let s := s.elapse dt
  let m := s.modDom
  let open_ := (m.source == .xoMod && !m.latched) || m.source == .stopped
  .next (if s.prefersMclk && s.legalRuns && open_ && s.sinceOpt m.trackSince second then
      let ms := (s.mono - m.trackSince.getD 0) / milli
      ((s.logClock 0x04 ms srcXo srcMclk).modSwitch .mclk).modMod (fun m => { m with
        trackSince := none, xoSince := none })
    else s)

/-- XO_MOD_LOST (R94). -/
def execXoModLost (dt : Ticks) (s : State) : Host.Outcome State Fault Refusal :=
  let s := s.elapse dt
  .next (if s.modDom.source = .xoMod then
      (s.modMod (fun m => { m with xoRuns := false, xoSince := none })).modLost
    else s)

/-- XO_MOD_RESTART_TRY (R94). -/
def execXoModRestartTry (dt : Ticks) (runs : Bool) (s : State) : Host.Outcome State Fault Refusal :=
  let s := s.elapse dt
  let m := s.modDom
  let now := s.mono
  .next (if m.source = .xoMod || !s.legalRuns then s
    else if !runs then s.modMod (fun m => { m with xoRuns := false, xoSince := none })
    else if m.source = .stopped then
      ((s.modMod (fun m => { m with xoRuns := true, xoSince := some now })).logClock 0x07 0 srcXo
        srcXo).modSwitch .xoMod
    else if !m.xoRuns then
      (s.modMod (fun m => { m with xoRuns := true, xoSince := some now })).logClock 0x07 0 srcMclk srcMclk
    else if m.latched && s.sinceOpt m.xoSince second then s.modSwitch .xoMod
    else s)

/-- MOD_EPOCH (R73): every 6,144 cycles from the epoch counter's last restart. -/
def execModEpoch (dt : Ticks) (s : State) : Host.Outcome State Fault Refusal :=
  let s := s.elapse dt
  let m := s.modDom
  let due := m.source != .stopped && m.epochBase < m.cycle && (m.cycle - m.epochBase) % 6144 == 0 &&
    m.stamps.all (fun st => decide (st.1 < m.cycle))
  let t := s.nodeTime
  .next (if due then s.modMod (fun m => { m with stamps := ((m.cycle, t) :: m.stamps).take 512 }) else s)

/-! ### NET_SLEW (R78) -/

/-- NET_SLEW in whole ns, towards 0. -/
def Ntu.slewNs (u : Ntu) : Int := u.slew.tdiv 4294967296

/-- SLEW_SECOND (R78). -/
def execSlewSecond (dt : Ticks) (s : State) : Host.Outcome State Fault Refusal :=
  let s := s.elapse dt
  let next := s.ntu.slewHigh + 1
  .next (if s.legalRuns && decide (next * second * 4294967296 ≤ s.ntu.slew.natAbs) then
      (s.modNtu (fun u => { u with slewHigh := next })).logEvent 0x07 0x02 0xFF (sBytes 8 s.ntu.slewNs)
    else s)

/-- SLEW_CLAMP (R78). -/
def execSlewClamp (dt : Ticks) (s : State) : Host.Outcome State Fault Refusal :=
  let s := s.elapse dt
  let u := s.ntu
  let more := (u.slew == slewLimit && decide (0 < u.rateAdj)) ||
    (u.slew == -slewLimit && decide (u.rateAdj < 0))
  .next (if s.legalRuns && more && !u.clampLogged then
      (s.modNtu (fun u => { u with clampLogged := true })).logEvent 0x07 0x03 0xFF (sBytes 8 u.slewNs)
    else s)

/-! ### The time status and the discipline (R82, R83, R550, Table 3.6) -/

/-- An armed SYNC_AT is disarmed and its command completes ABORTED (Table 5.12). -/
def State.disarmSync (s : State) : State :=
  match s.sync.armed with
  | none => s
  | some (_, call) =>
    let s := s.modSync (fun y => { y with armed := none })
    match s.hawk.inFlight.find? (fun f => f.call == call && f.opcode == 0x0203 && f.accepted) with
    | none => s
    | some f => s.respond f stAborted []

/-- The status takes a value; a change goes to the AC, and leaving FINE disarms SYNC_AT. -/
def State.setTimeStatus (s : State) (t : TimeStatus) : State :=
  let old := s.ntu.status
  if old = t then s
  else
    let now := s.nodeTime
    let s := (s.modNtu (fun u => { u with status := t })).tell (.timeStatus old.code t.code)
    let s := if old = .invalid then s.modLegal (fun l => { l with activateFrom := max now l.activateFrom }) else s
    if old = .fine then s.disarmSync else s

/-- The nearest whole number, ties away from zero. -/
def roundRat (q : Rat) : Int := roundDiv q.num q.den

/-- RATE_ADJ written by the AC: the hardware clamps it (R77). -/
def State.writeRateAdj (s : State) (v : Int) : State :=
  s.modNtu (fun u => { u with rateAdj := clampInt (-100000) 100000 v })

/-- The discipline state restarts (R83). -/
def State.restartDiscipline (s : State) : State :=
  s.modNtu (fun u => { u with freq := 0, prevOffset := none, adjIntegral := 0, steppedSince := false })

/-- F after an offset `o` at `t` (R550, step 1). Two offsets with the same T_MEAS give no rate, and F keeps its value
(DESIGN CHOICE, log 54). -/
def Ntu.nextFreq (u : Ntu) (now : Nat) (o : Int) (t : Nat) : Rat :=
  match u.prevOffset with
  | none => u.freq
  | some (o0, t0) =>
    if t ≠ t0 ∧ t ≤ t0 + 4000000000 ∧ u.steppedSince = false then
      let r : Rat := ((o - o0 : Int) : Rat) * 1000000000 / ((t : Rat) - (t0 : Rat))
      let span := now - u.lastOffset.getD now
      let a : Rat := if span = 0 then (u.rateAdj : Rat) else u.adjIntegral / (span : Rat)
      u.freq + (a - r - u.freq) / 4
    else u.freq

/-- One discipline offset: the law of R550, and the lock of Table 3.6. -/
def State.disciplineOffset (s : State) (o : Int) (t : Nat) : State :=
  let now := s.mono
  let u := s.ntu
  let f := u.nextFreq now o t
  let near := decide (o.natAbs ≤ 10000)
  let soon := match u.lastOffset with
    | none => false
    | some l => decide (now ≤ l + 2 * second)
  let count := if u.status = .invalid ∨ near = false then 0
    else if soon then u.lockCount + 1 else 1
  let s := (s.modNtu (fun u => { u with
    freq := f, prevOffset := some (o, t), adjIntegral := 0, steppedSince := false
    lastOffset := some now, lockCount := min count 8 })).writeRateAdj (roundRat (f - (o : Rat) / 8))
  if u.status = .coarse ∧ 8 ≤ count then s.setTimeStatus .fine
  else if u.status = .fine ∧ 100000 < o.natAbs then
    (s.setTimeStatus .coarse).modNtu (fun u => { u with lockCount := 0 })
  else s

/-- FINE_HOLDOVER_EXPIRY (Table 3.6). -/
def execFineHoldoverExpiry (dt : Ticks) (s : State) : Host.Outcome State Fault Refusal :=
  let s := s.elapse dt
  .next (if s.ntu.status = .fine ∧ s.sinceOpt s.ntu.lastOffset (60 * second) = true then
      (s.setTimeStatus .coarse).modNtu (fun u => { u with lockCount := 0 })
    else s)

/-- The LC writes the RTC from node time (R84, R85). -/
def State.writeRtc (s : State) : State :=
  let t := s.nodeTime
  let now := s.mono
  (s.modAon (fun a => if a.powered then { a with
    rtcSec := t / second % 4294967296, rtcFrac := t % second * 32768 / second } else a)).modNtu
      (fun u => { u with rtcWriteAt := now })

/-- The RTC's time in ns (R85). -/
def AlwaysOn.time (a : AlwaysOn) : Nat := a.rtcSec * second + a.rtcFrac * second / 32768

/-- The trim that removes the rate at which the RTC gained on node time since its last write, in steps of 0.954 ppm
over ±488 ppm, to the nearest (R85, log 54). -/
def State.newTrim (s : State) : Int :=
  let gained : Int := (s.aon.time : Int) - s.nodeTime
  let span := s.mono - s.ntu.rtcWriteAt
  clampInt (-512) 511 (s.aon.trim - roundDiv (gained * 1000000000) (954 * span))

/-- RTC_HOURLY_WRITE (R85): the trim is a 10-bit signed number of 0.954 ppm steps. -/
def execRtcHourlyWrite (dt : Ticks) (s : State) : Host.Outcome State Fault Refusal :=
  let s := s.elapse dt
  .next (if s.legalRuns && s.ntu.status == .fine && s.since s.ntu.rtcWriteAt (3600 * second) then
      let trim := s.newTrim
      s.writeRtc.modAon (fun a => if a.powered then { a with trim := trim } else a)
    else s)

/-! ### Sync events (R140 to R143) -/

/-- The hold-off of 60 s after an accepted event runs (R141). -/
def State.inHoldoff (s : State) : Bool :=
  match s.sync.acceptedAt with
  | none => false
  | some t => !s.since t (60 * second)

/-- An event is ignored and counted (R141). -/
def State.ignoreSync (s : State) : State :=
  s.modSync (fun y => { y with ignored := satAdd 65535 y.ignored 1 })

/-- Source `src` (1 SYNC_IN, 2 SYNC_NOW, 3 SYNC_AT) is allowed by SYNC_SOURCES. -/
def State.syncAllowed (s : State) (src : Nat) : Bool := bit (s.pnum 0x8020) (src - 1)

/-- The reversal counter of every driver in AC mode and of every RTD source restarts: the next half-period is
positive (R108, R140). The chains restart with it, so the words of the half-period cut short are gone. -/
def State.restartReversals (s : State) : State :=
  let now := s.modDom.cycle
  { s with
    drivers := s.drivers.mapIdx (fun k d => if s.pnum (excId k 2) == 1 then { d with revBase := now } else d)
    sources := s.sources.map (fun _ => now) }

/-- An accepted sync event at node time `e` (R140, R143). -/
def State.syncEvent (s : State) (src e : Nat) : State :=
  let now := s.mono
  let ignored := s.sync.ignored
  let out := s.pnum 0x0020 == 1
  let s := s.modMod (fun m => { m with epochBase := m.cycle, stamps := [(m.cycle, e)] })
  let s := s.restartReversals.restartAll gapSync 0
  let s := s.modSync (fun y => { y with
    lastSource := src, lastE := e, acceptedAt := some now, ignored := 0, outHigh := out })
  let s := s.logEvent 0x0A 0x01 0xFF ([byte src, 0] ++ leBytes 2 ignored ++ zeros 4 ++ leBytes 8 e)
  let s := s.tell (.syncEvent src e)
  if out then s.emit (.syncOut e) else s

/-- SYNC_IN_EDGE (R141, Table 5.11): E is three modulator clocks, 122.07 ns, after the edge D. -/
def execSyncInEdge (dt : Ticks) (lowLow highHigh : Bool) (s : State) : Host.Outcome State Fault Refusal :=
  let s := s.elapse dt
  .next (if !(lowLow && highHigh) || s.modDom.source == .stopped || !s.legalRuns then s
    else if !s.syncAllowed 1 || s.inHoldoff then s.ignoreSync
    else s.syncEvent 1 (s.nodeTime + 122))

/-- SYNC_AT_FIRE (R73, R141, Table 5.12): the comparator fires 81.4 ns before `t`; E lies `afterPs`
picoseconds after `t`, 40.7 ns at most. -/
def execSyncAtFire (dt : Ticks) (afterPs : Nat) (s : State) : Host.Outcome State Fault Refusal :=
  let s := s.elapse dt
  match s.sync.armed with
  | none => .next s
  | some (t, call) =>
    .next (if s.nodeTime + 82 < t then s
      else
        let done (s : State) (st : Nat) (result : Bytes) : State :=
          match s.hawk.inFlight.find? (fun f => f.call == call && f.opcode == 0x0203 && f.accepted) with
          | none => s
          | some f => s.respond f st result
        let s := s.modSync (fun y => { y with armed := none })
        let e := t + min afterPs 40700 / 1000
        if s.modDom.source = .stopped || !s.legalRuns then done s stFault []
        else if !s.syncAllowed 3 then done s.ignoreSync stDeniedState []
        else if s.inHoldoff then done s.ignoreSync stBusy []
        else done (s.syncEvent 3 e) stDone (leBytes 8 e))

end Sys2Proof.Machine
end

