-- ==== Sys2Proof/Machine/Numeric.lean ====
section
/-! DEFINITION. The real arithmetic of R184, R191 and R171 in IEEE 754 binary64 (log 10), and region 1
of IAPWS-IF97 (R191, log 11). -/

namespace Sys2Proof.Machine

/-- The nearest integer of a binary64 value. -/
def floatRound (x : Float) : Int :=
  if x < 0 then -((-x).round.toUInt64.toNat : Int) else (x.round.toUInt64.toNat : Int)

def ofInt (i : Int) : Float := if i < 0 then -(Float.ofNat i.natAbs) else Float.ofNat i.natAbs

def pi64 : Float := 3.141592653589793

/-- A whole power, negative exponents included. -/
def floatPow (x : Float) (n : Int) : Float :=
  let p := iter (· * x) n.natAbs 1.0
  if n < 0 then 1.0 / p else p

def floatSum (l : List Float) : Float := l.foldl (· + ·) 0.0

/-- A complex number. -/
structure Phasor where
  re : Float
  im : Float

def Phasor.turn (z : Phasor) (angle : Float) : Phasor :=
  let c := Float.cos angle
  let d := Float.sin angle
  ⟨z.re * c - z.im * d, z.re * d + z.im * c⟩

def Phasor.abs2 (z : Phasor) : Float := z.re * z.re + z.im * z.im

/-- `0 .. n - 1` paired with the samples. -/
def numbered {α : Type} (l : List α) : List (Nat × α) := (upTo l.length).zip l

/-- The rms phasor X_h of N samples (R184). -/
def dft (xs : List Float) (h : Nat) : Phasor :=
  let n := Float.ofNat xs.length
  let scale := if h = 0 then 1.0 / n else Float.sqrt 2.0 / n
  let angle (k : Nat) : Float := 2.0 * pi64 * Float.ofNat (h * k) / n
  ⟨scale * floatSum ((numbered xs).map (fun x => x.2 * Float.cos (angle x.1))),
   -(scale * floatSum ((numbered xs).map (fun x => x.2 * Float.sin (angle x.1))))⟩

/-! ### IAPWS-IF97, region 1 -/

/-- The rows I, J, n of region 1. -/
def if97a : List (Nat × Int × Float) :=
  [(0, -2, 0.14632971213167), (0, -1, -0.84548187169114), (0, 0, -3.7563603672040),
   (0, 1, 3.3855169168385), (0, 2, -0.95791963387872), (0, 3, 0.15772038513228),
   (0, 4, -0.016616417199501), (0, 5, 0.00081214629983568), (1, -9, 0.00028319080123804),
   (1, -7, -0.00060706301565874), (1, -1, -0.018990068218419), (1, 0, -0.032529748770505),
   (1, 1, -0.021841717175414), (1, 3, -0.000052838357969930), (2, -3, -0.00047184321073267),
   (2, 0, -0.00030001780793026), (2, 1, 0.000047661393906987)]

def if97b : List (Nat × Int × Float) :=
  [(2, 3, -4.4141845330846e-6), (2, 17, -7.2694996297594e-16), (3, -4, -3.1679644845054e-5),
   (3, 0, -2.8270797985312e-6), (3, 6, -8.5205128120103e-10), (4, -5, -2.2425281908000e-6),
   (4, -2, -6.5171222895601e-7), (4, 10, -1.4341729937924e-13), (5, -8, -4.0516996860117e-7),
   (8, -11, -1.2734301741641e-9), (8, -6, -1.7424871230634e-10), (21, -29, -6.8762131295531e-19),
   (23, -31, 1.4478307828521e-20), (29, -38, 2.6335781662795e-23), (30, -39, -1.1947622640071e-23),
   (31, -40, 1.8228094581404e-24), (32, -41, -9.3537087292458e-26)]

/-- Specific enthalpy in kJ/kg and specific volume in m³/kg at a temperature in °C and a pressure in
MPa. -/
def if97 (celsius p : Float) : Float × Float :=
  let t := celsius + 273.15
  let tau := 1386.0 / t
  let pi := p / 16.53
  let r := 0.461526
  let term (f : Nat × Int × Float → Float) : Float := floatSum ((if97a ++ if97b).map f)
  let gTau := term (fun x => x.2.2 * floatPow (7.1 - pi) x.1 * ofInt x.2.1 * floatPow (tau - 1.222) (x.2.1 - 1))
  let gPi := term (fun x => if x.1 = 0 then 0.0
    else -(x.2.2 * Float.ofNat x.1 * floatPow (7.1 - pi) (x.1 - 1 : Nat) * floatPow (tau - 1.222) x.2.1))
  (r * t * tau * gTau, r * t / (p * 1000.0) * pi * gPi)

/-- A temperature in 2^-32 °C. -/
def celsius (t : Int) : Float := ofInt t / 4294967296.0

/-- h(θs) - h(θr) over v(θf), in kJ/m³, at 1.6 MPa (R191). -/
def heatDensity (supply back flow : Int) : Float :=
  ((if97 (celsius supply) 1.6).1 - (if97 (celsius back) 1.6).1) / (if97 (celsius flow) 1.6).2

/-- The heat in 2^-32 Wh, signed, of a volume in 2^-32 mL (R191): 1 kJ/m³ is 10^-6 kJ/mL, and 3.6 kJ
are 1 Wh. -/
def heatOf (supply back flow : Int) (vol : Nat) : Int :=
  floatRound (Float.ofNat vol * heatDensity supply back flow * 1.0e-6 / 3.6)

end Sys2Proof.Machine
end

