-- ==== Sys2Proof/Machine/Energy.lean ====
section
/-! DEFINITION. The analysis cycle of an ELEC metering point and its harmonic records (R181 to R187,
R195). -/

namespace Sys2Proof.Machine

/-- The samples of a channel from an instant on. -/
def samplesFrom (c : Channel) (t : Nat) : List Record := c.cycle.filter (fun r => decide (t ≤ r.instant))

/-- The voltage channel and the current channel of phase `ph` (0 to 2). -/
def phaseChannels (b : Bytes) (ph : Nat) : Nat × Nat := (bindPch b ph, bindPch b (3 + ph))

/-- The phases of an ELEC binding. -/
def phaseCount (b : Bytes) : Nat := if bindSub b = 0 then 3 else 1

/-! ### Where a cycle begins and ends (R181 to R183, R200) -/

/-- A cycle found in the samples: its start and end in node time, whether it holds LINE_HOLD. -/
structure Span where
  start : Nat
  stop : Nat
  hold : Bool
  deriving DecidableEq, Repr

/-- The positive-going crossings of a voltage's samples, in ns. -/
def crossingsOf : Crossing → List Record → List Nat
  | _, [] => []
  | c, r :: rest =>
    let n := c.feed r.value (r.instant * 65536)
    if n.2 then (n.1.latest.getD 0 / 65536) :: crossingsOf n.1 rest else crossingsOf n.1 rest

def goodSpan (a b : Nat) : Bool := goodPeriod ((b - a) * 65536)

/-- Three crossings in a row with two good periods. -/
def twoGood : List Nat → Bool
  | x :: y :: z :: rest => (goodSpan x y && goodSpan y z) || twoGood (y :: z :: rest)
  | _ => false

/-- Where a point's first cycle may begin: the earliest instant at which every legal channel had a settled output
under the binding record in force (R200). -/
def State.cyclesMayBegin (s : State) (m : Nat) : Option Nat :=
  let legal := bindLegal (s.binding m)
  let heads := legal.filterMap (fun k =>
    ((samplesFrom (s.channel k) (s.point m).cyclesFrom).head?).map (·.instant))
  if heads.length = legal.length ∧ legal ≠ [] then some (heads.foldl max 0) else none

/-- LINE mode: N_a outputs and the first of the next block (R181). -/
def State.lineSpan (s : State) (m : Nat) : Option Span :=
  let b := s.binding m
  let legal := bindLegal b
  let n := (s.chain (bindPch b 0)).lineN
  match (s.point m).cycleStart <|> s.cyclesMayBegin m with
  | none => none
  | some start =>
    let long := legal.all (fun k => decide (n < (samplesFrom (s.channel k) start).length))
    match samplesFrom (s.channel (bindPch b 0)) start with
    | [] => none
    | first :: rest =>
      match (first :: rest).drop n with
      | [] => none
      | r :: _ =>
        if long then
          some ⟨first.instant, r.instant, legal.any (fun k =>
            ((samplesFrom (s.channel k) start).take n).any (fun q => q.status &&& stLineHold != 0))⟩
        else none

/-- 33.3 ms (R183). -/
def missingNs : Nat := 33300000

/-- TIME mode, crossing to crossing from `a`: `zs` are the crossings of the reference voltage from `a` on and
`last` its latest sample. A crossing missing for 33.3 ms or a period out of range gives a cycle of
`nominal` (R182, R183). -/
def freeSpan (a last nominal : Nat) (zs : List Nat) : Option Span :=
  match zs.find? (fun z => decide (a < z)) with
  | some z => if goodSpan a z then some ⟨a, z, false⟩ else some ⟨a, a + nominal, true⟩
  | none => if last < a + missingNs then none else some ⟨a, a + nominal, true⟩

/-- TIME mode (R182, R183, R200). The first cycle, and the first after cycles of 1 / F_NOM, begins at a crossing;
with none for 33.3 ms from the point where it is looked for, the cycles of 1 / F_NOM begin there. They go on
until two good periods have passed (log 55). -/
def State.timeSpan (s : State) (m : Nat) : Option Span :=
  let b := s.binding m
  let p := s.point m
  let samples := (s.channel (phaseChannels b p.refPhase).1).cycle
  let last := (samples.getLast?.map (·.instant)).getD 0
  let zs := crossingsOf Crossing.reset samples
  let nominal := second / max 1 (field (s.paramNow (pointId m 0x80)) 0 2)
  let room := 8 * (s.chain (bindPch b 0)).period
  let fresh (t : Nat) : Option Span :=
    match zs.find? (fun z => decide (t ≤ z)) with
    | some z => freeSpan z last nominal zs
    | none => if last < t + missingNs then none else some ⟨t, t + nominal, true⟩
  let span : Option Span := match p.cycleStart with
    | none => (s.cyclesMayBegin m).bind fresh
    | some a =>
      match p.cycleHold with
      | none => freeSpan a last nominal zs
      | some from_ => if twoGood (zs.filter (fun z => decide (from_ ≤ z ∧ z ≤ a))) then fresh a
        else some ⟨a, a + nominal, true⟩
  match span with
  | none => none
  | some w =>
    if (bindLegal b).all (fun k =>
        ((s.channel k).cycle.getLast?).any (fun r => decide (w.stop + room ≤ r.instant))) then some w
    else none

/-- The cycle that is complete and not yet analysed. -/
def State.cycleSpan (s : State) (m : Nat) : Option Span :=
  if (s.chain (bindPch (s.binding m) 0)).mode = 1 then s.lineSpan m else s.timeSpan m

/-! ### Samples across the cycle -/

/-- Sixteen samples around index `i`, newest first, as the resampler takes them; what comes before the first
settled sample is 0, as every output before it was (R138). -/
def window (l : List Int) (i : Nat) : List Int :=
  ((List.replicate 7 0 ++ l).drop i |>.take 16).reverse

/-- A channel's N_a values over the cycle: its outputs in LINE mode, 128 interpolated points in TIME
mode (R182). -/
def State.cycleValues (s : State) (k : Nat) (w : Span) : List Int :=
  let c := s.chain k
  if c.mode = 1 then ((samplesFrom (s.channel k) w.start).take c.lineN).map (·.value)
  else
    let xs := (s.channel k).cycle
    let t0 := (xs.head?.map (·.instant)).getD 0
    let period := max 1 c.period
    (upTo 128).map (fun j =>
      let p := ((w.start - t0) * 128 + (w.stop - w.start) * j) * 4294967296 / (128 * period)
      resample (window (xs.map (·.value)) (p / 4294967296)) p)

/-- Every sample of the legal channels in the cycle may be used (R199). -/
def State.cycleGood (s : State) (m : Nat) (w : Span) : Bool :=
  (bindLegal (s.binding m)).all (fun k =>
    (((s.channel k).cycle).filter (fun r => decide (w.start ≤ r.instant ∧ r.instant < w.stop))).all
      Record.good)

/-! ### Power (R184 to R187) -/

/-- What a cycle gives for a phase or in total, in binary64. -/
structure Power where
  vrms : Float
  irms : Float
  p : Float
  q : Float
  s : Float

def Power.zero : Power := ⟨0.0, 0.0, 0.0, 0.0, 0.0⟩

/-- I'_h (R184): ρ_h is defined for h ≥ 1. -/
def correctCurrent (i : Phasor) (h : Nat) (tau t : Float) (rogowski : Bool) : Phasor :=
  if h = 0 then i
  else
    let rho := if rogowski then Float.atan (0.020 / (Float.ofNat h / t)) else 0.0
    i.turn (2.0 * pi64 * Float.ofNat h * tau / t - rho)

/-- P, Q and S of one phase from its volts and amperes over a cycle of `t` seconds (R184). -/
def phasePower (vs as : List Float) (tau t : Float) (rogowski : Bool) : Power :=
  let hs := upTo (vs.length / 2)
  let pairs := hs.map (fun h => (h, dft vs h, correctCurrent (dft as h) h tau t rogowski))
  let p := floatSum (pairs.map (fun x => x.2.1.re * x.2.2.re + x.2.1.im * x.2.2.im))
  let q := floatSum (pairs.map (fun x =>
    if x.1 = 0 then 0.0 else x.2.1.im * x.2.2.re - x.2.1.re * x.2.2.im))
  let v := Float.sqrt (floatSum (pairs.map (fun x => x.2.1.abs2)))
  let i := Float.sqrt (floatSum (pairs.map (fun x => x.2.2.abs2)))
  ⟨v, i, p, q, v * i⟩

/-- A Q32.32 factor in nV or nA per code, in V or A per code. -/
def codeUnit (k : Nat) : Float := Float.ofNat k / 4294967296.0 * 1.0e-9

/-- One phase of a metering point over a cycle; below the starting threshold P, Q and S are 0 (R185). -/
def State.phaseOf (s : State) (m ph : Nat) (w : Span) : Power :=
  let b := s.binding m
  let cal := calPhase (s.calBlock m) ph
  let ch := phaseChannels b ph
  let volts := (s.cycleValues ch.1 w).map (fun x => ofInt x * codeUnit cal.1)
  let amps := (s.cycleValues ch.2 w).map (fun x => ofInt x * codeUnit cal.2.1)
  let t := Float.ofNat (w.stop - w.start) * 1.0e-9
  let r := phasePower volts amps (ofInt cal.2.2 * 1.0e-12) t (s.rogowski ch.2)
  let full := codeUnit cal.2.1 * 1073741824.0 / Float.sqrt 2.0
  let start := Float.ofNat (field (s.paramNow (pointId m 0x80)) 2 2) * full / 1.0e6
  if r.irms < start then { r with p := 0.0, q := 0.0, s := 0.0 } else r

/-- The totals: arithmetic sums over the phases (R185). -/
def totalPower (l : List Power) : Power :=
  ⟨0.0, 0.0, floatSum (l.map (·.p)), floatSum (l.map (·.q)), floatSum (l.map (·.s))⟩

/-- The quantity-directions that a power accrues to, with the magnitude for each (Table 7.3). -/
def directions (w : Power) : List (Nat × Float) :=
  let active := if w.p < 0.0 then 1 else 0
  let quadrant := if w.q > 0.0 then (if w.p < 0.0 then [(3, w.q)] else [(2, w.q)])
    else if w.q < 0.0 then (if w.p < 0.0 then [(4, -w.q)] else [(5, -w.q)]) else []
  [(active, Float.abs w.p)] ++ quadrant ++ [(6 + active, w.s)]

/-- A power over `ns` nanoseconds in 2^-32 of mWh, mvarh or mVAh: 3.6 J are 1 mWh. -/
def energyUnits (x : Float) (ns : Nat) : Nat :=
  (floatRound (x * Float.ofNat ns * 1.0e-9 / 3.6 * 4294967296.0)).toNat

/-- One scope's amounts of a cycle, split at the coming whole second in proportion to time (R193). -/
def State.accrueScope (s : State) (m scope : Nat) (w : Power) (span : Span) : State :=
  let due := s.nextSecond
  let before := min span.stop due - span.start
  let total := span.stop - span.start
  (directions w).foldl (fun s d =>
    let all := energyUnits d.2 total
    let now := if total = 0 then 0 else all * before / total
    (s.gather m (8 * scope + d.1) now due).gather m (8 * scope + d.1) (all - now) (due + 1)) s

/-- A block of EXT 3 in 2^-16 of its units; `pf` is given since P / S is open where S is 0. -/
def blockOf (w : Power) (pf : Int) (ns : Nat) : PhaseMean :=
  { vrms := (floatRound (w.vrms * 1.0e6 * 65536.0)).toNat
    irms := (floatRound (w.irms * 1.0e6 * 65536.0)).toNat
    p := floatRound (w.p * 10.0 * 65536.0)
    q := floatRound (w.q * 10.0 * 65536.0)
    s := floatRound (w.s * 10.0 * 65536.0)
    pf := pf
    freq := if ns = 0 then 0 else 65536 * 1000000000000 / ns }

/-- The power factor of a cycle in 2^-16 of 1/10,000: a free value where S is 0 (log 9). -/
def State.powerFactor (s : State) (w : Power) : Int × State :=
  if w.s > 0.0 then (floatRound (w.p / w.s * 10000.0 * 65536.0), s)
  else
    let d := s.drawFree 16
    (d.1.toInt * 65536, d.2)

def PhaseMean.zero : PhaseMean := ⟨0, 0, 0, 0, 0, 0, 0⟩

/-- The blocks of the total and of the phases, with zeros for L2 and L3 of a single-phase point. -/
def State.blocksOf (s : State) (ns : Nat) : List Power → List PhaseMean × State
  | [] => ([], s)
  | w :: rest =>
    let f := s.powerFactor w
    let r := State.blocksOf f.2 ns rest
    (blockOf w f.1 ns :: r.1, r.2)

/-- The parts of a cycle go to the seconds they fall in (R187). -/
def State.noteMeans (s : State) (m : Nat) (ws : List Power) (span : Span) : State :=
  let r := s.blocksOf (span.stop - span.start) ws
  let blocks := r.1 ++ List.replicate (4 - r.1.length) PhaseMean.zero
  let sec := (span.start / second + 1) * second
  let parts := if span.stop ≤ sec then [(sec, span.stop - span.start, blocks)]
    else [(sec, sec - span.start, blocks), (sec + second, span.stop - sec, blocks)]
  r.2.modPoint m (fun p => { p with cycles := p.cycles ++ parts })

/-- The reference voltage of the next cycle (R182): the one in use while it peaks at 10 % FS, else the next; after
L3, for which the rule names none, L1 again (DESIGN CHOICE, log 55). -/
def State.nextRef (s : State) (m : Nat) (span : Span) : Nat :=
  let b := s.binding m
  let ref := (s.point m).refPhase
  let peak : Int := (((s.channel (phaseChannels b ref).1).cycle.filter (fun r =>
      decide (span.start ≤ r.instant ∧ r.instant < span.stop))).map (fun r => (r.value.natAbs : Int))).foldl
        max 0
  if 1073741824 ≤ 10 * peak then ref else (ref + 1) % phaseCount b

/-- A complete cycle is analysed (R184 to R187, R199). What spoils it are its own samples, and a cause that keeps the
point from accruing at all: a register fault, a calibration fault, a pause, a store that does not serve. -/
def State.analyse (s : State) (m : Nat) (span : Span) : State :=
  let b := s.binding m
  let good := s.cycleGood m span && !(s.point m).regFault && !s.calFaulty m && s.boot.pauseFrom.isNone &&
    s.legal.faulted.isEmpty && s.chainsAgree m
  let next := s.nextRef m span
  let s := s.modPoint m (fun p => { p with
    cycleStart := some span.stop, refPhase := next
    cycleHold := if span.hold then p.cycleHold <|> some span.start else none })
  if !good then s
  else
    let phases := (upTo (phaseCount b)).map (fun ph => s.phaseOf m ph span)
    let total := totalPower phases
    let s := s.accrueScope m 0 total span
    let s := if phaseCount b = 3 then
        (numbered phases).foldl (fun s x => s.accrueScope m (x.1 + 1) x.2 span) s
      else s
    let s := s.noteMeans m (total :: phases) span
    s.modPoint m (fun p => { p with
      lastCycle := some span.stop, now := if span.hold then p.now ||| mLineHold else p.now })

/-- ANALYSIS_CYCLE (R184): acts when the samples complete a cycle. -/
def execAnalysisCycle (dt : Ticks) (mp : Nat) (s : State) : Host.Outcome State Fault Refusal :=
  let s := s.elapse dt
  .next (if mp < 4 && s.mpType mp == typeElec && s.legalRuns then
      match s.cycleSpan mp with
      | none => s
      | some w => s.analyse mp w
    else s)

/-! ### The averages of READ_STATUS (R187) -/

/-- The mean of values with weights, in 2^-16 of a unit, to the nearest unit. -/
def weightedMean (l : List (Nat × Int)) : Int :=
  roundDiv ((l.map (fun x => (x.1 : Int) * x.2)).sum) (65536 * (l.map (·.1)).sum)

def meanBlock (l : List (Nat × PhaseMean)) : PhaseMean :=
  let mean (f : PhaseMean → Int) : Int := weightedMean (l.map (fun x => (x.1, f x.2)))
  { vrms := (mean (fun b => b.vrms)).toNat, irms := (mean (fun b => b.irms)).toNat, p := mean (·.p)
    q := mean (·.q), s := mean (·.s), pf := mean (·.pf), freq := (mean (fun b => b.freq)).toNat }

/-- The averages over the second that ends at `sec`; without a cycle in it the last ones stay. -/
def MeterPoint.publish (p : MeterPoint) (sec : Nat) : MeterPoint :=
  let mine := p.cycles.filter (fun c => c.1 == sec)
  let rest := p.cycles.filter (fun c => decide (sec < c.1))
  if mine.isEmpty then { p with cycles := rest }
  else
    { p with
      cycles := rest
      means := some (sec, (upTo 4).map (fun i =>
        meanBlock (mine.map (fun c => (c.2.1, c.2.2.getD i PhaseMean.zero))))) }

end Sys2Proof.Machine
end

