-- ==== Sys2Proof/Machine/Commit.lean ====
section
/-! DEFINITION. Commits, the heat of a second, profile intervals, node-time steps and calendar
activation (R191 to R194, R234 to R254). -/

namespace Sys2Proof.Machine

/-! ### The heat of a second (R191, Table 7.5) -/

/-- The mean of the samples whose instants lie in `[from, to)`. -/
def meanIn (l : List (Nat × Int)) (lo hi : Nat) : Option Int :=
  let xs := (l.filter (fun x => decide (lo ≤ x.1 ∧ x.1 < hi))).map (·.2)
  if xs.isEmpty then none else some (xs.sum / (xs.length : Int))

/-- 2 °C to 180 °C, in 2^-32 °C. -/
def inTempRange (t : Int) : Bool := 2 * 4294967296 ≤ t && t ≤ 180 * 4294967296

/-- The temperatures of the second that ends at `sec`, where both are valid and in range. -/
def MeterPoint.temps (p : MeterPoint) (sec : Nat) : Option (Int × Int) :=
  match meanIn p.supply (sec - second) sec, meanIn p.back (sec - second) sec with
  | some a, some b => if inTempRange a && inTempRange b then some (a, b) else none
  | _, _ => none

/-- A temperature gap begins with the second, or goes on (R34, Table 7.5). -/
def State.openTempGap (s : State) (m sec : Nat) : State :=
  s.modPoint m (fun p => { p with
    now := p.now ||| mTempRange ||| mIncomplete
    gap := match p.gap with
      | none => some ⟨sec - second, gapTemp, 0⟩
      | some g => some g })

/-- A temperature gap ends where the good second began. -/
def State.closeTempGap (s : State) (m sec : Nat) : State :=
  match (s.point m).gap with
  | none => s
  | some g =>
    if g.kind = gapTemp then
      (s.logEvent 0x09 0x01 m (leBytes 8 g.start ++ leBytes 8 (sec - second) ++ [byte g.kind, 0] ++
        leBytes 2 g.fault)).modPoint m (fun p => { p with gap := none })
    else s

/-- The heat that a second's volume and temperatures give: the amount's index and its 2^-32 Wh (R191). -/
def State.heatAmount (s : State) (m : Nat) (a b : Int) (vol : Nat) : Option (Nat × Nat) :=
  let cfg := s.paramNow (pointId m 0xB0)
  let dtMin := field cfg 6 2
  let coolMax := sfield cfg 8 2
  let e := heatOf a b (if field cfg 4 1 = 1 then a else b) vol
  if (a - b).natAbs * 1000 < dtMin * 4294967296 then none
  else if 0 ≤ e then some (0, e.toNat)
  else if coolMax = 0x7FFF ∨ 100 * a ≤ coolMax * 4294967296 then some (1, e.natAbs)
  else none

/-- The heat copies of a second let go, and the volume of the second after it taken up. -/
def State.dropHeatSecond (s : State) (m sec : Nat) : State :=
  s.modPoint m (fun p => { p with
    supply := p.supply.filter (fun x => decide (sec ≤ x.1))
    back := p.back.filter (fun x => decide (sec ≤ x.1))
    volFwd := p.volNext, volNext := 0 })

/-- The heat amount of a second added, where there is one. -/
def State.addHeat (s : State) (m : Nat) (x : Option (Nat × Nat)) : State :=
  match x with
  | none => s
  | some (i, e) => s.modPoint m (fun p => { p with amounts := modAt p.amounts i (· + e) })

/-- One heat second (Table 7.5). -/
def State.heatSecond (s : State) (m sec : Nat) : State :=
  match (s.point m).temps sec with
  | none => (s.openTempGap m sec).dropHeatSecond m sec
  | some (a, b) =>
    let u := s.closeTempGap m sec
    (u.addHeat m (u.heatAmount m a b (s.point m).volFwd)).dropHeatSecond m sec

/-! ### The registers (R193, R232, R235) -/

/-- The whole units of an amount. -/
def wholeUnits (a : Nat) : Nat := a / 4294967296

/-- The amounts to commit: all that is gathered up to the second, and with `all` the part after it. -/
def MeterPoint.due (p : MeterPoint) (all : Bool) : List Nat :=
  if all then List.zipWith (· + ·) p.amounts p.carried else p.amounts

/-- The registers with whole units added under a tariff of 1 to 8. -/
def addRegs (regs amounts : List Nat) (tariff : Nat) : List Nat :=
  (numbered amounts).foldl (fun r x => modAt r (8 * x.1 + tariff - 1) (fun v => min regMax (v + wholeUnits x.2)))
    regs

/-- The registers that an addition takes beyond 2^64 - 1. -/
def saturating (k : BankCopy) (amounts : List Nat) (tariff : Nat) : List Nat :=
  ((numbered amounts).filter (fun x => decide (regMax < k.reg (8 * x.1 + tariff - 1) + wholeUnits x.2))).map
    (fun x => 8 * x.1 + tariff - 1)

/-- The bank of a commit (Table 9.4). -/
def State.newBank (s : State) (m sec tariff : Nat) (amounts : List Nat) : BankCopy :=
  let k := (s.point m).bank
  let none_ := s.mpType m == 0
  { gen := (k.gen + 1) % 4294967296, mp := m, type := if none_ then k.type else s.mpType m
    subtype := if none_ then k.subtype else s.mpSub m
    tstat := s.ntu.status.code, commitS := sec, tariff := tariff
    saturated := k.saturated || !(saturating k amounts tariff).isEmpty
    wasReset := k.wasReset && amounts.all (fun a => wholeUnits a == 0)
    regs := addRegs k.regs amounts tariff, intact := true }

/-- LOG/REG_SATURATED for each register that first saturates (R232), with the origin of what caused it (R29). -/
def State.logSaturation (s : State) (origin m : Nat) (k : BankCopy) (keys : List Nat) : State :=
  keys.foldl (fun s i =>
    if k.reg i < regMax || !k.saturated then
      s.logAt s.nodeTime false 0x10 0x06 origin m (leBytes 2 (256 * m + i))
    else s) s

/-! ### Profile intervals (R245, R246, R250, R251, R253) -/

/-- The quantity-directions that have a profile reading (R246). -/
def profileQds (type sub : Nat) : Nat := if type = 2 ∧ sub = 0 then 1 else qdCount type

/-- The opening sums of a bank, per quantity-direction. -/
def BankCopy.sums (k : BankCopy) : List Nat := (upTo 8).map k.sum

/-- One profile reading of quantity-direction `qd` (Tables 10.2 and 10.7), with the pedigree and the
PROFILE_PERIOD of the close. -/
def State.profileReading (s : State) (g : Pedigree) (period m qd at_ tstat : Nat) (flags : Word) : State :=
  let p := s.point m
  let k := p.bank
  let open_ := p.openSums.getD qd 0
  let opened := p.openAt.getD k.commitS
  let e := s.sum64 (k.sum qd)
  let v := e.2.sum64 (k.sum qd - open_)
  v.2.scheduleReading g
    { kind := 3, mp := m, quantity := (qdCodes k.type qd).1, direction := (qdCodes k.type qd).2
      tariff := 0, scope := 0, tstat := tstat, time := at_, value := leNat v.1, mstat := flags
      type := k.type, subtype := k.subtype, gen := k.gen
      data := leBytes 4 ((at_ - opened + second / 2) / second) ++
        leBytes 2 period ++ zeros 2 ++ leBytes 8 opened ++ e.1 }

/-- The open interval closes at node time `at_` with the bank now in use, a pedigree, a period and more flags. -/
def State.closeInterval (s : State) (g : Pedigree) (period m at_ : Nat) (more : Word) : State :=
  let p := s.point m
  match p.openAt with
  | none => s
  | some _ =>
    let k := p.bank
    let flags := p.interval ||| more ||| (if p.openShort then mShort else 0)
    let s := (upTo (profileQds k.type k.subtype)).foldl
      (fun s qd => s.profileReading g period m qd at_ k.tstat flags) s
    s.modPoint m (fun p => { p with openAt := none, interval := 0 })

/-- PROFILE_PERIOD in force. -/
def State.periodNow (s : State) (m : Nat) : Nat := leNat (s.paramNow (pointId m 0x08))

/-- An interval opens at the commit of `sec` (R246); with no profile, none does, and no flag waits for one. -/
def State.openInterval (s : State) (m sec : Nat) : State :=
  let period := s.periodNow m
  if period = 0 then s.modPoint m (fun p => { p with interval := 0 })
  else
    s.modPoint m (fun p => { p with
      openAt := some sec, openSums := p.bank.sums, openPeriod := period
      openShort := sec % (period * 60000000000) != 0 })

/-- The profile at a commit. -/
def State.profileStep (s : State) (m sec : Nat) : State :=
  let p := s.point m
  let period := s.periodNow m
  match p.openAt with
  | none => s.openInterval m sec
  | some _ =>
    if p.openPeriod ≠ period then (s.closeInterval s.pedigree period m sec mShort).openInterval m sec
    else if sec % (period * 60000000000) = 0 then
      (s.closeInterval s.pedigree period m sec 0).openInterval m sec
    else s

/-! ### A commit (R193, R235) -/

/-- The flags of the second that ends, and the seed of the next. -/
def State.closeSecond (s : State) (m : Nat) : State :=
  let w := (s.point m).now ||| s.standing m
  s.modPoint m (fun p => { p with
    mstat := w
    interval := if p.openAt.isSome then p.interval ||| w else p.interval
    now := if p.gap.isSome then mIncomplete else 0 })

/-- The bank of one metering point is committed for the second `sec`. -/
def State.commitBank (s : State) (m sec tariff : Nat) (all : Bool) : State :=
  let p := s.point m
  let amounts := p.due all
  let k := s.newBank m sec tariff amounts
  let rest := amounts.map (· % 4294967296)
  let next := if all then List.replicate 32 0 else p.carried
  let s := s.logSaturation 0xFF m p.bank (saturating p.bank amounts tariff)
  s.modPoint m (fun p => { (p.putBank k).publish sec with
    amounts := List.zipWith (· + ·) rest next, carried := List.replicate 32 0 })

/-- One metering point at the commit of `sec` (R235, R248, R254). What a point delivered before its type became NONE still
enters the bank of its old type (R36, R120). -/
def State.commitPoint (s : State) (m sec tariff : Nat) (all : Bool) : State :=
  if s.mpType m = 0 then
    let p := s.point m
    let left := !p.regFault && (p.due all).any (fun a => wholeUnits a != 0)
    (if left then s.commitBank m sec tariff all else s).modPoint m (fun p => { p with openAt := none, now := 0 })
  else if (s.point m).regFault then s.closeSecond m
  else
    let s := if s.mpType m = typeHeat then s.heatSecond m sec else s
    (s.commitBank m sec tariff all).closeSecond m

/-- A component in TRIAL counts its consecutive commits (Table 18.5): `whole` where every metering point committed. -/
def Component.countCommit (whole : Bool) (c : Component) : Component :=
  if c.trialSince.isSome then { c with trialCommits := if whole then c.trialCommits + 1 else 0 } else c

/-- Every metering point commits for `sec`; records and calibration terms that wait for the whole second come into
force (R204, R253). -/
def State.commitAll (s : State) (sec : Nat) (all : Bool) : State :=
  let tariff := s.tariffAt (sec - second)
  let s := (upTo 4).foldl (fun s m => s.commitPoint m sec tariff all) s
  let g := s.pedigree
  let s := s.modLegal (fun l => { l.enforceCal with lastCommit := sec, storedTime := sec, closing := g })
  let whole := (upTo 4).all (fun m => s.mpType m == 0 || !(s.point m).regFault)
  let s := s.modBoot (fun b => { b with components := b.components.map (Component.countCommit whole) })
  s.bringIntoForce (fun id => id == 0x3000 || id == 0x3010 ||
    (decide (0x2000 ≤ id ∧ id < 0x2400) && [0x08, 0x80, 0xA0, 0xB0].contains (id % 256)))

/-- The tariff of the second that begins at `sec` is in force; a switch goes to the AC (R28, R238). -/
def State.takeTariff (s : State) (sec : Nat) : State :=
  let t := s.tariffAt sec
  if s.legal.tariff = t then s
  else (s.modLegal (fun l => { l with tariff := t })).tell (.tariffSwitch t sec)

/-- A whole commit: banks, profile, tariff. -/
def State.commitAt (s : State) (sec : Nat) (all : Bool) : State :=
  let s := s.commitAll sec all
  ((upTo 4).foldl (fun s m =>
    if s.mpType m = 0 || (s.point m).regFault then s else s.profileStep m sec) s).takeTariff sec

/-- The cycles that end or straddle the whole second `sec` have been analysed at an ELEC point, so that they can be split
there (R193). -/
def State.cyclesIn (s : State) (m sec : Nat) : Bool :=
  s.mpType m != typeElec || (s.point m).cycleStart.all (fun t => decide (sec ≤ t))

/-- The commit of `sec` may run: the second has come, and its cycles are in, or 100 ms have gone by (R193, log 52). -/
def State.commitReady (s : State) (sec : Nat) : Bool :=
  decide (sec ≤ s.nodeTime) &&
    (decide (sec + 100 * milli ≤ s.nodeTime) || (upTo 4).all (fun m => s.cyclesIn m sec))

/-- COMMIT_SECOND (R193): the next whole second of node time has come. -/
def execCommitSecond (dt : Ticks) (s : State) : Host.Outcome State Fault Refusal :=
  let s := s.elapse dt
  .next (if s.legalRuns && s.commitReady s.nextSecond then s.commitAt s.nextSecond false else s)

/-! ### Calendar activation (R244) -/

/-- The passive calendar becomes active at the minute boundary of the last commit. -/
def State.activateCalendar (s : State) : State :=
  let at_ := s.legal.lastCommit
  let old := s.legal.active
  let new := s.legal.passive
  let image (c : CalendarSlot) : Bytes := if c.state = 0 then zeros 8 else (sha256 c.bytes).take 8
  let s := s.logEvent 0x05 0x03 0xFF
    (leBytes 2 0x3100 ++ leBytes 2 1920 ++ image old ++ image new ++ leBytes 4 0xFFFFFFFF)
  (s.modLegal (fun l => { l with
    active := { bytes := new.bytes, state := 1, at_ := at_ }
    passive := { new with state := 2 } })).takeTariff at_

/-- CALENDAR_ACTIVATION (R244): between two commits, at a minute boundary. -/
def execCalendarActivation (dt : Ticks) (s : State) : Host.Outcome State Fault Refusal :=
  let s := s.elapse dt
  let l := s.legal
  .next (if s.legalRuns && s.ntu.status != .invalid && l.passive.state == 1 &&
      decide (l.passive.at_ ≤ l.lastCommit) && decide (l.activateFrom ≤ l.lastCommit) &&
      l.lastCommit % 60000000000 == 0 then s.activateCalendar
    else s)

/-! ### Node-time steps (R79, R80, R146, R194, R250, R252) -/

/-- The whole second that is current at `t`. -/
def currentSecond (t : Nat) : Nat := (t + second - 1) / second * second

def shiftNat (d : Int) (n : Nat) : Nat := ((n : Int) + d).toNat

def Record.shift (d : Int) (r : Record) : Record := { r with instant := shiftNat d r.instant }

/-- The instants that a channel keeps move with node time. -/
def Channel.shift (d : Int) (c : Channel) : Channel :=
  { c with
    lastGood := c.lastGood.map (shiftNat d)
    timeStep := true
    latest := c.latest.map (Record.shift d)
    recent := c.recent.map (Record.shift d)
    cycle := c.cycle.map (Record.shift d)
    line := { c.line with lastCrossing := c.line.lastCrossing.map (shiftNat (d * 65536)) }
    cross := { c.cross with
      prevInstant := shiftNat (d * 65536) c.cross.prevInstant
      zeroAt := c.cross.zeroAt.map (shiftNat (d * 65536))
      latest := c.cross.latest.map (shiftNat (d * 65536)) } }

/-- The instants that a metering point keeps move with node time. -/
def MeterPoint.shift (d : Int) (p : MeterPoint) : MeterPoint :=
  { p with
    cycleStart := p.cycleStart.map (shiftNat d)
    cycleHold := p.cycleHold.map (shiftNat d)
    lastCycle := p.lastCycle.map (shiftNat d)
    cyclesFrom := shiftNat d p.cyclesFrom
    harmSecond := none
    supply := p.supply.map (fun x => (shiftNat d x.1, x.2))
    back := p.back.map (fun x => (shiftNat d x.1, x.2))
    weigh := { p.weigh with
      window := p.weigh.window.map (fun x => { x with instant := shiftNat d x.instant })
      since := p.weigh.since.map (shiftNat d)
      lastPosition := p.weigh.lastPosition.map (shiftNat d)
      badAt := p.weigh.badAt.map (shiftNat d)
      latest := p.weigh.latest.map (fun x => { x with instant := shiftNat d x.instant }) }
    prov := { p.prov with
      lastTaken := p.prov.lastTaken.map (shiftNat d)
      accel := p.prov.accel.map (fun x => (shiftNat d x.1, x.2)) } }

/-- Node time takes a step of `d` ns in one cycle; what is measured by it moves along, so that no
duration changes (R80), and the TIME grids move to the stepped time (R146). -/
def State.stepTime (s : State) (d : Int) : State :=
  let s := s.modNtu (fun u => { u with
    acc := ((u.acc : Int) + d * 4294967296).toNat % 2 ^ 96, steps := u.steps + d, steppedSince := true })
  let s := s.modNtu (fun u => { u with latchAt := some (s.nodeTime / 10000000 * 10000000) })
  let s := s.modMod (fun m => { m with stamps := m.stamps.map (fun x => (x.1, shiftNat d x.2)) })
  let s := { s with
    channels := s.channels.map (Channel.shift d)
    points := s.points.map (MeterPoint.shift d)
    counters := s.counters.map (fun c => { c with latchTime := shiftNat d c.latchTime }) }
  (upTo 16).foldl (fun s n =>
    if (s.chain n).mode = 2 && (s.channel n).running then
      let g := s.nextGrid n ((s.channel n).rsPos - (s.chain n).step s.fMod)
      s.modChannel n (fun c => { c with rsPos := g.1 })
    else s) s

/-- The commit that a step needs first: the second then current, with every interval closed at the node
time before the step (R194, R250). -/
def State.commitBeforeStep (s : State) : State :=
  let now := s.nodeTime
  let s := s.commitAll (currentSecond now) true
  (upTo 4).foldl (fun s m =>
    if s.mpType m = 0 then s
    else
      let period := s.periodNow m
      (if (s.point m).regFault then s
       else s.closeInterval s.pedigree period m now (mTimeStep ||| mShort)).modPoint m (fun p => { p with
        openAt := none, interval := if period = 0 then 0 else mTimeStep ||| mShort })) s

/-- After a step, commits go on at the whole seconds of the stepped time, and the next minute boundary is the first that can
activate a calendar (R252). -/
def State.resumeCommits (s : State) : State :=
  let now := s.nodeTime
  let sec := now / second * second
  (s.modLegal (fun l => { l with lastCommit := sec, activateFrom := now })).takeTariff sec

end Sys2Proof.Machine
end

