-- ==== Sys2Proof/Machine/Weigh.lean ====
section
/-! DEFINITION. Trade weighing and the provisional path (chapter 6): positions, the indication,
stability, zero and tare, transactions, the canceller. -/

namespace Sys2Proof.Machine

/-! ### The indication (R156, R157) -/

/-- A mass of grams in mg. -/
def mg (g : Nat) : Int := (g : Int) * 1000

/-- The interval, in g, that a value in mg takes (R156). -/
def WgCfg.eOf (c : WgCfg) (v : Int) : Nat :=
  if c.twoRange then (if (v.natAbs : Int) ≤ mg c.max1 then c.e1 else c.e2) else c.e1

/-- A value in mg rounded to a multiple of its interval, in g. -/
def WgCfg.indicated (c : WgCfg) (v : Int) : Int := roundDiv v (c.eOf v * 1000) * c.eOf v

/-- G_f of the latest position with the zero now in force. -/
def Weigh.gross (w : Weigh) : Int :=
  match w.latest with
  | none => 0
  | some x => x.mass - w.zop

/-- N_f: G_f less the tare in force (R155). -/
def Weigh.net (w : Weigh) : Int :=
  match w.tare with
  | none => w.gross
  | some t => w.gross - t.mg

def WgCfg.overload (c : WgCfg) (g : Int) : Bool := mg (c.max + 9 * c.eTop) < g
def WgCfg.underload (c : WgCfg) (g : Int) : Bool := g < -(mg (20 * c.e1))

/-- Stable, which settling and INCOMPLETE exclude (R158). -/
def State.weighStable (s : State) (m : Nat) : Bool :=
  (s.point m).weigh.stable && (s.point m).gap.isNone

/-- The CENTRE_ZERO symbol (R162). -/
def State.centreZero (s : State) (m : Nat) : Bool :=
  let w := (s.point m).weigh
  w.zeroSet && w.tare.isNone && w.latest.isSome && decide (4 * (w.gross.natAbs : Int) ≤ mg (s.wg m).e1)

/-- The mean mass of the window, to the nearest mg. -/
def Weigh.windowMean (w : Weigh) : Int := roundDiv ((w.window.map (·.mass)).sum) w.window.length

/-- Max × `percent` / 100, in hundredths of a mg. -/
def WgCfg.percent (c : WgCfg) (percent : Nat) : Int := mg c.max * percent

/-! ### Positions (R155, R158) -/

/-- The record of channel `n` that represents the instant `t`: the one within half an output period. Cells that
restarted together give equal instants; for others the rule names no common one (DESIGN CHOICE, log 56). -/
def State.recordAt (s : State) (n t : Nat) : Option Record :=
  let period := (s.chain n).firCycles * second / s.fMod
  (s.channel n).recent.find? (fun r => decide (2 * ((r.instant : Int) - t).natAbs < period))

/-- The records of all of `cells` at one output position beyond `last`, the earliest that each has (R155). -/
def State.commonRecords (s : State) (cells : List Nat) (last : Option Nat) : Option (List Record) :=
  match cells with
  | [] => none
  | k :: rest =>
    (((s.channel k).recent.filter (fun r => match last with
        | none => true
        | some t => decide (t < r.instant))).reverse).findSome? (fun r =>
      let rs := rest.filterMap (fun n => s.recordAt n r.instant)
      if rs.length = rest.length then some (r :: rs) else none)

/-- The records of the cells at the next position, once each has its own (R155). -/
def State.positionRecords (s : State) (m : Nat) : Option (List Record) :=
  s.commonRecords (bindLegal (s.binding m)) (s.point m).weigh.lastPosition

/-- S: the corrected sum of the codes (R155). -/
def cellSum (cal : Bytes) (rs : List Record) : Int :=
  roundDiv (((numbered rs).map (fun x => (calC cal x.1 : Int) * x.2.value)).sum) 1073741824

/-- m in mg (R155). -/
def massOf (cal : Bytes) (s : Int) : Int := roundDiv ((s - calZ0 cal) * calK cal) 4294967296

/-- The band of R158 holds over the window. -/
def WgCfg.inBand (c : WgCfg) (latest : Int) (w : List WeighPoint) : Bool :=
  match w.map (·.gross) with
  | [] => false
  | g :: gs => decide ((gs.foldl Max.max g - gs.foldl Min.min g) * 100 ≤ c.window * mg (c.eOf latest))

/-- The initial zero at a stable window (R159). -/
def State.initialZero (s : State) (m : Nat) : State :=
  let c := s.wg m
  let w := (s.point m).weigh
  let mean := w.windowMean
  if decide (-(c.percent c.izNeg) ≤ 100 * mean) && decide (100 * mean ≤ c.percent c.izPos) then
    s.modWeigh m (fun w => { w with zeroSet := true, zop := mean, zInit := mean, zeroError := false })
  else s.modWeigh m (fun w => { w with zeroError := true })

/-- The sample period of the cells in ns. -/
def State.cellPeriod (s : State) (m : Nat) : Nat :=
  (s.chain (bindPch (s.binding m) 0)).firCycles * second / s.fMod

/-- Zero tracking at a position (R161). -/
def State.trackZero (s : State) (m : Nat) : State :=
  let c := s.wg m
  let w := (s.point m).weigh
  let g := w.gross
  if c.ztRate ≠ 0 ∧ w.zeroSet ∧ w.tare.isNone ∧ w.txn.isNone ∧ 2 * (g.natAbs : Int) ≤ mg c.e1 then
    let step : Int := mg (c.ztRate * c.e1) * s.cellPeriod m / (10 * second)
    let lim := c.percent 2 / 100
    s.modWeigh m (fun w => { w with
      zop := clampInt (w.zInit - lim) (w.zInit + lim) (w.zop + clampInt (-step) step g) })
  else s

/-- A record carries an invalidating diagnostic bit (Table 4.6); SETTLING and CLIP are none. -/
def Record.diagnosed (r : Record) : Bool := r.status &&& invalidBits.setWidth 16 != 0

/-- A position with a mass value (R155 to R161). -/
def State.massPosition (s : State) (m : Nat) (rs : List Record) (instant : Nat) : State :=
  let c := s.wg m
  let cal := s.calBlock m
  let codes := rs.map (·.value)
  let mass := massOf cal (cellSum cal rs)
  let s := s.modWeigh m (fun w =>
    let x : WeighPoint := ⟨instant, mass - w.zop, mass, codes⟩
    let window := x :: w.window.filter (fun y => decide (instant < y.instant + c.time * milli))
    let since := w.since.getD instant
    { w with
      latest := some x, window := window, since := some since, lastPosition := some instant
      stable := decide (since + c.time * milli ≤ instant) && c.inBand x.gross window })
  if !s.weighStable m then s
  else if (s.point m).weigh.zeroSet then s.trackZero m
  else s.initialZero m

/-- WEIGH_POSITION (R155): acts when every bound cell has its record of the next position. -/
def execWeighPosition (dt : Ticks) (mp : Nat) (s : State) : Host.Outcome State Fault Refusal :=
  let s := s.elapse dt
  .next (if mp < 4 && s.mpType mp == typeWaste && s.legalRuns then
      match s.positionRecords mp with
      | none => s
      | some rs =>
        let instant := (rs.map (·.instant)).foldl max 0
        if rs.all Record.good && s.chainsAgree mp then s.massPosition mp rs instant
        else s.modWeigh mp (fun w => { w with
          stable := false, since := none, lastPosition := some instant
          badAt := if rs.any Record.diagnosed then some instant else w.badAt })
    else s)

/-! ### Zero, tare and instrument changes (R153, R160, R163) -/

/-- A new instrument, calibration or binding: zero state NONE, no tare (R153). -/
def State.resetInstrument (s : State) (m : Nat) : State :=
  s.modWeigh m (fun w => { w with
    zeroSet := false, zop := 0, zInit := 0, tare := none, zeroError := false, window := [], since := none
    stable := false })

/-- Some WASTE metering point of the node is not stable (R173). -/
def State.anyUnstable (s : State) : Bool :=
  !(pointsWhere (fun m => s.mpType m == typeWaste && !s.weighStable m)).isEmpty

/-- Some WASTE metering point of the node has a transaction open (R173). -/
def State.anyTxnOpen (s : State) : Bool :=
  !(pointsWhere (fun m => s.mpType m == typeWaste && s.txnOpen m)).isEmpty

/-- The ZERO key (R160); the block of R173 counts every WASTE metering point. -/
def State.zeroKey (s : State) (m : Nat) : State :=
  let w := (s.point m).weigh
  let mean := w.windowMean
  if w.zeroSet && s.weighStable m && !s.anyUnstable && !s.anyTxnOpen && w.txn.isNone && w.tare.isNone &&
      decide (100 * ((mean - w.zInit).natAbs : Int) ≤ (s.wg m).percent 2) then
    s.modWeigh m (fun w => { w with zop := mean })
  else s

/-- The TARE key (R163, R173). -/
def State.tareKey (s : State) (m : Nat) : State :=
  let c := s.wg m
  let w := (s.point m).weigh
  let g := w.gross
  if !s.weighStable m || w.txn.isSome || s.anyUnstable || s.anyTxnOpen then s
  else if decide (mg c.e1 < 4 * g) && decide (g ≤ mg c.max) then
    s.modWeigh m (fun w => { w with tare := some ⟨c.indicated g * 1000, false⟩ })
  else if decide (4 * (g.natAbs : Int) ≤ mg c.e1) then s.modWeigh m (fun w => { w with tare := none })
  else s

/-! ### Transactions (R168) -/

/-- An open transaction is closed with no record: cause 0 command, 1 timeout, 2 reset. -/
def State.cancelTxn (s : State) (m cause origin : Nat) : State :=
  match (s.point m).weigh.txn with
  | none => s
  | some t =>
    (s.logAt s.nodeTime false 0x0C 0x01 origin m (leBytes 4 t.number ++ [byte cause])).modWeigh m
      (fun w => { w with txn := none, tare := none })

/-- WEIGH_TIMEOUT (R168). -/
def execWeighTimeout (dt : Ticks) (mp : Nat) (s : State) : Host.Outcome State Fault Refusal :=
  let s := s.elapse dt
  .next (match (s.point mp).weigh.txn with
    | none => s
    | some t =>
      if mp < 4 && s.legalRuns && s.since t.since (t.timeoutS * second) then
        (s.cancelTxn mp 1 0xFF).tell (.txnTimeout mp t.number)
      else s)

/-! ### The provisional path (R170 to R172, R323) -/

/-- The accelerometer's value at an instant, by straight lines between its samples, newest first. -/
def accelAt (t : Nat) : List (Nat × Int) → Option Float
  | (t1, a1) :: (t0, a0) :: rest =>
    if t1 = t then some (ofInt a1)
    else if t0 ≤ t ∧ t < t1 then
      some (ofInt a0 + (ofInt a1 - ofInt a0) * Float.ofNat (t - t0) / Float.ofNat (t1 - t0))
    else accelAt t ((t0, a0) :: rest)
  | [(t1, a1)] => if t1 = t then some (ofInt a1) else none
  | [] => none

/-- The accelerometer samples of the second before `t`, less their mean, at `t`. -/
def accelStream (t : Nat) (l : List (Nat × Int)) : Option Float :=
  match accelAt t l with
  | none => none
  | some a =>
    let near := (l.filter (fun x => decide (x.1 ≤ t ∧ t < x.1 + second))).map (fun x => ofInt x.2)
    some (if near.isEmpty then 0.0 else a - floatSum near / Float.ofNat near.length)

/-- The gross of the provisional path, in mg, from the records of the cells and EXT 2 as last read: C, Z0, K and
Zop stand in it as C, Z0 and K in a block behind its first 8 bytes (R155, R171, Table 12.2). -/
def provGross (terms : Bytes) (rs : List Record) : Int :=
  let cal := zeros 8 ++ terms
  massOf cal (cellSum cal rs) - sfield terms 32 8

/-- The tare of EXT 2 as last read, in mg. -/
def provTare (terms : Bytes) : Int := sfield terms 40 4 * 1000

/-- One step of the canceller (R171). -/
def Prov.step (p : Prov) (mu : Nat) (g a : Float) (tare : Float) : Prov :=
  let hist := (a :: p.hist.map Float.ofBits).take 16
  let w := p.weights.map Float.ofBits
  let y := floatSum (List.zipWith (· * ·) w hist)
  let power := floatSum (hist.map (fun x => x * x))
  let e := g - y
  let rate := e / (1.0e-12 + power) / floatPow 2.0 mu
  let padded := hist ++ List.replicate (16 - hist.length) 0.0
  { p with
    weights := List.zipWith (fun x h => (x + rate * h).toBits) w padded
    hist := hist.map Float.toBits
    last := (floatRound (e - tare) :: p.last).take 8 }

/-- The last 8 values lie within 1 e of one another (R172). -/
def WgCfg.provSteady (c : WgCfg) (l : List Int) : Bool :=
  match l with
  | [] => false
  | x :: xs => l.length == 8 && decide (xs.foldl Max.max x - xs.foldl Min.min x ≤ mg (c.eOf x))

/-- Undercoat's own READ_STATUS of an extension of a metering point is asked for, unless one is on its way. -/
def State.askStatus (s : State) (ext m : Nat) : State :=
  let request : Bytes := [byte ext, byte m]
  if s.gate.own.any (fun r => r.2 == request) || s.gate.waiting.any (fun r => r.2 == request) then s
  else s.schedule 0x01 request

/-- The accelerometer's record at a position joins its stream; an invalid one blanks the field (R172). -/
def State.takeAccel (s : State) (m t : Nat) : State :=
  if s.pnum (pointId m 0x61) ≠ 0 then s
  else
    match s.recordAt 15 t with
    | none => s
    | some r =>
      if r.good then s.modProv m (fun p => { p with
        accel := (r.instant, r.value) :: p.accel.filter (fun x => decide (r.instant < x.1 + second)) })
      else s.modProv m (fun p => { p with shown := false })

/-- One position of the provisional path with its terms. -/
def State.provPosition (s : State) (m : Nat) (rs : List Record) (instant : Nat) (terms : Bytes) : State :=
  match accelStream instant (s.point m).prov.accel with
  | none => s.modProv m (fun p => { p with shown := false })
  | some a =>
    let mu := s.pnum (pointId m 0x62)
    let s := s.modProv m (fun p => p.step mu (ofInt (provGross terms rs)) a (ofInt (provTare terms)))
    let steady := (s.wg m).provSteady (s.point m).prov.last && !s.weighStable m
    s.modProv m (fun p => { p with shown := steady })

/-- PROV_UPDATE (R171): Undercoat takes the capture copies of the next position, and asks for the terms again. -/
def execProvUpdate (dt : Ticks) (mp : Nat) (s : State) : Host.Outcome State Fault Refusal :=
  let s := s.elapse dt
  .next (if mp < 4 && s.ready && s.mpType mp == typeWaste && s.pnum (pointId mp 0x60) == 1 then
      match s.commonRecords (bindLegal (s.binding mp)) (s.point mp).prov.lastTaken with
      | none => s
      | some rs =>
        let instant := (rs.map (·.instant)).foldl max 0
        let s := ((s.modProv mp (fun p => { p with lastTaken := some instant })).askStatus 2 mp).takeAccel mp instant
        match (s.point mp).prov.terms with
        | none => s
        | some terms => if rs.all Record.good then s.provPosition mp rs instant terms else s
    else s)

/-- PROV_STABILITY_POLL (R172): a READ_STATUS of the extension WEIGH through the gate; its reply blanks
the field where the legal path is stable. -/
def execProvStabilityPoll (dt : Ticks) (mp : Nat) (s : State) : Host.Outcome State Fault Refusal :=
  let s := s.elapse dt
  .next (if mp < 4 && s.ready && (s.point mp).prov.shown then s.askStatus 4 mp else s)

end Sys2Proof.Machine
end

