-- ==== Sys2Proof/Machine/Flags.lean ====
section
/-! DEFINITION. The status words: every field of bits that a register, a result or a reading carries. -/

namespace Sys2Proof.Machine

/-- HW.CHIP_ID (Table 2.3). -/
def chipId : Nat := 0x0640B001

/-- The sum of the bits that hold, bit 0 first. -/
def flagBits : List Bool → Nat
  | [] => 0
  | b :: bs => b2n b + 2 * flagBits bs

/-- The running bank of component `k` of 0 to 3: false is A. -/
def State.bankOf (s : State) (k : Nat) : Bool := (s.component k).running && (s.component k).activeB

/-- HW.BOOT_STAGE (Table 2.4). -/
def State.bootStageWord (s : State) : Nat :=
  s.boot.stage + 256 * flagBits [s.bankOf 0, s.bankOf 1, s.bankOf 2, s.bankOf 3, s.boot.measuring]

/-- HW.BOOT_ERROR (Table 2.5). -/
def State.bootErrorWord (s : State) : Nat :=
  s.boot.errCode + 256 * s.boot.errComponent + 4096 * b2n s.boot.errBankB

/-- ENTROPY_DEGRADED: HW.BOOT_WARN bit 0. -/
def State.entropyDegraded (s : State) : Bool := s.boot.warn.getLsbD 0

/-- EFLAGS of ENTROPY_STATUS (Table 12.10). -/
def State.entropyFlags (s : State) : Nat :=
  flagBits [s.crypto.entropyFail, s.crypto.latched, s.entropyDegraded]

/-- TIME_STATUS[1:0] and SEAL_OPEN[2]. -/
def State.stateBits (s : State) : Nat := s.ntu.status.code + 4 * b2n s.legal.sealOpen

/-- WFLAGS (Table 12.2). -/
def State.wflags (s : State) (m : Nat) : Nat :=
  let w := (s.point m).weigh
  let c := s.wg m
  let preset := match w.tare with
    | none => false
    | some t => t.preset
  let passed := match w.txn with
    | none => false
    | some t => t.grossPass.isSome
  flagBits [s.weighStable m, w.zeroSet, s.centreZero m, w.tare.isSome, preset, w.txn.isSome, passed,
    w.latest.isSome && c.overload w.gross, w.latest.isSome && c.underload w.gross, w.zeroError,
    (s.point m).gap.isSome]

/-- MP_FLAGS (Table 12.2). -/
def State.mpFlags (s : State) (m : Nat) : Nat :=
  let p := s.point m
  flagBits [p.gap.isSome, p.regFault, p.weigh.txn.isSome, s.mpType m == typeWaste && s.weighStable m] +
    16 * s.mpType m

/-- MSTAT as READ_STATUS reports it: the last completed second, the running one, and what stands. -/
def State.mstatNow (s : State) (m : Nat) : Word :=
  if s.mpType m = 0 then 0 else (s.point m).mstat ||| (s.point m).now ||| s.standing m

/-- MSTAT at this instant, of a transaction's final pass (R261): what stands, and OVER_RANGE where the latest record of a
bound cell carries OVR_SOFT. -/
def State.mstatAt (s : State) (m : Nat) : Word :=
  let beyond := (bindLegal (s.binding m)).any (fun n => (s.channel n).latest.any (fun r => r.status.getLsbD 4))
  s.standing m ||| (if beyond then mOverRange else 0)

/-- MSTAT of the commit that a bank holds (R261): the flags of its second, and those that the bank itself records. -/
def State.mstatCommit (s : State) (m : Nat) : Word :=
  let k := (s.point m).bank
  let b (c : Bool) (w : Word) : Word := if c then w else 0
  (s.point m).mstat ||| b k.saturated mSaturated ||| b k.wasReset mReset ||| b (k.tstat == 0) mTimeInvalid |||
    b (!s.calendarEver) mNoCalendar

/-- CFLAGS (Table 12.2). -/
def State.cflags (s : State) (n : Nat) : Nat :=
  flagBits [(s.channel n).settled, s.pchBound n, s.captures n]

/-- A condition bit stands on an enabled BRIDGE channel of a driver. -/
def State.driverBit (s : State) (k bit : Nat) : Bool :=
  (upTo 16).any (fun n => s.pchMode n == modeBridge && s.pchExc n == k && (s.channel n).diag.getLsbD bit)

/-- EFLAGS of a driver (Table 12.2): what its BRIDGE channels report (log 29). -/
def State.excFlags (s : State) (k : Nat) : Nat :=
  flagBits [s.driverBit k 1, s.driverBit k 2, s.driverBit k 3]

/-- FLAGS of an attestation report (Table 10.9). -/
def State.attestFlags (s : State) : Nat := s.stateBits + 8 * s.entropyFlags

/-- What the AC would write to HW.NODE_STATE (Table 11.4). -/
def State.nodeStateNow (s : State) : Nat :=
  s.stateBits + 16 * s.fabric.role + 65536 * s.fabricAddr

/-- DFLAGS (Table 12.7). -/
def State.dflags (s : State) : Nat :=
  flagBits [s.legal.displayError, s.display.stale, s.display.testFail]

/-- R301: a ring of the chip's posting has what THRESH asks, or its oldest entry has waited COAL_US. -/
def State.avail (s : State) (n : Nat) : Bool :=
  let r := s.ring n
  decide (0 < r.count) && (decide (r.thresh ≤ r.count) ||
    (match r.posted with
      | [] => false
      | t :: _ => s.since t (s.hawk.coalUs * micro)))

/-- HW.IRQ_STATUS (Table 11.5); until READY only STAGE works (R285). -/
def State.irqStatus (s : State) : Nat :=
  let h := s.hawk
  let c := s.ring 0
  if !s.ready then b2n h.irqStage
  else flagBits [h.irqStage, decide (c.thresh ≤ c.size - c.count), s.avail 1, s.avail 2, s.avail 3,
    h.irqRingErr, h.irqEventLost, h.irqSpiErr]

/-- HW.IRQ_ENABLE, at its reset value until READY (R285). -/
def State.irqMask (s : State) : Nat := if s.ready then s.hawk.irqEnable.toNat else 1

/-- HIRQ_N is asserted (R300). -/
def State.hirq (s : State) : Bool := s.irqStatus &&& s.irqMask != 0

end Sys2Proof.Machine
end

