-- ==== Sys2Proof/Machine/GateReads.lean ====
section
/-! DEFINITION. The gate requests that change no parameter: READ_STATUS, READ_REGISTERS, SIGN_READING,
READ_LOG, ATTEST, and the reserved codes (R28, R219, R233, R263, R266, R321, R322). -/

namespace Sys2Proof.Machine

/-- The LC serves the next request of a code, if it is that code's turn (R39). -/
def State.serve (s : State) (code : Nat) (f : GateRequest → State → State) : State :=
  match s.nextRequest code with
  | none => s
  | some r => f r s

/-- The contexts that the LC has open. -/
def Crypto.lcCount (c : Crypto) : Nat := ((c.contexts.filterMap id).filter (·.byLc)).length

/-- A request that signs is served unless the LC has two contexts open; it then waits in its slot (R277). -/
def State.serveSigned (s : State) (code : Nat) (f : GateRequest → State → State) : State :=
  if 2 ≤ s.crypto.lcCount then s else s.serve code f

/-- A reply that carries no payload. -/
def State.refuseGate (s : State) (r : GateRequest) (status : Nat) : State := s.answer r status []

/-! ### READ_STATUS (Table 12.2) -/

/-- EXT 0. -/
def State.extNode (s : State) : Bytes :=
  [byte s.stateBits, byte (s.entropyFlags % 4)] ++ leBytes 2 s.legal.calcnt ++ leBytes 4 s.legal.cfgcnt ++
    leBytes 4 s.boot.lcv ++ (upTo 4).flatMap (fun m => leBytes 4 (s.mstatNow m).toNat) ++
    (upTo 4).map (fun m => byte (s.mpFlags m)) ++ [byte s.legal.tariff] ++ zeros 3 ++
    leBytes 8 s.nodeTime ++ zeros 4

/-- EXT 1. -/
def State.extCounters (s : State) : Bytes :=
  let l := s.legal
  leBytes 2 l.calcnt ++ leBytes 2 l.slarch ++ leBytes 4 l.cfgcnt ++ leBytes 4 l.tamperSeal ++
    leBytes 4 l.tamperCover ++ leBytes 4 l.tamperTerm ++ leBytes 4 l.sealsess ++ leBytes 4 l.sepFaults ++
    leBytes 4 l.ownerCtr ++ leBytes 2 l.sealLog.length ++ leBytes 2 l.missed ++ leBytes 4 l.elseq ++
    leBytes 2 (l.elseq / 4294967296) ++ zeros 6

/-- The tare in force, in g. -/
def Weigh.tareG (w : Weigh) : Int :=
  match w.tare with
  | none => 0
  | some t => t.mg / 1000

/-- EXT 2. -/
def State.extWeighTerms (s : State) (m : Nat) : Bytes :=
  let cal := s.calBlock m
  let w := (s.point m).weigh
  (upTo 4).flatMap (fun k => leBytes 4 (calC cal k)) ++ sBytes 8 (calZ0 cal) ++ leBytes 8 (calK cal) ++
    sBytes 8 w.zop ++ sBytes 4 w.tareG ++ leBytes 2 (s.wflags m) ++ zeros 2

/-- One block of EXT 3. -/
def PhaseMean.bytes (b : PhaseMean) : Bytes :=
  leBytes 4 b.vrms ++ leBytes 4 b.irms ++ sBytes 4 b.p ++ sBytes 4 b.q ++ sBytes 4 b.s ++ sBytes 2 b.pf ++
    leBytes 2 b.freq

/-- EXT 3; zeros before the first averaged second (log 29). -/
def State.extElec (s : State) (m : Nat) : Bytes :=
  match (s.point m).means with
  | none => zeros 104
  | some (t, bs) => padTo 104 (leBytes 8 t ++ bs.flatMap PhaseMean.bytes)

/-- EXT 4. -/
def State.extWeigh (s : State) (m : Nat) : Bytes :=
  let c := s.wg m
  let w := (s.point m).weigh
  let shown := if w.tare.isSome then w.net else w.gross
  sBytes 4 (c.indicated w.gross) ++ sBytes 4 (c.indicated w.net) ++ leBytes 4 (c.eOf shown) ++
    leBytes 2 (s.wflags m) ++ zeros 2 ++ leBytes 4 (match w.txn with
      | none => 0
      | some t => t.number) ++ sBytes 4 w.tareG

/-- EXT 5: all from the latest record. -/
def State.extChannel (s : State) (n : Nat) : Bytes :=
  let c := s.channel n
  let r : Record := c.latest.getD ⟨0, 0, 0, 0, 0⟩
  [byte (s.pchMode n), byte (s.pchGain n)] ++ leBytes 2 r.status.toNat ++ leBytes 2 r.seqNo.toNat ++
    [byte (s.cflags n), byte ((s.pointsOfChannel n).headD 0xFF)] ++ sBytes 4 r.value ++
    leBytes 8 r.instant ++ leBytes 2 c.diagCnt ++ zeros 2

/-- The metering point whose binding takes counter `n`. -/
def State.cntOwner (s : State) (n : Nat) : Nat :=
  ((pointsWhere (fun m => (s.bindCounters (s.binding m)).contains n)).headD 0xFF)

/-- EXT 6: from the latest latch. -/
def State.extCounter (s : State) (n : Nat) : Bytes :=
  let c := s.counter n
  [byte (s.cntMode n), byte (s.cntOwner n)] ++ leBytes 2 c.quadError ++ leBytes 4 c.latchFwd.toNat ++
    leBytes 4 c.latchRev.toNat ++ leBytes 8 c.latchTime

/-- EXT 7: the magnitudes of the sensed voltage in mV and of the load current in 0.1 mA (R106, log 53). -/
def State.extExc (s : State) (k : Nat) : Bytes :=
  [byte (s.pnum (excId k 0)), byte (s.excFlags k)] ++ leBytes 2 (roundRat (s.excSense k)).toNat ++
    leBytes 2 (roundRat (s.excCurrent k / 100)).toNat ++ zeros 2

/-- The ranges of ARG (Table 12.2). -/
def extArgs : List Nat := [1, 1, 4, 4, 4, 16, 16, 4]

/-- READ_STATUS of an extension: the status and the result. -/
def State.readExt (s : State) (ext arg : Nat) : Nat × Bytes :=
  let waste := s.mpType arg == typeWaste
  if 8 ≤ ext ∨ extArgs.getD ext 0 ≤ arg then (stBadParam, [])
  else if ext = 0 then (stDone, s.extNode)
  else if ext = 1 then (stDone, s.extCounters)
  else if ext = 2 then (if waste then (stDone, s.extWeighTerms arg) else (stDeniedState, []))
  else if ext = 3 then
    (if s.mpType arg = typeElec then (stDone, s.extElec arg) else (stDeniedState, []))
  else if ext = 4 then (if waste then (stDone, s.extWeigh arg) else (stDeniedState, []))
  else if ext = 5 then (stDone, s.extChannel arg)
  else if ext = 6 then (stDone, s.extCounter arg)
  else (stDone, s.extExc arg)

/-- A rate in µS/s, to the nearest. -/
def microRate (r : Rat) : Nat := (roundRat (r * 1000000)).toNat

/-- The result of CHAIN_INFO (R322). -/
def State.chainInfo (s : State) (n : Nat) : Bytes :=
  let c := s.chain n
  let f := s.fMod
  let settle := c.settleCycles f + (if s.rogowski n then 64 * f else 0)
  leBytes 8 (microRate (c.fs2 f)) ++ leBytes 8 (microRate (c.fs3 f)) ++
    leBytes 8 (roundDiv ((c.delay2 : Int) * second) (2 * f)).toNat ++
    leBytes 8 (roundDiv ((settle : Int) * second) f).toNat

/-- A READ_STATUS request: of two bytes an extension, of one byte CHAIN_INFO (log 30). -/
def State.answerStatus (r : GateRequest) (s : State) : State :=
  if r.payload.length = 2 then
    let x := s.readExt (field r.payload 0 1) (field r.payload 1 1)
    s.answer r x.1 x.2
  else if r.payload.length = 1 then
    let n := field r.payload 0 1
    if 16 ≤ n then s.refuseGate r stBadParam
    else if s.pchMode n = 0 then s.refuseGate r stDeniedState
    else s.answer r stDone (s.chainInfo n)
  else s.refuseGate r stBadParam

/-- GATE_READ_STATUS (R28). -/
def execGateReadStatus (dt : Ticks) (s : State) : Host.Outcome State Fault Refusal :=
  let s := s.elapse dt
  .next (s.serve 0x01 State.answerStatus)

/-! ### READ_REGISTERS (R233) -/

def State.answerRegisters (r : GateRequest) (s : State) : State :=
  let p := r.payload
  let m := field p 0 1
  let first := field p 1 1
  let count := field p 2 2
  if p.length ≠ 4 ∨ 4 ≤ m ∨ count = 0 ∨ 256 < first + count then s.refuseGate r stBadParam
  else if (s.point m).regFault then s.refuseGate r stIntegrity
  else
    let k := (s.point m).bank
    s.answer r stDone (leBytes 8 k.commitS ++ leBytes 4 k.gen ++
      [byte k.type, byte k.subtype, byte k.flags, byte k.tstat] ++
      (upTo count).flatMap (fun i => leBytes 8 (k.reg (first + i))))

/-- GATE_READ_REGISTERS (R233). -/
def execGateReadRegisters (dt : Ticks) (s : State) : Host.Outcome State Fault Refusal :=
  let s := s.elapse dt
  .next (s.serve 0x02 State.answerRegisters)

/-! ### SIGN_READING (R263, R169) -/

/-- A register snapshot of a valid key. -/
def State.snapshot (s : State) (key : Nat) : Bytes × State :=
  let m := key / 256 % 4
  let k := (s.point m).bank
  let t := s.bankType m
  let qd := key / 8 % 8
  let s := s.nextNumber
  let sum := s.sum64 (k.sum (key % 256 / 8))
  let body := sum.2.readingBody
    { kind := 1, mp := m, quantity := (qdCodes t.1 qd).1, direction := (qdCodes t.1 qd).2
      tariff := key % 8 + 1, scope := key / 64 % 4, tstat := k.tstat, time := k.commitS
      value := k.reg (key % 256), mstat := s.mstatCommit m, type := t.1, subtype := t.2, gen := k.gen
      data := sum.1 }
  (signBody body, sum.2)

def State.answerSign (r : GateRequest) (s : State) : State :=
  let p := r.payload
  let kind := field p 0 1
  let key := field p 2 2
  let m := key / 256 % 4
  let txn := field p 4 4
  if p.length ≠ 8 ∨ rsv p 1 1 = false then s.refuseGate r stBadParam
  else if kind = 1 then
    if txn ≠ 0 ∨ s.regKeyOk key = false then s.refuseGate r stBadParam
    else if (s.point m).regFault || !s.legal.readingKey then s.refuseGate r stIntegrity
    else if !s.numbersLeft then s.refuseGate r stNoResource
    else
      let x := s.snapshot key
      x.2.answer r stDone x.1
  else if kind = 2 then
    if key ≠ 256 * m then s.refuseGate r stBadParam
    else if (s.point m).regFault || !s.legal.readingKey then s.refuseGate r stIntegrity
    else
      match (s.point m).weigh.bodies.find? (fun b => b.1 == txn) with
      | none => s.refuseGate r stNoResource
      | some b => s.answer r stDone (signBody b.2)
  else s.refuseGate r stBadParam

/-- GATE_SIGN_READING (R263). -/
def execGateSignReading (dt : Ticks) (s : State) : Host.Outcome State Fault Refusal :=
  let s := s.elapse dt
  .next (s.serveSigned 0x03 State.answerSign)

/-! ### READ_LOG (R219) -/

def State.answerLog (r : GateRequest) (s : State) : State :=
  let p := r.payload
  let log := field p 0 1
  let count := field p 2 2
  let start := field p 4 4 + 4294967296 * field p 8 2
  if p.length ≠ 12 ∨ 2 ≤ log ∨ rsv p 1 1 = false ∨ rsv p 10 2 = false ∨ count = 0 ∨ 84 < count ∨
      (log = 1 ∧ field p 8 2 ≠ 0) then s.refuseGate r stBadParam
  else
    let l := s.legal
    let entries := ((if log = 0 then l.eventLog else l.sealLog).reverse.filter
      (fun e => decide (start ≤ e.seqNo))).take count
    let head := if log = 0 then l.elseq else l.sealLog.length
    let n (x : Nat) : Nat := if log = 0 then 0 else x
    s.answer r stDone (leBytes 4 head ++ leBytes 2 (n l.sealLog.length) ++ leBytes 2 (n l.missed) ++
      leBytes 2 (n l.slarch) ++ leBytes 2 entries.length ++ leBytes 2 (head / 4294967296) ++ zeros 2 ++
      entries.flatMap LogEntry.toBytes)

/-- GATE_READ_LOG (R219). -/
def execGateReadLog (dt : Ticks) (s : State) : Host.Outcome State Fault Refusal :=
  let s := s.elapse dt
  .next (s.serve 0x04 State.answerLog)

/-! ### ATTEST (R266) -/

/-- The 352-byte body (Table 10.9). -/
def State.attestBody (s : State) (nonce : Bytes) : Bytes :=
  [0x01#8, byte s.attestFlags] ++ leBytes 2 s.bootStageWord ++ leBytes 4 s.boot.lcv ++ leBytes 8 nodeId ++
    leBytes 8 s.nodeTime ++ leBytes 2 s.fabricAddr ++ leBytes 2 s.legal.calcnt ++
    leBytes 4 s.legal.cfgcnt ++ s.boot.versions.flatMap (leBytes 4) ++ leBytes 4 chipId ++
    leBytes 4 s.legal.aseq ++ padTo 32 nonce ++ s.boot.slots.flatMap (padTo 32) ++
    leBytes 4 s.boot.cause.toNat ++ zeros 4

def State.answerAttest (r : GateRequest) (s : State) : State :=
  if r.payload.length ≠ 32 then s.refuseGate r stBadParam
  else if !s.legal.attestKey then s.refuseGate r stIntegrity
  else
    let s := s.modLegal (fun l => l.putAseq (satAdd 0xFFFFFFFF l.aseq 1))
    let body := s.attestBody r.payload
    s.answer r stDone (body ++ ecdsaSign (toScalar Config.attestKey) (sha256 body))

/-- GATE_ATTEST (R266). -/
def execGateAttest (dt : Ticks) (s : State) : Host.Outcome State Fault Refusal :=
  let s := s.elapse dt
  .next (s.serveSigned 0x05 State.answerAttest)

/-! ### Reserved codes (Table 1.6) -/

/-- GATE/REJECT (Table 8.8). -/
def State.gateReject (s : State) (r : GateRequest) (status : Nat) : State :=
  s.logAt s.nodeTime false 0x0D 0x01 (originCode r.origin) 0xFF
    ([byte r.code, byte status, 0, 0] ++ leBytes 4 r.gseq)

/-- GATE_RESERVED_CODE (R28). -/
def execGateReservedCode (dt : Ticks) (s : State) : Host.Outcome State Fault Refusal :=
  let s := s.elapse dt
  .next (if s.legalRuns then
      match s.gate.requests.find? (fun r => requestClass r.code == 0) with
      | none => s
      | some r =>
        if r.code = 0 ∨ 0x10 < r.code then (s.gateReject r stBadOpcode).refuseGate r stBadOpcode else s
    else s)

end Sys2Proof.Machine
end

