-- ==== Sys2Proof/Machine/GateWrites.lean ====
section
/-! DEFINITION. The gate requests that change parameters, time, calendars, transactions and archives
(R79, R165 to R168, R220, R221, R224, R240, R498). -/

namespace Sys2Proof.Machine

/-! ### What an accepted parameter write starts (Table 1.8, R34, R71, R105, R109, R119, R120) -/

/-- The channels of a binding that run on: EV channels already running for another ELEC point (R34). -/
def State.runsOn (s : State) (m n : Nat) : Bool :=
  (s.channel n).running &&
    !(pointsWhere (fun k => k != m && (bindVoltages (s.binding k)).contains n)).isEmpty

/-- Before a new binding record comes into force: the released counters' final latch and the gap of KIND 1 (R34, R120). -/
def State.leaveBinding (s : State) (m : Nat) (old new : Bytes) : State :=
  let same := bindType old == bindType new
  let gone := (s.bindCounters old).filter (fun n => !(same && (s.bindCounters new).contains n))
  (gone.foldl State.finalLatch s).openBindingGap m

/-- What a metering point drops when its record changes: a change to another type drops what the registers, all zero
then (R36), have not taken; a change to NONE keeps it for the next commit. -/
def MeterPoint.rebind (p : MeterPoint) (typed kept : Bool) (now : Nat) : MeterPoint :=
  let p := { p with
    cycleStart := none, cycleHold := none, lastCycle := none, cyclesFrom := now, cycles := [], refPhase := 0
    supply := [], back := [], volFwd := 0, volNext := 0
    gap := if typed && p.gap.isNone then some ⟨now, gapConfig, 0⟩ else p.gap
    now := if typed then p.now ||| mIncomplete else 0 }
  if kept then p
  else { p with
    amounts := List.replicate 32 0, carried := List.replicate 32 0, openAt := none, interval := 0
    means := none }

/-- The new record is in force: chains, counters and the instrument start again. The zero state becomes NONE and the tare
ends, as they do at a start (DESIGN CHOICE, log 54). A gap of a point that is now NONE ends at once, for it has no channel
to settle (R34). -/
def State.enterBinding (s : State) (m : Nat) (old new : Bytes) : State :=
  let now := s.nodeTime
  let same := bindType old == bindType new
  let mbus := bindMbus old == bindMbus new
  let typed := bindType new != 0
  let kept := same || !typed || bindType new == (s.point m).bank.type
  let s := s.modPoint m (fun p => { p.rebind typed kept now with
    extBase := if mbus then p.extBase else none })
  let s := s.resetInstrument m
  let fresh := (bindChannels new).filter (fun n =>
    !((bindVoltages new).contains n && s.runsOn m n))
  let free := (bindChannels old).filter (fun n =>
    !(bindChannels new).contains n && (s.pointsOfChannel n).isEmpty)
  let s := (fresh ++ free).foldl (fun s n => s.restartChannel n gapConfig 0) s
  let s := ((s.bindCounters new).filter (fun n => !(same && (s.bindCounters old).contains n))).foldl
    (fun s n => s.modCounter n (fun c => { c with primed := false, heldFwd := 0, heldRev := 0 })) s
  (if typed then s else s.closeGap m).settleGaps

/-- The boundary of a binding record that waits: it comes into force (R32, R34, Table 1.8). -/
def State.bindBoundary (s : State) (m : Nat) : State :=
  match lookupParam s.inForce (pointId m 0) with
  | none => s
  | some old =>
    let new := s.param (pointId m 0)
    ((s.leaveBinding m old new).bringIntoForce (· == pointId m 0)).enterBinding m old new

/-- The channels whose samples a waiting record would end or begin. -/
def State.boundaryChannels (s : State) (m : Nat) : List Nat := (s.records m).flatMap bindChannels

/-- The sample period of channel `n` that follows: the records that wait for it come into force. -/
def State.sampleBoundary (s : State) (n : Nat) : State :=
  (upTo 4).foldl (fun s m => if (s.boundaryChannels m).contains n then s.bindBoundary m else s) s

/-- The same at a latch of the counters, for records of which no channel runs (log 41). -/
def State.latchBoundary (s : State) : State :=
  (upTo 4).foldl (fun s m =>
    if (s.boundaryChannels m).any (fun n => (s.channel n).running) then s else s.bindBoundary m) s

/-- FA_OUTPUT (R32, R136). -/
def execFaOutput (dt : Ticks) (pch : Nat) (words : List (BitVec 4)) (x3Held : Bool) (s : State) :
    Host.Outcome State Fault Refusal :=
  let s := s.elapse dt
  .next (if pch < 16 ∧ s.recordDue pch words then
      let s := s.sampleBoundary pch
      if s.recordDue pch words then s.formRecord pch words x3Held else s
    else s)

/-- COUNTER_LATCH (R32, R117): at each multiple of 10 ms of node time. -/
def execCounterLatch (dt : Ticks) (s : State) : Host.Outcome State Fault Refusal :=
  let s := s.elapse dt
  let t := s.nodeTime / 10000000 * 10000000
  .next (if s.legalRuns && s.ntu.latchAt != some t then
      ((upTo 16).foldl (fun s n => s.latchCounter n t)
        (s.latchBoundary.modNtu (fun u => { u with latchAt := some t }))).settleGaps
    else s)

/-- A channel's parameter has changed. -/
def State.pchChanged (s : State) (n i : Nat) : State :=
  if i = 17 then
    s.modSkim (fun k => match k.capture with
      | none => k
      | some c => if bit c.mask n && !s.captures n then { k with capture := some { c with stopping := true } }
        else k)
  else (s.restartChannel n gapConfig 0).seeSetDiags.refLoss

/-- The enabled channels that satisfy `p` restart. -/
def State.restartWhere (s : State) (p : Nat → Bool) : State :=
  (s.enabled.filter p).foldl (fun s n => s.restartChannel n gapConfig 0) s

/-- A driver's parameter has changed. -/
def State.excChanged (s : State) (k : Nat) : State :=
  let on (n : Nat) : Bool := s.pchMode n == modeBridge && s.pchExc n == k
  (s.restartWhere on).seeSetDiags.refLoss

/-- A counter's parameter has changed; `before` is the mode it had. -/
def State.cntChanged (s : State) (n i before : Nat) : State :=
  if i ≠ 0 ∨ s.cntMode n = before then s
  else
    let clear (c : Counter) : Counter :=
      { c with ref := none, pos := 0, last := 0, primed := false, errorNow := false }
    let s := s.modCounter n clear
    if s.cntMode n = 2 then s.modCounter (n + 1) clear else s

/-- MOD_CLK_SOURCE or MOD_RATE has changed (R71). The switch of a change from 1 to 0 logs no clock event, for Table 3.8 has
no kind for it (DESIGN CHOICE, log 54). -/
def State.modChanged (s : State) (id : Nat) : State :=
  let now := s.mono
  if id = 0x8010 then
    if s.prefersMclk then s.modMod (fun m => { m with trackSince := some now })
    else if s.modDom.source = .mclk then s.modSwitch .xoMod
    else s
  else
    let half := s.pnum 0x8011 == 1
    (s.modMod (fun m => { m with halfRate := half, stamps := [] })).restartAll gapConfig 0

/-- What follows the store of a legal-side parameter. -/
def State.changed (s : State) (id : Nat) (old : Bytes) : State :=
  if id < 0x1400 then s.pchChanged ((id - 0x1000) / 64) (id % 64)
  else if id < 0x1800 then s.cntChanged ((id - 0x1400) / 64) (id % 64) (leNat old)
  else if id < 0x1900 then s.excChanged ((id - 0x1800) / 64)
  else if id < 0x1A00 then
    s.restartWhere (fun n => s.pchMode n == modeRtd && s.pchRtd n == (id - 0x1900) / 64)
  else if id < 0x2400 then
    let m := (id - 0x2000) / 256
    if id % 256 = 0 then (if (s.point m).regFault then s.modPoint m (·.zeroBank m) else s)
    else if id % 256 = 0x40 then s.resetInstrument m
    else s
  else if id = 0x8000 then s.modLegal (fun l => { l with ownerCtr := 0 })
  else if id = 0x8010 ∨ id = 0x8011 then s.modChanged id
  else s

/-- Whether a stored value waits for its boundary: the whole second (R204, R239, R253), for a binding record the next sample
period (Table 1.8). -/
def waitsForBoundary (id : Nat) : Bool :=
  id == 0x3010 || (decide (0x2000 ≤ id ∧ id < 0x2400) && [0x00, 0x08, 0x80, 0xA0, 0xB0].contains (id % 256))

/-- A parameter that had failed its check at start holds again (R522). -/
def State.unfault (s : State) (id : Nat) : State :=
  if s.legal.faulted.contains id then
    (s.modLegal (fun l => { l with faulted := l.faulted.erase id })).settleGaps
  else s

/-- An accepted write of a legal-side parameter: value, counter, logs and slot 7 as one step, and what
follows from it (R224). -/
def State.applyParam (s : State) (id : Nat) (v : Bytes) (origin : Nat) : State :=
  let old := s.param id
  let sealed := s.classNow id == 1
  let s := if 0x1400 ≤ id ∧ id < 0x1800 ∧ id % 64 = 0 ∧ v = [0] then s.finalLatch ((id - 0x1400) / 64) else s
  let s := if waitsForBoundary id then s.putPending id v else s.putParam id v
  let s := if sealed then s.traceSealed id old v origin else s
  (s.changed id old).unfault id

/-- An equal value changes nothing, but where the stored one had failed its check and where R249 counts
the write (R342, R522); a default that was never written is no stored value, and is checked. -/
def State.sameValue (s : State) (id : Nat) (v : Bytes) : Bool :=
  let m := (id - 0x2000) / 256
  s.param id == v && !s.legal.faulted.contains id &&
    ((lookupParam s.params id).isSome || s.legalStatus id v != stBadParam) &&
    !(decide (0x2000 ≤ id ∧ id < 0x2400) && id % 256 == 0 && (s.point m).regFault)

/-- The status of a write of a legal-side parameter (R224). -/
def State.setParamStatus (s : State) (id len : Nat) (v : Bytes) : Nat :=
  match paramInfo id with
  | none => stBadParam
  | some i =>
    let sealed := s.classNow id == 1
    if !legalSide id then stBadParam
    else if sealed && !s.legal.sealOpen then stDeniedSeal
    else if sealed && !s.cfgFree then stDeniedState
    else if len ≠ i.size ∨ v.length ≠ len then stBadParam
    else if s.sameValue id v then stDone
    else firstRefusal [s.legalStatus id v, need (!sealed || s.sealSpace) stNoResource]

def State.answerSetParam (r : GateRequest) (s : State) : State :=
  let p := r.payload
  let id := field p 0 2
  let v := p.drop 4
  let st := if p.length < 4 then stBadParam else s.setParamStatus id (field p 2 2) v
  let s := if st = stNoResource ∧ s.classNow id = 1 ∧ s.sealSpace = false then s.noteSealFull (originCode r.origin) else s
  if st ≠ stDone then s.refuseGate r st
  else if s.sameValue id v then (s.putParam id v).refuseGate r stDone
  else (s.applyParam id v (originCode r.origin)).refuseGate r stDone

/-- GATE_SET_PARAM (R224). -/
def execGateSetParam (dt : Ticks) (s : State) : Host.Outcome State Fault Refusal :=
  let s := s.elapse dt
  .next (s.serve 0x06 State.answerSetParam)

/-! ### SET_TIME (R78, R79, R85, R86, R194, R250, R252, R325) -/

/-- The step that a request asks for, in ns. -/
def State.timeStep (s : State) (p : Bytes) : Int :=
  if field p 0 1 = 0 then sfield p 4 8 else (field p 4 8 : Int) - s.nodeTime

/-- The fields of SET_TIME. -/
def State.setTimeOk (s : State) (p : Bytes) : Bool :=
  let off := sfield p 2 2
  let t := (s.nodeTime : Int) + s.timeStep p
  field p 0 1 ≤ 1 && rsv p 1 1 && decide (-720 ≤ off ∧ off ≤ 840 ∧ off % 15 = 0) &&
    decide (0 ≤ t ∧ t < 18446744073709551616)

/-- The amounts gathered so far commit before node time is set (R194, R250, R252). -/
def State.commitForStep (s : State) (d : Int) : State :=
  if d ≠ 0 then s.commitBeforeStep
  else if s.ntu.status = .invalid then
    let sec := currentSecond s.nodeTime
    (s.commitAll sec true).takeTariff sec
  else s

/-- The status and the lock after an accepted SET_TIME (Table 3.6). -/
def State.statusAfterSet (s : State) (d : Int) : State :=
  if s.ntu.status = .invalid then (s.setTimeStatus .coarse).modNtu (fun u => { u with lockCount := 0 })
  else if d = 0 then s
  else ((s.setTimeStatus .coarse).disarmSync).modNtu (fun u => { u with lockCount := 0 })

/-- UTC_OFFSET is stored, and traced where it differs (R30, R86, R253). -/
def State.setUtcOffset (s : State) (v : Bytes) (origin : Nat) : State :=
  let old := s.param 0x3000
  if old = v ∧ s.legal.faulted.contains 0x3000 = false then s.putParam 0x3000 v
  else ((s.putPending 0x3000 v).traceLogged 0x3000 old v origin).unfault 0x3000

/-- An accepted SET_TIME. -/
def State.applySetTime (s : State) (p : Bytes) (origin : Nat) : State :=
  let d := s.timeStep p
  let before := s.nodeTime
  let s := s.commitForStep d
  let s := if d = 0 then s else (s.stepTime d).resumeCommits
  let s := s.modNtu (fun u => { u with slew := 0, slewHigh := 0, clampLogged := false })
  let s := (s.statusAfterSet d).modAon (fun a => { a with rtcValid := a.powered })
  let s := s.writeRtc
  let s := s.logAt s.nodeTime false 0x07 0x01 origin 0xFF (leBytes 8 before ++ leBytes 8 s.nodeTime ++
    slice p 2 2 ++ zeros 2 ++ leBytes 4 s.legal.ownerCtr)
  s.setUtcOffset (slice p 2 2) origin

def State.answerSetTime (r : GateRequest) (s : State) : State :=
  let p := r.payload
  let auth := s.ownerAuth p
  if p.length ≠ 80 then s.refuseGate r stBadParam
  else if auth.1 ≠ stDone then s.refuseGate r auth.1
  else if !s.setTimeOk p then s.refuseGate r stBadParam
  else
    let before := s.nodeTime
    let s := (s.consume auth.2).applySetTime p (originCode r.origin)
    s.answer r stDone (leBytes 8 before ++ leBytes 8 s.nodeTime)

/-- GATE_SET_TIME (R79). -/
def execGateSetTime (dt : Ticks) (s : State) : Host.Outcome State Fault Refusal :=
  let s := s.elapse dt
  .next (s.serve 0x07 State.answerSetTime)

/-! ### LOAD_CALENDAR and SET_OWNER_LOCK (R240, R244, R498) -/

/-- The activation instant of a calendar accepted now (R244). -/
def State.activateAt (s : State) (cal : Bytes) : Nat :=
  if field cal 8 8 = 0 then (s.nodeTime / 60000000000 + 1) * 60000000000 else field cal 8 8

def State.answerCalendar (r : GateRequest) (s : State) : State :=
  let p := r.payload
  let cal := p.take 1920
  let auth := s.ownerAuth p
  if p.length ≠ 1988 then s.refuseGate r stBadParam
  else if auth.1 ≠ stDone then s.refuseGate r auth.1
  else if !calendarOk cal then s.refuseGate r stBadParam
  else
    let old := s.legal.passive.bytes
    let at_ := s.activateAt cal
    let s := s.consume auth.2
    let s := s.modLegal (fun l => { l with passive := { bytes := cal, state := 1, at_ := at_ } })
    (((s.putParam 0x3100 cal).traceLogged 0x3100 old cal (originCode r.origin)).unfault 0x3100).refuseGate r stDone

/-- GATE_LOAD_CALENDAR (R240). -/
def execGateLoadCalendar (dt : Ticks) (s : State) : Host.Outcome State Fault Refusal :=
  let s := s.elapse dt
  .next (s.serve 0x08 State.answerCalendar)

def State.answerLock (r : GateRequest) (s : State) : State :=
  let p := r.payload
  let auth := s.ownerAuth p
  if p.length ≠ 72 then s.refuseGate r stBadParam
  else if auth.1 ≠ stDone then s.refuseGate r auth.1
  else if 1 < field p 0 1 ∨ rsv p 1 3 = false then s.refuseGate r stBadParam
  else
    let old := s.param 0x7000
    ((((s.consume auth.2).putParam 0x7000 (p.take 1)).traceLogged 0x7000 old (p.take 1)
      (originCode r.origin)).unfault 0x7000).refuseGate r stDone

/-- GATE_SET_OWNER_LOCK (R498). -/
def execGateSetOwnerLock (dt : Ticks) (s : State) : Host.Outcome State Fault Refusal :=
  let s := s.elapse dt
  .next (s.serve 0x09 State.answerLock)

/-! ### Waste transactions (R165 to R168) -/

/-- The SHOW_LCV screens end at once (R222). -/
def State.endLcvScreens (s : State) : State :=
  s.modLegal (fun l => { l with lcvScreen := 0, lowerHalf := false })

/-- The fields of WEIGH_BEGIN (Table 6.5). -/
def State.weighBeginOk (s : State) (p : Bytes) : Bool :=
  let m := field p 0 1
  let kind := field p 1 1
  let t := field p 2 2
  let preset := field p 12 4
  let c := s.wg m
  p.length == 16 && decide (m < 4) && s.mpType m == typeWaste && decide (kind ≤ 2) &&
    decide (60 ≤ t ∧ t ≤ 3600) && field p 4 8 != 0 &&
    (if kind = 1 then preset % max 1 c.e1 == 0 && decide (c.e1 ≤ preset ∧ preset ≤ c.max) else preset == 0)

def State.answerWeighBegin (r : GateRequest) (s : State) : State :=
  let p := r.payload
  let m := field p 0 1
  if !s.weighBeginOk p then s.refuseGate r stBadParam
  else if s.txnOpen m || s.anyTxnOpen then s.refuseGate r stDeniedState
  else
    let n := (s.point m).weigh.nextTxn
    let now := s.mono
    let tare : Option Tare := if field p 1 1 = 1 then some ⟨mg (field p 12 4), true⟩ else none
    let s := s.modWeigh m (fun w => { w with
      tare := tare, nextTxn := (n + 1) % 4294967296
      txn := some { number := n, tareKind := field p 1 1, tenant := field p 4 8, preset := field p 12 4
                    timeoutS := field p 2 2, since := now, grossPass := none } })
    s.endLcvScreens.answer r stDone (leBytes 4 n)

/-- GATE_WEIGH_BEGIN (R165). -/
def execGateWeighBegin (dt : Ticks) (s : State) : Host.Outcome State Fault Refusal :=
  let s := s.elapse dt
  .next (s.serve 0x0A State.answerWeighBegin)

/-- PASS fits the kind and the stage (Table 6.6, check 2). -/
def Txn.passFits (t : Txn) (pass : Nat) : Bool :=
  if pass = 1 then t.tareKind == 2 && t.grossPass.isNone
  else t.tareKind != 2 || t.grossPass.isSome

/-- A cell carries an invalidating bit now, or did at a position of the window (check 3). -/
def State.cellsFaulty (s : State) (m : Nat) : Bool :=
  let w := (s.point m).weigh
  let now := (bindLegal (s.binding m)).any (fun n => (s.channel n).diag &&& invalidBits != 0)
  let recent := match w.badAt, w.lastPosition with
    | some b, some l => decide (l < b + (s.wg m).time * milli)
    | _, _ => false
  now || recent

/-- The net, gross and tare of a final pass, in g (R166). The gross of kind 1 is the net plus the preset tare, so that VALUE is
GROSS - TARE as Table 10.6 has it; in a two-range instrument the indicated gross can be another number (DESIGN
CHOICE, log 56). -/
def State.finalValues (s : State) (m : Nat) (t : Txn) : Int × Int × Int :=
  let c := s.wg m
  let w := (s.point m).weigh
  let g := c.indicated w.gross
  if t.tareKind = 2 then
    let full := (t.grossPass.getD (0, 0)).1
    (full - g, full, g)
  else if t.tareKind = 1 then (c.indicated w.net, c.indicated w.net + t.preset, t.preset)
  else (g, g, 0)

/-- The checks of Table 6.6 on a transaction that is open. After them the final pass is refused with INTEGRITY where the
registers are in REG_FAULT and with NO_RESOURCE where no number is left, for which the table has no row (DESIGN CHOICE,
log 56). -/
def State.weighCommitStatus (s : State) (m pass : Nat) (t : Txn) : Nat :=
  let c := s.wg m
  let w := (s.point m).weigh
  let took := if pass = 1 then c.indicated w.gross else (s.finalValues m t).1
  firstRefusal [
    need (t.passFits pass) stBadParam, need (!s.cellsFaulty m) stFault, need (s.weighStable m) stMoving,
    need (w.zeroSet && !c.overload w.gross && !c.underload w.gross) stDeniedState,
    need (decide (20 * (c.e1 : Int) ≤ took)) stDeniedState,
    need (!(pass == 2 && (s.point m).regFault)) stIntegrity,
    need (!(pass == 2 && !s.numbersLeft)) stNoResource]

/-- The net enters the register under the tariff in force now, as a commit of its own (R167). -/
def State.accrueNet (s : State) (origin m net : Nat) : State :=
  let k := (s.point m).bank
  let tariff := s.tariffAt s.nodeTime
  let amounts := (net * 4294967296) :: List.replicate 31 0
  let sat := saturating k amounts tariff
  let k' := { k with
    gen := (k.gen + 1) % 4294967296, mp := m, type := s.mpType m, subtype := s.mpSub m
    saturated := k.saturated || !sat.isEmpty, wasReset := k.wasReset && net == 0
    regs := addRegs k.regs amounts tariff, intact := true }
  (s.logSaturation origin m k sat).modPoint m (fun p => p.putBank k')

/-- The body of a transaction reading (Tables 10.2 and 10.6). -/
def State.txnBody (s : State) (m : Nat) (t : Txn) (v : Int × Int × Int) (tariff : Nat) : Bytes :=
  let grossAt := match t.grossPass with
    | none => 0
    | some g => g.2
  s.readingBody
    { kind := 2, mp := m, quantity := 6, direction := 1, tariff := tariff, scope := 0
      tstat := s.ntu.status.code, time := s.nodeTime, value := v.1.toNat, mstat := s.mstatAt m
      type := s.mpType m, subtype := s.mpSub m, gen := 0
      data := leBytes 4 t.number ++ [byte t.tareKind, 0, 0, 0] ++ leBytes 8 t.tenant ++
        leBytes 8 v.2.1.toNat ++ leBytes 8 v.2.2.toNat ++ leBytes 8 grossAt ++
        leBytes 4 ((s.wg m).eOf (v.1 * 1000)) }

/-- A reading handed over where the LC can, else counted as missed. -/
def State.handBody (s : State) (body : Bytes) : State :=
  if !s.legal.readingKey then s
  else if s.ready || decide (s.legal.held.length < 1024) then s.hand (signBody body)
  else s.modLegal (fun l => { l with readingsMissed := satAdd 0xFFFFFFFF l.readingsMissed 1 })

/-- An accepted final pass (R167). -/
def State.finalPass (s : State) (m : Nat) (t : Txn) (r : GateRequest) : State :=
  let v := s.finalValues m t
  let tariff := s.tariffAt s.nodeTime
  let s := (s.accrueNet (originCode r.origin) m v.1.toNat).nextNumber
  let body := s.txnBody m t v tariff
  let s := s.modWeigh m (fun w => { w with
    bodies := ((t.number, body) :: w.bodies).take 64, txn := none, tare := none })
  let s := s.handBody body
  s.endLcvScreens.answer r stDone (leBytes 4 t.number ++ leBytes 4 s.legal.rseq ++ sBytes 8 v.1)

/-- An accepted gross pass (R166). -/
def State.grossPass (s : State) (m : Nat) (t : Txn) (r : GateRequest) : State :=
  let g := (s.wg m).indicated (s.point m).weigh.gross
  let now := s.nodeTime
  let s := s.modWeigh m (fun w => { w with txn := some { t with grossPass := some (g, now) } })
  s.endLcvScreens.answer r stDone (sBytes 8 g)

def State.answerWeighCommit (r : GateRequest) (s : State) : State :=
  let p := r.payload
  let m := field p 0 1
  let pass := field p 1 1
  if p.length ≠ 2 ∨ 4 ≤ m ∨ pass = 0 ∨ 2 < pass then s.refuseGate r stBadParam
  else
    match (s.point m).weigh.txn with
    | none => s.refuseGate r stDeniedState
    | some t =>
      let st := s.weighCommitStatus m pass t
      if st ≠ stDone then s.refuseGate r st
      else if pass = 1 then s.grossPass m t r
      else s.finalPass m t r

/-- GATE_WEIGH_COMMIT (R166). -/
def execGateWeighCommit (dt : Ticks) (s : State) : Host.Outcome State Fault Refusal :=
  let s := s.elapse dt
  .next (s.serve 0x0B State.answerWeighCommit)

def State.answerWeighCancel (r : GateRequest) (s : State) : State :=
  let p := r.payload
  let m := field p 0 1
  if p.length ≠ 1 ∨ 4 ≤ m then s.refuseGate r stBadParam
  else
    match (s.point m).weigh.txn with
    | none => s.refuseGate r stDeniedState
    | some t => (s.cancelTxn m 0 (originCode r.origin)).answer r stDone (leBytes 4 t.number)

/-- GATE_WEIGH_CANCEL (R168). -/
def execGateWeighCancel (dt : Ticks) (s : State) : Host.Outcome State Fault Refusal :=
  let s := s.elapse dt
  .next (s.serve 0x0C State.answerWeighCancel)

/-! ### Archives (R220, R221, Table 10.8) -/

/-- An event reading, which travels only in its reply. -/
def State.eventReading (s : State) (data : Bytes) : Bytes :=
  signBody (s.readingBody
    { kind := 4, mp := 0xFF, quantity := 0, direction := 0, tariff := 0, scope := 0
      tstat := s.ntu.status.code, time := s.nodeTime, value := 0, mstat := 0, type := 0, subtype := 0
      gen := 0, data := data })

/-- The digest of the seal log's entries in SEQ order. -/
def State.sealDigest (s : State) : Bytes := sha256 (s.legal.sealLog.reverse.flatMap LogEntry.toBytes)

def State.sealArchiveStatus (s : State) (p : Bytes) : Nat :=
  firstRefusal [need (p.length == 32) stBadParam, need s.legal.sealOpen stDeniedSeal,
    need (decide (s.legal.slarch < 65535)) stDeniedState, need (p == s.sealDigest) stInvalid,
    need s.legal.readingKey stIntegrity, need s.numbersLeft stNoResource]

def State.answerSealArchive (r : GateRequest) (s : State) : State :=
  let st := s.sealArchiveStatus r.payload
  if st ≠ stDone then s.refuseGate r st
  else
    let used := s.legal.sealLog.length
    let missed := s.legal.missed
    let after := s.legal.slarch + 1
    let counts := leBytes 2 after ++ leBytes 2 used ++ leBytes 2 missed
    let s := s.nextNumber
    let reading := s.eventReading ([1, 0] ++ counts ++ r.payload)
    let s := s.modLegal (fun l => { l with sealLog := [], missed := 0, slarch := after })
    let s := s.logBoth s.nodeTime false 0x10 0x01 (originCode r.origin) 0xFF
      (counts ++ zeros 2 ++ r.payload.take 16)
    s.answer r stDone reading

/-- GATE_SEAL_LOG_ARCHIVE (R220). -/
def execGateSealLogArchive (dt : Ticks) (s : State) : Host.Outcome State Fault Refusal :=
  let s := s.elapse dt
  .next (s.serve 0x0F State.answerSealArchive)

def State.regArchiveStatus (s : State) (p : Bytes) : Nat :=
  let m := field p 0 1
  let q := s.point m
  firstRefusal [need (p.length == 36 && decide (m < 4) && rsv p 1 3) stBadParam,
    need s.legal.sealOpen stDeniedSeal, need (s.cfgFree && s.mpType m == 0) stDeniedState,
    need (!q.regFault) stIntegrity, need (slice p 4 32 == sha256 q.bank.toBytes) stInvalid,
    need s.sealSpace stNoResource, need s.legal.readingKey stIntegrity, need s.numbersLeft stNoResource]

def State.answerRegArchive (r : GateRequest) (s : State) : State :=
  let p := r.payload
  let m := field p 0 1
  let st := s.regArchiveStatus p
  let s := if st = stNoResource ∧ s.sealSpace = false then s.noteSealFull (originCode r.origin) else s
  if st ≠ stDone then s.refuseGate r st
  else
    let k := (s.point m).bank
    let s := s.nextNumber
    let reading := s.eventReading ([2, byte m, byte k.type, byte k.subtype] ++ leBytes 4 k.gen ++
      slice p 4 32 ++ leBytes 8 k.commitS)
    let s := s.modPoint m (fun q => q.zeroBank m)
    let s := s.modLegal (fun l => { l with cfgcnt := satAdd 0xFFFFFFFF l.cfgcnt 1 })
    let s := s.logBoth s.nodeTime false 0x10 0x0B (originCode r.origin) m
      ([byte m, byte k.type, 0, 0] ++ leBytes 4 s.legal.cfgcnt ++ slice p 4 16)
    s.answer r stDone reading

/-- GATE_REG_ARCHIVE (R221). -/
def execGateRegArchive (dt : Ticks) (s : State) : Host.Outcome State Fault Refusal :=
  let s := s.elapse dt
  .next (s.serve 0x10 State.answerRegArchive)

end Sys2Proof.Machine
end

