-- ==== Sys2Proof/Machine/Calibrate.lean ====
section
/-! DEFINITION. The calibration procedure (R212 to R214, Tables 8.4 and 8.5). -/

namespace Sys2Proof.Machine

/-! ### The payload (Table 8.4) -/

/-- ARG, REF_A, REF_B and REF_C fit the step. -/
def calFieldsOk (p : Bytes) : Bool :=
  let step := field p 0 1
  let arg := field p 2 1
  let refA := field p 4 8
  let refB := field p 12 4
  let refC := sfield p 16 4
  p.length == 20 && 1 ≤ step && step ≤ 8 && field p 1 1 < 4 && field p 3 1 == 0 &&
    (if step = 3 then 1 ≤ arg && arg ≤ 4 else if step = 5 then 1 ≤ arg && arg ≤ 3
      else if step = 6 then arg ≤ 1 else arg == 0) &&
    (step == 4 || step == 5 || step == 6 || refA == 0) && (step == 5 || refB == 0) &&
    (if step = 5 then decide (-90000 ≤ refC ∧ refC ≤ 90000) else refC == 0)

/-- A sequence is discarded (R214): cause 0 step, 1 seal closed, 2 LC-side restart, 3 idle. -/
def State.discardCal (s : State) (cause origin : Nat) : State :=
  match s.legal.calSeq with
  | none => s
  | some c =>
    (s.logAt s.nodeTime false 0x06 0x02 origin c.mp [byte cause]).modLegal (fun l => { l with
      calSeq := none })

/-- Motion or an open transaction blocks a WASTE point (Table 6.8). -/
def State.calMoving (s : State) (m : Nat) : Bool :=
  s.mpType m == typeWaste && (!((s.point m).weigh.stable && s.pointSettled m) || s.txnOpen m)

/-- The refusal of BEGIN. -/
def State.calBeginStatus (s : State) (m : Nat) : Nat :=
  let t := s.mpType m
  firstRefusal [need s.legal.calSeq.isNone stDeniedState,
    need (decide (s.legal.calcnt < 65535)) stDeniedState, need (t == 1 || t == 3 || t == 4) stDeniedState,
    need (!s.calMoving m) stMoving, need (t == 4 || s.pointSettled m) stDeniedState,
    need s.sealSpace stNoResource]

/-- The refusal of a step after BEGIN, its fields and the seal aside. -/
def State.calStepStatus (s : State) (m step : Nat) : Nat :=
  match s.legal.calSeq with
  | none => stDeniedState
  | some c =>
    let t := s.mpType m
    let fits := match step with
      | 2 => t == 4
      | 3 => t == 4 && 2 ≤ (bindLegal (s.binding m)).length
      | 4 => t == 4
      | 5 => t == 1
      | 6 => t == 3
      | _ => true
    firstRefusal [need (c.mp == m) stBadParam, need (step == 8 || c.binding == s.binding m) stDeniedState,
      need (step == 8 || !s.calMoving m) stMoving, need fits stBadParam]

/-- A CALIBRATE request with a given STEP is next: its fields and the seal are checked, and `f` goes on
with what the step has to check and do. A malformed or reserved field is answered with BAD_PARAM before the seal is tested,
an order that R28, R212 and R224 leave open (DESIGN CHOICE, log 31). -/
def State.calStep (s : State) (step : Nat) (f : GateRequest → Nat → State → State) : State :=
  match s.nextRequest 0x0D with
  | none => s
  | some r =>
    let p := r.payload
    let m := field p 1 1
    let served := if calFieldsOk p then field p 0 1 else 1
    if served ≠ step then s
    else if !calFieldsOk p then s.refuseGate r stBadParam
    else if !s.legal.sealOpen then s.refuseGate r stDeniedSeal
    else
      let st := if step = 1 then s.calBeginStatus m else s.calStepStatus m step
      let s := if st = stNoResource then s.noteSealFull (originCode r.origin) else s
      if st ≠ stDone then s.refuseGate r st else f r m s

/-- An accepted step: what it stages, and the idle time starts again. -/
def State.calAccept (s : State) (r : GateRequest) (f : CalSeq → CalSeq) : State :=
  let now := s.mono
  (s.modLegal (fun l => { l with
    calSeq := l.calSeq.map (fun c => { f c with lastStep := now }) })).refuseGate r stDone

/-! ### BEGIN, ABORT and the idle time -/

def State.calOpen (r : GateRequest) (m : Nat) (s : State) : State :=
  let now := s.mono
  let b := s.binding m
  (s.modLegal (fun l => { l with calSeq := some { mp := m, binding := b, lastStep := now, zero := none
                                                  corners := [none, none, none, none], span := none
                                                  phases := [none, none, none]
                                                  rref := [none, none] } })).refuseGate r stDone

/-- CAL_BEGIN (R212); it also answers a CALIBRATE whose payload is malformed. -/
def execCalBegin (dt : Ticks) (s : State) : Host.Outcome State Fault Refusal :=
  let s := s.elapse dt
  .next (s.calStep 1 State.calOpen)

/-- CAL_ABORT (R214). -/
def execCalAbort (dt : Ticks) (s : State) : Host.Outcome State Fault Refusal :=
  let s := s.elapse dt
  .next (s.calStep 8 (fun r _ s => (s.discardCal 0 (originCode r.origin)).refuseGate r stDone))

/-- CAL_IDLE_TIMEOUT (R214). -/
def execCalIdleTimeout (dt : Ticks) (s : State) : Host.Outcome State Fault Refusal :=
  let s := s.elapse dt
  .next (match s.legal.calSeq with
    | none => s
    | some c => if s.legalRuns && s.since c.lastStep (3600 * second) then s.discardCal 3 0xFF else s)

/-! ### WASTE: ZERO, CORNER, SPAN -/

/-- The codes of the current stable window. -/
def State.calWindow (s : State) (m : Nat) : List (List Int) := (s.point m).weigh.window.map (·.codes)

/-- The mean of S over a window under factors, in 2^-16 of a code. -/
def windowMean16 (factors : List Nat) (w : List (List Int)) : Int :=
  roundDiv (((w.map (fun codes => roundDiv
    ((List.zipWith (fun (c : Nat) (v : Int) => (c : Int) * v) factors codes).sum) 1073741824)).sum) * 65536)
      w.length

def unity : Nat := 0x40000000

/-- Factors of exactly 1: S of a sequence that has not staged every corner (log 31). -/
def ones : List Nat := List.replicate 4 unity

/-- ZERO has been staged. -/
def State.calZero (s : State) : Option Int := s.legal.calSeq.bind (·.zero)

def State.calTakeZero (r : GateRequest) (m : Nat) (s : State) : State :=
  let z := windowMean16 ones (s.calWindow m)
  s.calAccept r (fun c => { c with zero := some z })

/-- CAL_ZERO (R212). -/
def execCalZero (dt : Ticks) (s : State) : Host.Outcome State Fault Refusal :=
  let s := s.elapse dt
  .next (s.calStep 2 State.calTakeZero)

def State.calTakeCorner (r : GateRequest) (m : Nat) (s : State) : State :=
  let k := field r.payload 2 1 - 1
  let mean := windowMean16 ones (s.calWindow m)
  match s.calZero with
  | none => s.refuseGate r stBadParam
  | some z =>
    if (bindLegal (s.binding m)).length ≤ k then s.refuseGate r stBadParam
    else s.calAccept r (fun c => { c with corners := setAt c.corners k (some (mean - z)) })

/-- CAL_CORNER (R212). -/
def execCalCorner (dt : Ticks) (s : State) : Host.Outcome State Fault Refusal :=
  let s := s.elapse dt
  .next (s.calStep 3 State.calTakeCorner)

/-- The corner factors of a sequence: factors of 1 where no bound cell has a CORNER step, else those of R213 once each has;
none where only some have, or one lies outside 0.9 to 1.1. -/
def CalSeq.factors (c : CalSeq) (cells : Nat) : Option (List Nat) :=
  let steps := (c.corners.take cells).filterMap id
  if steps.isEmpty then some ones
  else if steps.length ≠ cells ∨ steps.any (fun d => decide (d ≤ 0)) then none
  else
    let fs := steps.map (fun d => (roundDiv (1073741824 * steps.sum) (cells * d.toNat)).toNat)
    if fs.all (fun f => decide (9 * unity ≤ 10 * f ∧ 10 * f ≤ 11 * unity)) then
      some (fs ++ List.replicate (4 - cells) unity)
    else none

/-- The factors that SPAN's mean uses: the staged ones when all corners are present (Table 8.5). -/
def State.calFactors (s : State) (m : Nat) : List Nat :=
  (s.legal.calSeq.bind (fun c => c.factors (bindLegal (s.binding m)).length)).getD ones

def State.calTakeSpan (r : GateRequest) (m : Nat) (s : State) : State :=
  let a := sfield r.payload 4 8
  let mean := windowMean16 (s.calFactors m) (s.calWindow m)
  match s.calZero with
  | none => s.refuseGate r stBadParam
  | some z =>
    if 10 * a < mg (s.wg m).max then s.refuseGate r stBadParam
    else s.calAccept r (fun c => { c with span := some (a, mean - z) })

/-- CAL_SPAN (R212). -/
def execCalSpan (dt : Ticks) (s : State) : Host.Outcome State Fault Refusal :=
  let s := s.elapse dt
  .next (s.calStep 4 State.calTakeSpan)

/-! ### ELEC: ELEC_REF -/

/-- Consecutive pairs as cycles. -/
def spansOf : List Nat → List Span
  | a :: b :: rest => ⟨a, b, false⟩ :: spansOf (b :: rest)
  | _ => []

/-- Every `n`th element, from the first, `k` of them. -/
def everyNth (n : Nat) : Nat → List Nat → List Nat
  | 0, _ => []
  | k + 1, l =>
    match l with
    | [] => []
    | x :: _ => x :: everyNth n k (l.drop n)

/-- The last 50 complete analysis cycles; none while fewer are held. -/
def State.lastCycles (s : State) (m : Nat) : Option (List Span) :=
  let b := s.binding m
  let c := s.chain (bindPch b 0)
  match (s.point m).cycleStart with
  | none => none
  | some a =>
    let starts :=
      if c.mode = 1 then
        everyNth (max 1 c.lineN) 51 ((((s.channel (bindPch b 0)).cycle.map (·.instant)).filter
          (fun t => decide (t ≤ a))).reverse)
      else
        ((crossingsOf Crossing.reset (s.channel (phaseChannels b (s.point m).refPhase).1).cycle).filter
          (fun t => decide (t ≤ a))).reverse.take 51
    if starts.length = 51 then some (spansOf starts.reverse) else none

/-- One phase over a cycle in codes: V, I, the lag at h = 1 in degrees, and f in Hz. -/
def State.refCycle (s : State) (m ph : Nat) (w : Span) : Float × Float × Float × Float :=
  let ch := phaseChannels (s.binding m) ph
  let t := Float.ofNat (w.stop - w.start) * 1.0e-9
  let vs := (s.cycleValues ch.1 w).map ofInt
  let as := (s.cycleValues ch.2 w).map ofInt
  let r := phasePower vs as 0.0 t (s.rogowski ch.2)
  let v := dft vs 1
  let i := correctCurrent (dft as 1) 1 0.0 t (s.rogowski ch.2)
  let lag := Float.atan2 (v.im * i.re - v.re * i.im) (v.re * i.re + v.im * i.im) * 180.0 / pi64
  (r.vrms, r.irms, lag, 1.0 / t)

def floatMean (l : List Float) : Float := floatSum l / Float.ofNat l.length

/-- KV, KI and TAU from the cycles, where they meet Table 8.5 and fit their fields. -/
def State.refTerms (s : State) (m ph : Nat) (p : Bytes) (spans : List Span) : Option (Nat × Nat × Int) :=
  let xs := spans.map (s.refCycle m ph)
  let v := floatMean (xs.map (·.1))
  let i := floatMean (xs.map (·.2.1))
  let lag := floatMean (xs.map (·.2.2.1))
  let f := floatMean (xs.map (·.2.2.2))
  let full := 1073741824.0 / Float.sqrt 2.0
  let a := sfield p 4 8
  let b := field p 12 4
  let ok := spans.all (s.cycleGood m) && spans.all (fun w => goodSpan w.start w.stop) &&
    0.5 * full ≤ v && 0.1 * full ≤ i && decide (0 < a) && decide (0 < b)
  let kv := floatRound (ofInt (a * 1000) * 4294967296.0 / v)
  let ki := floatRound (Float.ofNat (b * 1000) * 4294967296.0 / i)
  let turn := lag - ofInt (sfield p 16 4) / 1000.0
  let wrapped := if 180.0 < turn then turn - 360.0 else if turn < -180.0 then turn + 360.0 else turn
  let tau := floatRound (wrapped / (360.0 * f) * 1.0e12)
  if ok && decide (0 ≤ kv ∧ kv < 2 ^ 64 ∧ 0 ≤ ki ∧ ki < 2 ^ 64 ∧ -2147483648 ≤ tau ∧ tau < 2147483648) then
    some (kv.toNat, ki.toNat, tau)
  else none

/-- ELEC_REF: waits in its slot until 50 cycles are held. -/
def State.calTakeElec (r : GateRequest) (m : Nat) (s : State) : State :=
  let ph := field r.payload 2 1 - 1
  let a := sfield r.payload 4 8
  if decide (phaseCount (s.binding m) ≤ ph) || decide (a ≤ 0) || field r.payload 12 4 == 0 ||
      !s.pointSettled m then
    s.refuseGate r stBadParam
  else
    match s.lastCycles m with
    | none => s
    | some spans =>
      match s.refTerms m ph r.payload spans with
      | none => s.refuseGate r stBadParam
      | some t => s.calAccept r (fun c => { c with phases := setAt c.phases ph (some t) })

/-- CAL_ELEC_REF (R212). -/
def execCalElecRef (dt : Ticks) (s : State) : Host.Outcome State Fault Refusal :=
  let s := s.elapse dt
  .next (s.calStep 5 State.calTakeElec)

/-! ### HEAT: RREF -/

def State.calTakeRref (r : GateRequest) (m : Nat) (s : State) : State :=
  let k := field r.payload 2 1
  let a := sfield r.payload 4 8
  let nominal := rtdRRef (s.pnum (rtdId (bindRtd (s.binding m) k)))
  if decide (200 * (a - nominal).natAbs ≤ nominal) then
    s.calAccept r (fun c => { c with rref := setAt c.rref k (some a.toNat) })
  else s.refuseGate r stBadParam

/-- CAL_RREF (R212). -/
def execCalRref (dt : Ticks) (s : State) : Host.Outcome State Fault Refusal :=
  let s := s.elapse dt
  .next (s.calStep 6 State.calTakeRref)

/-! ### COMMIT (R213) -/

/-- TERMS of a WASTE block. -/
def CalSeq.wasteTerms (c : CalSeq) (cells : Nat) : Option Bytes :=
  match c.factors cells, c.zero, c.span with
  | some fs, some z, some (a, d) =>
    if 0 < d then
      let k := roundDiv (a * 4294967296 * 65536) d.toNat
      if 0 ≤ k ∧ k < 2 ^ 64 then
        some (fs.flatMap (leBytes 4) ++ sBytes 8 (roundDiv z 65536) ++ leBytes 8 k.toNat)
      else none
    else none
  | _, _, _ => none

/-- TERMS of an ELEC block; a single-phase point uses the L1 block only, the others are 0 (Table 8.3). -/
def CalSeq.elecTerms (c : CalSeq) (phases : Nat) : Option Bytes :=
  if ((c.phases.take phases).all Option.isSome) then
    some ((upTo 3).flatMap (fun k =>
      match c.phases.getD k none with
      | none => zeros 20
      | some t => leBytes 8 t.1 ++ leBytes 8 t.2.1 ++ sBytes 4 t.2.2))
  else none

def CalSeq.heatTerms (c : CalSeq) : Option Bytes :=
  match c.rref with
  | [some a, some b] => some (leBytes 8 a ++ leBytes 8 b)
  | _ => none

/-- The staged set of the open sequence as TERMS, where it is complete. -/
def State.calTerms (s : State) (m : Nat) : Option Bytes :=
  match s.legal.calSeq with
  | none => none
  | some c =>
    match s.mpType m with
    | 1 => c.elecTerms (phaseCount (s.binding m))
    | 3 => c.heatTerms
    | 4 => c.wasteTerms (bindLegal (s.binding m)).length
    | _ => none

/-- The block that COMMIT writes: the terms are whole, for a complete set stages each that its TYPE has (R213). -/
def calNewBlock (m type calcnt : Nat) (terms : Bytes) : Bytes :=
  padTo 96 ([byte m, byte type, 0, 0] ++ leBytes 4 calcnt ++ terms)

/-- The terms of a WASTE point act with its new zero state, at once (R153, R213); those of the other types from the next
whole second (R204). -/
def State.calEnforce (s : State) (m : Nat) (block : Bytes) : State :=
  if s.mpType m = typeWaste then
    (s.modLegal (fun l => { l with calInForce := setAt l.calInForce m block })).resetInstrument m
  else s

def State.calWrite (r : GateRequest) (m : Nat) (s : State) : State :=
  match s.calTerms m with
  | none => s.refuseGate r stBadParam
  | some terms =>
    if s.legal.calcnt ≥ 65535 then s.refuseGate r stDeniedState
    else if !s.sealSpace then (s.noteSealFull (originCode r.origin)).refuseGate r stNoResource
    else
      let n := s.legal.calcnt + 1
      let block := calNewBlock m (s.mpType m) n terms
      let s := s.modLegal (fun l => { l.putCal (setAt l.calStore m block) with
        calcnt := n, calSeq := none, calFault := l.calFault.erase m })
      let s := s.rewriteSlot6
      let s := s.logBoth s.nodeTime false 0x06 0x01 (originCode r.origin) m
        (leBytes 2 n ++ zeros 6 ++ (s.slot 6).take 16)
      (s.calEnforce m block).settleGaps.answer r stDone (leBytes 2 n)

/-- CAL_COMMIT (R213). -/
def execCalCommit (dt : Ticks) (s : State) : Host.Outcome State Fault Refusal :=
  let s := s.elapse dt
  .next (s.calStep 7 State.calWrite)

end Sys2Proof.Machine
end

