-- ==== Sys2Proof/Machine/Aes.lean ====
section
/-! DEFINITION. AES, GCM and the CTR_DRBG step (R268, R273, R274, R389). PRESUMED from FIPS 197,
SP 800-38D and SP 800-90A, log 7. -/

namespace Sys2Proof.Machine

/-- Doubling in the field of AES. -/
def gf2 (a : BitVec 8) : BitVec 8 := if a.getLsbD 7 then (a <<< 1) ^^^ 0x1B#8 else a <<< 1

/-- The product in the field of AES, over the `n` lowest bits of `b`. -/
def gfMul : Nat → BitVec 8 → BitVec 8 → BitVec 8
  | 0, _, _ => 0
  | n + 1, a, b => (if b.getLsbD 0 then a else 0) ^^^ gfMul n (gf2 a) (b >>> 1)

/-- `a ^ 254`, the inverse. -/
def gfInv (a : BitVec 8) : BitVec 8 :=
  let sq := fun x => gfMul 8 x x
  let a2 := sq a
  let a3 := gfMul 8 a2 a
  let a6 := sq a3
  let a12 := sq a6
  let a15 := gfMul 8 a12 a3
  let a240 := sq (sq (sq (sq a15)))
  gfMul 8 a240 (gfMul 8 a12 a2)

/-- The S-box. -/
def aesSub (a : BitVec 8) : BitVec 8 :=
  let i := gfInv a
  i ^^^ i.rotateLeft 1 ^^^ i.rotateLeft 2 ^^^ i.rotateLeft 3 ^^^ i.rotateLeft 4 ^^^ 0x63#8

def xorBytes (a b : Bytes) : Bytes := List.zipWith (· ^^^ ·) a b

/-- Appends `n` key words to the schedule `ws` for a key of `nk` words; `i` is the index of the next
word and `rc` the round constant. -/
def aesExpand (nk : Nat) : Nat → Nat → BitVec 8 → List Bytes → List Bytes
  | 0, _, _, ws => ws
  | n + 1, i, rc, ws =>
    let t := ws.getD (i - 1) (zeros 4)
    let old := ws.getD (i - nk) (zeros 4)
    if i % nk = 0 then
      let r := (t.drop 1 ++ t.take 1).map aesSub
      aesExpand nk n (i + 1) (gf2 rc) (ws ++ [xorBytes old (xorBytes r [rc, 0, 0, 0])])
    else if nk = 8 ∧ i % 8 = 4 then
      aesExpand nk n (i + 1) rc (ws ++ [xorBytes old (t.map aesSub)])
    else aesExpand nk n (i + 1) rc (ws ++ [xorBytes old t])

/-- The round keys, 16 bytes each. -/
def aesKeys (key : Bytes) : List Bytes :=
  let nk := key.length / 4
  let total := 4 * (nk + 7)
  let ws := aesExpand nk (total - nk) nk 0x01#8 ((upTo nk).map (fun i => slice key (4 * i) 4))
  (upTo (nk + 7)).map (fun r => (slice' ws (4 * r) 4).flatten)
where
  slice' (l : List Bytes) (o n : Nat) : List Bytes := (l.drop o).take n

/-- Row shift: byte 4 c + r comes from column c + r. -/
def aesShift (b : Bytes) : Bytes :=
  (upTo 16).map (fun i => b.getD ((i + 4 * (i % 4)) % 16) 0)

/-- One column's mix. -/
def aesMixColumn (c : Bytes) : Bytes :=
  let a := c.getD 0 0
  let b := c.getD 1 0
  let d := c.getD 2 0
  let e := c.getD 3 0
  [gf2 a ^^^ (gf2 b ^^^ b) ^^^ d ^^^ e, a ^^^ gf2 b ^^^ (gf2 d ^^^ d) ^^^ e,
   a ^^^ b ^^^ gf2 d ^^^ (gf2 e ^^^ e), (gf2 a ^^^ a) ^^^ b ^^^ d ^^^ gf2 e]

def aesMix (b : Bytes) : Bytes := (upTo 4).flatMap (fun i => aesMixColumn (slice b (4 * i) 4))

/-- The rounds after the first key addition: the last one does not mix. -/
def aesRounds : List Bytes → Bytes → Bytes
  | [], b => b
  | [k], b => xorBytes (aesShift (b.map aesSub)) k
  | k :: ks, b => aesRounds ks (xorBytes (aesMix (aesShift (b.map aesSub))) k)

/-- AES encryption of one block under a key of 16 or 32 bytes. -/
def aesBlock (key block : Bytes) : Bytes :=
  match aesKeys key with
  | [] => block
  | k :: ks => aesRounds ks (xorBytes block k)

/-- The product in the field of GCM, over the `n` bits of `y` from the top. -/
def gcmMul : Nat → BitVec 128 → BitVec 128 → BitVec 128
  | 0, _, _ => 0
  | n + 1, v, y =>
    (if y.getLsbD 127 then v else 0) ^^^
      gcmMul n (if v.getLsbD 0 then (v >>> 1) ^^^ (0xE1#128 <<< 120) else v >>> 1) (y <<< 1)

/-- GHASH over whole 16-byte blocks. -/
def gcmHash (h : BitVec 128) : Nat → Bytes → BitVec 128 → BitVec 128
  | 0, _, y => y
  | n + 1, bs, y =>
    gcmHash h n (bs.drop 16) (gcmMul 128 h (y ^^^ BitVec.ofNat 128 (beNat (bs.take 16))))

/-- Padded to a multiple of 16 bytes. -/
def pad16 (b : Bytes) : Bytes := b ++ zeros ((16 - b.length % 16) % 16)

/-- `n` blocks of key stream from counter `c`, for a 12-byte IV. -/
def ctrStream (key iv : Bytes) : Nat → Nat → Bytes
  | 0, _ => []
  | n + 1, c => aesBlock key (iv ++ beBytes 4 c) ++ ctrStream key iv n (c + 1)

/-- The text under the counter mode of GCM: encryption and decryption alike. -/
def gcmCrypt (key iv text : Bytes) : Bytes :=
  xorBytes text (ctrStream key iv ((text.length + 15) / 16) 2)

/-- The 16-byte tag over additional data and cipher text. -/
def gcmTag (key iv aad cipher : Bytes) : Bytes :=
  let h := BitVec.ofNat 128 (beNat (aesBlock key (zeros 16)))
  let bs := pad16 aad ++ pad16 cipher ++ beBytes 8 (8 * aad.length) ++ beBytes 8 (8 * cipher.length)
  xorBytes (beBytes 16 (gcmHash h (bs.length / 16) bs 0).toNat) (ctrStream key iv 1 1)

/-- `n` blocks of DRBG output from counter block `v`, with the counter after them. -/
def drbgBlocks (key : Bytes) : Nat → Nat → Bytes × Nat
  | 0, v => ([], v)
  | n + 1, v =>
    let v' := (v + 1) % 2 ^ 128
    let r := drbgBlocks key n v'
    (aesBlock key (beBytes 16 v') ++ r.1, r.2)

/-- The update of key and counter block with 48 bytes. -/
def drbgUpdate (key v data : Bytes) : Bytes × Bytes :=
  let t := xorBytes (drbgBlocks key 3 (beNat v)).1 data
  (t.take 32, t.drop 32)

/-- `n` bytes with the key and counter block after them. -/
def drbgGenerate (key v : Bytes) (n : Nat) : Bytes × Bytes × Bytes :=
  let r := drbgBlocks key ((n + 15) / 16) (beNat v)
  (r.1.take n, drbgUpdate key (beBytes 16 r.2) (zeros 48))

end Sys2Proof.Machine
end

