-- ==== Sys2Proof/Machine/Mbus.lean ====
section
/-! DEFINITION. The M-Bus manager's frames, its poll of an entry, and the volume record that it takes
from a reply (R462 to R465). -/

namespace Sys2Proof.Machine

/-- A short frame of the EN 13757-2 link layer (FT1.2). -/
def shortFrame (c a : Nat) : Bytes := [0x10, byte c, byte a, byte (c + a), 0x16]

/-- A long frame around its user data, C field first. -/
def longFrame (user : Bytes) : Bytes :=
  [0x68, byte user.length, byte user.length, 0x68] ++ user ++ [byte (user.map (·.toNat)).sum, 0x16]

/-- Address 0xFD, to which a selected meter answers. -/
def mbusSelected : Nat := 0xFD

/-- An entry of MBUS_METER (Table 16.4). -/
def State.mbusEntry (s : State) (i : Nat) : Bytes := s.param (0x6100 + i)
def State.mbusMode (s : State) (i : Nat) : Nat := field (s.mbusEntry i) 0 1
def State.mbusPrimary (s : State) (i : Nat) : Nat := field (s.mbusEntry i) 2 1

/-- The entry's rate in baud. -/
def State.mbusRate (s : State) (i : Nat) : Nat :=
  match field (s.mbusEntry i) 1 1 with
  | 0 => 300
  | 1 => 2400
  | _ => 9600

/-- How long a reply is awaited: 330 bit times plus 50 ms, in ns (R464). -/
def State.mbusWait (s : State) (i : Nat) : Nat := 330 * 1000000000 / s.mbusRate i + 50000000

def State.mbusRun (s : State) (i : Nat) : MbusEntry := s.ports.mbus.getD i MbusEntry.reset

def State.modMbus (s : State) (i : Nat) (f : MbusEntry → MbusEntry) : State :=
  s.modPorts (fun p => { p with mbus := p.mbus.modify i f })

/-- SND_NKE to every configured primary address and to 0xFD (R464). -/
def State.mbusNke (s : State) : State :=
  let addrs := ((upTo 64).filter (fun i => s.mbusMode i == 1)).map s.mbusPrimary ++ [mbusSelected]
  let s := s.modPorts (fun p => { p with mbus := p.mbus.map (fun e => { e with fcb := true }) })
  addrs.foldl (fun s a => s.emit (.mbus (shortFrame 0x40 a))) s

/-- Polling begins, with the next boundary still to come: at an AC start or as MBUS_ENABLE becomes 1. -/
def State.mbusStart (s : State) : State :=
  let now := s.nodeTime
  let s := s.modPorts (fun p => { p with mbusCycleAt := now })
  if s.pnum 0x6030 = 1 then s.mbusNke else s

/-- REQ_UD2 with the entry's FCB. -/
def State.sendRequest (s : State) (i a : Nat) : State :=
  let now := s.mono
  (s.emit (.mbus (shortFrame (0x5B + 32 * b2n (s.mbusRun i).fcb) a))).modPorts
    (fun p => { p with mbusSentAt := now })

/-- SND_UD to 0xFD with CI 0x52 and SECONDARY. -/
def State.sendSelect (s : State) (i : Nat) : State :=
  let now := s.mono
  (s.emit (.mbus (longFrame ([0x53, 0xFD, 0x52] ++ slice (s.mbusEntry i) 4 8)))).modPorts
    (fun p => { p with mbusSentAt := now })

/-- The request that the transaction in progress waits on is sent, or sent again. -/
def State.sendPoll (s : State) (i : Nat) (selecting : Bool) : State :=
  if selecting then s.sendSelect i
  else s.sendRequest i (if s.mbusMode i = 1 then s.mbusPrimary i else mbusSelected)

/-- The cycle goes on with the first configured entry from `i` on, or ends (R464, R468). -/
def State.pollFrom (s : State) (i : Nat) : State :=
  let next := if s.pnum 0x6030 = 1 then
      (upTo 64).find? (fun k => decide (i ≤ k) && s.mbusMode k != 0) else none
  match next with
  | none => s.modPorts (fun p => { p with mbusCycle := none, mbusDiscard := false })
  | some k =>
    let sel := s.mbusMode k == 2
    (s.modPorts (fun p => { p with mbusCycle := some (k, 0, sel), mbusDiscard := false })).sendPoll k sel

/-- The user data of a valid long frame from a meter: RSP_UD with CI 0x72 or 0x78 (R462). -/
def mbusUser (frame : Bytes) : Option Bytes :=
  let n := field frame 1 1
  let user := slice frame 4 n
  let c := field user 0 1
  if 3 ≤ n ∧ frame = longFrame user ∧ user.length = n ∧ (c % 16 = 8 ∧ c < 0x40) ∧
      (field user 2 1 = 0x72 ∨ field user 2 1 = 0x78) then some user else none

/-- Bytes of a record's data field (EN 13757-3); none where the record ends what can be read. -/
def recordLength (dataField first : Nat) : Option Nat :=
  match dataField with
  | 0 | 8 => some 0
  | 1 | 9 => some 1
  | 2 | 10 => some 2
  | 3 | 11 => some 3
  | 4 | 12 | 5 => some 4
  | 6 | 14 => some 6
  | 7 => some 8
  | 13 =>
    if first ≤ 0xBF then some (1 + first)
    else if first ≤ 0xEF then some (1 + first % 16)
    else if first ≤ 0xF4 then some (1 + 4 * (first - 0xEC))
    else none
  | _ => none

/-- The bytes of a chain of extensions: all up to and including the first without bit 7. -/
def extensions : Bytes → Nat
  | [] => 0
  | b :: bs => if 128 ≤ b.toNat then 1 + extensions bs else 1

/-- A BCD number; none where a digit is no decimal one. -/
def bcdValue : Bytes → Option Nat
  | [] => some 0
  | b :: bs =>
    match bcdValue bs with
    | none => none
    | some hi =>
      if b.toNat % 16 ≤ 9 ∧ b.toNat / 16 ≤ 9 then some (100 * hi + 10 * (b.toNat / 16) + b.toNat % 16)
      else none

/-- The number of a data field that R465 admits. -/
def recordValue (dataField : Nat) (data : Bytes) : Option Int :=
  if 1 ≤ dataField ∧ dataField ≤ 4 then some (toSigned dataField (leNat data))
  else if 9 ≤ dataField ∧ dataField ≤ 12 then (bcdValue data).map (fun n => (n : Int))
  else none

/-- The volume in mL of the first record that R465 admits. -/
def volumeRecord : Nat → Bytes → Option Int
  | 0, _ => none
  | n + 1, bs =>
    match bs with
    | [] => none
    | dif :: rest =>
      let d := dif.toNat
      if d = 0x2F then volumeRecord n rest
      else
        let difes := if 128 ≤ d then extensions rest else 0
        let vib := rest.drop difes
        let vif := field vib 0 1
        let vibLen := extensions vib
        let text := if vif % 128 = 0x7C then 1 + field vib vibLen 1 else 0
        let body := vib.drop (vibLen + text)
        match recordLength (d % 16) (field body 0 1) with
        | none => none
        | some len =>
          let value := if d / 16 = 0 ∧ 0x10 ≤ vif ∧ vif ≤ 0x17 ∧ len ≤ body.length then
              recordValue (d % 16) (body.take len) else none
          match value with
          | some v => some (v * (10 : Int) ^ (vif % 8))
          | none => volumeRecord n (body.drop len)

/-- The volume of a frame's user data: after C, A, CI and, with CI 0x72, the 12-byte header, where the
data are not encrypted (R462, R465). -/
def userVolume (user : Bytes) : Option Int :=
  if field user 2 1 = 0x78 then volumeRecord user.length (user.drop 3)
  else if user.length < 15 ∨ field user 14 1 % 32 ≠ 0 then none
  else volumeRecord user.length (user.drop 15)

end Sys2Proof.Machine
end

