-- ==== Sys2Proof/Machine/Noise.lean ====
section
/-! DEFINITION. The health tests of the noise source, over its raw bits (R53, R274, SP 800-90B). -/

namespace Sys2Proof.Machine

/-- The cutoffs of R274: identical bits in a row, and bits equal to the first of a window of 1,024. -/
def rctCutoff : Nat := 41
def aptCutoff : Nat := 840
def aptWindow : Nat := 1024

/-- One raw bit enters both tests; the answer says whether the repetition test or the proportion test fails on it. -/
def NoiseTests.feed (t : NoiseTests) (b : Bool) : NoiseTests × Bool × Bool :=
  let run := if t.run ≠ 0 ∧ t.last = b then t.run + 1 else 1
  let first := if t.place = 0 then b else t.first
  let same := (if t.place = 0 then 0 else t.same) + (if first = b then 1 else 0)
  ({ last := b, run := run, first := first, same := same, place := (t.place + 1) % aptWindow },
    decide (rctCutoff ≤ run), decide (aptCutoff ≤ same))

/-- Raw bits in turn, up to the first failure: the answer is which test failed, the repetition test before the
other. -/
def NoiseTests.run_ : NoiseTests → List Bool → NoiseTests × Option Bool
  | t, [] => (t, none)
  | t, b :: rest =>
    match t.feed b with
    | (u, true, _) => (u, some true)
    | (u, false, true) => (u, some false)
    | (u, false, false) => NoiseTests.run_ u rest

/-- The first 1,024 raw bits after a start of the source, bit 0 first. -/
def noiseBits (w : BitVec 1024) : List Bool := (List.range 1024).map w.getLsbD

/-- The start-up tests over them (R274). -/
def startTests (w : BitVec 1024) : NoiseTests × Option Bool := NoiseTests.reset.run_ (noiseBits w)

end Sys2Proof.Machine
end

