-- ==== Sys2Proof/Machine/Command.lean ====
section
/-! DEFINITION. The command processor: the table of opcodes with their rights, the form of an entry, and
what every command's meaning starts with (R292 to R297, R306, R315 to R318). -/

namespace Sys2Proof.Machine

/-- Opcode, whether it is a read, and its origins as HSOF bits 0 to 3 (Tables 12.1 to 12.11). -/
def commandTable : List (Nat × Bool × Nat) :=
  [(0x0101, true, 15), (0x0102, true, 15), (0x0103, true, 15), (0x0104, false, 3), (0x0105, true, 15),
   (0x0106, false, 3), (0x0107, true, 15)] ++
  [(0x0201, true, 15), (0x0202, false, 11), (0x0203, false, 11), (0x0204, true, 15), (0x0205, false, 3)] ++
  [(0x0301, false, 1), (0x0302, false, 1), (0x0303, false, 1), (0x0304, false, 1), (0x0305, true, 3)] ++
  [(0x0401, true, 15), (0x0402, false, 11), (0x0403, true, 15), (0x0404, false, 3), (0x0405, true, 15),
   (0x0406, true, 15), (0x0407, true, 15), (0x0408, false, 3)] ++
  [(0x0501, true, 15), (0x0502, false, 11), (0x0503, false, 3), (0x0504, false, 11), (0x0505, true, 15),
   (0x0506, true, 15), (0x0507, false, 11), (0x0508, true, 15)] ++
  [(0x0601, false, 3), (0x0602, false, 3), (0x0603, false, 3), (0x0604, false, 3), (0x0605, true, 3)] ++
  [(0x0701, true, 15), (0x0702, true, 15), (0x0703, false, 11), (0x0704, true, 15), (0x0705, true, 15),
   (0x0706, false, 3), (0x0707, false, 3)] ++
  [(0x0801, true, 11), (0x0802, false, 2), (0x0803, false, 2), (0x0804, false, 2), (0x0805, false, 2),
   (0x0806, false, 3), (0x0807, true, 11)] ++
  [(0x0901, true, 15), (0x0902, true, 15), (0x0903, false, 11), (0x0904, false, 11), (0x0905, false, 11),
   (0x0906, false, 11), (0x0907, false, 11), (0x0908, true, 15), (0x0909, false, 11), (0x090A, false, 11),
   (0x090B, false, 3), (0x090C, false, 11), (0x090D, false, 11), (0x090E, true, 15)] ++
  [(0x0A01, false, 3), (0x0A02, false, 3), (0x0A03, false, 3), (0x0A04, true, 15), (0x0A05, true, 15),
   (0x0A06, true, 15)]

/-- The row of an opcode; none for an event code and for an undescribed one (R14, R292). -/
def commandRow (opcode : Nat) : Option (Nat × Bool × Nat) := commandTable.find? (fun r => r.1 == opcode)

/-- The functions of the recovery service (R346). -/
def recoveryOpcodes : List Nat := [0x0101, 0x0802, 0x0803, 0x0804, 0x0805, 0x0106]

/-- An entry as the command processor reads it (Table 11.7), with its data. -/
structure Entry where
  opcode : Nat
  tag : Nat
  flags : Nat
  origin : Nat
  status : Nat
  length : Nat
  bufOff : Nat
  bufCap : Nat
  /-- Reserved bytes and bits are 0, and SEQ is 0. -/
  clean : Bool
  bytes : Bytes
  deriving DecidableEq, Repr

def Entry.bulk (e : Entry) : Bool := bit e.flags 0
def Entry.fence (e : Entry) : Bool := bit e.flags 1

def Entry.ofBytes (b : Bytes) : Entry :=
  let flags := field b 4 1
  { opcode := field b 0 2, tag := field b 2 2, flags := flags, origin := field b 5 1
    status := field b 6 1, length := field b 8 4, bufOff := field b 16 4, bufCap := field b 20 4
    clean := flags / 4 == 0 && field b 7 1 == 0 && field b 12 4 == 0 && (!bit flags 0 || rsv b 24 40)
    bytes := b }

/-- The inline payload. -/
def Entry.inlinePayload (e : Entry) : Bytes := (e.bytes.drop 16).take e.length

/-- The Hawk-area range of the host region holds the buffer: it meets no ring and not the pool (R291). -/
def State.inHostRegion (s : State) (off len : Nat) : Bool :=
  let apart (b n : Nat) : Bool := decide (off + len ≤ b) || decide (b + n ≤ off)
  decide (off + len ≤ 0x40000) && off % 64 == 0 &&
    s.hawk.rings.all (fun r => apart r.base (64 * r.size)) && apart s.hawk.poolBase s.hawk.poolSize

/-- The checks of R293 on the entry's own form; on Rilfy and in a tunnel BUF_OFF is 0 and BUF_CAP at
most 4,096 (R304). -/
def State.entryOk (s : State) (o : Origin) (e : Entry) : Bool :=
  e.clean && e.origin == 0 && e.status == 0 &&
    (if e.bulk then
      1 ≤ e.bufCap && e.bufCap ≤ 65536 && e.length ≤ e.bufCap &&
        (if o = .host then s.inHostRegion e.bufOff e.bufCap else e.bufOff == 0 && e.bufCap ≤ 4096)
    else e.length ≤ 48)

/-- The refusal that the processor gives an entry before its own command sees it: DONE where none. No rule
orders an entry's form and its opcode; the model judges an event code first, then the form, then whether the
opcode is described and its origin's rights (DESIGN CHOICE, log 38). The recovery service answers every opcode that
it does not offer with DENIED_STATE before all this (R346). -/
def State.entryStatus (s : State) (o : Origin) (e : Entry) : Nat :=
  if s.boot.stage = 8 ∧ recoveryOpcodes.contains e.opcode = false then stDeniedState
  else if 128 ≤ e.opcode % 256 then stBadOpcode
  else if !s.entryOk o e then stBadParam
  else if s.boot.stage = 8 then stDone
  else
    match commandRow e.opcode with
    | none => stBadOpcode
    | some r => if bit r.2.2 (originCode o) then stDone else stDeniedState

/-- The record of a command taken. -/
def Entry.record (e : Entry) (c : Call) (payload : Bytes) (peer : Nat) : InFlight :=
  { call := c, tag := e.tag, opcode := e.opcode, fence := e.fence, bulk := e.bulk, bufOff := e.bufOff
    bufCap := e.bufCap, payload := payload, gseq := none, accepted := false, peer := peer
    orphan := false }

/-- A command enters the processor: refused with its final response, or in flight (R292 to R297). -/
def State.enterCommand (s : State) (c : Call) (e : Entry) (payload : Bytes) (peer : Nat) : State :=
  let f := e.record c payload peer
  let st := s.entryStatus c.origin e
  if st = stDone then s.modHawk (fun h => { h with inFlight := h.inFlight ++ [f] })
  else s.sendResponse f true st []

/-- A command's meaning: the record in flight, refused with BAD_PARAM where the payload is malformed
or the largest result does not fit its room (R293, R315). -/
def State.onCommand (s : State) (c : Call) (opcode : Nat) (p : Bytes) (ok : Bool) (room : Nat)
    (f : InFlight → State → State) : State :=
  match s.taken c opcode p with
  | none => s
  | some r => if !ok || r.room < room then s.respond r stBadParam [] else f r s

/-- A command that Undercoat answers at once: a status, a result and the state after it. -/
def State.reply (s : State) (f : InFlight) (status : Nat) (result : Bytes := []) : State :=
  s.respond f status result

end Sys2Proof.Machine
end

