-- ==== Sys2Proof/Machine/Panel.lean ====
section
/-! DEFINITION. What the legal layer shows, the mechanical keys and the screens (R164, R222, R237, R422,
R424, R427 to R429, R441, R448 to R450). -/

namespace Sys2Proof.Machine

/-! ### Characters (Table 15.5) -/

/-- The segments of a glyph, a = 0 to g = 6; none for a byte outside Table 15.5. -/
def glyph (c : Nat) : Option (List Nat) :=
  match c with
  | 0x30 => some [0, 1, 2, 3, 4, 5]
  | 0x31 => some [1, 2]
  | 0x32 => some [0, 1, 3, 4, 6]
  | 0x33 => some [0, 1, 2, 3, 6]
  | 0x34 => some [1, 2, 5, 6]
  | 0x35 => some [0, 2, 3, 5, 6]
  | 0x36 => some [0, 2, 3, 4, 5, 6]
  | 0x37 => some [0, 1, 2]
  | 0x38 => some [0, 1, 2, 3, 4, 5, 6]
  | 0x39 => some [0, 1, 2, 3, 5, 6]
  | 0x41 => some [0, 1, 2, 4, 5, 6]
  | 0x62 => some [2, 3, 4, 5, 6]
  | 0x43 => some [0, 3, 4, 5]
  | 0x63 => some [3, 4, 6]
  | 0x64 => some [1, 2, 3, 4, 6]
  | 0x45 => some [0, 3, 4, 5, 6]
  | 0x46 => some [0, 4, 5, 6]
  | 0x48 => some [1, 2, 4, 5, 6]
  | 0x68 => some [2, 4, 5, 6]
  | 0x4C => some [3, 4, 5]
  | 0x6E => some [2, 4, 6]
  | 0x6F => some [2, 3, 4, 6]
  | 0x50 => some [0, 1, 4, 5, 6]
  | 0x72 => some [4, 6]
  | 0x74 => some [3, 4, 5, 6]
  | 0x55 => some [1, 2, 3, 4, 5]
  | 0x75 => some [2, 3, 4]
  | 0x2D => some [6]
  | 0x5F => some [3]
  | 0x20 => some []
  | _ => none

/-- A digit position: the lit segments, a to g 0 to 6 and the decimal point 7. -/
abbrev Cell := List Nat

/-- A text as cells; a point joins the position before it. None for a byte outside Table 15.5 or a point
with no position before it. -/
def cellsOf : List Cell → List Nat → Option (List Cell)
  | acc, [] => some acc.reverse
  | acc, c :: cs =>
    if c = 0x2E ∨ c = 0x2C then
      match acc with
      | [] => none
      | x :: xs => cellsOf ((x ++ [7]) :: xs) cs
    else
      match glyph c with
      | none => none
      | some g => cellsOf (g :: acc) cs

/-- The cells of a text of this file. -/
def textCells (s : String) : List Cell := (cellsOf [] (s.toList.map Char.toNat)).getD []

/-- Right-aligned in `n` positions; what does not fit loses its blanks, then its leftmost (log 32). -/
def fitCells (n : Nat) (cs : List Cell) : List Cell :=
  let cs := if n < cs.length then cs.filter (fun c => !c.isEmpty) else cs
  List.replicate (n - cs.length) [] ++ cs.drop (cs.length - n)

/-- One digit of a number in base 16. -/
def hexDigit (d : Nat) : Cell :=
  (glyph ([0x30, 0x31, 0x32, 0x33, 0x34, 0x35, 0x36, 0x37, 0x38, 0x39, 0x41, 0x62, 0x43, 0x64, 0x45,
    0x46].getD d 0x20)).getD []

/-- `k` digits of `n` in a base, most significant first. -/
def digitsOf (base : Nat) : Nat → Nat → List Nat
  | 0, _ => []
  | k + 1, n => digitsOf base k (n / base) ++ [n % base]

def blankZeros : List Nat → List (Option Nat)
  | [] => []
  | d :: ds => if d = 0 ∧ !ds.isEmpty then none :: blankZeros ds else (d :: ds).map some

/-- A number in decimal on eight cells, leading zeros blank. -/
def decimalCells (n : Nat) : List Cell :=
  (blankZeros (digitsOf 10 8 n)).map (fun d => match d with
    | none => []
    | some d => hexDigit d)

/-- Eight cells on `n` digits: whole, or the upper and the lower four in turn (R222). -/
def halves (n : Nat) (lower : Bool) (cs : List Cell) : List Cell :=
  if n < 8 then fitCells n (if lower then cs.drop 4 else cs.take 4) else fitCells n cs

/-! ### A mass and a register (R237, R428, Table 9.2) -/

/-- Decimals of a mass with interval `e` in g. -/
def massDecimals (e : Nat) : Nat := if e < 10 then 3 else if e < 100 then 2 else if e < 1000 then 1 else 0

/-- A decimal point after cell `k` from the right (0 for none). -/
def pointAt (cs : List Cell) (k : Nat) : List Cell :=
  if k = 0 then cs else modAt cs (cs.length - 1 - k) (· ++ [7])

/-- The significant digits of a number, most significant first. -/
def shortDigits (n : Nat) : List Nat := ((blankZeros (digitsOf 10 20 n)).filterMap id)

/-- A mass in g as a text in kg (R428). -/
def massCells (v : Int) (e : Nat) : List Cell :=
  let d := massDecimals e
  let scaled := v.natAbs / 10 ^ (3 - d)
  let ds := shortDigits scaled
  let ds := List.replicate (d + 1 - ds.length) 0 ++ ds
  (if v < 0 then [[6]] else []) ++ pointAt (ds.map hexDigit) d

/-- A register's value on eight digits (R237). -/
def registerCells (type qd value : Nat) : List Cell :=
  pointAt ((digitsOf 10 8 (value / qdDivisor type qd % 100000000)).map hexDigit) (qdDecimals type qd)

/-- The unit symbol's slot (Tables 9.2 and 15.4). -/
def unitSymbol (type qd : Nat) : Nat :=
  if type = 1 then (if qd ≤ 1 then 10 else if qd ≤ 5 then 11 else 12)
  else if type = 3 ∧ qd ≤ 1 then 10
  else if type = 4 then 9
  else 13

/-! ### The register list (R429) -/

/-- The entries of a pass. -/
def State.registerList (s : State) : List (Nat × Nat × Nat) :=
  (upTo 4).flatMap (fun m =>
    let t := s.mpType m
    let k := (s.point m).bank
    (upTo (qdCount t)).flatMap (fun qd =>
      (m, qd, 0) :: ((upTo 8).filter (fun i => k.reg (8 * qd + i) != 0)).map (fun i => (m, qd, i + 1))))

/-- The lowest-numbered WASTE metering point. -/
def State.wastePoint (s : State) : Option Nat := (pointsWhere (fun m => s.mpType m == typeWaste)).head?

/-- The symbol of a screen flashes through its lower half: 250 ms on, 250 ms off (log 32). -/
def State.flashOn (s : State) : Bool :=
  !s.legal.lowerHalf || (s.mono - (s.legal.screenAt + 2500 * milli)) / (250 * milli) % 2 == 0

/-! ### The content of the legal digits (R427) -/

/-- A row of dashes. -/
def dashes (n : Nat) : List Cell := List.replicate n [6]

/-- The indication of a WASTE metering point: cells and symbols (R157, R164, R428). -/
def State.indication (s : State) (n m : Nat) : List Cell × List Nat :=
  let p := s.point m
  let w := p.weigh
  let c := s.wg m
  let preset := match w.tare with
    | none => false
    | some t => t.preset
  let marks := (if s.weighStable m then [0] else []) ++ (if s.centreZero m then [1] else []) ++
    (if w.tare.isSome then [2] else []) ++ (if preset then [3] else [])
  let shown := if w.tare.isSome then w.net else w.gross
  if p.gap.isSome || p.regFault || w.latest.isNone then (dashes n, marks)
  else if !w.zeroSet then (if w.zeroError then fitCells n (textCells "Err 0") else dashes n, marks)
  else if c.overload w.gross then (List.replicate n [0], marks)
  else if c.underload w.gross then (List.replicate n [3], marks)
  else (fitCells n (massCells (c.indicated shown) (c.eOf shown)), 8 :: marks)

/-- The current entry of the register list. -/
def State.listEntry (s : State) (n : Nat) : List Cell × List Nat :=
  match s.legal.regList with
  | [] => (List.replicate n [], [])
  | (m, qd, t) :: _ =>
    let k := (s.point m).bank
    let type := s.mpType m
    if !s.legal.regValue then
      (fitCells n (textCells "c" ++ [[], hexDigit m, [], hexDigit qd, [], hexDigit t]), [])
    else if (s.point m).gap.isSome || (s.point m).regFault then (dashes n, [])
    else
      let v := if t = 0 then k.sum qd else k.reg (8 * qd + t - 1)
      (halves n s.legal.lowerHalf (registerCells type qd v), if s.flashOn then [unitSymbol type qd] else [])

/-- A SHOW_LCV screen (Table 8.9). -/
def State.lcvScreenCells (s : State) : List Cell :=
  if s.legal.lcvScreen = 1 then (digitsOf 16 8 s.boot.lcv).map hexDigit
  else if s.legal.lcvScreen = 2 then decimalCells s.legal.calcnt
  else decimalCells (s.legal.cfgcnt % 100000000)

/-- N_DIGITS. -/
def State.legalDigits (s : State) : Nat := field (s.param 0x8031) 0 1

/-- The cells and the symbols of the legal layer. -/
def State.legalContent (s : State) : List Cell × List Nat :=
  let n := s.legalDigits
  let standing := (if s.legal.sealOpen then [4] else []) ++ (if s.legal.displayError then [14] else [])
  let x : List Cell × List Nat :=
    if s.boot.displayPhase = 4 then
      (halves n (s.since s.boot.displayPhaseAt (750 * milli)) ((digitsOf 16 8 s.boot.lcv).map hexDigit), [])
    else if s.legal.displayError && s.legal.errShown then (fitCells n (textCells "Err d"), [])
    else if s.legal.lcvScreen ≠ 0 then
      (halves n s.legal.lowerHalf s.lcvScreenCells, if s.flashOn then [4 + s.legal.lcvScreen] else [])
    else
      match s.wastePoint with
      | some m => s.indication n m
      | none => s.listEntry n
  (x.1, standing ++ x.2)

/-- Segment indices in rising order, without repeats. -/
def sortedSegments (l : List Nat) : List Nat := (upTo 512).filter l.contains

/-- Cells through a map whose positions start at `off`, 16 bytes each. -/
def mapCells (map : Bytes) (off : Nat) (cs : List Cell) : List Nat :=
  (numbered cs).flatMap (fun x => x.2.filterMap (fun k =>
    let i := field map (off + 16 * x.1 + 2 * k) 2
    if i < 512 then some i else none))

/-- The image of cells and symbols through LEGAL_DIGIT_MAP (Table 15.2). -/
def State.legalSegments (s : State) (x : List Cell × List Nat) : List Nat :=
  let map := s.param 0x8031
  sortedSegments (mapCells map 4 x.1 ++
    (x.2.map (fun k => field map (132 + 2 * k) 2)).filter (· < 512))

/-- The legal image. -/
def State.legalImage (s : State) : List Nat := s.legalSegments s.legalContent

/-- LEGAL_IMAGE_WRITE (R426). -/
def execLegalImageWrite (dt : Ticks) (s : State) : Host.Outcome State Fault Refusal :=
  let s := s.elapse dt
  let image := s.legalImage
  let mask := s.param 0x8030
  let now := s.mono
  .next (if s.legalRuns then
      s.modDisplay (fun d => { d with
        legalStage := image, maskStage := mask, legalReady := true, legalWritten := some now })
    else s)

/-! ### Keys (R448 to R450) -/

/-- The screens of SHOW_LCV: each press advances (R222). -/
def State.showLcv (s : State) : State :=
  let now := s.mono
  s.modLegal (fun l => { l with
    lcvScreen := (l.lcvScreen + 1) % 4, lowerHalf := false, screenAt := now, regList := [], regValue := false })

/-- What a key's function does. -/
def State.keyFunction (s : State) (f : Nat) : State :=
  if f = 3 then s.showLcv
  else
    match s.wastePoint with
    | none => s
    | some m => if f = 1 then s.zeroKey m else if f = 2 then s.tareKey m else s

/-- KEY_PRESS (R450): `second` says that another key has gone down within this debounce period. -/
def execKeyPress (dt : Ticks) (key : Nat) (second : Bool) (s : State) : Host.Outcome State Fault Refusal :=
  let s := s.elapse dt
  let l := s.legal
  let now := s.mono
  let others := second || (numbered l.keysDown).any (fun x => x.1 != key && x.2)
  .next (if 4 ≤ key || !s.legalRuns || l.keysDown.getD key false then s
    else
      let s := s.modLegal (fun l => { l with
        keysDown := setAt l.keysDown key true, keysAt := setAt l.keysAt key now
        keysWait := l.keysWait || others })
      if others || l.keysWait then s else s.keyFunction (field (s.param 0x8040) key 1))

/-- KEY_RELEASE (R448). -/
def execKeyRelease (dt : Ticks) (key : Nat) (s : State) : Host.Outcome State Fault Refusal :=
  let s := s.elapse dt
  .next (if 4 ≤ key || !s.legalRuns then s
    else s.modLegal (fun l =>
      let down := setAt l.keysDown key false
      { l with keysDown := down, keysStuck := setAt l.keysStuck key false
               keysWait := l.keysWait && down.any id }))

/-- KEY_STUCK (R450): counted once in a stuck period. -/
def execKeyStuck (dt : Ticks) (key : Nat) (s : State) : Host.Outcome State Fault Refusal :=
  let s := s.elapse dt
  let l := s.legal
  .next (if key < 4 && s.legalRuns && l.keysDown.getD key false && !l.keysStuck.getD key false &&
      s.since (l.keysAt.getD key 0) (60 * second) then
      (s.bump 11).modLegal (fun l => { l with keysStuck := setAt l.keysStuck key true })
    else s)

/-! ### Screens -/

/-- SHOW_LCV_TIMEOUT (R222). -/
def execShowLcvTimeout (dt : Ticks) (s : State) : Host.Outcome State Fault Refusal :=
  let s := s.elapse dt
  .next (if s.legalRuns && s.legal.lcvScreen != 0 && s.since s.legal.screenAt (5 * second) then
      s.modLegal (fun l => { l with lcvScreen := 0, lowerHalf := false })
    else s)

/-- SCREEN_HALF_SWITCH (R222, R429). -/
def execScreenHalfSwitch (dt : Ticks) (s : State) : Host.Outcome State Fault Refusal :=
  let s := s.elapse dt
  let l := s.legal
  let eight := l.lcvScreen != 0 || (!l.regList.isEmpty && l.regValue)
  .next (if s.legalRuns && eight && s.legalDigits < 8 && !l.lowerHalf &&
      s.since l.screenAt (2500 * milli) then s.modLegal (fun l => { l with lowerHalf := true })
    else s)

/-- REGISTER_LIST_SCREEN_END (R429): the list runs where nothing before it in R427 shows. -/
def execRegisterListScreenEnd (dt : Ticks) (s : State) : Host.Outcome State Fault Refusal :=
  let s := s.elapse dt
  let l := s.legal
  let now := s.mono
  let pass := s.registerList
  let runs := s.legalRuns && s.boot.displayPhase == 5 && l.lcvScreen == 0 && s.wastePoint.isNone
  .next (if !runs then s
    else
      match l.regList with
      | [] => s.modLegal (fun l => { l with
          regList := pass, regValue := false, lowerHalf := false, screenAt := now })
      | _ :: rest =>
        if !l.regValue then
          (if s.since l.screenAt second then
            s.modLegal (fun l => { l with regValue := true, lowerHalf := false, screenAt := now })
          else s)
        else if s.since l.screenAt (5 * second) then
          s.modLegal (fun l => { l with
            regList := if rest.isEmpty then pass else rest
            regValue := false, lowerHalf := false, screenAt := now })
        else s)

/-- LEGAL_ERROR_FLASH (R441): "Err d" for 1 s in every 5 s. -/
def execLegalErrorFlash (dt : Ticks) (s : State) : Host.Outcome State Fault Refusal :=
  let s := s.elapse dt
  let l := s.legal
  let now := s.mono
  .next (if s.legalRuns && l.displayError && s.since l.errAt (if l.errShown then second else 4 * second) then
      s.modLegal (fun l => { l with errShown := !l.errShown, errAt := now })
    else s)

end Sys2Proof.Machine
end

