-- ==== Sys2Proof/Machine/Waveform.lean ====
section
/-! DEFINITION. What the display's outputs carry: the LCD phases and levels, the EPD levels, the rest state,
and the comparison of the read-back (R59, R430, R431, R433, R435, R437, R440). -/

namespace Sys2Proof.Machine

/-- DISP_MODE in force: 0 OFF, 1 LCD, 2 EPD. -/
def State.dispMode (s : State) : Nat := s.pnumNow 0x4000

/-- LCD_MUX and the waveform in force; a static drive alternates each half-frame in either (R430, log 53). -/
def State.lcdMux (s : State) : Nat := s.pnumNow 0x4001
def State.waveB (s : State) : Bool := s.pnumNow 0x4003 == 1 && s.lcdMux != 1

/-- B: the number of steps of VLCD, one in a static drive (R430). -/
def State.lcdSteps (s : State) : Nat := if s.lcdMux = 1 then 1 else s.pnumNow 0x4002

/-- The phases of a frame (R431). -/
def State.lcdPhases (s : State) : Nat := if s.waveB then s.lcdMux else 2 * s.lcdMux

/-- The frames from one boundary to the next: a pair under waveform B (R425, R431). -/
def State.framesPerBoundary (s : State) : Nat := if s.waveB then 2 else 1

/-- The length of a phase in cycles of the system clock, 384 MHz: an integer division (R431, log 53). -/
def State.phaseCycles (s : State) : Nat :=
  max 1 (roundDiv 384000000 (max 1 (s.pnumNow 0x4004 * s.lcdPhases))).toNat

/-- The phase that runs now, counted from the frame boundary (R425, R431). -/
def State.lcdPhase (s : State) : Nat :=
  (s.mono - s.display.frameAt) * 384 / 1000 / s.phaseCycles % (s.framesPerBoundary * max 1 s.lcdPhases)

/-- The common that a phase selects, and whether it is driven to VLCD: twice in a frame of waveform A with
opposite polarities, once in a frame of waveform B with polarities inverted in alternate frames (R431). -/
def State.selection (s : State) (phase : Nat) : Nat × Bool :=
  let mux := max 1 s.lcdMux
  if s.waveB then (phase % mux, (phase / mux % 2 == 0) == Config.lcdFirstHigh)
  else if Config.lcdAdjacent then (phase / 2 % mux, (phase % 2 == 0) == Config.lcdFirstHigh)
  else (phase % mux, (phase / mux % 2 == 0) == Config.lcdFirstHigh)

/-- The level of a common, in steps of VLCD / B (R430). -/
def comLevel (steps : Nat) (sel : Nat × Bool) (com : Nat) : Nat :=
  if com = sel.1 then (if sel.2 then steps else 0) else (if sel.2 then 1 else steps - 1)

/-- The level of a segment output whose segment on the selected common is lit or not (R430). -/
def segLevel (steps : Nat) (high lit : Bool) : Nat :=
  if lit then (if high then 0 else steps)
  else if steps = 1 then (if high then 1 else 0)
  else if high then 2
  else steps - 2

/-- The level of an LCD output in a phase: COMn 0x100 + n, SEGn n (R430). -/
def State.lcdLevel (s : State) (phase output : Nat) : Nat :=
  let sel := s.selection phase
  if 0x100 ≤ output then comLevel s.lcdSteps sel (output - 0x100)
  else segLevel s.lcdSteps sel.2 (s.display.composite.contains (64 * sel.1 + output))

/-- What segment `j` holds in a phase of an EPD update, by its class, of the four rails V+, V-, +V_C and -V_C
(Table 15.7, R437). -/
def EpdUpdate.level (u : EpdUpdate) (j phase : Nat) (r : Int × Int × Int × Int) (before : Int) : Int :=
  let c := u.classes.getD j 0
  if c = 1 then (if phase % 2 = 1 then r.2.1 else r.1)
  else if c = 2 then (if phase % 2 = 1 then r.1 else r.2.1)
  else if c = 3 then
    (if bit (u.counts.getD j 0) phase then (if 0 < before then r.2.2.2 else r.2.2.1) else 0)
  else 0

/-- The newest ledger record, and what it holds; before the first one every ledger is 0 (R438, R439, log 5). -/
def Display.recGen (d : Display) : Nat := (d.records.head?.map (·.gen)).getD 0
def Display.recLedger (d : Display) : List Int := (d.records.head?.map (·.ledger)).getD (List.replicate 48 0)
def Display.total (d : Display) : Nat := (d.records.head?.map (·.total)).getD 0

/-- The update that an OPEN record describes. -/
def Display.recUpdate (d : Display) : Option EpdUpdate :=
  d.records.head?.bind (fun r => if r.isOpen then r.update else none)

/-- The nominal rails in mV (R433). -/
def nominalRails : Int × Int × Int × Int := (15000, -15000, 1875, -1875)

/-- The nominal level of an EPD output in mV: TOP, and a segment outside an update, stay at 0 V (R433). -/
def State.epdLevel (s : State) (output : Nat) : Int :=
  match s.display.update with
  | none => 0
  | some u => if 48 ≤ output then 0 else u.level output u.phase nominalRails (s.display.recLedger.getD output 0)

/-- The outputs are at rest: before the display sequence, with the display off and where nothing runs (R59, R432,
R443, R61). -/
def State.displayRests (s : State) : Bool := s.boot.displayPhase < 1 || s.dispMode == 0 || s.boot.held

/-- What an output carries now, in mV over the number given with it (R430, R433). -/
def State.outputNow (s : State) (output : Nat) : Int × Nat :=
  if s.displayRests then (0, 1)
  else if s.dispMode = 1 then
    (if s.boot.displayPhase < 2 then (0, 1)
    else ((s.lcdLevel s.lcdPhase output * s.display.vlcd : Nat), s.lcdSteps))
  else (s.epdLevel output, 1)

/-- A measured output, in mV, does not meet its expected level: half a step in LCD mode, in EPD mode 20 %, or 1 V
about 0 V (R440). -/
def State.misreads (s : State) (output : Nat) (measured : Int) : Bool :=
  let e := s.outputNow output
  let off := (measured * e.2 - e.1).natAbs
  if s.dispMode = 1 then s.display.vlcd < 2 * off
  else if e.1 = 0 then 1000 < off
  else e.1.natAbs < 5 * off

/-- The frame or the EPD phase of a check. -/
def State.checkNumber (s : State) : Nat :=
  if s.dispMode = 1 then s.display.frames + s.lcdPhase / max 1 s.lcdPhases else s.display.epdPhases

end Sys2Proof.Machine
end

