-- ==== Sys2Proof/Machine/Display.lean ====
section
/-! DEFINITION. The composer, the LCD generator, the EPD drive with its ledger, the read-back and the
display commands (chapter 15, R59, R328). -/

namespace Sys2Proof.Machine

/-! ### Segments and layers (R420, R423, R425) -/

/-- A segment of the display in the mode in force. -/
def State.segmentNow (s : State) (i : Nat) : Bool :=
  if s.dispMode = 1 then i < 64 * s.pnumNow 0x4001 else if s.dispMode = 2 then i < 48 else false

/-- The composer holds segment `i` for the legal layer: by the mask of the legal image that it has copied, and with the
display off by the stored one (R423, R446). -/
def State.masked (s : State) (i : Nat) : Bool :=
  maskBit (if s.dispMode = 0 then s.param 0x8030 else s.display.maskLive) i

/-- The segment of icon `k`, or 0xFFFF. -/
def State.iconSegment (s : State) (k : Nat) : Nat := field (s.paramNow 0x4030) (2 * k) 2

/-- The segments of ICON_MAP. -/
def State.iconSegments (s : State) : List Nat := ((upTo 32).map s.iconSegment).filter (· < 512)

/-- The segments of a commercial group. -/
def State.groupSegments (s : State) (g : Nat) : List Nat :=
  let map := s.paramNow (0x4020 + g)
  (indices map 2 (8 * field map 0 1)).filter (· < 512)

/-- The provisional field of a metering point where it is shown (R170, R172): its group's segments and
those lit. -/
def State.provSegments (s : State) (m : Nat) : List Nat × List Nat :=
  let p := (s.point m).prov
  if !p.shown then ([], [])
  else
    let g := s.pnum (pointId m 0x63)
    let map := s.paramNow (0x4020 + g)
    let n := field map 0 1
    let c := s.wg m
    let v := p.last.headD 0
    (s.groupSegments g, mapCells map 2 (fitCells n (massCells (c.indicated v) (c.eOf v))))

/-- The composite image (R423), with the provisional field and its icon. -/
def State.compose (s : State) : List Nat :=
  let d := s.display
  let icons := s.iconSegments
  let provs := (upTo 4).map s.provSegments
  let provIcon := (upTo 4).any (fun m => (s.point m).prov.shown)
  let status := if provIcon then s.iconSegment 31 :: d.statusLive else d.statusLive
  (upTo 512).filter (fun i => s.segmentNow i &&
    (if s.masked i then d.legalLive.contains i
    else if icons.contains i then status.contains i
    else
      match provs.find? (fun x => x.1.contains i) with
      | some x => x.2.contains i
      | none => d.commLive.contains i))

/-- What the panel is to show: the start sequence's ALL_ON and ALL_OFF, then the layers (R59). -/
def State.target (s : State) : List Nat :=
  if s.boot.displayPhase = 2 then (upTo 512).filter s.segmentNow
  else if s.boot.displayPhase < 4 then []
  else s.compose

/-- Ready staging copies become live; a legal image ends LEGAL_STALE and brings the mask that it was written for (R425,
R426, R446). -/
def State.copyLayers (s : State) : State :=
  let now := s.mono
  s.modDisplay (fun d => { d with
    legalLive := if d.legalReady then d.legalStage else d.legalLive
    maskLive := if d.legalReady then d.maskStage else d.maskLive
    legalAt := if d.legalReady then some now else d.legalAt
    stale := d.stale && !d.legalReady
    commLive := if d.commReady then d.commStage else d.commLive
    statusLive := if d.statusReady then d.statusStage else d.statusLive
    legalReady := false, commReady := false, statusReady := false })

/-- The COMM_COMMIT commands that waited for the boundary complete (R328). -/
def State.finishCommits (s : State) : State :=
  let calls := s.display.commits
  let s := s.modDisplay (fun d => { d with commits := [] })
  calls.foldl (fun s c =>
    match s.accepted c 0x0604 with
    | none => s
    | some f => s.respond f stDone []) s

/-! ### The EPD drive (R433 to R438) -/

/-- Lower bounds of bands 1 to 7 in °C (Table 15.6). -/
def bandBounds : List Int := [0, 5, 10, 15, 25, 35, 50]

def bandOf (t : Int) : Nat := (bandBounds.filter (fun b => decide (b ≤ t))).length

/-- The band of an update, with 1 K of hysteresis about the last one (R434). -/
def nextBand (last : Nat) (t : Int) : Nat :=
  if 7 < last then bandOf t
  else
    let above := last = 0 || decide (bandBounds.getD (last - 1) 0 - 1 ≤ t)
    let below := last = 7 || decide (t < bandBounds.getD last 0 + 1)
    if above && below then last else bandOf t

/-- The length of a band's update in U. -/
def bandLength (b : Nat) : Nat := [1152, 864, 672, 576, 384, 336, 288, 240].getD b 384

/-- The ticks of a phase (R435, R437). -/
def EpdUpdate.ticks (u : EpdUpdate) : Nat :=
  if u.kind = 8 then 2 ^ u.phase
  else 32 * bandLength u.kind / (if u.phase = 1 ∨ u.phase = 4 then 6 else 3)

/-- The update has run all its phases. -/
def EpdUpdate.ended (u : EpdUpdate) : Bool :=
  if u.kind = 8 then 15 ≤ u.phase else 5 ≤ u.phase

/-- The next binary phase in which any segment takes part, from `k`. -/
def nextBinary (counts : List Nat) (k : Nat) : Nat :=
  ((upTo 15).filter (fun i => decide (k ≤ i) && counts.any (fun n => bit n i))).headD 15

/-- The 316 bytes of a ledger record before its CRC (Table 15.8). -/
def LedgerRecord.body (r : LedgerRecord) : Bytes :=
  let u : EpdUpdate := r.update.getD ⟨0, [], [], 0, 0⟩
  let packed (w : Nat) (l : List Nat) : Nat := ((numbered l).map (fun x => x.2 * 2 ^ (w * x.1))).sum
  leBytes 4 r.gen ++ [if r.isOpen then 1 else 2, byte u.kind, 0, 0] ++ r.ledger.flatMap (sBytes 4) ++
    leBytes 12 (packed 2 u.classes) ++ leBytes 4 r.total ++
    leBytes 90 (if u.kind = 8 then packed 15 u.counts else 0) ++ zeros 10

/-- The 320 bytes of a ledger record. -/
def LedgerRecord.toBytes (r : LedgerRecord) : Bytes := r.body ++ leBytes 4 (crc32 r.body)

/-- A ledger record is written: the next GEN, OPEN or CLOSED, in place of the oldest of 16 (R438). A CLOSED record keeps
KIND, CLASS and COMP_N of the one before it (DEDUCED, log 32). -/
def State.writeLedger (s : State) (u : Option EpdUpdate) : State :=
  s.modDisplay (fun d =>
    let kept := d.records.head?.bind (·.update)
    let r : LedgerRecord :=
      { gen := (d.recGen + 1) % 4294967296, isOpen := u.isSome, update := if u.isSome then u else kept
        ledger := d.ledger, total := d.totalUpdates }
    { d with records := (r :: d.records).take 16 })

/-- A loss of power leaves the newest record half-written, so that its CRC fails: an OPEN one before its drive has begun,
or a CLOSED one (R438, R439). -/
def State.tearLedger (s : State) : State :=
  if s.display.recUpdate.isSome && !s.aon.railIntegrals.isEmpty then s
  else s.modDisplay (fun d => { d with records := d.records.drop 1 })

/-- An update starts: the OPEN record, then the drive, with the always-on domain's generation. -/
def State.startUpdate (s : State) (kind : Nat) (classes counts : List Nat) (phase : Nat) : State :=
  let now := s.mono
  let u : EpdUpdate := ⟨kind, classes, counts, phase, now⟩
  let s := s.writeLedger (some u)
  let gen := s.display.recGen % 65536
  (s.modAon (fun a => { a with updGen := gen, railIntegrals := [] })).modDisplay (fun d => { d with
    update := some u })

/-- The class of each segment for a target image (R434). -/
def State.classesFor (s : State) (target : List Nat) (full : Bool) : List Nat :=
  (upTo 48).map (fun i =>
    let on := target.contains i
    if on != s.display.panel.contains i || full then (if on then 1 else 2) else 0)

/-- A full refresh is due (R434), and the display test takes full updates (R59). -/
def State.fullDue (s : State) : Bool :=
  let d := s.display
  d.lastFull.1 + s.pnumNow 0x4011 ≤ d.totalUpdates || s.since d.lastFull.2 (86400 * second) ||
    (2 ≤ s.boot.displayPhase && s.boot.displayPhase ≤ 3)

/-- The composer examines the layers in EPD mode. -/
def State.epdBoundary (s : State) (dieTemp : Int) : State :=
  let d := s.display
  let full := s.fullDue
  let now := s.mono
  let due := d.composite != d.panel || d.lastFull.1 + s.pnumNow 0x4011 ≤ d.totalUpdates ||
    s.since d.lastFull.2 (86400 * second) ||
    (2 ≤ s.boot.displayPhase && s.boot.displayPhase ≤ 3 && d.lastFull.2 < s.boot.displayPhaseAt)
  if !due then s
  else
    let band := nextBand d.tempBand (dieTemp + toSigned 1 (s.pnumNow 0x4010))
    let s := s.startUpdate band (s.classesFor d.composite full) [] 1
    s.modDisplay (fun d => { d with
      tempBand := band, frames := (d.frames + 1) % 4294967296
      totalUpdates := (d.totalUpdates + 1) % 4294967296
      lastFull := if full then ((d.totalUpdates + 1) % 4294967296, now) else d.lastFull })

/-- A frame begins, or under waveform B a pair of them (R425, R431, R442). -/
def State.beginFrame (s : State) : State :=
  let now := s.mono
  let n := s.framesPerBoundary
  s.modDisplay (fun d => { d with frames := (d.frames + n) % 4294967296, frameAt := now })

/-- DISPLAY_FRAME_BOUNDARY (R425): in EPD mode only while no update runs. -/
def execDisplayFrameBoundary (dt : Ticks) (dieTemp : Int) (s : State) : Host.Outcome State Fault Refusal :=
  let s := s.elapse dt
  .next (if s.boot.displayPhase < 2 || s.dispMode = 0 || s.display.update.isSome then s
    else
      let s := s.bringIntoForce (fun id => decide (0x4000 ≤ id ∧ id < 0x5000))
      let s := s.copyLayers
      let image := s.target
      let s := (s.modDisplay (fun d => { d with composite := image })).finishCommits
      if s.dispMode = 1 then s.beginFrame
      else if s.dispMode = 2 then s.epdBoundary dieTemp
      else s)

/-- The ticks from the last sample before a phase to its start: a sample falls once per U of 32 ticks, and only the phases
of a compensating pulse begin between two (R436, R437). -/
def EpdUpdate.tickOffset (u : EpdUpdate) : Nat :=
  if u.kind = 8 then
    (((upTo u.phase).filter (fun k => u.counts.any (fun n => bit n k))).map (fun k => 2 ^ k)).sum % 32
  else 0

/-- The sum over the `n` ticks of a phase that begins `o` ticks behind the first of the samples: for each tick the latest
sample (R436). -/
def railIntegral (o n : Nat) (l : List Int) : Int :=
  ((numbered l).map (fun x =>
    let last := x.1 + 1 = l.length
    x.2 * (((if last then n else min n (32 * (x.1 + 1) - o)) - (32 * x.1 - o) : Nat) : Int))).sum

/-- EPD_PHASE_END (R435, R436): the samples of the rails in force during the phase, oldest first. -/
def execEpdPhaseEnd (dt : Ticks) (rails : List RailSamples) (s : State) : Host.Outcome State Fault Refusal :=
  let s := s.elapse dt
  let now := s.mono
  .next (match s.display.update with
    | none => s
    | some u =>
      if u.ended || !s.since u.phaseAt (u.ticks * second / 32768) then s
      else
        let total (f : RailSamples → Int) : Int := railIntegral u.tickOffset u.ticks (rails.map f)
        let r := (total (·.vPlus), total (·.vMinus), total (·.cPlus), total (·.cMinus))
        let late : RailSamples := rails.getLastD ⟨0, 0, s.display.vcPlus, s.display.vcMinus⟩
        let next := if u.kind = 8 then nextBinary u.counts (u.phase + 1) else u.phase + 1
        (s.modAon (fun a => { a with railIntegrals := a.railIntegrals ++ [r] })).modDisplay (fun d => { d with
          ledger := (numbered d.ledger).map (fun x =>
            clampInt (-2147483648) 2147483647 (x.2 + u.level x.1 u.phase r (d.recLedger.getD x.1 0)))
          vcPlus := late.cPlus, vcMinus := late.cMinus, epdPhases := (d.epdPhases + 1) % 4294967296
          update := some { u with phase := next, phaseAt := now } }))

/-- Outside the balance window (R436). -/
def outside (l : Int) : Bool := 65536 < l.natAbs

/-- The ticks of a compensating pulse (R437). -/
def State.pulseTicks (s : State) (l : Int) : Nat :=
  let vc := (if 0 < l then s.display.vcMinus else s.display.vcPlus).natAbs
  if outside l then min 32767 (roundDiv l.natAbs (max 1 vc)).toNat else 0

/-- A compensating pulse on every segment outside the window, where there is one. -/
def State.compensate (s : State) : State :=
  let counts := s.display.ledger.map s.pulseTicks
  if counts.all (· == 0) then s
  else s.startUpdate 8 (counts.map (fun n => if n = 0 then 0 else 3)) counts (nextBinary counts 0)

/-- EPD_UPDATE_END (R437, R438, R443, R447). -/
def execEpdUpdateEnd (dt : Ticks) (s : State) : Host.Outcome State Fault Refusal :=
  let s := s.elapse dt
  .next (match s.display.update with
    | none => s
    | some u =>
      if !u.ended then s
      else
        let s := s.modDisplay (fun d => { d with
          update := none, panel := if u.kind = 8 then d.panel else d.composite })
        (s.writeLedger none).compensate)

/-! ### The start sequence (R59), the stale rule (R426), VLCD (R432) -/

/-- A mismatch in the display test (R59, R441). -/
def State.failTest (s : State) : State :=
  (s.modDisplay (fun d => { d with testFail := true })).modBoot (fun b => { b with warn := b.warn ||| 0x20 })

/-- The legal display error latches (R441, fault DISPLAY_LEGAL of Table 19.2). -/
def State.latchDisplayError (s : State) : State :=
  if s.legal.displayError then s
  else
    let now := s.mono
    let s := s.modLegal (fun l => { l with displayError := true, errShown := true, errAt := now })
    (s.postEvent 0x0680 [byte s.dflags]).postFault 0x0012

/-- The running phase of the display sequence has ended. -/
def State.sequencePhaseOver (s : State) : Bool :=
  let at_ := s.boot.displayPhaseAt
  let d := s.display
  match s.boot.displayPhase with
  | 1 => d.update.isNone && d.ledger.all (fun l => !outside l)
  | 2 | 3 =>
    if s.dispMode = 2 then d.update.isNone && d.panel == s.target && decide (at_ ≤ d.lastFull.2) &&
      decide (0 < d.totalUpdates)
    else s.since at_ (if s.boot.displayPhase = 2 then 600 * milli else 200 * milli)
  | 4 => s.since at_ (1500 * milli)
  | _ => false

/-- DISPLAY_SEQUENCE_PHASE_END (R59): a test that passes clears the latch of R441. -/
def execDisplaySequencePhaseEnd (dt : Ticks) (mismatch : Bool) (s : State) :
    Host.Outcome State Fault Refusal :=
  let s := s.elapse dt
  let now := s.mono
  .next (if !s.sequencePhaseOver then s
    else
      let k := s.boot.displayPhase
      let test := k == 2 || k == 3
      let s := if mismatch && test then s.failTest.latchDisplayError else s
      let s := if k = 3 && !s.display.testFail then
          s.modLegal (fun l => { l with displayError := false, errorOutputs := [], errShown := false })
        else s
      s.modBoot (fun b => { b with displayPhase := k + 1, displayPhaseAt := now }))

/-- DISPLAY/STALE is logged with the latched time at the LC's first opportunity (R426). -/
def State.logStale (s : State) : State :=
  match s.display.staleTime with
  | none => s
  | some t =>
    if s.legalRuns then
      (s.logEvent 0x0E 0x02 0xFF (leBytes 8 t)).modDisplay (fun d => { d with staleTime := none })
    else s

/-- LEGAL_STALE (R426). -/
def execLegalStale (dt : Ticks) (s : State) : Host.Outcome State Fault Refusal :=
  let s := s.elapse dt
  let n := s.legalDigits
  let image := s.legalSegments (dashes n, [])
  let t := s.nodeTime
  .next (if s.boot.displayPhase = 5 && s.dispMode != 0 && !s.display.stale &&
      s.since (s.display.legalAt.getD s.boot.displayPhaseAt) (2 * second) then
      (s.modDisplay (fun d => { d with legalLive := image, stale := true, staleTime := some t })).logStale
    else s)

/-- VLCD in mV (R432). -/
def State.vlcdAt (s : State) (dieTemp : Int) : Nat :=
  (clampInt 2500 5400 ((s.pnumNow 0x4005 : Int) - 2 * s.pnumNow 0x4006 * (dieTemp - 25))).toNat

/-- VLCD_UPDATE (R432). -/
def execVlcdUpdate (dt : Ticks) (dieTemp : Int) (s : State) : Host.Outcome State Fault Refusal :=
  let s := s.elapse dt
  let v := if s.dispMode = 1 && 2 ≤ s.boot.displayPhase then s.vlcdAt dieTemp else 0
  .next (s.modDisplay (fun d => { d with vlcd := v }))

/-! ### Read-back (R440, R441) -/

/-- SEGn is n, COMn 0x100 + n, TOP 0x200 (Table 19.3): a COM, TOP, or a SEG that carries a masked
segment is a legal output. -/
def State.legalOutput (s : State) (o : Nat) : Bool :=
  0x100 ≤ o || (if s.dispMode = 2 then s.masked o else (upTo 8).any (fun c => s.masked (64 * c + o)))

/-- An output that the mode drives. -/
def State.driven (s : State) (output : Nat) : Bool :=
  if s.dispMode = 1 then output < 64 || (0x100 ≤ output && output < 0x100 + s.pnumNow 0x4001)
  else s.dispMode == 2 && s.display.update.isSome && (output < 48 || output == 0x200)

/-- An output is in error (R440, R441). -/
def State.outputError (s : State) (output : Nat) : State :=
  if !s.legalOutput output then s.bump 9
  else
    let test := s.boot.displayPhase ≤ 3
    let s := if test then s.failTest else s
    let s := s.latchDisplayError
    if s.legalRuns && !s.legal.errorOutputs.contains output then
      (s.logEvent 0x0E 0x01 0xFF (leBytes 2 output)).modLegal (fun l => { l with
        errorOutputs := output :: l.errorOutputs })
    else s

/-- The check of an output that mismatches, in the frame or phase `n` of it, is kept. -/
def State.suspect (s : State) (output n : Nat) : State :=
  s.modDisplay (fun d => { d with suspects := (output, n) :: d.suspects.filter (fun x => x.1 != output) })

/-- READBACK_MISMATCH (R440): an output measured at mid-phase, in mV, that mismatches its expected level and did so in
the frame or phase before is in error. -/
def execReadbackMismatch (dt : Ticks) (output : Nat) (measured : Int) (s : State) : Host.Outcome State Fault Refusal :=
  let s := s.elapse dt
  let n := s.checkNumber
  .next (if !s.driven output || s.boot.displayPhase < 2 || !s.misreads output measured then s
    else if s.display.suspects.any (fun x => x.1 == output && (x.2 + 1) % 4294967296 == n % 4294967296) then
      (s.suspect output n).outputError output
    else s.suspect output n)

/-! ### Commands (Table 12.7, R328, R424, R442) -/

/-- Undercoat serves a staging write only after a committed image has been copied (R425). -/
def State.stagingOpen (s : State) : Bool := !(s.display.commReady || s.display.statusReady)

/-- The commercial staging copy with the segments of `area` set as `lit` says. -/
def State.stageComm (s : State) (area lit : List Nat) : State :=
  s.modDisplay (fun d => { d with
    commStage := (upTo 512).filter (fun i => if area.contains i then lit.contains i else d.commStage.contains i) })

/-- The AC writes bits of these segments: one that the legal mask reserves is discarded, and the command is one blocked attempt
of row 5 of Table 8.1, counted and logged (R205, R328, log 32). -/
def State.discardMasked (s : State) (touched : List Nat) : State :=
  if touched.any s.masked then s.blocked 5 else s

/-- COMM_SEGMENTS (R328). -/
def execCommSegments (dt : Ticks) (c : Call) (p : Bytes) (s : State) : Host.Outcome State Fault Refusal :=
  let s := s.elapse dt
  let com := field p 0 1
  let bits := field p 4 8
  let epd := s.pnum 0x4000 == 2
  let ok := p.length == 12 && com ≤ 7 && rsv p 1 3 && (!epd || (com == 0 && bits < 2 ^ 48))
  .next (if s.stagingOpen then
      s.onCommand c 0x0601 p ok 0 (fun f s =>
        let row := (upTo 64).map (64 * com + ·)
        let lit := row.filter (fun i => bit bits (i % 64))
        let area := row.filter (fun i => !s.masked i)
        ((s.discardMasked lit).stageComm area lit).reply f stDone)
    else s)

/-- COMM_DIGITS (R424). -/
def execCommDigits (dt : Ticks) (c : Call) (p : Bytes) (s : State) : Host.Outcome State Fault Refusal :=
  let s := s.elapse dt
  let g := field p 0 1
  let map := s.param (0x4020 + g)
  let n := field map 0 1
  let text := ((slice p 4 16).takeWhile (· != 0)).map (·.toNat)
  let cells := cellsOf [] text
  let fits := match cells with
    | none => false
    | some cs => decide (cs.length ≤ n)
  let ok := p.length == 20 && g ≤ 7 && rsv p 1 3 && fits
  .next (if s.stagingOpen then
      s.onCommand c 0x0602 p ok 0 (fun f s =>
        let group := (indices map 2 (8 * n)).filter (fun i => i < 512)
        let lit := mapCells map 2 (cells.getD [])
        ((s.discardMasked (lit.filter group.contains)).stageComm (group.filter (fun i => !s.masked i)) lit).reply f
          stDone)
    else s)

/-- STATUS_ICONS (R423): a bit in both SET and CLEAR ends cleared (log 32). -/
def execStatusIcons (dt : Ticks) (c : Call) (p : Bytes) (s : State) : Host.Outcome State Fault Refusal :=
  let s := s.elapse dt
  let set := field p 0 4
  let clear := field p 4 4
  let ok := p.length == 8 && !bit set 31 && !bit clear 31
  .next (if s.stagingOpen then
      s.onCommand c 0x0603 p ok 0 (fun f s =>
        let named (w : Nat) : List Nat :=
          (((upTo 31).filter (fun k => bit w k)).map s.iconSegment).filter (fun i => i < 512)
        let segs (w : Nat) : List Nat := (named w).filter (fun i => !s.masked i)
        ((s.discardMasked (named set ++ named clear)).modDisplay (fun d => { d with
          statusStage := (upTo 512).filter (fun i =>
            (d.statusStage.contains i || (segs set).contains i) && !(segs clear).contains i) })).reply f
              stDone)
    else s)

/-- COMM_COMMIT (R328): with no frames running there is no boundary, and it completes at once (log 32). -/
def execCommCommit (dt : Ticks) (c : Call) (p : Bytes) (s : State) : Host.Outcome State Fault Refusal :=
  let s := s.elapse dt
  let layers := field p 0 1
  .next (s.onCommand c 0x0604 p (p.length == 1 && layers ≤ 3) 0 (fun f s =>
    let s := s.modDisplay (fun d => { d with
      commReady := d.commReady || bit layers 0, statusReady := d.statusReady || bit layers 1 })
    if s.dispMode = 0 then
      (s.modDisplay (fun d => { d with
        commLive := if d.commReady then d.commStage else d.commLive
        statusLive := if d.statusReady then d.statusStage else d.statusLive
        commReady := false, statusReady := false })).reply f stDone
    else (s.accept f).modDisplay (fun d => { d with commits := d.commits ++ [c] })))

/-- The ledger of largest magnitude, in V·ms (R442). -/
def Display.ledgerMax (d : Display) : Int :=
  roundDiv (d.ledger.foldl (fun m l => if m.natAbs < l.natAbs then l else m) 0) 32768

/-- DISPLAY_STATUS (R442). -/
def execDisplayStatus (dt : Ticks) (c : Call) (p : Bytes) (s : State) : Host.Outcome State Fault Refusal :=
  let s := s.elapse dt
  let d := s.display
  let mode := s.pnum 0x4000
  .next (s.onCommand c 0x0605 p (p.length == 0) 16 (fun f s =>
    s.reply f stDone ([byte mode, byte s.dflags] ++ leBytes 2 (if mode = 2 then 0 else d.vlcd) ++
      leBytes 4 d.frames ++ sBytes 4 d.ledgerMax ++ [byte (if mode = 1 then 0xFF else d.tempBand), 0, 0, 0])))

end Sys2Proof.Machine
end

