-- ==== Sys2Proof/Machine/Image.lean ====
section
/-! DEFINITION. Images and banks: where they lie, the manifest, the check of an image, the selection that
Primer makes, and the interfaces (R49 to R53, R490, R491, R497). Components are numbered 0 Igfaen, 1 FA
microcode, 2 Undercoat, 3 FE microcode: their codes less 2. -/

namespace Sys2Proof.Machine

/-! ### Where a bank lies (Table 13.4) -/

/-- The flash offset of a bank. -/
def bankOffset (k : Nat) (b : Bool) : Nat :=
  match k with
  | 0 => if b then 0x100000 else 0x000000
  | 1 => if b then 0x240000 else 0x200000
  | 2 => if b then 0x700000 else 0x300000
  | _ => if b then 0x2C0000 else 0x280000

/-- The sectors of a bank's region. -/
def bankSize (k : Nat) : Nat := [16, 4, 64, 4].getD k 4

def bankSectors (k : Nat) (b : Bool) : List Nat :=
  (upTo (bankSize k)).map (bankOffset k b / 65536 + ·)

/-- The largest payload in bytes. -/
def maxPayload (k : Nat) : Nat := [448, 128, 3072, 192].getD k 0 * 1024

/-- The xSPI window (Table 13.1). -/
def flashBase : Nat := 0x40000000

def State.flashBytes (s : State) (off n : Nat) : Bytes := Memory.readBytes s.mem.cells (flashBase + off) n

/-! ### The erase journal (Table 13.5) -/

def Flash.word (f : Flash) (sector : Nat) : JournalWord :=
  (f.journal.find? (fun w => w.sector == sector)).getD ⟨sector, 0, 0, 0⟩

/-- The journal with a word put in its place, sectors rising. -/
def insertWord (w : JournalWord) : List JournalWord → List JournalWord
  | [] => [w]
  | x :: xs =>
    if x.sector < w.sector then x :: insertWord w xs
    else if x.sector = w.sector then w :: xs
    else w :: x :: xs

def State.putWord (s : State) (w : JournalWord) : State :=
  s.modFlash (fun f => { f with journal := insertWord w f.journal })

/-- STATE 1, and the reserved states, which are treated alike. -/
def JournalWord.erasing (w : JournalWord) : Bool := w.state == 1 || 4 ≤ w.state

/-! ### The manifest (Table 18.1) and the check of an image (R50 step 2) -/

/-- The stepping of B0 (Table 2.3). -/
def stepping : Nat := 0xB0

def imageKeyBytes : Bytes := beBytes 64 Config.imageKey.toNat

/-- What a manifest must hold, and its signature. -/
def manifestOk (k : Nat) (m : Bytes) : Bool :=
  field m 0 4 == 0x06404D46 && field m 4 1 == 1 && field m 5 1 == k + 2 && field m 6 1 ≤ stepping &&
    stepping ≤ field m 7 1 && 1 ≤ field m 16 4 && field m 16 4 ≤ maxPayload k && rsv m 20 12 &&
    rsv m 70 2 && rsv m 84 44 && sha256 (slice m 128 64) == sha256 imageKeyBytes &&
    ecdsaVerify (slice m 128 64) (sha256 (m.take 192)) (slice m 192 64)

def Component.bank (c : Component) (b : Bool) : Bank := if b then c.bankB else c.bankA
def Component.active (c : Component) : Bank := c.bank c.activeB
def Component.inactive (c : Component) : Bank := c.bank (!c.activeB)

def Component.putBank (c : Component) (b : Bool) (x : Bank) : Component :=
  if b then { c with bankB := x } else { c with bankA := x }

def Component.setState (c : Component) (b : Bool) (st : BankState) : Component :=
  c.putBank b { c.bank b with state := st }

/-- The 256 bytes of a bank's manifest; those of an image of manufacture are opaque (log 6). -/
def State.manifest (s : State) (k : Nat) (b : Bool) : Bytes :=
  if ((s.component k).bank b).factory then leBytes 256 (Config.factoryManifest k).toNat
  else s.flashBytes (bankOffset k b) 256

/-- The manifest of the image that is active. -/
def State.running (s : State) (k : Nat) : Bytes := s.manifest k (s.component k).activeB

/-- The payload of a bank; that of an image of manufacture is opaque (log 6). -/
def State.payload (s : State) (k : Nat) (b : Bool) : Bytes :=
  if ((s.component k).bank b).factory then Config.factoryPayload k
  else s.flashBytes (bankOffset k b + 0x10000) (field (s.manifest k b) 16 4)

def State.manifestVerifies (s : State) (k : Nat) (b : Bool) : Bool :=
  ((s.component k).bank b).factory || manifestOk k (s.manifest k b)

/-- A bank passes the check; an image of manufacture does (log 6). -/
def State.imageOk (s : State) (k : Nat) (b : Bool) : Bool :=
  ((s.component k).bank b).factory ||
    (manifestOk k (s.manifest k b) && sha256 (s.payload k b) == slice (s.manifest k b) 32 32)

/-- VERSION and RELEASE of a manifest. -/
def versionOf (m : Bytes) : Nat := field m 8 4
def releaseOf (m : Bytes) : Nat := field m 12 4

/-! ### The interfaces (R491) -/

/-- Interface `i` of a manifest, 0 FAI, 1 GATE, 2 FEI: what it implements, and the range it accepts. -/
def implOf (m : Bytes) (i : Nat) : Nat := field m (64 + 2 * i) 2
def accepts (m : Bytes) (i v : Nat) : Bool := field m (72 + 4 * i) 2 ≤ v && v ≤ field m (74 + 4 * i) 2

/-- Two manifests meet on an interface. -/
def meets (i : Nat) (a b : Bytes) : Bool :=
  implOf a i != 0 && implOf b i != 0 && accepts b i (implOf a i) && accepts a i (implOf b i)

/-- The running images of two components meet; two images of manufacture do (log 6). -/
def State.runningMeet (s : State) (i a b : Nat) : Bool :=
  ((s.component a).active.factory && (s.component b).active.factory) ||
    meets i (s.running a) (s.running b)

/-! ### The selection (R50) and the boot record (R523) -/

/-- A condition of HW.BOOT_WARN. -/
def State.warn (s : State) (bit : Nat) : State :=
  s.modBoot (fun b => { b with warn := b.warn ||| BitVec.ofNat 32 (2 ^ bit) })

/-- HW.BOOT_ERROR keeps its first condition (R47). -/
def State.bootError (s : State) (code component : Nat) (bankB : Bool) : State :=
  if s.boot.errCode ≠ 0 then s
  else s.modBoot (fun b => { b with errCode := code, errComponent := component, errBankB := bankB })

/-- An UPDATE event (Table 12.12). -/
def State.announceUpdate (s : State) (k kind : Nat) (b : Bool) : State :=
  s.announce 0x0880 [byte (k + 2), byte kind, byte (b2n b)]

/-- A damaged boot record of a non-legal component is rebuilt (R523). -/
def State.rebuildRecord (s : State) (k : Nat) : State :=
  if !(s.component k).recordBad then s
  else
    let okA := s.imageOk k false
    let okB := s.imageOk k true
    let st (ok : Bool) : BankState := if ok then .confirmed else .empty
    s.modComponent k (fun c => { c with
      activeB := !okA && okB, recordBad := false, trialSince := none
      bankA := { c.bankA with state := st okA, complete := false }
      bankB := { c.bankB with state := st okB, complete := false } })

/-- Step 1: a bank in TRIAL is reverted. -/
def State.revertTrial (s : State) (k : Nat) : State :=
  let c := s.component k
  if c.active.state ≠ .trial then s
  else
    let s := s.modComponent k (fun c =>
      { (c.setState c.activeB .rejected) with activeB := !c.activeB, trialSince := none, trialCommits := 0 })
    let s := (s.warn 3).announceUpdate k 3 c.activeB
    if k < 2 then s.modBoot (fun b => { b with imageLog := 3, imageSealed := false }) else s

/-- Steps 2 and 3: the active bank, or the other one where it is CONFIRMED, runs. -/
def State.pickBank (s : State) (k : Nat) : State :=
  let c := s.component k
  if c.active.state != .empty && c.active.state != .rejected && s.imageOk k c.activeB then
    s.modComponent k (fun c => { c with running := true })
  else
    let s := s.modComponent k (fun c =>
      { (c.setState c.activeB .rejected) with trialSince := none, trialCommits := 0 })
    if c.inactive.state = .confirmed ∧ s.imageOk k (!c.activeB) = true then
      let s := (s.modComponent k (fun c => { c with activeB := !c.activeB, running := true })).warn 2
      if k < 2 then s.modBoot (fun b => { b with imageLog := 4, imageSealed := false }) else s
    else s.modComponent k (fun c => { c with running := false })

/-- Step 4: a STAGED inactive bank becomes VALID or EMPTY (R497). -/
def State.checkStaged (s : State) (k : Nat) : State :=
  let c := s.component k
  let b := !c.activeB
  let x := c.inactive
  if x.state ≠ .staged then s
  else
    let whole := (bankSectors k b).all (fun n => !(s.flash.word n).erasing)
    if x.complete && whole && s.imageOk k b then
      s.modComponent k (fun c => c.putBank b { x with state := .valid, complete := false })
    else (s.modComponent k (fun c => c.putBank b { x with state := .empty, complete := false })).warn 4

/-- The Undercoat region of system SRAM (Table 13.1). -/
def undercoatBase : Nat := 0x20000000

/-- Primer streams an image into its destination (R52): legal SRAM, the filter array's instruction memory,
system SRAM from the start of the Undercoat region (log 6), or the fabric engine's memory. -/
def State.loadImage (s : State) (k : Nat) (image : Bytes) : State :=
  let s := s.modBoot (fun b => { b with loaded := setAt b.loaded k image })
  if k = 2 then s.modMem (fun m => { m with cells := Memory.writeBytes m.cells undercoatBase image }) else s

/-- Primer selects, measures and loads a component's image (R50, R52); `revert` is false at the restart of an
activation. -/
def State.selectImage (revert : Bool) (s : State) (k : Nat) : State :=
  let s := s.rebuildRecord k
  let s := if revert then s.revertTrial k else s
  let s := (s.pickBank k).checkStaged k
  let c := s.component k
  if !c.running then s
  else
    let image := s.payload k c.activeB
    ((s.putSlot (k + 2) (sha256 image)).modBoot (fun b => { b with
      versions := setAt b.versions k (versionOf (s.running k)) })).loadImage k image

/-- The LCV of the legal images that run (R53). -/
def State.legalCheckValue (s : State) : Nat :=
  beNat ((sha256 (s.payload 0 (s.component 0).activeB ++ s.payload 1 (s.component 1).activeB)).take 4)

/-- The images of the legal side, or of the other, are usable and meet (R51). -/
def State.legalImages (s : State) : Bool :=
  (s.component 0).running && (s.component 1).running && s.runningMeet 0 0 1

def State.appImages (s : State) : Bool :=
  (s.component 2).running && (s.component 3).running && s.runningMeet 2 2 3

/-- The component that HW.BOOT_ERROR names for a pair: the first without a usable image, or the second
where the two do not meet (log 34). -/
def State.missing (s : State) (a b : Nat) : Nat := if !(s.component a).running then a else b

/-- Images that do not run. -/
def State.stopImages (s : State) (ks : List Nat) : State :=
  ks.foldl (fun s k => (s.modComponent k (fun c => { c with running := false })).modBoot (fun b => { b with
    versions := setAt b.versions k 0, loaded := setAt b.loaded k [] })) s

end Sys2Proof.Machine
end

