-- ==== Sys2Proof/Machine/Retained.lean ====
section
/-! DEFINITION. The always-on domain: its retained buffer, the drain, and its supply (R57, R58, R66, R67,
R99, R206 to R208). -/

namespace Sys2Proof.Machine

/-! ### Entries (Table 2.10) -/

/-- Bytes 0 to 6. -/
def RetainedEntry.head (e : RetainedEntry) : Bytes :=
  leBytes 4 e.rtcSec ++ [byte e.sub, byte e.source, byte e.level]

/-- CHECK is good and no field holds a reserved value. -/
def RetainedEntry.ok (e : RetainedEntry) : Bool :=
  crc8 e.head == e.check && e.sub ≤ 7 && e.source ≤ 3 && e.level ≤ 1

/-- The node time that a log entry takes from it (R215). -/
def RetainedEntry.time (e : RetainedEntry) : Nat := e.rtcSec * second + e.sub * 125000000

def srcSeal : Nat := 0
def srcCover : Nat := 1
def srcTerm : Nat := 2
def srcPower : Nat := 3

/-- A change of level is stored at the RTC's time, or lost where the buffer is full (R57, R66). -/
def AlwaysOn.store (a : AlwaysOn) (source level : Nat) : AlwaysOn :=
  if 64 ≤ a.buffer.length then { a with overflow := true }
  else
    let e : RetainedEntry := ⟨a.rtcSec, a.rtcFrac / 4096, source, level, 0⟩
    { a with buffer := a.buffer ++ [{ e with check := crc8 e.head }] }

/-- One switch of a sample: its change is stored, and a transition to low counted. -/
def AlwaysOn.switch (a : AlwaysOn) (source : Nat) (before after : Bool) : AlwaysOn :=
  if before = after then a
  else
    let a := a.store source (b2n after)
    if after then a
    else
      match source with
      | 0 => { a with sealCount := satAdd 65535 a.sealCount 1 }
      | 1 => { a with coverCount := satAdd 65535 a.coverCount 1 }
      | _ => { a with termCount := satAdd 65535 a.termCount 1 }

/-- A sample of the three switches; the first one only gives the reference levels. -/
def AlwaysOn.sample (a : AlwaysOn) (l : PinLevels) : AlwaysOn :=
  match a.levels with
  | none => { a with levels := some l }
  | some b =>
    let a := ((a.switch srcSeal b.sealHigh l.sealHigh).switch srcCover b.coverHigh l.coverHigh).switch
      srcTerm b.termHigh l.termHigh
    { a with levels := some l }

/-! ### Seal sessions (R206 to R208) -/

/-- DATA of SEAL/OPEN and SEAL/CLOSE (Table 8.8). -/
def State.sealData (s : State) : Bytes :=
  leBytes 4 s.legal.sealsess ++ leBytes 2 s.legal.calcnt ++ zeros 2 ++ leBytes 4 s.legal.cfgcnt ++
    leBytes 4 s.boot.lcv ++ (s.slot 7).take 8

/-- The seal opens: a session starts. -/
def State.openSession (s : State) (time : Nat) (rtc : Bool) : State :=
  let s := s.modLegal (fun l => { l with
    sealsess := satAdd 0xFFFFFFFF l.sealsess 1, session := true, sealOpen := true, fullLogged := false })
  (s.logBoth time rtc 0x03 0x01 0xFF 0xFF s.sealData).tell (.sealState true)

/-- The session ends; a calibration sequence left incomplete is discarded (R40, R214). -/
def State.closeSession (s : State) (time : Nat) (rtc : Bool) : State :=
  let s := s.modLegal (fun l => { l with session := false, sealOpen := false })
  ((s.logBoth time rtc 0x03 0x02 0xFF 0xFF s.sealData).discardCal 1 0xFF).tell (.sealState false)

/-! ### The drain (R58) -/

/-- A TAMPER entry with the counter as it stands after the transitions so far. -/
def State.logTamper (s : State) (e : RetainedEntry) (code counter lows : Nat) : State :=
  s.logAt e.time true 0x04 code 0xFF 0xFF
    ([byte e.level, 0, 0, 0] ++ leBytes 4 (satAdd 0xFFFFFFFF counter lows))

/-- The event-log entry of a MAIN_POWER entry (R58): class POWER, whose outages have no code of their own among
those listed and no DATA (Table 8.7, Table 19.3), so one of the listed codes and the DATA are free (log 9). -/
def State.logOutage (s : State) (e : RetainedEntry) : State :=
  let d := s.drawFree 200
  d.2.logAt e.time true 0x01 (1 + d.1.toNat % 3) 0xFF 0xFF (leBytes 24 (d.1.toNat / 256))

/-- One entry of a drain, with the transitions to low of TMP_COVER_N and TMP_TERM_N so far: each enters the
event log, a seal entry the seal log too (R58). A high level of SEAL_N ends the session that is open. -/
def drainEntry (x : State × Nat × Nat) (e : RetainedEntry) : State × Nat × Nat :=
  let (s, cover, term) := x
  let low := b2n (e.level == 0)
  if !e.ok then x
  else
    match e.source with
    | 0 =>
      (if e.level = 0 then s.openSession e.time true
       else if s.legal.session then s.closeSession e.time true
       else s.logBoth e.time true 0x03 0x02 0xFF 0xFF s.sealData, cover, term)
    | 1 => (s.logTamper e 0x01 s.legal.tamperCover (cover + low), cover + low, term)
    | 2 => (s.logTamper e 0x02 s.legal.tamperTerm (term + low), cover, term + low)
    | _ =>
      let s := s.logOutage e
      (if e.level = 0 then
        (if s.legal.session then s.closeSession e.time true else s).modBoot (fun b => { b with
          lossRtc := some e.rtcSec })
      else s, cover, term)

/-- Step 4: the drained part leaves the buffer, in one always-on write. -/
def AlwaysOn.remove (a : AlwaysOn) (n : Nat) (c : List Nat) : AlwaysOn :=
  { a with
    buffer := a.buffer.drop n
    sealCount := a.sealCount - c.getD 0 0
    coverCount := a.coverCount - c.getD 1 0
    termCount := a.termCount - c.getD 2 0
    epoch := (a.epoch + 1) % 65536 }

/-- What a drain logs beside the entries: those that fail their check, and lost ones (R58, R66). -/
def State.logLost (s : State) (a : AlwaysOn) (c : List Nat) : State :=
  let bad := (a.buffer.filter (fun e => !e.ok)).length
  let s := if bad = 0 then s else (s.logEvent 0x04 0x03 0xFF (leBytes 2 bad)).warn 8
  let s := if a.overflow || c.contains 65535 then
      s.logEvent 0x04 0x04 0xFF (c.flatMap (leBytes 2)) else s
  if a.overflow then s.warn 7 else s

/-- Step 0: the buffer takes an epoch. -/
def State.drainEpoch (s : State) : State :=
  if s.aon.epochSet then s
  else s.modAon (fun a => { a with epoch := (s.legal.committedEpoch + 1) % 65536, epochSet := true })

/-- Steps 1 to 3, one step in legal MRAM. -/
def State.drainCommit (s : State) : State :=
  let a := s.aon
  let n := a.buffer.length
  let c := [a.sealCount, a.coverCount, a.termCount]
  let s := (a.buffer.foldl drainEntry (s, 0, 0)).1
  let s := s.logLost a c
  s.modLegal (fun l => { l with
    tamperSeal := satAdd 0xFFFFFFFF l.tamperSeal a.sealCount
    tamperCover := satAdd 0xFFFFFFFF l.tamperCover a.coverCount
    tamperTerm := satAdd 0xFFFFFFFF l.tamperTerm a.termCount
    committedEpoch := a.epoch, committedN := n, committedC := c })

/-- Step 4 with the committed N and C. -/
def State.drainRemove (s : State) : State :=
  s.modAon (fun a => a.remove s.legal.committedN s.legal.committedC)

/-- A new drain: steps 0 to 4. -/
def State.drainNew (s : State) : State :=
  (s.drainEpoch.drainCommit.drainRemove).modAon (fun a => { a with overflow := false })

/-- A step 4 that the last drain did not reach is carried out, without logging or counting (R58). -/
def State.drainPending (s : State) : State :=
  if s.aon.epochSet && s.aon.epoch == s.legal.committedEpoch then s.drainRemove else s

/-- The drain: a step 4 that did not take place comes first. -/
def State.drain (s : State) : State := if !s.aon.powered then s else s.drainPending.drainNew

/-- A drain that a loss of power cuts: it has set the buffer's epoch alone, or has committed its steps 1 to 3
and not come to step 4 (R67). -/
def State.drainCut (committed : Bool) (s : State) : State :=
  if !s.aon.powered then s
  else
    let s := s.drainPending.drainEpoch
    if committed then s.drainCommit else s

/-- TAMPER_SAMPLE (R57). -/
def execTamperSample (dt : Ticks) (levels : PinLevels) (s : State) : Host.Outcome State Fault Refusal :=
  let s := s.elapse dt
  .next (if s.aon.powered then s.modAon (·.sample levels) else s)

/-- RETAINED_DRAIN (R58): while the node runs, at each new entry. -/
def execRetainedDrain (dt : Ticks) (s : State) : Host.Outcome State Fault Refusal :=
  let s := s.elapse dt
  let a := s.aon
  .next (if s.legalRuns && a.powered &&
      (!a.buffer.isEmpty || a.sealCount + a.coverCount + a.termCount != 0) then s.drain else s)

/-- AON_POWER_UP (R57, R99). -/
def execAonPowerUp (dt : Ticks) (levels : PinLevels) (s : State) : Host.Outcome State Fault Refusal :=
  let s := s.elapse dt
  .next (if s.aon.powered then s
    else s.modAon (fun a => { a with
      powered := true, rtcSec := 0, rtcFrac := 0, trim := 0, trimAcc := 0, rtcValid := false
      levels := some levels, buffer := [], sealCount := 0, coverCount := 0, termCount := 0
      epoch := 0, epochSet := false, overflow := false, updGen := 0, railIntegrals := [] }))

/-- AON_SUPPLY_LOSS (R99): the domain runs from VBAT or VDD_IO, so it loses its supply only while
VDD_IO is away. -/
def execAonSupplyLoss (dt : Ticks) (s : State) : Host.Outcome State Fault Refusal :=
  let s := s.elapse dt
  .next (if s.aon.powered && (!s.aon.mainPower || !(s.boot.railsGood.getD 1 true)) then
      s.modAon (fun a => { a with powered := false, rtcValid := false, lostSupply := true })
    else s)

/-- MAIN_POWER_RETURN (R57): stored at detection. -/
def execMainPowerReturn (dt : Ticks) (s : State) : Host.Outcome State Fault Refusal :=
  let s := s.elapse dt
  .next (if s.aon.mainPower then s
    else s.modAon (fun a => { (if a.powered then a.store srcPower 1 else a) with mainPower := true }))

end Sys2Proof.Machine
end

