-- ==== Sys2Proof/Machine/Certificates.lean ====
section
/-! DEFINITION. The certificate chain of R256 in DER, as READ_CERT gives it out (R332). What R256 leaves
open of a certificate (the names of the authorities, notBefore, the kinds of string, further extensions,
the nonces of the authorities' signatures) is opaque (log 8). -/

namespace Sys2Proof.Machine

/-- The DER length octets of `n` content octets. -/
def derLength (n : Nat) : Bytes :=
  if n < 128 then [byte n]
  else if n < 256 then [0x81#8, byte n]
  else 0x82#8 :: beBytes 2 n

/-- One DER element. -/
def der (tag : BitVec 8) (content : Bytes) : Bytes := tag :: (derLength content.length ++ content)

def derSeq (l : List Bytes) : Bytes := der 0x30#8 l.flatten
def derSet (content : Bytes) : Bytes := der 0x31#8 content

/-- The octets of a positive number, with none in front that the form does not need: the last `k`. -/
def natOctets : Nat → Nat → Bytes
  | 0, _ => []
  | k + 1, n => if n = 0 then [] else natOctets k (n / 256) ++ [byte n]

/-- The DER INTEGER `n` of at most 256 bits. -/
def derInt (n : Nat) : Bytes :=
  let o := natOctets 32 n
  der 0x02#8 (if (o.headD 0x80#8).getLsbD 7 then 0x00#8 :: o else o)

/-- A DER BIT STRING of whole octets. -/
def derBits (content : Bytes) : Bytes := der 0x03#8 (0x00#8 :: content)

/-- ecdsa-with-SHA256, 1.2.840.10045.4.3.2. -/
def algEcdsaSha256 : Bytes := derSeq [der 0x06#8 [0x2A#8, 0x86#8, 0x48#8, 0xCE#8, 0x3D#8, 0x04#8, 0x03#8, 0x02#8]]

/-- id-ecPublicKey, 1.2.840.10045.2.1, on prime256v1, 1.2.840.10045.3.1.7. -/
def algP256 : Bytes :=
  derSeq [der 0x06#8 [0x2A#8, 0x86#8, 0x48#8, 0xCE#8, 0x3D#8, 0x02#8, 0x01#8],
    der 0x06#8 [0x2A#8, 0x86#8, 0x48#8, 0xCE#8, 0x3D#8, 0x03#8, 0x01#8, 0x07#8]]

/-- The subjectPublicKeyInfo of a public key, X then Y. -/
def derKey (pub : Bytes) : Bytes := derSeq [algP256, derBits (0x04#8 :: pub)]

/-- A name attribute: 2.5.4.`n` and its text. -/
def derAttribute (n : Nat) (text : String) : Bytes :=
  derSet (derSeq [der 0x06#8 [0x55#8, 0x04#8, byte n], der Config.nameTag (ascii text)])

/-- The four bits of `n` at digit `i`, as an upper-case hex digit. -/
def certDigit (n i : Nat) : Char := "0123456789ABCDEF".toList.getD (n / 16 ^ i % 16) '0'

/-- CN "GL640 " and NODE_ID as 16 upper-case hex digits. -/
def nodeName : String :=
  "GL640 " ++ String.ofList ((upTo 16).map (fun i => certDigit nodeId (15 - i)))

/-- What a certificate states of its holder and issuer. -/
structure CertBody where
  serial : Nat
  issuer : Bytes
  notAfter : Bytes
  subject : Bytes
  key : Bytes
  usage : Option (BitVec 8)
  deriving DecidableEq, Repr

/-- The Distinguished Name of authority `a`: 0 Root, 1 Device, 2 Image. -/
def caName (a : Nat) : Bytes := der 0x30#8 ((Config.caName a).take 96)

/-- The scalar of authority `a`. -/
def caScalar (a : Nat) : Nat := toScalar (Config.caKey a)

/-- The subject of a node's certificate (R256). -/
def nodeSubject (unit : String) : Bytes :=
  let cn := derAttribute 3 nodeName
  let ou := derAttribute 11 unit
  derSeq (if Config.unitFirst then [ou, cn] else [cn, ou])

/-- notAfter 99991231235959Z (R256). -/
def farFuture : Bytes := der 0x18#8 (ascii "99991231235959Z")

/-- One of the node's two certificates (R256). -/
def nodeCert (unit : String) (key : BitVec 256) : CertBody :=
  { serial := nodeId, issuer := caName 1, notAfter := farFuture, subject := nodeSubject unit,
    key := ecPublic (toScalar key), usage := some 0x80#8 }

/-- The certificate of authority `a`, issued by the Root. -/
def caCert (a : Nat) : CertBody :=
  { serial := (Config.caSerial a).toNat, issuer := caName 0, notAfter := (Config.caNotAfter a).take 20,
    subject := caName a, key := ecPublic (caScalar a), usage := none }

/-- What certificate `which` of R332 states. -/
def certBody (which : Nat) : CertBody :=
  match which with
  | 0 => nodeCert "READING" Config.readingKey
  | 1 => nodeCert "ATTEST" Config.attestKey
  | 2 => caCert 1
  | 3 => caCert 2
  | 4 => { serial := (Config.caSerial 3).toNat, issuer := caName 2, notAfter := (Config.caNotAfter 3).take 20,
           subject := caName 3, key := beBytes 64 Config.imageKey.toNat, usage := none }
  | _ => caCert 0

/-- The authority that signs certificate `which`: the Root itself and the two authorities, the Device
authority the node's own, the Image authority the image key's (R256). -/
def certSigner (which : Nat) : Nat :=
  match which with
  | 0 => 1
  | 1 => 1
  | 4 => 2
  | _ => 0

/-- The extensions: the key usage, where R256 gives it, and what it leaves open. -/
def certExtensions (which : Nat) (usage : Option (BitVec 8)) : Bytes :=
  let extra := (Config.certExtra which).take 200
  match usage with
  | none => extra
  | some u =>
    derSeq ([der 0x06#8 [0x55#8, 0x1D#8, 0x0F#8]] ++ (if Config.usageCritical then [der 0x01#8 [0xFF#8]] else []) ++
      [der 0x04#8 (der 0x03#8 [0x07#8, u])]) ++ extra

/-- The part of a version 3 certificate that is signed. -/
def certTbs (which : Nat) : Bytes :=
  let b := certBody which
  derSeq [der 0xA0#8 (derInt 2), derInt b.serial, algEcdsaSha256, b.issuer,
    derSeq [(Config.certNotBefore which).take 20, b.notAfter], b.subject, derKey b.key,
    der 0xA3#8 (derSeq [certExtensions which b.usage])]

/-- The ECDSA signature with private scalar `d` and nonce `k`, as DER. -/
def derSignature (d k : Nat) (digest : Bytes) : Bytes :=
  let r := match ecMul k p256G with
    | none => 0
    | some (x, _) => x % p256N
  derSeq [derInt r, derInt (invMod p256N k * (beNat digest + r * d) % p256N)]

/-- The DER bytes of certificate `which`, signed with ECDSA and SHA-256 over P-256 (R256). -/
def certificate (which : Nat) : Bytes :=
  let tbs := certTbs which
  derSeq [tbs, algEcdsaSha256,
    derBits (derSignature (caScalar (certSigner which)) (toScalar (Config.certNonce which)) (sha256 tbs))]

/-- The fingerprint of the Root's certificate that a verifier trusts (R257). -/
def rootFingerprint : Bytes :=
  beBytes 32 0x7C1E4A90D3B258F60E7A9C41B65D2F0388A7E1C9346B5D0FA2E817C49B36F05D

/-- Whether a verifier trusts a chain that ends at this certificate (R257). -/
def rootTrusted (c : Bytes) : Bool := sha256 c == rootFingerprint

end Sys2Proof.Machine
end

