-- ==== Sys2Proof/Machine/Services.lean ====
section
/-! DEFINITION. The commands of the groups system, channels, weighing, registers and time that Undercoat
answers from what it knows, and those that it forwards to the gate unchanged (Tables 12.1 to 12.6,
12.10). -/

namespace Sys2Proof.Machine

/-- A command whose payload becomes a gate request unchanged (R297, R318). -/
def State.forward (s : State) (c : Call) (opcode : Nat) (p : Bytes) (ok : Bool) (room code : Nat) : State :=
  s.onCommand c opcode p ok room (fun f s => s.submit f code p)

/-! ### System (Table 12.1) -/

/-- GET_INFO (R317). -/
def execGetInfo (dt : Ticks) (c : Call) (p : Bytes) (s : State) : Host.Outcome State Fault Refusal :=
  let s := s.elapse dt
  .next (s.onCommand c 0x0101 p (p.length == 0) 48 (fun f s =>
    s.reply f stDone (leBytes 4 chipId ++ s.boot.versions.flatMap (leBytes 4) ++ leBytes 8 nodeId ++
      leBytes 4 s.boot.lcv ++ leBytes 4 s.bootStageWord ++ leBytes 4 s.boot.warn.toNat ++
      leBytes 4 s.boot.cause.toNat)))

/-- The sizes of the READ_STATUS extensions (Table 12.2). -/
def extSizes : List Nat := [48, 48, 48, 104, 24, 24, 20, 8]

/-- READ_STATUS (R321). -/
def execReadStatus (dt : Ticks) (c : Call) (p : Bytes) (s : State) : Host.Outcome State Fault Refusal :=
  let s := s.elapse dt
  .next (s.forward c 0x0102 p (p.length == 2) (extSizes.getD (field p 0 1) 0) 0x01)

/-- PING (R317). -/
def execPing (dt : Ticks) (c : Call) (p : Bytes) (s : State) : Host.Outcome State Fault Refusal :=
  let s := s.elapse dt
  .next (s.onCommand c 0x0107 p (p.length ≤ 48) p.length (fun f s => s.reply f stDone p))

/-- GET_PARAM_INFO (R339). -/
def execGetParamInfo (dt : Ticks) (c : Call) (p : Bytes) (s : State) : Host.Outcome State Fault Refusal :=
  let s := s.elapse dt
  let id := field p 0 2
  .next (s.onCommand c 0x0105 p (p.length == 2) 8 (fun f s =>
    match paramInfo id with
    | none => s.reply f stBadParam
    | some i => s.reply f stDone (leBytes 2 id ++ leBytes 2 i.size ++ [byte (s.classNow id), byte i.rule,
        byte i.route, byte (b2n (lookupParam s.params id).isSome)])))

/-! ### Channels (Table 12.3) -/

/-- CHAIN_INFO (R322). -/
def execChainInfo (dt : Ticks) (c : Call) (p : Bytes) (s : State) : Host.Outcome State Fault Refusal :=
  let s := s.elapse dt
  .next (s.forward c 0x0201 p (p.length == 1) 32 0x01)

/-- SYNC_NOW (Table 5.12): the trigger arrives `latePs` after the write, within 81.4 ns to 122.1 ns. -/
def execSyncNow (dt : Ticks) (c : Call) (p : Bytes) (latePs : Nat) (s : State) :
    Host.Outcome State Fault Refusal :=
  let s := s.elapse dt
  .next (s.onCommand c 0x0202 p (p.length == 0) 8 (fun f s =>
    if !s.syncAllowed 2 then s.ignoreSync.reply f stDeniedState
    else if s.inHoldoff then s.ignoreSync.reply f stBusy
    else if s.modDom.source = .stopped || !s.legalRuns then s.reply f stFault
    else
      let e := s.nodeTime + min (max latePs 81400) 122100 / 1000
      (s.syncEvent 2 e).reply f stDone (leBytes 8 e)))

/-- The refusal of SYNC_AT at arming (Table 5.12). -/
def State.syncAtStatus (s : State) (t : Nat) : Nat :=
  if !s.syncAllowed 3 then stDeniedState
  else if s.inHoldoff then stBusy
  else if s.modDom.source = .stopped || !s.legalRuns then stFault
  else if s.ntu.status ≠ .fine then stDeniedState
  else if t < s.nodeTime + 100 * micro then stTimeout
  else if s.nodeTime + 3600 * second < t then stBadParam
  else stDone

/-- SYNC_AT (Table 5.12): armed, it is ACCEPTED. -/
def execSyncAt (dt : Ticks) (c : Call) (p : Bytes) (s : State) : Host.Outcome State Fault Refusal :=
  let s := s.elapse dt
  let t := field p 0 8
  .next (s.onCommand c 0x0203 p (p.length == 8) 8 (fun f s =>
    let st := s.syncAtStatus t
    if st ≠ stDone then
      (if !s.syncAllowed 3 || s.inHoldoff then s.ignoreSync else s).reply f st
    else ((s.disarmSync.accept f).modSync (fun y => { y with armed := some (t, c) })).acknowledge f))

/-- SYNC_STATUS (R145). -/
def execSyncStatus (dt : Ticks) (c : Call) (p : Bytes) (s : State) : Host.Outcome State Fault Refusal :=
  let s := s.elapse dt
  let y := s.sync
  let armed := match y.armed with
    | none => 0
    | some a => a.1
  let hold := match y.acceptedAt with
    | none => 0
    | some t => ((t : Int) + 60 * second + s.ntu.steps).toNat
  .next (s.onCommand c 0x0204 p (p.length == 0) 32 (fun f s =>
    s.reply f stDone ([byte y.lastSource, byte (b2n y.armed.isSome)] ++ leBytes 2 y.ignored ++ zeros 4 ++
      leBytes 8 y.lastE ++ leBytes 8 armed ++ leBytes 8 hold)))

/-- CALIBRATE (R212). -/
def execCalibrate (dt : Ticks) (c : Call) (p : Bytes) (s : State) : Host.Outcome State Fault Refusal :=
  let s := s.elapse dt
  .next (s.forward c 0x0205 p (p.length == 20 && rsv p 3 1) 2 0x0D)

/-! ### Weighing (Table 12.4) -/

/-- WEIGH_BEGIN (R165, R168): Undercoat puts WG_TXN_TIMEOUT in the request's TIMEOUT_S. -/
def execWeighBegin (dt : Ticks) (c : Call) (p : Bytes) (s : State) : Host.Outcome State Fault Refusal :=
  let s := s.elapse dt
  let m := field p 0 1
  let timeout := if m < 4 then s.param (pointId m 0x41) else [0, 0]
  .next (s.onCommand c 0x0301 p (p.length == 16 && rsv p 2 2) 4 (fun f s =>
    s.submit f 0x0A (overlay p 2 timeout)))

/-- WEIGH_COMMIT (R166). -/
def execWeighCommit (dt : Ticks) (c : Call) (p : Bytes) (s : State) : Host.Outcome State Fault Refusal :=
  let s := s.elapse dt
  .next (s.forward c 0x0302 p (p.length == 2) 16 0x0B)

/-- WEIGH_CANCEL (R168). -/
def execWeighCancel (dt : Ticks) (c : Call) (p : Bytes) (s : State) : Host.Outcome State Fault Refusal :=
  let s := s.elapse dt
  .next (s.forward c 0x0303 p (p.length == 1) 4 0x0C)

/-- A sample put in its place, newest first. -/
def insertSample (x : Nat × Int) : List (Nat × Int) → List (Nat × Int)
  | [] => [x]
  | y :: ys => if y.1 ≤ x.1 then x :: y :: ys else y :: insertSample x ys

/-- PROV_SAMPLES (R171, R323): samples more than 500 ms old are dropped and counted. -/
def execProvSamples (dt : Ticks) (c : Call) (p : Bytes) (s : State) : Host.Outcome State Fault Refusal :=
  let s := s.elapse dt
  let m := field p 0 1
  let n := field p 1 1
  let t0 := field p 4 8
  let period := field p 12 4
  let ok := m < 4 && 1 ≤ n && p.length == 16 + 4 * n && rsv p 2 2 && 100000 ≤ period &&
    period ≤ 100000000
  .next (s.onCommand c 0x0304 p ok 0 (fun f s =>
    if s.pnum (pointId m 0x60) = 1 ∧ s.pnum (pointId m 0x61) = 1 then
      let all := (upTo n).map (fun i => (t0 + i * period, sfield p (16 + 4 * i) 4))
      let now := s.nodeTime
      let fresh := all.filter (fun x => decide (now ≤ x.1 + 500 * milli))
      (s.modProv m (fun v => { v with
        accel := (fresh.foldl (fun l x => insertSample x l) v.accel).filter
          (fun x => decide (now ≤ x.1 + 2 * second))
        lateDropped := satAdd 0xFFFFFFFF v.lateDropped (all.length - fresh.length) })).reply f stDone
    else s.reply f stDeniedState))

/-- PROV_STATUS (R323). -/
def execProvStatus (dt : Ticks) (c : Call) (p : Bytes) (s : State) : Host.Outcome State Fault Refusal :=
  let s := s.elapse dt
  let m := field p 0 1
  let v := (s.point m).prov
  .next (s.onCommand c 0x0305 p (p.length == 1 && m < 4) 12 (fun f s =>
    s.reply f stDone ([byte (b2n v.shown), 0, 0, 0] ++ leBytes 4 v.lateDropped ++ leBytes 4 v.weightResets)))

/-! ### Registers and readings (Table 12.5) -/

/-- READ_REGISTERS (R233). -/
def execReadRegisters (dt : Ticks) (c : Call) (p : Bytes) (s : State) : Host.Outcome State Fault Refusal :=
  let s := s.elapse dt
  .next (s.forward c 0x0401 p (p.length == 4) (16 + 8 * field p 2 2) 0x02)

/-- SIGN_READING (R263). -/
def execSignReading (dt : Ticks) (c : Call) (p : Bytes) (s : State) : Host.Outcome State Fault Refusal :=
  let s := s.elapse dt
  .next (s.forward c 0x0402 p (p.length == 8 && rsv p 1 1) 192 0x03)

/-- READ_LOG (R219). -/
def execReadLog (dt : Ticks) (c : Call) (p : Bytes) (s : State) : Host.Outcome State Fault Refusal :=
  let s := s.elapse dt
  .next (s.forward c 0x0403 p (p.length == 12 && rsv p 1 1 && rsv p 10 2) (16 + 48 * field p 2 2) 0x04)

/-- SEAL_LOG_ARCHIVE (R220). -/
def execSealLogArchive (dt : Ticks) (c : Call) (p : Bytes) (s : State) : Host.Outcome State Fault Refusal :=
  let s := s.elapse dt
  .next (s.forward c 0x0404 p (p.length == 32) 192 0x0F)

/-- REG_ARCHIVE (R221). -/
def execRegArchive (dt : Ticks) (c : Call) (p : Bytes) (s : State) : Host.Outcome State Fault Refusal :=
  let s := s.elapse dt
  .next (s.forward c 0x0408 p (p.length == 36 && rsv p 1 3) 192 0x10)

/-- READ_EXTERNAL (R196, R324): STALE where the last good read is over three polling periods old. -/
def execReadExternal (dt : Ticks) (c : Call) (p : Bytes) (s : State) : Host.Outcome State Fault Refusal :=
  let s := s.elapse dt
  let m := field p 0 1
  let x := s.point m
  let stale := match x.extLastRead with
    | none => true
    | some t => decide (t + 3 * s.pnum 0x6031 * second < s.nodeTime)
  .next (s.onCommand c 0x0407 p (p.length == 1 && m < 4) 36 (fun f s =>
    if s.mpType m = typeHeat ∧ s.mpSub m = 1 then
      s.reply f stDone (leBytes 8 (x.extHeat / 4294967296) ++ leBytes 8 (x.extCool / 4294967296) ++ leBytes 8 x.extVolume ++
        leBytes 8 (x.extLastRead.getD 0) ++ leBytes 4 (1 + 2 * b2n stale))
    else s.reply f stDeniedState))

/-! ### Time, tariffs and owner (Table 12.6) -/

/-- Daylight saving is in force now. -/
def State.dstNow (s : State) : Bool :=
  s.calendarEver && dstOn s.legal.active.bytes (s.nodeTime / 60000000000)

/-- GET_TIME (R325). -/
def execGetTime (dt : Ticks) (c : Call) (p : Bytes) (s : State) : Host.Outcome State Fault Refusal :=
  let s := s.elapse dt
  .next (s.onCommand c 0x0501 p (p.length == 0) 32 (fun f s =>
    s.reply f stDone (leBytes 8 s.nodeTime ++ [byte s.ntu.status.code, byte (b2n s.dstNow)] ++
      s.paramNow 0x3000 ++ sBytes 4 s.ntu.rateAdj ++ sBytes 8 s.ntu.slewNs ++
      [byte (b2n s.aon.rtcValid)] ++ zeros 7)))

/-- SET_TIME (R325). -/
def execSetTime (dt : Ticks) (c : Call) (p : Bytes) (s : State) : Host.Outcome State Fault Refusal :=
  let s := s.elapse dt
  .next (s.forward c 0x0502 p (p.length == 80 && rsv p 1 1) 16 0x07)

/-- DISCIPLINE (R83, R326, R550): T_MEAS out of its range is refused before the role is (log 38). -/
def execDiscipline (dt : Ticks) (c : Call) (p : Bytes) (s : State) : Host.Outcome State Fault Refusal :=
  let s := s.elapse dt
  let t := field p 0 8
  .next (s.onCommand c 0x0503 p (p.length == 16) 4 (fun f s =>
    if s.nodeTime < t ∨ t + 2 * second < s.nodeTime then s.reply f stBadParam
    else if s.fabric.role = 1 then s.reply f stDeniedState
    else
      let s := s.disciplineOffset (sfield p 8 8) t
      s.reply f stDone (sBytes 4 s.ntu.rateAdj)))

/-- LOAD_CALENDAR (R240). -/
def execLoadCalendar (dt : Ticks) (c : Call) (p : Bytes) (s : State) : Host.Outcome State Fault Refusal :=
  let s := s.elapse dt
  .next (s.forward c 0x0504 p (p.length == 1988) 0 0x08)

/-- READ_CALENDAR (R244, R327). -/
def execReadCalendar (dt : Ticks) (c : Call) (p : Bytes) (s : State) : Host.Outcome State Fault Refusal :=
  let s := s.elapse dt
  let w := field p 0 1
  let k := if w = 0 then s.legal.active else s.legal.passive
  let shown := if w = 0 then k.at_ else if k.state = 2 then k.at_ else 0
  .next (s.onCommand c 0x0505 p (p.length == 1 && w ≤ 1) 1936 (fun f s =>
    if k.state = 0 then s.reply f stDone (zeros 1936)
    else s.reply f stDone ([byte k.state] ++ zeros 7 ++ leBytes 8 shown ++ k.bytes)))

/-- The first whole minute of the next 48 h at which the calendar's tariff differs, with that tariff. -/
def nextSwitch (cal : Bytes) (offset : Int) (tariff : Nat) : Nat → Nat → Nat × Nat
  | 0, _ => (0, 0)
  | n + 1, minute =>
    let t := calendarTariff cal offset minute
    if t ≠ tariff then (minute * 60000000000, t) else nextSwitch cal offset tariff n (minute + 1)

/-- TARIFF_STATUS (R327). -/
def execTariffStatus (dt : Ticks) (c : Call) (p : Bytes) (s : State) : Host.Outcome State Fault Refusal :=
  let s := s.elapse dt
  let now := s.nodeTime
  let t := s.tariffAt now
  let a := s.legal.active
  let q := s.legal.passive
  let next := if s.tariffSource = 0 then
      nextSwitch a.bytes s.utcOffset t 2880 (now / 60000000000 + 1) else (0, 0)
  .next (s.onCommand c 0x0506 p (p.length == 0) 32 (fun f s =>
    s.reply f stDone ([byte t, byte (s.pnumNow 0x3010), byte s.tariffSource, 0] ++
      leBytes 4 (if a.state = 0 then 0 else field a.bytes 4 4) ++
      leBytes 4 (if q.state = 0 then 0 else field q.bytes 4 4) ++ [byte q.state, 0, 0, 0] ++
      leBytes 8 next.1 ++ [byte next.2] ++ zeros 7)))

/-- SET_OWNER_LOCK (R498). -/
def execSetOwnerLock (dt : Ticks) (c : Call) (p : Bytes) (s : State) : Host.Outcome State Fault Refusal :=
  let s := s.elapse dt
  .next (s.forward c 0x0507 p (p.length == 72 && rsv p 1 3) 0 0x09)

/-- OWNER_STATUS (R327). -/
def execOwnerStatus (dt : Ticks) (c : Call) (p : Bytes) (s : State) : Host.Outcome State Fault Refusal :=
  let s := s.elapse dt
  .next (s.onCommand c 0x0508 p (p.length == 0) 8 (fun f s =>
    s.reply f stDone ([byte (b2n !(allZero (s.param 0x8000))), byte (s.pnum 0x7000), 0, 0] ++
      leBytes 4 s.legal.ownerCtr)))

/-! ### Attestation (Table 12.10) -/

/-- ATTEST (R266). -/
def execAttest (dt : Ticks) (c : Call) (p : Bytes) (s : State) : Host.Outcome State Fault Refusal :=
  let s := s.elapse dt
  .next (s.forward c 0x0901 p (p.length == 32) 416 0x05)

/-- READ_CERT (R332): the bytes from OFFSET that the room holds. -/
def execReadCert (dt : Ticks) (c : Call) (p : Bytes) (s : State) : Host.Outcome State Fault Refusal :=
  let s := s.elapse dt
  let w := field p 0 1
  let der := (certificate w).take 1024
  let off := field p 2 2
  .next (s.onCommand c 0x0902 p (p.length == 4 && rsv p 1 1 && w ≤ 5) 4 (fun f s =>
    if der.length ≤ off then s.reply f stBadParam
    else s.reply f stDone (leBytes 2 der.length ++ [0, 0] ++ (der.drop off).take (f.room - 4))))

/-- ENTROPY_STATUS (R275). -/
def execEntropyStatus (dt : Ticks) (c : Call) (p : Bytes) (s : State) : Host.Outcome State Fault Refusal :=
  let s := s.elapse dt
  let x := s.crypto
  .next (s.onCommand c 0x090E p (p.length == 0) 16 (fun f s =>
    s.reply f stDone ([byte s.entropyFlags, byte x.fails, 0, 0] ++ leBytes 4 x.rctTrips ++
      leBytes 4 x.aptTrips ++ leBytes 4 x.reseeds)))

/-! ### Diagnostics (Table 12.11) -/

/-- DIAG_COUNTERS (R334, R525): indices beyond the list read 0. -/
def execDiagCounters (dt : Ticks) (c : Call) (p : Bytes) (s : State) : Host.Outcome State Fault Refusal :=
  let s := s.elapse dt
  let first := field p 0 2
  let count := field p 2 2
  let ok := p.length == 4 && 1 ≤ count && count ≤ 1020 && first + count ≤ 1020
  .next (s.onCommand c 0x0A04 p ok (4 * count) (fun f s =>
    s.reply f stDone ((upTo count).flatMap (fun i =>
      leBytes 4 (if first + i < 28 then s.diagCounters.getD (first + i) 0 else 0)))))

/-- SEPARATION_TEST (R205, R334): the seven rows are blocked, counted and logged; a write of a masked
segment is discarded. -/
def execSeparationTest (dt : Ticks) (c : Call) (p : Bytes) (s : State) : Host.Outcome State Fault Refusal :=
  let s := s.elapse dt
  .next (s.onCommand c 0x0A03 p (p.length == 0) 16 (fun f s =>
    let before := s.legal.sepFaults
    let s := (upTo 7).foldl (fun s k => s.blocked (k + 1)) s
    s.reply f stDone (List.replicate 7 1#8 ++ [0] ++ leBytes 4 before ++ leBytes 4 s.legal.sepFaults)))

end Sys2Proof.Machine
end

