-- ==== Sys2Proof/Machine/Stores.lean ====
section
/-! DEFINITION. The two stores in external flash: where they lie, their heads and tails, which sectors are parsed, what a
start makes of them and how their words are rebuilt (R355 to R362, R523, Tables 13.3 to 13.6). Store 1 is the profile
store, 2 the archive. -/

namespace Sys2Proof.Machine

/-! ### The device (R356) -/

/-- The density in use, in MiB: a reported density between two supported values counts as the lower one, one below 32
as no answer, 0 here. -/
def usableDensity (reported : Nat) : Nat :=
  if 256 ≤ reported then 256 else if 128 ≤ reported then 128 else if 64 ≤ reported then 64
  else if 32 ≤ reported then 32 else 0

/-! ### Places and parsing -/

/-- The first sector of a store and how many it has (Table 13.4). -/
def Flash.firstSector (f : Flash) (store : Nat) : Nat := if store = 1 then 192 else 192 + 4 * f.density
def Flash.sectorCount (f : Flash) (store : Nat) : Nat :=
  if store = 1 then 4 * f.density else 12 * f.density - 192

/-- The heads of the stores as committed, and the writes of their words, rotated as Table 13.3 says. -/
def Flash.profHead (f : Flash) : Nat × Nat := f.profHeadWords.read (192, 64)
def Flash.archHead (f : Flash) : Nat × Nat := f.archHeadWords.read (f.firstSector 2, 64)
def Flash.putProfHead (f : Flash) (p : Nat × Nat) : Flash :=
  { f with profHeadWords := f.profHeadWords.write 16 (192, 64) p }
def Flash.putArchHead (f : Flash) (p : Nat × Nat) : Flash :=
  { f with archHeadWords := f.archHeadWords.write 64 (f.firstSector 2, 64) p }

/-- Where the next record goes: sector and offset. -/
def Flash.pos (f : Flash) (store : Nat) : Nat × Nat :=
  if store = 1 then f.profHead else f.archPending.getD f.archHead

def Flash.tail (f : Flash) (store : Nat) : Nat := if store = 1 then f.profTail else f.archTail

def Flash.setPos (f : Flash) (store : Nat) (p : Nat × Nat) : Flash :=
  if store = 1 then f.putProfHead p else { f with archPending := some p }

def Flash.setTail (f : Flash) (store : Nat) (n : Nat) : Flash :=
  if store = 1 then { f with profTail := n } else { f with archTail := n }

/-- The sectors of a store in ring order, `k` of them, the first after `sector`. -/
def Flash.ringAfter (f : Flash) (store sector k : Nat) : List Nat :=
  let a := f.firstSector store
  let n := f.sectorCount store
  (upTo k).map (fun i => a + (sector - a + 1 + i) % n)

def JournalWord.bad (w : JournalWord) : Bool := w.state == 3

/-- A sector that holds records, or may take them beyond the header. -/
def JournalWord.written (w : JournalWord) : Bool := w.state == 0 && w.gen != 0

/-- A record can be programmed at a position: in an erased sector, or behind records (R358, R360). -/
def Flash.usable (f : Flash) (p : Nat × Nat) : Bool :=
  let w := f.word p.1
  (w.state == 2 && p.2 == 64) || (w.written && 64 < p.2)

/-- The sector that a store takes next: the head's own where it holds nothing, else the next one that is
not BAD; none where every one is BAD (R361, R385). -/
def Flash.nextSector (f : Flash) (store : Nat) (p : Nat × Nat) : Option Nat :=
  if p.2 = 64 ∧ (f.word p.1).bad = false then some p.1
  else (f.ringAfter store p.1 (f.sectorCount store)).find? (fun n => !(f.word n).bad)

/-- The first 60 bytes of a sector header (Table 13.6). -/
def headerBody (store gen sector time : Nat) : Bytes :=
  leBytes 4 0x06405EC0 ++ [byte store, 1, 0, 0] ++ leBytes 4 gen ++ leBytes 4 sector ++ leBytes 8 time ++
    zeros 36

def sectorHeader (store gen sector time : Nat) : Bytes :=
  let b := headerBody store gen sector time
  b ++ leBytes 4 (crc32 b)

/-- A sector is parsed (R360). -/
def State.sectorParses (s : State) (store sector : Nat) : Bool :=
  let w := s.flash.word sector
  let h := s.flashBytes (65536 * sector) 64
  w.written && field h 0 4 == 0x06405EC0 && field h 4 1 == store && field h 5 1 == 1 &&
    field h 60 4 == crc32 (h.take 60) && field h 8 4 == w.gen

/-- The archive records from an offset of a sector, by REC_LEN (Table 17.4). -/
def State.countRecords (s : State) (sector : Nat) : Nat → Nat → Nat
  | 0, _ => 0
  | n + 1, off =>
    let len := field (s.flashBytes (65536 * sector + off) 2) 0 2
    if len = 0xFFFF ∨ len < 28 ∨ 65536 < off + len then 0 else 1 + State.countRecords s sector n (off + len)

/-- The sectors of the profile store from its tail to its head. -/
def Flash.profSectors (f : Flash) : List Nat :=
  let a := f.firstSector 1
  let n := f.sectorCount 1
  let k := (f.profHead.1 - a + n - (f.profTail - a)) % n + 1
  (upTo k).map (fun i => a + (f.profTail - a + i) % n)

/-- The sectors between tail and head that hold readings and do not parse (R362). -/
def State.unparsed (s : State) : List Nat :=
  s.flash.profSectors.filter (fun n => (s.flash.word n).written && !s.sectorParses 1 n)

/-- The readings below the head in a sector that is skipped. -/
def State.sectorHeld (s : State) (sector : Nat) : Nat :=
  let h := s.flash.profHead
  if sector = h.1 then (h.2 - 64) / 192 else 341

/-- The readings of sectors that fail their check and have not been counted as lost (R324, R362). -/
def State.unparsedReadings (s : State) : Nat :=
  ((s.unparsed.filter (fun n => !s.flash.skipped.contains n)).map s.sectorHeld).sum

/-! ### At a start (R356, R362) -/

/-- The density that the device reports is in use. A device of another density than the last one begins its stores anew
(DESIGN CHOICE, log 5). -/
def State.identifyFlash (s : State) (reported : Nat) : State :=
  let d := usableDensity reported
  if d = s.flash.density then s
  else s.modFlash (fun f =>
    let f := { f with density := d, archPending := none, skipped := [] }
    { f with
      profHeadWords := .fresh (192, 64), profTail := 192
      archHeadWords := .fresh (f.firstSector 2, 64), archTail := f.firstSector 2 })

/-- Undercoat's start skips a sector between tail and head that does not parse, and counts its readings as lost, once
(R362, Table 19.4). -/
def State.recoverStores (s : State) : State :=
  let n := s.unparsedReadings
  let l := s.unparsed
  (s.bump 5 n).modFlash (fun f => { f with profLost := satAdd 0xFFFFFFFF f.profLost n, skipped := l })

/-! ### Rebuilding a head and a tail (R523) -/

/-- FIRST_TIME of a sector (Table 13.6). -/
def State.firstTime (s : State) (sector : Nat) : Nat := field (s.flashBytes (65536 * sector) 64) 16 8

/-- Of two sectors the one with the later FIRST_TIME, the second where they are equal; none counts as none. -/
def State.laterSector (s : State) (a : Option Nat) (n : Nat) : Option Nat :=
  match a with
  | none => some n
  | some m => if s.firstTime m ≤ s.firstTime n then some n else some m

def State.earlierSector (s : State) (a : Option Nat) (n : Nat) : Option Nat :=
  match a with
  | none => some n
  | some m => if s.firstTime n < s.firstTime m then some n else some m

/-- The readings that a profile sector holds from its first place on: a place that reads blank ends them. -/
def State.countReadings (s : State) (sector : Nat) : Nat → Nat → Nat
  | 0, _ => 0
  | n + 1, k =>
    if (s.flashBytes (65536 * sector + 64 + 192 * k) 192).all (· == 0xFF#8) then 0
    else 1 + State.countReadings s sector n (k + 1)

/-- The offset behind the last archive record of a sector, by REC_LEN (Table 17.4). -/
def State.recordsEnd (s : State) (sector : Nat) : Nat → Nat → Nat
  | 0, off => off
  | n + 1, off =>
    let len := field (s.flashBytes (65536 * sector + off) 2) 0 2
    if len = 0xFFFF ∨ len < 28 ∨ 65536 < off + len then off else State.recordsEnd s sector n (off + len)

/-- Head and tail are rebuilt by a scan of the sector headers: of the sectors that parse, the tail is the one with the
earliest FIRST_TIME and the head lies in the one with the latest, behind the last record there; without one the store is
empty (R523; the order and the place within the sector DEDUCED, log 57). -/
def State.rebuildStore (s : State) (store : Nat) : State :=
  let f := s.flash
  let a := f.firstSector store
  let held := ((upTo (f.sectorCount store)).map (a + ·)).filter (s.sectorParses store)
  let tail := (held.foldl s.earlierSector none).getD a
  let head : Nat × Nat :=
    match held.foldl s.laterSector none with
    | none => (a, 64)
    | some n => (n, if store = 1 then 64 + 192 * s.countReadings n 341 0 else s.recordsEnd n 2340 64)
  s.modFlash (fun f =>
    if store = 1 then { f.putProfHead head with profTail := tail }
    else { f.putArchHead head with archTail := tail, archPending := none })

end Sys2Proof.Machine
end

