-- ==== Sys2Proof/Machine/Start.lean ====
section
/-! DEFINITION. Reset and the start of the part: what a reset keeps, Primer's steps, Igfaen's start and
the start of the application side (R41 to R67, R209, R236, R248, R251, R278, R439). A start takes no time
of its own (log 35). -/

namespace Sys2Proof.Machine

/-! ### What a reset keeps -/

/-- What a metering point keeps in MRAM. -/
def MeterPoint.keep (m : Nat) (p : MeterPoint) : MeterPoint :=
  { MeterPoint.reset m with
    interval := p.interval, copyA := p.copyA, copyB := p.copyB, regFault := p.regFault, mstat := p.mstat
    openSums := p.openSums, openAt := p.openAt, openShort := p.openShort, openPeriod := p.openPeriod
    heldOpen := p.heldOpen
    extHeat := p.extHeat, extCool := p.extCool, extVolume := p.extVolume, extLastRead := p.extLastRead
    weigh := { Weigh.reset with
      txn := p.weigh.txn, nextTxn := p.weigh.nextTxn, bodies := p.weigh.bodies } }

/-- What a counter keeps: its counts and their latest latch (R118, log 46). -/
def Counter.keep (c : Counter) : Counter :=
  { Counter.reset with
    fwd := c.fwd, rev := c.rev, quadError := c.quadError, latchFwd := c.latchFwd, latchRev := c.latchRev
    latchTime := c.latchTime }

/-- Legal SRAM is lost; readings that it held count as missed (R299). -/
def Legal.keep (l : Legal) : Legal :=
  { l with
    held := [], readingsMissed := satAdd 0xFFFFFFFF l.readingsMissed l.held.length
    activation := none, errorOutputs := [], errShown := false, errAt := 0
    lcvScreen := 0, lowerHalf := false, screenAt := 0, regList := [], regValue := false
    keysDown := Legal.reset.keysDown, keysWait := false, keysStuck := Legal.reset.keysStuck
    keysAt := Legal.reset.keysAt }

/-- System SRAM of the physical map (Table 13.1). -/
def inSram (a : Nat) : Bool := 0x20000000 ≤ a && a ≤ 0x203FFFFF

/-- System SRAM is cleared, and every line of it carries a valid tag; with it go the descriptors and tables of the DMA
engine (R363, R381). -/
def MemSys.clearSram (m : MemSys) : MemSys :=
  { MemSys.reset with
    cells := m.cells.filter (fun c => !inSram c.1), poisoned := m.poisoned.filter (fun l => !inSram (32 * l))
    badWords := m.badWords, windows := m.windows, grants := m.grants }

/-- Legal SRAM is cleared (R44, R363). -/
def MemSys.clearLegalSram (m : MemSys) : MemSys := { m with poisoned := m.poisoned.filter (fun l => inSram (32 * l)) }

/-- What the fabric keeps in non-legal MRAM, and its counts of readings sent and tunnels opened. -/
def Fabric.keep (f : Fabric) : Fabric :=
  { Fabric.reset with
    storedAddr := f.storedAddr, lsaSeqWords := f.lsaSeqWords, distCalendar := f.distCalendar
    distLock := f.distLock, nextRid := f.nextRid, nextTunnel := f.nextTunnel }

/-- A reset of the whole chip except the always-on domain, with its cause bit (R44, R46): from here
until release, reset is held. -/
def State.coldReset (s : State) (cause : Nat) : State :=
  { s with
    ntu := { Ntu.reset with acc := s.ntu.acc, steps := s.ntu.steps }
    modDom := ModDomain.reset
    boot := { Boot.reset with
      cause := BitVec.ofNat 32 (2 ^ cause), bootCounter := s.boot.bootCounter, railsGood := s.boot.railsGood
      haltToLog := s.boot.haltToLog, lcToLog := s.boot.lcToLog, imageLog := s.boot.imageLog
      components := s.boot.components.map (fun c => { c with running := false }) }
    inForce := []
    channels := Channel.reset |> List.replicate 16
    counters := s.counters.map Counter.keep
    drivers := s.drivers.map (fun d => { d with revBase := 0 })
    sources := List.replicate 4 0
    sync := Sync.reset
    points := (numbered s.points).map (fun x => MeterPoint.keep x.1 x.2)
    legal := { s.legal.keep with
      calSeq := none
      readingsMissed := satAdd 0xFFFFFFFF s.legal.readingsMissed
        (s.legal.held.length + s.hawk.delivery.length + s.gate.readings) }
    gate := Gate.reset
    hawk := Hawk.reset
    mem := { s.mem.clearSram.clearLegalSram with windows := shippedWindows }
    flash := { s.flash with jobs := [], archPending := none, archCommitAt := 0, storeFault := false }
    crypto := { Crypto.reset with slots := s.crypto.slots }
    display := { Display.reset with
      panel := s.display.panel, records := s.display.records
      totalUpdates := s.display.totalUpdates, lastFull := s.display.lastFull }
    ports := { Ports.reset with
      vbat := s.ports.vbat, vbatLow := s.ports.vbatLow, vbus := s.ports.vbus }
    fabric := s.fabric.keep
    skim := Skim.reset
    update := Update.reset }

/-- What the loss leaves half-written, where the LC was writing (R42, R218, R235). -/
def State.applyCut (s : State) (c : Cut) : State :=
  if !s.legalRuns then s
  else
    match c with
    | .eventSlot =>
      if s.legal.eventLog.isEmpty then s
      else s.modLegal (fun l => { l with
        eventLog := l.eventLog.drop 1, elseqWords := ⟨l.elseqWords.words.drop 1⟩, torn := l.torn + 1 })
    | .sealSlot =>
      if s.legal.sealLog.isEmpty then s
      else s.modLegal (fun l => { l with sealLog := l.sealLog.drop 1, torn := l.torn + 1 })
    | .bankCopy m => s.modPoint m MeterPoint.tearBank
    | .drain committed => s.drainCut committed
    | .ledgerRecord => s.tearLedger
    | _ => s

/-- The integrals of an EPD phase that a reset cuts short: the always-on domain holds them, and what the
rails did in it is not known here (R439, log 9). -/
def State.freezeIntegrals (s : State) : State :=
  match s.display.update with
  | none => s
  | some u =>
    if u.ended then s
    else
      let d (s : State) : Int × State := ((s.drawFree 32).1.toInt, (s.drawFree 32).2)
      let a := d s
      let b := d a.2
      let c := d b.2
      let e := d c.2
      e.2.modAon (fun x => { x with railIntegrals := x.railIntegrals ++ [(a.1, b.1, c.1, e.1)] })

/-- A full reset from a running part. -/
def State.resetChip (s : State) (cause : Nat) (cut : Cut) : State :=
  ((s.applyCut cut).freezeIntegrals).coldReset cause

/-- SystemSource stopped and reset held: the events that assert reset. BROWN_OUT (R41, R42, R44). -/
def execBrownOut (dt : Ticks) (rail : Rail) (cut : Cut) (s : State) : Host.Outcome State Fault Refusal :=
  let s := s.elapse dt
  let i := match rail with
    | .core => 0
    | .io => 1
    | .vdda => 2
  let cause := match rail with
    | .core => 1
    | _ => 2
  .next (if !(s.boot.railsGood.getD i true) then s
    else (s.resetChip cause cut).modBoot (fun b => { b with railsGood := setAt b.railsGood i false }))

/-- RESET_N resets the chip, and stays low until reset is released (R41, R43). -/
def State.resetByPin (s : State) (cut : Cut) : State :=
  (s.resetChip 3 cut).modBoot (fun b => { b with resetLow := true })

/-- The xSPI pins are driven: they are at high impedance while RESET_N is low (R485). -/
def State.xspiDriven (s : State) : Bool := !s.boot.resetLow

/-- HSPI_MISO is driven within a frame: the SPI target answers while reset is not held (R45, R280). -/
def State.misoDriven (s : State) (csLow : Bool) : Bool := csLow && !s.boot.held

/-- RESET_PIN_LOW (R43): between 100 ns and 1 µs the manual leaves it open (log 9). -/
def execResetPinLow (dt : Ticks) (widthNs : Nat) (cut : Cut) (s : State) : Host.Outcome State Fault Refusal :=
  let s := s.elapse dt
  .next (if 1000 ≤ widthNs then s.resetByPin cut
    else if widthNs ≤ 100 then s
    else
      let d := s.drawFree 1
      if d.1.toNat = 1 then d.2.resetByPin cut else d.2)

/-- MAIN_POWER_LOSS (R57, R439). -/
def execMainPowerLoss (dt : Ticks) (cut : Cut) (s : State) : Host.Outcome State Fault Refusal :=
  let s := s.elapse dt
  .next (if !s.aon.mainPower then s
    else
      let s := (s.applyCut cut).modAon (fun a =>
        { (if a.powered then a.store srcPower 0 else a) with mainPower := false })
      (s.freezeIntegrals.coldReset 0).modBoot (fun b => { b with railsGood := [false, false, false] }))

/-! ### The application side (R54 to R65) -/

/-- A stage that HW.IRQ_STATUS reports (R60, Table 11.5). -/
def State.reachStage (s : State) (stage : Nat) : State :=
  (s.modBoot (fun b => { b with stage := stage })).modHawk (fun h => { h with irqStage := true })

/-- A service session starts where VBUS is valid (R457). -/
def State.startSession (s : State) : State :=
  if !s.ports.vbus || s.ports.usbSession || s.boot.mainClockFault ||
      !(s.boot.stage == 7 || s.boot.stage == 8) then s
  else
    let s := s.bringIntoForce (fun id => id == 0x6010 || id == 0x6011)
    let s := s.modPorts (fun p => { p with usbSession := true })
    let s := s.postEvent 0x0181 [1, 1]
    match s.ports.servicePending with
    | none => s
    | some (entry, at_) =>
      let s := s.modPorts (fun p => { p with servicePending := none })
      if s.since at_ (60 * second) then s else s.emit (.rilfy .service (rilfyFrame 2 entry []))

/-- RECOVERY (R62). -/
def State.enterRecovery (s : State) : State := (s.reachStage 8).startSession

/-- HALTED (R61). COMPONENT of the codes 0x01 to 0x05 is the model's reading of "the component concerned"
(Table 2.5, log 34): Primer, which found the condition, and none for a word of OTP. -/
def State.halt (s : State) (code component : Nat) : State :=
  (s.bootError code component false).reachStage 15

/-- Candidate `k` of the node's address (R396). -/
def candidateAddr (k : Nat) : Nat :=
  leNat ((sha256 (leBytes 8 nodeId ++ [byte k])).take 4) % 16381 + 1

/-- The fabric engine starts: its enabled ports are QUIET, its address is TENTATIVE (R396, R412). What
Undercoat keeps of the fabric stays. -/
def State.feStart (s : State) : State :=
  let now := s.mono
  let mask := if s.boot.mainClockFault then 0 else s.pnum 0x5001
  let port (i : Nat) : Port := { Port.reset with state := if bit mask i then 1 else 0, at_ := now }
  s.modFabric (fun f => { Fabric.reset with
    ports := (upTo 3).map port
    addr := f.storedAddr.getD (candidateAddr 0), addrState := 1, candidate := if f.storedAddr.isNone then 1 else 0
    storedAddr := f.storedAddr, lsaSeqWords := f.lsaSeqWords, distCalendar := f.distCalendar
    distLock := f.distLock, forward := f.forward, nextRid := f.nextRid, nextTunnel := f.nextTunnel
    tunnels := f.tunnels, pieces := f.pieces, served := f.served, refused := f.refused, acked := f.acked })

/-- Held readings go to the AC while it has room, and the number missed is logged (R65, R299). -/
def State.handHeld : Nat → State → State
  | 0, s => s
  | n + 1, s =>
    match s.legal.held with
    | [] => s
    | r :: rest =>
      if s.deliveryOpen then
        State.handHeld n ((s.modLegal (fun l => { l with held := rest })).tell (.reading r))
      else s

def State.handOver (s : State) : State :=
  if !s.legalRuns then s
  else
    let s := State.handHeld 1024 s
    let n := s.legal.readingsMissed
    if n = 0 || !s.legal.held.isEmpty then s
    else (s.modLegal (fun l => { l with readingsMissed := 0 })).logEvent 0x10 0x05 0xFF (leBytes 4 n)

/-- The outcome of an activation of Undercoat, as the new image finds it at READY (R503). -/
def State.finishAppActivation (s : State) : State :=
  match s.update.activation with
  | none => s
  | some a =>
    if a.component ≠ 2 || !a.switched then s
    else
      let now := s.mono
      let ok := (s.component 2).activeB == a.bankB && (s.component 2).active.state == .trial
      let f : InFlight := ⟨⟨a.origin, a.tag⟩, a.tag, 0x0806, false, false, 0, 0, [], none, true, 0, false⟩
      let entry := f.responseEntry true (if ok then stDone else stAborted)
        (leBytes 4 ((now - a.since) / micro))
      let s := s.modUpdate (fun u => { u with activation := none })
      if a.origin = .host then s.pushEntry 1 entry
      else s.modPorts (fun p => { p with servicePending := some (entry, now) })

/-- READY (R60, R285, R286). -/
def State.becomeReady (s : State) : State :=
  let s := (s.reachStage 7).modHawk (fun h => { h with
    rings := readyRings, poolBase := poolBaseReset, poolSize := poolSizeReset, poolItems := []
    poolNext := 0 })
  let s := s.finishAppActivation
  let due := s.boot.toPost
  let s := s.modBoot (fun b => { b with toPost := [] })
  let s := s.postEvent 0x0180 (leBytes 4 s.bootStageWord ++ leBytes 4 s.boot.cause.toNat)
  let s := due.foldl (fun s e => s.postEvent e.1 e.2) s
  s.startSession.mbusStart.handOver

/-- Undercoat is released (R48 step 6). -/
def State.appStart (s : State) (env : StartEnv) : State :=
  let now := s.mono
  let s := (s.modBoot (fun b => { b with stage := 6, appStartAt := now, romLockAc := true })).recoverStores.feStart
  if env.appReady then s.becomeReady else s

/-- What follows the legal side of a start: the application side, or RECOVERY (R51, R62). -/
def State.afterLegal (s : State) (env : StartEnv) : State :=
  if s.boot.stage ≠ 5 then s
  else if (s.component 2).running && (s.component 3).running then s.appStart env
  else s.enterRecovery

/-! ### Igfaen's start (R55) -/

/-- The value of an audit counter that a log entry carries (Tables 8.8 and 19.3). -/
def LogEntry.counterValue (e : LogEntry) (i : Nat) : Option Nat :=
  let d := e.data
  match i, e.cls, e.code with
  | 0, 0x03, _ => some (field d 4 2)
  | 0, 0x06, 0x01 => some (field d 0 2)
  | 1, 0x03, _ => some (field d 8 4)
  | 1, 0x05, 0x01 => some (field d 20 4)
  | 1, 0x10, 0x0B => some (field d 4 4)
  | 3, 0x04, 0x01 => some (field d 4 4)
  | 4, 0x04, 0x02 => some (field d 4 4)
  | 5, 0x03, _ => some (field d 0 4)
  | 6, 0x10, 0x01 => some (field d 0 2)
  | _, _, _ => none

/-- Audit counter `i` of Table 8.2, in its order, set to a value. -/
def Legal.setCounter (l : Legal) (i v : Nat) : Legal :=
  match i with
  | 0 => { l with calcnt := min 65535 v }
  | 1 => { l with cfgcnt := v }
  | 2 => { l with tamperSeal := v }
  | 3 => { l with tamperCover := v }
  | 4 => { l with tamperTerm := v }
  | 5 => { l with sealsess := v }
  | 6 => { l with slarch := min 65535 v }
  | _ => { l with sepFaults := v }

/-- Audit counter `i` of Table 8.2, in its order. -/
def Legal.counter (l : Legal) (i : Nat) : Nat :=
  [l.calcnt, l.cfgcnt, l.tamperSeal, l.tamperCover, l.tamperTerm, l.sealsess, l.slarch, l.sepFaults].getD i 0

/-- One counter whose halves disagree is restored (R209). A word that an increment has written again since the
scrub found it holds two halves that agree. -/
def State.restoreCounter (s : State) (c : BadCounter) : State :=
  let l := s.legal
  let latest (log : List LogEntry) : Nat := (log.findSome? (fun e => e.counterValue c.index)).getD 0
  let v := max (max (latest l.eventLog) (latest l.sealLog)) (max c.valueHalf (0xFFFFFFFF - c.complementHalf))
  if l.counter c.index ≠ c.live then s
  else (s.modLegal (·.setCounter c.index v)).logEvent 0x10 0x04 0xFF []

/-- A metering point's registers are recovered from their copies (R236, R248). -/
def State.recoverBank (s : State) (m : Nat) : State :=
  let p := s.point m
  if !p.copyA.intact && !p.copyB.intact then
    ((s.modPoint m (fun p => { p with regFault := true })).logEvent 0x10 0x07 m []).postFault 0x000F
  else
    let s := s.modPoint m (fun p => { p with regFault := false })
    if p.copyA.intact && p.copyB.intact then s else s.logEvent 0x10 0x02 m []

/-- The calibration store is recovered from its copies: the valid one, of two the newer (R210, R236, Table 19.2). -/
def State.recoverCal (s : State) : State :=
  let s := s.modLegal Legal.enforceCal
  match s.legal.calA.intact, s.legal.calB.intact with
  | false, false =>
    let held := (upTo 4).filter (fun m => s.mpType m != 0 && s.mpType m != typeWater)
    ((s.modLegal (fun l => { l with calFault := held })).logEvent 0x10 0x0A 0xFF []).postFault 0x0010
  | true, true => s
  | _, _ => s.logEvent 0x10 0x02 0xFF []

/-- A transaction open at reset is cancelled (R55 step 3). -/
def State.cancelOpen (s : State) (m : Nat) : State :=
  if (s.point m).weigh.txn.isSome then (s.cancelTxn m 2 0xFF).warn 9 else s

/-- Step 5: the latest sample of SEAL_N; before any sample the state stands (log 36). -/
def State.readSeal (s : State) : State :=
  let now := s.nodeTime
  match s.aon.levels with
  | none => s
  | some l =>
    if !l.sealHigh && !s.legal.session then s.openSession now false
    else if l.sealHigh && s.legal.session then s.closeSession now false
    else s.modLegal (fun x => { x with sealOpen := !l.sealHigh })

/-- Step 6: the power-up event of a full start; an LC-side restart logs itself instead (Table 19.3). -/
def State.logStart (s : State) (full : Bool) : State :=
  let s := match s.boot.haltToLog with
    | none => s
    | some (f, n) =>
      (s.logEvent 0x01 0x03 0xFF (leBytes 2 f ++ [byte n])).modBoot (fun b => { b with haltToLog := none })
  let s := s.boot.lcToLog.foldl (fun s x => s.logEvent 0x01 0x02 0xFF (leBytes 2 x.1 ++ [byte x.2])) s
  let s := s.modBoot (fun b => { b with lcToLog := [] })
  if full then
    s.logEvent 0x01 0x01 0xFF (leBytes 4 (s.boot.lossRtc.getD 0xFFFFFFFF) ++ zeros 4 ++
      leBytes 8 s.nodeTime ++ leBytes 4 s.boot.cause.toNat)
  else s

/-- The profile interval open at the stop closes at the last COMMIT_S, with the pedigree and the period that stood there
(R251, R260); a bank that does not serve signs nothing (R248). The next one opens marked, where there is a profile. -/
def State.closeLost (s : State) (m : Nat) : State :=
  if s.mpType m = 0 then s
  else
    let p := s.point m
    let s := if p.regFault then s
      else s.closeInterval s.legal.closing p.openPeriod m p.bank.commitS (mPowerLoss ||| mShort)
    let marks := if s.periodNow m = 0 then 0 else mPowerLoss ||| mShort
    s.modPoint m (fun p => { p with openAt := none, interval := marks })

/-- The wrapped keys are checked (R278). -/
def State.checkKeys (s : State) (env : StartEnv) : State :=
  let s := s.modLegal (fun l => { l with readingKey := env.readingKeyOk, attestKey := env.attestKeyOk })
  if env.readingKeyOk && env.attestKeyOk then s
  else (s.logEvent 0x10 0x08 0xFF []).postFault 0x000E

/-- Step 7: counters, drivers and channels run from here (R55, R551). -/
def State.enableAll (s : State) (full : Bool) (env : StartEnv) : State :=
  let level (n : Nat) : Bool := env.counterLevels.getD n false
  let s := if full then
      s.modMod (fun m => { m with
        source := if s.prefersMclk && env.mclkTrack then .mclk else .xoMod
        halfRate := s.pnum 0x8011 == 1 })
    else s
  let start (x : Nat × Counter) : Counter := { x.2 with
    ref := if s.cntMode x.1 = 2 then some (level x.1, level (x.1 + 1)) else none
    level := some (level x.1), pos := 0, last := 0
    primed := false, errorNow := false }
  let s := { s with counters := (numbered s.counters).map start }
  let s := s.modBoot (fun b => { b with measuring := !(pointsWhere (fun m => s.mpType m != 0)).isEmpty })
  let s := (s.bringIntoForce (fun id => id % 256 == 0 && decide (0x2000 ≤ id ∧ id < 0x2400))).openGaps gapRestart 0
  (s.enabled.foldl State.resetChain s).seeSetDiags.refLoss.resumeCommits.settleGaps

/-- The change of the legal images is logged (R63, R502 step 8). -/
def State.logImages (s : State) : State :=
  let b := s.boot
  let pause := match b.pauseFrom with
    | none => 0
    | some t => (s.nodeTime - t) / micro
  let data := leBytes 4 s.legal.lastLcv ++ leBytes 4 b.lcv ++
    [byte (b2n (s.component 0).activeB + 2 * b2n (s.component 1).activeB)] ++ zeros 7 ++ leBytes 4 pause
  let s := if b.imageLog = 0 then s
    else if b.imageSealed then s.logBoth s.nodeTime false 0x0B b.imageLog 0xFF 0xFF data
    else if b.lcv ≠ s.legal.lastLcv then s.logEvent 0x0B b.imageLog 0xFF data
    else s
  (s.modBoot (fun b => { b with imageLog := 0, imageSealed := false, pauseFrom := none })).modLegal
    (fun l => { l with lastLcv := b.lcv })

/-- The ledgers of the EPD after a full start (R439). -/
def State.restoreLedger (s : State) : State :=
  let d := s.display
  let total := d.total
  let s := s.modDisplay (fun d => { d with totalUpdates := total })
  let s := match d.recUpdate with
    | none => s.modDisplay (fun d => { d with ledger := d.recLedger })
    | some u =>
      if d.recGen % 65536 = s.aon.updGen then
        let add (j : Nat) (l : Int) (x : Nat × (Int × Int × Int × Int)) : Int :=
          let phase := if u.kind = 8 then ((upTo 15).filter (fun k => u.counts.any (bit · k))).getD x.1 15
            else x.1 + 1
          clampInt (-2147483648) 2147483647 (l + u.level j phase x.2 (d.recLedger.getD j 0))
        let whole (y : Nat × Int) : Int := (numbered s.aon.railIntegrals).foldl (add y.1) y.2
        s.modDisplay (fun d => { d with ledger := (numbered d.recLedger).map whole })
      else
        ((s.modDisplay (fun d => { d with ledger := d.recLedger })).logEvent 0x0E 0x03 0xFF []).bump 10
  let s := (s.writeLedger none).compensate
  if s.display.update.isSome then s.warn 6 else s

/-- The display sequence begins (R59). -/
def State.startDisplay (s : State) (full : Bool) : State :=
  let now := s.mono
  let mode := s.dispMode
  let s := if full && mode = 2 then s.restoreLedger else s
  let mask := s.param 0x8030
  (s.modDisplay (fun d => { d with testFail := false, maskLive := if full then mask else d.maskLive })).modBoot (fun b => { b with
    displayPhase := if mode = 0 then 5 else if mode = 2 then 1 else 2, displayPhaseAt := now })

/-- Requests that were in a slot when the LC reset are answered ABORTED (R38). -/
def State.abortSlots (s : State) : State :=
  let old := s.gate.requests.take s.gate.atReset
  (old.foldl (fun s r => s.answer r stAborted []) s).modGate (fun g => { g with atReset := 0 })

/-- Igfaen's start to LEGAL_READY (R55), after a full reset or an LC-side restart. -/
def State.legalStart (s : State) (full : Bool) (env : StartEnv) : State :=
  let s := s.modBoot (fun b => { b with legalReady := true })
  let s := (upTo s.legal.torn).foldl (fun s _ => s.logEvent 0x10 0x02 0xFF []) s
  let s := s.modLegal (fun l => { l with torn := 0 })
  let s := s.legal.badCounters.foldl State.restoreCounter s
  let s := (s.modLegal (fun l => { l with badCounters := [] })).drain
  let s := if full && s.boot.cause.getLsbD 0 && s.legal.session then s.closeSession s.nodeTime false else s
  let s := ((upTo 4).foldl State.recoverBank s).recoverCal
  let s := ((upTo 4).foldl State.cancelOpen s).rewriteSlot6.rewriteSlot7
  let s := if full then s else s.discardCal 2 0xFF
  let s := (s.readSeal.logStart full).checkKeys env
  let s := (upTo 4).foldl State.closeLost s
  let s := (s.enableAll full env).logImages
  let s := s.modMem (fun m => { m with windows := m.windows.map (fun w => { w with revoked := false }) })
  let s := s.modLegal (fun l => { l with
    keysDown := (upTo 4).map (fun k => env.keysDown.getD k false)
    keysWait := (upTo 4).any (fun k => env.keysDown.getD k false) })
  ((s.startDisplay full).abortSlots.logStale).afterLegal env

/-- LEGAL_START is entered; Igfaen's start runs where it completes in time. -/
def State.enterLegal (s : State) (full : Bool) (env : StartEnv) : State :=
  let now := s.mono
  let lcv := s.legalCheckValue
  let s := s.modBoot (fun b => { b with legalStartAt := now, lcv := lcv, romLockLc := true })
  if env.legalReady then s.legalStart full env else s

/-! ### Primer's steps (R48) -/

/-- Without a legal image nothing is measured, and the legal digits show dashes (R62). -/
def State.noLegalImage (s : State) : State :=
  let now := s.mono
  let k := s.missing 0 1
  let s := s.bootError 6 (k + 2) (s.component k).activeB
  let s := s.stopImages [0, 1, 2, 3]
  let s := s.modBoot (fun b => { b with displayPhase := 5, displayPhaseAt := now })
  s.enterRecovery

/-- Why the application side does not start, if it does not (R51). -/
def State.judgeApp (s : State) : State :=
  if !s.appImages then
    let k := s.missing 2 3
    (s.bootError 7 (k + 2) (s.component k).activeB).stopImages [2, 3]
  else if !s.runningMeet 1 0 2 then (s.bootError 8 4 (s.component 2).activeB).stopImages [2, 3]
  else s

/-- Step 4: images, then the legal side. -/
def State.startImages (s : State) (env : StartEnv) : State :=
  let s := s.modBoot (fun b => { b with stage := 4 })
  if usableDensity env.flash = 0 then s.halt 5 1
  else
    let s := s.identifyFlash env.flash
    let s := (upTo 4).foldl (State.selectImage true) s
    if !s.legalImages then s.noLegalImage
    else (s.judgeApp.modBoot (fun b => { b with stage := 5 })).enterLegal true env

/-- The DRBG takes fresh seed material (R274). -/
def State.seedDrbg (s : State) : State :=
  let e := beBytes 48 (Config.entropy s.free).toNat
  let k := drbgUpdate (zeros 32) (zeros 16) e
  let now := s.mono
  { (s.modCrypto (fun c => { c with
      seeded := true, drbgKey := k.1, drbgV := k.2, generates := 0, reseedAt := now
      entropyFail := false, fails := 0 })) with free := s.free + 1 }

/-- One trip of a health test is counted (R275, Table 12.10). -/
def State.countTrip (s : State) (rct : Bool) : State :=
  s.modCrypto (fun c => { c with
    rctTrips := satAdd 0xFFFFFFFF c.rctTrips (b2n rct), aptTrips := satAdd 0xFFFFFFFF c.aptTrips (b2n (!rct)) })

/-- The start-up tests over the first 1,024 raw bits leave their state; the answer is the test that failed. -/
def State.runStartTests (s : State) (noise : BitVec 1024) : Option Bool × State :=
  let t := startTests noise
  (t.2, s.modCrypto (fun c => { c with noise := t.1 }))

/-- One attempt of the entropy start-up tests (R53). Passed, they leave a random SRAM tag key (log 9). -/
def State.tryEntropy (s : State) (noise : BitVec 1024) (env : StartEnv) : State :=
  let now := s.mono
  let r := s.runStartTests noise
  match r.1 with
  | none =>
    let s := r.2.seedDrbg
    let d := s.drawFree 256
    (d.2.modBoot (fun b => { b with entropyTries := 0, tagKey := leBytes 32 d.1.toNat })).startImages env
  | some rct =>
    let s := ((r.2.bump 26).countTrip rct).modBoot (fun b => { b with
      entropyTries := b.entropyTries + 1, entropyWait := now })
    if s.boot.entropyTries < 3 then s
    else
      let key := sha256 (leBytes 32 Config.deviceSecret.toNat ++ leBytes 4 s.boot.bootCounter)
      let s := ((s.warn 0).modBoot (fun b => { b with tagKey := key })).modCrypto (fun c => { c with
        seeded := false, entropyFail := true, latched := true, fails := 3 })
      let s := (s.announce 0x0980 [byte s.entropyFlags]).postFault 0x0011
      s.startImages env

/-- Step 3. -/
def State.startMemory (s : State) (env : StartEnv) : State :=
  (s.modBoot (fun b => { b with stage := 3 })).tryEntropy env.noise env

/-- Node time is seeded (R54): durations that are measured across it exclude the change. -/
def State.seedTime (s : State) : State :=
  let before := s.mono
  let a := s.aon
  let t := if a.lostSupply then s.legal.storedTime
    else a.rtcSec * second + a.rtcFrac * second / 32768
  let s := if a.lostSupply then s.warn 1 else s
  (s.modNtu (fun u => { u with
    acc := t * 4294967296, steps := (t : Int) - before
    status := if !a.lostSupply && a.rtcValid then .coarse else .invalid })).modAon (fun a => { a with
      lostSupply := false })

/-- Steps 2 to 7, the crystal and the PLLs permitting. -/
def State.startClocks (s : State) (env : StartEnv) : State :=
  let s := s.modBoot (fun b => { b with stage := 2 })
  if !env.otpOk then s.halt 2 0
  else if !env.xtal then s
  else if !env.pll then s.modBoot (fun b => { b with xtal := true })
  else
    let s := (s.modBoot (fun b => { b with xtal := true })).modNtu (fun u => { u with sysSource := .pll })
    s.seedTime.startMemory env

/-- Reset is released and the full start runs (R48). -/
def State.release (s : State) (env : StartEnv) : State :=
  if env.testHigh then s
  else
    let s := s.modBoot (fun b => { b with
      held := false, resetLow := false, stage := 1, railsGood := [true, true, true]
      bootCounter := (b.bootCounter + 1) % 4294967296 })
    let s := (s.putSlot 1 (sha256 Config.rom)).putSlot 8 (zeros 32)
    if !env.romOk then s.halt 1 1 else s.startClocks env

/-- RESET_RELEASE (R41, R48, R547). -/
def execResetRelease (dt : Ticks) (env : StartEnv) (s : State) : Host.Outcome State Fault Refusal :=
  let s := s.elapse dt
  .next (if s.boot.held && s.aon.mainPower then s.release env else s)

/-- ENTROPY_START_RETRY (R53). -/
def execEntropyStartRetry (dt : Ticks) (noise : BitVec 1024) (env : StartEnv) (s : State) :
    Host.Outcome State Fault Refusal :=
  let s := s.elapse dt
  .next (if s.boot.stage = 3 ∧ s.since s.boot.entropyWait second = true then s.tryEntropy noise env else s)

/-- XTAL_MAIN_TIMEOUT (R47): with no system clock the part measures no time of its own here. -/
def execXtalMainTimeout (dt : Ticks) (s : State) : Host.Outcome State Fault Refusal :=
  let s := s.elapse dt
  .next (if s.boot.stage = 2 ∧ s.boot.xtal = false then s.halt 3 1 else s)

/-- PLL_LOCK_TIMEOUT (R47). -/
def execPllLockTimeout (dt : Ticks) (s : State) : Host.Outcome State Fault Refusal :=
  let s := s.elapse dt
  .next (if s.boot.stage = 2 ∧ s.boot.xtal = true then s.halt 4 1 else s)

/-- SYSTEM_RESET (R320, Table 12.1): CONFIRM is 0x0000A55A; the response leaves, then the full start runs. -/
def execSystemReset (dt : Ticks) (c : Call) (p : Bytes) (env : StartEnv) (s : State) :
    Host.Outcome State Fault Refusal :=
  let s := s.elapse dt
  .next (s.onCommand c 0x0106 p (p.length == 4 && field p 0 4 == 0xA55A) 0 (fun f s =>
    ((s.reply f stDone).resetChip 7 .none).release env))

end Sys2Proof.Machine
end

