-- ==== Sys2Proof/Machine/Crypto.lean ====
section
/-! DEFINITION. The crypto engine: contexts and their pre-emption, key slots, the DRBG and the entropy
source (R268 to R276, R331, R332, Tables 10.10 to 10.12, 12.10). -/

namespace Sys2Proof.Machine

/-! ### Random bytes (R274) -/

/-- Bytes of the DRBG, in one generate call. -/
def State.drbgBytes (s : State) (n : Nat) : Bytes × State :=
  let r := drbgGenerate s.crypto.drbgKey s.crypto.drbgV n
  (r.1, s.modCrypto (fun c => { c with drbgKey := r.2.1, drbgV := r.2.2, generates := c.generates + 1 }))

/-- A reseed with fresh seed material. -/
def State.reseed (s : State) : State :=
  let e := beBytes 48 (Config.entropy s.free).toNat
  let k := drbgUpdate s.crypto.drbgKey s.crypto.drbgV e
  let now := s.mono
  { (s.modCrypto (fun c => { c with
      drbgKey := k.1, drbgV := k.2, generates := 0, reseedAt := now
      reseeds := satAdd 0xFFFFFFFF c.reseeds 1 })) with free := s.free + 1 }

/-! ### Contexts (R269, R270) -/

/-- Every job that the AC has open, running or saved. -/
def Crypto.acJobs (c : Crypto) : List Context := (c.contexts.filterMap id).filter (!·.byLc) ++ c.saved

/-- The lowest number that no AC job has. -/
def Crypto.freeNumber (c : Crypto) : Nat :=
  ((upTo 4).find? (fun n => !c.acJobs.any (fun x => x.number == n))).getD 0

def Crypto.freeContext (c : Crypto) : Option Nat := (upTo 4).find? (fun i => (c.contexts.getD i none).isNone)

def Crypto.place (c : Crypto) (i : Nat) (x : Option Context) : Crypto := { c with contexts := setAt c.contexts i x }

def State.keySlot (s : State) (n : Nat) : Option KeySlot := s.crypto.slots.getD n none

/-- The slot whose key a job uses. -/
def CryptoJob.keyOf : CryptoJob → Option Nat
  | .gcm _ n _ _ _ _ => some n
  | .sign n _ => some n
  | .ecdh n _ _ => some n
  | _ => none

/-- The key that a context takes at its open (R269). -/
def State.jobKey (s : State) (job : CryptoJob) : Bytes :=
  match job.keyOf.bind s.keySlot with
  | none => []
  | some k => k.key

/-- A job is opened in a free context. -/
def State.openContext (s : State) (i : Nat) (byLc : Bool) (prio : Nat) (owner : Origin) (call : Option Call)
    (job : CryptoJob) : State :=
  let c := s.crypto
  let x : Context := { byLc := byLc, number := if byLc then i else c.freeNumber, prio := prio, opened := c.opens,
                       owner := owner, call := call, job := job, key := s.jobKey job, suspensions := 0 }
  s.modCrypto (fun c => { c.place i (some x) with opens := c.opens + 1 })

/-- The saved job of highest priority, the first saved among equals. -/
def Crypto.nextSaved (c : Crypto) : Option Context :=
  let top := (c.saved.map (·.prio)).foldl max 0
  c.saved.find? (fun x => x.prio == top)

/-- A context closes and is zeroed; one of the LC takes up a saved job again. -/
def State.closeContext (s : State) (i : Nat) : State :=
  let byLc := match s.crypto.contexts.getD i none with
    | some x => x.byLc
    | none => false
  s.modCrypto (fun c =>
    match if byLc then c.nextSaved else none with
    | none => c.place i none
    | some x => { c.place i (some x) with saved := c.saved.erase x })

/-- The AC job with a number. -/
def Crypto.jobOf (c : Crypto) (n : Nat) : Option Context := c.acJobs.find? (fun x => x.number == n)

/-- Where a job runs; none while it is saved. -/
def Crypto.whereIs (c : Crypto) (n : Nat) : Option Nat :=
  (upTo 4).find? (fun i => match c.contexts.getD i none with
    | some x => !x.byLc && x.number == n
    | none => false)

/-- A job of the AC ends, running or saved. -/
def State.dropJob (s : State) (n : Nat) : State :=
  match s.crypto.whereIs n with
  | some i => s.closeContext i
  | none => s.modCrypto (fun c => { c with saved := c.saved.filter (fun x => x.number != n) })

/-- An ECC job, which is taken after a hash or GCM job (R270). -/
def CryptoJob.ecc : CryptoJob → Bool
  | .sign _ _ => true
  | .verify _ _ _ _ => true
  | .ecdh _ _ _ => true
  | .keygen _ => true
  | _ => false

/-- The first of two contexts is pre-empted before the second. -/
def Context.victimBefore (a b : Context) : Bool :=
  a.prio < b.prio || (a.prio == b.prio && ((!a.job.ecc && b.job.ecc) ||
    (a.job.ecc == b.job.ecc && decide (b.opened < a.opened))))

/-- The context that the LC takes when all four are held. -/
def Crypto.victim (c : Crypto) : Option Nat :=
  let held := (upTo 4).filterMap (fun i => (c.contexts.getD i none).bind (fun x =>
    if x.byLc then none else some (i, x)))
  let best (acc : Option (Nat × Context)) (x : Nat × Context) : Option (Nat × Context) :=
    match acc with
    | none => some x
    | some y => if x.2.victimBefore y.2 then some x else some y
  (held.foldl best none).map (·.1)

/-- CRYPTO_PREEMPT (R269, R270): the LC opens a context; it holds two at most. -/
def execCryptoPreempt (dt : Ticks) (s : State) : Host.Outcome State Fault Refusal :=
  let s := s.elapse dt
  .next (if !s.legalRuns || 2 ≤ s.crypto.lcCount then s
    else
      match s.crypto.freeContext with
      | some i => s.openContext i true 3 .host none .legal
      | none =>
        match s.crypto.victim with
        | none => s
        | some i =>
          match s.crypto.contexts.getD i none with
          | none => s
          | some x =>
            let x := { x with suspensions := min 65535 (x.suspensions + 1) }
            (s.modCrypto (fun c => { c with saved := c.saved ++ [x] })).openContext i true 3 .host none .legal)

/-! ### The work of a job -/

def CryptoJob.opcode : CryptoJob → Nat
  | .sign _ _ => 0x0907
  | .verify _ _ _ _ => 0x0908
  | .ecdh _ _ _ => 0x0909
  | .keygen _ => 0x090A
  | .random _ => 0x090D
  | _ => 0

/-- The key slot that a job holds. -/
def CryptoJob.slot : CryptoJob → Option Nat
  | .gcm _ n _ _ _ _ => some n
  | .sign n _ => some n
  | .ecdh n _ _ => some n
  | .keygen n => some n
  | _ => none

def State.putKey (s : State) (n : Nat) (k : Option KeySlot) : State :=
  s.modCrypto (fun c => { c with slots := setAt c.slots n k })

/-- The private scalar in a slot. -/
def State.scalar (s : State) (n : Nat) : Nat :=
  match s.keySlot n with
  | none => 0
  | some k => beNat k.key

/-- What a one-shot job with a key gives: its status, its result and the state after it (R271, R272, R274). -/
def State.work (s : State) (key : Bytes) : CryptoJob → Nat × Bytes × State
  | .sign _ digest =>
    let d := beNat key
    if scalarOk d then (stDone, ecdsaSign d digest, s) else (stBadParam, [], s)
  | .verify pub digest r sg => (if ecdsaVerify pub digest (r ++ sg) then stDone else stInvalid, [], s)
  | .ecdh _ dest peer =>
    let d := beNat key
    if scalarOk d then (stDone, [], s.putKey dest (some ⟨2, ecdhShared d peer⟩)) else (stBadParam, [], s)
  | .keygen n =>
    if !s.crypto.seeded then (stEntropyFail, [], s)
    else
      let r := s.reseed.drbgBytes 48
      let d := beNat r.1 % (p256N - 1) + 1
      (stDone, ecPublic d, r.2.putKey n (some ⟨3, beBytes 32 d⟩))
  | .random n =>
    if !s.crypto.seeded then (stEntropyFail, [], s)
    else
      let r := s.drbgBytes n
      (stDone, r.1, r.2)
  | _ => (stDone, [], s)

/-- A job's command completes, with its count of suspensions (R270). -/
def State.completeJob (s : State) (x : Context) (status : Nat) (result : Bytes) : State :=
  let s := s.modCrypto (fun c => { c with lastSuspensions := x.suspensions })
  match x.call.bind (fun c => s.accepted c x.job.opcode) with
  | none => s
  | some f => s.respond f status result

/-- CRYPTO_JOB_COMPLETE (R268): a streamed job goes on until its command closes it. -/
def execCryptoJobComplete (dt : Ticks) (ctx : Nat) (s : State) : Host.Outcome State Fault Refusal :=
  let s := s.elapse dt
  .next (match s.crypto.contexts.getD ctx none with
    | none => s
    | some x =>
      if x.byLc then s.closeContext ctx
      else if x.call.isNone then s
      else
        let r := s.work x.key x.job
        (r.2.2.closeContext ctx).completeJob x r.1 r.2.1)

/-- The jobs of an owner end with its function, and complete ABORTED (R276, R312). -/
def State.abortJobs (s : State) (owner : Origin) : State :=
  (s.crypto.acJobs.filter (fun x => x.owner == owner)).foldl (fun s x =>
    (s.dropJob x.number).completeJob x stAborted []) s

/-- The LC's contexts end with an LC-side restart (R276). -/
def State.abortLegalJobs (s : State) : State :=
  ((upTo 4).filter (fun i => match s.crypto.contexts.getD i none with
    | some x => x.byLc
    | none => false)).foldl State.closeContext s

/-! ### Commands (Table 12.10) -/

/-- A one-shot command takes a context, or BUSY (R269). -/
def State.startJob (s : State) (f : InFlight) (prio : Nat) (job : CryptoJob) : State :=
  match s.crypto.freeContext with
  | none => s.reply f stBusy
  | some i => (s.accept f).openContext i false prio f.call.origin (some f.call) job

/-- A slot holds a key of one of the types. -/
def State.slotType (s : State) (n : Nat) (types : List Nat) : Bool :=
  match s.keySlot n with
  | none => false
  | some k => types.contains k.type

/-- CTX_OPEN (R269, R332). -/
def execCtxOpen (dt : Ticks) (c : Call) (p : Bytes) (s : State) : Host.Outcome State Fault Refusal :=
  let s := s.elapse dt
  let op := field p 0 1
  let slot := field p 2 1
  let ok := p.length == 16 && rsv p 3 1 && decide (1 ≤ op ∧ op ≤ 3) && decide (field p 1 1 ≤ 3) &&
    (if op = 1 then slot == 0 && rsv p 4 12 else s.slotType slot [1, 2])
  .next (s.onCommand c 0x0903 p ok 1 (fun f s =>
    match s.crypto.freeContext with
    | none => s.reply f stBusy
    | some i =>
      let job : CryptoJob := if op = 1 then .sha [] else .gcm (op == 3) slot (slice p 4 12) [] [] false
      let n := s.crypto.freeNumber
      (s.openContext i false (field p 1 1) f.call.origin none job).reply f stDone [byte n]))

/-- A streamed job of this route, by its number (R269). -/
def State.streamOf (s : State) (o : Origin) (n : Nat) : Option Context :=
  (s.crypto.jobOf n).bind (fun x => if x.owner = o ∧ x.call.isNone then some x else none)

/-- A running job takes a new form. -/
def State.setJob (s : State) (i : Nat) (x : Context) (job : CryptoJob) : State :=
  s.modCrypto (·.place i (some { x with job := job }))

def gcmLimit : Nat := 68719476704

/-- What CTX_UPDATE makes of a job: refused, or the job after it. -/
def CryptoJob.feed (job : CryptoJob) (part : Nat) (data : Bytes) : Option CryptoJob :=
  match job with
  | .sha d => if part = 0 ∧ (d ++ data).length ≤ 4294967295 then some (.sha (d ++ data)) else none
  | .gcm dec n iv aad text begun =>
    if part = 1 then
      (if begun ∨ gcmLimit < (aad ++ data).length then none else some (.gcm dec n iv (aad ++ data) text false))
    else if (if dec then 65536 else gcmLimit) < (text ++ data).length then none
    else some (.gcm dec n iv aad (text ++ data) true)
  | _ => none

/-- What CTX_UPDATE returns: for GCM_ENC the text just fed, encrypted. -/
def CryptoJob.feedOutput (job : CryptoJob) (key : Bytes) (part : Nat) (data : Bytes) : Bytes :=
  match job with
  | .gcm false _ iv _ text _ =>
    if part = 0 then (gcmCrypt key iv (text ++ data)).drop text.length else []
  | _ => []

/-- CTX_UPDATE (R332): while its job is saved the command waits (R270). -/
def execCtxUpdate (dt : Ticks) (c : Call) (p : Bytes) (s : State) : Host.Outcome State Fault Refusal :=
  let s := s.elapse dt
  let n := field p 0 1
  let part := field p 1 1
  let data := p.drop 4
  let ok := decide (4 ≤ p.length) && rsv p 2 2 && decide (part ≤ 1)
  .next (match s.streamOf c.origin n with
    | none => s.onCommand c 0x0904 p false 0 (fun _ s => s)
    | some x =>
      let out := x.job.feedOutput x.key part data
      match s.crypto.whereIs n, x.job.feed part data with
      | _, none => s.onCommand c 0x0904 p false 0 (fun _ s => s)
      | none, _ => s
      | some i, some job => s.onCommand c 0x0904 p ok out.length (fun f s => (s.setJob i x job).reply f stDone out))

/-- The result of a streamed job: its status and bytes (R273). -/
def CryptoJob.finish (job : CryptoJob) (key tag : Bytes) : Nat × Bytes :=
  match job with
  | .sha d => (stDone, sha256 d)
  | .gcm false _ iv aad text _ => (stDone, gcmTag key iv aad (gcmCrypt key iv text))
  | .gcm true _ iv aad text _ =>
    if gcmTag key iv aad text = tag then (stDone, gcmCrypt key iv text) else (stInvalid, [])
  | _ => (stDone, [])

/-- The payload length of CTX_FINAL and the room that its result needs. -/
def CryptoJob.finalForm : CryptoJob → Nat × Nat
  | .gcm true _ _ _ text _ => (20, text.length)
  | .gcm false _ _ _ _ _ => (4, 16)
  | _ => (4, 32)

/-- The result buffer of a failed decryption is zero-filled (R273). -/
def State.zeroBuffer (s : State) (f : InFlight) (n : Nat) : State :=
  if f.bulk && f.call.origin == .host then s.modMem (fun m => m.sramWrite (hawkBase + f.bufOff) (zeros n)) else s

/-- CTX_FINAL (R332, R273). -/
def execCtxFinal (dt : Ticks) (c : Call) (p : Bytes) (s : State) : Host.Outcome State Fault Refusal :=
  let s := s.elapse dt
  let n := field p 0 1
  .next (match s.streamOf c.origin n with
    | none => s.onCommand c 0x0905 p false 0 (fun _ s => s)
    | some x =>
      match s.crypto.whereIs n with
      | none => s
      | some i =>
        let form := x.job.finalForm
        s.onCommand c 0x0905 p (p.length == form.1 && rsv p 1 3) form.2 (fun f s =>
          let r := x.job.finish x.key (p.drop 4)
          let s := (s.closeContext i).completeJob x r.1 r.2
          (if r.1 = stInvalid then s.zeroBuffer f form.2 else s).reply f r.1 r.2))

/-- CTX_ABORT (R269, R270). -/
def execCtxAbort (dt : Ticks) (c : Call) (p : Bytes) (s : State) : Host.Outcome State Fault Refusal :=
  let s := s.elapse dt
  let n := field p 0 1
  let own := match s.crypto.jobOf n with
    | none => false
    | some x => x.owner == c.origin
  .next (s.onCommand c 0x0906 p (p.length == 1 && own) 0 (fun f s =>
    match s.crypto.jobOf n with
    | none => s.reply f stBadParam
    | some x => ((s.dropJob n).completeJob x stAborted []).reply f stDone))

/-- SIGN (R331). -/
def execSign (dt : Ticks) (c : Call) (p : Bytes) (s : State) : Host.Outcome State Fault Refusal :=
  let s := s.elapse dt
  let n := field p 0 1
  let ok := p.length == 36 && rsv p 2 2 && decide (field p 1 1 ≤ 3) && s.slotType n [3]
  .next (s.onCommand c 0x0907 p ok 64 (fun f s => s.startJob f (field p 1 1) (.sign n (p.drop 4))))

/-- VERIFY (R271). -/
def execVerify (dt : Ticks) (c : Call) (p : Bytes) (s : State) : Host.Outcome State Fault Refusal :=
  let s := s.elapse dt
  let ok := p.length == 164 && rsv p 1 3 && decide (field p 0 1 ≤ 3) && publicKeyOk (slice p 4 64)
  .next (s.onCommand c 0x0908 p ok 0 (fun f s =>
    s.startJob f (field p 0 1) (.verify (slice p 4 64) (slice p 68 32) (slice p 100 32) (slice p 132 32))))

/-- A destination that only INSTALL_LINK_KEY may write (R331). -/
def linkSlot (n : Nat) : Bool := n ≤ 2

/-- ECDH (R271, R331). -/
def execEcdh (dt : Ticks) (c : Call) (p : Bytes) (s : State) : Host.Outcome State Fault Refusal :=
  let s := s.elapse dt
  let n := field p 0 1
  let dest := field p 1 1
  let peer := p.drop 4
  let ownKey := scalarOk (s.scalar n) && ecPublic (s.scalar n) == peer
  let ok := p.length == 68 && rsv p 3 1 && decide (field p 2 1 ≤ 3) && decide (dest ≤ 15) && s.slotType n [3] &&
    publicKeyOk peer && !ownKey
  .next (s.onCommand c 0x0909 p ok 0 (fun f s =>
    if linkSlot dest then s.reply f stDeniedState else s.startJob f (field p 2 1) (.ecdh n dest peer)))

/-- KEYGEN (R274, R331). -/
def execKeygen (dt : Ticks) (c : Call) (p : Bytes) (s : State) : Host.Outcome State Fault Refusal :=
  let s := s.elapse dt
  let n := field p 0 1
  let ok := p.length == 4 && rsv p 2 2 && decide (field p 1 1 ≤ 3) && decide (n ≤ 15)
  .next (s.onCommand c 0x090A p ok 64 (fun f s =>
    if linkSlot n then s.reply f stDeniedState
    else if !s.crypto.seeded then s.reply f stEntropyFail
    else s.startJob f (field p 1 1) (.keygen n)))

/-- A slot is held by an open context (R331). -/
def State.slotHeld (s : State) (n : Nat) : Bool := s.crypto.acJobs.any (fun x => x.job.slot == some n)

/-- A key as KEY_LOAD gives it: an AES-128 key is followed by zeros (R331). -/
def keyForm (type : Nat) (key : Bytes) : Bool := 1 ≤ type && type ≤ 3 && (type != 1 || allZero (key.drop 16))

/-- KEY_LOAD (R272, R331). -/
def execKeyLoad (dt : Ticks) (c : Call) (p : Bytes) (s : State) : Host.Outcome State Fault Refusal :=
  let s := s.elapse dt
  let n := field p 0 1
  let type := field p 1 1
  let key := p.drop 4
  let ok := p.length == 36 && rsv p 2 2 && decide (n ≤ 15) && keyForm type key
  .next (s.onCommand c 0x090B p ok 0 (fun f s =>
    if linkSlot n || s.slotHeld n then s.reply f stDeniedState
    else (s.putKey n (some ⟨type, if type = 1 then key.take 16 else key⟩)).reply f stDone))

/-- KEY_ERASE (R331). -/
def execKeyErase (dt : Ticks) (c : Call) (p : Bytes) (s : State) : Host.Outcome State Fault Refusal :=
  let s := s.elapse dt
  let n := field p 0 1
  .next (s.onCommand c 0x090C p (p.length == 1 && decide (n ≤ 15)) 0 (fun f s =>
    if linkSlot n || s.slotHeld n then s.reply f stDeniedState else (s.putKey n none).reply f stDone))

/-- RANDOM (R274): the request waits in a context of the lowest priority. -/
def execRandom (dt : Ticks) (c : Call) (p : Bytes) (s : State) : Host.Outcome State Fault Refusal :=
  let s := s.elapse dt
  let n := field p 0 2
  .next (s.onCommand c 0x090D p (p.length == 2 && decide (1 ≤ n ∧ n ≤ 4096)) n (fun f s =>
    if !s.crypto.seeded then s.reply f stEntropyFail else s.startJob f 0 (.random n)))

/-! ### The entropy source (R274, R275, Table 10.12) -/

/-- A job that waits for random output. -/
def CryptoJob.drawsRandom : CryptoJob → Bool
  | .random _ => true
  | .keygen _ => true
  | _ => false

/-- The ENTROPY event (Table 12.12). -/
def State.announceEntropy (s : State) : State := s.announce 0x0980 [byte s.entropyFlags]

/-- A port in SEEKING holds while no fresh NONCE exists (Table 14.5). -/
def State.holdPorts (s : State) : State :=
  let now := s.mono
  s.modFabric (fun f => { f with ports := f.ports.map (fun p =>
    if p.state = 3 then { p with state := 5, at_ := now } else p) })

/-- One failed attempt (Table 10.12); at the third in succession the source stays off. -/
def State.entropyFailed (s : State) : State :=
  let now := s.mono
  let s := s.modCrypto (fun c => { c with
    seeded := false, entropyFail := true, fails := min 255 (c.fails + 1), failedAt := now
    latched := c.latched || decide (2 ≤ c.fails) })
  let waiting := s.crypto.acJobs.filter (fun x => x.job.drawsRandom)
  let s := waiting.foldl (fun s x => (s.dropJob x.number).completeJob x stEntropyFail []) s
  let s := s.holdPorts.announceEntropy
  if s.crypto.latched then s.postFault 0x0011 else s

/-- Raw bits of the running source pass through the tests (R274). -/
def State.feedNoise (s : State) (bits : List Bool) : Option Bool × State :=
  let t := s.crypto.noise.run_ bits
  (t.2, s.modCrypto (fun c => { c with noise := t.1 }))

/-- ENTROPY_HEALTH_FAIL (R274, R275): the raw bits that the source delivers; they fail a test, or leave its state. -/
def execEntropyHealthFail (dt : Ticks) (bits : List Bool) (s : State) : Host.Outcome State Fault Refusal :=
  let s := s.elapse dt
  let r := s.feedNoise bits
  .next (if !s.crypto.seeded then s
    else
      match r.1 with
      | none => r.2
      | some rct => ((r.2.bump 26).countTrip rct).entropyFailed)

/-- A port looks for its peer: with no key it waits for one, without entropy it holds (Table 14.5). -/
def State.enterSeeking (s : State) (i : Nat) : State :=
  let now := s.mono
  let clear (p : Port) : Port := { p with at_ := now, hellos := 0, helloAt := 0, session := none, authFails := 0 }
  if (s.keySlot i).isNone then s.modPort i (fun p => { clear p with state := 2 })
  else if !s.crypto.seeded then s.modPort i (fun p => { clear p with state := 5 })
  else
    let r := s.drbgBytes 16
    r.2.modPort i (fun p => { clear p with state := 3, nonce := r.1, peerNonce := [] })

/-- ENTROPY_SOURCE_RESTART (R275). -/
def execEntropySourceRestart (dt : Ticks) (noise : BitVec 1024) (s : State) : Host.Outcome State Fault Refusal :=
  let s := s.elapse dt
  let c := s.crypto
  let r := s.runStartTests noise
  .next (if c.seeded || !c.entropyFail || c.latched || !s.since c.failedAt second then s
    else
      match r.1 with
      | none =>
        let s := r.2.seedDrbg.modCrypto (fun c => { c with reseeds := satAdd 0xFFFFFFFF c.reseeds 1 })
        ((upTo 3).filter (fun i => (s.port i).state == 5)).foldl State.enterSeeking s
      | some rct => ((r.2.bump 26).countTrip rct).entropyFailed)

/-- DRBG_RESEED (R274). -/
def execDrbgReseed (dt : Ticks) (s : State) : Host.Outcome State Fault Refusal :=
  let s := s.elapse dt
  .next (if s.crypto.seeded && (decide (65536 ≤ s.crypto.generates) || s.since s.crypto.reseedAt (60 * second))
    then s.reseed else s)

end Sys2Proof.Machine
end

