-- ==== Sys2Proof/Machine/Iommu.lean ====
section
/-! DEFINITION. The IOMMU: what DMA may reach, its tables and its TLB (R348, R349, R373 to R376, R380, R381,
Table 13.2). -/

namespace Sys2Proof.Machine

/-! ### The regions of Table 13.1, and who may reach them -/

/-- The legal ranges that a descriptor may not name (R371). -/
def legalRange (a : Nat) : Bool := (0x10000000 ≤ a && a ≤ 0x1100FFFF) || (0x30000000 ≤ a && a ≤ 0x300FFFFF)

/-- A legal region of Table 13.1. -/
def legalRegion (a : Nat) : Bool :=
  (0x10000000 ≤ a && a ≤ 0x1007FFFF) || (0x11000000 ≤ a && a ≤ 0x1100FFFF) || (0x30000000 ≤ a && a ≤ 0x300FFFFF)

/-- The Undercoat region. -/
def undercoatRegion (a : Nat) : Bool := 0x20000000 ≤ a && a ≤ 0x2037FFFF

/-- What DMA may read (Table 13.2). -/
def dmaReads (a : Nat) : Bool :=
  (0x20000000 ≤ a && a ≤ 0x203FFFFF) || (0x30100000 ≤ a && a ≤ 0x301FFFFF) || (0x40000000 ≤ a && a ≤ 0x4FFFFFFF)

/-- What DMA may write: not the capture region, not the xSPI window. -/
def dmaWrites (a : Nat) : Bool :=
  undercoatRegion a || (0x203C0000 ≤ a && a ≤ 0x203FFFFF) || (0x30100000 ≤ a && a ≤ 0x301FFFFF)

/-- A page inside a revoked guard window (R376). -/
def MemSys.revokedPage (m : MemSys) (a : Nat) : Bool :=
  m.windows.any (fun w => w.revoked && w.base ≤ a && a < w.base + w.size)

/-! ### The IOMMU (R373 to R375, R380) -/

/-- The order in which causes decide (R380). -/
def DescCause.rank : DescCause → Nat
  | .legal => 0
  | .target => 1
  | .integrity => 2
  | .revoked => 3
  | .pageFault => 4
  | .permission => 5
  | _ => 9

def DescCause.first (a b : DescCause) : DescCause := if b.rank < a.rank then b else a

/-- A 4-byte table entry. -/
def MemSys.word (m : MemSys) (a : Nat) : Nat := leNat (Memory.readBytes m.cells a 4)

/-- A walk meets a line that fails its check (R364, R367). -/
def MemSys.walkFails (m : MemSys) (page : Nat) : Bool :=
  let a1 := m.root / 4096 * 4096 + 4 * (page / 1024)
  let e1 := m.word a1
  let table := e1 / 4096 * 4096
  m.readFails a1 4 || (e1 % 4096 == 1 && undercoatRegion table && m.readFails (table + 4 * (page % 1024)) 4)

/-- The level-2 entry of a page of the IOVA; none where an entry is not valid (R373). -/
def MemSys.pageEntry (m : MemSys) (page : Nat) : Option Nat :=
  let e1 := m.word (m.root / 4096 * 4096 + 4 * (page / 1024))
  let table := e1 / 4096 * 4096
  if e1 % 4096 ≠ 1 ∨ undercoatRegion table = false then none
  else
    let e2 := m.word (table + 4 * (page % 1024))
    if e2 % 2 = 0 ∨ e2 / 8 % 512 ≠ 0 then none else some e2

/-- What an access to a translated page meets (R375). -/
def MemSys.judgePage (m : MemSys) (phys : Nat) (canRead canWrite write : Bool) : DescCause :=
  let a := 4096 * phys
  if legalRegion a then .legal
  else if !(if write then dmaWrites a else dmaReads a) then .target
  else if m.revokedPage a then .revoked
  else if write && !canWrite then .permission
  else if !write && !canRead then .permission
  else .none_

/-- The TLB with an entry used, most recently used first (R374). -/
def MemSys.useEntry (m : MemSys) (e : TlbEntry) : MemSys :=
  { m with tlb := (e :: m.tlb.filter (fun x => x.page != e.page)).take 64 }

/-- The translation of a page: from the TLB, or by a walk that is cached where it succeeds. -/
def MemSys.translate (m : MemSys) (page : Nat) (write : Bool) : MemSys × DescCause × Nat :=
  match m.tlb.find? (fun e => e.page == page) with
  | some e =>
    let c := m.judgePage e.phys e.canRead e.canWrite write
    (m.useEntry e, c, e.phys)
  | none =>
    if m.walkFails page then (m, .integrity, 0)
    else match m.pageEntry page with
    | none => (m, .pageFault, 0)
    | some v =>
      let e : TlbEntry := ⟨page, v / 4096, bit v 1, bit v 2⟩
      let c := m.judgePage e.phys e.canRead e.canWrite write
      (if c = .none_ then m.useEntry e else m, c, e.phys)

/-- The physical pieces of `n` bytes at an IOVA, over at most two pages. -/
def MemSys.pieces (m : MemSys) (iova n : Nat) (write : Bool) : MemSys × DescCause × List (Nat × Nat) :=
  let p := iova / 4096
  let a := m.translate p write
  let head := min n (4096 - iova % 4096)
  let first := (4096 * a.2.2 + iova % 4096, head)
  if head = n then (a.1, a.2.1, [first])
  else
    let b := a.1.translate (p + 1) write
    (b.1, a.2.1.first b.2.1, [first, (4096 * b.2.2, n - head)])

/-- Whether every translation of a beat stands in the TLB. -/
def MemSys.cached (m : MemSys) (iova n : Nat) : Bool :=
  [iova / 4096, (iova + n - 1) / 4096].all (fun p => m.tlb.any (fun e => e.page == p))

/-! ### Transfers that a restart cuts (R381) -/

/-- The IOVA bytes of a descriptor's destination in one page, and where the page lies; none where no walk finds it. -/
def MemSys.destinationPage (m : MemSys) (d : Descriptor) (page : Nat) : Option (Nat × Nat) :=
  let t := m.translate page true
  let lo := max d.dst (4096 * page)
  if t.2.1 = .none_ then some (4096 * t.2.2 + lo % 4096, min (d.dst + d.len) (4096 * (page + 1)) - lo) else none

/-- Bytes that nothing fixes any more (free values, log 9). -/
def State.scramble (s : State) (r : Nat × Nat) : State :=
  let d := s.drawFree (8 * r.2)
  d.2.modMem (fun m => { m with cells := Memory.writeBytes m.cells r.1 (leBytes r.2 d.1.toNat) })

/-- The destination of a transfer in flight is undefined after an AC-side restart; of those places only non-legal MRAM
is not cleared with it (R381). -/
def State.scrambleTransfer (s : State) (p : PoolDesc) : State :=
  if p.state ≠ .active then s
  else
    let first := p.desc.dst / 4096
    ((upTo ((p.desc.dst + p.desc.len - 1) / 4096 - first + 1)).filterMap (fun i =>
      s.mem.destinationPage p.desc (first + i))).foldl (fun s r =>
        if 0x30100000 ≤ r.1 ∧ r.1 ≤ 0x301FFFFF then s.scramble r else s) s

end Sys2Proof.Machine
end

