-- ==== Sys2Proof/Machine/Flash.lean ====
section
/-! DEFINITION. The jobs of the flash: erases and programs, what the profile store and the archive take, and
the reads of the profile store (R247, R324, R357 to R362, R385, R484, Tables 13.4 to 13.6). Store 1 is the profile
store, 2 the archive, 0 a bank that is staged. The xSPI controller runs one job at a time, in the order given. -/

namespace Sys2Proof.Machine

/-! ### Jobs of the xSPI controller -/

/-- The records of a sector count as lost when it is erased, and the tail moves on (R247, R361, R484). -/
def State.dropTail (s : State) (store sector : Nat) : State :=
  if store = 0 || !(s.flash.word sector).written then s
  else
    let h := s.flash.profHead
    let n := if store = 1 then
        (if s.flash.skipped.contains sector then 0 else if sector = h.1 then (h.2 - 64) / 192 else 341)
      else if s.sectorParses 2 sector then s.countRecords sector 2340 64 else 0
    let s := if store = 1 then (s.bump 5 n).modFlash (fun f => { f with
        profLost := satAdd 0xFFFFFFFF f.profLost n, skipped := f.skipped.filter (· != sector) })
      else (s.bump 6 n).modFlash (fun f => { f with archLost := satAdd 0xFFFFFFFF f.archLost n })
    if s.flash.tail store ≠ sector then s
    else
      let f := s.flash
      let next := ((f.ringAfter store sector (f.sectorCount store - 1)).find? (fun n => (f.word n).written)).getD sector
      s.modFlash (·.setTail store next)

/-- The journal word at the start of an erase (R358 step 1): an erase that was cut short keeps the
generation it was to give. -/
def JournalWord.erase (w : JournalWord) : JournalWord :=
  { w with
    state := 1, erases := min (w.erases + 1) 16777215
    gen := if w.erasing && w.gen != 0 then w.gen else if w.gen = 0xFFFFFFFF then 1 else w.gen + 1 }

def State.beginErase (s : State) (store sector : Nat) : State :=
  let s := s.dropTail store sector
  s.putWord (s.flash.word sector).erase

/-- Before the first program the word of an erased sector becomes WRITTEN (R358). -/
def State.beginProgram (s : State) (sector : Nat) : State :=
  let w := s.flash.word sector
  if w.state = 2 then s.putWord { w with state := 0 } else s

/-- The controller takes up the job that now stands first. -/
def State.beginJob (s : State) : State :=
  match s.flash.jobs with
  | [] => s
  | .erase sector _ store :: _ => s.beginErase store sector
  | .programReading _ :: _ => s.beginProgram (s.flash.pos 1).1
  | .programArchive _ :: _ => s.beginProgram (s.flash.pos 2).1

def State.pushJob (s : State) (j : FlashJob) : State :=
  let idle := s.flash.jobs.isEmpty
  let s := s.modFlash (fun f => { f with jobs := f.jobs ++ [j] })
  if idle then s.beginJob else s

def State.popJob (s : State) : State := (s.modFlash (fun f => { f with jobs := f.jobs.drop 1 })).beginJob

def FlashJob.ofStore (k : Nat) : FlashJob → Bool
  | .erase _ _ store => store == k
  | .programReading _ => k == 1
  | .programArchive _ => k == 2

/-- A staging's erase of a sector. -/
def FlashJob.erases (n : Nat) : FlashJob → Bool
  | .erase k _ 0 => k == n
  | _ => false

def State.storeBusy (s : State) (store : Nat) : Bool := s.flash.jobs.any (FlashJob.ofStore store)

/-! ### Appending -/

/-- The profile store can take a reading now. -/
def State.profileReady (s : State) : Bool :=
  let p := s.flash.profHead
  !s.storeBusy 1 && decide (p.2 + 192 ≤ 65536) && s.flash.usable p

/-- A store makes room for its next record: it erases a sector, or has none left to erase (R361, R385). -/
def State.openSector (s : State) (store : Nat) : State :=
  if s.storeBusy store then s
  else
    match s.flash.nextSector store (s.flash.pos store) with
    | some n => s.pushJob (.erase n 0 store)
    | none =>
      if store ≠ 1 || s.flash.storeFault then s
      else (s.modFlash (fun f => { f with storeFault := true })).postFault 0x000D

def State.appendReading (s : State) (reading : Bytes) : State := s.pushJob (.programReading reading)

/-- Where the archive's next record will go once its jobs have run. -/
def Flash.archNext (f : Flash) : Nat × Nat :=
  let go (p : Nat × Nat) : FlashJob → Nat × Nat
    | .erase n _ 2 => (n, 64)
    | .programArchive b => (p.1, p.2 + b.length)
    | _ => p
  f.jobs.foldl go (f.pos 2)

def State.loseArchive (s : State) (n : Nat) : State :=
  (s.bump 6 n).modFlash (fun f => { f with archLost := satAdd 0xFFFFFFFF f.archLost n })

/-- An archive record is appended; one that no sector can take is lost (R361, R484). -/
def State.appendArchive (s : State) (record : Bytes) : State :=
  let p := s.flash.archNext
  let fits := decide (p.2 + record.length ≤ 65536) && (s.storeBusy 2 || s.flash.usable p)
  if fits then s.pushJob (.programArchive record)
  else
    match s.flash.nextSector 2 p with
    | some n => (s.pushJob (.erase n 0 2)).pushJob (.programArchive record)
    | none => s.loseArchive 1

/-! ### The ends of jobs -/

/-- A staging whose sectors are blank completes STAGE_BEGIN (R494). -/
def State.stagingErased (s : State) (sector : Nat) : State :=
  match s.update.staging with
  | none => s
  | some g =>
    let left := g.sectorsLeft.erase sector
    let s := s.modUpdate (fun u => { u with staging := some { g with sectorsLeft := left } })
    if left ≠ [] then s
    else
      match g.call.bind (fun c => s.accepted c 0x0802) with
      | none => s
      | some f =>
        (s.modUpdate (fun u => { u with staging := some { g with sectorsLeft := [], call := none } })).reply f
          stDone [byte (b2n g.bankB)]

/-- The erases of a staging that have not begun are dropped. -/
def State.dropStagingJobs (s : State) : State :=
  s.modFlash (fun f => { f with jobs := f.jobs.take 1 ++ (f.jobs.drop 1).filter (fun j => !j.ofStore 0) })

/-- A staging that a BAD sector stops (R359). -/
def State.stagingFailed (s : State) : State :=
  let s := s.modFlash (fun f => { f with jobs := f.jobs.filter (fun j => !j.ofStore 0) })
  match s.update.staging with
  | none => s
  | some g =>
    let s := s.modComponent g.component (fun c => c.setState g.bankB .empty)
    let s := s.modUpdate (fun u => { u with staging := none })
    match g.call.bind (fun c => s.accepted c 0x0802) with
    | none => s
    | some f => s.reply f stNoResource

/-- An erase ended well: blank, and journalled ERASED (R358). -/
def State.eraseGood (s : State) (store sector : Nat) : State :=
  let s := s.modMem (fun m => { m with cells := Memory.clear m.cells (flashBase + 65536 * sector) 65536 })
  let s := s.putWord { s.flash.word sector with state := 2 }
  if store = 0 then s.popJob.stagingErased sector
  else
    let f := s.flash
    let tail := if (f.word (f.tail store)).written then f.tail store else sector
    (s.modFlash (fun f => (f.setPos store (sector, 64)).setTail store tail)).popJob

/-- The first job is replaced. -/
def State.replaceJob (s : State) (j : FlashJob) : State :=
  (s.modFlash (fun f => { f with jobs := j :: f.jobs.drop 1 })).beginJob

/-- An erase failed: retried, and after the third failure the sector is BAD (R359). -/
def State.eraseBad (s : State) (store sector attempts : Nat) : State :=
  if attempts < 2 then s.replaceJob (.erase sector (attempts + 1) store)
  else
    let s := (s.putWord { s.flash.word sector with state := 3 }).bump 4
    if store = 0 then s.stagingFailed.beginJob
    else
      match s.flash.nextSector store (sector, 64) with
      | some n => s.replaceJob (.erase n 0 store)
      | none =>
        let dropped := (s.flash.jobs.filter (fun j => j.ofStore 2)).length - 1
        if store = 1 then s.popJob.openSector 1
        else ((s.modFlash (fun f => { f with jobs := f.jobs.filter (fun j => !j.ofStore 2) })).loseArchive
          dropped).beginJob

/-- The xSPI controller refuses an erase or a program inside a revoked guard window (R376). -/
def State.sectorShut (s : State) (sector : Nat) : Bool := s.mem.revokedPage (flashBase + 65536 * sector)

/-- FLASH_ERASE_COMPLETE (R358, R359): no erase runs, and so none ends, inside a revoked guard window (R376). -/
def execFlashEraseComplete (dt : Ticks) (sector : Nat) (good : Bool) (s : State) :
    Host.Outcome State Fault Refusal :=
  let s := s.elapse dt
  .next (match s.flash.jobs with
    | .erase n attempts store :: _ =>
      if n ≠ sector ∨ s.sectorShut sector = true then s else if good then s.eraseGood store sector else s.eraseBad store sector attempts
    | _ => s)

/-- Bytes programmed at a store's position, behind a header in a sector that holds none yet (R358 to R361). -/
def State.programAt (s : State) (store time : Nat) (bytes : Bytes) : State :=
  let p := s.flash.pos store
  let at_ := flashBase + 65536 * p.1
  let s := if p.2 ≠ 64 then s
    else
      let header := sectorHeader store (s.flash.word p.1).gen p.1 time
      s.modMem (fun m => { m with cells := Memory.writeBytes m.cells at_ header })
  let s := s.modMem (fun m => { m with cells := Memory.writeBytes m.cells (at_ + p.2) bytes })
  s.modFlash (·.setPos store (p.1, p.2 + bytes.length))

/-- FLASH_PROGRAM_COMPLETE (R361). -/
def execFlashProgramComplete (dt : Ticks) (s : State) : Host.Outcome State Fault Refusal :=
  let s := s.elapse dt
  .next (match s.flash.jobs with
    | .programReading b :: _ =>
      ((s.programAt 1 (field b 32 8) b).modFlash (fun f => { f with storeFault := false })).popJob
    | .programArchive b :: _ => (s.programAt 2 (field b 8 8) b).popJob
    | _ => s)

/-- ARCHIVE_HEAD_COMMIT (R361). -/
def execArchiveHeadCommit (dt : Ticks) (s : State) : Host.Outcome State Fault Refusal :=
  let s := s.elapse dt
  let now := s.mono
  .next (match s.flash.archPending with
    | none => s
    | some p =>
      if s.since s.flash.archCommitAt (100 * milli) then
        s.modFlash (fun f => { f.putArchHead p with archPending := none, archCommitAt := now })
      else s)

/-! ### Reading the profile store (R324) -/

/-- The readings of a sector, below the head. -/
def State.sectorReadings (s : State) (sector : Nat) : List Bytes :=
  let h := s.flash.profHead
  let n := if sector = h.1 then (h.2 - 64) / 192 else 341
  (upTo n).map (fun k => s.flashBytes (65536 * sector + 64 + 192 * k) 192)

/-- The readings of a metering point that the store holds, oldest first. -/
def State.storedReadings (s : State) (m : Nat) : List Bytes :=
  ((s.flash.profSectors.filter (s.sectorParses 1)).flatMap s.sectorReadings).filter (fun b => field b 2 1 == m)

/-- NODE_TIME of a reading (Table 10.2). -/
def readingTime (b : Bytes) : Nat := field b 32 8

/-- PROFILE_READ (R324). -/
def execProfileRead (dt : Ticks) (c : Call) (p : Bytes) (s : State) : Host.Outcome State Fault Refusal :=
  let s := s.elapse dt
  let m := field p 0 1
  let count := field p 2 2
  let ok := p.length == 16 && rsv p 1 1 && rsv p 4 4 && decide (m < 4) && decide (1 ≤ count) &&
    decide (count ≤ 21)
  .next (s.onCommand c 0x0405 p ok (16 + 192 * count) (fun f s =>
    let all := (s.storedReadings m).filter (fun b => decide (field p 8 8 ≤ readingTime b))
    if all.isEmpty && !s.unparsed.isEmpty then s.reply f stIntegrity
    else
      let sent := all.take count
      let next := match all.drop count with
        | [] => 0
        | b :: _ => readingTime b
      s.reply f stDone (leBytes 2 sent.length ++ zeros 6 ++ leBytes 8 next ++ sent.flatten)))

/-- PROFILE_STATUS (R324): the store keeps one count of readings lost (R247). -/
def execProfileStatus (dt : Ticks) (c : Call) (p : Bytes) (s : State) : Host.Outcome State Fault Refusal :=
  let s := s.elapse dt
  let m := field p 0 1
  .next (s.onCommand c 0x0406 p (p.length == 1 && decide (m < 4)) 24 (fun f s =>
    let all := s.storedReadings m
    let time (b : Option Bytes) : Nat := match b with
      | none => 0
      | some b => readingTime b
    s.reply f stDone (leBytes 4 all.length ++ leBytes 4 (satAdd 0xFFFFFFFF s.flash.profLost s.unparsedReadings) ++
      leBytes 8 (time all.head?) ++ leBytes 8 (time all.getLast?))))

end Sys2Proof.Machine
end

