-- ==== Sys2Proof/Machine/Skim.lean ====
section
/-! DEFINITION. The Skim codec, captures, profile series and archive records (R333, R470 to R489). -/

namespace Sys2Proof.Machine

/-! ### Bits (R474) -/

/-- `w` bits of a number, most significant first. -/
def bitsOf (w n : Nat) : List Bool := (upTo w).map (fun i => n.testBit (w - 1 - i))

/-- The number of bits, most significant first. -/
def ofBits (l : List Bool) : Nat := l.foldl (fun a b => 2 * a + b2n b) 0

/-- Bits packed into bytes, the last padded with 0. -/
def packBits : Nat → List Bool → Bytes
  | 0, _ => []
  | n + 1, l =>
    if l.isEmpty then []
    else
      let c := l.take 8
      byte (ofBits (c ++ List.replicate (8 - c.length) false)) :: packBits n (l.drop 8)

def packAll (l : List Bool) : Bytes := packBits (l.length / 8 + 1) l

/-- A sample as 32-bit two's complement. -/
def wrap32 (i : Int) : Nat := (i % 4294967296).toNat

def clamp32 (i : Int) : Int := clampInt (-2147483648) 2147483647 i

/-! ### Prediction, quantisation and the code (R475, R476) -/

/-- Table 17.3, from the reconstructed samples, newest first. -/
def predict (pred : Nat) (y : List Int) : Int :=
  match pred, y with
  | 1, a :: _ => a
  | 2, a :: b :: _ => 2 * a - b
  | 3, a :: b :: c :: _ => 3 * a - 3 * b + c
  | _, _ => 0

/-- The quantised error at bound `d`. -/
def quantise (d : Nat) (e : Int) : Int :=
  let q : Int := ((e.natAbs + d) / (2 * d + 1) : Nat)
  if e < 0 then -q else q

/-- The reconstructed sample. -/
def reconstruct (d : Nat) (p q : Int) : Int := clamp32 (p + q * (2 * d + 1))

/-- The unsigned value of a quantised error. -/
def zigzag (q : Int) : Nat := if 0 ≤ q then (2 * q).toNat else (-2 * q - 1).toNat

/-- The unsigned values of the samples after the warm-up; `y` holds what is reconstructed, newest first. -/
def residuals (pred d : Nat) : List Int → List Int → List Nat
  | _, [] => []
  | y, x :: xs =>
    let p := clamp32 (predict pred y)
    let q := quantise d (x - p)
    zigzag q :: residuals pred d (reconstruct d p q :: y) xs

/-- The code of one value with Rice parameter `k`. -/
def riceBits (k u : Nat) : List Bool :=
  let m := u / 2 ^ k
  if m ≤ 31 then List.replicate m true ++ [false] ++ bitsOf k u else List.replicate 32 true ++ bitsOf 33 u

def riceLen (k u : Nat) : Nat := if u / 2 ^ k ≤ 31 then u / 2 ^ k + 1 + k else 65

/-! ### Blocks (R473, R479) -/

/-- The values coded with a predictor, after its warm-up. -/
def codedPart (pred d : Nat) (xs : List Int) : List Nat :=
  residuals pred d (xs.take pred).reverse (xs.drop pred)

/-- Bytes of body of a combination. -/
def bodyLen (pred k : Nat) (us : List Nat) (n : Nat) : Nat :=
  (32 * min pred n + (us.map (riceLen k)).sum + 7) / 8

/-- The combination with the smallest body, ties to the lower PRED, then to the lower K: PRED, K and the
length. -/
def bestCoding (d : Nat) (xs : List Int) : Nat × Nat × Nat :=
  let try1 (best : Nat × Nat × Nat) (pred k : Nat) (us : List Nat) : Nat × Nat × Nat :=
    let len := bodyLen pred k us xs.length
    if len < best.2.2 then (pred, k, len) else best
  (upTo 4).foldl (fun best pred =>
    let us := codedPart pred d xs
    (upTo 31).foldl (fun best k => try1 best pred k us) best) (0, 0, 2 ^ 32)

/-- A block's header (Table 17.2). -/
def blockHeader (pred d k n status len : Nat) : Bytes :=
  [byte (64 * pred + 4 * d), byte k, byte (n - 1), 0] ++ leBytes 2 status ++ leBytes 2 len

/-- The block of 1 to 256 samples, oldest first. -/
def skimBlock (d status : Nat) (xs : List Int) : Bytes :=
  let n := xs.length
  let best := bestCoding d xs
  if 4 * n ≤ best.2.2 then
    blockHeader 0 0 31 n status (4 * n) ++ packAll (xs.flatMap (fun x => bitsOf 32 (wrap32 x)))
  else
    let warm := (xs.take best.1).flatMap (fun x => bitsOf 32 (wrap32 x))
    let body := packAll (warm ++ (codedPart best.1 d xs).flatMap (riceBits best.2.1))
    blockHeader best.1 d best.2.1 n status body.length ++ body

/-! ### Containers (R482, R484) -/

/-- Table 17.4. -/
def archiveRecord (kind src seqFirst time step rseq : Nat) (block : Bytes) : Bytes :=
  let r := leBytes 2 (28 + block.length) ++ [byte kind, byte src] ++ leBytes 2 seqFirst ++ zeros 2 ++
    leBytes 8 time ++ leBytes 4 step ++ leBytes 4 rseq ++ block
  r ++ leBytes 4 (crc32 r)

/-- A CAPTURE item (Table 12.12). -/
def captureItem (pch seqFirst time : Nat) (block : Bytes) : Bytes :=
  [byte pch, 0] ++ leBytes 2 seqFirst ++ zeros 4 ++ leBytes 8 time ++ block

/-- SRC of a series in the state: its place behind the channels. -/
def seriesSrc (mp qd : Nat) : Nat := 16 + 8 * mp + qd

def SkimBlock.record (b : SkimBlock) (block : Bytes) : Bytes :=
  if b.src < 16 then archiveRecord 1 b.src b.seqFirst b.timeFirst 0 0 block
  else
    let k := b.src - 16
    archiveRecord 2 (k / 8 + 4 * (k % 8)) 0 b.timeFirst b.stepS b.rseqFirst block

/-- ARCHIVE_SOURCES (R483). -/
def State.archives (s : State) (i : Nat) : Bool := bit (s.pnum 0x0030) i

def State.blockOf (s : State) (src : Nat) : Option SkimBlock := s.skim.blocks.find? (fun b => b.src == src)

def Skim.drop (k : Skim) (src : Nat) : Skim := { k with blocks := k.blocks.filter (fun b => b.src != src) }

/-- The KIND 0x03 frame that carries a CAPTURE item on the session whose command asked for it (R304, log 38). -/
def State.sendCapture (s : State) (item : Bytes) : State :=
  match s.skim.capture with
  | none => s
  | some c =>
    match c.call with
    | ⟨.service, _⟩ | ⟨.optical, _⟩ =>
      if (s.accepted c.call 0x0A01).any (fun f => !f.orphan) && s.routeOpen c.call.origin then
        s.emit (.rilfy c.call.origin (rilfyFrame 3
          (entryBytes 0x0A80 c.call.tag flagBulk 0 0 item.length 0 (leBytes 4 0 ++ leBytes 4 item.length)) item))
      else s
    | _ => s

/-- A block in progress ends: it is coded and delivered (R480, R486, R487). -/
def State.endBlock (s : State) (src : Nat) : State :=
  match s.blockOf src with
  | none => s
  | some b =>
    let s := s.modSkim (·.drop src)
    let d := if src < 16 then (match s.skim.capture with
      | some c => c.bound
      | none => 0) else 0
    let block := skimBlock d b.status b.samples.reverse
    let s := if b.archived then s.appendArchive (b.record block) else s
    if 16 ≤ src then s
    else
      let item := captureItem src b.seqFirst b.timeFirst block
      let sent := s.bulkRoom item.length
      let step (c : Capture) : Capture := { c with
        sent := satAdd 0xFFFFFFFF c.sent (b2n sent), dropped := satAdd 0xFFFFFFFF c.dropped (b2n (!sent))
        blocksLeft := c.blocksLeft.map (· - 1), stopping := c.stopping || c.blocksLeft == some 1 }
      ((s.offerBulk 0x0A80 item).sendCapture item).modSkim (fun k => { k with capture := k.capture.map step })

/-- The capture ends: every block in progress is delivered, and the start command completes (R333, R486). -/
def State.endCapture (s : State) : State :=
  match s.skim.capture with
  | none => s
  | some c =>
    let srcs := (s.skim.blocks.map (·.src)).filter (· < 16)
    let s := srcs.foldl State.endBlock s
    let c := s.skim.capture.getD c
    let s := s.modSkim (fun k => { k with capture := none })
    match s.accepted c.call 0x0A01 with
    | none => s
    | some f => s.respond f stDone (leBytes 4 c.sent ++ leBytes 4 c.dropped)

/-- A capture that has been stopped, or has sent its blocks, ends at this boundary. -/
def State.settleCapture (s : State) : State :=
  match s.skim.capture with
  | some c => if c.stopping then s.endCapture else s
  | none => s

/-! ### Capture records (R480) -/

/-- The next record does not continue the block. -/
def SkimBlock.breaksAt (b : SkimBlock) (status seqNo : Nat) : Bool :=
  b.status != status || (b.seqFirst + b.samples.length) % 65536 != seqNo || bit status 13

/-- A capture record joins its channel's block. -/
def State.addSample (s : State) (pch : Nat) (value : Int) (status seqNo time : Nat) : State :=
  let s := match s.blockOf pch with
    | none => s
    | some b => if b.breaksAt status seqNo then (s.endBlock pch).settleCapture else s
  match s.skim.capture with
  | none => s
  | some _ =>
    let s := match s.blockOf pch with
      | none =>
        let b : SkimBlock := { src := pch, status := status, seqFirst := seqNo, timeFirst := time, stepS := 0,
                               rseqFirst := 0, timeLast := time, archived := s.archives 0, samples := [value] }
        s.modSkim (fun k => { k with blocks := k.blocks ++ [b] })
      | some b => s.modSkim (fun k => { k with blocks := k.blocks.replace b { b with samples := value :: b.samples } })
    match s.blockOf pch with
    | none => s
    | some b => if 256 ≤ b.samples.length then (s.endBlock pch).settleCapture else s

/-- A capture of this channel runs. -/
def State.capturing (s : State) (pch : Nat) : Bool :=
  match s.skim.capture with
  | none => false
  | some c => bit c.mask pch

/-- The sums that external heat takes from the capture copies of the two temperatures (R196). -/
def State.addExternal (s : State) (n : Nat) (value : Int) (status : Nat) : State :=
  let r : Record := ⟨value, BitVec.ofNat 16 status, 0, 0, 0⟩
  if !r.good then s
  else
    (pointsWhere (fun m => s.mpType m == typeHeat && s.mpSub m == 1 &&
        (bindPch (s.binding m) 0 == n || bindPch (s.binding m) 1 == n))).foldl (fun s m =>
      let t := (s.temperature n m value).getD 0
      let back := bindPch (s.binding m) 0 != n
      s.modPoint m (fun p =>
        if back then { p with extReturnSum := p.extReturnSum + t, extReturnN := p.extReturnN + 1 }
        else { p with extSupplySum := p.extSupplySum + t, extSupplyN := p.extSupplyN + 1 })) s

/-- One record of the ring, with its instant; a record with SETTLING carries no value. -/
def State.takeRecord (n : Nat) (s : State) (x : Bytes × Nat) : State :=
  let value := sfield x.1 0 4
  let status := field x.1 4 2
  if bit status 8 then s
  else
    let s := s.addExternal n value status
    if s.capturing n then s.addSample n value status (field x.1 6 2) x.2 else s

/-- Undercoat takes the oldest line that it has not taken; a poisoned line gives nothing (R364, R520). -/
def State.takeLine (s : State) (n : Nat) : State :=
  let c := s.channel n
  let at_ := 0x20380000 + 16384 * n + 8 * ((c.capIndex + 2048 - c.capUnread) % 2048)
  let times := (c.capTimes.drop (c.capTimes.length - c.capUnread)).take 4
  let s := s.modChannel n (fun c => { c with capUnread := c.capUnread - 4 })
  if s.mem.readFails at_ 32 then s.modMem (·.poison at_)
  else
    let rec_ (i : Nat) : Bytes := Memory.readBytes s.mem.cells (at_ + 8 * i) 8
    ((numbered times).map (fun x => (rec_ x.1, x.2))).foldl (State.takeRecord n) s

/-- The completed lines of a channel that wait are taken. -/
def State.takeLines (s : State) (n : Nat) : Nat → State
  | 0 => s
  | k + 1 => if (s.channel n).capUnread < 4 then s else State.takeLines (s.takeLine n) n k

/-- A capture is stopped: what waits in completed lines is in it, so that no sample is lost to the stop (R333, R486). -/
def State.stopCapture (s : State) : State :=
  match s.skim.capture with
  | none => s
  | some c => (((upTo 16).filter (bit c.mask)).foldl (fun s n => s.takeLines n 512) s).endCapture

/-- A capture one of whose channels has CAP_ENABLE 0 ends (R333). -/
def State.finishCapture (s : State) : State :=
  match s.skim.capture with
  | some c => if c.stopping then s.stopCapture else s
  | none => s

/-- CAPTURE_RECORD (R480, R486): the oldest completed line, where one waits. -/
def execCaptureRecord (dt : Ticks) (pch : Nat) (s : State) : Host.Outcome State Fault Refusal :=
  let s := s.elapse dt
  .next (if !(pch < 16 && s.ready) then s
    else if 4 ≤ (s.channel pch).capUnread then (s.takeLine pch).finishCapture
    else s.finishCapture)

/-- CAPTURE_START (R333). -/
def execCaptureStart (dt : Ticks) (c : Call) (p : Bytes) (s : State) : Host.Outcome State Fault Refusal :=
  let s := s.elapse dt
  let mask := field p 0 2
  let chans := (upTo 16).filter (bit mask)
  let ok := p.length == 8 && rsv p 3 1 && field p 2 1 ≤ 15 && mask != 0
  let blocks := field p 4 4
  .next (s.onCommand c 0x0A01 p ok 8 (fun f s =>
    if s.skim.capture.isSome || chans.any (fun n => !s.captures n) then s.reply f stDeniedState
    else
      let s := chans.foldl (fun s n => s.takeLines n 512) s
      let k : Capture := { call := c, mask := mask, bound := field p 2 1, sent := 0, dropped := 0, stopping := false,
                           blocksLeft := if blocks = 0 then none else some blocks }
      ((s.accept f).modSkim (fun x => { x with capture := some k })).acknowledge f))

/-- CAPTURE_STOP (R333, R486). -/
def execCaptureStop (dt : Ticks) (c : Call) (p : Bytes) (s : State) : Host.Outcome State Fault Refusal :=
  let s := s.elapse dt
  .next (s.onCommand c 0x0A02 p (p.length == 0) 0 (fun f s =>
    if s.skim.capture.isNone then s.reply f stDeniedState else s.stopCapture.reply f stDone))

/-! ### Profile series (R480, R481) -/

/-- The quantity-direction of a reading's codes (Table 9.2). -/
def readingQd (b : Bytes) : Nat :=
  let type := field b 52 1
  ((upTo 8).find? (fun qd => qdCodes type qd == (field b 3 1, field b 4 1))).getD 0

/-- A profile reading joins its series. -/
def State.addSeries (s : State) (b : Bytes) : State :=
  let src := seriesSrc (field b 2 1 % 4) (readingQd b)
  let mstat := field b 48 4
  let short := bit mstat 11
  let value := field b 40 8
  let time := readingTime b
  let s := match s.blockOf src with
    | none => s
    | some k =>
      if k.status ≠ mstat % 65536 ∨ field b 72 8 ≠ k.timeLast ∨ short = true ∨ 2147483647 < value then s.endBlock src
      else s
  if (s.blockOf src).isNone && !s.archives 1 then s
  else if 2147483647 < value then s.bump 7
  else
    let s := match s.blockOf src with
      | none =>
        let k : SkimBlock := { src := src, status := mstat % 65536, seqFirst := 0, timeFirst := time,
                               stepS := 60 * field b 68 2, rseqFirst := field b 28 4, timeLast := time,
                               archived := true, samples := [(value : Int)] }
        s.modSkim (fun x => { x with blocks := x.blocks ++ [k] })
      | some k => s.modSkim (fun x => { x with
          blocks := x.blocks.replace k { k with samples := (value : Int) :: k.samples, timeLast := time } })
    match s.blockOf src with
    | none => s
    | some k => if short || 256 ≤ k.samples.length then s.endBlock src else s

end Sys2Proof.Machine
end

