-- ==== Sys2Proof/Machine/Faults.lean ====
section
/-! DEFINITION. Restarts of one side, their escalation, and the events that cause them (R64, R65, R381,
R516 to R519, R502, R506). -/

namespace Sys2Proof.Machine

/-! ### The legal side -/

/-- The LC runs, in Igfaen or on its way to LEGAL_READY. -/
def State.lcAlive (s : State) : Bool := (s.component 0).running && !s.boot.lcHalt

/-- What the FA keeps of a channel: the capture ring's place is the AC's to know. -/
def Channel.down (c : Channel) : Channel :=
  { Channel.reset with capIndex := c.capIndex, capTimes := c.capTimes, capUnread := c.capUnread, capLoss := c.capLoss }

/-- What a metering point keeps while the LC restarts: MRAM, and what Undercoat holds. -/
def MeterPoint.lcKeep (m : Nat) (p : MeterPoint) : MeterPoint :=
  { p.keep m with
    gap := p.gap, now := if p.gap.isSome then mIncomplete else 0, prov := p.prov, extBase := p.extBase
    extSupplySum := p.extSupplySum, extSupplyN := p.extSupplyN, extReturnSum := p.extReturnSum
    extReturnN := p.extReturnN }

/-- The LC and the FA stop (R64): every metering point is INCOMPLETE from its last complete sample. -/
def State.lcDown (s : State) (kind fault : Nat) : State :=
  let s := (s.openGaps kind fault).abortLegalJobs
  { s with
    channels := s.channels.map Channel.down
    points := (numbered s.points).map (fun x => MeterPoint.lcKeep x.1 x.2)
    legal := s.legal.keep
    gate := { s.gate with atReset := s.gate.requests.length }
    boot := { s.boot with
      legalReady := false, measuring := false, romLockLc := false
      loaded := setAt (setAt s.boot.loaded 0 []) 1 [] }
    mem := s.mem.clearLegalSram }

/-- The LC is held in reset. -/
def State.holdLc (s : State) : State :=
  let s := (s.modBoot (fun b => { b with lcHalt := true, lcv := 0 })).stopImages [0, 1]
  let s := s.gate.requests.foldl (fun s r => s.answer r stFault []) s
  s.modGate (fun g => { g with atReset := 0, waiting := [] })

/-- Primer checks and loads the legal images again, and Igfaen starts (R64): in a full start that has not come
past LEGAL_START it is the start's own step 5. Without a usable pair the LC stays held (log 37). -/
def State.legalReload (s : State) (revert : Bool) (env : StartEnv) : State :=
  let s := [0, 1].foldl (State.selectImage revert) s
  if s.legalImages then s.enterLegal (s.boot.stage == 5) env
  else if s.boot.stage = 5 then s.noLegalImage
  else
    let k := s.missing 0 1
    (s.bootError 6 (k + 2) (s.component k).activeB).holdLc

/-- LC_HALT (R518). -/
def State.enterLcHalt (s : State) (fault count : Nat) (env : StartEnv) : State :=
  let s := s.bootError 9 2 (s.component 0).activeB
  let s := (s.postFault 0x0007).modBoot (fun b => { b with haltToLog := some (fault, count) })
  (s.lcDown gapFault fault).holdLc.afterLegal env

/-- The restarts that count with one now (R518, R519). -/
def recentRestarts (now : Nat) (l : List Nat) : List Nat :=
  (now :: l.filter (fun t => decide (now ≤ t + 600 * second))).take 3

def causeBit (n : Nat) : Word := BitVec.ofNat 32 (2 ^ n)

/-- A counted LC-side restart, or LC_HALT at the third within 600 s, before which a component in TRIAL is reverted (R517 to
R519). -/
def State.lcRestart (s : State) (fault cause : Nat) (env : StartEnv) : State :=
  let recent := recentRestarts s.mono s.boot.lcRestarts
  let s := (s.bump 19).modBoot (fun b => { b with lcRestarts := recent })
  let s := if fault = 4 then s.bump 21 else s
  let s := s.postFault fault
  if 3 ≤ recent.length then ([0, 1].foldl State.revertTrial s).enterLcHalt fault recent.length env
  else
    ((s.lcDown gapRestart fault).modBoot (fun b => { b with
      cause := b.cause ||| causeBit cause, lcToLog := b.lcToLog ++ [(fault, recent.length)] })).legalReload
        true env

/-- LOCKSTEP_MISMATCH (R517). -/
def execLockstepMismatch (dt : Ticks) (env : StartEnv) (s : State) : Host.Outcome State Fault Refusal :=
  let s := s.elapse dt
  .next (if s.lcAlive then s.lcRestart 0x0004 4 env else s)

/-- LC_WATCHDOG_EXPIRY (R516). -/
def execLcWatchdogExpiry (dt : Ticks) (env : StartEnv) (s : State) : Host.Outcome State Fault Refusal :=
  let s := s.elapse dt
  .next (if s.lcAlive then s.lcRestart 0x0005 5 env else s)

/-- LC_INTEGRITY_FAULT (R367). -/
def execLcIntegrityFault (dt : Ticks) (env : StartEnv) (s : State) : Host.Outcome State Fault Refusal :=
  let s := s.elapse dt
  .next (if s.lcAlive then s.lcRestart 0x0006 5 env else s)

/-- LEGAL_START_FAIL (R47, R518): treated as an LC watchdog expiry. -/
def execLegalStartFail (dt : Ticks) (env : StartEnv) (s : State) : Host.Outcome State Fault Refusal :=
  let s := s.elapse dt
  .next (if s.lcAlive && !s.boot.legalReady && s.since s.boot.legalStartAt second then
      (s.bootError 9 2 (s.component 0).activeB).lcRestart 0x0005 5 env
    else s)

/-! ### The application side -/

/-- Undercoat or its start runs. -/
def State.acAlive (s : State) : Bool := s.boot.stage == 6 || s.boot.stage == 7

/-- An AC-side reset (R65, R313, R381): the AC, the FE, DMA, system SRAM and the Hawk rings. -/
def State.acDown (s : State) : State :=
  let lost := s.hawk.delivery.length + s.gate.readings
  let h := s.hawk
  let p := s.ports
  let keepAct := match s.update.activation with
    | some a => if a.component = 2 && a.switched then some a else none
    | none => none
  let s := s.mem.pool.foldl State.scrambleTransfer s.restartDiscipline
  { s with
    boot := { s.boot with
      romLockAc := false, loaded := setAt (setAt s.boot.loaded 2 []) 3 [] }
    hawk := { Hawk.reset with
      lastStatus := h.lastStatus, misoStatus := h.misoStatus, frameErr := h.frameErr, scratch := h.scratch, irqStage := h.irqStage
      irqSpiErr := h.irqSpiErr, irqEnable := h.irqEnable, openDrain := h.openDrain, coalUs := h.coalUs
      timeHi := h.timeHi, timeLo := h.timeLo, miso := h.miso }
    mem := s.mem.clearSram
    flash := { s.flash with jobs := [], archPending := none }
    crypto := { s.crypto with
      contexts := s.crypto.contexts.map (fun c => c.filter (·.byLc)), saved := [] }
    ports := { Ports.reset with vbat := p.vbat, vbatLow := p.vbatLow, vbatGood := p.vbatGood, vbus := p.vbus }
    fabric := s.fabric.keep
    skim := Skim.reset
    update := { Update.reset with activation := keepAct }
    display := { s.display with
      commStage := s.display.commLive, statusStage := s.display.statusLive, commReady := false
      statusReady := false, commits := [] }
    points := s.points.map (fun p => { p with
      prov := Prov.reset, extBase := none, extSupplySum := 0, extSupplyN := 0, extReturnSum := 0
      extReturnN := 0 })
    sync := { s.sync with armed := none }
    channels := s.channels.map (fun c => { c with capTimes := [], capUnread := 0 })
    gate := { s.gate with replies := [], outbox := [], waiting := [], own := [] }
    legal := { s.legal with readingsMissed := satAdd 0xFFFFFFFF s.legal.readingsMissed lost } }

/-- Primer's second entry loads Undercoat and the FE microcode, and Undercoat starts. -/
def State.appReload (s : State) (revert : Bool) (env : StartEnv) : State :=
  let s := ([2, 3].foldl (State.selectImage revert) s).judgeApp
  if (s.component 2).running && (s.component 3).running then s.appStart env else s.enterRecovery

/-- A counted AC-side restart, or RECOVERY at the third within 600 s, before which a component in TRIAL is reverted (R519). -/
def State.acRestart (s : State) (fault : Nat) (env : StartEnv) : State :=
  let recent := recentRestarts s.mono s.boot.acRestarts
  let s := (s.bump 20).modBoot (fun b => { b with
    acRestarts := recent, cause := b.cause ||| causeBit 6, stage := 6 })
  let s := s.acDown.postFault fault
  if 3 ≤ recent.length then
    let s := [2, 3].foldl State.revertTrial s
    ((s.bootError 10 4 (s.component 2).activeB).postFault 0x000A).stopImages [2, 3] |>.enterRecovery
  else s.appReload true env

/-- AC_WATCHDOG_EXPIRY (R516). -/
def execAcWatchdogExpiry (dt : Ticks) (env : StartEnv) (s : State) : Host.Outcome State Fault Refusal :=
  let s := s.elapse dt
  .next (if s.acAlive then s.acRestart 0x0008 env else s)

/-- The Hawk area and the capture region (Table 13.1). -/
def inHawkOrCapture (a : Nat) : Bool := 0x20380000 ≤ a && a ≤ 0x203FFFFF

/-- AC_INTEGRITY_FAULT (R364, R520): inside the Hawk area and the capture region only the access fails. -/
def execAcIntegrityFault (dt : Ticks) (addr : Nat) (env : StartEnv) (s : State) :
    Host.Outcome State Fault Refusal :=
  let s := s.elapse dt
  .next (if !s.acAlive then s
    else
      let s := if inSram addr then s.modMem (·.poison addr) else s
      if inHawkOrCapture addr then s else s.acRestart 0x0009 env)

/-- APP_START_FAIL (R519). -/
def execAppStartFail (dt : Ticks) (env : StartEnv) (s : State) : Host.Outcome State Fault Refusal :=
  let s := s.elapse dt
  .next (if s.boot.stage = 6 ∧ s.since s.boot.appStartAt (2 * second) = true then
      (s.bootError 10 4 (s.component 2).activeB).acRestart 0x0008 env
    else s)

end Sys2Proof.Machine
end

