-- ==== Sys2Proof/Machine/Dma.lean ====
section
/-! DEFINITION. The DMA engine and the guard windows (R369 to R384, Tables 13.2, 13.9, 13.10). -/

namespace Sys2Proof.Machine

/-! ### Granules (R372) -/

/-- The beats of a granule of `n` bytes: offset and length. -/
def beats (n : Nat) : List (Nat × Nat) := (upTo ((n + 15) / 16)).map (fun j => (16 * j, min 16 (n - 16 * j)))

/-- SRAM lines that fail their check as they are read. -/
def linesOf (a n : Nat) : List Nat := (upTo ((a + n - 1) / 32 - a / 32 + 1)).map (a / 32 + ·)

/-- Non-legal MRAM (Table 13.1). -/
def otherMram (a : Nat) : Bool := 0x30100000 ≤ a && a ≤ 0x301FFFFF

/-- The parts of a range that lie in one 64-bit word each: address and length. -/
def wordParts (a n : Nat) : List (Nat × Nat) :=
  (upTo ((a + n + 7) / 8 - a / 8)).map (fun i =>
    let lo := max a (8 * (a / 8 + i))
    (lo, min (a + n) (8 * (a / 8 + i + 1)) - lo))

/-- A read of non-legal MRAM meets an uncorrectable word (R354). -/
def MemSys.mramFails (m : MemSys) (a n : Nat) : Bool :=
  otherMram a && (wordParts a n).any (fun q => m.badWords.contains (q.1 / 8))

/-- A write within one word of MRAM: a whole word makes it good; a narrower one reads the word first and is not performed
where that fails (R352). -/
def MemSys.mramPart (x : MemSys × Bool × Bytes) (q : Nat × Nat) : MemSys × Bool × Bytes :=
  let (m, bad, bs) := x
  if q.2 = 8 then
    ({ m with cells := Memory.writeBytes m.cells q.1 (bs.take 8), badWords := m.badWords.erase (q.1 / 8) }, bad, bs.drop 8)
  else if m.badWords.contains (q.1 / 8) then (m, true, bs.drop q.2)
  else ({ m with cells := Memory.writeBytes m.cells q.1 (bs.take q.2) }, bad, bs.drop q.2)

/-- A piece read: its bytes, or the poisoning of a line that fails (R364). -/
def MemSys.readPiece (failing : List Nat) (x : MemSys × Bool × Bytes) (q : Nat × Nat) : MemSys × Bool × Bytes :=
  let (m, bad, bs) := x
  let lines := if inSram q.1 then (linesOf q.1 q.2).filter failing.contains else []
  let m := lines.foldl (fun m l => m.poison (32 * l)) m
  (m, bad || (inSram q.1 && m.readFails q.1 q.2) || m.mramFails q.1 q.2, bs ++ Memory.readBytes m.cells q.1 q.2)

/-- What a granule's work has come to: the memory, the cause that stopped it, the IOVA of that beat and
the bytes read. -/
structure GranuleStep where
  mem : MemSys
  cause : DescCause
  iova : Nat
  data : Bytes

/-- One beat read. -/
def readBeat (failing : List Nat) (src : Nat) (x : GranuleStep) (b : Nat × Nat) : GranuleStep :=
  if x.cause ≠ .none_ then x
  else
    let t := x.mem.pieces (src + b.1) b.2 false
    if t.2.1 ≠ .none_ then { x with mem := t.1, cause := t.2.1, iova := src + b.1 }
    else
      let r := t.2.2.foldl (MemSys.readPiece failing) (t.1, false, [])
      if r.2.1 then { x with mem := r.1, cause := .integrity, iova := src + b.1 }
      else { x with mem := r.1, data := x.data ++ r.2.2 }

/-- A piece of a beat written: a partial write to a line that fails is not performed (R365). -/
def MemSys.writePiece (failing : List Nat) (x : MemSys × Bool × Bytes) (q : Nat × Nat) : MemSys × Bool × Bytes :=
  let (m, bad, bs) := x
  let now := bs.take q.2
  if inSram q.1 then
    let m := ((linesOf q.1 q.2).filter failing.contains).foldl (fun m l => m.poison (32 * l)) m
    (m.sramWrite q.1 now, bad || m.writeFails q.1 now, bs.drop q.2)
  else
    let w := (wordParts q.1 q.2).foldl MemSys.mramPart (m, bad, now)
    (w.1, w.2.1, bs.drop q.2)

/-- One beat written. -/
def writeBeat (failing : List Nat) (dst : Nat) (data : Bytes) (x : GranuleStep) (b : Nat × Nat) : GranuleStep :=
  if x.cause ≠ .none_ then x
  else
    let t := x.mem.pieces (dst + b.1) b.2 true
    if t.2.1 ≠ .none_ then { x with mem := t.1, cause := t.2.1, iova := dst + b.1 }
    else
      let r := t.2.2.foldl (MemSys.writePiece failing) (t.1, false, slice data b.1 b.2)
      if r.2.1 then { x with mem := r.1, cause := .integrity, iova := dst + b.1 }
      else { x with mem := r.1 }

def descOp (d : Descriptor) : Nat := d.ctrl % 16

/-- The bytes of the granule that begins at `done`. -/
def granuleLen (d : Descriptor) (done : Nat) : Nat := min 64 (d.len - done)

/-- A granule moved: the memory after it, what stopped it, where, and whether on the destination side. -/
def MemSys.moveGranule (m : MemSys) (failing : List Nat) (d : Descriptor) (done : Nat) :
    MemSys × DescCause × Nat × Bool :=
  let n := granuleLen d done
  let r : GranuleStep := if descOp d = 1 then
      ⟨m, .none_, 0, (upTo n).map (fun i => byte (d.src / 256 ^ (i % 4)))⟩
    else (beats n).foldl (readBeat failing (d.src + done)) ⟨m, .none_, 0, []⟩
  if r.cause ≠ .none_ then (r.mem, r.cause, r.iova, false)
  else
    let w := (beats n).foldl (writeBeat failing (d.dst + done) r.data) r
    (w.mem, w.cause, w.iova, true)

/-- Every beat of the granule finds its translation in the TLB. -/
def MemSys.granuleCached (m : MemSys) (d : Descriptor) (done : Nat) : Bool :=
  (beats (granuleLen d done)).all (fun b =>
    (descOp d == 1 || m.cached (d.src + done + b.1) b.2) && m.cached (d.dst + done + b.1) b.2)

/-! ### Descriptors and channels (R369 to R371, R377 to R379) -/

/-- Two ranges share an address. -/
def overlaps (a n b k : Nat) : Bool := decide (a < b + k) && decide (b < a + n)

/-- A range touches the legal ranges of R371. -/
def touchesLegal (a n : Nat) : Bool :=
  overlaps a n 0x10000000 0x1010000 || overlaps a n 0x30000000 0x100000

/-- The end of the map, and of the IOVA space (R383). -/
def badRange (a n : Nat) : Bool := decide (4294967296 < a + n) || (decide (a ≤ 0x600FFFFF) && decide (0x60100000 < a + n))

/-- Why the engine refuses a descriptor before any byte, if it does (R371, R383). -/
def descRefusal (d : Descriptor) : DescCause :=
  let copy := descOp d == 0
  if 1 < descOp d || 32 ≤ d.ctrl || !d.reservedZero || d.len == 0 || 16777215 < d.len then .badDesc
  else if copy && overlaps d.src d.len d.dst d.len then .badDesc
  else if badRange d.dst d.len || (copy && badRange d.src d.len) then .badDesc
  else if touchesLegal d.dst d.len || (copy && touchesLegal d.src d.len) then .legal
  else .none_

def MemSys.poolAt (m : MemSys) (i : Nat) : Option PoolDesc := m.pool.find? (fun p => p.index == i)

def PoolDesc.inFlight (p : PoolDesc) : Bool := p.state != .done && p.state != .aborted

/-- A descriptor written into its place of the pool. -/
def MemSys.putDesc (m : MemSys) (p : PoolDesc) : MemSys :=
  { m with pool := p :: m.pool.filter (fun q => q.index != p.index) }

/-- The engine writes STATE, CAUSE and DONE back. -/
def MemSys.setDesc (m : MemSys) (i : Nat) (state : DescState) (cause : DescCause) (done : Nat) : MemSys :=
  { m with pool := m.pool.map (fun q => if q.index = i then { q with state := state, cause := cause, done := done } else q) }

def MemSys.channel (m : MemSys) (c : Nat) : DmaChannel := m.channels.getD c DmaChannel.reset

def MemSys.modDma (m : MemSys) (c : Nat) (f : DmaChannel → DmaChannel) : MemSys :=
  { m with channels := m.channels.modify c f }

/-- Every later descriptor of a chain becomes ABORTED, STOPPED (R378); the pool bounds the chain. -/
def MemSys.stopChain : Nat → MemSys → Nat → MemSys
  | 0, m, _ => m
  | n + 1, m, i =>
    match m.poolAt i with
    | none => m
    | some p => if p.state = .pending then MemSys.stopChain n (m.setDesc i .aborted .stopped 0) p.desc.next else m

/-- A channel becomes idle with its descriptor aborted. -/
def MemSys.abortChannel (m : MemSys) (c : Nat) (cause : DescCause) : MemSys :=
  match (m.channel c).current with
  | none => m
  | some i =>
    let m := m.modDma c (fun x => { x with current := none, running := false, suspended := false })
    match m.poolAt i with
    | none => m
    | some p => MemSys.stopChain m.pool.length (m.setDesc i .aborted cause p.done) p.desc.next

/-- The engine raises an event to the AC. -/
def MemSys.event (m : MemSys) : MemSys := { m with events := satAdd 0xFFFFFFFF m.events 1 }

/-- A channel is suspended (R378). -/
def MemSys.suspend (m : MemSys) (c i : Nat) (cause : DescCause) (done iova : Nat) (dst : Bool) : MemSys :=
  ((m.setDesc i .suspended cause done).modDma c (fun x => { x with
    running := false, suspended := true, faultIova := iova, faultDst := dst })).event

/-- A channel with a descriptor that neither runs nor is suspended. -/
def DmaChannel.ready (c : DmaChannel) : Bool := c.current.isSome && !c.running && !c.suspended

/-- The ready channel of highest priority, the one that has waited longest first. -/
def MemSys.nextReady (m : MemSys) : Option Nat :=
  let better (a : Option Nat) (i : Nat) : Option Nat :=
    let x := m.channel i
    if !x.ready then a
    else
      match a with
      | none => some i
      | some j =>
        let y := m.channel j
        if y.prio < x.prio ∨ (x.prio = y.prio ∧ x.since < y.since) then some i else some j
  (upTo 32).foldl better none

def MemSys.runningCount (m : MemSys) : Nat := (m.channels.filter (·.running)).length

/-- A free mover takes a ready channel (R369). -/
def MemSys.grant (m : MemSys) : MemSys :=
  if 2 ≤ m.runningCount then m
  else
    match m.nextReady with
    | none => m
    | some c =>
      let n := m.grants + 1
      let m := { (m.modDma c (fun x => { x with running := true, since := n })) with grants := n }
      match (m.channel c).current with
      | none => m
      | some i =>
        match m.poolAt i with
        | none => m
        | some p => m.setDesc i .active .none_ p.done

/-- Both movers take what is ready. -/
def MemSys.grantAll (m : MemSys) : MemSys := m.grant.grant

/-- A channel takes up the descriptor that its `current` names, or refuses it before any byte. -/
def State.startDesc (s : State) (c i : Nat) : State :=
  match s.mem.poolAt i with
  | none => s.modMem (fun m => m.modDma c (fun x => { x with current := none, running := false }))
  | some p =>
    let held := if p.state = .pending then some i else none
    let s := s.modMem (fun m => m.modDma c (fun x => { x with current := held, running := false, suspended := false }))
    match if held.isSome then descRefusal p.desc else .none_ with
    | .none_ => s
    | .legal => (s.modMem (fun m => m.abortChannel c .legal)).blocked 3
    | cause => s.modMem (fun m => m.abortChannel c cause)

/-- The descriptors of a chain take their places: the first at `index`, each next one where the one
before names it. -/
def MemSys.placeChain : MemSys → Nat → List Descriptor → MemSys
  | m, _, [] => m
  | m, i, d :: ds =>
    if 16384 ≤ i then m
    else
      match m.poolAt i with
      | some p => if p.inFlight then m
          else MemSys.placeChain (m.putDesc ⟨i, d, .pending, .none_, 0⟩) d.next ds
      | none => MemSys.placeChain (m.putDesc ⟨i, d, .pending, .none_, 0⟩) d.next ds

/-- Entries of the IOMMU's tables that Undercoat has written, whole words of its region (R373). -/
def MemSys.writeTables (m : MemSys) (tables : List (Nat × Word)) : MemSys :=
  tables.foldl (fun m t =>
    if undercoatRegion t.1 && t.1 % 4 == 0 then m.sramWrite t.1 (leBytes 4 t.2.toNat) else m) m

/-- DMA_SUBMIT (R370, R371): Undercoat has set ROOT, its tables and the channel's priority before; a
channel that holds a descriptor takes no further submission. -/
def execDmaSubmit (dt : Ticks) (ch prio index : Nat) (descs : List Descriptor) (root : Nat)
    (tables : List (Nat × Word)) (s : State) : Host.Outcome State Fault Refusal :=
  let s := s.elapse dt
  let busy := (s.mem.pool.filter (·.inFlight)).length
  .next (if !s.acAlive || (s.mem.channel ch).current.isSome || decide (16384 < busy + descs.length) then s
    else
      let s := s.modMem (fun m => ({ m.writeTables tables with root := root }).placeChain index descs)
      let s := s.modMem (fun m => m.modDma ch (fun x => { x with prio := prio, since := m.grants }))
      (s.startDesc ch index).modMem (·.grantAll))

/-- What a granule's stop does to the channel (Table 13.10). -/
def State.stopGranule (s : State) (c i : Nat) (done : Nat) (cause : DescCause) (iova : Nat) (dst : Bool) : State :=
  match cause with
  | .pageFault => s.modMem (fun m => m.suspend c i cause done iova dst)
  | .permission => s.modMem (fun m => m.suspend c i cause done iova dst)
  | .revoked => s.modMem (fun m => m.suspend c i cause done iova dst)
  | .legal => (s.modMem (fun m => m.abortChannel c cause)).blocked 2
  | _ => s.modMem (fun m => m.abortChannel c cause)

/-- A descriptor reaches DONE, and the next of its chain starts (R371, R379). -/
def State.finishDesc (s : State) (c : Nat) (p : PoolDesc) : State :=
  let s := s.modMem (fun m =>
    let m := m.setDesc p.index .done .none_ p.desc.len
    let m := if bit p.desc.ctrl 4 then m.event else m
    m.modDma c (fun x => { x with running := false, current := none, since := m.grants }))
  let s := if p.desc.next = 0xFFFFFFFF then s else s.startDesc c p.desc.next
  s.modMem (·.grantAll)

/-- A running channel moves granules: at most `n`, and with `hit` only while the TLB holds what they need.
The descriptor's DONE follows. -/
def State.runDma (s : State) (failing : List Nat) (c : Nat) (hit : Bool) : Nat → State
  | 0 => s
  | n + 1 =>
    let x := s.mem.channel c
    match x.current.bind s.mem.poolAt with
    | none => s
    | some p =>
      if !x.running || p.state != .active || decide (p.desc.len ≤ p.done) then s
      else if hit && !s.mem.granuleCached p.desc p.done then s
      else
        let g := s.mem.moveGranule failing p.desc p.done
        let s := s.modMem (fun _ => g.1)
        if g.2.1 ≠ .none_ then s.stopGranule c p.index p.done g.2.1 g.2.2.1 g.2.2.2
        else
          let done := p.done + granuleLen p.desc p.done
          State.runDma (s.modMem (fun m => m.setDesc p.index .active .none_ done)) failing c hit n

/-- The granules that a channel still has to move. -/
def State.granulesLeft (s : State) (c : Nat) : Nat :=
  match (s.mem.channel c).current.bind s.mem.poolAt with
  | none => 0
  | some p => (p.desc.len - p.done + 63) / 64

/-- DMA_PAGE_WALK (R375): the channel moves up to the granule that needs a walk, and walks for it. -/
def execDmaPageWalk (dt : Ticks) (ch : Nat) (failing : List Nat) (s : State) : Host.Outcome State Fault Refusal :=
  let s := s.elapse dt
  .next (if !s.acAlive then s
    else ((s.runDma failing ch true (s.granulesLeft ch)).runDma failing ch false 1).modMem (·.grantAll))

/-- DMA_TRANSFER_END (R379): the rest of the descriptor, walks included. -/
def execDmaTransferEnd (dt : Ticks) (ch : Nat) (failing : List Nat) (s : State) : Host.Outcome State Fault Refusal :=
  let s := s.elapse dt
  .next (if !s.acAlive then s
    else
      let s := s.runDma failing ch false (s.granulesLeft ch)
      let x := s.mem.channel ch
      match x.current.bind s.mem.poolAt with
      | none => s.modMem (·.grantAll)
      | some p =>
        if x.running && decide (p.desc.len ≤ p.done) then s.finishDesc ch p else s.modMem (·.grantAll))

/-- The running channel that a ready one pre-empts: the lowest priority, and the longest running. -/
def MemSys.preempted (m : MemSys) : Option Nat :=
  let better (a : Option Nat) (i : Nat) : Option Nat :=
    let x := m.channel i
    if !x.running then a
    else
      match a with
      | none => some i
      | some j =>
        let y := m.channel j
        if x.prio < y.prio ∨ (x.prio = y.prio ∧ x.since < y.since) then some i else some j
  (upTo 32).foldl better none

/-- A channel gives its mover up, ready to resume from DONE. -/
def MemSys.yieldMover (m : MemSys) (c : Nat) : MemSys :=
  (m.modDma c (fun x => { x with running := false, since := m.grants })).grantAll

/-- DMA_PREEMPT (R369, R377): after `granules` more granules; a channel of equal priority takes its turn
only at a 4 KiB boundary. -/
def execDmaPreempt (dt : Ticks) (ch granules : Nat) (s : State) : Host.Outcome State Fault Refusal :=
  let s := s.elapse dt
  .next (match s.mem.nextReady with
    | none => s
    | some r =>
      if !s.acAlive || s.mem.runningCount < 2 || s.mem.preempted != some ch then s
      else
        let want := (s.mem.channel r).prio
        let s := s.runDma [] ch false granules
        let x := s.mem.channel ch
        let done := match x.current.bind s.mem.poolAt with
          | none => 1
          | some p => p.done
        if x.running && (decide (x.prio < want) || (x.prio == want && done % 4096 == 0 && done != 0)) then
          s.modMem (·.yieldMover ch)
        else s.modMem (·.grantAll))

/-- DMA_RESUME (R378). -/
def execDmaResume (dt : Ticks) (ch : Nat) (s : State) : Host.Outcome State Fault Refusal :=
  let s := s.elapse dt
  .next (if s.acAlive && (s.mem.channel ch).suspended then
      s.modMem (fun m => (m.modDma ch (fun x => { x with suspended := false, since := m.grants })).grantAll)
    else s)

/-- DMA_ABORT (R378): the cause of the suspension is kept. -/
def execDmaAbort (dt : Ticks) (ch : Nat) (s : State) : Host.Outcome State Fault Refusal :=
  let s := s.elapse dt
  let x := s.mem.channel ch
  .next (if !(s.acAlive && x.suspended) then s
    else
      match x.current.bind s.mem.poolAt with
      | none => s
      | some p => s.modMem (fun m => (m.abortChannel ch p.cause).grantAll))

/-- DMA_CHANNEL_DISABLE (R379): a running channel stops at a granule boundary, another at once. -/
def execDmaChannelDisable (dt : Ticks) (ch granules : Nat) (s : State) : Host.Outcome State Fault Refusal :=
  let s := s.elapse dt
  .next (if !s.acAlive then s
    else
      let s := if (s.mem.channel ch).running then s.runDma [] ch false granules else s
      let x := s.mem.channel ch
      match x.current.bind s.mem.poolAt with
      | none => s.modMem (·.grantAll)
      | some p => s.modMem (fun m => (m.abortChannel ch (if x.suspended then p.cause else .stopped)).grantAll))

/-- IOMMU_INVALIDATE (R374): one page, or the whole TLB, after Undercoat has changed its tables. -/
def execIommuInvalidate (dt : Ticks) (page : Option Nat) (tables : List (Nat × Word)) (s : State) :
    Host.Outcome State Fault Refusal :=
  let s := s.elapse dt
  .next (if !s.acAlive then s
    else s.modMem (fun m =>
      let m := m.writeTables tables
      match page with
      | none => { m with tlb := [] }
      | some p => { m with tlb := m.tlb.filter (fun e => e.page != p) }))

/-- A window is revoked, and no TLB entry inside it stays (R376). -/
def MemSys.revoke (m : MemSys) (w : Nat) : MemSys :=
  let m := { m with windows := m.windows.modify w (fun x => { x with revoked := true }) }
  { m with tlb := m.tlb.filter (fun e => !m.revokedPage (4096 * e.phys)) }

/-- Every window is released. -/
def MemSys.releaseWindows (m : MemSys) : MemSys :=
  { m with windows := m.windows.map (fun w => { w with revoked := false }) }

/-- GUARD_WINDOW_REVOKE (R376). -/
def execGuardWindowRevoke (dt : Ticks) (window : Nat) (s : State) : Host.Outcome State Fault Refusal :=
  let s := s.elapse dt
  .next (if s.legalRuns then s.modMem (·.revoke window) else s)

/-- GUARD_WINDOW_RELEASE (R376): not while a legal activation waits for its second. -/
def execGuardWindowRelease (dt : Ticks) (s : State) : Host.Outcome State Fault Refusal :=
  let s := s.elapse dt
  .next (if s.legalRuns && s.legal.activation.isNone then s.modMem (·.releaseWindows) else s)

end Sys2Proof.Machine
end

