-- ==== Sys2Proof/Machine/Scrim.lean ====
section
/-! DEFINITION. The links of the Scrim fabric: frames and their protection, bring-up, renewal and loss of
a link, and the transmit queues (R386 to R395, R401, R411 to R413). A frame that a port takes is the bytes from the
header to the CRC; one that it sends is the whole of Table 14.2. -/

namespace Sys2Proof.Machine

/-! ### Frame forms (Tables 14.2 to 14.4, 14.6, 14.8) -/

def typeHello : Nat := 1
def typeLsa : Nat := 2
def typeTimeReq : Nat := 3
def typeTimeResp : Nat := 4
def typeTunnelCmd : Nat := 5
def typeTunnelResp : Nat := 6
def typeBulk : Nat := 7
def typeReading : Nat := 8
def typeReadingAck : Nat := 9

/-! ### The line (R386, Table 14.1) -/

/-- The preamble and the SFD. -/
def scrimPreamble : Bytes := List.replicate 7 0x55 ++ [0xD5]

/-- The two half-bit levels of a bit, true high: 0 is sent as high then low, 1 as low then high. -/
def manchester (b : Bool) : List Bool := [!b, b]

/-- The levels of SCx_TXD while bytes leave, least significant bit first (PRESUMED, log 23). -/
def lineLevels (b : Bytes) : List Bool := b.flatMap (fun x => ((upTo 8).map x.getLsbD).flatMap manchester)

/-- Nanoseconds that `n` bytes take at 25 Mbit/s (Table 14.1). -/
def lineTime (n : Nat) : Nat := 320 * n

/-- The time from the first bit of a frame of `n` bytes until the next may begin. -/
def frameTime (n : Nat) : Nat := lineTime (8 + n + 12)

/-- The 16 bytes of the header. -/
def frameHeader (dst src type hop lseq length : Nat) (handshake : Bool) (epoch : Nat) : Bytes :=
  leBytes 2 dst ++ leBytes 2 src ++ [byte type, byte hop] ++ leBytes 2 lseq ++ leBytes 2 length ++
    [byte (b2n handshake), byte epoch] ++ zeros 4

def frameDst (b : Bytes) : Nat := field b 0 2
def frameSrc (b : Bytes) : Nat := field b 2 2
def frameType (b : Bytes) : Nat := field b 4 1
def frameHop (b : Bytes) : Nat := field b 5 1
def frameLseq (b : Bytes) : Nat := field b 6 2
def frameHandshake (b : Bytes) : Bool := bit (field b 10 1) 0
def frameEpoch (b : Bytes) : Nat := field b 11 1

/-- The payload as it stands on the line. -/
def framePayload (b : Bytes) : Bytes := slice b 16 (b.length - 36)

/-- A payload of a TYPE has its length, its reserved bytes 0 and no reserved value. -/
def payloadOk (type : Nat) (p : Bytes) : Bool :=
  match type with
  | 1 => p.length == 48 && rsv p 44 4 && field p 42 1 ≤ 2 && field p 43 1 ≤ 2 && field p 40 2 < 0x4000
  | 2 => p.length == 40 && field p 16 2 < 0x4000 && field p 18 1 ≤ 2 && field p 20 1 ≤ 3 &&
      field p 21 1 ≤ 2 && field p 23 1 ≤ 3 && rsv p (28 + 4 * field p 23 1) (12 - 4 * field p 23 1)
  | 3 => p.length == 8 && rsv p 2 6
  | 4 => p.length == 24 && field p 2 1 ≤ 2 && rsv p 3 5
  | 5 => 68 ≤ p.length
  | 6 => 68 ≤ p.length
  | 7 => 9 ≤ p.length
  | 8 => p.length == 200 && rsv p 4 4
  | 9 => p.length == 8 && rsv p 4 4
  | _ => false

/-- The reserved bits of the header are 0. -/
def scrimHeaderOk (b : Bytes) : Bool :=
  frameDst b < 0x4000 && frameSrc b < 0x4000 && frameHop b ≤ 16 && field b 10 1 ≤ 1 && rsv b 12 4

/-- A link-local TYPE (R388). -/
def linkLocal (type : Nat) : Bool := type ≤ 4

/-! ### Protection (R389 to R391) -/

/-- The link key of a port: key slot 0, 1 or 2. -/
def State.linkKey (s : State) (i : Nat) : Bytes :=
  match s.keySlot i with
  | none => []
  | some k => if k.type = 1 then k.key.take 16 else k.key

/-- The IV of a session frame; DIR is 0 for the end with the lower NODE_ID. -/
def sessionIv (lower : Bool) (xseq : Nat) : Bytes := byte (b2n (!lower)) :: zeros 3 ++ beBytes 8 xseq

/-- A handshake HELLO: the payload in clear, as additional data. -/
def handshakeFrame (key header payload : Bytes) : Bytes :=
  let b := header ++ payload ++ gcmTag key (slice payload 8 12) (header ++ payload) []
  b ++ leBytes 4 (crc32 b)

/-- A session frame: the payload encrypted. -/
def sessionFrame (key iv header payload : Bytes) : Bytes :=
  let c := gcmCrypt key iv payload
  let b := header ++ c ++ gcmTag key iv header c
  b ++ leBytes 4 (crc32 b)

/-- The session key (R391): first NONCE and NODE_ID those of the end with the lower NODE_ID. -/
def sessionKey (lk : Bytes) (own peer : Nat) (ownNonce peerNonce : Bytes) : Bytes :=
  let low := own < peer
  let m := lk ++ (if low then ownNonce ++ peerNonce else peerNonce ++ ownNonce) ++
    (if low then leBytes 8 own ++ leBytes 8 peer else leBytes 8 peer ++ leBytes 8 own)
  (sha256 m).take lk.length

/-- X of R390, or none outside the window; `next` is the last accepted number plus 1. -/
def extendSeq (next lseq : Nat) : Option Nat :=
  let d := (lseq + 65536 - next % 65536) % 65536
  if d < 32768 then some (next + d) else none

/-- What a port makes of a frame: its text where it is good. -/
inductive Verdict where
  | early | crcErr | authErr | dropped
  | good (payload : Bytes)
  deriving DecidableEq, Repr

/-- The text of a session frame under a key, where it authenticates. -/
def openSession (key : Bytes) (peerLower : Bool) (next : Nat) (b : Bytes) : Option Bytes :=
  match extendSeq next (frameLseq b) with
  | none => none
  | some x =>
    let iv := sessionIv peerLower x
    let c := framePayload b
    if gcmTag key iv (b.take 16) c = slice b (b.length - 20) 16 then some (gcmCrypt key iv c) else none

/-- A frame that authenticates is dropped where a reserved bit or TYPE shows (R387). -/
def admitText (b text : Bytes) : Verdict :=
  if scrimHeaderOk b && payloadOk (frameType b) text then .good text else .dropped

/-- A session frame in UP: under the session of its epoch, or the one before (R391). -/
def Port.judgeSession (p : Port) (b : Bytes) : Verdict :=
  match p.session with
  | none => .authErr
  | some x =>
    let lower := p.peerId < nodeId
    let try_ (key : Bytes) (next : Nat) : Verdict :=
      match openSession key lower next b with
      | none => .authErr
      | some t => admitText b t
    if frameEpoch b = x.epoch then try_ x.key x.rxSeq
    else
      match x.old with
      | none => .authErr
      | some (k, next, e) => if frameEpoch b = e then try_ k next else .authErr

/-- A handshake HELLO under the link key. -/
def State.handshakeOk (s : State) (i : Nat) (b : Bytes) : Bool :=
  let t := framePayload b
  frameType b == typeHello && (s.keySlot i).isSome &&
    gcmTag (s.linkKey i) (slice t 8 12) (b.take 16 ++ t) [] == slice b (b.length - 20) 16

/-- The whole bytes of a frame, its LENGTH and its CRC (R387). -/
def frameWhole (b : Bytes) : Bool :=
  36 ≤ b.length && field b 8 2 ≤ 1024 && b.length == 36 + field b 8 2 &&
    crc32 (b.take (b.length - 4)) == leNat (b.drop (b.length - 4))

/-- What port `i` makes of a frame, in the state that the port is in (R387, R389, R390, Table 14.5); before READY
it is discarded and counted (R60). -/
def State.judge (s : State) (i : Nat) (b : Bytes) : Verdict :=
  let p := s.port i
  if !s.ready then .early
  else if p.state ≠ 3 ∧ p.state ≠ 4 then .early
  else if !frameWhole b then .crcErr
  else if p.state = 3 then
    if frameType b ≠ typeHello then .early
    else if !frameHandshake b || !s.handshakeOk i b then .authErr
    else if field (framePayload b) 0 8 = nodeId then .dropped
    else admitText b (framePayload b)
  else if frameHandshake b then (if s.handshakeOk i b then .dropped else .authErr)
  else p.judgeSession b

/-- An authenticated frame is counted, and moves the receive count of its session (R390, R391, R395). -/
def State.takeFrame (s : State) (i : Nat) (b : Bytes) : State :=
  let now := s.mono
  s.modPort i (fun p =>
    let p := { p with rx := satAdd 0xFFFFFFFF p.rx 1 }
    match p.session with
    | none => p
    | some x =>
      if frameHandshake b then p
      else
        let x := if frameEpoch b = x.epoch then
            { x with rxSeq := (extendSeq x.rxSeq (frameLseq b)).getD x.rxSeq + 1, old := none }
          else
            let old := x.old.map (fun o => (o.1, (extendSeq o.2.1 (frameLseq b)).getD o.2.1 + 1, o.2.2))
            { x with old := old }
        { p with session := some x, lastAuth := now, authFails := 0 })

/-- One frame counted in DROPPED of a port (Table 12.8, R525). -/
def State.countDropped (s : State) (i : Nat) : State :=
  (s.modPort i (fun p => { p with dropped := satAdd 0xFFFFFFFF p.dropped 1 })).bump 25

/-! ### The state of the fabric's links -/

/-- SCx_DE: low while the port is DISABLED or QUIET, and before READY (R60, Table 14.1); the line idles high. -/
def State.driverEnabled (s : State) (i : Nat) : Bool := s.ready && 2 ≤ (s.port i).state

def State.linkUp (s : State) (i : Nat) : Bool := (s.port i).state == 4

def State.links (s : State) : List Nat := (upTo 3).filter s.linkUp

/-- The source address of a frame of the node's own (R398). -/
def State.ownSource (s : State) : Nat := if s.fabric.addrState = 2 then s.fabric.addr else 0

/-- A link-local frame enters a port's queue. -/
def State.sendLocal (s : State) (i type : Nat) (payload : Bytes) : State :=
  let peer := (s.port i).peerAddr
  let dst := if type = typeHello ∨ type = typeLsa ∨ peer = 0 then 0x3FFF else peer
  s.enqueueOn i { type := type, dst := dst, hop := 1, src := s.ownSource, payload := payload }

/-- The NONCE that a HELLO carries now (Table 14.6). -/
def Port.helloNonce (p : Port) : Bytes :=
  if p.state = 3 then p.nonce
  else
    match p.session with
    | none => zeros 16
    | some x =>
      match x.renewal with
      | none => zeros 16
      | some r => r.1

/-- The HELLO payload of a port. -/
def State.helloPayload (s : State) (i : Nat) : Bytes :=
  let p := s.port i
  leBytes 8 nodeId ++ padTo 16 p.helloNonce ++ padTo 16 p.peerNonce ++ leBytes 2 s.fabric.addr ++
    [byte s.fabric.addrState, byte i] ++ zeros 4

/-! ### Routes (R400) -/

/-- A route that goes before another to the same destination. -/
def State.betterRoute (s : State) (a b : Route) : Bool :=
  let key (r : Route) : List Nat := [r.cost, r.hops, (s.port r.port).peerAddr, r.port]
  decide (key a < key b)

/-- A route put into the table, destinations rising, where it is the best so far. -/
def State.putRoute (s : State) (r : Route) : List Route → List Route
  | [] => [r]
  | x :: xs =>
    if x.dest < r.dest then x :: State.putRoute s r xs
    else if x.dest = r.dest then (if s.betterRoute r x then r :: xs else x :: xs)
    else r :: x :: xs

/-- The routes over the links of this node. -/
def State.firstHops (s : State) : List Route :=
  (s.links.filter (fun i => (s.port i).peerAddr != 0 && (s.port i).peerAddr != s.fabric.addr)).map (fun i =>
    ⟨(s.port i).peerAddr, i, 1, s.pnum (0x5010 + i)⟩)

/-- The routes that one more hop reaches from a route's destination. -/
def State.extendRoute (s : State) (r : Route) : List Route :=
  if 16 ≤ r.hops then []
  else
    (s.fabric.database.filter (fun e => e.addr == r.dest && e.nodeId != nodeId)).flatMap (fun e =>
      (e.links.filter (fun l => l.1 != 0 && l.1 != s.fabric.addr)).map (fun l =>
        ⟨l.1, r.port, r.hops + 1, r.cost + l.2.1⟩))

/-- `n` rounds over the database. -/
def State.routeRounds (s : State) : Nat → List Route → List Route
  | 0, t => t
  | n + 1, t =>
    let more := t.flatMap s.extendRoute
    State.routeRounds s n (more.foldl (fun t r => s.putRoute r t) t)

/-- The routing table computed from the database and the node's own links. -/
def State.computeRoutes (s : State) : State :=
  let t := s.firstHops.foldl (fun t r => s.putRoute r t) []
  s.modFabric (fun f => { f with routes := State.routeRounds s 15 t, routesDue := false })

/-! ### Roles and election (R33, R405, R406) -/

def roleStandalone : Nat := 0
def roleWorker : Nat := 1
def roleManager : Nat := 2
def roleStandby : Nat := 3

/-- PRIORITY and address of every eligible node, this one included. -/
def State.eligible (s : State) : List (Nat × Nat) :=
  let own := s.pnum 0x5000
  let reach (a : Nat) : Bool := s.fabric.routes.any (fun r => r.dest == a)
  (if 1 ≤ own ∧ s.fabric.addrState = 2 then [(own, s.fabric.addr)] else []) ++
    (s.fabric.database.filter (fun e => e.nodeId != nodeId && 1 ≤ e.priority && e.addrState == 2 &&
      reach e.addr)).map (fun e => (e.priority, e.addr))

/-- The best of the eligible nodes: highest PRIORITY, then lowest address; 0 where there is none. -/
def bestNode (l : List (Nat × Nat)) : Nat :=
  let better (a b : Nat × Nat) : Nat × Nat := if b.1 > a.1 ∨ (b.1 = a.1 ∧ b.2 < a.2) then b else a
  match l with
  | [] => 0
  | x :: xs => (xs.foldl better x).2

/-- What the election gives now: manager, standby manager and this node's role. -/
def State.electResult (s : State) : Nat × Nat × Nat :=
  if s.links.isEmpty then (0, 0, roleStandalone)
  else
    let e := s.eligible
    let m := bestNode e
    let b := bestNode (e.filter (fun x => x.2 != m))
    let own := if s.fabric.addrState = 2 then s.fabric.addr else 0
    (m, b, if own ≠ 0 ∧ m = own then roleManager else if own ≠ 0 ∧ b = own then roleStandby else roleWorker)

/-- The final response of a tunnelled command (R407). -/
def State.endTunnel (s : State) (t : Tunnel) (status : Nat) (result : Bytes) : State :=
  let s := s.modFabric (fun f => { f with
    tunnels := f.tunnels.erase t, pieces := f.pieces.filter (fun p => !(p.id == t.id && p.src == t.dest)) })
  match t.call with
  | none => s
  | some c =>
    match s.accepted c 0x0707 with
    | none => s
    | some f => s.respond f status result

/-- Every tunnel that this node opened ends (R347, R398, R406). -/
def State.abortTunnels (s : State) : State := s.fabric.tunnels.foldl (fun s t => s.endTunnel t stAborted []) s

/-- The upstream of a worker: its next hop to the manager; a change restarts the lock count (R401, R402). -/
def State.followUpstream (s : State) : State :=
  let up := if s.fabric.role = roleWorker then s.fabric.routeFor s.fabric.manager else none
  if up = s.fabric.upstream then s
  else (s.modFabric (fun f => { f with upstream := up })).modNtu (fun u => { u with lockCount := 0 })

/-- A result of the election comes into force (R83, R405). -/
def State.applyRole (s : State) (r : Nat × Nat × Nat) : State :=
  let was := s.fabric.role
  let s := s.modFabric (fun f => { f with manager := r.1, standby := r.2.1, role := r.2.2, electing := none })
  let s := if was = r.2.2 then s
    else
      let s := if was = roleManager then s.abortTunnels else s
      s.restartDiscipline.announce 0x0780 ([byte r.2.2, 0] ++ leBytes 2 s.ownSource ++ leBytes 2 r.1)
  s.followUpstream

/-- The topology or the database changed: a role that follows the links at once, and a changed result of
the election that begins to stand (R33, R406). -/
def State.noteElection (s : State) : State :=
  let now := s.mono
  let f := s.fabric
  if s.links.isEmpty then (if f.role = roleStandalone then s else s.applyRole (0, 0, roleStandalone))
  else
    let s := if f.role = roleStandalone then s.applyRole (0, 0, roleWorker) else s
    if !f.elected then s
    else
      let r := s.electResult
      let f := s.fabric
      let since := match f.electing with
        | none => now
        | some (m, b, x, t) => if (m, b, x) = r then t else now
      s.modFabric (fun f => { f with
        electing := if r = (f.manager, f.standby, f.role) then none else some (r.1, r.2.1, r.2.2, since) })

/-- Another NODE_ID advertises this node's address. -/
def State.addrConflict (s : State) : Bool :=
  s.fabric.addrState != 0 && s.fabric.database.any (fun e => e.nodeId != nodeId && e.addr == s.fabric.addr &&
    e.addrState != 0)

/-- How long the candidate has stood with a link UP and no conflict (Table 14.7). -/
def State.watchAddress (s : State) : State :=
  let now := s.mono
  let ok := s.fabric.addrState == 1 && !s.links.isEmpty && !s.addrConflict
  s.modFabric (fun f => { f with
    tentativeSince := if ok then some (f.tentativeSince.getD now) else none })

/-- What follows a change of the topology as this node sees it. -/
def State.topologyChanged (s : State) : State :=
  ((s.modFabric (fun f => { f with routesDue := true })).watchAddress).noteElection.followUpstream

/-! ### Bring-up and loss (R394, R395, R413) -/

/-- A port goes UP: the session begins (R391, R394). -/
def State.raiseLink (s : State) (i : Nat) : State :=
  let now := s.mono
  let p := s.port i
  let key := sessionKey (s.linkKey i) nodeId p.peerId p.nonce p.peerNonce
  let x : LinkSession := { key := key, epoch := 0, since := now, txSeq := 0, rxSeq := 0, renewal := none,
                           renewalAt := now, old := none }
  let s := s.modPort i (fun p => { p with
    state := 4, at_ := now, session := some x, lastAuth := now, authFails := 0, pendingReq := none
    pendingResp := none, exchanges := [] })
  (s.announce 0x0781 ([byte i, 1] ++ leBytes 2 p.peerAddr)).topologyChanged

/-- A queue is emptied: routed frames take their new route, the rest is dropped (R413). -/
def State.rerouteQueue (s : State) (i : Nat) : State :=
  let q := (s.port i).queue
  let s := s.modPort i (fun p => { p with queue := [] })
  q.foldl (fun s f =>
    match if linkLocal f.type then none else s.fabric.routeFor f.dst with
    | none => s.countDropped i
    | some j => s.enqueueOn j f) s

/-- The tunnels that arrive on a port lose their manager's link: their responses are discarded, and the
route's crypto contexts end (R312, R276). -/
def State.loseTunnels (s : State) (i : Nat) : State :=
  let hit := s.fabric.served.any (fun t => t.2.2 == i) || s.fabric.upstream == some i
  let lost := s.fabric.served.filter (fun t => t.2.2 == i)
  let s := s.orphanRoute .fabric (fun tag => lost.any (fun t => t.1 == tag))
  let s := s.modFabric (fun f => { f with served := f.served.filter (fun t => t.2.2 != i) })
  if hit then s.abortJobs .fabric else s

/-- A port leaves UP, or is disabled in any state (R393, R395, R413). -/
def State.dropLink (s : State) (i : Nat) (disable : Bool) : State :=
  let now := s.mono
  let up := s.linkUp i
  let peer := (s.port i).peerAddr
  let s := if up then s.announce 0x0781 ([byte i, 0] ++ leBytes 2 peer) else s
  let s := s.modPort i (fun p => { p with
    state := 0, at_ := now, session := none, pendingReq := none, pendingResp := none, exchanges := []
    peerAddr := 0 })
  let s := s.computeRoutes.rerouteQueue i
  let s := if up then s.loseTunnels i else s
  let s := if disable then s else s.enterSeeking i
  if up then s.topologyChanged else s

/-! ### Rows of the links -/

/-- QUIET_END (R393, R406): the election's time counts from the first of them. -/
def execQuietEnd (dt : Ticks) (port : Nat) (s : State) : Host.Outcome State Fault Refusal :=
  let s := s.elapse dt
  let now := s.mono
  .next (if (s.port port).state = 1 ∧ s.since (s.port port).at_ (200 * milli) = true then
      (s.enterSeeking port).modFabric (fun f => { f with quietEnd := some (f.quietEnd.getD now) })
    else s)

/-- HELLO_TIMER (R393): the first HELLO at any time after SEEKING is entered, the jitter being random; none before
READY (R60). -/
def execHelloTimer (dt : Ticks) (port : Nat) (s : State) : Host.Outcome State Fault Refusal :=
  let s := s.elapse dt
  let now := s.mono
  let p := s.port port
  let due := s.ready && (s.since p.helloAt (250 * milli) || (p.state == 3 && p.helloAt < p.at_))
  .next (if (p.state = 3 ∨ p.state = 4) ∧ due = true then
      (s.sendLocal port typeHello (s.helloPayload port)).modPort port (fun p => { p with helloAt := now })
    else s)

/-- A good frame of a TYPE that has reached port `i`. -/
def State.received (s : State) (i type : Nat) (b : Bytes) : Option Bytes :=
  match s.judge i b with
  | .good t => if frameType b = type then some t else none
  | _ => none

/-- A HELLO in SEEKING (R394). -/
def State.seekHello (s : State) (i : Nat) (t : Bytes) : State :=
  let now := s.mono
  let p := s.port i
  let id := field t 0 8
  let follows := 0 < p.hellos && id == p.peerId && now ≤ p.lastHello + 375 * milli
  let count := if follows then p.hellos + 1 else 1
  let s := s.modPort i (fun p => { p with
    peerId := id, peerNonce := slice t 8 16, peerAddr := field t 40 2, hellos := min 3 count, lastHello := now })
  if 3 ≤ count ∧ slice t 24 16 = p.nonce then s.raiseLink i else s

/-- A session moves to a new key: KEY_EPOCH one higher, XSEQ at 0 (R391). -/
def State.renewSession (s : State) (i : Nat) (own peer : Bytes) : State :=
  let now := s.mono
  let lk := s.linkKey i
  s.modPort i (fun p =>
    match p.session with
    | none => p
    | some x =>
      let key := sessionKey lk nodeId p.peerId own peer
      { p with session := some { key := key, epoch := (x.epoch + 1) % 256, since := now, txSeq := 0, rxSeq := 0,
                                 renewal := none, renewalAt := now, old := some (x.key, x.rxSeq, x.epoch) } })

/-- A NONCE in a session HELLO of the current epoch: the higher end answers it with its own, the lower
end has its echo and takes the new key (R391). -/
def State.renewalHello (s : State) (i : Nat) (t : Bytes) (current : Bool) : State :=
  let p := s.port i
  let nonce := slice t 8 16
  match p.session with
  | none => s
  | some x =>
    if allZero nonce || !current then s
    else
      let s := s.modPort i (fun p => { p with peerNonce := nonce })
      if nodeId < p.peerId then
        match x.renewal with
        | none => s
        | some (own, _) => if slice t 24 16 = own then s.renewSession i own nonce else s
      else
        let answered := match x.renewal with
          | some (_, some n) => n == nonce
          | _ => false
        if answered || !s.crypto.seeded then s
        else
          let r := s.drbgBytes 16
          r.2.modPort i (fun p => { p with session := some { x with renewal := some (r.1, some nonce) } })

/-- A HELLO in UP. -/
def State.upHello (s : State) (i : Nat) (t : Bytes) (current : Bool) : State :=
  let p := s.port i
  if field t 0 8 ≠ p.peerId then s.dropLink i false
  else
    let s := s.renewalHello i t current
    let a := field t 40 2
    if a = p.peerAddr then s else (s.modPort i (fun p => { p with peerAddr := a })).topologyChanged

/-- HELLO_RECEIVE (R394, R395, R391). -/
def execHelloReceive (dt : Ticks) (port : Nat) (frame : Bytes) (s : State) : Host.Outcome State Fault Refusal :=
  let s := s.elapse dt
  .next (match s.received port typeHello frame with
    | none => s
    | some t =>
      let current := match (s.port port).session with
        | none => false
        | some x => x.epoch == frameEpoch frame
      if (s.port port).state = 3 then (s.takeFrame port frame).seekHello port t
      else (s.takeFrame port frame).upHello port t current)

/-- LINK_SILENCE_TIMEOUT (R395). -/
def execLinkSilenceTimeout (dt : Ticks) (port : Nat) (s : State) : Host.Outcome State Fault Refusal :=
  let s := s.elapse dt
  .next (if s.linkUp port && s.since (s.port port).lastAuth second then s.dropLink port false else s)

/-- SESSION_RENEWAL (R391): begun by the lower NODE_ID, and tried again every 60 s. -/
def execSessionRenewal (dt : Ticks) (port : Nat) (s : State) : Host.Outcome State Fault Refusal :=
  let s := s.elapse dt
  let now := s.mono
  let p := s.port port
  .next (match p.session with
    | none => s
    | some x =>
      let due := s.since x.since (3600 * second) && (x.renewalAt == x.since || s.since x.renewalAt (60 * second))
      if !(s.linkUp port && decide (nodeId < p.peerId) && due) then s
      else if !s.crypto.seeded then
        s.modPort port (fun p => { p with session := some { x with renewalAt := now } })
      else
        let r := s.drbgBytes 16
        r.2.modPort port (fun p => { p with
          session := some { x with renewal := some (r.1, none), renewalAt := now } }))

/-- SESSION_DEADLINE (R391). -/
def execSessionDeadline (dt : Ticks) (port : Nat) (s : State) : Host.Outcome State Fault Refusal :=
  let s := s.elapse dt
  .next (match (s.port port).session with
    | none => s
    | some x => if s.linkUp port && s.since x.since (7200 * second) then s.dropLink port false else s)

/-- A frame that fails authentication in UP: the link goes down at the sixteenth in succession (R395). -/
def State.authFailed (s : State) (i : Nat) : State :=
  let s := s.modPort i (fun p => { p with
    authErr := satAdd 0xFFFFFFFF p.authErr 1, authFails := min 16 (p.authFails + 1), hellos := 0 })
  if s.linkUp i && decide (16 ≤ (s.port i).authFails) then s.dropLink i false else s

/-- FRAME_REJECT (R387, R389, R390, R393, R415): a frame that fails restarts the count of HELLOs (R394). -/
def execFrameReject (dt : Ticks) (port : Nat) (frame : Bytes) (s : State) : Host.Outcome State Fault Refusal :=
  let s := s.elapse dt
  .next (if 3 ≤ port then s
    else
      match s.judge port frame with
      | .good _ => s
      | .early => s.modPort port (fun p => { p with early := satAdd 0xFFFFFFFF p.early 1 })
      | .crcErr => s.modPort port (fun p => { p with crcErr := satAdd 0xFFFFFFFF p.crcErr 1, hellos := 0 })
      | .authErr => s.authFailed port
      | .dropped => ((s.takeFrame port frame).modPort port (fun p => { p with hellos := 0 })).countDropped port)

/-! ### Sending (R401, R411) -/

/-- The queued frame that a port sends next: the first of the highest class. -/
def Port.nextFrame (p : Port) : Option TxFrame :=
  let q := p.queue.filter (fun f => p.state == 4 || f.type == typeHello)
  let best := (q.map (fun f => frameClass f.type)).foldl min 5
  q.find? (fun f => frameClass f.type == best)

/-- The bytes of a frame as a port protects it now; the session's XSEQ moves on (R389, R390). -/
def State.sendFrame (s : State) (i : Nat) (f : TxFrame) : State :=
  let now := s.mono
  let p := s.port i
  let n := f.payload.length
  let b := match p.session with
    | none => handshakeFrame (s.linkKey i) (frameHeader f.dst f.src f.type f.hop 0 n true 0) f.payload
    | some x => sessionFrame x.key (sessionIv (decide (nodeId < p.peerId)) x.txSeq)
        (frameHeader f.dst f.src f.type f.hop x.txSeq n false x.epoch) f.payload
  let line := now + frameTime f.size
  (s.modPort i (fun p => { p with
    tx := satAdd 0xFFFFFFFF p.tx 1, lineUntil := line
    session := p.session.map (fun x => { x with txSeq := x.txSeq + 1 }) })).emit (.scrim i (scrimPreamble ++ b))

/-- What the sending of a frame does beside: a TIME_REQ is stamped, and the answer to a renewal puts the
higher end on the new key (R391, R401). -/
def State.afterSend (s : State) (i : Nat) (f : TxFrame) : State :=
  let t := s.nodeTime
  if f.type = typeTimeReq then s.modPort i (fun p => { p with pendingReq := some (field f.payload 0 2, t) })
  else if f.type = typeHello then
    match (s.port i).session with
    | none => s
    | some x =>
      match x.renewal with
      | some (own, some peer) => s.renewSession i own peer
      | _ => s
  else s

/-- The scheduled TIME_RESP leaves room for a frame before it (R401). -/
def State.beforeResponse (s : State) (i : Nat) (f : TxFrame) : Bool :=
  match (s.port i).pendingResp with
  | none => true
  | some (_, _, t3) => decide (s.nodeTime + frameTime f.size ≤ t3)

/-- PORT_TRANSMIT (R411): a HELLO says what holds as it leaves; before READY the drivers are at high impedance
(R60). -/
def execPortTransmit (dt : Ticks) (port : Nat) (s : State) : Host.Outcome State Fault Refusal :=
  let s := s.elapse dt
  let p := s.port port
  .next (match p.nextFrame with
    | none => s
    | some f =>
      let g := if f.type = typeHello then
          { f with payload := s.helloPayload port, src := s.ownSource } else f
      if s.ready = true ∧ (p.state = 3 ∨ p.state = 4) ∧ p.lineUntil ≤ s.mono ∧ s.beforeResponse port g = true then
        ((s.modPort port (fun p => { p with queue := p.queue.erase f })).sendFrame port g).afterSend port g
      else s)

/-! ### Time exchange (R401, R402) -/

/-- TIME_REQ_TIMER (R401). -/
def execTimeReqTimer (dt : Ticks) (port : Nat) (s : State) : Host.Outcome State Fault Refusal :=
  let s := s.elapse dt
  let now := s.mono
  let p := s.port port
  .next (if s.linkUp port && s.since p.reqAt (125 * milli) then
      (s.sendLocal port typeTimeReq (leBytes 2 p.reqId ++ zeros 6)).modPort port (fun p => { p with
        reqId := (p.reqId + 1) % 65536, reqAt := now })
    else s)

/-- TIME_REQ_RECEIVE (R401): t3 lies 40,000 ns after t2, or as many times that as the frame under way
needs. -/
def execTimeReqReceive (dt : Ticks) (port : Nat) (frame : Bytes) (s : State) : Host.Outcome State Fault Refusal :=
  let s := s.elapse dt
  .next (match s.received port typeTimeReq frame with
    | none => s
    | some t =>
      let t2 := s.nodeTime
      let busy := (s.port port).lineUntil - s.mono
      let t3 := t2 + 40000 * max 1 ((busy + 39999) / 40000)
      (s.takeFrame port frame).modPort port (fun p => { p with pendingResp := some (field t 0 2, t2, t3) }))

/-- TIME_RESP_SEND (R401). -/
def execTimeRespSend (dt : Ticks) (port : Nat) (s : State) : Host.Outcome State Fault Refusal :=
  let s := s.elapse dt
  let p := s.port port
  .next (match p.pendingResp with
    | none => s
    | some (id, t2, t3) =>
      if s.linkUp port && decide (t3 ≤ s.nodeTime) && decide (p.lineUntil ≤ s.mono) then
        let body := leBytes 2 id ++ [byte s.ntu.status.code] ++ zeros 5 ++ leBytes 8 t2 ++ leBytes 8 t3
        let dst := if p.peerAddr = 0 then 0x3FFF else p.peerAddr
        (s.modPort port (fun p => { p with pendingResp := none })).sendFrame port
          { type := typeTimeResp, dst := dst, hop := 1, src := s.ownSource, payload := body }
      else s)

/-- TIME_RESP_RECEIVE (R401): a response later than 10 ms is discarded. -/
def execTimeRespReceive (dt : Ticks) (port : Nat) (frame : Bytes) (s : State) : Host.Outcome State Fault Refusal :=
  let s := s.elapse dt
  .next (match s.received port typeTimeResp frame with
    | none => s
    | some t =>
      let s := s.takeFrame port frame
      let t4 := s.nodeTime
      match (s.port port).pendingReq with
      | none => s
      | some (id, t1) =>
        if id ≠ field t 0 2 ∨ t1 + 10 * milli < t4 then s
        else
          let t2 : Int := field t 8 8
          let t3 : Int := field t 16 8
          let offset := ((t1 - t2) + (t4 - t3)) / 2
          let delay := ((t4 - t1) - (t3 - t2)) / 2
          s.modPort port (fun p => { p with
            pendingReq := none
            exchanges := p.exchanges ++ [(offset, delay, t4, field t 2 1 == 2)] }))

/-- An integer put into a rising list. -/
def insertInt (x : Int) : List Int → List Int
  | [] => [x]
  | y :: ys => if x ≤ y then x :: y :: ys else y :: insertInt x ys

/-- The median; of an even count, the mean of the middle two. -/
def medianInt (l : List Int) : Int :=
  let m := l.foldr insertInt []
  let n := m.length
  if n % 2 = 1 then m.getD (n / 2) 0 else (m.getD (n / 2 - 1) 0 + m.getD (n / 2) 0) / 2

/-- An offset that moves the rate and not the lock (R402). -/
def State.offsetUnlocked (s : State) (o : Int) (t : Nat) : State :=
  let n := s.ntu.lockCount
  let before := s.ntu.status
  let s := (s.modNtu (fun u => { u with lockCount := 0 })).disciplineOffset o t
  if s.ntu.status = before then s.modNtu (fun u => { u with lockCount := n }) else s

/-- The discipline offset of one second's exchanges (R402): the median offset, T_MEAS, and whether the
upstream was FINE throughout. -/
def secondOffset (e : List (Int × Int × Nat × Bool)) : Option (Int × Nat × Bool) :=
  let mid := medianInt (e.map (·.2.1))
  let used := e.filter (fun x => decide ((x.2.1 - mid).natAbs ≤ 50))
  if used.isEmpty then none
  else some (medianInt (used.map (·.1)), (used.map (·.2.2.1)).foldl max 0, used.all (·.2.2.2))

/-- FABRIC_DISCIPLINE_SECOND (R402). -/
def execFabricDisciplineSecond (dt : Ticks) (s : State) : Host.Outcome State Fault Refusal :=
  let s := s.elapse dt
  let e := match s.fabric.upstream with
    | none => []
    | some i => (s.port i).exchanges
  let s := s.modFabric (fun f => { f with ports := f.ports.map (fun p => { p with exchanges := [] }) })
  .next (if s.fabric.role ≠ roleWorker then s
    else
      match secondOffset e with
      | none => s
      | some (o, t, fine) =>
        let s := s.modFabric (fun f => { f with offset := o })
        if fine then s.disciplineOffset o t else s.offsetUnlocked o t)

end Sys2Proof.Machine
end

