-- ==== Sys2Proof/Machine/Fabric.lean ====
section
/-! DEFINITION. The Scrim fabric above its links: addresses, link-state routing, election, tunnels, the
distribution set, reading collection, and the fabric commands (R329, R388, R396 to R400, R405 to R409,
R417). -/

namespace Sys2Proof.Machine

/-! ### Link-state advertisements (R399, Table 14.8) -/

/-- The links of this node as its LSA lists them. -/
def State.ownLinks (s : State) : List (Nat × Nat × Nat) :=
  s.links.map (fun i => ((s.port i).peerAddr, s.pnum (0x5010 + i), i))

/-- CAL_ID of the stored passive calendar; 0 if none. -/
def State.ownCalId (s : State) : Nat :=
  if s.legal.passive.state = 0 then 0 else field s.legal.passive.bytes 4 4

/-- This node's own entry as it stands now, under a sequence number. -/
def State.ownLsa (s : State) (n : Nat) : Lsa :=
  { nodeId := nodeId, seqNo := n, addr := s.fabric.addr, addrState := s.fabric.addrState
    priority := s.pnum 0x5000, role := s.fabric.role, status := s.ntu.status.code, lock := s.pnum 0x7000
    calId := s.ownCalId, links := s.ownLinks, at_ := s.mono }

def Lsa.toBytes (e : Lsa) : Bytes :=
  leBytes 8 e.nodeId ++ leBytes 8 e.seqNo ++ leBytes 2 e.addr ++
    [byte e.addrState, byte e.priority, byte e.role, byte e.status, byte e.lock, byte e.links.length] ++
    leBytes 4 e.calId ++ padTo 12 (e.links.flatMap (fun l => leBytes 2 l.1 ++ [byte l.2.1, byte l.2.2]))

/-- The entry that a payload spells, received at a time. -/
def Lsa.ofBytes (now : Nat) (t : Bytes) : Lsa :=
  { nodeId := field t 0 8, seqNo := field t 8 8, addr := field t 16 2, addrState := field t 18 1
    priority := field t 19 1, role := field t 20 1, status := field t 21 1, lock := field t 22 1
    calId := field t 24 4
    links := (upTo (field t 23 1)).map (fun k =>
      (field t (28 + 4 * k) 2 % 0x4000, field t (30 + 4 * k) 1, field t (31 + 4 * k) 1))
    at_ := now }

/-- An entry put into the database, NODE_IDs rising. -/
def putLsa (e : Lsa) : List Lsa → List Lsa
  | [] => [e]
  | x :: xs =>
    if x.nodeId < e.nodeId then x :: putLsa e xs
    else if x.nodeId = e.nodeId then e :: xs
    else e :: x :: xs

def State.lsaOf (s : State) (id : Nat) : Option Lsa := s.fabric.database.find? (fun e => e.nodeId == id)

/-- LSA_SEQ, and its write, rotated over 64 words (R355, Table 14.8). -/
def Fabric.lsaSeq (f : Fabric) : Nat := f.lsaSeqWords.read 0
def Fabric.putLsaSeq (f : Fabric) (n : Nat) : Fabric := { f with lsaSeqWords := f.lsaSeqWords.write 64 0 n }

/-- An LSA is originated: LSA_SEQ first, then the frame on every UP port. -/
def State.originate (s : State) : State :=
  let e := s.ownLsa ((s.fabric.lsaSeq + 1) % 2 ^ 64)
  let now := s.mono
  let s := s.modFabric (fun f => { f.putLsaSeq e.seqNo with lsaAt := now, database := putLsa e f.database })
  s.links.foldl (fun s i => s.sendLocal i typeLsa e.toBytes) s

/-- The content of the node's LSA has changed since it was last originated. -/
def State.lsaChanged (s : State) : Bool :=
  match s.lsaOf nodeId with
  | none => true
  | some e => s.ownLsa e.seqNo != { e with at_ := s.mono }

/-- LSA_REFRESH (R399): at a change, at most once per 250 ms, and otherwise every 10 s. -/
def execLsaRefresh (dt : Ticks) (s : State) : Host.Outcome State Fault Refusal :=
  let s := s.elapse dt
  let t := s.fabric.lsaAt
  .next (if !s.links.isEmpty && (s.since t (10 * second) || (s.lsaChanged && s.since t (250 * milli))) then
      s.originate
    else s)

/-! ### Addresses (R396 to R398, Table 14.7) -/

/-- The next candidate that the database does not show; none after 64. -/
def State.nextCandidate (s : State) : Option Nat :=
  (upTo 64).find? (fun k => s.fabric.candidate ≤ k && candidateAddr k != s.fabric.addr &&
    !s.fabric.database.any (fun e => e.nodeId != nodeId && e.addr == candidateAddr k && e.addrState != 0))

/-- A command of a tunnel that still waits is answered ABORTED. -/
def State.abortWaiting (s : State) (w : Waiting) : State :=
  (s.modHawk (fun h => { h with waiting := h.waiting.erase w })).sendResponse
    ((Entry.ofBytes w.entry).record w.call [] w.peer) true stAborted []

/-- Every tunnel that the node serves or owns completes ABORTED (R398). -/
def State.abortServed (s : State) : State :=
  let mine := s.hawk.inFlight.filter (fun f => f.call.origin == .fabric)
  let s := mine.foldl (fun s f => s.respond f stAborted []) (s.abortJobs .fabric)
  let s := (s.hawk.waiting.filter (fun w => w.call.origin == .fabric)).foldl State.abortWaiting s
  s.abortTunnels

/-- The node with the lower NODE_ID gives its address up; its LSA leaves at once, or as soon as 250 ms have passed since
the last one (R397, R399). -/
def State.giveUpAddress (s : State) : State :=
  let s := if s.fabric.addrState = 2 then s.abortServed else s
  let s := match s.nextCandidate with
    | none => (s.modFabric (fun f => { f with addr := 0, addrState := 0, candidate := 64 })).bump 17
    | some k => s.modFabric (fun f => { f with addr := candidateAddr k, addrState := 1, candidate := k + 1 })
  let s := (s.modFabric (fun f => { f with tentativeSince := none })).topologyChanged
  if s.since s.fabric.lsaAt (250 * milli) then s.originate else s

/-- A conflict with a higher NODE_ID (R397). -/
def State.mustYield (s : State) : Bool :=
  s.fabric.addrState != 0 && s.fabric.database.any (fun e => nodeId < e.nodeId && e.addr == s.fabric.addr &&
    e.addrState != 0)

/-- LSA_RECEIVE (R399, R397): an older or equal one is dropped uncounted. -/
def State.takeLsa (s : State) (i : Nat) (t : Bytes) : State :=
  let e := Lsa.ofBytes s.mono t
  let newer := match s.lsaOf e.nodeId with
    | none => true
    | some x => decide (x.seqNo < e.seqNo)
  if !newer then s
  else if (s.lsaOf e.nodeId).isNone && decide (16381 ≤ s.fabric.database.length) then s.bump 18
  else
    let s := s.modFabric (fun f => { f with database := putLsa e f.database })
    let s := (s.links.filter (· != i)).foldl (fun s j => s.sendLocal j typeLsa t) s
    let s := s.topologyChanged
    if s.mustYield then s.giveUpAddress else s

def execLsaReceive (dt : Ticks) (port : Nat) (frame : Bytes) (s : State) : Host.Outcome State Fault Refusal :=
  let s := s.elapse dt
  .next (match s.received port typeLsa frame with
    | none => s
    | some t => (s.takeFrame port frame).takeLsa port t)

/-- LSA_AGE_OUT (R399). -/
def execLsaAgeOut (dt : Ticks) (node : Nat) (s : State) : Host.Outcome State Fault Refusal :=
  let s := s.elapse dt
  .next (match s.lsaOf node with
    | none => s
    | some e =>
      if s.since e.at_ (35 * second) then
        (s.modFabric (fun f => { f with database := f.database.erase e })).topologyChanged
      else s)

/-- ROUTE_COMPUTE (R400). -/
def execRouteCompute (dt : Ticks) (s : State) : Host.Outcome State Fault Refusal :=
  let s := s.elapse dt
  .next (if s.fabric.routesDue then s.computeRoutes.noteElection.followUpstream else s)

/-- ADDRESS_ASSIGN (R397). -/
def execAddressAssign (dt : Ticks) (s : State) : Host.Outcome State Fault Refusal :=
  let s := s.elapse dt
  .next (if s.fabric.addrState = 1 ∧ s.sinceOpt s.fabric.tentativeSince second = true then
      (s.modFabric (fun f => { f with
        addrState := 2, storedAddr := some f.addr, tentativeSince := none })).topologyChanged
    else s)

/-- ELECTION_EVALUATE (R406). -/
def execElectionEvaluate (dt : Ticks) (s : State) : Host.Outcome State Fault Refusal :=
  let s := s.elapse dt
  let f := s.fabric
  .next (if !f.elected then
      (if s.sinceOpt f.quietEnd (1500 * milli) then
        (s.modFabric (fun f => { f with elected := true })).applyRole s.electResult
      else s)
    else
      let s := s.noteElection
      match s.fabric.electing with
      | none => s
      | some (m, b, r, t) => if s.since t (500 * milli) then s.applyRole (m, b, r) else s)

/-! ### Frames for this node, and the others (R388, R398, R417) -/

/-- A routed frame is for this node: it accepts one only while its address is ASSIGNED. -/
def State.forMe (s : State) (b : Bytes) : Bool :=
  let f := s.fabric
  f.addrState == 2 && frameSrc b != f.addr &&
    (frameDst b == f.addr || (frameDst b == 0x3FFE && f.role == roleManager))

/-- A good routed frame of a TYPE that is for this node. -/
def State.receivedForMe (s : State) (i type : Nat) (b : Bytes) : Option Bytes :=
  if s.forMe b then s.received i type b else none

/-- ROUTED_FRAME_FORWARD (R388, R400, R417): R417 is taken to speak of routed frames alone (DEDUCED, log 23). -/
def execRoutedFrameForward (dt : Ticks) (port : Nat) (frame : Bytes) (s : State) :
    Host.Outcome State Fault Refusal :=
  let s := s.elapse dt
  let type := frameType frame
  .next (match s.received port type frame with
    | none => s
    | some t =>
      if linkLocal type || s.forMe frame then s
      else
        let s := s.takeFrame port frame
        let looped := s.fabric.addrState = 2 ∧ frameSrc frame = s.fabric.addr
        if looped ∨ frameHop frame ≤ 1 then s.countDropped port
        else
          match s.fabric.routeFor (frameDst frame) with
          | none => s.countDropped port
          | some j => s.enqueueOn j { type := type, dst := frameDst frame, hop := frameHop frame - 1,
                                      src := frameSrc frame, payload := t })

/-! ### Tunnels (R407) -/

def State.piecesOf (s : State) (id src : Nat) : Bytes :=
  match s.fabric.pieces.find? (fun p => p.id == id && p.src == src) with
  | none => []
  | some p => p.data

def State.dropPieces (s : State) (id src : Nat) : State :=
  s.modFabric (fun f => { f with pieces := f.pieces.filter (fun p => !(p.id == id && p.src == src)) })

/-- The node that a frame comes from is its manager (R407). -/
def State.fromManager (s : State) (b : Bytes) : Bool :=
  s.fabric.manager != 0 && frameSrc b == s.fabric.manager

/-- The data of a closed tunnel: all pieces and the rest; none where it differs from the entry's LENGTH. -/
def State.assembled (s : State) (id src : Nat) (t : Bytes) : Option Bytes :=
  let e := Entry.ofBytes (slice t 4 64)
  let data := s.piecesOf id src ++ t.drop 68
  if data.length = (if e.bulk then e.length else 0) then some data else none

/-- TUNNEL_CMD_RECEIVE (R407, R303, R306): the command waits for its turn (R307). -/
def execTunnelCmdReceive (dt : Ticks) (port : Nat) (frame : Bytes) (s : State) : Host.Outcome State Fault Refusal :=
  let s := s.elapse dt
  .next (match s.receivedForMe port typeTunnelCmd frame with
    | none => s
    | some t =>
      let s := s.takeFrame port frame
      let id := field t 0 4
      let src := frameSrc frame
      if !s.fromManager frame then s.countDropped port
      else
        let whole := s.assembled id src t
        let s := s.dropPieces id src
        match whole with
        | none => s.countDropped port
        | some data =>
          let s := s.modFabric (fun f => { f with served := f.served ++ [(id, src, port)] })
          s.modHawk (fun h => { h with waiting := h.waiting ++ [⟨⟨.fabric, id⟩, slice t 4 64, data, src⟩] }))

/-- The tunnel of this manager that a frame from a worker belongs to. -/
def State.tunnelOf (s : State) (id src : Nat) : Option Tunnel :=
  s.fabric.tunnels.find? (fun t => t.id == id && t.dest == src)

/-- A piece joins those of its tunnel, which it continues. -/
def Fabric.addPiece (f : Fabric) (p : TunnelPieces) : Fabric :=
  { f with pieces := f.pieces.filter (fun q => !(q.id == p.id && q.src == p.src)) ++ [p] }

/-- TUNNEL_BULK_RECEIVE (R407). -/
def execTunnelBulkReceive (dt : Ticks) (port : Nat) (frame : Bytes) (s : State) :
    Host.Outcome State Fault Refusal :=
  let s := s.elapse dt
  .next (match s.receivedForMe port typeBulk frame with
    | none => s
    | some t =>
      let s := s.takeFrame port frame
      let now := s.mono
      let id := field t 0 4
      let src := frameSrc frame
      let held := s.piecesOf id src
      let mine := (s.tunnelOf id src).isSome
      let room := mine || !held.isEmpty || s.fabric.pieces.length < 4
      if !(mine || s.fromManager frame) then s.countDropped port
      else if !room || field t 4 4 != held.length || 4096 < held.length + (t.length - 8) then
        (s.dropPieces id src).countDropped port
      else s.modFabric (·.addPiece ⟨id, src, port, held ++ t.drop 8, now⟩))

/-- TUNNEL_PIECE_TIMEOUT (R407). -/
def execTunnelPieceTimeout (dt : Ticks) (tunnel : Nat) (s : State) : Host.Outcome State Fault Refusal :=
  let s := s.elapse dt
  let late := s.fabric.pieces.filter (fun p => p.id == tunnel && s.since p.at_ (2 * second))
  .next (late.foldl (fun s p => (s.dropPieces p.id p.src).countDropped p.port) s)

/-- How a distribution item ended at a worker: counted, and not sent again unless the status is one after
which it is repeated (R408, R525). -/
def State.itemDone (s : State) (dest item status : Nat) : State :=
  if [stBusy, stNotReady, stTimeout, stAborted].contains status then s
  else
    (s.bump (if status = stDone then 14 else 15)).modFabric (fun f => { f with
      refused := f.refused ++ [(dest, item)] })

/-- TUNNEL_RESP_RECEIVE (R407, R408): only the final response completes the tunnel. -/
def execTunnelRespReceive (dt : Ticks) (port : Nat) (frame : Bytes) (s : State) :
    Host.Outcome State Fault Refusal :=
  let s := s.elapse dt
  .next (match s.receivedForMe port typeTunnelResp frame with
    | none => s
    | some t =>
      let s := s.takeFrame port frame
      let id := field t 0 4
      match s.tunnelOf id (frameSrc frame) with
      | none => s.countDropped port
      | some tunnel =>
        let entry := slice t 4 64
        let final := bit (field entry 4 1) 3
        match s.assembled id tunnel.dest t with
        | none => (s.dropPieces id tunnel.dest).countDropped port
        | some data =>
          if !final then s
          else
            let s := s.endTunnel tunnel stDone (entry ++ data)
            if tunnel.call.isSome then s else s.itemDone tunnel.dest tunnel.item (field entry 6 1))

/-- TUNNEL_RESPONSE_TIMEOUT (R329). -/
def execTunnelResponseTimeout (dt : Ticks) (tunnel : Nat) (s : State) : Host.Outcome State Fault Refusal :=
  let s := s.elapse dt
  .next (match s.fabric.tunnels.find? (fun t => t.id == tunnel && s.since t.at_ (10 * second)) with
    | none => s
    | some t => s.endTunnel t stTimeout [])

/-- A tunnel opens: its data in BULK frames, then the TUNNEL_CMD. -/
def State.openTunnel (s : State) (dest : Nat) (call : Option Call) (item : Nat) (entry data : Bytes) : State :=
  let id := s.fabric.nextTunnel
  let now := s.mono
  (s.modFabric (fun f => { f with
    nextTunnel := (id + 1) % 4294967296, tunnels := f.tunnels ++ [⟨id, dest, call, item, now⟩] })).sendTunnel
      typeTunnelCmd dest id entry 8 0 data

def State.tunnelsTo (s : State) (dest : Nat) : Nat := (s.fabric.tunnels.filter (fun t => t.dest == dest)).length

/-! ### Distribution (R408) -/

/-- The entry of a distribution item. -/
def itemEntry (opcode n : Nat) : Bytes := entryBytes opcode 0 flagBulk 0 0 n 0 (leBytes 4 0 ++ leBytes 4 n)

/-- An item goes to a worker that reports another one, where no tunnel with it is on its way. -/
def State.sendItem (s : State) (dest item opcode : Nat) (payload : Bytes) : State :=
  if s.fabric.refused.contains (dest, item) || 4 ≤ s.tunnelsTo dest ||
      s.fabric.tunnels.any (fun t => t.dest == dest && t.call.isNone && t.item == item) then s
  else s.openTunnel dest none item (itemEntry opcode payload.length) payload

/-- The items for one node of the database. -/
def State.distributeTo (s : State) (e : Lsa) : State :=
  if e.nodeId = nodeId ∨ e.addrState ≠ 2 then s
  else
    let s := match s.fabric.distCalendar with
      | none => s
      | some p => if field p 4 4 = e.calId then s else s.sendItem e.addr 1 0x0504 p
    match s.fabric.distLock with
    | none => s
    | some p => if field p 0 1 = e.lock then s else s.sendItem e.addr 2 0x0507 p

/-- DISTRIBUTION_REPEAT (R408). -/
def execDistributionRepeat (dt : Ticks) (s : State) : Host.Outcome State Fault Refusal :=
  let s := s.elapse dt
  let now := s.mono
  .next (if s.fabric.role = roleManager ∧ s.since s.fabric.distAt (10 * second) = true then
      s.fabric.database.foldl State.distributeTo (s.modFabric (fun f => { f with distAt := now }))
    else s)

/-! ### Reading collection (R409) -/

/-- A READING frame leaves for the manager, where there is one. -/
def State.sendReading (s : State) (rid : Nat) (reading : Bytes) : State :=
  if s.fabric.manager = 0 then s
  else s.sendRouted typeReading 0x3FFE (leBytes 4 rid ++ zeros 4 ++ reading)

/-- A reading of the LC's own schedule is forwarded, or counted where the queue is full. -/
def State.forwardReading (s : State) (reading : Bytes) : State :=
  let now := s.mono
  let f := s.fabric
  if s.pnum 0x5002 ≠ 1 ∨ f.role ≠ roleWorker then s
  else if 1024 ≤ f.forward.length then s.bump 16
  else
    (s.modFabric (fun f => { f with
      forward := f.forward ++ [(f.nextRid, reading, now)]
      nextRid := (f.nextRid + 1) % 4294967296 })).sendReading f.nextRid reading

/-- READING_RECEIVE (R409): posted first, acknowledged after; one acknowledged before is acknowledged
again. -/
def execReadingReceive (dt : Ticks) (port : Nat) (frame : Bytes) (s : State) : Host.Outcome State Fault Refusal :=
  let s := s.elapse dt
  .next (match s.receivedForMe port typeReading frame with
    | none => s
    | some t =>
      let s := s.takeFrame port frame
      let src := frameSrc frame
      let rid := field t 0 4
      let ack := leBytes 4 rid ++ zeros 4
      let item := leBytes 2 src ++ zeros 6 ++ t.drop 8
      if s.fabric.role ≠ roleManager then s.countDropped port
      else if s.fabric.acked.contains (src, rid) then s.sendRouted typeReadingAck src ack
      else if !s.bulkRoom item.length then s
      else
        let from_ := (s.fabric.acked.filter (fun a => a.1 == src)).take 63
        let rest := s.fabric.acked.filter (fun a => a.1 != src)
        ((s.postBulk 0x0782 item).modFabric (fun f => { f with
          acked := (src, rid) :: from_ ++ rest })).sendRouted typeReadingAck src ack)

/-- READING_ACK_RECEIVE (R409). -/
def execReadingAckReceive (dt : Ticks) (port : Nat) (frame : Bytes) (s : State) :
    Host.Outcome State Fault Refusal :=
  let s := s.elapse dt
  .next (match s.receivedForMe port typeReadingAck frame with
    | none => s
    | some t => (s.takeFrame port frame).modFabric (fun f => { f with
        forward := f.forward.filter (fun x => x.1 != field t 0 4) }))

/-- READING_RESEND (R409): as long as a manager exists. -/
def execReadingResend (dt : Ticks) (rid : Nat) (s : State) : Host.Outcome State Fault Refusal :=
  let s := s.elapse dt
  let now := s.mono
  .next (match s.fabric.forward.find? (fun x => x.1 == rid && s.since x.2.2 (2 * second)) with
    | none => s
    | some x =>
      if s.fabric.manager = 0 ∨ s.fabric.role ≠ roleWorker then s
      else
        (s.modFabric (fun f => { f with
          forward := f.forward.map (fun y => if y.1 = rid then (y.1, y.2.1, now) else y) })).sendReading
            rid x.2.1)

/-! ### Commands (Table 12.8, R329) -/

/-- Hops to an address; 0 for this node. -/
def State.hopsTo (s : State) (a : Nat) : Option Nat :=
  if a = s.fabric.addr then some 0 else (s.fabric.routes.find? (fun r => r.dest == a)).map (·.hops)

/-- FABRIC_STATUS (R329). -/
def execFabricStatus (dt : Ticks) (c : Call) (p : Bytes) (s : State) : Host.Outcome State Fault Refusal :=
  let s := s.elapse dt
  let f := s.fabric
  let others := (f.database.filter (fun e => e.nodeId != nodeId)).length
  .next (s.onCommand c 0x0701 p (p.length == 0) 20 (fun r s =>
    s.reply r stDone ([byte f.role, 0] ++ leBytes 2 s.ownSource ++ leBytes 2 f.manager ++ leBytes 2 f.standby ++
      [byte (flagBits ((upTo 3).map s.linkUp))] ++ zeros 3 ++ leBytes 2 (others + 1) ++
      [byte (if f.manager = 0 then 0 else (s.hopsTo f.manager).getD 0), 0] ++
      sBytes 4 (if f.role = roleManager then 0 else f.offset))))

/-- PORT_STATUS (R393). -/
def execPortStatus (dt : Ticks) (c : Call) (p : Bytes) (s : State) : Host.Outcome State Fault Refusal :=
  let s := s.elapse dt
  let i := field p 0 1
  .next (s.onCommand c 0x0702 p (p.length == 1 && decide (i ≤ 2)) 32 (fun r s =>
    let q := s.port i
    s.reply r stDone ([byte q.state, 0] ++ leBytes 2 (if q.state = 4 then q.peerAddr else 0) ++ zeros 4 ++
      [q.rx, q.tx, q.crcErr, q.authErr, q.early, q.dropped].flatMap (leBytes 4))))

/-- A port follows FAB_PORTS (R393, R413). -/
def State.setPort (s : State) (i : Nat) (on : Bool) : State :=
  let now := s.mono
  let st := (s.port i).state
  if on then
    (if st = 0 then s.modPort i (fun p => { p with state := 1, at_ := now }) else s)
  else if st = 0 then s
  else s.dropLink i true

/-- Every port follows FAB_PORTS; none is on during a MAIN_CLOCK fault (R521). -/
def State.applyPorts (s : State) : State :=
  let mask := if s.boot.mainClockFault then 0 else s.pnum 0x5001
  (upTo 3).foldl (fun s i => s.setPort i (bit mask i)) s

/-- PORT_ENABLE (R329). -/
def execPortEnable (dt : Ticks) (c : Call) (p : Bytes) (s : State) : Host.Outcome State Fault Refusal :=
  let s := s.elapse dt
  let i := field p 0 1
  let on := field p 1 1
  let own := s.fabric.served.any (fun t => t.1 == c.tag && t.2.2 == i)
  .next (s.onCommand c 0x0703 p (p.length == 2 && decide (i ≤ 2) && decide (on ≤ 1)) 0 (fun r s =>
    if c.origin = .fabric ∧ on = 0 ∧ own = true then s.reply r stDeniedState
    else
      let mask := s.pnum 0x5001
      let was := b2n (bit mask i)
      let s := s.putParam 0x5001 (leBytes 1 (mask + on * 2 ^ i - was * 2 ^ i))
      s.applyPorts.reply r stDone))

/-- `n` elements from `first`. -/
def page {α : Type} (l : List α) (first n : Nat) : List α := (l.drop first).take n

/-- One NODE_LIST entry; the HOPS of a node without a route are not stated (log 9). -/
def listNode (x : State × Bytes) (e : Lsa) : State × Bytes :=
  let (s, out) := x
  let r : Nat × State := match if e.nodeId = nodeId then some 0 else s.hopsTo e.addr with
    | some h => (h, s)
    | none => ((s.drawFree 8).1.toNat, (s.drawFree 8).2)
  (r.2, out ++ leBytes 2 e.addr ++ [byte e.role, byte r.1] ++ zeros 4 ++ leBytes 8 e.nodeId)

/-- NODE_LIST (R399). -/
def execNodeList (dt : Ticks) (c : Call) (p : Bytes) (s : State) : Host.Outcome State Fault Refusal :=
  let s := s.elapse dt
  let n := field p 2 2
  .next (s.onCommand c 0x0704 p (p.length == 4 && decide (1 ≤ n ∧ n ≤ 255)) (8 + 16 * n) (fun r s =>
    let l := page s.fabric.database (field p 0 2) n
    let x := l.foldl listNode (s, [])
    x.1.reply r stDone (leBytes 2 l.length ++ zeros 6 ++ x.2)))

/-- ROUTE_TABLE (R400). -/
def execRouteTable (dt : Ticks) (c : Call) (p : Bytes) (s : State) : Host.Outcome State Fault Refusal :=
  let s := s.elapse dt
  let n := field p 2 2
  .next (s.onCommand c 0x0705 p (p.length == 4 && decide (1 ≤ n ∧ n ≤ 255)) (8 + 8 * n) (fun r s =>
    let l := page s.fabric.routes (field p 0 2) n
    s.reply r stDone (leBytes 2 l.length ++ zeros 6 ++ l.flatMap (fun x =>
      leBytes 2 x.dest ++ [byte x.port, byte x.hops] ++ leBytes 4 x.cost))))

/-- INSTALL_LINK_KEY (R329, R392). -/
def execInstallLinkKey (dt : Ticks) (c : Call) (p : Bytes) (s : State) : Host.Outcome State Fault Refusal :=
  let s := s.elapse dt
  let i := field p 0 1
  let n := field p 1 1
  let ok := p.length == 36 && rsv p 2 2 && decide (i ≤ 2) && (n == 32 || (n == 16 && rsv p 20 16))
  .next (s.onCommand c 0x0706 p ok 0 (fun r s =>
    let s := s.putKey i (some ⟨if n = 16 then 1 else 2, slice p 4 n⟩)
    let st := (s.port i).state
    (if st = 4 then s.dropLink i false else if st = 2 then s.enterSeeking i else s).reply r stDone))

/-- TUNNEL_SEND (R329, R407). -/
def execTunnelSend (dt : Ticks) (c : Call) (p : Bytes) (s : State) : Host.Outcome State Fault Refusal :=
  let s := s.elapse dt
  let dest := field p 0 2
  let e := Entry.ofBytes (slice p 4 64)
  let data := p.drop 68
  let ok := 68 ≤ p.length && rsv p 2 2 && decide (1 ≤ dest ∧ dest ≤ 0x3FFD) && decide (data.length ≤ 4096) &&
    data.length == (if e.bulk then e.length else 0) && (!e.bulk || decide (e.bufCap ≤ 4096))
  let room := 64 + if e.bulk then e.bufCap else 0
  .next (s.onCommand c 0x0707 p ok room (fun r s =>
    if s.fabric.role ≠ roleManager then s.reply r stDeniedState
    else if 4 ≤ s.tunnelsTo dest then s.reply r stNoResource
    else (s.accept r).openTunnel dest (some c) 0 (slice p 4 64) data))

/-- The FE starts again under Undercoat's hand: every link and the role end first (R414, R503). -/
def State.feRestart (s : State) : State :=
  let s := s.links.foldl (fun s i => s.announce 0x0781 ([byte i, 0] ++ leBytes 2 (s.port i).peerAddr)) s
  (if s.fabric.role = roleStandalone then s else s.applyRole (0, 0, roleStandalone)).feStart

end Sys2Proof.Machine
end

