-- ==== Sys2Proof/Machine/Update.lean ====
section
/-! DEFINITION. Field update: staging, activation, trial and confirmation (R330, R490 to R512). Components
are numbered as in Image: their codes less 2. -/

namespace Sys2Proof.Machine

def BankState.code : BankState → Nat
  | .empty => 0
  | .staged => 1
  | .valid => 2
  | .trial => 3
  | .confirmed => 4
  | .rejected => 5

/-- COMPONENT as a command carries it (R330). -/
def componentOk (n : Nat) : Bool := 2 ≤ n && n ≤ 5

/-- Seconds left of a trial (R504). -/
def State.trialLeft (s : State) (k : Nat) : Nat :=
  match (s.component k).trialSince with
  | none => 0
  | some t => if s.since t (300 * second) then 0 else (t + 300 * second - s.mono + second - 1) / second

/-- UPDATE_STATUS (R504). -/
def execUpdateStatus (dt : Ticks) (c : Call) (p : Bytes) (s : State) : Host.Outcome State Fault Refusal :=
  let s := s.elapse dt
  .next (s.onCommand c 0x0801 p (p.length == 0) 36 (fun f s =>
    let block (k : Nat) : Bytes :=
      let x := s.component k
      [byte (b2n x.activeB), byte x.bankA.state.code, byte x.bankB.state.code, 0] ++ leBytes 2 (s.trialLeft k) ++
        zeros 2
    s.reply f stDone ((upTo 4).flatMap block ++ leBytes 2 s.ports.vbat ++ [byte (s.pnum 0x7000), 0])))

def State.inTrial (s : State) (k : Nat) : Bool := (s.component k).active.state == .trial

/-- An activation is in progress (R507). -/
def State.activating (s : State) : Bool := s.update.activation.isSome

/-! ### Staging (R493 to R496) -/

/-- The sectors that an image of `size` staged bytes needs. -/
def stagingSectors (k : Nat) (b : Bool) (size : Nat) : List Nat :=
  (upTo (1 + (size - 256 + 65535) / 65536)).map (bankOffset k b / 65536 + ·)

/-- Table 18.2, from check 2 on. -/
def State.stageStatus (s : State) (k size : Nat) : Nat :=
  let b := !(s.component k).activeB
  firstRefusal [
    need (s.update.staging.isNone && !s.inTrial k && !s.activating) stDeniedState,
    need (s.pnum 0x7000 != 1) stDeniedLock,
    need (!s.ports.vbatLow) stLowBattery,
    need (decide (size - 256 ≤ maxPayload k) &&
      (stagingSectors k b size).all (fun n => !(s.flash.word n).bad)) stNoResource]

/-- STAGE_BEGIN (R494): DONE follows once the sectors are blank. -/
def execStageBegin (dt : Ticks) (c : Call) (p : Bytes) (s : State) : Host.Outcome State Fault Refusal :=
  let s := s.elapse dt
  let n := field p 0 1
  let size := field p 4 4
  let ok := p.length == 12 && rsv p 1 3 && componentOk n && decide (257 ≤ size)
  .next (s.onCommand c 0x0802 p ok 1 (fun f s =>
    let k := n - 2
    let st := s.stageStatus k size
    if st ≠ stDone then s.reply f st
    else
      let b := !(s.component k).activeB
      let sectors := stagingSectors k b size
      let g : Staging := { component := k, bankB := b, size := size, crc := field p 8 4, staged := 0
                           call := some c, sectorsLeft := sectors }
      let s := (s.accept f).modComponent k (fun x => x.putBank b ⟨.staged, false, false⟩)
      let todo := sectors.filter (fun n => !s.flash.jobs.any (fun j => j.erases n))
      todo.foldl (fun s n => s.pushJob (.erase n 0 0)) (s.modUpdate (fun u => { u with staging := some g }))))

/-- The flash offset of byte `i` of the staged stream (R495). -/
def stagedOffset (k : Nat) (b : Bool) (i : Nat) : Nat :=
  bankOffset k b + if i < 256 then i else 0x10000 + i - 256

/-- Bytes programmed at a flash offset. -/
def State.programBytes (s : State) (off : Nat) (bs : Bytes) : State :=
  if bs.isEmpty then s
  else
    let first := off / 65536
    let last := (off + bs.length - 1) / 65536
    let s := ((upTo (last - first + 1)).map (first + ·)).foldl State.beginProgram s
    s.modMem (fun m => { m with cells := Memory.writeBytes m.cells (flashBase + off) bs })

/-- The next bytes of the staged stream take their places. -/
def State.programStaged (s : State) (g : Staging) (bs : Bytes) : State :=
  let head := 256 - g.staged
  let s := s.programBytes (stagedOffset g.component g.bankB g.staged)
    (if g.staged < 256 then bs.take head else bs)
  let s := if g.staged < 256 then s.programBytes (stagedOffset g.component g.bankB 256) (bs.drop head) else s
  s.modUpdate (fun u => { u with staging := some { g with staged := g.staged + bs.length } })

/-- The xSPI controller refuses a program inside a revoked guard window (R376). -/
def State.windowShut (s : State) (k : Nat) (b : Bool) : Bool := s.mem.revokedPage (flashBase + bankOffset k b)

/-- STAGE_DATA (R495). -/
def execStageData (dt : Ticks) (c : Call) (p : Bytes) (s : State) : Host.Outcome State Fault Refusal :=
  let s := s.elapse dt
  let n := p.length - 8
  .next (s.onCommand c 0x0803 p (9 ≤ p.length && p.length ≤ 4096 && rsv p 4 4) 0 (fun f s =>
    match s.update.staging with
    | none => s.reply f stDeniedState
    | some g =>
      if field p 0 4 ≠ g.staged ∨ g.size < g.staged + n then s.reply f stBadParam
      else if s.windowShut g.component g.bankB then s.reply f stDeniedState
      else (s.programStaged g (p.drop 8)).reply f stDone))

/-- The staged stream as the flash holds it. -/
def State.stagedBytes (s : State) (g : Staging) : Bytes :=
  s.flashBytes (bankOffset g.component g.bankB) 256 ++
    s.flashBytes (bankOffset g.component g.bankB + 0x10000) (g.size - 256)

/-- The open staging of a component. -/
def State.stagingOf (s : State) (n : Nat) : Option Staging :=
  s.update.staging.filter (fun g => g.component + 2 == n)

/-- A staging closes, its bank in a state (R496). -/
def State.closeStaging (s : State) (g : Staging) (st : BankState) (complete : Bool) : State :=
  (s.dropStagingJobs.modUpdate (fun u => { u with staging := none })).modComponent g.component (fun x =>
    x.putBank g.bankB { x.bank g.bankB with state := st, complete := complete })

/-- STAGE_END (R330, R496). -/
def execStageEnd (dt : Ticks) (c : Call) (p : Bytes) (s : State) : Host.Outcome State Fault Refusal :=
  let s := s.elapse dt
  let n := field p 0 1
  .next (s.onCommand c 0x0804 p (p.length == 1 && componentOk n) 0 (fun f s =>
    match s.stagingOf n with
    | none => s.reply f stDeniedState
    | some g =>
      if g.staged = g.size ∧ crc32 (s.stagedBytes g) = g.crc then (s.closeStaging g .staged true).reply f stDone
      else (s.closeStaging g .empty false).reply f stIntegrity))

/-- STAGE_ABORT (R496). -/
def execStageAbort (dt : Ticks) (c : Call) (p : Bytes) (s : State) : Host.Outcome State Fault Refusal :=
  let s := s.elapse dt
  let n := field p 0 1
  .next (s.onCommand c 0x0805 p (p.length == 1 && componentOk n) 0 (fun f s =>
    match s.stagingOf n with
    | none => s.reply f stDeniedState
    | some g => (s.closeStaging g .empty false).reply f stDone))

/-- READ_MANIFEST (R490). -/
def execReadManifest (dt : Ticks) (c : Call) (p : Bytes) (s : State) : Host.Outcome State Fault Refusal :=
  let s := s.elapse dt
  let n := field p 0 1
  let b := field p 1 1 == 1
  .next (s.onCommand c 0x0807 p (p.length == 2 && componentOk n && decide (field p 1 1 ≤ 1)) 256 (fun f s =>
    if ((s.component (n - 2)).bank b).state = .empty then s.reply f stDeniedState
    else s.reply f stDone (s.manifest (n - 2) b)))

/-! ### The checks of ACTIVATE (Tables 18.3, 18.4) -/

/-- The published order (R499). -/
def publishedOrder : List Nat := [1, 0, 3, 2]

/-- A component earlier in the order has a VALID bank of the same RELEASE. -/
def State.outOfOrder (s : State) (k : Nat) : Bool :=
  let release := releaseOf (s.manifest k (!(s.component k).activeB))
  (publishedOrder.takeWhile (· != k)).any (fun j =>
    (s.component j).inactive.state == .valid && releaseOf (s.manifest j (!(s.component j).activeB)) == release)

/-- Checks 2 to 4. -/
def State.activateStatus (s : State) (k : Nat) : Nat :=
  let x := (s.component k).inactive.state
  firstRefusal [
    need ((x == .valid || x == .confirmed) && s.manifestVerifies k (!(s.component k).activeB)) stDeniedState,
    need (!(upTo 4).any s.inTrial && !s.activating) stDeniedState,
    need (!s.outOfOrder k) stDeniedState]

/-- Check 8: a WASTE metering point moves. -/
def State.anyMoving (s : State) : Bool :=
  !(pointsWhere (fun m => s.mpType m == typeWaste && (!s.weighStable m || s.txnOpen m))).isEmpty

/-- The interfaces on which a component meets each running partner (Table 18.4): interface, partner. -/
def partners (k : Nat) : List (Nat × Nat) :=
  match k with
  | 0 => [(0, 1), (1, 2)]
  | 1 => [(0, 0)]
  | 2 => [(1, 0), (2, 3)]
  | _ => [(2, 2)]

/-- A running manifest is trusted: its digest is the one measured; an image of manufacture is (log 6). -/
def State.trusts (s : State) (j : Nat) (m : Bytes) : Bool :=
  (s.component j).active.factory || slice m 32 32 == s.slot (j + 2)

/-- Check 9, with the manifests given for the partners. -/
def State.newMeets (s : State) (k : Nat) (new : Bytes) (running : Nat → Bytes) : Bool :=
  let fresh := (s.component k).inactive.factory
  (partners k).all (fun x =>
    s.trusts x.2 (running x.2) &&
      ((fresh && (s.component x.2).active.factory) || meets x.1 new (running x.2)))

/-- Checks 5 to 8, in their order. -/
def State.activateGates (s : State) (k : Nat) : List Nat :=
  [need (2 ≤ k || s.legal.sealOpen) stDeniedSeal, need (s.pnum 0x7000 != 1) stDeniedLock,
   need (!s.ports.vbatLow) stLowBattery, need (!s.anyMoving) stMoving]

/-! ### Activation of a non-legal component (R501, R503) -/

/-- The new bank becomes active, in TRIAL (R500). -/
def State.startTrial (s : State) (k : Nat) : State :=
  let now := s.mono
  s.modComponent k (fun c =>
    { (c.setState (!c.activeB) .trial) with activeB := !c.activeB, trialSince := some now, trialCommits := 0 })

/-- HW.RESET_CAUSE ACTIVATE. -/
def State.causeActivate (s : State) : State := s.modBoot (fun b => { b with cause := b.cause ||| causeBit 8 })

/-- Undercoat: an AC-side restart; the new Undercoat answers (R503). -/
def State.activateApp (s : State) (f : InFlight) (env : StartEnv) : State :=
  let now := s.mono
  let b := !(s.component 2).activeB
  let a : Activation := { component := 2, bankB := b, origin := f.call.origin, tag := f.call.tag, since := now
                          switched := true }
  let s := (s.modUpdate (fun u => { u with activation := some a })).acknowledge f
  let s := ((s.startTrial 2).causeActivate.modBoot (fun b => { b with stage := 6 })).acDown
  (s.announceUpdate 2 1 b).appReload false env

/-- The FE microcode: its ports enter QUIET as the FE starts, which ends the pause at once. -/
def State.activateFe (s : State) (f : InFlight) : State :=
  let b := !(s.component 3).activeB
  let up := s.links
  let s := s.acknowledge f
  let s := ((s.startTrial 3).causeActivate).modUpdate (fun u => { u with portsBefore := up })
  let s := (State.selectImage false (s.announceUpdate 3 1 b) 3).feRestart
  let done := (s.component 3).activeB == b && s.inTrial 3
  s.reply f (if done then stDone else stAborted) (leBytes 4 0)

/-! ### Activation of a legal component (R502) -/

/-- The payload of ACTIVATE_LEGAL. -/
def State.legalRequest (s : State) (k : Nat) : Bytes :=
  let b := !(s.component k).activeB
  let second := if k = 0 then s.running 2 else zeros 256
  [byte (k + 2), byte (b2n b), 0, 0] ++ s.manifest k b ++ s.running (1 - k) ++ second

/-- The request goes to the gate and the activation is in progress. -/
def State.activateLegal (s : State) (f : InFlight) (k : Nat) : State :=
  let now := s.mono
  let taken := !s.boot.lcHalt && decide (s.gate.requests.length < 8)
  let a : Activation := { component := k, bankB := !(s.component k).activeB, origin := f.call.origin
                          tag := f.call.tag, since := now, switched := false }
  let s := s.submit f 0x0E (s.legalRequest k)
  if taken then s.modUpdate (fun u => { u with activation := some a }) else s

/-- ACTIVATE (R499). -/
def execActivate (dt : Ticks) (c : Call) (p : Bytes) (env : StartEnv) (s : State) :
    Host.Outcome State Fault Refusal :=
  let s := s.elapse dt
  let n := field p 0 1
  .next (s.onCommand c 0x0806 p (p.length == 1 && componentOk n) 4 (fun f s =>
    let k := n - 2
    let st := s.activateStatus k
    let rest := firstRefusal (s.activateGates k ++
      [need (s.newMeets k (s.manifest k (!(s.component k).activeB)) s.running) stIncompatible])
    if st ≠ stDone then s.reply f st
    else if k < 2 then s.activateLegal f k
    else if rest ≠ stDone then s.reply f rest
    else if k = 2 then s.activateApp f env
    else s.activateFe f))

/-- The signatures of the request (R502 step 1). -/
def State.requestVerifies (s : State) (k : Nat) (new : Bytes) : Bool :=
  (s.component k).inactive.factory || manifestOk k new

/-- The partner manifests of a request. -/
def requestPartner (k : Nat) (p : Bytes) (j : Nat) : Bytes :=
  if (k = 0 ∧ j = 1) ∨ (k = 1 ∧ j = 0) then slice p 260 256 else slice p 516 256

/-- A partner's manifest carries a good signature. -/
def State.partnerVerifies (s : State) (j : Nat) (m : Bytes) : Bool :=
  (s.component j).active.factory || manifestOk j m

def State.answerActivate (r : GateRequest) (s : State) : State :=
  let p := r.payload
  let k := field p 0 1 - 2
  let new := slice p 4 256
  let running := requestPartner k p
  let meet := (partners k).all (fun x => s.partnerVerifies x.2 (running x.2)) && s.newMeets k new running
  let st := firstRefusal (need (s.requestVerifies k new) stDeniedState :: s.activateGates k ++
    [need meet stIncompatible, need (decide (s.legal.sealLog.length < 248)) stNoResource])
  if s.legal.activation.isSome then s
  else if p.length ≠ 772 ∨ field p 0 1 < 2 ∨ 3 < field p 0 1 then s.refuseGate r stBadParam
  else if st = stNoResource then (s.noteSealFull (originCode r.origin)).refuseGate r st
  else if st ≠ stDone then s.refuseGate r st
  else
    let s := s.modMem (fun m => (upTo 4).foldl MemSys.revoke m)
    let a : LegalActivation := { component := k, bankB := field p 1 1 == 1, gseq := r.gseq, origin := r.origin
                                 oldLcv := s.boot.lcv, after := s.legal.lastCommit }
    s.modLegal (fun l => { l with activation := some a })

/-- GATE_ACTIVATE_LEGAL (R502 steps 1 and 2): the request stays in its slot until the switch. -/
def execGateActivateLegal (dt : Ticks) (s : State) : Host.Outcome State Fault Refusal :=
  let s := s.elapse dt
  .next (s.serve 0x0E State.answerActivate)

/-- The channels that carry an invalidating diagnostic bit (Table 18.5). -/
def State.faultyChannels (s : State) : List Nat :=
  (upTo 16).filter (fun n => (s.channel n).diag &&& invalidBits != 0)

/-- The switch and the restart of the activation (R502 steps 5 and 6). -/
def State.switchLegal (s : State) (a : LegalActivation) (r : GateRequest) (env : StartEnv) : State :=
  let at_ := s.legal.lastCommit
  let slots := (s.slot 6, s.slot 7)
  let bad := s.faultyChannels
  let s := ((s.startTrial a.component).causeActivate).answer r stDone []
  let s := s.modLegal (fun l => { l with slotsBefore := some slots, diagBefore := bad, lastLcv := a.oldLcv })
  let s := (s.lcDown gapActivation 0).modBoot (fun b => { b with
    pauseFrom := some at_, imageLog := 1, imageSealed := true })
  s.legalReload false env

/-- LEGAL_ACTIVATION_SWITCH (R502 steps 3 to 6, R509): after the commit of the next whole second. -/
def execLegalActivationSwitch (dt : Ticks) (env : StartEnv) (s : State) : Host.Outcome State Fault Refusal :=
  let s := s.elapse dt
  .next (match s.legal.activation with
    | none => s
    | some a =>
      if !s.legalRuns || s.legal.lastCommit ≤ a.after then s
      else
        match s.gate.requests.find? (fun r => r.gseq == a.gseq) with
        | none => s
        | some r =>
          if s.legal.sealOpen then s.switchLegal a r env
          else
            ((s.modMem (·.releaseWindows)).modLegal (fun l => { l with activation := none })).refuseGate r
              stDeniedSeal)

/-- LEGAL_ACTIVATION_TIMEOUT (R502): Igfaen has not re-enabled its channels 650 ms after s. -/
def execLegalActivationTimeout (dt : Ticks) (env : StartEnv) (s : State) : Host.Outcome State Fault Refusal :=
  let s := s.elapse dt
  .next (match s.boot.pauseFrom with
    | none => s
    | some t =>
      if s.lcAlive && !s.boot.legalReady && decide (t + 650 * milli ≤ s.nodeTime) then
        (s.lcDown gapActivation 0).legalReload true env
      else s)

/-- NONLEGAL_ACTIVATION_TIMEOUT (R501): Undercoat has not reached READY 1.8 s after the switch. -/
def execNonlegalActivationTimeout (dt : Ticks) (env : StartEnv) (s : State) : Host.Outcome State Fault Refusal :=
  let s := s.elapse dt
  .next (match s.update.activation with
    | none => s
    | some a =>
      if a.component = 2 ∧ a.switched = true ∧ s.boot.stage = 6 ∧ s.since a.since (1800 * milli) = true then
        s.acDown.appReload true env
      else s)

/-! ### Trial and confirmation (R504 to R506) -/

/-- The health checks of the legal side. -/
def State.legalHealthy (s : State) (k : Nat) : Bool :=
  let c := s.component k
  let shown := match c.trialSince, s.display.legalWritten with
    | some t, some d => decide (t ≤ d)
    | _, _ => false
  s.legalRuns && decide (10 ≤ c.trialCommits) && shown &&
    (s.enabled.filter s.pchBound).all (fun n => (s.channel n).settled || s.legal.diagBefore.contains n) &&
    s.legal.slotsBefore == some (s.slot 6, s.slot 7)

/-- The health checks of the FE: every enabled port has left QUIET, and the links are back in time. -/
def State.feHealthy (s : State) : Bool :=
  let quiet := s.fabric.quietEnd.getD 0
  s.fabric.ports.all (fun p => p.state != 1) &&
    s.update.portsBefore.all (fun i => s.linkUp i && decide ((s.port i).at_ ≤ quiet + 30 * second))

/-- Every check of Table 18.5. -/
def State.healthy (s : State) (k : Nat) : Bool :=
  match k with
  | 2 => s.ready && s.update.gateSeen && (s.component 3).running && s.sinceOpt (s.component 2).trialSince (60 * second)
  | 3 => s.ready && s.feHealthy
  | _ => s.legalHealthy k

/-- The IMAGE entry of a confirmation. -/
def State.logConfirmed (s : State) : State :=
  s.logEvent 0x0B 0x02 0xFF (leBytes 4 s.boot.lcv ++ leBytes 4 s.boot.lcv ++
    [byte (b2n (s.component 0).activeB + 2 * b2n (s.component 1).activeB)])

/-- TRIAL_CONFIRM (R505): within 300 s of the restart. -/
def execTrialConfirm (dt : Ticks) (component : Nat) (s : State) : Host.Outcome State Fault Refusal :=
  let s := s.elapse dt
  let k := component
  let inTime := !s.sinceOpt (s.component k).trialSince (300 * second)
  .next (if !(s.inTrial k && inTime && s.healthy k) then s
    else
      let b := (s.component k).activeB
      let s := s.modComponent k (fun c => { (c.setState b .confirmed) with trialSince := none, trialCommits := 0 })
      let s := if k < 2 then
          s.logConfirmed.modLegal (fun l => { l with slotsBefore := none, diagBefore := [] })
        else if k = 3 then s.modUpdate (fun u => { u with portsBefore := [] })
        else s
      s.announceUpdate k 2 b)

/-- TRIAL_WATCHDOG_EXPIRY (R506). -/
def execTrialWatchdogExpiry (dt : Ticks) (component : Nat) (env : StartEnv) (s : State) :
    Host.Outcome State Fault Refusal :=
  let s := s.elapse dt
  let k := component
  let mark (bit : Nat) (s : State) : State := s.modBoot (fun b => { b with cause := b.cause ||| causeBit bit })
  .next (if !(s.inTrial k && s.sinceOpt (s.component k).trialSince (300 * second)) then s
    else
      match k with
      | 2 => ((mark 6 s).modBoot (fun b => { b with stage := 6 })).acDown.appReload true env
      | 3 => (State.selectImage true s 3).feRestart
      | _ => ((mark 5 s).lcDown gapRestart 0).legalReload true env)

/-- ACTIVATE_RESPONSE_DISCARD (R503). -/
def execActivateResponseDiscard (dt : Ticks) (s : State) : Host.Outcome State Fault Refusal :=
  let s := s.elapse dt
  .next (match s.ports.servicePending with
    | none => s
    | some (_, t) =>
      if s.since t (60 * second) && !s.ports.usbSession then
        s.modPorts (fun p => { p with servicePending := none })
      else s)

end Sys2Proof.Machine
end

