-- ==== Sys2Proof/Machine/Delivery.lean ====
section
/-! DEFINITION. What the AC does with the gate's replies, and the delivery of signed readings (R28, R37,
R172, R247, R298, R299, R408, R409, R503). -/

namespace Sys2Proof.Machine

/-! ### Solicited replies -/

/-- The command that a reply answers. -/
def State.askedBy (s : State) (gseq : Nat) : Option InFlight :=
  s.hawk.inFlight.find? (fun f => f.gseq == some gseq)

/-- An accepted LOAD_CALENDAR or SET_OWNER_LOCK joins the distribution set (R408). -/
def State.keepItem (s : State) (code : Nat) (payload : Bytes) : State :=
  let fresh (item : Nat) (f : Fabric) : Fabric := { f with refused := f.refused.filter (fun r => r.2 != item) }
  if code = 0x08 then s.modFabric (fun f => fresh 1 { f with distCalendar := some payload })
  else if code = 0x09 then s.modFabric (fun f => fresh 2 { f with distLock := some payload })
  else s

/-- The gate has switched the bank of a legal activation (R502 step 5). -/
def State.legalSwitched (s : State) (f : InFlight) : State :=
  let g : InFlight := { f with gseq := none }
  let s := s.modHawk (fun h => { h with inFlight := h.inFlight.replace f g })
  match s.update.activation with
  | none => s
  | some a =>
    ((s.modUpdate (fun u => { u with activation := some { a with switched := true } })).acknowledge g).announceUpdate
      a.component 1 a.bankB

/-- A reply to a command: its final response, or the end of the wait of ACTIVATE. -/
def State.answered (s : State) (f : InFlight) (code status : Nat) (payload : Bytes) : State :=
  if code = 0x0E then
    (if status = stDone then s.legalSwitched f
     else (s.modUpdate (fun u => { u with activation := none })).respond f status payload)
  else
    let s := if status = stDone then s.keepItem code f.payload else s
    let s := s.respond f status payload
    if code = 0x06 then s.settleCapture else s

/-- A reply to the AC's own READ_STATUS: EXT 2 gives the terms of the provisional path (R171); EXT 4 blanks its field where
the legal path is stable (R172, WFLAGS bit 0 of Table 12.2). -/
def State.ownAnswered (s : State) (request : Bytes) (status : Nat) (payload : Bytes) : State :=
  if status ≠ stDone then s
  else if field request 0 1 = 2 then s.modProv (field request 1 1) (fun p => { p with terms := some payload })
  else if bit (field payload 12 2) 0 = true then
    s.modProv (field request 1 1) (fun p => { p with shown := false })
  else s

def State.takeAnswer (s : State) (gseq code status : Nat) (payload : Bytes) : State :=
  let s := if code = 0x01 ∧ status = stDone then s.modUpdate (fun u => { u with gateSeen := true }) else s
  match s.gate.own.find? (fun r => r.1 == gseq) with
  | some r => (s.modGate (fun g => { g with own := g.own.erase r })).ownAnswered r.2 status payload
  | none =>
    match s.askedBy gseq with
    | none => s
    | some f => s.answered f code status payload

/-! ### Unsolicited replies -/

/-- The IMAGE entry of the restart of a legal activation gives its final response (R503). -/
def State.imageSeen (s : State) (entry : Bytes) : State :=
  match s.update.activation with
  | none => s
  | some a =>
    let code := field entry 14 1
    if field entry 13 1 ≠ 0x0B ∨ a.switched = false ∨ 2 ≤ a.component ∨ code = 2 then s
    else
      let s := s.modUpdate (fun u => { u with activation := none })
      match s.accepted ⟨a.origin, a.tag⟩ 0x0806 with
      | none => s
      | some f => s.respond f (if code = 1 then stDone else stAborted) (slice entry 36 4)

/-- KIND of a reading of a profile interval (Table 10.2). -/
def kindProfile : Nat := 3

def State.takeNews (s : State) : Unsolicited → State
  | .reading r => s.modHawk (fun h => { h with
      delivery := h.delivery ++ [r]
      toStore := if field r 1 1 = kindProfile then h.toStore ++ [r] else h.toStore })
  | .logEntry e => (s.postEvent 0x0480 e).imageSeen e
  | .txnTimeout mp n => s.postEvent 0x0380 ([byte mp, 0, 0, 0] ++ leBytes 4 n)
  | .sealState _ => s
  | .tariffSwitch t at_ => s.postEvent 0x0581 ([byte t] ++ zeros 7 ++ leBytes 8 at_)
  | .timeStatus old new => s.postEvent 0x0580 [byte old, byte new]
  | .syncEvent src e => s.postEvent 0x0280 ([byte src] ++ zeros 7 ++ leBytes 8 e)

/-- GATE_REPLY_RECEIVE (R28): the oldest reply. -/
def execGateReplyReceive (dt : Ticks) (s : State) : Host.Outcome State Fault Refusal :=
  let s := s.elapse dt
  .next (if !s.ready then s
    else
      match s.gate.replies with
      | [] => s
      | r :: _ =>
        let s := s.modGate Gate.freeReply
        match r with
        | .answer gseq code status payload => s.takeAnswer gseq code status payload
        | .news u => s.takeNews u)

/-- GATE_SLOT_FREE_SUBMIT (R37). -/
def execGateSlotFreeSubmit (dt : Ticks) (s : State) : Host.Outcome State Fault Refusal :=
  let s := s.elapse dt
  .next (match s.gate.waiting with
    | [] => s
    | (code, payload) :: rest =>
      if 8 ≤ s.gate.requests.length ∨ s.ready = false then s
      else (s.modGate (fun g => { g with waiting := rest })).schedule code payload)

/-! ### Delivery of readings (R247, R299) -/

/-- The oldest profile reading that waits for the profile store is appended and put into its series; a store that cannot take
it is made ready first (R247, R361, R385). BULK has no part in it. -/
def State.storeNext (s : State) : State :=
  match s.hawk.toStore with
  | [] => s
  | r :: rest =>
    if s.profileReady then ((s.modHawk (fun h => { h with toStore := rest })).appendReading r).addSeries r
    else s.openSector 1

/-- The oldest reading leaves the delivery queue where BULK takes it: posted and forwarded (R299, R409). -/
def State.deliverNext (s : State) : State :=
  match s.hawk.delivery with
  | [] => s
  | r :: rest =>
    if !s.bulkRoom r.length then s
    else ((s.modHawk (fun h => { h with delivery := rest })).postBulk 0x0481 r).forwardReading r

/-- READING_DELIVERY (R247, R299). -/
def execReadingDelivery (dt : Ticks) (s : State) : Host.Outcome State Fault Refusal :=
  let s := s.elapse dt
  .next (if !s.ready then s else s.storeNext.deliverNext.handOver)

end Sys2Proof.Machine
end

