-- ==== Sys2Proof/Machine/Hawk.lean ====
section
/-! DEFINITION. The Hawk mailbox: SPI frames, the host window, the rings, the taking of commands and
Rilfy frames (R280 to R291, R294, R304, R309, R314, R368). -/

namespace Sys2Proof.Machine

/-! ### Frames (R280 to R284) -/

/-- The SPI target answers (R45). -/
def State.spiRuns (s : State) : Bool := !s.boot.held

/-- The status byte of a frame, which HW.SPI_STATUS keeps from READY on (Table 11.3, R282, R285). -/
def State.endFrame (s : State) (code : Nat) : State :=
  let v := code + 128 * b2n s.hirq
  let ready := s.ready
  s.modHawk (fun h => { h with misoStatus := v, lastStatus := if ready then v else h.lastStatus })

/-- The first refusal in word order (R282). -/
def firstCode (a b : Nat) : Nat := if a = stDone then b else a

/-- The words of a frame: NWORDS, with 0 for 256. -/
def frameWords (n : Nat) : Nat := if n = 0 then 256 else n

/-! ### The registers (Tables 2.3, 11.4 and 11.6) -/

/-- The offsets that the host window describes, below the ring registers. -/
def describedOffsets : List Nat :=
  (upTo 10).map (4 * ·) ++ [0x30, 0x34, 0x40, 0x44, 0x48, 0x4C, 0x50, 0x54, 0x58, 0x5C, 0x60, 0x64, 0x68, 0x6C]

/-- A described register: the ring registers are +0x00 to +0x14 of each ring. -/
def described (off : Nat) : Bool :=
  off % 4 == 0 && (describedOffsets.contains off || (0x100 ≤ off && off < 0x180 && off % 32 ≤ 0x14))

/-- HW.RINGn_STATUS. -/
def Ring.statusWord (r : Ring) : Nat :=
  flagBits [r.active, r.idxErr, r.cfgErr] + 65536 * (r.count % 8192)

/-- A ring register as read. -/
def Ring.readAt (r : Ring) (off : Nat) : Nat :=
  match off with
  | 0x00 => r.base
  | 0x04 => r.log2 + 256 * b2n r.enable
  | 0x08 => r.head.toNat
  | 0x0C => r.tail.toNat
  | 0x10 => r.statusWord
  | 0x14 => r.thresh
  | _ => 0

/-- Bytes of the bulk pool in use. -/
def Hawk.poolUsed (h : Hawk) : Nat := (h.poolItems.map (·.2)).sum

/-- A boot register (Table 2.3). -/
def State.readBoot (s : State) (off : Nat) : Nat :=
  match off with
  | 0x00 => chipId
  | 0x04 => s.bootStageWord
  | 0x08 => s.bootErrorWord
  | 0x0C => s.boot.warn.toNat
  | 0x10 => s.boot.cause.toNat
  | 0x24 => s.boot.lcv
  | _ => s.boot.versions.getD ((off - 0x14) / 4) 0

/-- The reset value of a register behind the boot registers (Tables 11.4 and 11.6). -/
def resetRegister (off : Nat) : Nat :=
  if 0x100 ≤ off then
    match readyRings[(off - 0x100) / 32]? with
    | none => 0
    | some r => r.readAt (off % 32)
  else
    match off with
    | 0x44 => 1
    | 0x60 => poolBaseReset
    | 0x64 => poolSizeReset
    | _ => 0

/-- The value of a register without what a read does to it; until READY those behind the boot registers
hold their reset values, but for STAGE (R285). -/
def State.peekRegister (s : State) (off : Nat) : Nat :=
  let h := s.hawk
  if !described off then 0
  else if off < 0x28 then s.readBoot off
  else if !s.ready && off != 0x40 then resetRegister off
  else if 0x100 ≤ off then (s.ring ((off - 0x100) / 32)).readAt (off % 32)
  else
    match off with
    | 0x30 => h.lastStatus + 256 * h.frameErr
    | 0x34 => h.scratch.toNat
    | 0x40 => s.irqStatus
    | 0x44 => h.irqEnable.toNat
    | 0x48 => b2n h.openDrain + 65536 * h.coalUs
    | 0x50 => s.nodeTime % 4294967296
    | 0x54 => h.timeHi.toNat
    | 0x58 => s.nodeStateNow
    | 0x5C => h.eventLost
    | 0x60 => h.poolBase
    | 0x64 => h.poolSize
    | 0x68 => h.poolUsed
    | 0x6C => h.bulkDropped
    | _ => 0

/-- A read of one register: the RC registers clear, and HW.NODE_TIME_LO latches (R281, R284). -/
def State.readRegister (s : State) (off : Nat) : Word × State :=
  let v := BitVec.ofNat 32 (s.peekRegister off)
  (v, if !s.ready then s
    else
      match off with
      | 0x50 => s.modHawk (fun h => { h with timeLo := v, timeHi := BitVec.ofNat 32 (s.nodeTime / 4294967296) })
      | 0x5C => s.modHawk (fun h => { h with eventLost := 0 })
      | 0x6C => s.modHawk (fun h => { h with bulkDropped := 0 })
      | _ => s)

/-! ### Rings (R286 to R291, R309, R314) -/

/-- A ring sets IDX_ERR or CFG_ERR. -/
def State.ringError (s : State) (n : Nat) (f : Ring → Ring) : State :=
  (s.modRing n f).modHawk (fun h => { h with irqRingErr := true })

/-- Ring `n`, with its size, lies in the Hawk area and meets no other enabled ring and not the pool
(R286); BULK also needs its pool inside the area (log 38). -/
def State.ringPlaceOk (s : State) (n : Nat) (r : Ring) : Bool :=
  let len := 64 * r.size
  let apart (b m : Nat) : Bool := decide (r.base + len ≤ b) || decide (b + m ≤ r.base)
  decide (r.base + len ≤ 0x40000) && apart s.hawk.poolBase s.hawk.poolSize &&
    (upTo 4).all (fun k => k == n || !(s.ring k).enable || apart (s.ring k).base (64 * (s.ring k).size)) &&
    (n != 3 || decide (s.hawk.poolBase + s.hawk.poolSize ≤ 0x40000))

/-- ENABLE goes from 0 to 1. -/
def State.enableRing (s : State) (n : Nat) : State :=
  if !s.ringPlaceOk n (s.ring n) then s.ringError n (fun r => { r with cfgErr := true })
  else
    let s := s.modRing n (fun r => { r with
      enable := true, active := true, head := 0, tail := 0, posted := [] })
    if n = 1 then s.postAllHeld
    else if n = 3 then s.modHawk (fun h => { h with poolItems := [], poolNext := 0 })
    else s

/-- The entry at an index of a ring. -/
def State.entryAt (s : State) (n : Nat) (i : BitVec 16) : Bytes :=
  Memory.readBytes s.mem.cells ((s.ring n).addr i) 64

/-- An untaken command completes ABORTED (R309): its response is held where no RESPONSE entry beyond the
reservations is free. -/
def State.abortEntry (s : State) (b : Bytes) : State :=
  let e := Entry.ofBytes b
  let entry := (e.record ⟨.host, e.tag⟩ [] 0).responseEntry true stAborted []
  if s.hawk.resetting then s
  else if s.spareResponse && s.hawk.heldResponses.isEmpty then s.pushEntry 1 entry
  else s.modHawk (fun h => { h with heldResponses := h.heldResponses ++ [entry] })

/-- Every COMMAND entry not yet taken is aborted, and HEAD advances to TAIL. -/
def State.abortUntaken : Nat → State → State
  | 0, s => s
  | n + 1, s =>
    let r := s.ring 0
    if r.count = 0 then s
    else
      State.abortUntaken n
        ((s.abortEntry (s.entryAt 0 r.head)).modRing 0 (fun r => { r with head := r.head + 1 }))

/-- ENABLE goes to 0 (R309). -/
def State.disableRing (s : State) (n : Nat) : State :=
  let s := if n = 0 then State.abortUntaken 4096 s else s
  s.modRing n (fun r => { r with enable := false, active := false })

/-- A write of HW.RINGn_CFG; a refused LOG2SIZE refuses the whole write (log 38). -/
def State.writeRingCfg (s : State) (n v : Nat) : State :=
  let r := s.ring n
  let log := v % 16
  let on := bit v 8
  if r.enable then (if on then s else s.disableRing n)
  else if log < 4 ∨ 12 < log then s.ringError n (fun r => { r with cfgErr := true })
  else
    let s := s.modRing n (fun r => { r with log2 := log, thresh := min r.thresh (2 ^ log) })
    if on then s.enableRing n else s

/-- A write of HW.RINGn_HEAD frees entries, and on BULK their buffers (R288, R290). -/
def State.writeHead (s : State) (n v : Nat) : Nat × State :=
  let r := s.ring n
  let new := BitVec.ofNat 16 v
  let d := (new - r.head).toNat
  if !r.works then (stDone, s)
  else if r.count < d then (stBadParam, s.ringError n (fun r => { r with idxErr := true }))
  else
    let s := s.modRing n (fun r => { r with head := new, posted := r.posted.drop d })
    (stDone, if n = 3 then s.modHawk (fun h => { h with poolItems := h.poolItems.drop d })
      else if n = 1 then s.postAllHeld else s)

/-- The doorbell of COMMAND (R288). -/
def State.writeTail (s : State) (v : Nat) : Nat × State :=
  let r := s.ring 0
  let new := BitVec.ofNat 16 v
  if !r.works then (stDone, s)
  else if r.size - r.count < (new - r.tail).toNat then
    (stBadParam, s.ringError 0 (fun r => { r with idxErr := true }))
  else (stDone, s.modRing 0 (fun r => { r with tail := new }))

/-- HAWK_RESET (R314). -/
def State.runHawkReset (s : State) : State :=
  let s := s.modHawk (fun h => { h with resetting := true })
  ([0, 1, 2, 3].foldl State.disableRing s).finishReset

/-- A ring register takes a write. -/
def State.writeRing (s : State) (n off v : Nat) : Nat × State :=
  match off with
  | 0x00 => (stDone, if (s.ring n).enable then s
      else s.modRing n (fun r => { r with base := v % 0x40000 / 64 * 64 }))
  | 0x04 => (stDone, s.writeRingCfg n v)
  | 0x08 => if n = 0 then (stDone, s) else s.writeHead n v
  | 0x0C => if n = 0 then s.writeTail v else (stDone, s)
  | 0x10 => (stDone, s.modRing n (fun r => { r with
      idxErr := r.idxErr && !bit v 1, cfgErr := r.cfgErr && !bit v 2 }))
  | _ => (stDone, s.modRing n (fun r => { r with thresh := max 1 (min (v % 8192) r.size) }))

/-- The pool registers, writable only while BULK is disabled (Table 11.4, log 38). -/
def State.writePool (s : State) (off v : Nat) : Nat × State :=
  if (s.ring 3).enable then (stDone, s)
  else if off = 0x60 then (stDone, s.modHawk (fun h => { h with poolBase := v % 0x40000 / 64 * 64 }))
  else
    let size := v % 0x80000 / 64 * 64
    if size < 0x2000 ∨ 0x40000 < size then (stBadParam, s)
    else (stDone, s.modHawk (fun h => { h with poolSize := size }))

/-- The WC bits of HW.IRQ_STATUS; before READY only STAGE works (R285). -/
def State.writeIrqStatus (s : State) (v : Nat) : State :=
  let s := s.modHawk (fun h => { h with irqStage := h.irqStage && !bit v 0 })
  if !s.ready then s
  else s.modHawk (fun h => { h with
    irqRingErr := h.irqRingErr && !bit v 5, irqEventLost := h.irqEventLost && !bit v 6
    irqSpiErr := h.irqSpiErr && !bit v 7 })

/-- The doorbell: the index of COMMAND that the host writes (R60, R288). -/
def isDoorbell (off : Nat) : Bool := off == 0x10C

/-- One word of a REG_WRITE (R281, R285); the status that it gives the frame. -/
def State.writeRegister (s : State) (off : Nat) (v : Word) : Nat × State :=
  let n := v.toNat
  if !described off then (stBadParam, s)
  else if off = 0x10 then (stDone, s.modBoot (fun b => { b with cause := b.cause &&& ~~~v }))
  else if off = 0x40 then (stDone, s.writeIrqStatus n)
  else if !s.ready then (if isDoorbell off then stNotReady else stDone, s)
  else if 0x100 ≤ off then s.writeRing ((off - 0x100) / 32) (off % 32) n
  else
    match off with
    | 0x34 => (stDone, s.modHawk (fun h => { h with scratch := v }))
    | 0x44 => (stDone, s.modHawk (fun h => { h with irqEnable := v &&& 0xFF }))
    | 0x48 => (stDone, s.modHawk (fun h => { h with openDrain := bit n 0, coalUs := n / 65536 }))
    | 0x4C => (stDone, if bit n 0 then s.runHawkReset else s)
    | 0x60 => s.writePool 0x60 n
    | 0x64 => s.writePool 0x64 n
    | _ => (stDone, s)

/-- The offsets of a frame's words, in ascending order (Table 11.2). -/
def wordOffsets (addr n : Nat) : List Nat := (upTo n).map (addr + 4 * ·)

/-- One word of a REG_WRITE burst, after the words and the status before it. -/
def State.putRegister (x : State × Nat) (w : Nat × Word) : State × Nat :=
  let r := x.1.writeRegister w.1 w.2
  (r.2, firstCode x.2 r.1)

/-- A whole REG_WRITE frame (R281, R282). -/
def State.regWriteBurst (s : State) (addr : Nat) (words : List Word) : State :=
  if !s.spiRuns then s
  else if addr % 4 ≠ 0 then s.endFrame stBadParam
  else
    let r := ((wordOffsets addr words.length).zip words).foldl State.putRegister (s, stDone)
    r.1.endFrame r.2

/-- A whole REG_WRITE frame of one word. -/
def State.regWriteFrame (s : State) (off : Nat) (v : Word) : State := s.regWriteBurst off [v]

/-- The status that reading a register gives its word (R60, R281). -/
def State.readStatus (s : State) (off : Nat) : Nat :=
  if !described off then stBadParam else if isDoorbell off && !s.ready then stNotReady else stDone

/-- One word of a REG_READ burst, after the words and the status before it: a refused word reads 0. -/
def State.getRegister (x : State × Nat × List Word) (off : Nat) : State × Nat × List Word :=
  let st := x.1.readStatus off
  if st = stDone then
    let r := x.1.readRegister off
    (r.2, x.2.1, x.2.2 ++ [r.1])
  else (x.1, firstCode x.2.1 st, x.2.2 ++ [0])

/-- A whole REG_READ frame (R281, R282, R284). -/
def State.regReadFrame (s : State) (addr nwords : Nat) : State :=
  let offs := wordOffsets addr (frameWords nwords)
  if !s.spiRuns then s
  else if addr % 4 ≠ 0 then (s.modHawk (fun h => { h with miso := offs.map (fun _ => 0) })).endFrame stBadParam
  else
    let r := offs.foldl State.getRegister (s, stDone, [])
    (r.1.modHawk (fun h => { h with miso := r.2.2 })).endFrame r.2.1

/-- REGISTER_WRITE (R281, R285): a whole REG_WRITE frame of any length. -/
def execRegisterWrite (dt : Ticks) (addr : Nat) (words : List Word) (s : State) :
    Host.Outcome State Fault Refusal :=
  .next ((s.elapse dt).regWriteBurst addr words)

/-- RESET_CAUSE_WRITE (R46). -/
def execResetCauseWrite (dt : Ticks) (value : Word) (s : State) : Host.Outcome State Fault Refusal :=
  .next ((s.elapse dt).regWriteFrame 0x10 value)

/-- IRQ_STATUS_WRITE (R300). -/
def execIrqStatusWrite (dt : Ticks) (value : Word) (s : State) : Host.Outcome State Fault Refusal :=
  .next ((s.elapse dt).regWriteFrame 0x40 value)

/-- HAWK_RESET (R314). -/
def execHawkReset (dt : Ticks) (s : State) : Host.Outcome State Fault Refusal :=
  .next ((s.elapse dt).regWriteFrame 0x4C 1)

/-- NODE_TIME_LATCH (R280, R284): a REG_READ frame of HW.NODE_TIME_LO or of any other registers, which the
table gives no row of its own (log 38). -/
def execNodeTimeLatch (dt : Ticks) (addr nwords : Nat) (s : State) : Host.Outcome State Fault Refusal :=
  .next ((s.elapse dt).regReadFrame addr nwords)

/-- EVENT_LOST_READ (R281, R298): a REG_READ frame that begins at HW.EVENT_LOST. -/
def execEventLostRead (dt : Ticks) (nwords : Nat) (s : State) : Host.Outcome State Fault Refusal :=
  .next ((s.elapse dt).regReadFrame 0x5C nwords)

/-- BULK_DROPPED_READ (R281, R299): a REG_READ frame that begins at HW.BULK_DROPPED. -/
def execBulkDroppedRead (dt : Ticks) (nwords : Nat) (s : State) : Host.Outcome State Fault Refusal :=
  .next ((s.elapse dt).regReadFrame 0x6C nwords)

/-- COMMAND_DOORBELL (R288). -/
def execCommandDoorbell (dt : Ticks) (tail : Word) (s : State) : Host.Outcome State Fault Refusal :=
  .next ((s.elapse dt).regWriteFrame 0x10C tail)

/-- RING_HEAD_WRITE (R288): HW.RING0_HEAD is read-only. -/
def execRingHeadWrite (dt : Ticks) (ring : Nat) (head : Word) (s : State) :
    Host.Outcome State Fault Refusal :=
  .next ((s.elapse dt).regWriteFrame (0x108 + 32 * ring) head)

/-- RING_ENABLE (R286). -/
def execRingEnable (dt : Ticks) (ring : Nat) (cfg : Word) (s : State) : Host.Outcome State Fault Refusal :=
  .next ((s.elapse dt).regWriteFrame (0x104 + 32 * ring) cfg)

/-- RING_DISABLE (R309). -/
def execRingDisable (dt : Ticks) (ring : Nat) (cfg : Word) (s : State) : Host.Outcome State Fault Refusal :=
  .next ((s.elapse dt).regWriteFrame (0x104 + 32 * ring) cfg)

/-- RING_STATUS_WRITE (R285). -/
def execRingStatusWrite (dt : Ticks) (ring : Nat) (value : Word) (s : State) :
    Host.Outcome State Fault Refusal :=
  .next ((s.elapse dt).regWriteFrame (0x110 + 32 * ring) value)

/-- COALESCE_TIMER_EXPIRY (R301): the bit shows from the time that has passed, in HW.IRQ_STATUS. -/
def execCoalesceTimerExpiry (dt : Ticks) (_ring : Nat) (s : State) : Host.Outcome State Fault Refusal :=
  .next (s.elapse dt)

/-- SPI_RESERVED_FRAME (Table 11.2): nothing is performed. -/
def execSpiReservedFrame (dt : Ticks) (code : Nat) (s : State) : Host.Outcome State Fault Refusal :=
  let s := s.elapse dt
  .next (if !s.spiRuns || (1 ≤ code && code ≤ 4) then s
    else (s.modHawk (fun h => { h with miso := [] })).endFrame stBadOpcode)

/-! ### The memory window (R281, R291, R364, R365, R368) -/

/-- One word read: 0 and a refusal beyond the area or from a line that fails. `failing` lists the lines
of the area that fail their check now. -/
def State.readWord (failing : List Nat) (x : State × Nat × List Word) (off : Nat) : State × Nat × List Word :=
  let (s, st, ws) := x
  if 0x3FFFC < off then (s, firstCode st stBadParam, ws ++ [0])
  else if s.mem.isPoisoned (hawkBase + off) || failing.contains (off / 32) then
    (s.modMem (·.poison (hawkBase + off)), firstCode st stIntegrity, ws ++ [0])
  else
    (s, st, ws ++ [BitVec.ofNat 32 (leNat (Memory.readBytes s.mem.cells (hawkBase + off) 4))])

/-- The host may write here: COMMAND, or the host region (R291). -/
def State.hostWritable (s : State) (off : Nat) : Bool :=
  let r := s.ring 0
  (decide (r.base ≤ off) && decide (off < r.base + 64 * r.size)) ||
    s.inHostRegion (off / 64 * 64) 64

/-- One word of a MEM_WRITE; `whole` says that the frame covers its aligned line. -/
def State.writeWord (failing : List Nat) (first last : Nat) (x : State × Nat) (w : Nat × Word) :
    State × Nat :=
  let (s, st) := x
  let off := w.1
  let line := off / 32
  let a := hawkBase + off
  let whole := first ≤ 32 * line && 32 * line + 32 ≤ last
  let put (s : State) : State := s.modMem (fun m => { m with
    cells := Memory.writeBytes m.cells a (leBytes 4 w.2.toNat) })
  if 0x3FFFC < off || !s.hostWritable off then (s, firstCode st stBadParam)
  else if whole then ((put s).modMem (fun m => { m with poisoned := m.poisoned.erase (a / 32) }), st)
  else if s.mem.isPoisoned a || failing.contains line then
    (s.modMem (·.poison a), firstCode st stIntegrity)
  else (put s, st)

/-- The words of a MEM_WRITE frame, in ascending order. -/
def State.writeWords (s : State) (addr : Nat) (words : List Word) (failing : List Nat) : State × Nat :=
  let placed := (numbered words).map (fun x => (addr + 4 * x.1, x.2))
  placed.foldl (State.writeWord failing addr (addr + 4 * words.length)) (s, stDone)

/-- MEM_READ (R281). -/
def execMemRead (dt : Ticks) (addr nwords : Nat) (failing : List Nat) (s : State) :
    Host.Outcome State Fault Refusal :=
  let s := s.elapse dt
  let offs := (upTo (frameWords nwords)).map (addr + 4 * ·)
  let blank := offs.map (fun _ => (0 : Word))
  .next (if !s.spiRuns then s
    else if !s.ready then (s.modHawk (fun h => { h with miso := blank })).endFrame stNotReady
    else if addr % 4 ≠ 0 then (s.modHawk (fun h => { h with miso := blank })).endFrame stBadParam
    else
      let r := offs.foldl (State.readWord failing) (s, stDone, [])
      (r.1.modHawk (fun h => { h with miso := r.2.2 })).endFrame r.2.1)

/-- MEM_WRITE (R281). -/
def execMemWrite (dt : Ticks) (addr : Nat) (words : List Word) (failing : List Nat) (s : State) :
    Host.Outcome State Fault Refusal :=
  let s := s.elapse dt
  .next (if !s.spiRuns then s
    else if !s.ready then s.endFrame stNotReady
    else if addr % 4 ≠ 0 then s.endFrame stBadParam
    else
      let r := s.writeWords addr words failing
      r.1.endFrame r.2)

/-- What a cut frame has done by then (R283). -/
def State.cutEffect (s : State) : CutFrame → State
  | .regWrite addr words =>
    if addr % 4 ≠ 0 then s
    else (((wordOffsets addr words.length).zip words).foldl State.putRegister (s, stDone)).1
  | .memWrite addr words =>
    if addr % 4 ≠ 0 || !s.ready then s else (s.writeWords addr words []).1
  | .read false addr n =>
    if addr % 4 ≠ 0 then s
    else ((wordOffsets addr n).foldl State.getRegister (s, stDone, [])).1
  | _ => s

/-- A cut frame counts, from READY on (R283, R285). -/
def State.countCut (s : State) : State :=
  if s.ready then s.modHawk (fun h => { h with frameErr := satAdd 65535 h.frameErr 1, irqSpiErr := true }) else s

/-- SPI_FRAME_CUT (R283). -/
def execSpiFrameCut (dt : Ticks) (cut : CutFrame) (s : State) : Host.Outcome State Fault Refusal :=
  let s := s.elapse dt
  .next (if !s.spiRuns then s else ((s.cutEffect cut).countCut).endFrame stAborted)

/-! ### Taking a command (R294, R296, R368) -/

/-- The next COMMAND entry: its place, whether its lines fail their check, and the entry, without its flags
where they do. -/
def State.nextEntry (s : State) (failing : Bool) : Nat × Bool × Entry :=
  let r := s.ring 0
  let a := r.addr r.head
  let bad := failing || s.mem.readFails a 64
  let e := Entry.ofBytes (s.entryAt 0 r.head)
  (a, bad, if bad then { e with flags := 0 } else e)

/-- Undercoat may take the next COMMAND entry (R294, R296, R309). -/
def State.hostReady (s : State) (failing : Bool) : Bool :=
  s.ready && (s.ring 0).works && (s.ring 0).count != 0 && s.spareResponse && s.hawk.heldResponses.isEmpty &&
    s.mayTake .host 0 (s.nextEntry failing).2.2.fence

/-- The command of a route other than the host's that may be taken next: what waits before it is not fenced,
and nothing waits before a fenced one (R296, R303). -/
def State.nextWaiting (s : State) (o : Origin) : Option Waiting :=
  let mine := s.hawk.waiting.filter (fun w => w.call.origin == o)
  mine.find? (fun w =>
    let e := Entry.ofBytes w.entry
    let before := mine.takeWhile (· != w)
    s.mayTake o w.peer e.fence && !(e.fence && !before.isEmpty) && !before.any (fun b => (Entry.ofBytes b.entry).fence))

/-- The routes in the order of their codes (Table 11.11). -/
def routeOf (k : Nat) : Origin :=
  match k with
  | 0 => .host
  | 1 => .service
  | 2 => .optical
  | _ => .fabric

/-- A route has a command ready (R307). -/
def State.routeReady (s : State) (failing : Bool) (k : Nat) : Bool :=
  if k = 0 then s.hostReady failing else (s.nextWaiting (routeOf k)).isSome

/-- The route whose command is taken next: the first with a command ready, from the one whose turn it is
(R307). -/
def State.nextRoute (s : State) (failing : Bool) : Option Nat :=
  ((upTo 4).map (fun k => (s.hawk.turn + k) % 4)).find? (s.routeReady failing)

/-- A job whose text cannot be read completes INTEGRITY and its context is zeroed (R367, Table 13.8): the stream that
a CTX_UPDATE names, where the line of its first word passes the check. -/
def State.zeroBroken (s : State) (e : Entry) : State :=
  let buf := hawkBase + e.bufOff
  let n := (Memory.read s.mem.cells buf).toNat
  if e.opcode = 0x0904 ∧ s.mem.readFails buf 4 = false ∧ (s.streamOf .host n).isSome = true then s.dropJob n else s

/-- The next COMMAND entry is taken. -/
def State.takeHost (s : State) (failing : Bool) : State :=
  let (a, bad, e) := s.nextEntry failing
  let s := s.modRing 0 (fun r => { r with head := r.head + 1 })
  if bad then
    (if failing then s.modMem (·.poison a) else s).respondHost true
      (entryBytes 0 0 flagFinal 0 stIntegrity 0 0 [])
  else
    let buf := hawkBase + e.bufOff
    if e.bulk && s.entryStatus .host e == stDone && s.mem.readFails buf e.length then
      (s.zeroBroken e).sendResponse (e.record ⟨.host, e.tag⟩ [] 0) true stIntegrity []
    else
      s.enterCommand ⟨.host, e.tag⟩ e
        (if e.bulk then Memory.readBytes s.mem.cells buf (min e.length 65536) else e.inlinePayload) 0

/-- A command of Rilfy or of a tunnel is taken. -/
def State.takeWaiting (s : State) (w : Waiting) : State :=
  let e := Entry.ofBytes w.entry
  (s.modHawk (fun h => { h with waiting := h.waiting.erase w })).enterCommand w.call e
    (if e.bulk then w.data else e.inlinePayload) w.peer

/-- COMMAND_TAKE (R294, R307): the next command of the routes, in turn; `failing` says that the lines of the
host's entry fail their check. -/
def execCommandTake (dt : Ticks) (failing : Bool) (s : State) : Host.Outcome State Fault Refusal :=
  let s := s.elapse dt
  .next (match s.nextRoute failing with
    | none => s
    | some k =>
      let s := s.modHawk (fun h => { h with turn := (k + 1) % 4 })
      if k = 0 then s.takeHost failing
      else
        match s.nextWaiting (routeOf k) with
        | none => s
        | some w => s.takeWaiting w)

/-! ### Rilfy (R304) -/

/-- The content of a frame passes its checks. -/
def rilfyOk (c : Bytes) : Bool :=
  70 ≤ c.length && c.length ≤ 4166 && field c 0 1 == 1 && 1 ≤ field c 1 1 && field c 1 1 ≤ 3 &&
    leNat (c.drop (c.length - 4)) == crc32 (c.take (c.length - 4))

/-- The route takes frames: a service session, or the optical head in Rilfy. -/
def State.rilfyOpen (s : State) (o : Origin) : Bool :=
  (s.ready && (o == .service || o == .optical) || (s.boot.stage == 8 && o == .service)) && s.routeOpen o

/-- DATA has the LENGTH bytes that its entry says (Table 11.12). -/
def rilfyWhole (c : Bytes) : Bool :=
  let e := Entry.ofBytes (slice c 2 64)
  c.length - 70 == (if e.bulk then e.length else 0)

/-- A frame of the route arrives: counted where it is discarded, and a KIND 0x01 frame carries a command, which
waits for its turn (R304, R307). -/
def State.takeRilfy (s : State) (port : Origin) (content : Option Bytes) : State :=
  match content with
  | none => s.bump (if port = .service then 22 else 23)
  | some c =>
    if !rilfyOk c || !rilfyWhole c then s.bump (if port = .service then 22 else 23)
    else
      let now := s.mono
      let s := if port = .optical then s.modPorts (fun p => { p with optAt := now }) else s
      if field c 1 1 ≠ 1 then s
      else s.modHawk (fun h => { h with
        waiting := h.waiting ++ [⟨⟨port, field c 4 2⟩, slice c 2 64, slice c 66 (c.length - 70), 0⟩] })

/-- RILFY_FRAME_RECEIVE (R304): the characters that arrive, with their delimiters. -/
def execRilfyFrameReceive (dt : Ticks) (port : Origin) (frame : Bytes) (s : State) :
    Host.Outcome State Fault Refusal :=
  let s := s.elapse dt
  .next (if !s.rilfyOpen port then s
    else
      match rilfyInside frame with
      | none => s
      | some c => s.takeRilfy port (rilfyUnescape c))

end Sys2Proof.Machine
end

