-- ==== Sys2Proof/Machine/Ports.lean ====
section
/-! DEFINITION. The touch pads, VBAT, the USB service port, the optical head, the M-Bus polls and their
commands, and the harmonic records (chapter 16, R195, R196, R336). -/

namespace Sys2Proof.Machine

/-! ### Touch pads (R451, R452, R466) -/

/-- The touch state in the order of TCH_STATE (Table 16.1). -/
def State.touched (s : State) : Nat :=
  ((numbered s.ports.pads).map (fun x => b2n x.2.touched * 2 ^ x.1)).sum

def State.touchState (s : State) : Bytes :=
  [byte s.touched, s.ports.pressed, s.ports.released, s.ports.recal] ++ leBytes 4 s.ports.scanSeq.toNat

/-- HATTN_N is low (R452). -/
def State.hattn (s : State) : Bool :=
  let p := s.ports
  (p.pressed ||| p.released ||| p.recal).toNat &&& s.pnum 0x6003 != 0

/-- The bit of a pad. -/
def padBit (k : Nat) : BitVec 8 := BitVec.ofNat 8 (2 ^ k)

/-- What a scan of a pad reports: nothing, PRESSED, RELEASED or RECAL. -/
inductive PadNews where
  | none_ | pressed | released | recal
  deriving DecidableEq, Repr

/-- One scan of a pad whose baseline stands: `excess` is 1,000 times raw less the baseline. -/
def Pad.track (p : Pad) (raw thresh maxOn now : Nat) : Pad × PadNews :=
  let excess : Rat := ((raw : Rat) - p.baseline) * 1000
  let limit : Rat := (thresh : Rat) * p.baseline
  let low := excess < -limit
  let p := if low then { p with baseline := raw } else p
  if p.touched then
    if p.since + maxOn ≤ now then
      ({ p with baseline := raw, touched := false, above := 0, below := 0 }, .recal)
    else if excess * 4 < limit * 3 then
      if 1 ≤ p.below then ({ p with touched := false, above := 0, below := 0 }, .released)
      else ({ p with below := p.below + 1 }, .none_)
    else ({ p with below := 0 }, .none_)
  else if limit ≤ excess then
    if 1 ≤ p.above then ({ p with touched := true, above := 0, below := 0, since := now }, .pressed)
    else ({ p with above := p.above + 1 }, .none_)
  else
    let near := excess * 2 < limit && -limit < excess * 2 && !low
    ({ p with above := 0, baseline := if near then p.baseline + ((raw : Rat) - p.baseline) / 64 else p.baseline },
      .none_)

/-- One scan of an enabled pad: the first eight give the baseline. -/
def Pad.scan (p : Pad) (raw thresh maxOn now : Nat) : Pad × PadNews :=
  let p := { p with raw := raw }
  if p.scans < 8 then ({ p with scans := p.scans + 1, baseline := p.baseline + (raw : Rat) / 8 }, .none_)
  else p.track raw thresh maxOn now

/-- One pad is scanned. -/
def State.scanPad (s : State) (k raw : Nat) : State :=
  let r := (s.ports.pads.getD k Pad.reset).scan raw (s.pnum 0x6001) (s.pnum 0x6002 * second) s.mono
  let b := padBit k
  s.modPorts (fun p => { p with
    pads := setAt p.pads k r.1
    pressed := if r.2 = .pressed then p.pressed ||| b else p.pressed
    released := if r.2 = .released then p.released ||| b else p.released
    recal := if r.2 = .recal then p.recal ||| b else p.recal })

/-- TOUCH_SCAN (R451). -/
def execTouchScan (dt : Ticks) (raws : List Nat) (s : State) : Host.Outcome State Fault Refusal :=
  let s := s.elapse dt
  .next (if !s.ready then s
    else
      let mask := s.pnum 0x6000
      let s := ((upTo 8).filter (bit mask)).foldl (fun s k => s.scanPad k (raws.getD k 0)) s
      s.modPorts (fun p => { p with scanSeq := p.scanSeq + 1 }))

/-- Pads that TCH_ENABLE turns off lose their state bits, and those it turns on start anew (R451,
R466). -/
def State.enablePads (s : State) (was now : Nat) : State :=
  ((upTo 8).filter (fun k => bit was k != bit now k)).foldl (fun s k =>
    s.modPorts (fun p => { p with
      pads := setAt p.pads k Pad.reset
      pressed := p.pressed &&& ~~~(padBit k)
      released := p.released &&& ~~~(padBit k)
      recal := p.recal &&& ~~~(padBit k) })) s

/-! ### VBAT (R455) -/

/-- VBAT_MEASURE (R455): the first measurement below 2,400 mV raises VBAT_LOW. -/
def execVbatMeasure (dt : Ticks) (mv : Nat) (s : State) : Host.Outcome State Fault Refusal :=
  let s := s.elapse dt
  .next (if !s.legalRuns || !s.aon.mainPower then s
    else
      let p := s.ports
      let good := if 2450 ≤ mv then min 2 (p.vbatGood + 1) else 0
      let low := if mv < 2400 then true else p.vbatLow && good < 2
      let s := s.modPorts (fun p => { p with vbat := mv, vbatGood := good, vbatLow := low })
      if low && !p.vbatLow then s.postFault 0x0013 else s)

/-! ### The USB service port (R457) -/

/-- What the service port shows a USB host: VID and PID as they stand from the start of the session, and the serial-number
string, NODE_ID as 16 upper-case hex digits (R456, Table 16.1). -/
def State.usbIdentity (s : State) : Nat × Nat × Bytes :=
  (s.pnumNow 0x6010, s.pnumNow 0x6011, ((upTo 16).map (fun i =>
    byte (let d := nodeId / 16 ^ (15 - i) % 16; if d < 10 then 48 + d else 55 + d))))

/-- A staging that the end of the session cuts: its bank stays STAGED and incomplete. -/
def State.cutStaging (s : State) : State :=
  match s.update.staging with
  | none => s
  | some g =>
    let call := match g.call with
      | none => none
      | some c => s.accepted c 0x0802
    let s := s.closeStaging g .staged false
    match call with
    | none => s
    | some f => s.respond f stAborted []

/-- The service session ends (R276, R312). -/
def State.endSession (s : State) : State :=
  if !s.ports.usbSession then s
  else
    let s := (s.modPorts (fun p => { p with usbSession := false })).orphanRoute .service (fun _ => true)
    ((s.abortJobs .service).cutStaging).postEvent 0x0181 [1, 0]

/-- VBUS_VALID (R457). -/
def execVbusValid (dt : Ticks) (s : State) : Host.Outcome State Fault Refusal :=
  let s := s.elapse dt
  .next (s.modPorts (fun p => { p with vbus := true })).startSession

/-- VBUS_INVALID (R457). -/
def execVbusInvalid (dt : Ticks) (s : State) : Host.Outcome State Fault Refusal :=
  let s := s.elapse dt
  .next (s.modPorts (fun p => { p with vbus := false })).endSession

/-! ### The optical head (R458 to R461, R467) -/

def crlf : Bytes := [0x0D, 0x0A]

/-- The digits of a number, most significant first, without leading zeros. -/
def decimal : Nat → Nat → Bytes
  | 0, _ => []
  | k + 1, n => (if n < 10 then [] else decimal k (n / 10)) ++ [byte (48 + n % 10)]

def decimalText (n : Nat) : Bytes := decimal 20 n

def hexChar (n : Nat) : Byte := byte (if n < 10 then 48 + n else 55 + n)

/-- `k` upper-case hex digits. -/
def hexText (k n : Nat) : Bytes := ((upTo k).map (fun i => hexChar (n / 16 ^ i % 16))).reverse

/-- The port returns to 300 baud idle. -/
def State.opticalIdle (s : State) : State := s.modPorts (fun p => { p with optState := 0, optRate := 0, optOut := [] })

/-- A readout stops at once, without its BCC; how far it has come is open (R467, log 9). -/
def State.cutReadout (s : State) : State :=
  if s.ports.optState ≠ 2 then s.opticalIdle
  else
    let d := s.drawFree 16
    let m := s.ports.optOut
    (d.2.emit (.optical (m.take (d.1.toNat % m.length)))).opticalIdle

/-- A return to idle that Table 16.2 counts (R459). -/
def State.opticalDeparts (s : State) : State := (s.opticalIdle).bump 24

/-- The Rilfy session over the optical head ends (R276, R312, R461). -/
def State.endRilfy (s : State) : State :=
  (((s.opticalIdle).orphanRoute .optical (fun _ => true)).abortJobs .optical).postEvent 0x0181 [2, 0]

/-- The identification message (Table 16.2, step 2). -/
def State.identification (s : State) : Bytes :=
  ascii "/" ++ s.param 0x6021 ++ ascii "5" ++ hexText 16 nodeId ++ crlf

/-- 200 ms and 23 characters of 10 bits at 300 baud, in ns. -/
def identEnd : Nat := 966666666

/-- A sign-on: its address, empty where it names none. -/
def signOnAddress (msg : Bytes) : Option Bytes :=
  if msg.take 2 = ascii "/?" ∧ msg.drop (msg.length - 3) = ascii "!" ++ crlf ∧ 5 ≤ msg.length then
    some ((msg.drop 2).take (msg.length - 5))
  else none

/-- The port takes mode C messages (R458, R521). -/
def State.optListens (s : State) : Bool := s.ready && bit (s.pnum 0x6020) 0 && !s.boot.mainClockFault

/-- OPT_SIGN_ON (R459): a sign-on in its place; anything else returns the port to idle. -/
def execOptSignOn (dt : Ticks) (msg : Bytes) (s : State) : Host.Outcome State Fault Refusal :=
  let s := s.elapse dt
  let now := s.mono
  .next (if !s.optListens || 2 ≤ s.ports.optState then s
    else if s.ports.optState = 1 then s.opticalDeparts
    else
      match signOnAddress msg with
      | none => s.opticalDeparts
      | some a =>
        if a = [] ∨ a = hexText 16 nodeId then
          (s.emit (.optical s.identification)).modPorts (fun p => { p with optState := 1, optAt := now + identEnd })
        else s)

/-- A line of the readout (R460). -/
def readoutLine (address value unit : Bytes) : Bytes :=
  address ++ ascii "(" ++ value ++ (if unit = [] then [] else ascii "*" ++ unit) ++ ascii ")" ++ crlf

/-- The register unit of a quantity-direction (Table 9.2). -/
def qdUnit (type qd : Nat) : Bytes :=
  match (qdCodes type qd).1 with
  | 1 => ascii "mWh"
  | 2 => ascii "mvarh"
  | 3 => ascii "mVAh"
  | 4 => ascii "mL"
  | 5 => ascii "Wh"
  | _ => ascii "g"

/-- The nine lines of a quantity-direction: the sum, then T1 to T8. -/
def State.registerLines (s : State) (m qd : Nat) : Bytes :=
  let p := s.point m
  let k := p.bank
  let unit := qdUnit (s.mpType m) qd
  (upTo 9).flatMap (fun t =>
    let address := ascii "B." ++ decimalText m ++ ascii "." ++ decimalText qd ++ ascii "." ++ decimalText t
    let value := if t = 0 then k.sum qd else k.reg (8 * qd + t - 1)
    if p.regFault then readoutLine address (ascii "ERROR") []
    else readoutLine address (decimalText value) unit)

/-- The second of the latest completed commit of the registers in the list (R233, R460). -/
def State.readoutCommit (s : State) : Nat :=
  match pointsWhere (fun m => s.mpType m != 0 && !(s.point m).regFault) with
  | [] => s.legal.lastCommit
  | ms => (ms.map (fun m => (s.point m).bank.commitS)).foldl max 0

/-- The list of Table 16.3. -/
def State.readoutList (s : State) : Bytes :=
  let l := s.legal
  readoutLine (ascii "0.0.0") (hexText 16 nodeId) [] ++
  readoutLine (ascii "0.2.0") (hexText 8 s.boot.lcv) [] ++
  readoutLine (ascii "0.2.1") (decimalText l.calcnt) [] ++
  readoutLine (ascii "0.2.2") (decimalText l.cfgcnt) [] ++
  readoutLine (ascii "0.3.0") (decimalText (b2n l.sealOpen)) [] ++
  readoutLine (ascii "0.9.0") (decimalText (s.readoutCommit / second)) (ascii "s") ++
  readoutLine (ascii "0.9.1") (decimalText s.ntu.status.code) [] ++
  (pointsWhere (fun m => s.mpType m != 0)).flatMap (fun m =>
    (upTo (qdCount (s.mpType m))).flatMap (s.registerLines m))

/-- The readout message with its block check (Table 16.2, step 4). -/
def State.readout (s : State) : Bytes :=
  let checked := s.readoutList ++ ascii "!" ++ crlf ++ [0x03]
  [0x02] ++ checked ++ [checked.foldl (· ^^^ ·) 0]

/-- Z and Y of an option select message. -/
def optionOf (msg : Bytes) : Option (Nat × Nat) :=
  match msg with
  | [a, v, z, y, c, l] =>
    if a = 0x06 ∧ v = 0x30 ∧ c = 0x0D ∧ l = 0x0A ∧ 0x30 ≤ z.toNat ∧ z.toNat ≤ 0x35 then
      some (z.toNat - 0x30, y.toNat)
    else none
  | _ => none

/-- OPT_OPTION_SELECT (R459 to R461): the readout takes its values here and leaves from here on. -/
def execOptOptionSelect (dt : Ticks) (msg : Bytes) (s : State) : Host.Outcome State Fault Refusal :=
  let s := s.elapse dt
  let now := s.mono
  let out := s.readout
  .next (if !s.optListens || 2 ≤ s.ports.optState then s
    else if s.ports.optState = 0 || s.since s.ports.optAt (1500 * milli) then s.opticalDeparts
    else
      match optionOf msg with
      | none => s.opticalDeparts
      | some (z, y) =>
        if y = 0x30 then
          s.modPorts (fun p => { p with optState := 2, optRate := z, optAt := now, optOut := out })
        else if y = 0x32 ∧ z = 5 ∧ bit (s.pnum 0x6020) 1 = true then
          (s.modPorts (fun p => { p with optState := 3, optRate := 5, optAt := now })).postEvent 0x0181 [2, 1]
        else s.opticalDeparts)

/-- OPT_MESSAGE_TIMEOUT (R459). -/
def execOptMessageTimeout (dt : Ticks) (s : State) : Host.Outcome State Fault Refusal :=
  let s := s.elapse dt
  .next (if s.ports.optState = 1 ∧ s.since s.ports.optAt (1500 * milli) = true then s.opticalDeparts else s)

/-- OPT_READOUT_END (R459): the whole message has left. -/
def execOptReadoutEnd (dt : Ticks) (s : State) : Host.Outcome State Fault Refusal :=
  let s := s.elapse dt
  .next (if s.ports.optState = 2 then (s.emit (.optical s.ports.optOut)).opticalIdle else s)

/-- OPT_RILFY_IDLE_TIMEOUT (R461). -/
def execOptRilfyIdleTimeout (dt : Ticks) (s : State) : Host.Outcome State Fault Refusal :=
  let s := s.elapse dt
  .next (if s.ports.optState = 3 ∧ s.since s.ports.optAt (30 * second) = true then s.endRilfy else s)

/-- OPT_ENABLE has changed (R467). -/
def State.enableOptical (s : State) : State :=
  let v := s.pnum 0x6020
  if s.ports.optState = 3 then (if bit v 1 then s else s.endRilfy)
  else if bit v 0 then s
  else s.cutReadout

/-! ### The M-Bus manager (R196, R464, R465, R468) -/

/-- External heat of a span whose volume is `ml`, from the mean temperatures of its capture copies
(R196). -/
def State.externalHeat (s : State) (m ml : Nat) : State :=
  let p := s.point m
  if p.extSupplyN = 0 ∨ p.extReturnN = 0 then s
  else
    let a := p.extSupplySum / (p.extSupplyN : Int)
    let b := p.extReturnSum / (p.extReturnN : Int)
    if !(inTempRange a && inTempRange b) then s
    else
      match s.heatAmount m a b (ml * 4294967296) with
      | none => s
      | some (i, e) =>
        s.modPoint m (fun p => if i = 0 then { p with extHeat := p.extHeat + e }
          else { p with extCool := p.extCool + e })

/-- A volume read for a metering point (R465): the span since the last read accrues. -/
def State.takeVolume (s : State) (v : Int) (m : Nat) : State :=
  let now := s.nodeTime
  let s := match (s.point m).extBase with
    | none => s
    | some b =>
      if v < b then s.bump 12
      else
        let d := (v - b).toNat
        (s.externalHeat m d).modPoint m (fun p => { p with extVolume := min regMax (p.extVolume + d) })
  s.modPoint m (fun p => { p with
    extBase := some v, extLastRead := some now, extSupplySum := 0, extSupplyN := 0, extReturnSum := 0
    extReturnN := 0 })

/-- The metering points that take entry `i`'s volume. -/
def State.mbusPoints (s : State) (i : Nat) : List Nat :=
  pointsWhere (fun m => s.mpType m == typeHeat && s.mpSub m == 1 && bindMbus (s.binding m) == i)

/-- The poll of an entry succeeds with these user data (R464, R465). -/
def State.pollGood (s : State) (i : Nat) (user : Bytes) : State :=
  let now := s.mono
  let s := s.modMbus i (fun e => { e with
    fcb := !e.fcb, failed := 0, responding := some true, lastOk := some now, raw := some user })
  match userVolume user with
  | none => s
  | some v => (s.mbusPoints i).foldl (State.takeVolume · v) s

/-- The poll of an entry fails. -/
def State.pollBad (s : State) (i : Nat) : State :=
  s.modMbus i (fun e => { e with
    failed := min 3 (e.failed + 1)
    responding := if 3 ≤ e.failed + 1 then some false else e.responding })

/-- A request got no good reply: sent again twice, then the poll fails. -/
def State.pollMiss (s : State) (i tries : Nat) (selecting : Bool) : State :=
  if 2 ≤ tries then (s.pollBad i).pollFrom (i + 1)
  else (s.modPorts (fun p => { p with mbusCycle := some (i, tries + 1, selecting) })).sendPoll i selecting

/-- The transaction in progress has ended and its result is discarded (R468). -/
def State.discards (s : State) : Bool := s.ports.mbusDiscard || s.pnum 0x6030 == 0

/-- The reply comes from the meter polled; a selected one answers under its own address. -/
def State.answers (s : State) (i : Nat) (user : Bytes) : Bool :=
  s.mbusMode i != 1 || field user 1 1 == s.mbusPrimary i

/-- MBUS_POLL_CYCLE (R464): acts when a multiple of MBUS_PERIOD has passed since the last one taken. -/
def execMbusPollCycle (dt : Ticks) (s : State) : Host.Outcome State Fault Refusal :=
  let s := s.elapse dt
  let now := s.nodeTime
  let period := max 1 (s.pnum 0x6031) * second
  .next (if !s.ready || s.boot.mainClockFault || s.pnum 0x6030 != 1 ||
      now / period == s.ports.mbusCycleAt / period then s
    else
      let running := s.ports.mbusCycle.isSome
      let s := s.modPorts (fun p => { p with mbusCycleAt := now })
      if running then s.bump 13 else s.pollFrom 0)

/-- MBUS_REPLY (R464, R465). -/
def execMbusReply (dt : Ticks) (frame : Bytes) (s : State) : Host.Outcome State Fault Refusal :=
  let s := s.elapse dt
  .next (match s.ports.mbusCycle with
    | none => s
    | some (i, tries, selecting) =>
      if s.discards then s.pollFrom (i + 1)
      else if selecting then
        (if frame = [0xE5] then
          (s.modPorts (fun p => { p with mbusCycle := some (i, tries, false) })).sendPoll i false
        else s.pollMiss i tries true)
      else
        match mbusUser frame with
        | none => s.pollMiss i tries false
        | some user => if s.answers i user then (s.pollGood i user).pollFrom (i + 1) else s.pollMiss i tries false)

/-- MBUS_REPLY_TIMEOUT (R464). -/
def execMbusReplyTimeout (dt : Ticks) (s : State) : Host.Outcome State Fault Refusal :=
  let s := s.elapse dt
  .next (match s.ports.mbusCycle with
    | none => s
    | some (i, tries, selecting) =>
      if !s.since s.ports.mbusSentAt (s.mbusWait i) then s
      else if s.discards then s.pollFrom (i + 1)
      else s.pollMiss i tries selecting)

/-- STATE of an entry (R334): open between a first poll and an outcome (log 9). -/
def State.mbusState (s : State) (i : Nat) : Nat × State :=
  if s.mbusMode i = 0 then (0, s)
  else
    match (s.mbusRun i).responding with
    | some r => (if r then 1 else 2, s)
    | none =>
      let d := s.drawFree 1
      (1 + d.1.toNat, d.2)

/-- The seconds since an entry's last good poll; open where there was none (log 9). -/
def State.mbusAge (s : State) (i : Nat) : Nat × State :=
  match (s.mbusRun i).lastOk with
  | some t => (min 0xFFFFFFFF ((s.mono - t) / second), s)
  | none =>
    let d := s.drawFree 32
    (d.1.toNat, d.2)

/-- The 16 bytes of one entry of MBUS_LIST. -/
def listMeter (x : State × Bytes) (i : Nat) : State × Bytes :=
  let st := x.1.mbusState i
  let age := st.2.mbusAge i
  (age.2, x.2 ++ [byte i, byte st.1, byte (age.2.mbusPrimary i), 0] ++ slice (age.2.mbusEntry i) 4 8 ++
    leBytes 4 age.1)

/-- MBUS_LIST (R334). -/
def execMbusList (dt : Ticks) (c : Call) (p : Bytes) (s : State) : Host.Outcome State Fault Refusal :=
  let s := s.elapse dt
  let first := field p 0 1
  let count := field p 1 1
  let ok := p.length == 2 && decide (1 ≤ count) && decide (first + count ≤ 64)
  .next (s.onCommand c 0x0A05 p ok (16 * count) (fun f s =>
    let r := ((upTo count).map (first + ·)).foldl listMeter (s, [])
    r.1.reply f stDone r.2))

/-- MBUS_READ (R465). -/
def execMbusRead (dt : Ticks) (c : Call) (p : Bytes) (s : State) : Host.Outcome State Fault Refusal :=
  let s := s.elapse dt
  let i := field p 0 1
  let e := s.mbusRun i
  .next (s.onCommand c 0x0A06 p (p.length == 1 && decide (i < 64)) 263 (fun f s =>
    match e.raw with
    | none => s.reply f stDeniedState
    | some raw => s.reply f stDone (leBytes 4 ((s.mono - e.lastOk.getD 0) / milli) ++ leBytes 2 raw.length ++
        [0, 0] ++ raw)))

/-! ### Harmonic records (R195, R336) -/

/-- The last `n` capture copies of a channel before an instant, as codes; none where a line is poisoned,
the copies do not reach so far, or one of them settles. -/
def State.captureCopies (s : State) (k n limit : Nat) : Option (List Float) :=
  let c := s.channel k
  let usable := (c.capTimes.takeWhile (· < limit)).length
  let at_ (j : Nat) : Nat :=
    0x20380000 + 16384 * k + 8 * ((c.capIndex + 2048 - c.capTimes.length + j) % 2048)
  if usable < n ∨ n = 0 then none
  else
    let places := (upTo n).map (fun j => at_ (usable - n + j))
    let bytes := places.map (fun a => Memory.readBytes s.mem.cells a 8)
    if places.any (s.mem.readFails · 8) || bytes.any (fun b => bit (field b 4 2) 8) then none
    else some (bytes.map (fun b => ofInt (sfield b 0 4)))

/-- A value in its field; one that the field cannot hold, or that is no number, is open (log 9). -/
def State.fitted (s : State) (w : Nat) (known : Bool) (x : Int) : Nat × State :=
  if known && decide (0 ≤ x) && decide (x < (2 ^ w : Nat)) then (x.toNat, s)
  else
    let d := s.drawFree w
    (d.1.toNat, d.2)

/-- THD of phasors 1 to H in 0.01 %; open where the fundamental is 0 (log 9). -/
def State.thd (s : State) (xs : List Phasor) : Nat × State :=
  let one := Float.sqrt ((xs.map (·.abs2)).headD 0.0)
  let rest := Float.sqrt (floatSum ((xs.drop 1).map (·.abs2)))
  s.fitted 16 (one > 0.0) (floatRound (rest / one * 10000.0))

/-- The phase of I_h relative to V_h in 0.01°, within -180° to 180°; open where either is 0 (log 9). -/
def State.phaseAngle (s : State) (v i : Phasor) : Int × State :=
  if v.abs2 > 0.0 && i.abs2 > 0.0 then
    (floatRound (Float.atan2 (v.re * i.im - v.im * i.re) (v.re * i.re + v.im * i.im) * 18000.0 / pi64), s)
  else
    let d := s.drawFree 16
    (d.1.toInt, d.2)

/-- The harmonic entry of a phase: |V_h|, |I_h| and the angle. -/
def phaseEntry (x : State × Bytes) (vi : Phasor × Phasor) : State × Bytes :=
  let v := x.1.fitted 32 true (floatRound (Float.sqrt vi.1.abs2 * 1.0e6))
  let i := v.2.fitted 32 true (floatRound (Float.sqrt vi.2.abs2 * 1.0e6))
  let a := i.2.phaseAngle vi.1 vi.2
  (a.2, x.2 ++ leBytes 4 v.1 ++ leBytes 4 i.1 ++ sBytes 2 a.1 ++ [0, 0])

/-- The harmonic entry of the neutral, whose current has no calibration factor: |I_h| is open (log 9). -/
def neutralEntry (x : State × Bytes) (_i : Phasor) : State × Bytes :=
  let d := x.1.drawFree 32
  (d.2, x.2 ++ zeros 4 ++ leBytes 4 d.1.toNat ++ zeros 4)

/-- The phasors 1 to `top` of samples scaled by `unit`. -/
def harmonics (xs : List Float) (unit : Float) (top : Nat) : List Phasor :=
  (upTo top).map (fun h => dft (xs.map (· * unit)) (h + 1))

/-- The block of phase `ph`. -/
def State.harmonicBlock (s : State) (m top : Nat) (volts amps : List Float) (ph : Nat) : State × Bytes :=
  let cal := calPhase (s.calBlock m) ph
  let vs := harmonics volts (codeUnit cal.1) top
  let is := harmonics amps (codeUnit cal.2.1) top
  let tv := s.thd vs
  let ti := tv.2.thd is
  (vs.zip is).foldl phaseEntry (ti.2, leBytes 2 tv.1 ++ leBytes 2 ti.1 ++ zeros 4)

/-- The block of the neutral. -/
def State.neutralBlock (s : State) (top : Nat) (amps : List Float) : State × Bytes :=
  let is := harmonics amps 1.0 top
  let ti := s.thd is
  is.foldl neutralEntry (ti.2, zeros 2 ++ leBytes 2 ti.1 ++ zeros 4)

/-- The blocks of a metering point, in the order of R336. -/
def State.harmonicBlocks (s : State) (m top : Nat) (phases : List (List Float × List Float))
    (neutral : Option (List Float)) : State × Bytes :=
  let r := (numbered phases).foldl (fun (x : State × Bytes) q =>
    let b := x.1.harmonicBlock m top q.2.1 q.2.2 q.1
    (b.1, x.2 ++ b.2)) (s, [])
  match neutral with
  | none => r
  | some amps =>
    let b := r.1.neutralBlock top amps
    (b.1, r.2 ++ b.2)

/-- HARMONIC_SECOND (R195): the last RS_LINE_N copies of the second give the record, one in each second. -/
def execHarmonicSecond (dt : Ticks) (mp : Nat) (s : State) : Host.Outcome State Fault Refusal :=
  let s := s.elapse dt
  let b := s.binding mp
  let ending := s.nodeTime / second * second
  let n := (s.chain (bindPch b 0)).lineN
  let top := min 50 (n / 2 - 1)
  .next (if !(decide (mp < 4) && s.ready && s.pnum (pointId mp 0x90) == 1 && s.harmReady mp &&
      (s.point mp).harmSecond != some ending) then s
    else
      let phases := ((upTo (phaseCount b)).map (phaseChannels b)).map (fun ch =>
        (s.captureCopies ch.1 n ending, s.captureCopies ch.2 n ending))
      let neutral := if bindPch b 6 < 16 then some (s.captureCopies (bindPch b 6) n ending) else none
      let missing := phases.any (fun q => q.1.isNone || q.2.isNone) || neutral == some none
      if missing then s
      else
        let r := s.harmonicBlocks mp top (phases.map (fun q => (q.1.getD [], q.2.getD []))) (neutral.getD none)
        let blocks := phaseCount b + b2n neutral.isSome
        (r.1.modPoint mp (fun p => { p with harmSecond := some ending })).offerBulk 0x0482 ([byte mp, byte top, byte blocks] ++ zeros 5 ++ leBytes 8 ending ++ r.2))

end Sys2Proof.Machine
end

