-- ==== Sys2Proof/Machine/Params.lean ====
section
/-! DEFINITION. GET_PARAM, SET_PARAM, and what the change of a parameter that Undercoat serves starts
(R32, R337 to R345, R463). -/

namespace Sys2Proof.Machine

/-! ### Reading (R339, R345, R452) -/

/-- The value that GET_PARAM returns; TCH_STATE is no stored value. -/
def State.valueOf (s : State) (id : Nat) : Bytes := if id = 0x6008 then s.touchState else s.param id

/-- PENDING (Table 12.1): the stored value is not yet in force. -/
def State.isPending (s : State) (id : Nat) : Bool :=
  if id = 0x3100 then s.legal.passive.state == 1 else (lookupParam s.inForce id).isSome

/-- The RC fields of a parameter, cleared by its read. -/
def State.clearRead (s : State) (id : Nat) : State :=
  if id = 0x6008 then s.modPorts (fun p => { p with pressed := 0, released := 0, recal := 0 }) else s

/-- GET_PARAM (R339). -/
def execGetParam (dt : Ticks) (c : Call) (p : Bytes) (s : State) : Host.Outcome State Fault Refusal :=
  let s := s.elapse dt
  let id := field p 0 2
  let v := s.valueOf id
  .next (s.onCommand c 0x0103 p (p.length == 2) (8 + v.length) (fun f s =>
    match paramInfo id with
    | none => s.reply f stBadParam
    | some _ => (s.clearRead id).reply f stDone (leBytes 2 id ++ leBytes 2 v.length ++
        [byte (s.classNow id), byte (b2n (s.isPending id)), 0, 0] ++ v)))

/-! ### Writing (R341 to R343) -/

/-- A change that waits for a boundary of its own chapter (R70, R418, Table 16.1): the next full start, the
next frame boundary of a display that runs, the next service session. -/
def State.waits (s : State) (id : Nat) : Bool :=
  id == 0x0010 || (decide (0x4000 ≤ id ∧ id < 0x5000) && s.dispMode != 0) ||
    ((id == 0x6010 || id == 0x6011) && s.ports.usbSession)

/-- MBUS_ENABLE has changed (R464, R468). -/
def State.enableMbus (s : State) : State :=
  if s.pnum 0x6030 = 1 then s.mbusStart
  else s.modPorts (fun p => { p with mbusDiscard := p.mbusCycle.isSome })

/-- What follows the store of a parameter that Undercoat serves. -/
def State.appChanged (s : State) (id : Nat) (old new : Bytes) : State :=
  let now := s.nodeTime
  if 0x2000 ≤ id ∧ id < 0x2400 then
    if id % 256 = 0x60 ∧ leNat new = 0 then
      s.modProv ((id - 0x2000) / 256) (fun v => { v with shown := false })
    else s
  else if id = 0x5000 then s.noteElection
  else if id = 0x5001 then s.applyPorts
  else if 0x5010 ≤ id ∧ id ≤ 0x5012 then s.topologyChanged
  else if id = 0x6000 then s.enablePads (leNat old) (leNat new)
  else if id = 0x6020 then s.enableOptical
  else if id = 0x6030 then s.enableMbus
  else if id = 0x6031 then s.modPorts (fun p => { p with mbusCycleAt := now })
  else if 0x6100 ≤ id ∧ id < 0x6140 then
    match s.ports.mbusCycle with
    | some (i, _, _) => if i + 0x6100 = id then s.modPorts (fun p => { p with mbusDiscard := true }) else s
    | none => s
  else s

/-- A parameter that Undercoat serves is stored (R342): an equal value changes nothing. -/
def State.storeApp (s : State) (id : Nat) (v : Bytes) : State :=
  let old := s.param id
  if old = v then s.putParam id v
  else if s.waits id then s.putPending id v
  else ((s.putParam id v).bringIntoForce (· == id)).appChanged id old v

/-- A metering point bound as HEAT subtype 1 needs the entry configured (R463). -/
def State.mbusInUse (s : State) (id : Nat) (v : Bytes) : Bool :=
  decide (0x6100 ≤ id ∧ id < 0x6140) && field v 0 1 == 0 && !(s.mbusPoints (id - 0x6100)).isEmpty

/-- The status of a write that Undercoat serves (R341 steps 3 and 4). -/
def State.setAppStatus (s : State) (id size len : Nat) (v : Bytes) : Nat :=
  if len ≠ size ∨ v.length ≠ len then stBadParam
  else if s.param id = v then stDone
  else firstRefusal [s.appStatus id v, need (!s.mbusInUse id v) stDeniedState]

/-- SET_PARAM (R340, R341). -/
def execSetParam (dt : Ticks) (c : Call) (p : Bytes) (s : State) : Host.Outcome State Fault Refusal :=
  let s := s.elapse dt
  let id := field p 0 2
  let v := p.drop 4
  .next (s.onCommand c 0x0104 p (decide (4 ≤ p.length)) 0 (fun f s =>
    match paramInfo id with
    | none => s.reply f stBadParam
    | some i =>
      if i.route ≠ 0 then s.reply f stDeniedState
      else if legalSide id then s.submit f 0x06 p
      else
        let st := s.setAppStatus id i.size (field p 2 2) v
        if st = stDone then (s.storeApp id v).reply f stDone else s.reply f st))

end Sys2Proof.Machine
end

