-- ==== Sys2Proof/Machine/Upkeep.lean ====
section
/-! DEFINITION. The scrubbers of MRAM and SRAM, and the loss and return of the main and DSP clocks (R354,
R364, R366, R520 to R523). -/

namespace Sys2Proof.Machine

/-! ### The MRAM scrubber (R354, R522, R523) -/

/-- The legal parameters: those that the LC stores, and the L-logged ones. -/
def isLegalParam (id : Nat) : Bool :=
  match paramInfo id with
  | none => false
  | some i => legalSide id || i.rule == 2

/-- An uncorrectable word of a legal parameter (R522). -/
def State.faultParam (s : State) (id : Nat) : State :=
  if s.legal.faulted.contains id then s
  else
    let s := s.modLegal (fun l => { l with faulted := l.faulted ++ [id] })
    ((s.openGaps gapFault 0x000B).logEvent 0x10 0x09 0xFF (leBytes 2 id)).postFault 0x000B

/-- An uncorrectable word, by its kind. -/
def State.lostWord (s : State) : ScrubFinding → State
  | .corrected => s
  | .legalParam id => if isLegalParam id && s.legalRuns then s.faultParam id else s
  | .classNParam id =>
    match paramInfo id with
    | none => s
    | some i => if isLegalParam id then s else (s.storeApp id i.initial).postFault 0x000C
  | .auditCounter i v w =>
    if i < 8 then s.modLegal (fun l => { l with badCounters := l.badCounters ++ [⟨i, v, w, l.counter i⟩] }) else s
  | .bankCopy m k =>
    s.modPoint m (fun p =>
      if k = 0 then { p with copyA := { p.copyA with intact := false } }
      else { p with copyB := { p.copyB with intact := false } })
  | .calCopy k =>
    s.modLegal (fun l =>
      if k = 0 then { l with calA := { l.calA with intact := false } }
      else { l with calB := { l.calB with intact := false } })
  | .storeWord k => if k = 1 ∨ k = 2 then (s.rebuildStore k).postFault 0x000C else s
  | .bootRecord k =>
    if k = 2 ∨ k = 3 then (s.modComponent k (fun c => { c with recordBad := true })).postFault 0x000C else s
  | .otherNonLegal w =>
    if 131072 ≤ w then s
    else (s.modMem (fun m => { m with badWords := m.badWords.insert (0x30100000 / 8 + w) })).postFault 0x000C

/-- MRAM_SCRUB (R354): a corrected word is counted; any other is counted and acted upon by its kind. -/
def execMramScrub (dt : Ticks) (finding : ScrubFinding) (s : State) : Host.Outcome State Fault Refusal :=
  let s := s.elapse dt
  .next (if s.boot.held then s
    else if finding = .corrected then s.bump 2
    else (s.bump 3).lostWord finding)

/-! ### The SRAM scrubber (R364, R366) -/

/-- The address of a line: 512 KiB of legal SRAM, then 4 MiB of system SRAM. -/
def sramLineAddr (line : Nat) : Nat :=
  if line < 16384 then 0x10000000 + 32 * line else 0x20000000 + 32 * (line - 16384)

/-- SRAM_SCRUB_LINE (R366). -/
def execSramScrubLine (dt : Ticks) (line : Nat) (finding : LineFinding) (s : State) :
    Host.Outcome State Fault Refusal :=
  let s := s.elapse dt
  let a := sramLineAddr line
  .next (if s.boot.held || 147456 ≤ line then s
    else
      match finding with
      | .good => s
      | .corrected => if s.mem.isPoisoned a then s else s.bump 0
      | .fails => if s.mem.isPoisoned a then s else (s.modMem (·.poison a)).bump 1)

/-! ### MAIN_CLOCK (R521) -/

/-- Every fabric link goes down and every port is off. -/
def State.linksOff (s : State) : State := (upTo 3).foldl (fun s i => s.setPort i false) s

/-- M-Bus and the optical port go idle. -/
def State.portsIdle (s : State) : State :=
  let s := if s.ports.optState = 3 then s.endRilfy else s.cutReadout
  s.modPorts (fun p => { p with mbusCycle := none, mbusDiscard := false })

/-- A FINE time status falls to COARSE and its lock count restarts. -/
def State.fallToCoarse (s : State) : State :=
  if s.ntu.status = .fine then (s.setTimeStatus .coarse).modNtu (fun u => { u with lockCount := 0 }) else s

/-- MAIN_CLOCK_FAULT (R521). -/
def execMainClockFault (dt : Ticks) (s : State) : Host.Outcome State Fault Refusal :=
  let s := s.elapse dt
  .next (if s.ntu.sysSource ≠ .pll ∨ s.boot.mainClockFault = true then s
    else
      let s := (s.bump 27).modBoot (fun b => { b with mainClockFault := true })
      let s := (s.modNtu (fun u => { u with sysSource := .rc, pllLockedAt := none })).fallToCoarse
      let s := if s.legalRuns then s.stopAll gapFault 0x0001 else s
      ((s.linksOff.endSession).portsIdle).postFault 0x0001)

/-- The system domain is on PLL_SYS again. -/
def State.mainClockBack (s : State) : State :=
  let now := s.nodeTime
  let s := (s.modBoot (fun b => { b with mainClockFault := false })).modNtu (fun u => { u with
    sysSource := .pll, pllLockedAt := none })
  let s := if s.legalRuns then (s.restartAll gapFault 0x0001).settleGaps else s
  let s := s.modPorts (fun p => { p with mbusCycleAt := now })
  (if (s.component 3).running && s.acAlive then s.applyPorts else s).startSession

/-- PLL_RESTART_TRY (R521): the lock must hold for 1 s. -/
def execPllRestartTry (dt : Ticks) (locked : Bool) (s : State) : Host.Outcome State Fault Refusal :=
  let s := s.elapse dt
  let now := s.mono
  .next (if !s.boot.mainClockFault then s
    else if !locked then s.modNtu (fun u => { u with pllLockedAt := none })
    else
      match s.ntu.pllLockedAt with
      | none => s.modNtu (fun u => { u with pllLockedAt := some now })
      | some t => if s.since t second then s.mainClockBack else s)

/-! ### DSP_CLOCK (Table 19.2) -/

/-- DSP_CLOCK_FAULT (R520). -/
def execDspClockFault (dt : Ticks) (s : State) : Host.Outcome State Fault Refusal :=
  let s := s.elapse dt
  .next (if s.ntu.sysSource = .stopped ∨ s.ntu.dspLocked = false then s
    else
      let s := (s.bump 27).modNtu (fun u => { u with dspLocked := false })
      let s := if s.legalRuns then s.stopAll gapFault 0x0002 else s
      s.postFault 0x0002)

/-- DSP_CLOCK_RELOCK_TRY (R520). -/
def execDspClockRelockTry (dt : Ticks) (locked : Bool) (s : State) : Host.Outcome State Fault Refusal :=
  let s := s.elapse dt
  .next (if s.ntu.dspLocked || !locked then s
    else
      let s := s.modNtu (fun u => { u with dspLocked := true })
      if s.legalRuns then (s.restartAll gapFault 0x0002).settleGaps else s)

end Sys2Proof.Machine
end

