-- ==== Sys2Proof/Machine/Dispatch.lean ====
section
/-! DEFINITION. One arm per command: each calls its meaning. -/

namespace Sys2Proof.Machine

def exec (i : Instr) (s : State) : Host.Outcome State Fault Refusal :=
  match i with
  | .resetRelease dt env => Sys2Proof.Machine.execResetRelease dt env s
  | .entropyStartRetry dt pass env => Sys2Proof.Machine.execEntropyStartRetry dt pass env s
  | .xtalMainTimeout dt => Sys2Proof.Machine.execXtalMainTimeout dt s
  | .pllLockTimeout dt => Sys2Proof.Machine.execPllLockTimeout dt s
  | .legalStartFail dt env => Sys2Proof.Machine.execLegalStartFail dt env s
  | .appStartFail dt env => Sys2Proof.Machine.execAppStartFail dt env s
  | .brownOut dt rail cut => Sys2Proof.Machine.execBrownOut dt rail cut s
  | .resetPinLow dt widthNs cut => Sys2Proof.Machine.execResetPinLow dt widthNs cut s
  | .mainPowerLoss dt cut => Sys2Proof.Machine.execMainPowerLoss dt cut s
  | .aonPowerUp dt levels => Sys2Proof.Machine.execAonPowerUp dt levels s
  | .aonSupplyLoss dt => Sys2Proof.Machine.execAonSupplyLoss dt s
  | .tamperSample dt levels => Sys2Proof.Machine.execTamperSample dt levels s
  | .retainedDrain dt => Sys2Proof.Machine.execRetainedDrain dt s
  | .displaySequencePhaseEnd dt mismatch => Sys2Proof.Machine.execDisplaySequencePhaseEnd dt mismatch s
  | .lockstepMismatch dt env => Sys2Proof.Machine.execLockstepMismatch dt env s
  | .lcWatchdogExpiry dt env => Sys2Proof.Machine.execLcWatchdogExpiry dt env s
  | .acWatchdogExpiry dt env => Sys2Proof.Machine.execAcWatchdogExpiry dt env s
  | .lcIntegrityFault dt env => Sys2Proof.Machine.execLcIntegrityFault dt env s
  | .acIntegrityFault dt addr env => Sys2Proof.Machine.execAcIntegrityFault dt addr env s
  | .mainClockFault dt => Sys2Proof.Machine.execMainClockFault dt s
  | .pllRestartTry dt locked => Sys2Proof.Machine.execPllRestartTry dt locked s
  | .dspClockFault dt => Sys2Proof.Machine.execDspClockFault dt s
  | .mclkStop dt glitchPs => Sys2Proof.Machine.execMclkStop dt glitchPs s
  | .mclkWindow dt meanPpm periodsOk => Sys2Proof.Machine.execMclkWindow dt meanPpm periodsOk s
  | .mclkReturn dt => Sys2Proof.Machine.execMclkReturn dt s
  | .xoModLost dt => Sys2Proof.Machine.execXoModLost dt s
  | .xoModRestartTry dt runs => Sys2Proof.Machine.execXoModRestartTry dt runs s
  | .modEpoch dt => Sys2Proof.Machine.execModEpoch dt s
  | .slewSecond dt => Sys2Proof.Machine.execSlewSecond dt s
  | .slewClamp dt => Sys2Proof.Machine.execSlewClamp dt s
  | .fineHoldoverExpiry dt => Sys2Proof.Machine.execFineHoldoverExpiry dt s
  | .rtcHourlyWrite dt => Sys2Proof.Machine.execRtcHourlyWrite dt s
  | .counterInputEdge dt cnt rising heldNs => Sys2Proof.Machine.execCounterInputEdge dt cnt rising heldNs s
  | .quadTransition dt cnt a b heldANs heldBNs => Sys2Proof.Machine.execQuadTransition dt cnt a b heldANs heldBNs s
  | .counterLatch dt => Sys2Proof.Machine.execCounterLatch dt s
  | .faOutput dt pch words x3Held => Sys2Proof.Machine.execFaOutput dt pch words x3Held s
  | .lineHoldTimeout dt pch => Sys2Proof.Machine.execLineHoldTimeout dt pch s
  | .lineLockTimeout dt pch => Sys2Proof.Machine.execLineLockTimeout dt pch s
  | .diagBitSet dt pch bit seen => Sys2Proof.Machine.execDiagBitSet dt pch bit seen s
  | .diagBitClear dt pch bit seen => Sys2Proof.Machine.execDiagBitClear dt pch bit seen s
  | .diagSummary dt pch => Sys2Proof.Machine.execDiagSummary dt pch s
  | .syncInEdge dt lowLow highHigh => Sys2Proof.Machine.execSyncInEdge dt lowLow highHigh s
  | .syncAtFire dt afterPs => Sys2Proof.Machine.execSyncAtFire dt afterPs s
  | .analysisCycle dt mp => Sys2Proof.Machine.execAnalysisCycle dt mp s
  | .weighPosition dt mp => Sys2Proof.Machine.execWeighPosition dt mp s
  | .weighTimeout dt mp => Sys2Proof.Machine.execWeighTimeout dt mp s
  | .commitSecond dt => Sys2Proof.Machine.execCommitSecond dt s
  | .calendarActivation dt => Sys2Proof.Machine.execCalendarActivation dt s
  | .keyPress dt key second => Sys2Proof.Machine.execKeyPress dt key second s
  | .showLcvTimeout dt => Sys2Proof.Machine.execShowLcvTimeout dt s
  | .keyStuck dt key => Sys2Proof.Machine.execKeyStuck dt key s
  | .calIdleTimeout dt => Sys2Proof.Machine.execCalIdleTimeout dt s
  | .provUpdate dt mp => Sys2Proof.Machine.execProvUpdate dt mp s
  | .provStabilityPoll dt mp => Sys2Proof.Machine.execProvStabilityPoll dt mp s
  | .harmonicSecond dt mp => Sys2Proof.Machine.execHarmonicSecond dt mp s
  | .gateReadStatus dt => Sys2Proof.Machine.execGateReadStatus dt s
  | .gateReadRegisters dt => Sys2Proof.Machine.execGateReadRegisters dt s
  | .gateSignReading dt => Sys2Proof.Machine.execGateSignReading dt s
  | .gateReadLog dt => Sys2Proof.Machine.execGateReadLog dt s
  | .gateAttest dt => Sys2Proof.Machine.execGateAttest dt s
  | .gateSetParam dt => Sys2Proof.Machine.execGateSetParam dt s
  | .gateSetTime dt => Sys2Proof.Machine.execGateSetTime dt s
  | .gateLoadCalendar dt => Sys2Proof.Machine.execGateLoadCalendar dt s
  | .gateSetOwnerLock dt => Sys2Proof.Machine.execGateSetOwnerLock dt s
  | .gateWeighBegin dt => Sys2Proof.Machine.execGateWeighBegin dt s
  | .gateWeighCommit dt => Sys2Proof.Machine.execGateWeighCommit dt s
  | .gateWeighCancel dt => Sys2Proof.Machine.execGateWeighCancel dt s
  | .calBegin dt => Sys2Proof.Machine.execCalBegin dt s
  | .calZero dt => Sys2Proof.Machine.execCalZero dt s
  | .calCorner dt => Sys2Proof.Machine.execCalCorner dt s
  | .calSpan dt => Sys2Proof.Machine.execCalSpan dt s
  | .calElecRef dt => Sys2Proof.Machine.execCalElecRef dt s
  | .calRref dt => Sys2Proof.Machine.execCalRref dt s
  | .calCommit dt => Sys2Proof.Machine.execCalCommit dt s
  | .calAbort dt => Sys2Proof.Machine.execCalAbort dt s
  | .gateActivateLegal dt => Sys2Proof.Machine.execGateActivateLegal dt s
  | .legalActivationSwitch dt env => Sys2Proof.Machine.execLegalActivationSwitch dt env s
  | .gateSealLogArchive dt => Sys2Proof.Machine.execGateSealLogArchive dt s
  | .gateRegArchive dt => Sys2Proof.Machine.execGateRegArchive dt s
  | .gateReservedCode dt => Sys2Proof.Machine.execGateReservedCode dt s
  | .gateReplyReceive dt => Sys2Proof.Machine.execGateReplyReceive dt s
  | .gateSlotFreeSubmit dt => Sys2Proof.Machine.execGateSlotFreeSubmit dt s
  | .readingDelivery dt => Sys2Proof.Machine.execReadingDelivery dt s
  | .memRead dt addr nwords failing => Sys2Proof.Machine.execMemRead dt addr nwords failing s
  | .memWrite dt addr words failing => Sys2Proof.Machine.execMemWrite dt addr words failing s
  | .spiReservedFrame dt code => Sys2Proof.Machine.execSpiReservedFrame dt code s
  | .spiFrameCut dt cut => Sys2Proof.Machine.execSpiFrameCut dt cut s
  | .registerWrite dt addr words => Sys2Proof.Machine.execRegisterWrite dt addr words s
  | .resetCauseWrite dt value => Sys2Proof.Machine.execResetCauseWrite dt value s
  | .irqStatusWrite dt value => Sys2Proof.Machine.execIrqStatusWrite dt value s
  | .hawkReset dt => Sys2Proof.Machine.execHawkReset dt s
  | .nodeTimeLatch dt addr nwords => Sys2Proof.Machine.execNodeTimeLatch dt addr nwords s
  | .eventLostRead dt nwords => Sys2Proof.Machine.execEventLostRead dt nwords s
  | .bulkDroppedRead dt nwords => Sys2Proof.Machine.execBulkDroppedRead dt nwords s
  | .commandDoorbell dt tail => Sys2Proof.Machine.execCommandDoorbell dt tail s
  | .ringHeadWrite dt ring head => Sys2Proof.Machine.execRingHeadWrite dt ring head s
  | .ringEnable dt ring cfg => Sys2Proof.Machine.execRingEnable dt ring cfg s
  | .ringDisable dt ring cfg => Sys2Proof.Machine.execRingDisable dt ring cfg s
  | .commandTake dt failing => Sys2Proof.Machine.execCommandTake dt failing s
  | .coalesceTimerExpiry dt ring => Sys2Proof.Machine.execCoalesceTimerExpiry dt ring s
  | .rilfyFrameReceive dt port frame => Sys2Proof.Machine.execRilfyFrameReceive dt port frame s
  | .getInfo dt c p => Sys2Proof.Machine.execGetInfo dt c p s
  | .readStatus dt c p => Sys2Proof.Machine.execReadStatus dt c p s
  | .getParam dt c p => Sys2Proof.Machine.execGetParam dt c p s
  | .setParam dt c p => Sys2Proof.Machine.execSetParam dt c p s
  | .getParamInfo dt c p => Sys2Proof.Machine.execGetParamInfo dt c p s
  | .systemReset dt c p env => Sys2Proof.Machine.execSystemReset dt c p env s
  | .ping dt c p => Sys2Proof.Machine.execPing dt c p s
  | .chainInfo dt c p => Sys2Proof.Machine.execChainInfo dt c p s
  | .syncNow dt c p latePs => Sys2Proof.Machine.execSyncNow dt c p latePs s
  | .syncAt dt c p => Sys2Proof.Machine.execSyncAt dt c p s
  | .syncStatus dt c p => Sys2Proof.Machine.execSyncStatus dt c p s
  | .calibrate dt c p => Sys2Proof.Machine.execCalibrate dt c p s
  | .weighBegin dt c p => Sys2Proof.Machine.execWeighBegin dt c p s
  | .weighCommit dt c p => Sys2Proof.Machine.execWeighCommit dt c p s
  | .weighCancel dt c p => Sys2Proof.Machine.execWeighCancel dt c p s
  | .provSamples dt c p => Sys2Proof.Machine.execProvSamples dt c p s
  | .provStatus dt c p => Sys2Proof.Machine.execProvStatus dt c p s
  | .readRegisters dt c p => Sys2Proof.Machine.execReadRegisters dt c p s
  | .signReading dt c p => Sys2Proof.Machine.execSignReading dt c p s
  | .readLog dt c p => Sys2Proof.Machine.execReadLog dt c p s
  | .sealLogArchive dt c p => Sys2Proof.Machine.execSealLogArchive dt c p s
  | .profileRead dt c p => Sys2Proof.Machine.execProfileRead dt c p s
  | .profileStatus dt c p => Sys2Proof.Machine.execProfileStatus dt c p s
  | .readExternal dt c p => Sys2Proof.Machine.execReadExternal dt c p s
  | .regArchive dt c p => Sys2Proof.Machine.execRegArchive dt c p s
  | .getTime dt c p => Sys2Proof.Machine.execGetTime dt c p s
  | .setTime dt c p => Sys2Proof.Machine.execSetTime dt c p s
  | .discipline dt c p => Sys2Proof.Machine.execDiscipline dt c p s
  | .loadCalendar dt c p => Sys2Proof.Machine.execLoadCalendar dt c p s
  | .readCalendar dt c p => Sys2Proof.Machine.execReadCalendar dt c p s
  | .tariffStatus dt c p => Sys2Proof.Machine.execTariffStatus dt c p s
  | .setOwnerLock dt c p => Sys2Proof.Machine.execSetOwnerLock dt c p s
  | .ownerStatus dt c p => Sys2Proof.Machine.execOwnerStatus dt c p s
  | .commSegments dt c p => Sys2Proof.Machine.execCommSegments dt c p s
  | .commDigits dt c p => Sys2Proof.Machine.execCommDigits dt c p s
  | .statusIcons dt c p => Sys2Proof.Machine.execStatusIcons dt c p s
  | .commCommit dt c p => Sys2Proof.Machine.execCommCommit dt c p s
  | .displayStatus dt c p => Sys2Proof.Machine.execDisplayStatus dt c p s
  | .fabricStatus dt c p => Sys2Proof.Machine.execFabricStatus dt c p s
  | .portStatus dt c p => Sys2Proof.Machine.execPortStatus dt c p s
  | .portEnable dt c p => Sys2Proof.Machine.execPortEnable dt c p s
  | .nodeList dt c p => Sys2Proof.Machine.execNodeList dt c p s
  | .routeTable dt c p => Sys2Proof.Machine.execRouteTable dt c p s
  | .installLinkKey dt c p => Sys2Proof.Machine.execInstallLinkKey dt c p s
  | .tunnelSend dt c p => Sys2Proof.Machine.execTunnelSend dt c p s
  | .updateStatus dt c p => Sys2Proof.Machine.execUpdateStatus dt c p s
  | .stageBegin dt c p => Sys2Proof.Machine.execStageBegin dt c p s
  | .stageData dt c p => Sys2Proof.Machine.execStageData dt c p s
  | .stageEnd dt c p => Sys2Proof.Machine.execStageEnd dt c p s
  | .stageAbort dt c p => Sys2Proof.Machine.execStageAbort dt c p s
  | .activate dt c p env => Sys2Proof.Machine.execActivate dt c p env s
  | .readManifest dt c p => Sys2Proof.Machine.execReadManifest dt c p s
  | .attest dt c p => Sys2Proof.Machine.execAttest dt c p s
  | .readCert dt c p => Sys2Proof.Machine.execReadCert dt c p s
  | .ctxOpen dt c p => Sys2Proof.Machine.execCtxOpen dt c p s
  | .ctxUpdate dt c p => Sys2Proof.Machine.execCtxUpdate dt c p s
  | .ctxFinal dt c p => Sys2Proof.Machine.execCtxFinal dt c p s
  | .ctxAbort dt c p => Sys2Proof.Machine.execCtxAbort dt c p s
  | .sign dt c p => Sys2Proof.Machine.execSign dt c p s
  | .verify dt c p => Sys2Proof.Machine.execVerify dt c p s
  | .ecdh dt c p => Sys2Proof.Machine.execEcdh dt c p s
  | .keygen dt c p => Sys2Proof.Machine.execKeygen dt c p s
  | .keyLoad dt c p => Sys2Proof.Machine.execKeyLoad dt c p s
  | .keyErase dt c p => Sys2Proof.Machine.execKeyErase dt c p s
  | .random dt c p => Sys2Proof.Machine.execRandom dt c p s
  | .entropyStatus dt c p => Sys2Proof.Machine.execEntropyStatus dt c p s
  | .captureStart dt c p => Sys2Proof.Machine.execCaptureStart dt c p s
  | .captureStop dt c p => Sys2Proof.Machine.execCaptureStop dt c p s
  | .separationTest dt c p => Sys2Proof.Machine.execSeparationTest dt c p s
  | .diagCounters dt c p => Sys2Proof.Machine.execDiagCounters dt c p s
  | .mbusList dt c p => Sys2Proof.Machine.execMbusList dt c p s
  | .mbusRead dt c p => Sys2Proof.Machine.execMbusRead dt c p s
  | .cryptoJobComplete dt ctx => Sys2Proof.Machine.execCryptoJobComplete dt ctx s
  | .cryptoPreempt dt => Sys2Proof.Machine.execCryptoPreempt dt s
  | .entropyHealthFail dt rct => Sys2Proof.Machine.execEntropyHealthFail dt rct s
  | .entropySourceRestart dt pass => Sys2Proof.Machine.execEntropySourceRestart dt pass s
  | .drbgReseed dt => Sys2Proof.Machine.execDrbgReseed dt s
  | .displayFrameBoundary dt dieTemp => Sys2Proof.Machine.execDisplayFrameBoundary dt dieTemp s
  | .legalImageWrite dt => Sys2Proof.Machine.execLegalImageWrite dt s
  | .legalStale dt => Sys2Proof.Machine.execLegalStale dt s
  | .epdPhaseEnd dt rails => Sys2Proof.Machine.execEpdPhaseEnd dt rails s
  | .epdUpdateEnd dt => Sys2Proof.Machine.execEpdUpdateEnd dt s
  | .readbackMismatch dt output measured => Sys2Proof.Machine.execReadbackMismatch dt output measured s
  | .legalErrorFlash dt => Sys2Proof.Machine.execLegalErrorFlash dt s
  | .vlcdUpdate dt dieTemp => Sys2Proof.Machine.execVlcdUpdate dt dieTemp s
  | .touchScan dt raws => Sys2Proof.Machine.execTouchScan dt raws s
  | .vbatMeasure dt mv => Sys2Proof.Machine.execVbatMeasure dt mv s
  | .vbusValid dt => Sys2Proof.Machine.execVbusValid dt s
  | .vbusInvalid dt => Sys2Proof.Machine.execVbusInvalid dt s
  | .optSignOn dt msg => Sys2Proof.Machine.execOptSignOn dt msg s
  | .optOptionSelect dt msg => Sys2Proof.Machine.execOptOptionSelect dt msg s
  | .optMessageTimeout dt => Sys2Proof.Machine.execOptMessageTimeout dt s
  | .optRilfyIdleTimeout dt => Sys2Proof.Machine.execOptRilfyIdleTimeout dt s
  | .mbusPollCycle dt => Sys2Proof.Machine.execMbusPollCycle dt s
  | .mbusReply dt frame => Sys2Proof.Machine.execMbusReply dt frame s
  | .mbusReplyTimeout dt => Sys2Proof.Machine.execMbusReplyTimeout dt s
  | .quietEnd dt port => Sys2Proof.Machine.execQuietEnd dt port s
  | .helloTimer dt port => Sys2Proof.Machine.execHelloTimer dt port s
  | .helloReceive dt port frame => Sys2Proof.Machine.execHelloReceive dt port frame s
  | .linkSilenceTimeout dt port => Sys2Proof.Machine.execLinkSilenceTimeout dt port s
  | .sessionRenewal dt port => Sys2Proof.Machine.execSessionRenewal dt port s
  | .sessionDeadline dt port => Sys2Proof.Machine.execSessionDeadline dt port s
  | .lsaReceive dt port frame => Sys2Proof.Machine.execLsaReceive dt port frame s
  | .lsaRefresh dt => Sys2Proof.Machine.execLsaRefresh dt s
  | .lsaAgeOut dt nodeId => Sys2Proof.Machine.execLsaAgeOut dt nodeId s
  | .routeCompute dt => Sys2Proof.Machine.execRouteCompute dt s
  | .addressAssign dt => Sys2Proof.Machine.execAddressAssign dt s
  | .electionEvaluate dt => Sys2Proof.Machine.execElectionEvaluate dt s
  | .timeReqTimer dt port => Sys2Proof.Machine.execTimeReqTimer dt port s
  | .timeReqReceive dt port frame => Sys2Proof.Machine.execTimeReqReceive dt port frame s
  | .timeRespSend dt port => Sys2Proof.Machine.execTimeRespSend dt port s
  | .timeRespReceive dt port frame => Sys2Proof.Machine.execTimeRespReceive dt port frame s
  | .fabricDisciplineSecond dt => Sys2Proof.Machine.execFabricDisciplineSecond dt s
  | .tunnelCmdReceive dt port frame => Sys2Proof.Machine.execTunnelCmdReceive dt port frame s
  | .tunnelRespReceive dt port frame => Sys2Proof.Machine.execTunnelRespReceive dt port frame s
  | .tunnelBulkReceive dt port frame => Sys2Proof.Machine.execTunnelBulkReceive dt port frame s
  | .tunnelPieceTimeout dt tunnel => Sys2Proof.Machine.execTunnelPieceTimeout dt tunnel s
  | .tunnelResponseTimeout dt tunnel => Sys2Proof.Machine.execTunnelResponseTimeout dt tunnel s
  | .distributionRepeat dt => Sys2Proof.Machine.execDistributionRepeat dt s
  | .readingReceive dt port frame => Sys2Proof.Machine.execReadingReceive dt port frame s
  | .readingAckReceive dt port frame => Sys2Proof.Machine.execReadingAckReceive dt port frame s
  | .readingResend dt rid => Sys2Proof.Machine.execReadingResend dt rid s
  | .routedFrameForward dt port frame => Sys2Proof.Machine.execRoutedFrameForward dt port frame s
  | .frameReject dt port frame => Sys2Proof.Machine.execFrameReject dt port frame s
  | .portTransmit dt port => Sys2Proof.Machine.execPortTransmit dt port s
  | .dmaSubmit dt ch prio index descs root tables => Sys2Proof.Machine.execDmaSubmit dt ch prio index descs root tables s
  | .dmaPageWalk dt ch failing => Sys2Proof.Machine.execDmaPageWalk dt ch failing s
  | .dmaPreempt dt ch granules => Sys2Proof.Machine.execDmaPreempt dt ch granules s
  | .dmaResume dt ch => Sys2Proof.Machine.execDmaResume dt ch s
  | .dmaAbort dt ch => Sys2Proof.Machine.execDmaAbort dt ch s
  | .dmaChannelDisable dt ch granules => Sys2Proof.Machine.execDmaChannelDisable dt ch granules s
  | .dmaTransferEnd dt ch failing => Sys2Proof.Machine.execDmaTransferEnd dt ch failing s
  | .iommuInvalidate dt page tables => Sys2Proof.Machine.execIommuInvalidate dt page tables s
  | .guardWindowRevoke dt window => Sys2Proof.Machine.execGuardWindowRevoke dt window s
  | .guardWindowRelease dt => Sys2Proof.Machine.execGuardWindowRelease dt s
  | .mramScrub dt finding => Sys2Proof.Machine.execMramScrub dt finding s
  | .sramScrubLine dt line finding => Sys2Proof.Machine.execSramScrubLine dt line finding s
  | .flashEraseComplete dt sector good => Sys2Proof.Machine.execFlashEraseComplete dt sector good s
  | .flashProgramComplete dt => Sys2Proof.Machine.execFlashProgramComplete dt s
  | .archiveHeadCommit dt => Sys2Proof.Machine.execArchiveHeadCommit dt s
  | .captureRecord dt pch => Sys2Proof.Machine.execCaptureRecord dt pch s
  | .nonlegalActivationTimeout dt env => Sys2Proof.Machine.execNonlegalActivationTimeout dt env s
  | .legalActivationTimeout dt env => Sys2Proof.Machine.execLegalActivationTimeout dt env s
  | .trialConfirm dt component => Sys2Proof.Machine.execTrialConfirm dt component s
  | .trialWatchdogExpiry dt component env => Sys2Proof.Machine.execTrialWatchdogExpiry dt component env s
  | .mainPowerReturn dt => Sys2Proof.Machine.execMainPowerReturn dt s
  | .keyRelease dt key => Sys2Proof.Machine.execKeyRelease dt key s
  | .dspClockRelockTry dt locked => Sys2Proof.Machine.execDspClockRelockTry dt locked s
  | .registerListScreenEnd dt => Sys2Proof.Machine.execRegisterListScreenEnd dt s
  | .screenHalfSwitch dt => Sys2Proof.Machine.execScreenHalfSwitch dt s
  | .optReadoutEnd dt => Sys2Proof.Machine.execOptReadoutEnd dt s
  | .ringStatusWrite dt ring value => Sys2Proof.Machine.execRingStatusWrite dt ring value s
  | .activateResponseDiscard dt => Sys2Proof.Machine.execActivateResponseDiscard dt s

end Sys2Proof.Machine
end

