-- ==== Sys2Proof/Safety.lean ====
section
/-! DEFINITION. What the claims are stated in: a safe run, the invariant of the part, and which parts of
the state a command leaves alone. -/

namespace Sys2Proof

/-- `n` steps from `s` each answer a next state. -/
def safeRun : Nat → Machine.State → Prop
  | 0, _ => True
  | n + 1, s => ∃ t, Machine.step s = .next t ∧ safeRun n t

namespace Machine

/-! ### The invariant -/

/-- The legal logs keep their bounds: 1,024 entries in the event log and 48 bits of ELSEQ in each word of its rotation
(R215, R216, R355), 256 entries in the seal log and 16 bits of MISSED (R217). -/
structure Legal.Bounded (l : Legal) : Prop where
  events : l.eventLog.length ≤ 1024
  elseq : ∀ w ∈ l.elseqWords.words, w.2.2 ≤ 0xFFFFFFFFFFFF
  seals : l.sealLog.length ≤ 256
  missed : l.missed ≤ 65535

/-- The always-on domain keeps its bounds: 64 retained entries (R57), a 32-bit RTC_SEC and a 15-bit
fraction (R84), a 10-bit signed trim (R85). -/
structure AlwaysOn.Bounded (a : AlwaysOn) : Prop where
  buffer : a.buffer.length ≤ 64
  sec : a.rtcSec < 4294967296
  frac : a.rtcFrac < 32768
  trim : -512 ≤ a.trim ∧ a.trim ≤ 511

/-- The next GSEQ is a 32-bit number and not 0, which marks unsolicited replies (R27, R28). -/
def Gate.Bounded (g : Gate) : Prop := 0 < g.nextGseq ∧ g.nextGseq < 4294967296

/-- The invariant of the part: the physical memory has its canonical form; the logs, the always-on domain
and GSEQ keep their bounds; and there are 16 channels and 16 counters (R100, R115), four metering points
(R17), four rings (Table 11.6), three fabric ports (R393) and four components (R49). -/
structure State.Inv (s : State) : Prop where
  mem : Memory.wf s.mem.cells = true
  logs : s.legal.Bounded
  aon : s.aon.Bounded
  gate : s.gate.Bounded
  channels : s.channels.length = 16
  counters : s.counters.length = 16
  points : s.points.length = 4
  rings : s.hawk.rings.length = 4
  ports : s.fabric.ports.length = 3
  components : s.boot.components.length = 4

/-! ### Commands of Undercoat's table -/

/-- What a row of Tables 12.1 to 12.11 says: the time before it, its command, its opcode and its payload. -/
structure HostRow where
  dt : Ticks
  call : Call
  opcode : Nat
  payload : Bytes
  deriving DecidableEq, Repr

/-- The row of a command that the host, the service tool, the optical head or the fabric sends; none for an
event and for a row of another interface. -/
def hostRow : Instr → Option HostRow
  | .getInfo dt c p => some ⟨dt, c, 0x0101, p⟩
  | .readStatus dt c p => some ⟨dt, c, 0x0102, p⟩
  | .getParam dt c p => some ⟨dt, c, 0x0103, p⟩
  | .setParam dt c p => some ⟨dt, c, 0x0104, p⟩
  | .getParamInfo dt c p => some ⟨dt, c, 0x0105, p⟩
  | .systemReset dt c p _ => some ⟨dt, c, 0x0106, p⟩
  | .ping dt c p => some ⟨dt, c, 0x0107, p⟩
  | .chainInfo dt c p => some ⟨dt, c, 0x0201, p⟩
  | .syncNow dt c p _ => some ⟨dt, c, 0x0202, p⟩
  | .syncAt dt c p => some ⟨dt, c, 0x0203, p⟩
  | .syncStatus dt c p => some ⟨dt, c, 0x0204, p⟩
  | .calibrate dt c p => some ⟨dt, c, 0x0205, p⟩
  | .weighBegin dt c p => some ⟨dt, c, 0x0301, p⟩
  | .weighCommit dt c p => some ⟨dt, c, 0x0302, p⟩
  | .weighCancel dt c p => some ⟨dt, c, 0x0303, p⟩
  | .provSamples dt c p => some ⟨dt, c, 0x0304, p⟩
  | .provStatus dt c p => some ⟨dt, c, 0x0305, p⟩
  | .readRegisters dt c p => some ⟨dt, c, 0x0401, p⟩
  | .signReading dt c p => some ⟨dt, c, 0x0402, p⟩
  | .readLog dt c p => some ⟨dt, c, 0x0403, p⟩
  | .sealLogArchive dt c p => some ⟨dt, c, 0x0404, p⟩
  | .profileRead dt c p => some ⟨dt, c, 0x0405, p⟩
  | .profileStatus dt c p => some ⟨dt, c, 0x0406, p⟩
  | .readExternal dt c p => some ⟨dt, c, 0x0407, p⟩
  | .regArchive dt c p => some ⟨dt, c, 0x0408, p⟩
  | .getTime dt c p => some ⟨dt, c, 0x0501, p⟩
  | .setTime dt c p => some ⟨dt, c, 0x0502, p⟩
  | .discipline dt c p => some ⟨dt, c, 0x0503, p⟩
  | .loadCalendar dt c p => some ⟨dt, c, 0x0504, p⟩
  | .readCalendar dt c p => some ⟨dt, c, 0x0505, p⟩
  | .tariffStatus dt c p => some ⟨dt, c, 0x0506, p⟩
  | .setOwnerLock dt c p => some ⟨dt, c, 0x0507, p⟩
  | .ownerStatus dt c p => some ⟨dt, c, 0x0508, p⟩
  | .commSegments dt c p => some ⟨dt, c, 0x0601, p⟩
  | .commDigits dt c p => some ⟨dt, c, 0x0602, p⟩
  | .statusIcons dt c p => some ⟨dt, c, 0x0603, p⟩
  | .commCommit dt c p => some ⟨dt, c, 0x0604, p⟩
  | .displayStatus dt c p => some ⟨dt, c, 0x0605, p⟩
  | .fabricStatus dt c p => some ⟨dt, c, 0x0701, p⟩
  | .portStatus dt c p => some ⟨dt, c, 0x0702, p⟩
  | .portEnable dt c p => some ⟨dt, c, 0x0703, p⟩
  | .nodeList dt c p => some ⟨dt, c, 0x0704, p⟩
  | .routeTable dt c p => some ⟨dt, c, 0x0705, p⟩
  | .installLinkKey dt c p => some ⟨dt, c, 0x0706, p⟩
  | .tunnelSend dt c p => some ⟨dt, c, 0x0707, p⟩
  | .updateStatus dt c p => some ⟨dt, c, 0x0801, p⟩
  | .stageBegin dt c p => some ⟨dt, c, 0x0802, p⟩
  | .stageData dt c p => some ⟨dt, c, 0x0803, p⟩
  | .stageEnd dt c p => some ⟨dt, c, 0x0804, p⟩
  | .stageAbort dt c p => some ⟨dt, c, 0x0805, p⟩
  | .activate dt c p _ => some ⟨dt, c, 0x0806, p⟩
  | .readManifest dt c p => some ⟨dt, c, 0x0807, p⟩
  | .attest dt c p => some ⟨dt, c, 0x0901, p⟩
  | .readCert dt c p => some ⟨dt, c, 0x0902, p⟩
  | .ctxOpen dt c p => some ⟨dt, c, 0x0903, p⟩
  | .ctxUpdate dt c p => some ⟨dt, c, 0x0904, p⟩
  | .ctxFinal dt c p => some ⟨dt, c, 0x0905, p⟩
  | .ctxAbort dt c p => some ⟨dt, c, 0x0906, p⟩
  | .sign dt c p => some ⟨dt, c, 0x0907, p⟩
  | .verify dt c p => some ⟨dt, c, 0x0908, p⟩
  | .ecdh dt c p => some ⟨dt, c, 0x0909, p⟩
  | .keygen dt c p => some ⟨dt, c, 0x090A, p⟩
  | .keyLoad dt c p => some ⟨dt, c, 0x090B, p⟩
  | .keyErase dt c p => some ⟨dt, c, 0x090C, p⟩
  | .random dt c p => some ⟨dt, c, 0x090D, p⟩
  | .entropyStatus dt c p => some ⟨dt, c, 0x090E, p⟩
  | .captureStart dt c p => some ⟨dt, c, 0x0A01, p⟩
  | .captureStop dt c p => some ⟨dt, c, 0x0A02, p⟩
  | .separationTest dt c p => some ⟨dt, c, 0x0A03, p⟩
  | .diagCounters dt c p => some ⟨dt, c, 0x0A04, p⟩
  | .mbusList dt c p => some ⟨dt, c, 0x0A05, p⟩
  | .mbusRead dt c p => some ⟨dt, c, 0x0A06, p⟩
  | _ => none

/-- LENGTH of a request whose fields have one size (Tables 12.1 to 12.11); none where a field's size varies. -/
def requestLength (opcode : Nat) : Option Nat :=
  ([(0x0101, 0), (0x0102, 2), (0x0103, 2), (0x0105, 2), (0x0106, 4), (0x0201, 1), (0x0202, 0), (0x0203, 8),
    (0x0204, 0), (0x0205, 20), (0x0301, 16), (0x0302, 2), (0x0303, 1), (0x0305, 1)] ++
   [(0x0401, 4), (0x0402, 8), (0x0403, 12), (0x0404, 32), (0x0405, 16), (0x0406, 1), (0x0407, 1), (0x0408, 36),
    (0x0501, 0), (0x0502, 80), (0x0503, 16), (0x0504, 1988), (0x0505, 1), (0x0506, 0), (0x0507, 72)] ++
   [(0x0508, 0), (0x0601, 12), (0x0602, 20), (0x0603, 8), (0x0604, 1), (0x0605, 0), (0x0701, 0), (0x0702, 1),
    (0x0703, 2), (0x0704, 4), (0x0705, 4), (0x0706, 36), (0x0801, 0), (0x0802, 12), (0x0804, 1)] ++
   [(0x0805, 1), (0x0806, 1), (0x0807, 2), (0x0901, 32), (0x0902, 4), (0x0903, 16), (0x0906, 1), (0x0907, 36),
    (0x0908, 164), (0x0909, 68), (0x090A, 4), (0x090B, 36), (0x090C, 1), (0x090D, 2), (0x090E, 0)] ++
   [(0x0A01, 8), (0x0A02, 0), (0x0A03, 0), (0x0A04, 4), (0x0A05, 2), (0x0A06, 1)]).lookup opcode

/-- The result of a command whose result has one size; none where it varies or is empty. -/
def resultSize (opcode : Nat) : Option Nat :=
  ([(0x0101, 48), (0x0105, 8), (0x0201, 32), (0x0202, 8), (0x0203, 8), (0x0204, 32), (0x0301, 4), (0x0302, 16),
    (0x0303, 4), (0x0305, 12), (0x0402, 192), (0x0404, 192), (0x0406, 24), (0x0407, 36), (0x0408, 192)] ++
   [(0x0501, 32), (0x0502, 16), (0x0503, 4), (0x0505, 1936), (0x0506, 32), (0x0508, 8), (0x0605, 16),
    (0x0701, 20), (0x0702, 32), (0x0801, 36), (0x0802, 1), (0x0806, 4), (0x0807, 256), (0x0901, 416)] ++
   [(0x0903, 1), (0x0907, 64), (0x090A, 64), (0x090E, 16), (0x0A01, 8), (0x0A03, 16), (0x0A06, 263)]).lookup opcode

/-- After `dt` the state is `u`; the command `c` of opcode `op` with payload `p` is in flight there as `f`, it
may run, and its room takes a result of `n` bytes (R293, R296). -/
structure Serves (s : State) (dt : Ticks) (u : State) (c : Call) (op : Nat) (p : Bytes) (n : Nat) (f : InFlight) :
    Prop where
  time : s.elapse dt = u
  taken : u.taken c op p = some f
  room : n ≤ f.room

/-- The gate takes a request: a slot is free (R37) and the LC is not in LC_HALT (R518). -/
def State.gateOpen (s : State) : Bool := !s.boot.lcHalt && decide (s.gate.requests.length < 8)

/-- The command `f` as a gate request of code `code` under the next GSEQ (R27, R297). -/
def State.withRequest (s : State) (f : InFlight) (code : Nat) (p : Bytes) : State :=
  { s with
    hawk := { s.hawk with
      inFlight := s.hawk.inFlight.replace f { f with gseq := some s.gate.nextGseq, accepted := true } }
    gate := { s.gate with
      requests := s.gate.requests ++ [⟨s.gate.nextGseq, code, f.call.origin, p, some f.call⟩]
      nextGseq := nextSeq s.gate.nextGseq } }

/-! ### Reading a Skim block (R474 to R476) -/

/-- The quantised error that an unsigned value stands for (R476). -/
def unzigzag (u : Nat) : Int := if u % 2 = 0 then (u / 2 : Nat) else -((u + 1) / 2 : Nat)

/-- What a decoder makes of the values after the warm-up, oldest first; `y` holds the samples before them,
newest first (R475). -/
def restore (pred d : Nat) : List Int → List Nat → List Int
  | _, [] => []
  | y, u :: us =>
    let v := reconstruct d (clamp32 (predict pred y)) (unzigzag u)
    v :: restore pred d (v :: y) us

/-- One code read from a bit stream with Rice parameter `k`, and what is left (R476). -/
def readRice (k : Nat) (l : List Bool) : Option (Nat × List Bool) :=
  let m := min 32 (l.takeWhile id).length
  let w := if m = 32 then 33 else k
  let r := l.drop (if m = 32 then 32 else m + 1)
  if r.length < w then none
  else some ((if m = 32 then 0 else m * 2 ^ k) + ofBits (r.take w), r.drop w)

end Machine

end Sys2Proof
end

