-- ==== Sys2Proof/Certificates/Slice0/Obligations.lean ====
section
/-! DEFINITION. The statements about the part, one for each entry of OBLIGATIONS.json. -/

open Sys2Proof Sys2Proof.Machine

/-! ### The queue, reset and the invariant -/

/-- Log 3: a step runs the command at the front of the queue on the state with the queue's rest, and on an
empty queue the part idles. -/
def Obligations.StepRunsTheFrontCommand : Prop :=
  (∀ (s : State) (c : Instr) (rest : List Instr), s.pending = c :: rest →
    step s = exec c { s with pending := rest }) ∧
  (∀ s : State, s.pending = [] → step s = .next s)

/-- R553: what a GL640 holds as it leaves manufacture, which is the state after reset. -/
def Obligations.ManufactureState : Prop :=
  (∀ i ∈ [State.reset.legal.calcnt, State.reset.legal.cfgcnt, State.reset.legal.tamperSeal,
      State.reset.legal.tamperCover, State.reset.legal.tamperTerm, State.reset.legal.sealsess,
      State.reset.legal.slarch, State.reset.legal.sepFaults, State.reset.legal.ownerCtr], i = 0) ∧
  State.reset.legal.eventLog = [] ∧ State.reset.legal.sealLog = [] ∧ State.reset.legal.missed = 0 ∧
  State.reset.legal.elseq = 0 ∧ State.reset.legal.rseq = 0 ∧ State.reset.legal.aseq = 0 ∧
  State.reset.legal.committedEpoch = 0 ∧
  (∀ m < 4, ∀ k ∈ [(State.reset.point m).copyA, (State.reset.point m).copyB],
    k.intact = true ∧ k.gen = 0 ∧ k.type = 0 ∧ ∀ i, k.regs.getD i 0 = 0) ∧
  (∀ k ∈ [State.reset.legal.calA, State.reset.legal.calB],
    k.intact = true ∧ k.blocks.length = 4 ∧ ∀ b ∈ k.blocks, b = zeros 96) ∧
  (∀ id, State.reset.param id = defaultOf id)

/-- The state after reset meets the invariant. -/
def Obligations.ResetMeetsTheInvariant : Prop := State.reset.Inv

/-- From every state that meets the invariant, a step that answers a next state answers one that meets it. -/
def Obligations.EveryStepKeepsTheInvariant : Prop :=
  ∀ s t : State, s.Inv → step s = .next t → t.Inv

/-- Every command answers a next state from every state: the part never stops (NOTES.md, Stops). -/
def Obligations.EveryCommandAnswersANextState : Prop :=
  ∀ (c : Instr) (s : State), ∃ t, exec c s = .next t

/-! ### Time -/

/-- Log 1, R75, R84, R143: the time before a command moves the NTU, the modulator's clock and the always-on domain, ends
what the last command sent and takes SYNC_OUT low 8 modulator clocks (2 cycles of f_MOD at 6.144 MHz) after its edge,
and nothing else; with the PLL running and no adjustment the accumulator gains 2 + 0x9AAAAAAB / 2^32 ns per system
cycle, without a system clock node time stands; the RTC counts the ticks of its clock where no trim is set, and stands
without power. -/
def Obligations.PassingTimeMovesOnlyTheClocks : Prop :=
  (∀ (s : State) (dt : Ticks),
    s.elapse dt = { s with
      ntu := (s.elapse dt).ntu, modDom := (s.elapse dt).modDom, aon := (s.elapse dt).aon
      sync := { s.sync with outHigh := (s.elapse dt).sync.outHigh }, out := (s.elapse dt).out }) ∧
  (∀ (s : State) (dt : Ticks), s.sync.outHigh = true → s.modDom.source ≠ .stopped → s.modDom.halfRate = false →
    (s.modDom.epochBase + 2 ≤ s.modDom.cycle + dt.mod →
      (s.elapse dt).sync.outHigh = false ∧ (s.elapse dt).out = [.syncOutLow]) ∧
    (s.modDom.cycle + dt.mod < s.modDom.epochBase + 2 →
      (s.elapse dt).sync.outHigh = true ∧ (s.elapse dt).out = [])) ∧
  (∀ (s : State) (dt : Ticks), s.sync.outHigh = false →
    (s.elapse dt).sync.outHigh = false ∧ (s.elapse dt).out = []) ∧
  (∀ (s : State) (dt : Ticks), s.ntu.sysSource = .pll → s.ntu.rateAdj = 0 → s.ntu.slew = 0 →
    (s.elapse dt).ntu.acc = (s.ntu.acc + dt.sys * (2 * 4294967296 + 0x9AAAAAAB)) % 2 ^ 96) ∧
  (∀ (s : State) (dt : Ticks), s.ntu.sysSource = .stopped → 0 ≤ s.ntu.slew → s.ntu.slew < slewLimit →
    s.ntu.acc < 2 ^ 96 → (s.elapse dt).nodeTime = s.nodeTime) ∧
  (∀ (s : State) (dt : Ticks), s.aon.powered = true → s.aon.trim = 0 → s.aon.trimAcc = 0 →
    s.aon.rtcFrac < 32768 → s.aon.rtcSec < 2 ^ 32 →
    (s.elapse dt).aon.rtcSec * 32768 + (s.elapse dt).aon.rtcFrac =
      (s.aon.rtcSec * 32768 + s.aon.rtcFrac + dt.aon) % 2 ^ 47) ∧
  (∀ (s : State) (dt : Ticks), s.aon.powered = false → (s.elapse dt).aon = s.aon)

/-- R78: RATE_ADJ never takes NET_SLEW beyond 60 s in either direction, and takes effect whole while it
stays inside. -/
def Obligations.NetSlewStaysWithinSixtySeconds : Prop :=
  (∀ (s : State) (dt : Ticks), -slewLimit ≤ s.ntu.slew → s.ntu.slew ≤ slewLimit →
    -slewLimit ≤ (s.elapse dt).ntu.slew ∧ (s.elapse dt).ntu.slew ≤ slewLimit) ∧
  (∀ (s : State) (dt : Ticks), s.ntu.slew = slewLimit → 0 ≤ s.ntu.rateAdj →
    (s.elapse dt).ntu.slew = slewLimit) ∧
  (∀ (s : State) (dt : Ticks) (d : Int), d = ((dt.sys * s.ntu.inc : Nat) : Int) * s.ntu.rateAdj / 1000000000 →
    -slewLimit < s.ntu.slew + d → s.ntu.slew + d < slewLimit → (s.elapse dt).ntu.slew = s.ntu.slew + d)

/-! ### Memory -/

/-- Log 13, Table 11.7: in a memory of the canonical form, bytes written read back, every other byte reads as before, the
form is kept, and a cleared range reads as unlisted bytes do (the model's choice where the spec gives no value). The
fields of an entry survive its 64 bytes, for every value that their widths hold. -/
def Obligations.MemoryAndEntriesReadBack : Prop :=
  ((∀ (m : Memory) (a : Nat) (bs : Bytes), m.wf = true →
    (Memory.writeBytes m a bs).readBytes a bs.length = bs ∧ (Memory.writeBytes m a bs).wf = true) ∧
  (∀ (m : Memory) (a x : Nat) (bs : Bytes), x < a ∨ a + bs.length ≤ x →
    (Memory.writeBytes m a bs).read x = m.read x) ∧
  (∀ (m : Memory) (a n x : Nat), m.wf = true →
    (m.clear a n).read x = if a ≤ x ∧ x < a + n then emptyByte x else m.read x)) ∧
  (∀ (op tag flags origin status len : Nat) (p : Bytes),
    op < 65536 → tag < 65536 → flags < 256 → origin < 256 → status < 256 → len < 4294967296 → p.length ≤ 48 →
    (entryBytes op tag flags origin status len 0 p).length = 64 ∧
    (Entry.ofBytes (entryBytes op tag flags origin status len 0 p)).opcode = op ∧
    (Entry.ofBytes (entryBytes op tag flags origin status len 0 p)).tag = tag ∧
    (Entry.ofBytes (entryBytes op tag flags origin status len 0 p)).flags = flags ∧
    (Entry.ofBytes (entryBytes op tag flags origin status len 0 p)).origin = origin ∧
    (Entry.ofBytes (entryBytes op tag flags origin status len 0 p)).status = status ∧
    (Entry.ofBytes (entryBytes op tag flags origin status len 0 p)).length = len ∧
    (len = p.length → (Entry.ofBytes (entryBytes op tag flags origin status len 0 p)).inlinePayload = p))

/-! ### The command processor and the gate -/

/-- R293, R315, R425, log 14: a row of Tables 12.1 to 12.11 whose command is not in flight, or may not run yet, only lets
its time pass; a command whose LENGTH is not the sum of its fields, and one whose room does not take its result, is
answered BAD_PARAM and does nothing else; a staging write of the display is served only once its layer takes writes. -/
def Obligations.HostRowsFollowTheirCommand : Prop :=
  (∀ (i : Instr) (s : State) (r : HostRow), hostRow i = some r →
    (s.elapse r.dt).taken r.call r.opcode r.payload = none → exec i s = .next (s.elapse r.dt)) ∧
  ((∀ (i : Instr) (s : State) (r : HostRow) (f : InFlight) (n : Nat), hostRow i = some r →
    (s.elapse r.dt).taken r.call r.opcode r.payload = some f → requestLength r.opcode = some n →
    (r.opcode ∈ [0x0601, 0x0602, 0x0603] → (s.elapse r.dt).stagingOpen = true) → r.payload.length ≠ n → exec i s = .next ((s.elapse r.dt).respond f stBadParam [])) ∧
  (∀ (i : Instr) (s : State) (r : HostRow) (f : InFlight) (n : Nat), hostRow i = some r →
    (s.elapse r.dt).taken r.call r.opcode r.payload = some f → resultSize r.opcode = some n → f.room < n →
    exec i s = .next ((s.elapse r.dt).respond f stBadParam [])))

/-- R289, R295, R309, Table 11.7: the one final response of a host's command is the 64 bytes of its entry at TAIL of
RESPONSE, which advances by one; the command leaves the processor, and outside Hawk and that entry nothing changes.
While RESPONSE is disabled or full the response is held, and no memory changes. -/
def Obligations.FinalResponsesReachTheHost : Prop :=
  (∀ (s : State) (f : InFlight) (st : Nat) (result : Bytes), Memory.wf s.mem.cells = true →
    s.hawk.rings.length = 4 → f.call.origin = .host → f.bulk = false → f.orphan = false → result.length ≤ 48 →
    s.hawk.resetting = false → (s.ring 1).works = true → (s.ring 1).full = false →
    (s.ring 1).base % 64 = 0 →
    Memory.readBytes (s.respond f st result).mem.cells ((s.ring 1).addr (s.ring 1).tail) 64 =
      entryBytes f.opcode f.tag flagFinal 0 st result.length 0 result ∧
    ((s.respond f st result).ring 1).tail = (s.ring 1).tail + 1 ∧
    ((s.respond f st result).ring 1).head = (s.ring 1).head ∧
    (s.respond f st result).hawk.inFlight = s.hawk.inFlight.erase f ∧
    (∀ a, a < (s.ring 1).addr (s.ring 1).tail ∨ (s.ring 1).addr (s.ring 1).tail + 64 ≤ a →
      Memory.read (s.respond f st result).mem.cells a = Memory.read s.mem.cells a) ∧
    s.respond f st result = { s with hawk := (s.respond f st result).hawk, mem := (s.respond f st result).mem }) ∧
  (∀ (s : State) (f : InFlight) (st : Nat) (result : Bytes), f.call.origin = .host → f.bulk = false →
    f.orphan = false → s.hawk.resetting = false → (s.ring 1).works = false ∨ (s.ring 1).full = true →
    s.respond f st result = s.modHawk (fun h => { h with
      inFlight := h.inFlight.erase f
      heldResponses := h.heldResponses ++
        [entryBytes f.opcode f.tag flagFinal 0 st result.length 0 result] }))

/-- R27, R37, R518: a command whose payload a slot takes (4,080 bytes) becomes a gate request with the next GSEQ, which is
never 0; with eight requests in the gate it is answered BUSY, in LC_HALT FAULT, and a longer payload is BAD_PARAM (log
15): the gate stays as it was. -/
def Obligations.GateTakesEightRequests : Prop :=
  (∀ (s : State) (f : InFlight) (code : Nat) (p : Bytes), p.length ≤ 4080 → s.boot.lcHalt = false →
    s.gate.requests.length < 8 →
    s.submit f code p = { s with
      hawk := { s.hawk with
        inFlight := s.hawk.inFlight.replace f { f with gseq := some s.gate.nextGseq, accepted := true } }
      gate := { s.gate with
        requests := s.gate.requests ++ [⟨s.gate.nextGseq, code, f.call.origin, p, some f.call⟩]
        nextGseq := nextSeq s.gate.nextGseq } }) ∧
  (∀ (s : State) (f : InFlight) (code : Nat) (p : Bytes), p.length ≤ 4080 → s.boot.lcHalt = false →
    8 ≤ s.gate.requests.length →
    s.submit f code p = s.respond f stBusy []) ∧
  (∀ (s : State) (f : InFlight) (code : Nat) (p : Bytes), p.length ≤ 4080 → s.boot.lcHalt = true →
    s.submit f code p = s.respond f stFault []) ∧
  (∀ (s : State) (f : InFlight) (code : Nat) (p : Bytes), 4080 < p.length →
    s.submit f code p = s.respond f stBadParam []) ∧
  (∀ (s : State) (f : InFlight) (st : Nat) (b : Bytes), (s.respond f st b).gate = s.gate) ∧
  (∀ n : Nat, 0 < nextSeq n ∧ (n + 1 < 4294967296 → nextSeq n = n + 1))

/-- R215 to R217, Table 8.6: an event-log entry takes the next sequence number and stands first, the oldest of 1,024
gives way, and of the legal core only the log and its number change; an entry is 48 bytes. The seal log never
overwrites; its last 8 entries take only SEAL/OPEN, SEAL/CLOSE and LOG/ARCHIVE; an entry that finds no place counts in
MISSED, which saturates. -/
def Obligations.LogsKeepTheirBounds : Prop :=
  ((∀ (s : State) (time cls code origin mp : Nat) (rtc : Bool) (data : Bytes),
    (s.logAt time rtc cls code origin mp data).legal = { s.legal with
      eventLog := (⟨s.legal.elseq, time, s.logFlags rtc, cls, code, origin, mp, padTo 24 data⟩ ::
        s.legal.eventLog).take 1024
      elseqWords := (s.logAt time rtc cls code origin mp data).legal.elseqWords } ∧
    (s.logAt time rtc cls code origin mp data).legal.elseq = min (s.legal.elseq + 1) 0xFFFFFFFFFFFF) ∧
  (∀ (s : State) (time cls code origin mp : Nat) (rtc : Bool) (data : Bytes),
    s.logAt time rtc cls code origin mp data = { s with
      legal := (s.logAt time rtc cls code origin mp data).legal
      gate := (s.logAt time rtc cls code origin mp data).gate }) ∧
  (∀ (s : State) (time cls code origin mp : Nat) (rtc : Bool) (data : Bytes), s.ready = false →
    (s.logAt time rtc cls code origin mp data).gate = s.gate) ∧
  (∀ e : LogEntry, e.toBytes.length = 48)) ∧
  ((∀ (s : State) (time cls code origin mp : Nat) (rtc : Bool) (data : Bytes),
    s.legal.sealLog.length < 248 ∨
      (s.legal.sealLog.length < 256 ∧ (cls = 3 ∨ (cls = 0x10 ∧ code = 1))) →
    s.sealLogAt time rtc cls code origin mp data = s.modLegal (fun l => { l with
      sealLog := ⟨s.legal.sealLog.length, time, s.logFlags rtc, cls, code, origin, mp, padTo 24 data⟩ ::
        l.sealLog })) ∧
  (∀ (s : State) (time cls code origin mp : Nat) (rtc : Bool) (data : Bytes),
    s.legal.sealLog.length = 256 ∨
      (248 ≤ s.legal.sealLog.length ∧ cls ≠ 3 ∧ ¬(cls = 0x10 ∧ code = 1)) →
    s.sealLogAt time rtc cls code origin mp data = s.modLegal (fun l => { l with
      missed := min 65535 (l.missed + 1) })))

/-! ### Host commands that the gate serves -/

/-- R297, R318, R340, Tables 12.1 to 12.9: each command that the LC serves becomes one gate request with the code that
its row names and its payload unchanged, and nothing else of the state moves; WEIGH_BEGIN carries the metering point's
WG_TXN_TIMEOUT in TIMEOUT_S, and a SET_PARAM of a legal-side ID goes to the LC unchecked. -/
def Obligations.HostCommandsBecomeGateRequests : Prop :=
  ((∀ (s u : State) (dt : Ticks) (c : Call) (p : Bytes) (f : InFlight), Serves s dt u c 0x0102 p (extSizes.getD (field p 0 1) 0) f →
    u.gateOpen = true → p.length = 2 →
    exec (.readStatus dt c p) s = .next (u.withRequest f 0x01 p)) ∧
  (∀ (s u : State) (dt : Ticks) (c : Call) (p : Bytes) (f : InFlight), Serves s dt u c 0x0201 p 32 f →
    u.gateOpen = true → p.length = 1 →
    exec (.chainInfo dt c p) s = .next (u.withRequest f 0x01 p)) ∧
  (∀ (s u : State) (dt : Ticks) (c : Call) (p : Bytes) (f : InFlight), Serves s dt u c 0x0205 p 2 f →
    u.gateOpen = true → p.length = 20 → rsv p 3 1 = true →
    exec (.calibrate dt c p) s = .next (u.withRequest f 0x0D p)) ∧
  (∀ (s u : State) (dt : Ticks) (c : Call) (p : Bytes) (f : InFlight), Serves s dt u c 0x0302 p 16 f →
    u.gateOpen = true → p.length = 2 →
    exec (.weighCommit dt c p) s = .next (u.withRequest f 0x0B p)) ∧
  (∀ (s u : State) (dt : Ticks) (c : Call) (p : Bytes) (f : InFlight), Serves s dt u c 0x0303 p 4 f →
    u.gateOpen = true → p.length = 1 →
    exec (.weighCancel dt c p) s = .next (u.withRequest f 0x0C p)) ∧
  (∀ (s u : State) (dt : Ticks) (c : Call) (p : Bytes) (f : InFlight), Serves s dt u c 0x0401 p (16 + 8 * field p 2 2) f →
    u.gateOpen = true → p.length = 4 →
    exec (.readRegisters dt c p) s = .next (u.withRequest f 0x02 p)) ∧
  (∀ (s u : State) (dt : Ticks) (c : Call) (p : Bytes) (f : InFlight), Serves s dt u c 0x0402 p 192 f →
    u.gateOpen = true → p.length = 8 → rsv p 1 1 = true →
    exec (.signReading dt c p) s = .next (u.withRequest f 0x03 p)) ∧
  (∀ (s u : State) (dt : Ticks) (c : Call) (p : Bytes) (f : InFlight), Serves s dt u c 0x0403 p (16 + 48 * field p 2 2) f →
    u.gateOpen = true → p.length = 12 → rsv p 1 1 = true → rsv p 10 2 = true →
    exec (.readLog dt c p) s = .next (u.withRequest f 0x04 p))) ∧
  ((∀ (s u : State) (dt : Ticks) (c : Call) (p : Bytes) (f : InFlight), Serves s dt u c 0x0404 p 192 f →
    u.gateOpen = true → p.length = 32 →
    exec (.sealLogArchive dt c p) s = .next (u.withRequest f 0x0F p)) ∧
  (∀ (s u : State) (dt : Ticks) (c : Call) (p : Bytes) (f : InFlight), Serves s dt u c 0x0408 p 192 f →
    u.gateOpen = true → p.length = 36 → rsv p 1 3 = true →
    exec (.regArchive dt c p) s = .next (u.withRequest f 0x10 p)) ∧
  (∀ (s u : State) (dt : Ticks) (c : Call) (p : Bytes) (f : InFlight), Serves s dt u c 0x0502 p 16 f →
    u.gateOpen = true → p.length = 80 → rsv p 1 1 = true →
    exec (.setTime dt c p) s = .next (u.withRequest f 0x07 p)) ∧
  (∀ (s u : State) (dt : Ticks) (c : Call) (p : Bytes) (f : InFlight), Serves s dt u c 0x0504 p 0 f →
    u.gateOpen = true → p.length = 1988 →
    exec (.loadCalendar dt c p) s = .next (u.withRequest f 0x08 p)) ∧
  (∀ (s u : State) (dt : Ticks) (c : Call) (p : Bytes) (f : InFlight), Serves s dt u c 0x0507 p 0 f →
    u.gateOpen = true → p.length = 72 → rsv p 1 3 = true →
    exec (.setOwnerLock dt c p) s = .next (u.withRequest f 0x09 p)) ∧
  (∀ (s u : State) (dt : Ticks) (c : Call) (p : Bytes) (f : InFlight), Serves s dt u c 0x0901 p 416 f →
    u.gateOpen = true → p.length = 32 →
    exec (.attest dt c p) s = .next (u.withRequest f 0x05 p)) ∧
  (∀ (s u : State) (dt : Ticks) (c : Call) (p : Bytes) (f : InFlight), Serves s dt u c 0x0301 p 4 f →
    u.gateOpen = true → p.length = 16 → rsv p 2 2 = true →
    exec (.weighBegin dt c p) s = .next (u.withRequest f 0x0A
      (overlay p 2 (if field p 0 1 < 4 then u.param (pointId (field p 0 1) 0x41) else [0, 0])))) ∧
  (∀ (s u : State) (dt : Ticks) (c : Call) (p : Bytes) (f : InFlight) (i : ParamInfo),
    Serves s dt u c 0x0104 p 0 f → u.gateOpen = true → 4 ≤ p.length → p.length ≤ 4080 → paramInfo (field p 0 2) = some i →
    i.route = 0 → legalSide (field p 0 2) = true →
    exec (.setParam dt c p) s = .next (u.withRequest f 0x06 p)))

/-! ### System, time and sync commands that Undercoat answers -/

/-- Table 12.1, R317, R339: GET_INFO, PING, GET_PARAM_INFO and GET_PARAM answer DONE with the result that their
row lists and change nothing else, but for the RC fields of TCH_STATE (0x6008); an ID without a parameter is
BAD_PARAM. -/
def Obligations.SystemReadsAnswer : Prop :=
  (∀ (s u : State) (dt : Ticks) (c : Call) (p : Bytes) (f : InFlight), Serves s dt u c 0x0101 p 48 f → p = [] →
    exec (.getInfo dt c p) s = .next (u.respond f stDone
      (leBytes 4 chipId ++ u.boot.versions.flatMap (leBytes 4) ++ leBytes 8 nodeId ++ leBytes 4 u.boot.lcv ++
        leBytes 4 u.bootStageWord ++ leBytes 4 u.boot.warn.toNat ++ leBytes 4 u.boot.cause.toNat))) ∧
  (∀ (s u : State) (dt : Ticks) (c : Call) (p : Bytes) (f : InFlight), Serves s dt u c 0x0107 p p.length f →
    p.length ≤ 48 → exec (.ping dt c p) s = .next (u.respond f stDone p)) ∧
  (∀ (s u : State) (dt : Ticks) (c : Call) (id : Nat) (p : Bytes) (f : InFlight) (i : ParamInfo),
    Serves s dt u c 0x0105 p 8 f → p.length = 2 → field p 0 2 = id → paramInfo id = some i →
    exec (.getParamInfo dt c p) s = .next (u.respond f stDone (leBytes 2 id ++ leBytes 2 i.size ++
      [byte (u.classNow id), byte i.rule, byte i.route, byte (b2n (lookupParam u.params id).isSome)]))) ∧
  (∀ (s u : State) (dt : Ticks) (c : Call) (id : Nat) (p : Bytes) (f : InFlight) (i : ParamInfo),
    Serves s dt u c 0x0103 p (8 + (u.param id).length) f → p.length = 2 → field p 0 2 = id → id ≠ 0x6008 →
    paramInfo id = some i →
    exec (.getParam dt c p) s = .next (u.respond f stDone (leBytes 2 id ++ leBytes 2 (u.param id).length ++
      [byte (u.classNow id), byte (b2n (u.isPending id)), 0, 0] ++ u.param id))) ∧
  (∀ (s u : State) (dt : Ticks) (c : Call) (p : Bytes) (f : InFlight),
    Serves s dt u c 0x0103 p (8 + u.touchState.length) f → p.length = 2 → field p 0 2 = 0x6008 →
    exec (.getParam dt c p) s = .next
      (({ u with ports := { u.ports with pressed := 0, released := 0, recal := 0 } } : State).respond f stDone
        (leBytes 2 0x6008 ++ leBytes 2 u.touchState.length ++
          [byte (u.classNow 0x6008), byte (b2n (u.isPending 0x6008)), 0, 0] ++ u.touchState))) ∧
  (∀ (s u : State) (dt : Ticks) (c : Call) (p : Bytes) (f : InFlight), Serves s dt u c 0x0103 p 8 f →
    p.length = 2 → paramInfo (field p 0 2) = none → (u.valueOf (field p 0 2)).length = 0 →
    exec (.getParam dt c p) s = .next (u.respond f stBadParam []))

/-- R339, R341, R342: a SET_PARAM that Undercoat serves stores its value and answers DONE: an equal value and
a value that waits for its boundary change nothing else; a stored value reads back, and every other
parameter keeps its own. -/
def Obligations.SetParamStoresTheValue : Prop :=
  (∀ (s u : State) (dt : Ticks) (c : Call) (id : Nat) (p : Bytes) (f : InFlight) (i : ParamInfo),
    Serves s dt u c 0x0104 p 0 f → 4 ≤ p.length → field p 0 2 = id → paramInfo id = some i → i.route = 0 →
    legalSide id = false → u.setAppStatus id i.size (field p 2 2) (p.drop 4) = stDone → u.param id = p.drop 4 →
    exec (.setParam dt c p) s = .next ((u.putParam id (p.drop 4)).respond f stDone [])) ∧
  (∀ (s u : State) (dt : Ticks) (c : Call) (id : Nat) (p : Bytes) (f : InFlight) (i : ParamInfo),
    Serves s dt u c 0x0104 p 0 f → 4 ≤ p.length → field p 0 2 = id → paramInfo id = some i → i.route = 0 →
    legalSide id = false → u.setAppStatus id i.size (field p 2 2) (p.drop 4) = stDone → u.param id ≠ p.drop 4 →
    u.waits id = true →
    exec (.setParam dt c p) s = .next ((u.putPending id (p.drop 4)).respond f stDone [])) ∧
  (∀ (s u : State) (dt : Ticks) (c : Call) (id : Nat) (p : Bytes) (f : InFlight) (i : ParamInfo),
    Serves s dt u c 0x0104 p 0 f → 4 ≤ p.length → field p 0 2 = id → paramInfo id = some i → i.route = 0 →
    legalSide id = false → u.setAppStatus id i.size (field p 2 2) (p.drop 4) = stDone → u.param id ≠ p.drop 4 →
    u.waits id = false →
    exec (.setParam dt c p) s = .next ((((u.putParam id (p.drop 4)).bringIntoForce (· == id)).appChanged id
      (u.param id) (p.drop 4)).respond f stDone [])) ∧
  (∀ (s u : State) (dt : Ticks) (c : Call) (p : Bytes) (f : InFlight), Serves s dt u c 0x0104 p 0 f →
    4 ≤ p.length → paramInfo (field p 0 2) = none → exec (.setParam dt c p) s = .next (u.respond f stBadParam [])) ∧
  (∀ (s u : State) (dt : Ticks) (c : Call) (p : Bytes) (f : InFlight) (i : ParamInfo),
    Serves s dt u c 0x0104 p 0 f → 4 ≤ p.length → paramInfo (field p 0 2) = some i → i.route ≠ 0 →
    exec (.setParam dt c p) s = .next (u.respond f stDeniedState [])) ∧
  (∀ (s : State) (id j : Nat) (v : Bytes), (s.putParam id v).param id = v ∧
    (j ≠ id → (s.putParam id v).param j = s.param j) ∧ (s.putPending id v).param id = v ∧
    (s.putPending id v).paramNow id = s.paramNow id)

/-- R320, Table 2.2: SYSTEM_RESET with its CONFIRM answers DONE and resets the part with HOST_CMD alone set in
HW.RESET_CAUSE; every other command in flight is lost, parameters, audit counters and logs stay, and the full
start follows. -/
def Obligations.SystemResetStartsAgain : Prop :=
  ∀ (s u : State) (dt : Ticks) (c : Call) (p : Bytes) (env : StartEnv) (f : InFlight),
    Serves s dt u c 0x0106 p 0 f → p.length = 4 → field p 0 4 = 0xA55A →
    ∃ r, exec (.systemReset dt c p env) s = .next (r.release env) ∧
      r = (u.respond f stDone []).resetChip 7 .none ∧ r.boot.cause = 0x80 ∧ r.boot.held = true ∧
      r.hawk.inFlight = [] ∧ r.params = (u.respond f stDone []).params ∧
      r.legal.eventLog = (u.respond f stDone []).legal.eventLog ∧
      r.legal.sealLog = (u.respond f stDone []).legal.sealLog ∧
      r.legal.calcnt = (u.respond f stDone []).legal.calcnt ∧
      r.legal.cfgcnt = (u.respond f stDone []).legal.cfgcnt

/-- Table 5.12, R145: SYNC_NOW makes an event whose edge lies 81 ns to 122 ns after it, SYNC_AT arms its time, and each is
refused with the status of the table's row, the source not allowed and the hold-off counting as ignored (the order of
the rows, and FAULT while the legal side does not run, are the model's: log 38); SYNC_STATUS reports; an event stands
in LAST_SRC and LAST_E and begins the hold-off with the count of ignored ones at 0. -/
def Obligations.SyncCommandsFollowTable : Prop :=
  (∀ (s u : State) (dt : Ticks) (c : Call) (p : Bytes) (late : Nat) (f : InFlight),
    Serves s dt u c 0x0202 p 8 f → p = [] → u.syncAllowed 2 = true → u.inHoldoff = false →
    u.modDom.source ≠ .stopped → u.legalRuns = true →
    ∃ e, u.nodeTime + 81 ≤ e ∧ e ≤ u.nodeTime + 122 ∧
      exec (.syncNow dt c p late) s = .next ((u.syncEvent 2 e).respond f stDone (leBytes 8 e))) ∧
  (∀ (s u : State) (dt : Ticks) (c : Call) (p : Bytes) (late : Nat) (f : InFlight),
    Serves s dt u c 0x0202 p 8 f → p = [] → u.syncAllowed 2 = false →
    exec (.syncNow dt c p late) s = .next (u.ignoreSync.respond f stDeniedState [])) ∧
  (∀ (s u : State) (dt : Ticks) (c : Call) (p : Bytes) (late : Nat) (f : InFlight),
    Serves s dt u c 0x0202 p 8 f → p = [] → u.syncAllowed 2 = true → u.inHoldoff = true →
    exec (.syncNow dt c p late) s = .next (u.ignoreSync.respond f stBusy [])) ∧
  (∀ (s u : State) (dt : Ticks) (c : Call) (p : Bytes) (late : Nat) (f : InFlight),
    Serves s dt u c 0x0202 p 8 f → p = [] → u.syncAllowed 2 = true → u.inHoldoff = false →
    u.modDom.source = .stopped ∨ u.legalRuns = false →
    exec (.syncNow dt c p late) s = .next (u.respond f stFault [])) ∧
  (∀ (s u : State) (dt : Ticks) (c : Call) (p : Bytes) (f : InFlight), Serves s dt u c 0x0203 p 8 f →
    p.length = 8 → u.syncAllowed 3 = true → u.inHoldoff = false → u.modDom.source ≠ .stopped →
    u.legalRuns = true → u.ntu.status = .fine → u.nodeTime + 100000 ≤ field p 0 8 →
    field p 0 8 ≤ u.nodeTime + 3600000000000 →
    exec (.syncAt dt c p) s = .next (((u.disarmSync.accept f).modSync (fun y => { y with
      armed := some (field p 0 8, c) })).acknowledge f)) ∧
  (∀ (s u : State) (dt : Ticks) (c : Call) (p : Bytes) (f : InFlight), Serves s dt u c 0x0203 p 8 f →
    p.length = 8 →
    (u.syncAllowed 3 = false → exec (.syncAt dt c p) s = .next (u.ignoreSync.respond f stDeniedState [])) ∧
    (u.syncAllowed 3 = true → u.inHoldoff = true →
      exec (.syncAt dt c p) s = .next (u.ignoreSync.respond f stBusy [])) ∧
    (u.syncAllowed 3 = true → u.inHoldoff = false → u.modDom.source = .stopped ∨ u.legalRuns = false →
      exec (.syncAt dt c p) s = .next (u.respond f stFault []))) ∧
  (∀ (s u : State) (dt : Ticks) (c : Call) (p : Bytes) (f : InFlight), Serves s dt u c 0x0203 p 8 f →
    p.length = 8 → u.syncAllowed 3 = true → u.inHoldoff = false → u.modDom.source ≠ .stopped →
    u.legalRuns = true →
    (u.ntu.status ≠ .fine → exec (.syncAt dt c p) s = .next (u.respond f stDeniedState [])) ∧
    (u.ntu.status = .fine → field p 0 8 < u.nodeTime + 100000 →
      exec (.syncAt dt c p) s = .next (u.respond f stTimeout [])) ∧
    (u.ntu.status = .fine → u.nodeTime + 3600000000000 < field p 0 8 →
      exec (.syncAt dt c p) s = .next (u.respond f stBadParam []))) ∧
  (∀ (s u : State) (dt : Ticks) (c : Call) (p : Bytes) (f : InFlight), Serves s dt u c 0x0204 p 32 f → p = [] →
    ∃ armed hold, exec (.syncStatus dt c p) s = .next (u.respond f stDone
        ([byte u.sync.lastSource, byte (b2n u.sync.armed.isSome)] ++ leBytes 2 u.sync.ignored ++ zeros 4 ++
          leBytes 8 u.sync.lastE ++ leBytes 8 armed ++ leBytes 8 hold)) ∧
      (∀ t call, u.sync.armed = some (t, call) → armed = t) ∧ (u.sync.armed = none → armed = 0) ∧
      (u.sync.acceptedAt = none → hold = 0) ∧
      (∀ t, u.sync.acceptedAt = some t → hold = ((t : Int) + 60000000000 + u.ntu.steps).toNat)) ∧
  (∀ (s : State) (src e : Nat), (s.syncEvent src e).sync.lastSource = src ∧ (s.syncEvent src e).sync.lastE = e ∧
    (s.syncEvent src e).sync.acceptedAt = some s.mono ∧ (s.syncEvent src e).sync.ignored = 0) ∧
  (∀ s : State, s.ignoreSync = { s with sync := { s.sync with ignored := min 65535 (s.sync.ignored + 1) } })

/-! ### Weighing, register, time and tariff commands that Undercoat answers -/

/-- Table 12.4, R171, R323: PROV_SAMPLES takes each sample that is at most 500 ms old under its instant and counts the others
as dropped, where the provisional path is enabled with the SPI accelerometer, and is DENIED_STATE elsewhere; PROV_STATUS
reports the shown state, the samples dropped and the weight resets. -/
def Obligations.ProvisionalCommandsAnswer : Prop :=
  (∀ (s u : State) (dt : Ticks) (c : Call) (m n : Nat) (p : Bytes) (f : InFlight), Serves s dt u c 0x0304 p 0 f →
    field p 0 1 = m → field p 1 1 = n → m < 4 → 1 ≤ n → p.length = 16 + 4 * n → rsv p 2 2 = true →
    100000 ≤ field p 12 4 → field p 12 4 ≤ 100000000 → u.pnum (pointId m 0x60) = 1 → u.pnum (pointId m 0x61) = 1 →
    ∃ g : Prov → Prov, exec (.provSamples dt c p) s = .next ((u.modProv m g).respond f stDone []) ∧
      ∀ v : Prov, g v = { v with
          accel := (g v).accel
          lateDropped := min 0xFFFFFFFF (v.lateDropped + (n - ((upTo n).filter (fun i =>
            decide (u.nodeTime ≤ field p 4 8 + i * field p 12 4 + 500 * milli))).length)) } ∧
        (∀ i < n, u.nodeTime ≤ field p 4 8 + i * field p 12 4 + 500 * milli →
          (field p 4 8 + i * field p 12 4, sfield p (16 + 4 * i) 4) ∈ (g v).accel) ∧
        ∀ x ∈ (g v).accel, x ∈ v.accel ∨ ∃ i < n, u.nodeTime ≤ field p 4 8 + i * field p 12 4 + 500 * milli ∧
          x = (field p 4 8 + i * field p 12 4, sfield p (16 + 4 * i) 4)) ∧
  (∀ (s u : State) (dt : Ticks) (c : Call) (m n : Nat) (p : Bytes) (f : InFlight), Serves s dt u c 0x0304 p 0 f →
    field p 0 1 = m → field p 1 1 = n → m < 4 → 1 ≤ n → p.length = 16 + 4 * n → rsv p 2 2 = true →
    100000 ≤ field p 12 4 → field p 12 4 ≤ 100000000 →
    u.pnum (pointId m 0x60) ≠ 1 ∨ u.pnum (pointId m 0x61) ≠ 1 →
    exec (.provSamples dt c p) s = .next (u.respond f stDeniedState [])) ∧
  (∀ (s u : State) (dt : Ticks) (c : Call) (m : Nat) (p : Bytes) (f : InFlight), Serves s dt u c 0x0305 p 12 f →
    p.length = 1 → field p 0 1 = m → m < 4 →
    exec (.provStatus dt c p) s = .next (u.respond f stDone ([byte (b2n (u.point m).prov.shown), 0, 0, 0] ++
      leBytes 4 (u.point m).prov.lateDropped ++ leBytes 4 (u.point m).prov.weightResets)))

/-- Table 12.5, R196, R324: PROFILE_READ answers the stored readings of a metering point from FROM on, at most MAX of them,
with the time of the first one left; PROFILE_STATUS their count, the readings lost (those of sectors that do not parse
among them) and the times of the oldest and newest; READ_EXTERNAL the heat, cold and volume of a HEAT point of subtype 1,
STALE after three polling periods, and DENIED_STATE of any other. -/
def Obligations.RecordReadsAnswer : Prop :=
  (∀ (s u : State) (dt : Ticks) (c : Call) (p : Bytes) (f : InFlight),
    Serves s dt u c 0x0405 p (16 + 192 * field p 2 2) f → p.length = 16 → rsv p 1 1 = true → rsv p 4 4 = true →
    field p 0 1 < 4 → 1 ≤ field p 2 2 → field p 2 2 ≤ 21 →
    ∀ all, all = (u.storedReadings (field p 0 1)).filter (fun b => decide (field p 8 8 ≤ readingTime b)) →
    all ≠ [] →
    exec (.profileRead dt c p) s = .next (u.respond f stDone (leBytes 2 (all.take (field p 2 2)).length ++ zeros 6 ++
      leBytes 8 (((all.drop (field p 2 2)).head?.map readingTime).getD 0) ++ (all.take (field p 2 2)).flatten))) ∧
  (∀ (s u : State) (dt : Ticks) (c : Call) (p : Bytes) (f : InFlight), Serves s dt u c 0x0406 p 24 f →
    p.length = 1 → field p 0 1 < 4 →
    exec (.profileStatus dt c p) s = .next (u.respond f stDone
      (leBytes 4 (u.storedReadings (field p 0 1)).length ++ leBytes 4 (min 0xFFFFFFFF (u.flash.profLost + u.unparsedReadings)) ++
        leBytes 8 ((u.storedReadings (field p 0 1)).head?.elim 0 readingTime) ++
        leBytes 8 ((u.storedReadings (field p 0 1)).getLast?.elim 0 readingTime)))) ∧
  (∀ (s u : State) (dt : Ticks) (c : Call) (m : Nat) (p : Bytes) (f : InFlight), Serves s dt u c 0x0407 p 36 f →
    p.length = 1 → field p 0 1 = m → m < 4 → u.mpType m = typeHeat → u.mpSub m = 1 →
    ∃ flags, exec (.readExternal dt c p) s = .next (u.respond f stDone
        (leBytes 8 ((u.point m).extHeat / 4294967296) ++ leBytes 8 ((u.point m).extCool / 4294967296) ++
          leBytes 8 (u.point m).extVolume ++ leBytes 8 ((u.point m).extLastRead.getD 0) ++ leBytes 4 flags)) ∧
      ((u.point m).extLastRead = none → flags = 3) ∧
      (∀ t, (u.point m).extLastRead = some t →
        flags = if t + 3 * u.pnum 0x6031 * second < u.nodeTime then 3 else 1)) ∧
  (∀ (s u : State) (dt : Ticks) (c : Call) (m : Nat) (p : Bytes) (f : InFlight), Serves s dt u c 0x0407 p 36 f →
    p.length = 1 → field p 0 1 = m → m < 4 → u.mpType m ≠ typeHeat ∨ u.mpSub m ≠ 1 →
    exec (.readExternal dt c p) s = .next (u.respond f stDeniedState []))

/-- Table 12.6, R83, R325 to R327: GET_TIME, READ_CALENDAR, TARIFF_STATUS and OWNER_STATUS answer what their rows list;
DISCIPLINE feeds a measurement at most 2 s old, while the node is no worker, to the control law and answers the RATE_ADJ
after it, and is BAD_PARAM or DENIED_STATE otherwise (which of the two first: log 38); RATE_ADJ stays within
100,000 ppb. -/
def Obligations.TimeCommandsAnswer : Prop :=
  ((∀ (s u : State) (dt : Ticks) (c : Call) (p : Bytes) (f : InFlight), Serves s dt u c 0x0501 p 32 f → p = [] →
    exec (.getTime dt c p) s = .next (u.respond f stDone (leBytes 8 u.nodeTime ++
      [byte u.ntu.status.code, byte (b2n u.dstNow)] ++ u.paramNow 0x3000 ++ sBytes 4 u.ntu.rateAdj ++
      sBytes 8 u.ntu.slewNs ++ [byte (b2n u.aon.rtcValid)] ++ zeros 7))) ∧
  (∀ (s u : State) (dt : Ticks) (c : Call) (p : Bytes) (f : InFlight), Serves s dt u c 0x0505 p 1936 f →
    p = [0] → u.legal.active.state ≠ 0 →
    exec (.readCalendar dt c p) s = .next (u.respond f stDone ([byte u.legal.active.state] ++ zeros 7 ++
      leBytes 8 u.legal.active.at_ ++ u.legal.active.bytes))) ∧
  (∀ (s u : State) (dt : Ticks) (c : Call) (p : Bytes) (f : InFlight), Serves s dt u c 0x0505 p 1936 f →
    p = [1] → u.legal.passive.state = 1 →
    exec (.readCalendar dt c p) s = .next (u.respond f stDone ([1#8] ++ zeros 7 ++ leBytes 8 0 ++
      u.legal.passive.bytes))) ∧
  (∀ (s u : State) (dt : Ticks) (c : Call) (p : Bytes) (f : InFlight), Serves s dt u c 0x0505 p 1936 f →
    (p = [0] ∧ u.legal.active.state = 0) ∨ (p = [1] ∧ u.legal.passive.state = 0) →
    exec (.readCalendar dt c p) s = .next (u.respond f stDone (zeros 1936))) ∧
  (∀ (s u : State) (dt : Ticks) (c : Call) (p : Bytes) (f : InFlight), Serves s dt u c 0x0506 p 32 f → p = [] →
    ∃ at_ next, exec (.tariffStatus dt c p) s = .next (u.respond f stDone ([byte (u.tariffAt u.nodeTime),
        byte (u.pnumNow 0x3010), byte u.tariffSource, 0] ++
        leBytes 4 (if u.legal.active.state = 0 then 0 else field u.legal.active.bytes 4 4) ++
        leBytes 4 (if u.legal.passive.state = 0 then 0 else field u.legal.passive.bytes 4 4) ++
        [byte u.legal.passive.state, 0, 0, 0] ++ leBytes 8 at_ ++ [byte next] ++ zeros 7)) ∧
      (u.tariffSource ≠ 0 → at_ = 0 ∧ next = 0) ∧
      (u.tariffSource = 0 → (∃ k < 2880, at_ = (u.nodeTime / 60000000000 + 1 + k) * 60000000000 ∧
          next = calendarTariff u.legal.active.bytes u.utcOffset (u.nodeTime / 60000000000 + 1 + k) ∧
          next ≠ u.tariffAt u.nodeTime ∧ ∀ j < k, calendarTariff u.legal.active.bytes u.utcOffset
            (u.nodeTime / 60000000000 + 1 + j) = u.tariffAt u.nodeTime) ∨
        (at_ = 0 ∧ next = 0 ∧ ∀ j < 2880, calendarTariff u.legal.active.bytes u.utcOffset
          (u.nodeTime / 60000000000 + 1 + j) = u.tariffAt u.nodeTime))) ∧
  (∀ (s u : State) (dt : Ticks) (c : Call) (p : Bytes) (f : InFlight), Serves s dt u c 0x0508 p 8 f → p = [] →
    exec (.ownerStatus dt c p) s = .next (u.respond f stDone ([byte (b2n !(allZero (u.param 0x8000))),
      byte (u.pnum 0x7000), 0, 0] ++ leBytes 4 u.legal.ownerCtr)))) ∧
  ((∀ (s u : State) (dt : Ticks) (c : Call) (p : Bytes) (f : InFlight), Serves s dt u c 0x0503 p 4 f →
    p.length = 16 → field p 0 8 ≤ u.nodeTime → u.nodeTime ≤ field p 0 8 + 2 * second → u.fabric.role ≠ 1 →
    exec (.discipline dt c p) s = .next ((u.disciplineOffset (sfield p 8 8) (field p 0 8)).respond f stDone
      (sBytes 4 (u.disciplineOffset (sfield p 8 8) (field p 0 8)).ntu.rateAdj))) ∧
  (∀ (s u : State) (dt : Ticks) (c : Call) (p : Bytes) (f : InFlight), Serves s dt u c 0x0503 p 4 f →
    p.length = 16 → u.nodeTime < field p 0 8 ∨ field p 0 8 + 2 * second < u.nodeTime →
    exec (.discipline dt c p) s = .next (u.respond f stBadParam [])) ∧
  (∀ (s u : State) (dt : Ticks) (c : Call) (p : Bytes) (f : InFlight), Serves s dt u c 0x0503 p 4 f →
    p.length = 16 → field p 0 8 ≤ u.nodeTime → u.nodeTime ≤ field p 0 8 + 2 * second → u.fabric.role = 1 →
    exec (.discipline dt c p) s = .next (u.respond f stDeniedState [])) ∧
  (∀ (s : State) (v : Int), -100000 ≤ (s.writeRateAdj v).ntu.rateAdj ∧ (s.writeRateAdj v).ntu.rateAdj ≤ 100000 ∧
    (-100000 ≤ v → v ≤ 100000 → (s.writeRateAdj v).ntu.rateAdj = v)))

/-! ### The display -/

/-- R205, R328, R423, R424: COMM_SEGMENTS, COMM_DIGITS and STATUS_ICONS write their staging copy alone, each of its
segments that they name, and never a segment that the legal mask reserves: a command that would set one is a blocked
attempt of row 5 of Table 8.1, counted and logged once (log 32); COMM_COMMIT marks the layers that it names ready and
waits for the frame boundary, or completes at once while the display is off (log 32); DISPLAY_STATUS answers its row. -/
def Obligations.DisplayCommandsWriteTheStagingCopies : Prop :=
  (∀ (s u : State) (dt : Ticks) (c : Call) (p : Bytes) (f : InFlight), Serves s dt u c 0x0601 p 0 f →
    p.length = 12 → field p 0 1 ≤ 7 → rsv p 1 3 = true →
    (u.pnum 0x4000 = 2 → field p 0 1 = 0 ∧ field p 4 8 < 2 ^ 48) → u.stagingOpen = true →
    ∃ st, exec (.commSegments dt c p) s = .next (((if (upTo 64).any (fun k => bit (field p 4 8) k &&
          u.masked (64 * field p 0 1 + k)) = true then u.blocked 5 else u).modDisplay (fun d => { d with
            commStage := st })).respond f stDone []) ∧
      ∀ i < 512, (i ∈ st ↔ if i / 64 = field p 0 1 ∧ u.masked i = false then bit (field p 4 8) (i % 64) = true
        else i ∈ u.display.commStage)) ∧
  (∀ (s u : State) (dt : Ticks) (c : Call) (p map : Bytes) (f : InFlight) (cells : List Cell) (group : List Nat),
    Serves s dt u c 0x0602 p 0 f → p.length = 20 → field p 0 1 ≤ 7 → rsv p 1 3 = true →
    map = u.param (0x4020 + field p 0 1) → group = indices map 2 (8 * field map 0 1) →
    cellsOf [] (((slice p 4 16).takeWhile (· != 0)).map (·.toNat)) = some cells →
    cells.length ≤ field map 0 1 → u.stagingOpen = true →
    ∃ st, exec (.commDigits dt c p) s = .next (((if (mapCells map 2 cells).any (fun i => group.contains i &&
          u.masked i) = true then u.blocked 5 else u).modDisplay (fun d => { d with
            commStage := st })).respond f stDone []) ∧
      ∀ i < 512, (i ∈ st ↔ if i ∈ group ∧ u.masked i = false then i ∈ mapCells map 2 cells
        else i ∈ u.display.commStage)) ∧
  (∀ (s u : State) (dt : Ticks) (c : Call) (p : Bytes) (f : InFlight) (set clear : Nat → Prop),
    Serves s dt u c 0x0603 p 0 f →
    p.length = 8 → bit (field p 0 4) 31 = false → bit (field p 4 4) 31 = false → u.stagingOpen = true →
    (∀ i, set i ↔ ∃ k < 31, bit (field p 0 4) k = true ∧ u.iconSegment k = i) →
    (∀ i, clear i ↔ ∃ k < 31, bit (field p 4 4) k = true ∧ u.iconSegment k = i) →
    ∃ st v, exec (.statusIcons dt c p) s = .next ((State.modDisplay v (fun d => { d with
          statusStage := st })).respond f stDone []) ∧
      ((∃ i < 512, u.masked i = true ∧ (set i ∨ clear i)) → v = u.blocked 5) ∧
      ((∀ i < 512, u.masked i = true → ¬(set i ∨ clear i)) → v = u) ∧
      ∀ i < 512, (i ∈ st ↔ (i ∈ u.display.statusStage ∨ (u.masked i = false ∧ set i)) ∧
        ¬(u.masked i = false ∧ clear i))) ∧
  (∀ (s u : State) (dt : Ticks) (c : Call) (p : Bytes) (f : InFlight), Serves s dt u c 0x0604 p 0 f →
    p.length = 1 → field p 0 1 ≤ 3 → u.dispMode ≠ 0 →
    exec (.commCommit dt c p) s = .next { u.accept f with display := { u.display with
      commReady := u.display.commReady || bit (field p 0 1) 0
      statusReady := u.display.statusReady || bit (field p 0 1) 1
      commits := u.display.commits ++ [c] } }) ∧
  (∀ (s u : State) (dt : Ticks) (c : Call) (p : Bytes) (f : InFlight), Serves s dt u c 0x0604 p 0 f →
    p = [3] → u.dispMode = 0 →
    exec (.commCommit dt c p) s = .next (({ u with display := { u.display with
      commLive := u.display.commStage, statusLive := u.display.statusStage, commReady := false
      statusReady := false } } : State).respond f stDone [])) ∧
  (∀ (s u : State) (dt : Ticks) (c : Call) (p : Bytes) (f : InFlight), Serves s dt u c 0x0605 p 16 f → p = [] →
    exec (.displayStatus dt c p) s = .next (u.respond f stDone ([byte (u.pnum 0x4000), byte u.dflags] ++
      leBytes 2 (if u.pnum 0x4000 = 2 then 0 else u.display.vlcd) ++ leBytes 4 u.display.frames ++
      sBytes 4 u.display.ledgerMax ++
      [byte (if u.pnum 0x4000 = 1 then 0xFF else u.display.tempBand), 0, 0, 0])))

/-- R425, R426, R441: a frame boundary makes ready staging copies live, keeps the others, ends the commits that waited,
and forms the composite, in which a segment of the legal mask is the legal layer's and any other the commercial one's
where neither an icon nor the provisional field has it; an LCD then runs its next frame or pair of frames, and an EPD an
update of the segments that differ, where the image differs; with the display off, before ALL_ON and during an update
nothing happens. The LC's image and its mask ready the legal layer; 2 s without one the legal layer goes to dashes, which
is logged; with the legal error latched "Err d" shows for 1 s and hides for 4 s. -/
def Obligations.FrameBoundariesComposeTheLayers : Prop :=
  ((∀ (s u v w : State) (dt : Ticks) (temp : Int), s.elapse dt = u → 2 ≤ u.boot.displayPhase → u.dispMode ≠ 0 →
    u.pnum 0x4000 = 1 ∨ u.pnum 0x4000 = 2 → u.display.update = none →
    v = { u with
      inForce := u.inForce.filter (fun e => !decide (0x4000 ≤ e.1 ∧ e.1 < 0x5000))
      display := { u.display with
        legalLive := if u.display.legalReady then u.display.legalStage else u.display.legalLive
        maskLive := if u.display.legalReady then u.display.maskStage else u.display.maskLive
        legalAt := if u.display.legalReady then some u.mono else u.display.legalAt
        commLive := if u.display.commReady then u.display.commStage else u.display.commLive
        statusLive := if u.display.statusReady then u.display.statusStage else u.display.statusLive
        stale := u.display.stale && !u.display.legalReady
        legalReady := false, commReady := false, statusReady := false } } →
    w = { v with display := { v.display with composite := v.target } } →
    exec (.displayFrameBoundary dt temp) s = .next (
      if u.pnum 0x4000 = 1 then w.finishCommits.beginFrame else w.finishCommits.epdBoundary temp)) ∧
  (∀ (s u : State) (dt : Ticks) (temp : Int), s.elapse dt = u →
    u.boot.displayPhase < 2 ∨ u.dispMode = 0 ∨ u.display.update.isSome = true →
    exec (.displayFrameBoundary dt temp) s = .next u) ∧
  (∀ s : State, s.display.commits = [] → s.finishCommits = s) ∧
  (∀ (s : State) (c : Call) (f : InFlight), s.display.commits = [c] → s.accepted c 0x0604 = some f →
    s.finishCommits = (s.modDisplay (fun d => { d with commits := [] })).respond f stDone []) ∧
  (∀ s : State, s.beginFrame = { s with display := { s.display with
    frames := (s.display.frames + s.framesPerBoundary) % 4294967296, frameAt := s.mono } }) ∧
  (∀ (s : State) (temp : Int), s.display.composite ≠ s.display.panel →
    ∃ (a : AlwaysOn) (d : Display) (e : EpdUpdate), s.epdBoundary temp = { s with aon := a, display := d } ∧
      d.update = some e ∧ e.phase = 1 ∧ e.kind ≤ 7 ∧ e.phaseAt = s.mono ∧
      d.totalUpdates = (s.display.totalUpdates + 1) % 4294967296 ∧
      ∀ i < 48, e.classes.getD i 0 = if i ∈ s.display.composite then
          (if i ∈ s.display.panel ∧ s.fullDue = false then 0 else 1)
        else if i ∉ s.display.panel ∧ s.fullDue = false then 0 else 2) ∧
  (∀ (s : State) (i : Nat), 4 ≤ s.boot.displayPhase → (∀ m < 4, (s.point m).prov.shown = false) → i < 512 →
    s.segmentNow i = true →
    (s.masked i = true → (i ∈ s.target ↔ i ∈ s.display.legalLive)) ∧
    (s.masked i = false → i ∈ s.iconSegments → (i ∈ s.target ↔ i ∈ s.display.statusLive)) ∧
    (s.masked i = false → i ∉ s.iconSegments → (i ∈ s.target ↔ i ∈ s.display.commLive)))) ∧
  ((∀ (s u : State) (dt : Ticks), s.elapse dt = u → u.legalRuns = true →
    exec (.legalImageWrite dt) s = .next { u with display := { u.display with
      legalStage := u.legalImage, maskStage := u.param 0x8030, legalReady := true, legalWritten := some u.mono } }) ∧
  (∀ (s u : State) (dt : Ticks), s.elapse dt = u → u.boot.displayPhase = 5 → u.dispMode ≠ 0 →
    u.display.stale = false → (u.display.legalAt.getD u.boot.displayPhaseAt) + 2000000000 ≤ u.mono →
    u.legalRuns = false →
    exec (.legalStale dt) s = .next { u with display := { u.display with
      legalLive := u.legalSegments (dashes u.legalDigits, []), stale := true, staleTime := some u.nodeTime } }) ∧
  (∀ (s u : State) (dt : Ticks), s.elapse dt = u → u.boot.displayPhase = 5 → u.dispMode ≠ 0 →
    u.display.stale = false → (u.display.legalAt.getD u.boot.displayPhaseAt) + 2000000000 ≤ u.mono →
    u.legalRuns = true →
    ∃ v : State, v = { u with display := { u.display with
        legalLive := u.legalSegments (dashes u.legalDigits, []), stale := true, staleTime := none } } ∧
      exec (.legalStale dt) s = .next (v.logEvent 0x0E 0x02 0xFF (leBytes 8 u.nodeTime))) ∧
  (∀ (s u : State) (dt : Ticks), s.elapse dt = u → u.legalRuns = true → u.legal.displayError = true →
    u.legal.errAt + (if u.legal.errShown then 1000000000 else 4000000000) ≤ u.mono →
    exec (.legalErrorFlash dt) s = .next { u with legal := { u.legal with
      errShown := !u.legal.errShown, errAt := u.mono } }))

/-- R432, R435 to R438, R440, R441: the LCD voltage follows the die temperature between 2.5 V and 5.4 V; an EPD phase adds
to each ledger the integral of the rail that its segment was on (Table 15.7), a sample for each 32 ticks, and the update
ends after its phases with a CLOSED record, a compensating pulse following where a ledger calls for one. An output that
reads as expected is left alone, the first mismatch of an output is kept, and a second one in the frame or phase after it
is an error: of an output of the legal layer it latches the legal display error and is logged once, another output only
counts. -/
def Obligations.DriveAndReadbackEvents : Prop :=
  ((∀ (s u : State) (dt : Ticks) (temp : Int), s.elapse dt = u →
    exec (.vlcdUpdate dt temp) s = .next { u with display := { u.display with
      vlcd := if u.dispMode = 1 ∧ 2 ≤ u.boot.displayPhase then u.vlcdAt temp else 0 } }) ∧
  (∀ (s : State) (temp v : Int), v = (s.pnumNow 0x4005 : Int) - 2 * s.pnumNow 0x4006 * (temp - 25) →
    2500 ≤ s.vlcdAt temp ∧ s.vlcdAt temp ≤ 5400 ∧ (2500 ≤ v → v ≤ 5400 → (s.vlcdAt temp : Int) = v)) ∧
  (∀ (s u : State) (dt : Ticks) (rails : List RailSamples) (e : EpdUpdate) (r : Int × Int × Int × Int),
    s.elapse dt = u → u.display.update = some e → e.ended = false →
    e.phaseAt + e.ticks * 1000000000 / 32768 ≤ u.mono →
    r = (railIntegral e.tickOffset e.ticks (rails.map (·.vPlus)), railIntegral e.tickOffset e.ticks (rails.map (·.vMinus)),
      railIntegral e.tickOffset e.ticks (rails.map (·.cPlus)), railIntegral e.tickOffset e.ticks (rails.map (·.cMinus))) →
    ∃ d : Display, exec (.epdPhaseEnd dt rails) s = .next { u with
        display := d, aon := { u.aon with railIntegrals := u.aon.railIntegrals ++ [r] } } ∧
      d.update = some { e with
        phase := if e.kind = 8 then nextBinary e.counts (e.phase + 1) else e.phase + 1, phaseAt := u.mono } ∧
      d.ledger.length = u.display.ledger.length ∧ d.panel = u.display.panel ∧ d.records = u.display.records ∧
      (∀ j < u.display.ledger.length, d.ledger.getD j 0 = clampInt (-2147483648) 2147483647
        (u.display.ledger.getD j 0 + e.level j e.phase r (u.display.recLedger.getD j 0)))) ∧
  (∀ (e : EpdUpdate) (j phase : Nat) (r : Int × Int × Int × Int) (b : Int),
    (e.classes.getD j 0 = 0 → e.level j phase r b = 0) ∧
    (e.classes.getD j 0 = 1 → e.level j phase r b = if phase % 2 = 1 then r.2.1 else r.1) ∧
    (e.classes.getD j 0 = 2 → e.level j phase r b = if phase % 2 = 1 then r.1 else r.2.1)) ∧
  (∀ l : List Int, railIntegral 0 (32 * l.length) l = 32 * l.sum) ∧
  (∀ (s u : State) (dt : Ticks) (e : EpdUpdate), s.elapse dt = u → u.display.update = some e → e.ended = true →
    exec (.epdUpdateEnd dt) s = .next (((u.modDisplay (fun d => { d with
      update := none, panel := if e.kind = 8 then d.panel else d.composite })).writeLedger none).compensate)) ∧
  (∀ s : State, ∃ (r : LedgerRecord) (d : Display), s.writeLedger none = { s with display := d } ∧
    d = { s.display with records := (r :: s.display.records).take 16 } ∧ r.isOpen = false ∧
    r.ledger = s.display.ledger ∧ r.total = s.display.totalUpdates ∧ r.gen = (s.display.recGen + 1) % 4294967296) ∧
  (∀ s : State, (∀ l ∈ s.display.ledger, l.natAbs ≤ 65536) → s.compensate = s) ∧
  (∀ s : State, (∃ l ∈ s.display.ledger, s.pulseTicks l ≠ 0) → ∃ e : EpdUpdate,
    s.compensate.display.update = some e ∧ e.kind = 8 ∧ e.counts = s.display.ledger.map s.pulseTicks)) ∧
  ((∀ (s u : State) (dt : Ticks) (o : Nat) (mv : Int), s.elapse dt = u → u.misreads o mv = false →
    exec (.readbackMismatch dt o mv) s = .next u) ∧
  (∀ (s u : State) (dt : Ticks) (o : Nat) (mv : Int), s.elapse dt = u → u.driven o = true →
    2 ≤ u.boot.displayPhase → u.misreads o mv = true →
    (∀ x ∈ u.display.suspects, x.1 = o → (x.2 + 1) % 4294967296 ≠ u.checkNumber % 4294967296) →
    exec (.readbackMismatch dt o mv) s = .next (u.suspect o u.checkNumber)) ∧
  (∀ (s u v : State) (dt : Ticks) (o k : Nat) (mv : Int), s.elapse dt = u → u.driven o = true →
    4 ≤ u.boot.displayPhase → u.misreads o mv = true → (o, k) ∈ u.display.suspects →
    (k + 1) % 4294967296 = u.checkNumber % 4294967296 → v = u.suspect o u.checkNumber →
    (u.legalOutput o = false → exec (.readbackMismatch dt o mv) s = .next (v.bump 9)) ∧
    (u.legalOutput o = true → u.legalRuns = true → u.legal.errorOutputs.contains o = false →
      exec (.readbackMismatch dt o mv) s =
        .next ((v.latchDisplayError.logEvent 0x0E 0x01 0xFF (leBytes 2 o)).modLegal (fun l => { l with
          errorOutputs := o :: l.errorOutputs }))) ∧
    (u.legalOutput o = true → u.legal.errorOutputs.contains o = true →
      exec (.readbackMismatch dt o mv) s = .next v.latchDisplayError)) ∧
  (∀ (s : State) (o : Nat) (mv : Int), s.dispMode = 1 → 2 ≤ s.boot.displayPhase → s.boot.held = false →
    (s.misreads o mv = true ↔
      s.display.vlcd < 2 * (mv * s.lcdSteps - (s.lcdLevel s.lcdPhase o * s.display.vlcd : Nat)).natAbs)) ∧
  (∀ (s : State) (o n : Nat), s.suspect o n = { s with display := { s.display with
    suspects := (o, n) :: s.display.suspects.filter (fun x => x.1 != o) } }) ∧
  (∀ (s : State), s.legal.displayError = true → s.latchDisplayError = s) ∧
  (∀ (s : State), s.legal.displayError = false →
    s.latchDisplayError.legal = { s.legal with displayError := true, errShown := true, errAt := s.mono } ∧
    s.latchDisplayError.display = s.display ∧ s.latchDisplayError.points = s.points))

/-- R59, R222, R429, R448, R450: the display sequence goes on by one phase at a time, 0.6 s, 0.2 s and 1.5 s long on an
LCD; a display test without a mismatch ends the legal error and one with a mismatch fails it; a key acts once when it goes
down alone, SHOW_LCV going on to its next screen, and not while another is down or waits; a key down for 60 s is
counted once as stuck; the LCV screens end after 5 s, eight-digit values switch halves after 2.5 s, and the register list
shows an entry's identification for 1 s and its value for 5 s, and begins again after its last entry. -/
def Obligations.KeysAndScreens : Prop :=
  ((∀ (s u : State) (dt : Ticks), s.elapse dt = u → u.sequencePhaseOver = true → u.boot.displayPhase ≠ 3 →
    exec (.displaySequencePhaseEnd dt false) s = .next { u with boot := { u.boot with
      displayPhase := u.boot.displayPhase + 1, displayPhaseAt := u.mono } }) ∧
  (∀ (s u : State) (dt : Ticks), s.elapse dt = u → u.sequencePhaseOver = true → u.boot.displayPhase = 3 →
    u.display.testFail = false →
    exec (.displaySequencePhaseEnd dt false) s = .next { u with
      legal := { u.legal with displayError := false, errorOutputs := [], errShown := false }
      boot := { u.boot with displayPhase := 4, displayPhaseAt := u.mono } }) ∧
  (∀ (s u : State) (dt : Ticks) (k : Nat), s.elapse dt = u → u.sequencePhaseOver = true →
    u.boot.displayPhase = k → k = 2 ∨ k = 3 →
    exec (.displaySequencePhaseEnd dt true) s = .next (u.failTest.latchDisplayError.modBoot (fun b => { b with
      displayPhase := k + 1, displayPhaseAt := u.mono }))) ∧
  (∀ s : State, s.failTest = { s with
    display := { s.display with testFail := true }, boot := { s.boot with warn := s.boot.warn ||| 0x20 } }) ∧
  (∀ s : State, s.dispMode = 1 →
    (s.boot.displayPhase = 2 → s.sequencePhaseOver = decide (s.boot.displayPhaseAt + 600000000 ≤ s.mono)) ∧
    (s.boot.displayPhase = 3 → s.sequencePhaseOver = decide (s.boot.displayPhaseAt + 200000000 ≤ s.mono)) ∧
    (s.boot.displayPhase = 4 → s.sequencePhaseOver = decide (s.boot.displayPhaseAt + 1500000000 ≤ s.mono)))) ∧
  ((∀ (s u : State) (dt : Ticks) (k : Nat), s.elapse dt = u → k < 4 → u.legalRuns = true →
    u.legal.keysDown = [false, false, false, false] → u.legal.keysWait = false →
    exec (.keyPress dt k false) s = .next (({ u with legal := { u.legal with
      keysDown := setAt u.legal.keysDown k true, keysAt := setAt u.legal.keysAt k u.mono } } : State).keyFunction
        (field (u.param 0x8040) k 1))) ∧
  (∀ (s u : State) (dt : Ticks) (k : Nat) (second : Bool), s.elapse dt = u → k < 4 → u.legalRuns = true →
    u.legal.keysDown.getD k false = false →
    second = true ∨ u.legal.keysWait = true ∨ (∃ j < u.legal.keysDown.length, j ≠ k ∧ u.legal.keysDown.getD j false = true) →
    exec (.keyPress dt k second) s = .next { u with legal := { u.legal with
      keysDown := setAt u.legal.keysDown k true, keysAt := setAt u.legal.keysAt k u.mono
      keysWait := true } }) ∧
  (∀ s : State, s.keyFunction 3 = { s with legal := { s.legal with
    lcvScreen := (s.legal.lcvScreen + 1) % 4, lowerHalf := false, screenAt := s.mono, regList := []
    regValue := false } }) ∧
  (∀ (s : State) (m : Nat), s.wastePoint = some m →
    s.keyFunction 1 = s.zeroKey m ∧ s.keyFunction 2 = s.tareKey m ∧ s.keyFunction 0 = s) ∧
  (∀ (s u : State) (dt : Ticks) (k : Nat), s.elapse dt = u → k < 4 → u.legalRuns = true →
    exec (.keyRelease dt k) s = .next { u with legal := { u.legal with
      keysDown := setAt u.legal.keysDown k false, keysStuck := setAt u.legal.keysStuck k false
      keysWait := u.legal.keysWait && (setAt u.legal.keysDown k false).any id } }) ∧
  (∀ (s u : State) (dt : Ticks) (k : Nat), s.elapse dt = u → k < 4 → u.legalRuns = true →
    u.legal.keysDown.getD k false = true → u.legal.keysStuck.getD k false = false →
    u.legal.keysAt.getD k 0 + 60000000000 ≤ u.mono →
    exec (.keyStuck dt k) s = .next ((u.bump 11).modLegal (fun l => { l with
      keysStuck := setAt l.keysStuck k true })))) ∧
  ((∀ (s u : State) (dt : Ticks), s.elapse dt = u → u.legalRuns = true → u.legal.lcvScreen ≠ 0 →
    u.legal.screenAt + 5000000000 ≤ u.mono →
    exec (.showLcvTimeout dt) s = .next { u with legal := { u.legal with lcvScreen := 0, lowerHalf := false } }) ∧
  (∀ (s u : State) (dt : Ticks), s.elapse dt = u → u.legalRuns = true →
    u.legal.lcvScreen ≠ 0 ∨ (u.legal.regList ≠ [] ∧ u.legal.regValue = true) →
    u.legalDigits < 8 → u.legal.lowerHalf = false → u.legal.screenAt + 2500000000 ≤ u.mono →
    exec (.screenHalfSwitch dt) s = .next { u with legal := { u.legal with lowerHalf := true } }) ∧
  (∀ (s u : State) (dt : Ticks) (x : Nat × Nat × Nat) (rest : List (Nat × Nat × Nat)), s.elapse dt = u →
    u.legalRuns = true → u.boot.displayPhase = 5 → u.legal.lcvScreen = 0 → u.wastePoint = none →
    u.legal.regList = x :: rest → u.legal.regValue = false → u.legal.screenAt + 1000000000 ≤ u.mono →
    exec (.registerListScreenEnd dt) s = .next { u with legal := { u.legal with
      regValue := true, lowerHalf := false, screenAt := u.mono } }) ∧
  (∀ (s u : State) (dt : Ticks) (x : Nat × Nat × Nat) (rest : List (Nat × Nat × Nat)), s.elapse dt = u →
    u.legalRuns = true → u.boot.displayPhase = 5 → u.legal.lcvScreen = 0 → u.wastePoint = none →
    u.legal.regList = x :: rest → u.legal.regValue = true → u.legal.screenAt + 5000000000 ≤ u.mono →
    exec (.registerListScreenEnd dt) s = .next { u with legal := { u.legal with
      regList := if rest = [] then u.registerList else rest
      regValue := false, lowerHalf := false, screenAt := u.mono } }) ∧
  (∀ (s u : State) (dt : Ticks), s.elapse dt = u →
    u.legalRuns = true → u.boot.displayPhase = 5 → u.legal.lcvScreen = 0 → u.wastePoint = none →
    u.legal.regList = [] →
    exec (.registerListScreenEnd dt) s = .next { u with legal := { u.legal with
      regList := u.registerList, regValue := false, lowerHalf := false, screenAt := u.mono } }))

/-! ### The crypto engine -/

/-- R268, R269, R271, R274, R331: a one-shot command whose fields are in order takes the lowest free context under its
priority, with the key that its slot holds then, and stays accepted until the job ends; with four contexts held it is
BUSY, and without seed material KEYGEN and RANDOM are ENTROPY_FAIL; ECDH and KEYGEN into a link key slot are
DENIED_STATE; CTX_OPEN answers the lowest number that no AC job has. -/
def Obligations.CryptoCommandsTakeAContext : Prop :=
  ((∀ (s u : State) (dt : Ticks) (c : Call) (p : Bytes) (f : InFlight), Serves s dt u c 0x0907 p 64 f →
    p.length = 36 → field p 1 1 ≤ 3 → rsv p 2 2 = true → u.slotType (field p 0 1) [3] = true →
    exec (.sign dt c p) s = .next (u.startJob f (field p 1 1) (.sign (field p 0 1) (p.drop 4)))) ∧
  (∀ (s u : State) (dt : Ticks) (c : Call) (p : Bytes) (f : InFlight), Serves s dt u c 0x0908 p 0 f →
    p.length = 164 → field p 0 1 ≤ 3 → rsv p 1 3 = true → publicKeyOk (slice p 4 64) = true →
    exec (.verify dt c p) s = .next (u.startJob f (field p 0 1)
      (.verify (slice p 4 64) (slice p 68 32) (slice p 100 32) (slice p 132 32)))) ∧
  (∀ (s u : State) (dt : Ticks) (c : Call) (p : Bytes) (f : InFlight), Serves s dt u c 0x0909 p 0 f →
    p.length = 68 → rsv p 3 1 = true → field p 2 1 ≤ 3 → field p 1 1 ≤ 15 →
    u.slotType (field p 0 1) [3] = true → publicKeyOk (p.drop 4) = true → ecPublic (u.scalar (field p 0 1)) ≠ p.drop 4 →
    exec (.ecdh dt c p) s = .next (if field p 1 1 ≤ 2 then u.respond f stDeniedState []
      else u.startJob f (field p 2 1) (.ecdh (field p 0 1) (field p 1 1) (p.drop 4)))) ∧
  (∀ (s u : State) (dt : Ticks) (c : Call) (p : Bytes) (f : InFlight), Serves s dt u c 0x090A p 64 f →
    p.length = 4 → rsv p 2 2 = true → field p 1 1 ≤ 3 → field p 0 1 ≤ 15 →
    exec (.keygen dt c p) s = .next (if field p 0 1 ≤ 2 then u.respond f stDeniedState []
      else if u.crypto.seeded = false then u.respond f stEntropyFail []
      else u.startJob f (field p 1 1) (.keygen (field p 0 1)))) ∧
  (∀ (s u : State) (dt : Ticks) (c : Call) (p : Bytes) (f : InFlight), Serves s dt u c 0x090D p (field p 0 2) f →
    p.length = 2 → 1 ≤ field p 0 2 → field p 0 2 ≤ 4096 →
    exec (.random dt c p) s = .next (if u.crypto.seeded = false then u.respond f stEntropyFail []
      else u.startJob f 0 (.random (field p 0 2)))) ∧
  (∀ (s u : State) (dt : Ticks) (c : Call) (p : Bytes) (f : InFlight), Serves s dt u c 0x0903 p 1 f →
    p.length = 16 → field p 1 1 ≤ 3 → rsv p 3 1 = true →
    (field p 0 1 = 1 ∧ field p 2 1 = 0 ∧ rsv p 4 12 = true) ∨
      ((field p 0 1 = 2 ∨ field p 0 1 = 3) ∧ u.slotType (field p 2 1) [1, 2] = true) →
    ∀ job : CryptoJob, job = (if field p 0 1 = 1 then .sha []
      else .gcm (field p 0 1 == 3) (field p 2 1) (slice p 4 12) [] [] false) →
    (u.crypto.freeContext = none → exec (.ctxOpen dt c p) s = .next (u.respond f stBusy [])) ∧
    ∀ i, u.crypto.freeContext = some i → exec (.ctxOpen dt c p) s =
      .next ((u.openContext i false (field p 1 1) f.call.origin none job).respond f stDone
        [byte u.crypto.freeNumber]))) ∧
  ((∀ (s : State) (f : InFlight) (prio : Nat) (job : CryptoJob),
    (s.crypto.freeContext = none → s.startJob f prio job = s.respond f stBusy []) ∧
    ∀ i, s.crypto.freeContext = some i →
      s.startJob f prio job = (s.accept f).openContext i false prio f.call.origin (some f.call) job) ∧
  (∀ (c : Crypto) (i : Nat), c.freeContext = some i → i < 4 ∧ c.contexts.getD i none = none ∧
    ∀ j < i, c.contexts.getD j none ≠ none) ∧
  (∀ (s : State) (i : Nat) (byLc : Bool) (prio : Nat) (o : Origin) (call : Option Call) (job : CryptoJob),
    s.openContext i byLc prio o call job = { s with crypto := { s.crypto with
      contexts := setAt s.crypto.contexts i (some ⟨byLc, if byLc then i else s.crypto.freeNumber, prio,
        s.crypto.opens, o, call, job, s.jobKey job, 0⟩)
      opens := s.crypto.opens + 1 } }) ∧
  (∀ (s : State) (n : Nat) (k : KeySlot) (digest : Bytes), s.keySlot n = some k →
    s.jobKey (.sign n digest) = k.key))

/-- R268 to R274, Table 12.10: a one-shot job that ends answers its command from the key that its context took and frees
the context, KEYGEN and ECDH filling their slot; a context of the LC that ends takes up a saved job; CTX_UPDATE feeds a
running context of its route and waits while the job is saved; CTX_FINAL closes it with the digest, the tag or the text,
a wrong tag answering INVALID with no plaintext; CTX_ABORT ends a job of its own route. -/
def Obligations.CryptoJobsComplete : Prop :=
  ((∀ (s u : State) (dt : Ticks) (i : Nat) (c : Call) (x : Context) (op : Nat) (f : InFlight), s.elapse dt = u →
    u.crypto.contexts.getD i none = some x → x.byLc = false → x.call = some c → op = x.job.opcode →
    u.accepted c op = some f →
    (∀ n d, x.job = .sign n d → scalarOk (beNat x.key) = true →
      exec (.cryptoJobComplete dt i) s = .next ((u.modCrypto (fun k => { k.place i none with
        lastSuspensions := x.suspensions })).respond f stDone (ecdsaSign (beNat x.key) d))) ∧
    (∀ q d r g, x.job = .verify q d r g →
      exec (.cryptoJobComplete dt i) s = .next ((u.modCrypto (fun k => { k.place i none with
        lastSuspensions := x.suspensions })).respond f
          (if ecdsaVerify q d (r ++ g) then stDone else stInvalid) [])) ∧
    (∀ n dest q, x.job = .ecdh n dest q → scalarOk (beNat x.key) = true →
      exec (.cryptoJobComplete dt i) s =
        .next (((u.putKey dest (some ⟨2, ecdhShared (beNat x.key) q⟩)).modCrypto (fun k => { k.place i none with
          lastSuspensions := x.suspensions })).respond f stDone [])) ∧
    (∀ n, x.job = .keygen n → u.crypto.seeded = true → ∃ d v, 1 ≤ d ∧ d < p256N ∧ v = (u.reseed.drbgBytes 48).2 ∧
      exec (.cryptoJobComplete dt i) s =
        .next (((State.putKey v n (some ⟨3, beBytes 32 d⟩)).modCrypto (fun k => { k.place i none with
          lastSuspensions := x.suspensions })).respond f stDone (ecPublic d))) ∧
    (∀ n, x.job = .random n → u.crypto.seeded = true →
      exec (.cryptoJobComplete dt i) s = .next (((u.drbgBytes n).2.modCrypto (fun k => { k.place i none with
        lastSuspensions := x.suspensions })).respond f stDone (u.drbgBytes n).1))) ∧
  (∀ (s u : State) (dt : Ticks) (i : Nat) (x : Context), s.elapse dt = u →
    u.crypto.contexts.getD i none = some x → x.byLc = true →
    exec (.cryptoJobComplete dt i) s = .next (u.closeContext i) ∧
    (u.crypto.saved = [] → u.closeContext i = u.modCrypto (fun k => k.place i none)) ∧
    ∀ y, u.crypto.saved = [y] →
      u.closeContext i = u.modCrypto (fun k => { k.place i (some y) with saved := [] }))) ∧
  ((∀ (s u : State) (dt : Ticks) (c : Call) (p : Bytes) (f : InFlight) (x : Context) (job : CryptoJob),
    Serves s dt u c 0x0904 p (x.job.feedOutput x.key (field p 1 1) (p.drop 4)).length f → 4 ≤ p.length →
    field p 1 1 ≤ 1 → rsv p 2 2 = true → u.streamOf c.origin (field p 0 1) = some x →
    x.job.feed (field p 1 1) (p.drop 4) = some job →
    (u.crypto.whereIs (field p 0 1) = none → exec (.ctxUpdate dt c p) s = .next u) ∧
    ∀ i, u.crypto.whereIs (field p 0 1) = some i →
      exec (.ctxUpdate dt c p) s = .next ((u.modCrypto (fun k => k.place i (some { x with job := job }))).respond f
        stDone (x.job.feedOutput x.key (field p 1 1) (p.drop 4)))) ∧
  (∀ (d data : Bytes), d.length + data.length ≤ 4294967295 →
    CryptoJob.feed (.sha d) 0 data = some (.sha (d ++ data))) ∧
  (∀ (s u : State) (dt : Ticks) (c : Call) (p : Bytes) (i n : Nat) (f : InFlight) (x : Context) (iv a t : Bytes)
      (b : Bool), u.streamOf c.origin (field p 0 1) = some x → u.crypto.whereIs (field p 0 1) = some i →
    rsv p 1 3 = true →
    (∀ d, x.job = .sha d → Serves s dt u c 0x0905 p 32 f → p.length = 4 →
      exec (.ctxFinal dt c p) s = .next (((u.closeContext i).modCrypto (fun k =>
        { k with lastSuspensions := x.suspensions })).respond f stDone (sha256 d))) ∧
    (x.job = .gcm false n iv a t b → Serves s dt u c 0x0905 p 16 f → p.length = 4 →
      exec (.ctxFinal dt c p) s = .next (((u.closeContext i).modCrypto (fun k =>
        { k with lastSuspensions := x.suspensions })).respond f stDone
          (gcmTag x.key iv a (gcmCrypt x.key iv t)))) ∧
    (x.job = .gcm true n iv a t b → Serves s dt u c 0x0905 p t.length f → p.length = 20 →
      gcmTag x.key iv a t = p.drop 4 →
      exec (.ctxFinal dt c p) s = .next (((u.closeContext i).modCrypto (fun k =>
        { k with lastSuspensions := x.suspensions })).respond f stDone (gcmCrypt x.key iv t))) ∧
    (x.job = .gcm true n iv a t b → Serves s dt u c 0x0905 p t.length f → p.length = 20 →
      gcmTag x.key iv a t ≠ p.drop 4 →
      exec (.ctxFinal dt c p) s = .next ((((u.closeContext i).modCrypto (fun k =>
        { k with lastSuspensions := x.suspensions })).zeroBuffer f t.length).respond f stInvalid []))) ∧
  (∀ (s u : State) (dt : Ticks) (c : Call) (p : Bytes) (f : InFlight) (x : Context), Serves s dt u c 0x0906 p 0 f →
    p.length = 1 → u.crypto.jobOf (field p 0 1) = some x → x.owner = c.origin →
    exec (.ctxAbort dt c p) s = .next (((u.dropJob (field p 0 1)).completeJob x stAborted []).respond f stDone [])))

/-- R272, R331: KEY_LOAD fills and KEY_ERASE empties a key slot 3 to 15 that no open job holds, and no other slot; link
key slots 0 to 2 and held slots are DENIED_STATE; ENTROPY_STATUS answers its row. -/
def Obligations.KeySlotsAreLoadedAndErased : Prop :=
  (∀ (s u : State) (dt : Ticks) (c : Call) (p : Bytes) (f : InFlight), Serves s dt u c 0x090B p 0 f →
    p.length = 36 → rsv p 2 2 = true → 3 ≤ field p 0 1 → field p 0 1 ≤ 15 → keyForm (field p 1 1) (p.drop 4) = true →
    u.slotHeld (field p 0 1) = false →
    exec (.keyLoad dt c p) s = .next ((u.putKey (field p 0 1) (some ⟨field p 1 1,
      if field p 1 1 = 1 then slice p 4 16 else p.drop 4⟩)).respond f stDone [])) ∧
  (∀ (s u : State) (dt : Ticks) (c : Call) (p : Bytes) (f : InFlight), Serves s dt u c 0x090B p 0 f →
    p.length = 36 → rsv p 2 2 = true → keyForm (field p 1 1) (p.drop 4) = true →
    field p 0 1 ≤ 2 ∨ (field p 0 1 ≤ 15 ∧ u.slotHeld (field p 0 1) = true) →
    exec (.keyLoad dt c p) s = .next (u.respond f stDeniedState [])) ∧
  (∀ (s u : State) (dt : Ticks) (c : Call) (p : Bytes) (f : InFlight), Serves s dt u c 0x090C p 0 f →
    p.length = 1 → 3 ≤ field p 0 1 → field p 0 1 ≤ 15 → u.slotHeld (field p 0 1) = false →
    exec (.keyErase dt c p) s = .next ((u.putKey (field p 0 1) none).respond f stDone [])) ∧
  (∀ (s u : State) (dt : Ticks) (c : Call) (p : Bytes) (f : InFlight), Serves s dt u c 0x090C p 0 f →
    p.length = 1 → field p 0 1 ≤ 2 ∨ (field p 0 1 ≤ 15 ∧ u.slotHeld (field p 0 1) = true) →
    exec (.keyErase dt c p) s = .next (u.respond f stDeniedState [])) ∧
  (∀ (s u : State) (dt : Ticks) (c : Call) (p : Bytes) (f : InFlight), Serves s dt u c 0x090E p 16 f → p = [] →
    exec (.entropyStatus dt c p) s = .next (u.respond f stDone ([byte u.entropyFlags, byte u.crypto.fails, 0, 0] ++
      leBytes 4 u.crypto.rctTrips ++ leBytes 4 u.crypto.aptTrips ++ leBytes 4 u.crypto.reseeds))) ∧
  (∀ (s : State) (n : Nat) (k : Option KeySlot), n < s.crypto.slots.length →
    (s.putKey n k).keySlot n = k ∧ ∀ m, m ≠ n → (s.putKey n k).keySlot m = s.keySlot m)

/-- R269, R270, R274, R275: the LC, which holds two contexts at most, takes a free one, or pre-empts a job of the lowest
priority and among equals a hash or GCM job first, which is saved with one more suspension. Raw bits that pass the tests
leave their state; 41 identical ones in a row fail; a trip is counted and ends the seed, the third failure in succession
latching the source off. It restarts 1 s later, seeded where the start-up tests pass; 60 s or 65,536 generates reseed. -/
def Obligations.LcContextsAndTheEntropySource : Prop :=
  ((∀ (s u : State) (dt : Ticks) (i : Nat), s.elapse dt = u → u.legalRuns = true → u.crypto.lcCount < 2 →
    u.crypto.freeContext = some i →
    exec (.cryptoPreempt dt) s = .next (u.openContext i true 3 .host none .legal)) ∧
  (∀ (s u : State) (dt : Ticks) (i : Nat) (x : Context), s.elapse dt = u → u.legalRuns = true →
    u.crypto.lcCount < 2 → u.crypto.freeContext = none → u.crypto.victim = some i →
    u.crypto.contexts.getD i none = some x →
    exec (.cryptoPreempt dt) s = .next ((u.modCrypto (fun k => { k with
      saved := k.saved ++ [{ x with suspensions := min 65535 (x.suspensions + 1) }] })).openContext i true 3 .host
        none .legal)) ∧
  (∀ (s u : State) (dt : Ticks), s.elapse dt = u → 2 ≤ u.crypto.lcCount → exec (.cryptoPreempt dt) s = .next u) ∧
  (∀ (c : Crypto) (i j : Nat) (x y : Context), c.victim = some i → c.contexts.getD i none = some x → j < 4 →
    c.contexts.getD j none = some y → y.byLc = false →
    x.byLc = false ∧ x.prio ≤ y.prio ∧ (x.prio = y.prio → y.job.ecc = false → x.job.ecc = false))) ∧
  ((∀ (s u : State) (dt : Ticks) (bits : List Bool), s.elapse dt = u → u.crypto.seeded = true →
    ((u.crypto.noise.run_ bits).2 = none → exec (.entropyHealthFail dt bits) s = .next (u.modCrypto (fun c => { c with
      noise := (u.crypto.noise.run_ bits).1 }))) ∧
    ∀ rct, (u.crypto.noise.run_ bits).2 = some rct → exec (.entropyHealthFail dt bits) s =
      .next ((((u.modCrypto (fun c => { c with noise := (u.crypto.noise.run_ bits).1 })).bump 26).countTrip
        rct).entropyFailed)) ∧
  (∀ (t : NoiseTests) (b : Bool), (t.run_ (List.replicate 41 b)).2 ≠ none) ∧
  (∀ (s : State) (rct : Bool), s.countTrip rct = s.modCrypto (fun c => { c with
    rctTrips := if rct then min 0xFFFFFFFF (c.rctTrips + 1) else min 0xFFFFFFFF c.rctTrips
    aptTrips := if rct then min 0xFFFFFFFF c.aptTrips else min 0xFFFFFFFF (c.aptTrips + 1) })) ∧
  (∀ s : State, s.entropyFailed.crypto.seeded = false ∧ s.entropyFailed.crypto.entropyFail = true ∧
    s.entropyFailed.crypto.fails = min 255 (s.crypto.fails + 1) ∧ s.entropyFailed.crypto.failedAt = s.mono ∧
    s.entropyFailed.crypto.latched = (s.crypto.latched || decide (2 ≤ s.crypto.fails)) ∧
    s.entropyFailed.crypto.slots = s.crypto.slots ∧ s.entropyFailed.legal = s.legal) ∧
  (∀ (s u v : State) (dt : Ticks) (noise : BitVec 1024), s.elapse dt = u → u.crypto.seeded = false →
    u.crypto.entropyFail = true → u.crypto.latched = false → u.crypto.failedAt + 1000000000 ≤ u.mono →
    v = u.modCrypto (fun c => { c with noise := (startTests noise).1 }) →
    ((startTests noise).2 = none → (∀ i < 3, (u.port i).state ≠ 5) →
      exec (.entropySourceRestart dt noise) s = .next (v.seedDrbg.modCrypto (fun k => { k with
        reseeds := min 4294967295 (k.reseeds + 1) }))) ∧
    ∀ rct, (startTests noise).2 = some rct →
      exec (.entropySourceRestart dt noise) s = .next ((v.bump 26).countTrip rct).entropyFailed) ∧
  (∀ (s u : State) (dt : Ticks) (noise : BitVec 1024), s.elapse dt = u → u.crypto.latched = true →
    exec (.entropySourceRestart dt noise) s = .next u) ∧
  (∀ (s u : State) (dt : Ticks), s.elapse dt = u → u.crypto.seeded = true →
    (65536 ≤ u.crypto.generates ∨ u.crypto.reseedAt + 60000000000 ≤ u.mono) →
    exec (.drbgReseed dt) s = .next u.reseed ∧ u.reseed = { u with crypto := u.reseed.crypto, free := u.free + 1 } ∧
      u.reseed.crypto.generates = 0 ∧ u.reseed.crypto.reseedAt = u.mono ∧
      u.reseed.crypto.reseeds = min 4294967295 (u.crypto.reseeds + 1) ∧
      u.reseed.crypto.contexts = u.crypto.contexts ∧ u.reseed.crypto.slots = u.crypto.slots))

/-! ### Observation: certificates, captures, separation, diagnostics, M-Bus meters -/

/-- Tables 12.10, 12.11, R205, R332, R334, R525: READ_CERT answers the bytes of a certificate from OFFSET on that the room
holds; DIAG_COUNTERS the counters of a range, 0 beyond the list; MBUS_READ the last good reply and its age, or
DENIED_STATE without one; MBUS_LIST 16 bytes for each entry, the state and the age of one that no poll has settled being
open (log 9); SEPARATION_TEST finds the seven rows blocked, each counted, and nothing reached. -/
def Obligations.ObservationCommandsAnswer : Prop :=
  (∀ (s u : State) (dt : Ticks) (c : Call) (p : Bytes) (f : InFlight), Serves s dt u c 0x0902 p 4 f →
    p.length = 4 → field p 0 1 ≤ 5 → rsv p 1 1 = true →
    ∀ der, der = (certificate (field p 0 1)).take 1024 → field p 2 2 < der.length →
    exec (.readCert dt c p) s = .next (u.respond f stDone
      (leBytes 2 der.length ++ [0, 0] ++ (der.drop (field p 2 2)).take (f.room - 4)))) ∧
  (∀ (s u : State) (dt : Ticks) (c : Call) (p : Bytes) (f : InFlight), Serves s dt u c 0x0A04 p (4 * field p 2 2) f →
    p.length = 4 → 1 ≤ field p 2 2 → field p 0 2 + field p 2 2 ≤ 1020 →
    exec (.diagCounters dt c p) s = .next (u.respond f stDone ((upTo (field p 2 2)).flatMap (fun i =>
      leBytes 4 (if field p 0 2 + i < 28 then u.diagCounters.getD (field p 0 2 + i) 0 else 0))))) ∧
  (∀ (s u : State) (dt : Ticks) (c : Call) (p : Bytes) (f : InFlight), Serves s dt u c 0x0A06 p 263 f →
    p.length = 1 → field p 0 1 < 64 → (u.mbusRun (field p 0 1)).raw = none →
    exec (.mbusRead dt c p) s = .next (u.respond f stDeniedState [])) ∧
  (∀ (s u : State) (dt : Ticks) (c : Call) (p raw : Bytes) (f : InFlight) (t : Nat), Serves s dt u c 0x0A06 p 263 f →
    p.length = 1 → field p 0 1 < 64 → (u.mbusRun (field p 0 1)).raw = some raw →
    (u.mbusRun (field p 0 1)).lastOk = some t →
    exec (.mbusRead dt c p) s = .next (u.respond f stDone
      (leBytes 4 ((u.mono - t) / 1000000) ++ leBytes 2 raw.length ++ [0, 0] ++ raw))) ∧
  (∀ (s u : State) (dt : Ticks) (c : Call) (p : Bytes) (f : InFlight), Serves s dt u c 0x0A05 p (16 * field p 1 1) f →
    p.length = 2 → 1 ≤ field p 1 1 → field p 0 1 + field p 1 1 ≤ 64 →
    (∀ i, field p 0 1 ≤ i → i < field p 0 1 + field p 1 1 → (u.mbusRun i).lastOk.isSome = true ∧
      (u.mbusMode i = 0 ∨ (u.mbusRun i).responding.isSome = true)) →
    exec (.mbusList dt c p) s = .next (u.respond f stDone ((upTo (field p 1 1)).flatMap (fun k =>
      [byte (field p 0 1 + k), byte (if u.mbusMode (field p 0 1 + k) = 0 then 0
          else if (u.mbusRun (field p 0 1 + k)).responding = some true then 1 else 2),
        byte (u.mbusPrimary (field p 0 1 + k)), 0] ++ slice (u.mbusEntry (field p 0 1 + k)) 4 8 ++
        leBytes 4 (min 4294967295 ((u.mono - (u.mbusRun (field p 0 1 + k)).lastOk.getD 0) / 1000000000)))))) ∧
  (∀ (s u : State) (dt : Ticks) (c : Call) (p : Bytes) (f : InFlight) (i : Nat),
    Serves s dt u c 0x0A05 p 16 f → p.length = 2 → field p 0 1 = i → field p 1 1 = 1 → i < 64 →
    ∃ n st age, exec (.mbusList dt c p) s = .next (({ u with free := n } : State).respond f stDone
        ([byte i, byte st, byte (u.mbusPrimary i), 0] ++ slice (u.mbusEntry i) 4 8 ++ leBytes 4 age)) ∧
      (u.mbusMode i = 0 → st = 0) ∧ (u.mbusMode i ≠ 0 → st = 1 ∨ st = 2) ∧
      (∀ t, (u.mbusRun i).lastOk = some t → age = min 4294967295 ((u.mono - t) / 1000000000))) ∧
  (∀ (s u : State) (dt : Ticks) (c : Call) (p : Bytes) (f : InFlight), Serves s dt u c 0x0A03 p 16 f → p = [] →
    ∃ v : State, exec (.separationTest dt c p) s = .next (v.respond f stDone (List.replicate 7 1#8 ++ [0] ++
        leBytes 4 u.legal.sepFaults ++ leBytes 4 (min 4294967295 (u.legal.sepFaults + 7)))) ∧
      v.mem = u.mem ∧ v.points = u.points ∧ v.params = u.params ∧ v.aon = u.aon ∧ v.channels = u.channels ∧
      v.legal.calStore = u.legal.calStore ∧ v.legal.sealLog = u.legal.sealLog)

/-- R333, R480, R486: CAPTURE_START with each masked channel in capture takes the lines that wait, starts the stream and
is ACCEPTED, a second one is DENIED_STATE; a line of four records is taken from its channel, and a capture that CAP_ENABLE 0
has stopped then ends; CAPTURE_STOP takes the lines that wait and ends the capture, whose command then completes with the
blocks sent and dropped, and is DENIED_STATE without one. -/
def Obligations.CapturesStartAndStop : Prop :=
  (∀ (s u : State) (dt : Ticks) (c : Call) (p : Bytes) (f : InFlight), Serves s dt u c 0x0A01 p 8 f →
    p.length = 8 → rsv p 3 1 = true → field p 2 1 ≤ 15 → field p 0 2 ≠ 0 → u.skim.capture = none →
    (∀ n < 16, bit (field p 0 2) n = true → u.captures n = true) →
    ∃ v, v = ((upTo 16).filter (bit (field p 0 2))).foldl (fun w n => w.takeLines n 512) u ∧
      exec (.captureStart dt c p) s = .next (((State.accept v f).modSkim (fun k => { k with
        capture := some ⟨c, field p 0 2, field p 2 1, if field p 4 4 = 0 then none else some (field p 4 4), 0, 0,
          false⟩ })).acknowledge f)) ∧
  (∀ (s : State) (n k : Nat), s.takeLines n (k + 1) =
    if (s.channel n).capUnread < 4 then s else (s.takeLine n).takeLines n k) ∧
  (∀ (s u : State) (dt : Ticks) (c : Call) (p : Bytes) (f : InFlight), Serves s dt u c 0x0A01 p 8 f →
    p.length = 8 → rsv p 3 1 = true → field p 2 1 ≤ 15 → field p 0 2 ≠ 0 →
    (u.skim.capture.isSome = true ∨ ∃ n < 16, bit (field p 0 2) n = true ∧ u.captures n = false) →
    exec (.captureStart dt c p) s = .next (u.respond f stDeniedState [])) ∧
  (∀ (s u : State) (dt : Ticks) (c : Call) (p : Bytes) (f : InFlight), Serves s dt u c 0x0A02 p 0 f → p = [] →
    u.skim.capture.isSome = true →
    exec (.captureStop dt c p) s = .next (u.stopCapture.respond f stDone [])) ∧
  (∀ (s : State) (c : Capture), s.skim.capture = some c →
    s.stopCapture = (((upTo 16).filter (bit c.mask)).foldl (fun w n => w.takeLines n 512) s).endCapture) ∧
  (∀ (s u : State) (dt : Ticks) (c : Call) (p : Bytes) (f : InFlight), Serves s dt u c 0x0A02 p 0 f → p = [] →
    u.skim.capture = none → exec (.captureStop dt c p) s = .next (u.respond f stDeniedState [])) ∧
  (∀ (s : State) (c : Capture) (f : InFlight), s.skim.capture = some c → (∀ b ∈ s.skim.blocks, 16 ≤ b.src) →
    s.accepted c.call 0x0A01 = some f →
    s.endCapture = (s.modSkim (fun k => { k with capture := none })).respond f stDone
      (leBytes 4 c.sent ++ leBytes 4 c.dropped)) ∧
  (∀ (s u : State) (dt : Ticks) (n : Nat), s.elapse dt = u → n < 16 → u.ready = true →
    exec (.captureRecord dt n) s =
      .next (if 4 ≤ (u.channel n).capUnread then (u.takeLine n).finishCapture else u.finishCapture)) ∧
  (∀ (s : State) (c : Capture), s.skim.capture = none ∨ (s.skim.capture = some c ∧ c.stopping = false) →
    s.finishCapture = s) ∧
  (∀ (s : State) (c : Capture), s.skim.capture = some c → c.stopping = true → s.finishCapture = s.stopCapture) ∧
  (∀ (s : State) (n : Nat), n < s.channels.length → 4 ≤ (s.channel n).capUnread → s.skim.capture = none →
    (pointsWhere (fun m => s.mpType m == typeHeat && s.mpSub m == 1 &&
      (bindPch (s.binding m) 0 == n || bindPch (s.binding m) 1 == n))) = [] →
    ((s.takeLine n).channel n).capUnread = (s.channel n).capUnread - 4 ∧ (s.takeLine n).points = s.points ∧
      (s.takeLine n).skim = s.skim)

/-! ### Images and their activation -/

/-- Resting on R330, R490, R494 to R496 and R504: UPDATE_STATUS answers the banks, the trials, the battery and the
lock; READ_MANIFEST the 256 bytes of a bank that is not EMPTY. STAGE_BEGIN is refused by Table 18.2, else it marks the
bank that does not run STAGED and erases its sectors. STAGE_DATA takes the next bytes of the stream: without a staging
or inside a shut window it is DENIED_STATE, at another offset or past the size BAD_PARAM. STAGE_END with every byte and
the CRC closes the staging with the bank STAGED, else with the bank EMPTY (INTEGRITY), STAGE_ABORT with the bank EMPTY;
each is DENIED_STATE without a staging of its component. The closed staging leaves the other bank as it was. -/
def Obligations.StagingFillsTheOtherBank : Prop :=
  (∀ (s u : State) (dt : Ticks) (c : Call) (p : Bytes) (f : InFlight), Serves s dt u c 0x0801 p 36 f → p = [] →
    exec (.updateStatus dt c p) s = .next (u.respond f stDone ((upTo 4).flatMap (fun k =>
      [byte (b2n (u.component k).activeB), byte (u.component k).bankA.state.code,
        byte (u.component k).bankB.state.code, 0] ++ leBytes 2 (u.trialLeft k) ++ zeros 2) ++
      leBytes 2 u.ports.vbat ++ [byte (u.pnum 0x7000), 0]))) ∧
  (∀ (s u : State) (dt : Ticks) (c : Call) (p : Bytes) (f : InFlight) (k : Nat), Serves s dt u c 0x0802 p 1 f →
    p.length = 12 → rsv p 1 3 = true → field p 0 1 = k + 2 → k < 4 → 257 ≤ field p 4 4 →
    u.stageStatus k (field p 4 4) = stDone →
    ∃ b l, b = !(u.component k).activeB ∧ l = stagingSectors k b (field p 4 4) ∧
      exec (.stageBegin dt c p) s = .next ((l.filter (fun n => !u.flash.jobs.any (fun j => j.erases n))).foldl
        (fun v n => v.pushJob (.erase n 0 0))
        (((u.accept f).modComponent k (fun x => x.putBank b ⟨.staged, false, false⟩)).modUpdate (fun v => { v with
          staging := some { component := k, bankB := b, size := field p 4 4, crc := field p 8 4, staged := 0
                            call := some c, sectorsLeft := l } })))) ∧
  (∀ (s u : State) (dt : Ticks) (c : Call) (p : Bytes) (f : InFlight) (k : Nat), Serves s dt u c 0x0802 p 1 f →
    p.length = 12 → rsv p 1 3 = true → field p 0 1 = k + 2 → k < 4 → 257 ≤ field p 4 4 →
    u.stageStatus k (field p 4 4) ≠ stDone →
    exec (.stageBegin dt c p) s = .next (u.respond f (u.stageStatus k (field p 4 4)) [])) ∧
  (∀ (s u : State) (dt : Ticks) (c : Call) (p : Bytes) (f : InFlight) (g : Staging), Serves s dt u c 0x0803 p 0 f →
    9 ≤ p.length → p.length ≤ 4096 → rsv p 4 4 = true → u.update.staging = some g → field p 0 4 = g.staged →
    g.staged + (p.length - 8) ≤ g.size → u.windowShut g.component g.bankB = false →
    exec (.stageData dt c p) s = .next ((u.programStaged g (p.drop 8)).respond f stDone []) ∧
      (u.programStaged g (p.drop 8)).update.staging = some { g with staged := g.staged + (p.length - 8) }) ∧
  (∀ (s u : State) (dt : Ticks) (c : Call) (p : Bytes) (f : InFlight), Serves s dt u c 0x0803 p 0 f →
    9 ≤ p.length → p.length ≤ 4096 → rsv p 4 4 = true → u.update.staging = none →
    exec (.stageData dt c p) s = .next (u.respond f stDeniedState [])) ∧
  (∀ (s u : State) (dt : Ticks) (c : Call) (p : Bytes) (f : InFlight) (g : Staging), Serves s dt u c 0x0803 p 0 f →
    9 ≤ p.length → p.length ≤ 4096 → rsv p 4 4 = true → u.update.staging = some g →
    (field p 0 4 ≠ g.staged ∨ g.size < g.staged + (p.length - 8) →
      exec (.stageData dt c p) s = .next (u.respond f stBadParam [])) ∧
    (field p 0 4 = g.staged → g.staged + (p.length - 8) ≤ g.size → u.windowShut g.component g.bankB = true →
      exec (.stageData dt c p) s = .next (u.respond f stDeniedState []))) ∧
  (∀ (s u : State) (dt : Ticks) (c : Call) (p : Bytes) (f : InFlight) (g : Staging), Serves s dt u c 0x0804 p 0 f →
    p.length = 1 → 2 ≤ field p 0 1 → field p 0 1 ≤ 5 → u.update.staging = some g → g.component + 2 = field p 0 1 →
    exec (.stageEnd dt c p) s = .next (
      if g.staged = g.size ∧ crc32 (u.stagedBytes g) = g.crc then (u.closeStaging g .staged true).respond f stDone []
      else (u.closeStaging g .empty false).respond f stIntegrity [])) ∧
  (∀ (s u : State) (dt : Ticks) (c : Call) (p : Bytes) (f : InFlight) (g : Staging), Serves s dt u c 0x0805 p 0 f →
    p.length = 1 → 2 ≤ field p 0 1 → field p 0 1 ≤ 5 → u.update.staging = some g → g.component + 2 = field p 0 1 →
    exec (.stageAbort dt c p) s = .next ((u.closeStaging g .empty false).respond f stDone [])) ∧
  (∀ (s u : State) (dt : Ticks) (c : Call) (p : Bytes) (f : InFlight), p.length = 1 → 2 ≤ field p 0 1 →
    field p 0 1 ≤ 5 → (∀ g, u.update.staging = some g → g.component + 2 ≠ field p 0 1) →
    (Serves s dt u c 0x0804 p 0 f → exec (.stageEnd dt c p) s = .next (u.respond f stDeniedState [])) ∧
    (Serves s dt u c 0x0805 p 0 f → exec (.stageAbort dt c p) s = .next (u.respond f stDeniedState []))) ∧
  (∀ (s u : State) (dt : Ticks) (c : Call) (p : Bytes) (f : InFlight) (b : Bool), Serves s dt u c 0x0807 p 256 f →
    p.length = 2 → 2 ≤ field p 0 1 → field p 0 1 ≤ 5 → field p 1 1 = b2n b →
    exec (.readManifest dt c p) s = .next (
      if ((u.component (field p 0 1 - 2)).bank b).state = .empty then u.respond f stDeniedState []
      else u.respond f stDone (u.manifest (field p 0 1 - 2) b))) ∧
  (∀ (s : State) (g : Staging) (st : BankState) (ok : Bool), g.component < s.boot.components.length →
    (s.closeStaging g st ok).update.staging = none ∧
      ((s.closeStaging g st ok).component g.component).bank (!g.bankB) = (s.component g.component).bank (!g.bankB) ∧
      (((s.closeStaging g st ok).component g.component).bank g.bankB).state = st)

/-- Resting on Tables 18.3 and 18.4 and R499 to R503: ACTIVATE of Undercoat or the FE microcode is refused by the first
of the checks 2 to 9 that fails, else it starts the other bank in TRIAL; a legal component is refused by the first of
the checks 2 to 4, else its request goes to the gate and the activation is in progress. There the request is refused by
its signature, the first of the checks 5 to 9, or a full seal log; with every check it revokes the guard windows and
waits, and after the next commit the switch follows, or DENIED_SEAL once the session has ended. -/
def Obligations.ActivateFollowsItsChecks : Prop :=
  (∀ (s u : State) (dt : Ticks) (c : Call) (p : Bytes) (f : InFlight) (env : StartEnv) (k : Nat),
    Serves s dt u c 0x0806 p 4 f → p.length = 1 → field p 0 1 = k + 2 → k < 4 → u.activateStatus k ≠ stDone →
    exec (.activate dt c p env) s = .next (u.respond f (u.activateStatus k) [])) ∧
  (∀ (s u : State) (dt : Ticks) (c : Call) (p : Bytes) (f : InFlight) (env : StartEnv) (k : Nat),
    Serves s dt u c 0x0806 p 4 f → p.length = 1 → field p 0 1 = k + 2 → k < 2 → u.activateStatus k = stDone →
    u.gateOpen = true →
    exec (.activate dt c p env) s = .next ((u.withRequest f 0x0E (u.legalRequest k)).modUpdate (fun v => { v with
      activation := some { component := k, bankB := !(u.component k).activeB, origin := f.call.origin
                           tag := f.call.tag, since := u.mono, switched := false } }))) ∧
  (∀ (s u : State) (dt : Ticks) (c : Call) (p : Bytes) (f : InFlight) (env : StartEnv) (k : Nat),
    Serves s dt u c 0x0806 p 4 f → p.length = 1 → field p 0 1 = k + 2 → k = 2 ∨ k = 3 →
    u.activateStatus k = stDone → u.pnum 0x7000 ≠ 1 → u.ports.vbatLow = false → u.anyMoving = false →
    u.newMeets k (u.manifest k (!(u.component k).activeB)) u.running = true →
    exec (.activate dt c p env) s = .next (if k = 2 then u.activateApp f env else u.activateFe f)) ∧
  (∀ (s u : State) (dt : Ticks) (c : Call) (p : Bytes) (f : InFlight) (env : StartEnv) (k st : Nat),
    Serves s dt u c 0x0806 p 4 f → p.length = 1 → field p 0 1 = k + 2 → k = 2 ∨ k = 3 →
    u.activateStatus k = stDone → st = (if u.pnum 0x7000 = 1 then stDeniedLock
      else if u.ports.vbatLow then stLowBattery else if u.anyMoving then stMoving
      else if u.newMeets k (u.manifest k (!(u.component k).activeB)) u.running then stDone else stIncompatible) →
    st ≠ stDone → exec (.activate dt c p env) s = .next (u.respond f st [])) ∧
  (∀ (s : State) (k : Nat), s.activateStatus k = stDone ↔
    ((s.component k).inactive.state = .valid ∨ (s.component k).inactive.state = .confirmed) ∧
      s.manifestVerifies k (!(s.component k).activeB) = true ∧ (∀ j < 4, s.inTrial j = false) ∧
      s.update.activation = none ∧ s.outOfOrder k = false) ∧
  (∀ (s : State) (k : Nat), s.activateStatus k = stDone ∨ s.activateStatus k = stDeniedState) ∧
  (∀ (s : State) (k : Nat), k < s.boot.components.length →
    ((s.startTrial k).component k).activeB = !(s.component k).activeB ∧
      ((s.startTrial k).component k).active.state = .trial ∧
      ((s.startTrial k).component k).bank (s.component k).activeB = (s.component k).bank (s.component k).activeB) ∧
  (∀ (s u : State) (dt : Ticks) (r : GateRequest) (k : Nat), s.elapse dt = u → u.nextRequest 0x0E = some r →
    u.legal.activation = none → r.payload.length = 772 → field r.payload 0 1 = k + 2 → k < 2 →
    u.requestVerifies k (slice r.payload 4 256) = true → u.legal.sealOpen = true → u.pnum 0x7000 ≠ 1 →
    u.ports.vbatLow = false → u.anyMoving = false →
    (∀ x ∈ partners k, u.partnerVerifies x.2 (requestPartner k r.payload x.2) = true) →
    u.newMeets k (slice r.payload 4 256) (requestPartner k r.payload) = true → u.legal.sealLog.length < 248 →
    exec (.gateActivateLegal dt) s = .next ((u.modMem (fun m => (upTo 4).foldl MemSys.revoke m)).modLegal (fun l =>
      { l with activation := some { component := k, bankB := field r.payload 1 1 == 1, gseq := r.gseq
                                    origin := r.origin, oldLcv := u.boot.lcv, after := u.legal.lastCommit } }))) ∧
  (∀ (s u : State) (dt : Ticks) (r : GateRequest) (k : Nat), s.elapse dt = u → u.nextRequest 0x0E = some r →
    u.legal.activation = none → r.payload.length = 772 → field r.payload 0 1 = k + 2 → k < 2 →
    u.requestVerifies k (slice r.payload 4 256) = true → u.legal.sealOpen = false →
    exec (.gateActivateLegal dt) s = .next (u.answer r stDeniedSeal [])) ∧
  (∀ (s u : State) (dt : Ticks) (r : GateRequest) (k : Nat), s.elapse dt = u → u.nextRequest 0x0E = some r →
    u.legal.activation = none → r.payload.length = 772 → field r.payload 0 1 = k + 2 → k < 2 →
    (u.requestVerifies k (slice r.payload 4 256) = false →
      exec (.gateActivateLegal dt) s = .next (u.answer r stDeniedState [])) ∧
    (∀ st, u.requestVerifies k (slice r.payload 4 256) = true → u.legal.sealOpen = true →
      st = (if u.pnum 0x7000 = 1 then stDeniedLock
        else if u.ports.vbatLow then stLowBattery else if u.anyMoving then stMoving
        else if (partners k).all (fun x => u.partnerVerifies x.2 (requestPartner k r.payload x.2)) &&
          u.newMeets k (slice r.payload 4 256) (requestPartner k r.payload) then stDone else stIncompatible) →
      (st ≠ stDone → exec (.gateActivateLegal dt) s = .next (u.answer r st [])) ∧
      (st = stDone → 248 ≤ u.legal.sealLog.length → exec (.gateActivateLegal dt) s = .next
        ((u.noteSealFull (originCode r.origin)).answer r stNoResource [])))) ∧
  (∀ (s u : State) (dt : Ticks) (env : StartEnv) (a : LegalActivation) (r : GateRequest), s.elapse dt = u →
    u.legal.activation = some a → u.legalRuns = true → a.after < u.legal.lastCommit →
    u.gate.requests.find? (fun x => x.gseq == a.gseq) = some r →
    exec (.legalActivationSwitch dt env) s = .next (if u.legal.sealOpen then u.switchLegal a r env
      else ((u.modMem (·.releaseWindows)).modLegal (fun l => { l with activation := none })).answer r
        stDeniedSeal []))

/-- Resting on R500 to R506: 650 ms without a ready legal side after an activation, 1.8 s without READY after one of
Undercoat, and 300 s of trial each restart the side with its images selected again, where a bank in TRIAL becomes
REJECTED and the other bank active; a component whose checks of Table 18.5 hold within 300 s of the restart is
CONFIRMED, announced, and logged where it is legal; the response kept for a service tool is discarded after 60 s
without a session. -/
def Obligations.TrialsEndConfirmedOrReverted : Prop :=
  (∀ (s u : State) (dt : Ticks) (env : StartEnv) (t : Nat), s.elapse dt = u → u.boot.pauseFrom = some t →
    u.lcAlive = true → u.boot.legalReady = false → t + 650000000 ≤ u.nodeTime →
    exec (.legalActivationTimeout dt env) s = .next ((u.lcDown gapActivation 0).legalReload true env)) ∧
  (∀ (s u : State) (dt : Ticks) (env : StartEnv) (a : Activation), s.elapse dt = u → u.update.activation = some a →
    a.component = 2 → a.switched = true → u.boot.stage = 6 → a.since + 1800000000 ≤ u.mono →
    exec (.nonlegalActivationTimeout dt env) s = .next (u.acDown.appReload true env)) ∧
  (∀ (s u : State) (dt : Ticks) (t : Nat), s.elapse dt = u → u.inTrial 2 = true →
    (u.component 2).trialSince = some t → u.mono < t + 300000000000 → u.healthy 2 = true →
    exec (.trialConfirm dt 2) s = .next ((u.modComponent 2 (fun c => { c.setState (u.component 2).activeB .confirmed with
      trialSince := none, trialCommits := 0 })).announceUpdate 2 2 (u.component 2).activeB)) ∧
  (∀ (s u : State) (dt : Ticks) (t : Nat), s.elapse dt = u → u.inTrial 3 = true →
    (u.component 3).trialSince = some t → u.mono < t + 300000000000 → u.healthy 3 = true →
    exec (.trialConfirm dt 3) s = .next (((u.modComponent 3 (fun c => { c.setState (u.component 3).activeB .confirmed with
      trialSince := none, trialCommits := 0 })).modUpdate (fun x => { x with portsBefore := [] })).announceUpdate 3 2
        (u.component 3).activeB)) ∧
  (∀ (s u : State) (dt : Ticks) (t k : Nat), s.elapse dt = u → k < 2 → u.inTrial k = true →
    (u.component k).trialSince = some t → u.mono < t + 300000000000 → u.healthy k = true →
    exec (.trialConfirm dt k) s = .next ((((u.modComponent k (fun c =>
      { c.setState (u.component k).activeB .confirmed with
        trialSince := none, trialCommits := 0 })).logConfirmed).modLegal (fun l => { l with
          slotsBefore := none, diagBefore := [] })).announceUpdate k 2 (u.component k).activeB)) ∧
  (∀ (s : State) (k : Nat), k < s.boot.components.length → (s.component k).active.state = .trial →
    ((s.revertTrial k).component k).activeB = !(s.component k).activeB ∧
      ((s.revertTrial k).component k).inactive.state = .rejected ∧
      ((s.revertTrial k).component k).active = (s.component k).inactive ∧
      ((s.revertTrial k).component k).trialSince = none) ∧
  (∀ (s u : State) (dt : Ticks) (env : StartEnv) (t : Nat), s.elapse dt = u → u.inTrial 2 = true →
    (u.component 2).trialSince = some t → t + 300000000000 ≤ u.mono →
    exec (.trialWatchdogExpiry dt 2 env) s = .next ((({ u with boot := { u.boot with
      cause := u.boot.cause ||| causeBit 6, stage := 6 } } : State).acDown).appReload true env)) ∧
  (∀ (s u : State) (dt : Ticks) (env : StartEnv) (t : Nat), s.elapse dt = u → u.inTrial 3 = true →
    (u.component 3).trialSince = some t → t + 300000000000 ≤ u.mono →
    exec (.trialWatchdogExpiry dt 3 env) s = .next (State.selectImage true u 3).feRestart) ∧
  (∀ (s u : State) (dt : Ticks) (env : StartEnv) (t k : Nat), s.elapse dt = u → k < 2 → u.inTrial k = true →
    (u.component k).trialSince = some t → t + 300000000000 ≤ u.mono →
    exec (.trialWatchdogExpiry dt k env) s = .next ((({ u with boot := { u.boot with
      cause := u.boot.cause ||| causeBit 5 } } : State).lcDown gapRestart 0).legalReload true env)) ∧
  (∀ (s u : State) (dt : Ticks) (x : Bytes) (t : Nat), s.elapse dt = u →
    u.ports.servicePending = some (x, t) → t + 60000000000 ≤ u.mono → u.ports.usbSession = false →
    exec (.activateResponseDiscard dt) s = .next (u.modPorts (fun q => { q with servicePending := none })))

/-! ### Fabric commands -/

/-- Table 12.7, R329, R392, R393, R399, R400, R407: the reports of the fabric answer their rows; PORT_ENABLE stores
its bit and starts or stops the port; INSTALL_LINK_KEY fills the port's key slot and starts the link again; the
manager's TUNNEL_SEND opens a tunnel, the fifth to one node being NO_RESOURCE. -/
def Obligations.FabricCommandsAnswer : Prop :=
  (∀ (s u : State) (dt : Ticks) (c : Call) (p : Bytes) (f : InFlight), Serves s dt u c 0x0701 p 20 f → p = [] →
    ∃ hops, exec (.fabricStatus dt c p) s = .next (u.respond f stDone ([byte u.fabric.role, 0] ++
        leBytes 2 u.ownSource ++ leBytes 2 u.fabric.manager ++ leBytes 2 u.fabric.standby ++
        [byte (flagBits ((upTo 3).map u.linkUp))] ++ zeros 3 ++
        leBytes 2 ((u.fabric.database.filter (fun e => e.nodeId != nodeId)).length + 1) ++ [byte hops, 0] ++
        sBytes 4 (if u.fabric.role = roleManager then 0 else u.fabric.offset))) ∧
      (u.fabric.manager = 0 → hops = 0) ∧ (u.fabric.manager ≠ 0 → ∀ h, u.hopsTo u.fabric.manager = some h → hops = h)) ∧
  (∀ (s u : State) (dt : Ticks) (c : Call) (p : Bytes) (f : InFlight) (i : Nat), Serves s dt u c 0x0702 p 32 f →
    p.length = 1 → field p 0 1 = i → i ≤ 2 →
    exec (.portStatus dt c p) s = .next (u.respond f stDone ([byte (u.port i).state, 0] ++
      leBytes 2 (if (u.port i).state = 4 then (u.port i).peerAddr else 0) ++ zeros 4 ++ leBytes 4 (u.port i).rx ++
      leBytes 4 (u.port i).tx ++ leBytes 4 (u.port i).crcErr ++ leBytes 4 (u.port i).authErr ++
      leBytes 4 (u.port i).early ++ leBytes 4 (u.port i).dropped))) ∧
  (∀ (s u : State) (dt : Ticks) (c : Call) (p : Bytes) (f : InFlight) (i : Nat) (on : Bool),
    Serves s dt u c 0x0703 p 0 f → p.length = 2 → field p 0 1 = i → i ≤ 2 → field p 1 1 = b2n on →
    c.origin ≠ .fabric → bit (u.pnum 0x5001) i = !on →
    exec (.portEnable dt c p) s = .next ((u.putParam 0x5001 (leBytes 1
      (if on then u.pnum 0x5001 + 2 ^ i else u.pnum 0x5001 - 2 ^ i))).applyPorts.respond f stDone [])) ∧
  (∀ (s u : State) (dt : Ticks) (c : Call) (p : Bytes) (f : InFlight) (l : List Lsa),
    Serves s dt u c 0x0704 p (8 + 16 * field p 2 2) f → p.length = 4 → 1 ≤ field p 2 2 → field p 2 2 ≤ 255 →
    l = (u.fabric.database.drop (field p 0 2)).take (field p 2 2) →
    ∃ n r, exec (.nodeList dt c p) s = .next (({ u with free := n } : State).respond f stDone
        (leBytes 2 l.length ++ zeros 6 ++ r)) ∧ r.length = 16 * l.length) ∧
  (∀ (s u : State) (dt : Ticks) (c : Call) (p : Bytes) (f : InFlight) (l : List Route),
    Serves s dt u c 0x0705 p (8 + 8 * field p 2 2) f → p.length = 4 → 1 ≤ field p 2 2 → field p 2 2 ≤ 255 →
    l = (u.fabric.routes.drop (field p 0 2)).take (field p 2 2) →
    exec (.routeTable dt c p) s = .next (u.respond f stDone (leBytes 2 l.length ++ zeros 6 ++ l.flatMap (fun x =>
      leBytes 2 x.dest ++ [byte x.port, byte x.hops] ++ leBytes 4 x.cost)))) ∧
  (∀ (s u : State) (dt : Ticks) (c : Call) (p : Bytes) (f : InFlight) (i n : Nat), Serves s dt u c 0x0706 p 0 f →
    p.length = 36 → rsv p 2 2 = true → field p 0 1 = i → i ≤ 2 → field p 1 1 = n →
    n = 32 ∨ (n = 16 ∧ rsv p 20 16 = true) →
    ∃ v, v = u.putKey i (some ⟨if n = 16 then 1 else 2, slice p 4 n⟩) ∧
      exec (.installLinkKey dt c p) s = .next ((if (u.port i).state = 4 then v.dropLink i false
        else if (u.port i).state = 2 then v.enterSeeking i else v).respond f stDone [])) ∧
  (∀ (s u : State) (dt : Ticks) (c : Call) (p : Bytes) (f : InFlight) (e : Entry),
    e = Entry.ofBytes (slice p 4 64) → Serves s dt u c 0x0707 p (64 + if e.bulk then e.bufCap else 0) f →
    68 ≤ p.length → rsv p 2 2 = true → 1 ≤ field p 0 2 → field p 0 2 ≤ 0x3FFD → p.length - 68 ≤ 4096 →
    p.length - 68 = (if e.bulk then e.length else 0) → (e.bulk = true → e.bufCap ≤ 4096) →
    exec (.tunnelSend dt c p) s = .next (
      if u.fabric.role ≠ roleManager then u.respond f stDeniedState []
      else if 4 ≤ (u.fabric.tunnels.filter (fun t => t.dest == field p 0 2)).length then u.respond f stNoResource []
      else (u.accept f).openTunnel (field p 0 2) (some c) 0 (slice p 4 64) (p.drop 68)))

/-! ### Resets, starts and the always-on domain -/

/-- A rail that fails, RESET_N low for at least 1 µs and the loss of main power each reset the chip with its cause bit;
RESET_N low for at most 100 ns does not, and between the two lengths a free bit decides. A reset that no EPD phase
and no write is cut by keeps the always-on domain, the parameters, the key slots, both logs, the calibration store,
the audit counter of changes, the register copies, the counts of the counters and the node time, and clears system
SRAM, the commands, the gate, staging and activation; reset is then held. The loss of main power is stored in the
always-on domain. -/
def Obligations.ResetsKeepWhatMramHolds : Prop :=
  (∀ (s u : State) (dt : Ticks) (cut : Cut), s.elapse dt = u → u.boot.railsGood.getD 0 true = true →
    exec (.brownOut dt .core cut) s = .next ((u.resetChip 1 cut).modBoot (fun b => { b with
      railsGood := setAt b.railsGood 0 false }))) ∧
  (∀ (s u : State) (dt : Ticks) (cut : Cut), s.elapse dt = u → u.boot.railsGood.getD 1 true = true →
    exec (.brownOut dt .io cut) s = .next ((u.resetChip 2 cut).modBoot (fun b => { b with
      railsGood := setAt b.railsGood 1 false }))) ∧
  (∀ (s u : State) (dt : Ticks) (w : Nat) (cut : Cut), s.elapse dt = u → 1000 ≤ w →
    exec (.resetPinLow dt w cut) s = .next ((u.resetChip 3 cut).modBoot (fun b => { b with resetLow := true }))) ∧
  (∀ (s u : State) (dt : Ticks) (w : Nat) (cut : Cut), s.elapse dt = u → 100 < w → w < 1000 →
    exec (.resetPinLow dt w cut) s = .next { u with free := u.free + 1 } ∨
    exec (.resetPinLow dt w cut) s = .next ((({ u with free := u.free + 1 } : State).resetChip 3 cut).modBoot (fun b =>
      { b with resetLow := true }))) ∧
  (∀ (s u : State) (dt : Ticks) (w : Nat) (cut : Cut), s.elapse dt = u → w ≤ 100 →
    exec (.resetPinLow dt w cut) s = .next u) ∧
  (∀ (s u : State) (dt : Ticks) (cut : Cut), s.elapse dt = u → u.boot.railsGood.getD 2 true = true →
    exec (.brownOut dt .vdda cut) s = .next ((u.resetChip 2 cut).modBoot (fun b => { b with
      railsGood := setAt b.railsGood 2 false }))) ∧
  (∀ (s u : State) (dt : Ticks) (cut : Cut), s.elapse dt = u → cut = .none → u.display.update = none →
    u.aon.mainPower = true → u.aon.powered = true →
    ∃ t, exec (.mainPowerLoss dt cut) s = .next t ∧ t.aon = { u.aon.store 3 0 with mainPower := false }) ∧
  (∀ (s u : State) (dt : Ticks) (cut : Cut), s.elapse dt = u → u.aon.mainPower = true →
    ∃ t, exec (.mainPowerLoss dt cut) s = .next t ∧ t.aon.mainPower = false ∧
      t.boot.railsGood = [false, false, false] ∧ t.boot.cause = 1#32 ∧ t.boot.held = true) ∧
  (∀ (s : State) (n : Nat) (cut : Cut), cut = .none → s.display.update = none →
    ∃ t : State, t = s.resetChip n cut ∧ t.boot.cause = BitVec.ofNat 32 (2 ^ n) ∧ t.boot.held = true ∧ t.boot.stage = 0 ∧
      t.aon = s.aon ∧ t.params = s.params ∧ t.crypto.slots = s.crypto.slots ∧
      t.legal.sealLog = s.legal.sealLog ∧ t.legal.eventLog = s.legal.eventLog ∧ t.legal.calStore = s.legal.calStore ∧
      t.legal.cfgcnt = s.legal.cfgcnt ∧ t.boot.bootCounter = s.boot.bootCounter ∧ t.hawk.inFlight = [] ∧
      t.gate.requests = [] ∧ t.update = Update.reset ∧ t.nodeTime = s.nodeTime ∧
      (∀ i : Nat, (t.counters[i]?).map (fun c : Counter => (c.fwd, c.rev)) = (s.counters[i]?).map (fun c : Counter => (c.fwd, c.rev))) ∧
      (∀ m : Nat, (t.points[m]?).map (fun p : MeterPoint => (p.copyA, p.copyB)) = (s.points[m]?).map (fun p : MeterPoint => (p.copyA, p.copyB))) ∧
      ∀ a, Memory.read t.mem.cells a =
        if 0x20000000 ≤ a ∧ a ≤ 0x203FFFFF then 0 else Memory.read s.mem.cells a)

/-- Resting on R41, R47, R48, R53, R54 and R274: with reset held, main power good and TEST low, the release leaves
reset, counts the start, measures the ROM into slot 1, and goes on, or halts where the ROM does not match. A word of
OTP that fails halts the start, a crystal or a PLL that does not come leaves it waiting, their two time-outs halt it;
the node time is seeded from the RTC, or from the stored time after a loss of the always-on supply. An entropy
attempt that passes seeds the DRBG and draws a tag key; one that fails is counted and waits 1 s; the third goes on with
a warning, a fault, the key made of the device secret and the boot counter, and the DRBG unseeded. HALTED is stage 15
with the first error kept; beside the boot state only the stage's interrupt bit changes. COMPONENT of the errors 1, 3
and 4 is the model's choice (log 34). -/
def Obligations.ReleaseStartsThePart : Prop :=
  (∀ (s u v : State) (dt : Ticks) (env : StartEnv), s.elapse dt = u → u.boot.held = true → u.aon.mainPower = true →
    env.testHigh = false → v = ((u.modBoot (fun b => { b with
      held := false, resetLow := false, stage := 1, railsGood := [true, true, true]
      bootCounter := (b.bootCounter + 1) % 4294967296 })).putSlot 1 (sha256 Config.rom)).putSlot 8 (zeros 32) →
    exec (.resetRelease dt env) s = .next (if env.romOk then v.startClocks env else v.halt 1 1)) ∧
  (∀ (s u : State) (dt : Ticks) (env : StartEnv), s.elapse dt = u →
    u.boot.held = false ∨ u.aon.mainPower = false ∨ env.testHigh = true →
    exec (.resetRelease dt env) s = .next u) ∧
  (∀ (s v : State) (env : StartEnv), v = s.modBoot (fun b => { b with stage := 2 }) → s.startClocks env =
    if !env.otpOk then v.halt 2 0
    else if !env.xtal then v
    else if !env.pll then v.modBoot (fun b => { b with xtal := true })
    else ((v.modBoot (fun b => { b with xtal := true })).modNtu (fun n => { n with sysSource := .pll })).seedTime.startMemory
      env) ∧
  (∀ (s : State), s.seedTime.nodeTime = (if s.aon.lostSupply then s.legal.storedTime
      else s.aon.rtcSec * 1000000000 + s.aon.rtcFrac * 1000000000 / 32768) % 18446744073709551616 ∧
    s.seedTime.ntu.status = (if s.aon.lostSupply = false ∧ s.aon.rtcValid = true then .coarse else .invalid) ∧
    s.seedTime.aon.lostSupply = false) ∧
  (∀ (s u : State) (dt : Ticks), s.elapse dt = u → u.boot.stage = 2 → u.boot.xtal = false →
    exec (.xtalMainTimeout dt) s = .next (u.halt 3 1)) ∧
  (∀ (s u : State) (dt : Ticks), s.elapse dt = u → u.boot.stage = 2 → u.boot.xtal = true →
    exec (.pllLockTimeout dt) s = .next (u.halt 4 1)) ∧
  (∀ (s u : State) (dt : Ticks) (noise : BitVec 1024) (env : StartEnv), s.elapse dt = u → u.boot.stage = 3 →
    u.boot.entropyWait + 1000000000 ≤ u.mono → (startTests noise).2 = none →
    ∃ key : BitVec 256, exec (.entropyStartRetry dt noise env) s = .next (
      (({ (u.modCrypto (fun c => { c with noise := (startTests noise).1 })).seedDrbg with
        free := u.free + 2 } : State).modBoot (fun b => { b with
          entropyTries := 0, tagKey := leBytes 32 key.toNat })).startImages env)) ∧
  (∀ (s u v : State) (dt : Ticks) (noise : BitVec 1024) (env : StartEnv) (rct : Bool), s.elapse dt = u →
    u.boot.stage = 3 → u.boot.entropyWait + 1000000000 ≤ u.mono → (startTests noise).2 = some rct →
    v = (((u.modCrypto (fun c => { c with noise := (startTests noise).1 })).bump 26).countTrip rct).modBoot (fun b =>
      { b with entropyTries := u.boot.entropyTries + 1, entropyWait := u.mono }) →
    (u.boot.entropyTries < 2 → exec (.entropyStartRetry dt noise env) s = .next v) ∧
    (2 ≤ u.boot.entropyTries → ∃ w : State, w = ((v.warn 0).modBoot (fun b => { b with
        tagKey := sha256 (leBytes 32 Config.deviceSecret.toNat ++ leBytes 4 u.boot.bootCounter) })).modCrypto (fun c =>
          { c with seeded := false, entropyFail := true, latched := true, fails := 3 }) ∧
      exec (.entropyStartRetry dt noise env) s = .next
        (((w.announce 0x0980 [byte w.entropyFlags]).postFault 0x0011).startImages env))) ∧
  (∀ (s : State), s.seedDrbg.crypto.seeded = true ∧ s.seedDrbg.crypto.generates = 0 ∧
    s.seedDrbg.crypto.entropyFail = false ∧ s.seedDrbg.crypto.reseedAt = s.mono) ∧
  (∀ (s : State) (env : StartEnv), usableDensity env.flash = 0 →
    s.startImages env = (s.modBoot (fun b => { b with stage := 4 })).halt 5 1) ∧
  (∀ (s : State) (c k : Nat), ∃ t, t = s.halt c k ∧ t.boot.stage = 15 ∧
    t.boot.errCode = (if s.boot.errCode = 0 then c else s.boot.errCode) ∧
    t = { s with boot := t.boot, hawk := { s.hawk with irqStage := true } })

/-- Resting on R57, R58, R66, R85 and R99: while the domain is powered each sample of the three switches stores an
entry with the RTC's time for each level that changed and counts each fall; a full buffer loses the entry and sets the
overflow. While the node runs a retained buffer or count is drained: the buffer is then empty. The return of main
power is stored; a domain that powers up is empty and its RTC invalid; once an hour in FINE the node writes the RTC
and its trim from what the RTC gained since the last write, to the nearest step (log 54). -/
def Obligations.AlwaysOnDomainKeepsTamper : Prop :=
  (∀ (s u : State) (dt : Ticks) (l : PinLevels), s.elapse dt = u → u.aon.powered = true →
    exec (.tamperSample dt l) s = .next { u with aon := u.aon.sample l }) ∧
  (∀ (a : AlwaysOn) (l : PinLevels), a.levels = none → a.sample l = { a with levels := some l }) ∧
  (∀ (a : AlwaysOn) (b l : PinLevels), a.levels = some b →
    (a.sample l).levels = some l ∧
    (a.sample l).sealCount = (if b.sealHigh && !l.sealHigh then min 65535 (a.sealCount + 1) else a.sealCount) ∧
    (a.sample l).coverCount = (if b.coverHigh && !l.coverHigh then min 65535 (a.coverCount + 1) else a.coverCount) ∧
    (a.sample l).termCount = (if b.termHigh && !l.termHigh then min 65535 (a.termCount + 1) else a.termCount)) ∧
  (∀ (a : AlwaysOn) (b l : PinLevels) (e : Nat → Bool → RetainedEntry), a.levels = some b → a.buffer.length ≤ 61 →
    (∀ source level, e source level = ⟨a.rtcSec, a.rtcFrac / 4096, source, b2n level, crc8 (leBytes 4 a.rtcSec ++
      [byte (a.rtcFrac / 4096), byte source, byte (b2n level)])⟩) →
    (a.sample l).buffer = a.buffer ++ (if b.sealHigh = l.sealHigh then [] else [e 0 l.sealHigh]) ++
      (if b.coverHigh = l.coverHigh then [] else [e 1 l.coverHigh]) ++
      (if b.termHigh = l.termHigh then [] else [e 2 l.termHigh])) ∧
  (∀ (a : AlwaysOn) (source level : Nat), 64 ≤ a.buffer.length →
    a.store source level = { a with overflow := true }) ∧
  (∀ (s u : State) (dt : Ticks), s.elapse dt = u → u.legalRuns = true → u.aon.powered = true →
    u.aon.buffer ≠ [] ∨ u.aon.sealCount + u.aon.coverCount + u.aon.termCount ≠ 0 →
    exec (.retainedDrain dt) s = .next u.drain ∧ u.drain.aon.buffer = [] ∧ u.drain.aon.overflow = false) ∧
  (∀ (s u : State) (dt : Ticks) (l : PinLevels), s.elapse dt = u → u.aon.powered = false →
    ∃ a : AlwaysOn, exec (.aonPowerUp dt l) s = .next { u with aon := a } ∧ a.powered = true ∧ a.rtcValid = false ∧
      a.buffer = [] ∧ a.levels = some l ∧ a.sealCount = 0 ∧ a.coverCount = 0 ∧ a.termCount = 0 ∧ a.rtcSec = 0 ∧
      a.trim = 0 ∧ a.overflow = false ∧ a.epochSet = false) ∧
  (∀ (s u : State) (dt : Ticks), s.elapse dt = u → u.aon.powered = true →
    u.aon.mainPower = false ∨ u.boot.railsGood.getD 1 true = false →
    exec (.aonSupplyLoss dt) s = .next { u with aon := { u.aon with
      powered := false, rtcValid := false, lostSupply := true } }) ∧
  (∀ (s u : State) (dt : Ticks), s.elapse dt = u → u.aon.mainPower = false →
    exec (.mainPowerReturn dt) s = .next { u with aon := { (if u.aon.powered then u.aon.store 3 1 else u.aon) with
      mainPower := true } }) ∧
  (∀ (s u : State) (dt : Ticks), s.elapse dt = u → u.legalRuns = true → u.ntu.status = .fine →
    u.ntu.rtcWriteAt + 3600000000000 ≤ u.mono →
    exec (.rtcHourlyWrite dt) s = .next (if u.aon.powered then u.writeRtc.modAon (fun a => { a with trim := u.newTrim })
      else u.writeRtc)) ∧
  (∀ (s : State), s.newTrim = clampInt (-512) 511 (s.aon.trim -
    roundDiv (((s.aon.time : Int) - s.nodeTime) * 1000000000) (954 * (s.mono - s.ntu.rtcWriteAt : Nat)))) ∧
  (∀ (s : State), s.aon.powered = true → s.writeRtc.aon.rtcSec = s.nodeTime / 1000000000 % 4294967296 ∧
    s.writeRtc.aon.rtcFrac = s.nodeTime % 1000000000 * 32768 / 1000000000 ∧ s.writeRtc.ntu.rtcWriteAt = s.mono)

/-- Resting on R47, R64, R65, R364, R367 and R516 to R519: a lockstep mismatch, an expired watchdog, an integrity fault
and a legal start of more than 1 s restart the LC, each with its fault code and cause bit; the first two within 600 s
load the legal images again, the third ends in LC_HALT. An expired watchdog, an integrity fault outside the Hawk area
and the capture region, and an application start of more than 2 s restart the AC side; the third within 600 s ends in
RECOVERY. The stopping of the LC leaves Hawk, the fabric, the parameters, the flash and the memory map's bytes, and
ends the work of both legal processors; the stopping of the AC side leaves the legal logs, calibration and registers,
and clears the commands and system SRAM. -/
def Obligations.FaultsRestartOneSide : Prop :=
  (∀ (s u : State) (dt : Ticks) (env : StartEnv), s.elapse dt = u → u.lcAlive = true →
    exec (.lockstepMismatch dt env) s = .next (u.lcRestart 4 4 env) ∧
      exec (.lcWatchdogExpiry dt env) s = .next (u.lcRestart 5 5 env) ∧
      exec (.lcIntegrityFault dt env) s = .next (u.lcRestart 6 5 env) ∧
      (u.boot.legalReady = false → u.boot.legalStartAt + 1000000000 ≤ u.mono →
        exec (.legalStartFail dt env) s = .next ((u.bootError 9 2 (u.component 0).activeB).lcRestart 5 5 env))) ∧
  (∀ (s u : State) (dt : Ticks) (env : StartEnv), s.elapse dt = u → u.acAlive = true →
    exec (.acWatchdogExpiry dt env) s = .next (u.acRestart 8 env) ∧
      ∀ addr, exec (.acIntegrityFault dt addr env) s = .next (
        if 0x20380000 ≤ addr ∧ addr ≤ 0x203FFFFF then u.modMem (·.poison addr)
        else if 0x20000000 ≤ addr ∧ addr < 0x20380000 then (u.modMem (·.poison addr)).acRestart 9 env
        else u.acRestart 9 env)) ∧
  (∀ (s u : State) (dt : Ticks) (env : StartEnv), s.elapse dt = u → u.boot.stage = 6 →
    u.boot.appStartAt + 2000000000 ≤ u.mono →
    exec (.appStartFail dt env) s = .next ((u.bootError 10 4 (u.component 2).activeB).acRestart 8 env)) ∧
  (∀ (s v : State) (fault cause : Nat) (env : StartEnv) (recent : List Nat), recent = (s.mono ::
      s.boot.lcRestarts.filter (fun t => decide (s.mono ≤ t + 600000000000))).take 3 →
    v = (if fault = 4 then ((s.bump 19).modBoot (fun b => { b with lcRestarts := recent })).bump 21
      else (s.bump 19).modBoot (fun b => { b with lcRestarts := recent })).postFault fault →
    s.lcRestart fault cause env = (if recent.length = 3 then ((v.revertTrial 0).revertTrial 1).enterLcHalt fault 3 env
      else ((v.lcDown 6 fault).modBoot (fun b => { b with
        cause := b.cause ||| BitVec.ofNat 32 (2 ^ cause)
        lcToLog := b.lcToLog ++ [(fault, recent.length)] })).legalReload true env)) ∧
  (∀ (s : State) (fault n : Nat) (env : StartEnv), s.enterLcHalt fault n env =
    ((((((s.bootError 9 2 (s.component 0).activeB).postFault 7).modBoot (fun b => { b with
      haltToLog := some (fault, n) })).lcDown 8 fault).holdLc).afterLegal env)) ∧
  (∀ (s : State), s.holdLc.boot.lcHalt = true ∧ s.holdLc.boot.lcv = 0 ∧ s.holdLc.lcAlive = false) ∧
  (∀ (s v : State) (fault : Nat) (env : StartEnv) (recent : List Nat), recent = (s.mono ::
      s.boot.acRestarts.filter (fun t => decide (s.mono ≤ t + 600000000000))).take 3 →
    v = (((s.bump 20).modBoot (fun b => { b with
      acRestarts := recent, cause := b.cause ||| 64#32, stage := 6 })).acDown).postFault fault →
    (recent.length < 3 → s.acRestart fault env = v.appReload true env) ∧
    (∀ w, recent.length = 3 → w = (v.revertTrial 2).revertTrial 3 →
      s.acRestart fault env = ((((w.bootError 10 4 (w.component 2).activeB).postFault 10).stopImages
      [2, 3]).enterRecovery) ∧ (s.acRestart fault env).boot.stage = 8)) ∧
  (∀ (s : State) (k : Nat), (s.component k).active.state ≠ .trial → s.revertTrial k = s) ∧
  (∀ (s : State) (k f : Nat), (s.lcDown k f).hawk = s.hawk ∧ (s.lcDown k f).mem.cells = s.mem.cells ∧
    (s.lcDown k f).boot.legalReady = false ∧ (s.lcDown k f).params = s.params ∧ (s.lcDown k f).fabric = s.fabric ∧
    (s.lcDown k f).flash = s.flash ∧ (s.lcDown k f).boot.loaded[0]?.getD [] = [] ∧
    (s.lcDown k f).boot.loaded[1]?.getD [] = []) ∧
  (∀ (s : State), s.acDown.legal.sealLog = s.legal.sealLog ∧ s.acDown.legal.eventLog = s.legal.eventLog ∧
    s.acDown.legal.calStore = s.legal.calStore ∧ (∀ m, (s.acDown.point m).bank = (s.point m).bank) ∧
    s.acDown.hawk.inFlight = [] ∧ s.acDown.crypto.slots = s.crypto.slots ∧
    ∀ a, 0x20000000 ≤ a → a ≤ 0x203FFFFF → Memory.read s.acDown.mem.cells a = 0)

/-! ### Clocks and time -/

/-- Resting on R73, R88 to R94 and Tables 3.7 and 3.8: while MCLK is preferred, its stop or a period more than 2 % off
ends the counted TRACK; where it is the source the part switches to XO_MOD and logs it, the third switch within 60 s
latching, or loses the modulator clock where XO_MOD is not to be had. The second of two windows off by more than
0.5 % with good periods is a RELOCK. After 1 s of TRACK the part switches back. A lost XO_MOD that is the source leaves no
modulator clock; its restart is logged, and it becomes the source where there is none, or where the latch holds and it
has run for 1 s. Each epoch of 6,144 cycles is stamped with node time. A switch starts every stamp anew. -/
def Obligations.ModulatorClockIsSupervised : Prop :=
  (∀ (s u v w : State) (dt : Ticks) (g : Option Nat) (recent : List Nat), s.elapse dt = u → u.prefersMclk = true →
    (∀ p, g = some p → 40690 < 50 * ((p : Int) - 40690).natAbs) →
    v = u.modMod (fun m => { m with trackSince := none }) →
    recent = u.mono :: u.modDom.switches.filter (fun t => decide (u.mono ≤ t + 60000000000)) →
    w = ((v.logClock (if g = none then 1 else 2) (g.getD 0) 1 0).modMod (fun m => { m with
      switches := recent })).modSwitch .xoMod →
    (u.modDom.source ≠ .mclk → exec (.mclkStop dt g) s = .next v) ∧
    (u.modDom.source = .mclk → u.modDom.latched = true ∨ u.modDom.xoRuns = false →
      exec (.mclkStop dt g) s = .next v.modLost) ∧
    (u.modDom.source = .mclk → u.modDom.latched = false → u.modDom.xoRuns = true →
      exec (.mclkStop dt g) s = .next (if recent.length < 3 then w
        else (w.modMod (fun m => { m with latched := true })).logClock 5 recent.length 0 0))) ∧
  (∀ (s u : State) (dt : Ticks) (g : Option Nat), s.elapse dt = u →
    u.prefersMclk = false ∨ (∃ p : Nat, g = some p ∧ 50 * ((p : Int) - 40690).natAbs ≤ 40690) →
    exec (.mclkStop dt g) s = .next u) ∧
  (∀ (s : State) (src : ModSource), (s.modSwitch src).modDom.source = src ∧ (s.modSwitch src).modDom.stamps = []) ∧
  (∀ (s : State), s.modLost.modDom.source = .stopped ∧ ∀ n < 16, (s.modLost.channel n).running = false) ∧
  (∀ (s u : State) (dt : Ticks) (ppm : Int) (ok : Bool), s.elapse dt = u → u.prefersMclk = true →
    u.modDom.source = .mclk → ppm.natAbs ≤ 5000 →
    exec (.mclkWindow dt ppm ok) s = .next (u.modMod (fun m => { m with outside := false, relocked := false }))) ∧
  (∀ (s u : State) (dt : Ticks) (ppm : Int), s.elapse dt = u → u.prefersMclk = true → u.modDom.source = .mclk →
    5000 < ppm.natAbs → u.modDom.relocked = false →
    exec (.mclkWindow dt ppm true) s = .next (if u.modDom.outside then
      ((u.logClock 3 ppm 1 1).modMod (fun m => { m with
        outside := false, relocked := true, stamps := [] })).restartAll 3 0
      else u.modMod (fun m => { m with outside := true }))) ∧
  (∀ (s u : State) (dt : Ticks) (ppm : Int) (ok : Bool), s.elapse dt = u → u.prefersMclk = true →
    u.modDom.source ≠ .mclk →
    exec (.mclkWindow dt ppm ok) s = .next (u.modMod (fun m => { m with trackSince := (
      if ppm.natAbs ≤ 5000 ∧ ok = true then some (u.modDom.trackSince.getD (u.mono - 1000000)) else none) }))) ∧
  (∀ (s u : State) (dt : Ticks) (t : Nat), s.elapse dt = u → u.prefersMclk = true → u.legalRuns = true →
    (u.modDom.source = .xoMod ∧ u.modDom.latched = false) ∨ u.modDom.source = .stopped →
    u.modDom.trackSince = some t → t + 1000000000 ≤ u.mono →
    exec (.mclkReturn dt) s = .next (((u.logClock 4 ((u.mono - t) / 1000000 : Nat) 0 1).modSwitch .mclk).modMod
      (fun m => { m with trackSince := none, xoSince := none }))) ∧
  (∀ (s u : State) (dt : Ticks), s.elapse dt = u → u.modDom.source = .xoMod →
    exec (.xoModLost dt) s = .next (u.modMod (fun m => { m with xoRuns := false, xoSince := none })).modLost) ∧
  (∀ (s u : State) (dt : Ticks), s.elapse dt = u → u.modDom.source = .stopped → u.legalRuns = true →
    exec (.xoModRestartTry dt true) s = .next (((u.modMod (fun m => { m with
      xoRuns := true, xoSince := some u.mono })).logClock 7 0 0 0).modSwitch .xoMod)) ∧
  (∀ (s u : State) (dt : Ticks), s.elapse dt = u → u.modDom.source ≠ .xoMod → u.legalRuns = true →
    exec (.xoModRestartTry dt false) s = .next (u.modMod (fun m => { m with xoRuns := false, xoSince := none }))) ∧
  (∀ (s u : State) (dt : Ticks), s.elapse dt = u → u.modDom.source = .mclk → u.legalRuns = true →
    (u.modDom.xoRuns = false → exec (.xoModRestartTry dt true) s = .next ((u.modMod (fun m => { m with
      xoRuns := true, xoSince := some u.mono })).logClock 7 0 1 1)) ∧
    (∀ t, u.modDom.xoRuns = true → u.modDom.latched = true → u.modDom.xoSince = some t → t + 1000000000 ≤ u.mono →
      exec (.xoModRestartTry dt true) s = .next (u.modSwitch .xoMod))) ∧
  (∀ (s u : State) (dt : Ticks), s.elapse dt = u → u.modDom.source ≠ .stopped → u.modDom.epochBase < u.modDom.cycle →
    (u.modDom.cycle - u.modDom.epochBase) % 6144 = 0 → (∀ x ∈ u.modDom.stamps, x.1 < u.modDom.cycle) →
    exec (.modEpoch dt) s = .next (u.modMod (fun m => { m with
      stamps := ((u.modDom.cycle, u.nodeTime) :: m.stamps).take 512 })))

/-- Resting on R73, R78, R140, R141 and Tables 3.6, 5.11 and 5.12: while the legal side runs each whole second of NET_SLEW
and its limit are logged; 60 s without an offset ends FINE. A qualified SYNC_IN edge makes a sync event, or is counted
as ignored where its source is not allowed or the hold-off runs; one that does not qualify does nothing. The armed
comparator makes a sync event within one modulator clock of its time and its command completes, or completes with
FAULT (the model's choice, log 38), DENIED_STATE or BUSY and no event. An event stands in LAST_SRC and LAST_E, starts the
hold-off with no event ignored, and restarts the epoch counter at its cycle. -/
def Obligations.TimeAndSyncEvents : Prop :=
  (∀ (s u : State) (dt : Ticks), s.elapse dt = u → u.legalRuns = true →
    (u.ntu.slewHigh + 1) * 1000000000 * 4294967296 ≤ u.ntu.slew.natAbs →
    exec (.slewSecond dt) s = .next ((u.modNtu (fun n => { n with slewHigh := u.ntu.slewHigh + 1 })).logEvent 7 2
      0xFF (sBytes 8 (u.ntu.slew.tdiv 4294967296)))) ∧
  (∀ (s u : State) (dt : Ticks), s.elapse dt = u → u.legalRuns = true → u.ntu.clampLogged = false →
    (u.ntu.slew = slewLimit ∧ 0 < u.ntu.rateAdj) ∨ (u.ntu.slew = -slewLimit ∧ u.ntu.rateAdj < 0) →
    exec (.slewClamp dt) s = .next ((u.modNtu (fun n => { n with clampLogged := true })).logEvent 7 3 0xFF
      (sBytes 8 (u.ntu.slew.tdiv 4294967296)))) ∧
  (∀ (s u : State) (dt : Ticks) (t : Nat), s.elapse dt = u → u.ntu.status = .fine → u.ntu.lastOffset = some t →
    t + 60000000000 ≤ u.mono →
    exec (.fineHoldoverExpiry dt) s = .next ((u.setTimeStatus .coarse).modNtu (fun n => { n with lockCount := 0 }))) ∧
  (∀ (s u : State) (dt : Ticks), s.elapse dt = u → u.modDom.source ≠ .stopped → u.legalRuns = true →
    exec (.syncInEdge dt true true) s = .next (if u.syncAllowed 1 = true ∧ u.inHoldoff = false
      then u.syncEvent 1 (u.nodeTime + 122) else u.ignoreSync)) ∧
  (∀ (s u : State) (dt : Ticks) (low high : Bool), s.elapse dt = u → (low && high) = false →
    exec (.syncInEdge dt low high) s = .next u) ∧
  (∀ (s u v : State) (dt : Ticks) (after t : Nat) (c : Call), s.elapse dt = u →
    u.sync.armed = some (t, c) → t ≤ u.nodeTime + 82 → u.modDom.source ≠ .stopped → u.legalRuns = true →
    u.syncAllowed 3 = true → u.inHoldoff = false → after ≤ 40700 →
    v = (u.modSync (fun y => { y with armed := none })).syncEvent 3 (t + after / 1000) →
    (∀ f, v.accepted c 0x0203 = some f →
      exec (.syncAtFire dt after) s = .next (v.respond f stDone (leBytes 8 (t + after / 1000)))) ∧
    (v.accepted c 0x0203 = none → exec (.syncAtFire dt after) s = .next v)) ∧
  (∀ (s u v : State) (dt : Ticks) (after t : Nat) (c : Call) (f : InFlight), s.elapse dt = u →
    u.sync.armed = some (t, c) → t ≤ u.nodeTime + 82 → u.accepted c 0x0203 = some f →
    v = u.modSync (fun y => { y with armed := none }) →
    (u.modDom.source = .stopped ∨ u.legalRuns = false →
      exec (.syncAtFire dt after) s = .next (v.respond f stFault [])) ∧
    (u.modDom.source ≠ .stopped → u.legalRuns = true → u.syncAllowed 3 = false →
      exec (.syncAtFire dt after) s = .next (v.ignoreSync.respond f stDeniedState [])) ∧
    (u.modDom.source ≠ .stopped → u.legalRuns = true → u.syncAllowed 3 = true → u.inHoldoff = true →
      exec (.syncAtFire dt after) s = .next (v.ignoreSync.respond f stBusy []))) ∧
  (∀ (s u : State) (dt : Ticks) (after t : Nat) (c : Call), s.elapse dt = u → u.sync.armed = some (t, c) →
    u.nodeTime + 82 < t → exec (.syncAtFire dt after) s = .next u) ∧
  (∀ (s : State) (src e : Nat), ∃ t : State, t = s.syncEvent src e ∧ t.sync.lastSource = src ∧ t.sync.lastE = e ∧
    t.sync.acceptedAt = some s.mono ∧ t.sync.ignored = 0 ∧ t.sync.outHigh = (s.pnum 0x0020 == 1) ∧
    t.modDom.epochBase = s.modDom.cycle ∧ t.modDom.stamps = [(s.modDom.cycle, e)]) ∧
  (∀ (s : State), s.ignoreSync.sync = { s.sync with ignored := min 65535 (s.sync.ignored + 1) })

/-- Resting on R520 and R521: without the main clock the part runs from the RC oscillator with measurement stopped, the
ports off, the sessions ended and one FAULT event, and goes back to the PLL once it has been locked for 1 s, a loss of
lock starting that second again; without the DSP clock measurement stops with one FAULT event, and restarts where it is
locked again. -/
def Obligations.ClockFaultsStopMeasurement : Prop :=
  (∀ (s u : State) (dt : Ticks), s.elapse dt = u → u.ntu.sysSource = .pll → u.boot.mainClockFault = false →
    ∃ v w, v = (((u.bump 27).modBoot (fun b => { b with mainClockFault := true })).modNtu (fun n => { n with
        sysSource := .rc, pllLockedAt := none })).fallToCoarse ∧
      w = (if v.legalRuns then v.stopAll 8 1 else v) ∧
      exec (.mainClockFault dt) s = .next (w.linksOff.endSession.portsIdle.postFault 1)) ∧
  (∀ (s u : State) (dt : Ticks) (t : Nat), s.elapse dt = u → u.boot.mainClockFault = true →
    u.ntu.pllLockedAt = some t → exec (.pllRestartTry dt true) s = .next (
      if t + 1000000000 ≤ u.mono then u.mainClockBack else u)) ∧
  (∀ (s u : State) (dt : Ticks), s.elapse dt = u → u.boot.mainClockFault = true →
    (u.ntu.pllLockedAt = none →
      exec (.pllRestartTry dt true) s = .next (u.modNtu (fun n => { n with pllLockedAt := some u.mono }))) ∧
    exec (.pllRestartTry dt false) s = .next (u.modNtu (fun n => { n with pllLockedAt := none }))) ∧
  (∀ (s : State), s.mainClockBack.ntu.sysSource = .pll ∧ s.mainClockBack.boot.mainClockFault = false) ∧
  (∀ (s u : State) (dt : Ticks), s.elapse dt = u → u.ntu.sysSource ≠ .stopped → u.ntu.dspLocked = true →
    ∃ v, v = (u.bump 27).modNtu (fun n => { n with dspLocked := false }) ∧
      exec (.dspClockFault dt) s = .next ((if v.legalRuns then v.stopAll 8 2 else v).postFault 2)) ∧
  (∀ (s u : State) (dt : Ticks), s.elapse dt = u → u.ntu.dspLocked = false →
    exec (.dspClockRelockTry dt false) s = .next u ∧
    ∃ v, v = u.modNtu (fun n => { n with dspLocked := true }) ∧
      exec (.dspClockRelockTry dt true) s = .next (
        if v.legalRuns then (v.restartAll 8 2).settleGaps else v)) ∧
  (∀ (s : State) (kind fault n : Nat), n < 16 → ((s.stopAll kind fault).channel n).running = false)

/-! ### Channels, counters and metering points -/

/-- Resting on R103, R111 to R118 and Tables 4.6 and 4.7: a SINGLE counter counts an active edge whose level has stood
2 µs longer than the filter time, and takes no level that stood shorter than that time; a pair, filtered by the even
counter's setting, counts one per four steps one way and an invalid transition of both inputs as QUAD_ERROR; the
counters latch at each multiple of 10 ms. A diagnostic condition that is present sets its bit, and one of a driver the
bits of every BRIDGE channel on it; a bit clears once its condition has been absent for 100 ms, and its chain restarts; the
summary ends a burst 10 s after the last of it. Each condition is that of Table 4.6. -/
def Obligations.CountersAndDiagnostics : Prop :=
  (filterNs 0 = 20000 ∧ filterNs 1 = 1000000 ∧ filterNs 2 = 5000000) ∧
  (∀ (s u : State) (dt : Ticks) (n held : Nat) (rising : Bool), s.elapse dt = u → n < 16 → n < u.counters.length →
    u.legalRuns = true → u.cntMode n = 1 → u.cntPartner n = false →
    ((u.counter n).level = some rising ∨ held < filterNs (u.pnum (cntId n 2)) →
      exec (.counterInputEdge dt n rising held) s = .next u) ∧
    ((u.counter n).level ≠ some rising → filterNs (u.pnum (cntId n 2)) + 2000 ≤ held →
      exec (.counterInputEdge dt n rising held) s = .next (u.modCounter n (fun c => { c with
        level := some rising
        fwd := if (u.pnum (cntId n 3) = 1 ↔ rising = true) then c.fwd + 1 else c.fwd })))) ∧
  (∀ (s u v : State) (dt : Ticks) (n heldA heldB : Nat) (a b : Bool) (la lb : Option Bool), s.elapse dt = u → n < 16 →
    n % 2 = 0 → n + 1 < u.counters.length → u.legalRuns = true → u.cntMode n = 2 →
    (la = some a ∧ ((u.counter n).level = some a ∨ filterNs (u.pnum (cntId n 2)) + 2000 ≤ heldA)) ∨
      (la = (u.counter n).level ∧ heldA < filterNs (u.pnum (cntId n 2))) →
    (lb = some b ∧ ((u.counter (n + 1)).level = some b ∨ filterNs (u.pnum (cntId n 2)) + 2000 ≤ heldB)) ∨
      (lb = (u.counter (n + 1)).level ∧ heldB < filterNs (u.pnum (cntId n 2))) →
    v = (u.modCounter n (fun c => { c with level := la })).modCounter (n + 1) (fun c => { c with level := lb }) →
    exec (.quadTransition dt n a b heldA heldB) s = .next (match la, lb with
      | some x, some y => v.modCounter n (fun c => c.quad x y)
      | _, _ => v)) ∧
  (∀ (c : Counter) (a b : Bool), c.ref = none → c.quad a b = { c with ref := some (a, b), pos := 0, last := 0 }) ∧
  (∀ (c : Counter) (a b : Bool), c.ref = some (a, b) →
    c.quad a b = c ∧ (c.quad (!a) (!b)).quadError = min 65535 (c.quadError + 1) ∧ (c.quad (!a) (!b)).fwd = c.fwd ∧
      (c.quad (!a) (!b)).rev = c.rev ∧ (c.quad (!a) (!b)).pos = c.pos) ∧
  (∀ (c : Counter), c.ref = some (false, false) → c.pos = c.last →
    ((((c.quad true false).quad true true).quad false true).quad false false).fwd = c.fwd + 1 ∧
      ((((c.quad true false).quad true true).quad false true).quad false false).rev = c.rev ∧
      ((((c.quad false true).quad true true).quad true false).quad false false).rev = c.rev + 1 ∧
      ((((c.quad false true).quad true true).quad true false).quad false false).fwd = c.fwd) ∧
  (∀ (s u : State) (dt : Ticks) (t : Nat), s.elapse dt = u → u.legalRuns = true →
    t = u.nodeTime / 10000000 * 10000000 → u.ntu.latchAt ≠ some t →
    exec (.counterLatch dt) s = .next ((upTo 16).foldl (fun v n => v.latchCounter n t)
      (u.latchBoundary.modNtu (fun x => { x with latchAt := some t }))).settleGaps) ∧
  (∀ (s : State) (n t : Nat), n < s.counters.length →
    ((s.latchCounter n t).counter n).latchFwd = (s.counter n).fwd ∧
      ((s.latchCounter n t).counter n).latchRev = (s.counter n).rev ∧
      ((s.latchCounter n t).counter n).latchTime = t ∧ ((s.latchCounter n t).counter n).fwd = (s.counter n).fwd) ∧
  (∀ (s u v : State) (dt : Ticks) (n b : Nat) (e : Sensed), s.elapse dt = u → v = u.meet n e → n < 16 →
    v.legalRuns = true →
    (v.diagPresent n b e = true → exec (.diagBitSet dt n b e) s =
      .next ((v.diagReach n b).foldl (fun x k => x.setDiag k b) v)) ∧
    (v.diagPresent n b e = false → exec (.diagBitSet dt n b e) s = .next v) ∧
    (v.diagPresent n b e = false → v.refOff n b = false → b ≠ 4 → exec (.diagBitClear dt n b e) s =
      .next ((v.diagReach n b).foldl (fun x k => x.clearDiag k b) v)) ∧
    (v.diagPresent n b e = true ∨ v.refOff n b = true ∨ b = 4 → exec (.diagBitClear dt n b e) s = .next v)) ∧
  (∀ (s : State) (n b : Nat), ((b = 1 ∨ b = 2 ∨ b = 3) ∧ s.pchMode n = modeBridge → ∀ k, k ∈ s.diagReach n b ↔
      k < 16 ∧ s.pchMode k = modeBridge ∧ s.pchExc k = s.pchExc n) ∧
    (¬((b = 1 ∨ b = 2 ∨ b = 3) ∧ s.pchMode n = modeBridge) → s.diagReach n b = [n])) ∧
  (∀ (s : State) (n b : Nat), n < s.channels.length → b < 8 → ((s.setDiag n b).channel n).diag.getLsbD b = true) ∧
  (∀ (s : State) (n b : Nat), (s.channel n).diag.getLsbD b = true →
    s.mono < (s.channel n).diagAt.getD b 0 + 100000000 → s.clearDiag n b = s) ∧
  (∀ (s : State) (n b : Nat), b < 8 → (s.channel n).diag.getLsbD b = true →
    (s.channel n).diagAt.getD b 0 + 100000000 ≤ s.mono → n < s.channels.length →
    ((s.clearDiag n b).channel n).diag.getLsbD b = false ∧ ((s.clearDiag n b).channel n).settled = false ∧
      ((s.clearDiag n b).channel n).resetCycle = s.modDom.cycle) ∧
  (∀ (s : State) (n : Nat) (e : Sensed),
    (s.diagPresent n 0 e = true ↔ s.pchMode n ≠ 0 ∧
      (e.pinP < 300 ∨ e.vdda - 300 < e.pinP ∨ e.pinN < 300 ∨ e.vdda - 300 < e.pinN)) ∧
    (s.diagPresent n 1 e = true ↔ s.pchMode n = modeBridge ∧ s.excLimited (s.pchExc n) = true ∧ 1000 ≤ e.limitUs) ∧
    (s.diagPresent n 2 e = true ↔ s.pchMode n = modeBridge ∧ s.pnum (excId (s.pchExc n) 4) = 1 ∧
      ((s.driver (s.pchExc n)).senseOpen = true ∨ (s.pnum (excId (s.pchExc n) 1) : Rat) <
        10 * (s.excForce (s.pchExc n) - s.excRemote (s.pchExc n)))) ∧
    (s.diagPresent n 5 e = true ↔ s.pchMode n ≠ 0 ∧ 6442450944 < 5 * (s.sampleCode n e.input e).natAbs) ∧
    (s.diagPresent n 6 e = true ↔ s.pchMode n = modeRtd ∧ 2800 < s.rtdVolts (s.pchRtd n) (e.rtd + e.rRef)) ∧
    s.diagPresent n 4 e = false) ∧
  (∀ (s : State) (n : Nat) (e : Sensed), s.pchMode n = modeBridge →
    (s.diagPresent n 3 e = true ↔ 2 * s.excSense (s.pchExc n) < (s.pnum (excId (s.pchExc n) 1) : Rat)) ∧
    (s.refOff n 3 = true ↔ s.pnum (excId (s.pchExc n) 0) = 0)) ∧
  (∀ (s u : State) (dt : Ticks) (n t : Nat), s.elapse dt = u → u.legalRuns = true →
    (u.channel n).burstAt = some t → t + 10000000000 ≤ u.mono →
    exec (.diagSummary dt n) s = .next ((u.logEvent 8 3 ((u.pointsOfChannel n).headD 0xFF)
      ([byte n, 0] ++ leBytes 2 (u.channel n).burst)).modChannel n (fun c => { c with
        burst := 0, burstAt := none })))

/-- Resting on R32, R134 and R136 to R139: the modulator words that complete a record, all of whose cycles have passed,
form it once the binding records that wait for the channel's boundary are in force; no other number of words does. Its
number is the next and its position the next of the chain's outputs; its value is 0 while it carries SETTLING, else
the FIR output or the resampler's, saturated. A LINE channel, locked or not, holds where its reference has no
crossing for 33.3 ms or a period outside 45 Hz to 65 Hz, or where it does not lock within 100 ms of the
reference's settling (the 33.3 ms before the first crossing count from that settling: log 58). -/
def Obligations.ChannelsFormRecords : Prop :=
  (∀ (s u v : State) (dt : Ticks) (n : Nat) (words : List (BitVec 4)) (held : Bool), s.elapse dt = u → n < 16 →
    v = u.sampleBoundary n →
    (u.recordDue n words = true → exec (.faOutput dt n words held) s = .next (
      if v.recordDue n words then v.formRecord n words held else v)) ∧
    (u.recordDue n words = false → exec (.faOutput dt n words held) s = .next u)) ∧
  (∀ (s : State) (n : Nat) (words : List (BitVec 4)), s.recordDue n words = true ↔
    (s.channel n).running = true ∧ s.faRuns = true ∧
      (s.channel n).words + words.length = max ((s.chain n).firCycles *
        (if (s.chain n).bypass then (s.channel n).firCount + 1 else (s.channel n).rsPos / 4294967296 + 8))
          (s.channel n).words ∧
      (s.channel n).resetCycle + (s.channel n).words + words.length ≤ s.modDom.cycle) ∧
  (∀ (s : State) (n : Nat), s.inForce = [] → s.sampleBoundary n = s) ∧
  (∀ (s w : State) (n : Nat) (words : List (BitVec 4)) (held : Bool), n < s.channels.length →
    w = s.takeWords n words → (w.channel n).words = (s.channel n).words + words.length ∧
    ∃ r, ((s.formRecord n words held).channel n).latest = some r ∧ r.seqNo = (s.channel n).seqNo ∧
      ((s.formRecord n words held).channel n).seqNo = (s.channel n).seqNo + 1 ∧
      r.position = (s.channel n).outCount + 1 ∧ (r.status.getLsbD 8 = true → r.value = 0) ∧
      (r.status.getLsbD 8 = false → r.value = clampInt (-2147483648) 2147483647 (
        if (w.chain n).bypass then ((w.channel n).firs.head?.map (fun x => x.post)).getD 0
        else resample ((w.channel n).firs.map (fun x => x.post)) (w.channel n).rsPos))) ∧
  (∀ (s u : State) (dt : Ticks) (n k : Nat), s.elapse dt = u → (u.channel n).running = true →
    (u.chain n).mode = 1 → (u.channel n).line.hold = false → k = (u.chain n).lineRef →
    (∃ z, (u.channel k).cross.latest = some z ∧ z + 33300000 * 65536 ≤ u.nodeTime * 65536) ∨
      ((u.channel k).cross.latest = none ∧ (u.channel k).running = true ∧ (u.channel k).resetCycle +
        (u.chain k).settleIndex * (u.chain k).m1 + u.fMod * 333 / 10000 ≤ u.modDom.cycle) ∨
      (∃ t, (u.channel k).cross.period = some t ∧
        (65 * t < 1000000000 * 65536 ∨ 1000000000 * 65536 < 45 * t)) →
    exec (.lineHoldTimeout dt n) s = .next (u.modChannel n (fun c => { c with
      line := { c.line with hold := true, good := 0 } }))) ∧
  (∀ (s u : State) (dt : Ticks) (n k : Nat), s.elapse dt = u → (u.channel n).running = true →
    (u.chain n).mode = 1 → (u.channel n).line.locked = false → (u.channel n).line.hold = false →
    (u.chain n).lineRef = k → (u.channel k).running = true →
    (u.channel k).resetCycle + (u.chain k).settleIndex * (u.chain k).m1 + u.fMod / 10 ≤ u.modDom.cycle →
    exec (.lineLockTimeout dt n) s = .next (u.modChannel n (fun c => { c with
      line := { c.line with hold := true, good := 0 } })))

/-- Resting on R155, R158, R168, R171, R172, R184, R193, R195, R199, R214, R232 and R244: a whole second commits once it has
come and its cycles are in, or 100 ms have gone by (log 52); the bank takes its second and its registers with the whole
units added, none of which falls. A calendar that waits starts at the first commit on a minute boundary from its
instant on and its acceptance. A complete analysis cycle is analysed, one with a bad sample adding no amounts; a
weighing position forms its mass, or ends the stability and is remembered where a cell is diagnosed. A provisional
update takes each position once, asks for the terms, and steps the canceller with those last read; it shows nothing
without an accelerometer value. A harmonic record is delivered once for each second whose copies are in. A
transaction and a calibration time out. -/
def Obligations.MeteringFollowsItsEvents : Prop :=
  (∀ (s u : State) (dt : Ticks) (sec : Nat), s.elapse dt = u → u.legalRuns = true →
    sec = u.legal.lastCommit + 1000000000 → sec ≤ u.nodeTime →
    (sec + 100000000 ≤ u.nodeTime ∨ ∀ m < 4, u.mpType m = typeElec → ∀ t, (u.point m).cycleStart = some t → sec ≤ t) →
    ∃ t, exec (.commitSecond dt) s = .next t ∧ t = u.commitAt sec false ∧ t.legal.lastCommit = sec) ∧
  (∀ (s u : State) (dt : Ticks), s.elapse dt = u → u.legalRuns = false ∨
    u.nodeTime < u.legal.lastCommit + 1000000000 → exec (.commitSecond dt) s = .next u) ∧
  (∀ (s : State) (m sec tariff : Nat) (l : List Nat), (s.newBank m sec tariff l).commitS = sec ∧
    (s.newBank m sec tariff l).regs = addRegs (s.point m).bank.regs l tariff ∧
    (s.newBank m sec tariff l).gen = ((s.point m).bank.gen + 1) % 4294967296) ∧
  (∀ (s : State) (m sec tariff : Nat), m < s.points.length → ∃ k : BankCopy, k = s.newBank m sec tariff (s.point m).amounts ∧
    (k.gen % 2 = 0 → ((s.commitBank m sec tariff false).point m).copyA = k ∧
      ((s.commitBank m sec tariff false).point m).copyB = (s.point m).copyB) ∧
    (k.gen % 2 = 1 → ((s.commitBank m sec tariff false).point m).copyB = k ∧
      ((s.commitBank m sec tariff false).point m).copyA = (s.point m).copyA)) ∧
  (∀ (regs amounts : List Nat) (tariff i : Nat), (∀ r ∈ regs, r < 2 ^ 64) →
    regs.getD i 0 ≤ (addRegs regs amounts tariff).getD i 0 ∧ (addRegs regs amounts tariff).getD i 0 < 2 ^ 64 ∧
      (addRegs regs amounts tariff).length = regs.length) ∧
  (∀ (regs amounts : List Nat) (tariff q : Nat), q < amounts.length → 1 ≤ tariff → tariff ≤ 8 →
    8 * q + tariff - 1 < regs.length → (addRegs regs amounts tariff).getD (8 * q + tariff - 1) 0 =
      min (2 ^ 64 - 1) (regs.getD (8 * q + tariff - 1) 0 + amounts.getD q 0 / 2 ^ 32)) ∧
  (∀ (s u : State) (dt : Ticks), s.elapse dt = u → u.legalRuns = true → u.ntu.status ≠ .invalid →
    u.legal.passive.state = 1 → u.legal.passive.at_ ≤ u.legal.lastCommit → u.legal.activateFrom ≤ u.legal.lastCommit →
    u.legal.lastCommit % 60000000000 = 0 →
    ∃ t, exec (.calendarActivation dt) s = .next t ∧ t.legal.active.bytes = u.legal.passive.bytes ∧
      t.legal.active.state = 1 ∧ t.legal.active.at_ = u.legal.lastCommit ∧ t.legal.passive.state = 2) ∧
  (∀ (s u : State) (dt : Ticks), s.elapse dt = u → u.legal.passive.state ≠ 1 ∨
    u.legal.lastCommit < u.legal.passive.at_ ∨ u.legal.lastCommit < u.legal.activateFrom ∨
    u.legal.lastCommit % 60000000000 ≠ 0 → exec (.calendarActivation dt) s = .next u) ∧
  (∀ (s u : State) (dt : Ticks) (m : Nat) (w : Span), s.elapse dt = u → m < 4 → u.mpType m = typeElec →
    u.legalRuns = true → u.cycleSpan m = some w → exec (.analysisCycle dt m) s = .next (u.analyse m w)) ∧
  (∀ (s u : State) (dt : Ticks) (m : Nat), s.elapse dt = u → u.cycleSpan m = none →
    exec (.analysisCycle dt m) s = .next u) ∧
  (∀ (s : State) (m : Nat) (w : Span), m < s.points.length → ((s.analyse m w).point m).cycleStart = some w.stop ∧
    (s.cycleGood m w = false → ((s.analyse m w).point m).amounts = (s.point m).amounts ∧
      ((s.analyse m w).point m).carried = (s.point m).carried)) ∧
  (∀ (s u : State) (dt : Ticks) (m t : Nat) (rs : List Record), s.elapse dt = u → m < 4 → u.mpType m = typeWaste →
    u.legalRuns = true → u.positionRecords m = some rs → t = (rs.map (·.instant)).foldl max 0 →
    exec (.weighPosition dt m) s = .next (
      if rs.all Record.good = true ∧ u.chainsAgree m = true then u.massPosition m rs t
      else u.modWeigh m (fun w => { w with
        stable := false, since := none, lastPosition := some t
        badAt := if rs.any (fun r => r.status &&& 0x6F#16 != 0) then some t else w.badAt }))) ∧
  (∀ (s : State) (m t : Nat) (rs : List Record), m < s.points.length →
    ∃ x : WeighPoint, ((s.massPosition m rs t).point m).weigh.latest = some x ∧ x.instant = t ∧
      x.mass = massOf (s.calBlock m) (cellSum (s.calBlock m) rs) ∧ x.gross = x.mass - (s.point m).weigh.zop ∧
      x.codes = rs.map (·.value) ∧ ((s.massPosition m rs t).point m).weigh.lastPosition = some t) ∧
  (∀ (s u : State) (dt : Ticks) (m : Nat) (t : Txn), s.elapse dt = u → m < 4 → u.legalRuns = true →
    (u.point m).weigh.txn = some t → t.since + t.timeoutS * 1000000000 ≤ u.mono →
    exec (.weighTimeout dt m) s = .next ((u.cancelTxn m 1 0xFF).tell (.txnTimeout m t.number))) ∧
  (∀ (s : State) (m cause origin : Nat), m < s.points.length →
    ((s.cancelTxn m cause origin).point m).weigh.txn = none) ∧
  (∀ (s u : State) (dt : Ticks) (m : Nat), s.elapse dt = u →
    u.commonRecords (bindLegal (u.binding m)) (u.point m).prov.lastTaken = none →
    exec (.provUpdate dt m) s = .next u) ∧
  (∀ (s u v : State) (dt : Ticks) (m t : Nat) (rs : List Record), s.elapse dt = u → m < 4 → u.ready = true →
    u.mpType m = typeWaste → u.pnum (pointId m 0x60) = 1 →
    u.commonRecords (bindLegal (u.binding m)) (u.point m).prov.lastTaken = some rs →
    t = (rs.map (·.instant)).foldl max 0 →
    v = ((u.modProv m (fun p => { p with lastTaken := some t })).askStatus 2 m).takeAccel m t →
    exec (.provUpdate dt m) s = .next (match (v.point m).prov.terms with
      | none => v
      | some terms => if rs.all Record.good then v.provPosition m rs t terms else v)) ∧
  (∀ (s : State) (m t : Nat) (rs : List Record) (terms : Bytes),
    (accelStream t (s.point m).prov.accel = none →
      s.provPosition m rs t terms = s.modProv m (fun p => { p with shown := false })) ∧
    (∀ a, accelStream t (s.point m).prov.accel = some a → ∃ shown : Bool, s.provPosition m rs t terms =
      s.modProv m (fun p => { p.step (s.pnum (pointId m 0x62)) (ofInt (provGross terms rs)) a
        (ofInt (provTare terms)) with shown := shown }) ∧ (s.weighStable m = true → shown = false))) ∧
  (∀ (s u : State) (dt : Ticks) (m : Nat), s.elapse dt = u → m < 4 → u.ready = true →
    (u.point m).prov.shown = true →
    exec (.provStabilityPoll dt m) s = .next (
      if (u.gate.own.any (fun x => x.2 == [4, byte m]) || u.gate.waiting.any (fun x => x.2 == [4, byte m])) then u
      else u.schedule 1 [4, byte m])) ∧
  (∀ (s u : State) (dt : Ticks) (m n now : Nat) (b : Bytes) (phases : List (Option (List Float) × Option (List Float))),
    s.elapse dt = u → m < 4 → u.ready = true → u.pnum (pointId m 0x90) = 1 → u.harmReady m = true →
    b = u.binding m → now = u.nodeTime / 1000000000 * 1000000000 → n = (u.chain (bindPch b 0)).lineN →
    (u.point m).harmSecond ≠ some now →
    phases = ((upTo (phaseCount b)).map (phaseChannels b)).map (fun ch =>
      (u.captureCopies ch.1 n now, u.captureCopies ch.2 n now)) →
    (phases.any (fun q => q.1.isNone || q.2.isNone) = true →
      exec (.harmonicSecond dt m) s = .next u) ∧
    (phases.any (fun q => q.1.isNone || q.2.isNone) = false →
      (bindPch b 6 < 16 → (u.captureCopies (bindPch b 6) n now).isSome = true) →
      ∃ w r, exec (.harmonicSecond dt m) s = .next ((w.modPoint m (fun p => { p with
          harmSecond := some now })).offerBulk 0x0482 ([byte m, byte (min 50 (n / 2 - 1)),
            byte (phaseCount b + if bindPch b 6 < 16 then 1 else 0)] ++ zeros 5 ++ leBytes 8 now ++ r)) ∧
        ∃ free, w = { u with free := free })) ∧
  (∀ (s u : State) (dt : Ticks) (m : Nat), s.elapse dt = u →
    (u.point m).harmSecond = some (u.nodeTime / 1000000000 * 1000000000) →
    exec (.harmonicSecond dt m) s = .next u) ∧
  (∀ (s u : State) (dt : Ticks) (c : CalSeq), s.elapse dt = u → u.legal.calSeq = some c → u.legalRuns = true →
    c.lastStep + 3600000000000 ≤ u.mono →
    ∃ t, exec (.calIdleTimeout dt) s = .next t ∧ t.legal.calSeq = none ∧ t.legal.calStore = u.legal.calStore ∧
      t.legal.calcnt = u.legal.calcnt)

/-! ### The gate -/

/-- Resting on R28, R169, R219, R233, R263, R266, R277, R321 and Table 12.2: the LC answers the oldest request of a class.
READ_STATUS gives its extension, or for one byte the CHAIN_INFO of a channel; READ_REGISTERS the bank's header and
registers; SIGN_READING a signed snapshot or a stored transaction; READ_LOG at most 84 entries from START on; ATTEST a
signed body under the next ASEQ. Malformed requests are BAD_PARAM, a register fault or a bad key INTEGRITY, and a
missing transaction or number NO_RESOURCE. A request that signs waits while the LC has two contexts open. A reserved code
is BAD_OPCODE and logged. -/
def Obligations.GateReadsAnswer : Prop :=
  (∀ (s u : State) (dt : Ticks) (r : GateRequest), s.elapse dt = u → u.nextRequest 1 = some r →
    (r.payload.length = 2 →
      exec (.gateReadStatus dt) s = .next (u.answer r (u.readExt (field r.payload 0 1) (field r.payload 1 1)).1
        (u.readExt (field r.payload 0 1) (field r.payload 1 1)).2)) ∧
    (r.payload.length = 1 → exec (.gateReadStatus dt) s = .next (
      if 16 ≤ field r.payload 0 1 then u.answer r stBadParam []
      else if u.pchMode (field r.payload 0 1) = 0 then u.answer r stDeniedState []
      else u.answer r stDone (u.chainInfo (field r.payload 0 1)))) ∧
    (r.payload.length ≠ 1 → r.payload.length ≠ 2 →
      exec (.gateReadStatus dt) s = .next (u.answer r stBadParam []))) ∧
  (∀ (s : State) (arg : Nat), s.readExt 0 0 = (stDone, s.extNode) ∧ s.readExt 1 0 = (stDone, s.extCounters) ∧
    (arg < 16 → s.readExt 5 arg = (stDone, s.extChannel arg) ∧ s.readExt 6 arg = (stDone, s.extCounter arg)) ∧
    (arg < 4 → s.readExt 2 arg =
      (if s.mpType arg = typeWaste then (stDone, s.extWeighTerms arg) else (stDeniedState, []))) ∧
    (arg < 4 → s.readExt 3 arg =
      (if s.mpType arg = typeElec then (stDone, s.extElec arg) else (stDeniedState, []))) ∧
    (arg < 4 → s.readExt 4 arg =
      (if s.mpType arg = typeWaste then (stDone, s.extWeigh arg) else (stDeniedState, []))) ∧
    (arg < 4 → s.readExt 7 arg = (stDone, s.extExc arg)) ∧
    (∀ ext, 8 ≤ ext → s.readExt ext arg = (stBadParam, []))) ∧
  (∀ (s u : State) (dt : Ticks) (r : GateRequest) (m first n : Nat), s.elapse dt = u → u.nextRequest 2 = some r →
    field r.payload 0 1 = m → field r.payload 1 1 = first → field r.payload 2 2 = n →
    (r.payload.length = 4 → m < 4 → 1 ≤ n → first + n ≤ 256 → (u.point m).regFault = false →
      ∀ k, k = (u.point m).bank →
      exec (.gateReadRegisters dt) s = .next (u.answer r stDone (leBytes 8 k.commitS ++ leBytes 4 k.gen ++
        [byte k.type, byte k.subtype, byte k.flags, byte k.tstat] ++
        (upTo n).flatMap (fun i => leBytes 8 (k.regs.getD (first + i) 0))))) ∧
    (r.payload.length = 4 → m < 4 → 1 ≤ n → first + n ≤ 256 → (u.point m).regFault = true →
      exec (.gateReadRegisters dt) s = .next (u.answer r stIntegrity [])) ∧
    (r.payload.length ≠ 4 ∨ 4 ≤ m ∨ n = 0 ∨ 256 < first + n →
      exec (.gateReadRegisters dt) s = .next (u.answer r stBadParam []))) ∧
  (∀ (s u : State) (dt : Ticks), s.elapse dt = u → 2 ≤ u.crypto.lcCount →
    exec (.gateSignReading dt) s = .next u ∧ exec (.gateAttest dt) s = .next u) ∧
  (∀ (s u : State) (dt : Ticks) (r : GateRequest) (key : Nat), s.elapse dt = u → u.nextRequest 3 = some r →
    u.crypto.lcCount < 2 → r.payload.length = 8 → rsv r.payload 1 1 = true → field r.payload 0 1 = 1 →
    field r.payload 2 2 = key →
    (field r.payload 4 4 ≠ 0 ∨ u.regKeyOk key = false →
      exec (.gateSignReading dt) s = .next (u.answer r stBadParam [])) ∧
    (field r.payload 4 4 = 0 → u.regKeyOk key = true → (u.point (key / 256 % 4)).regFault = true ∨
        u.legal.readingKey = false → exec (.gateSignReading dt) s = .next (u.answer r stIntegrity [])) ∧
    (field r.payload 4 4 = 0 → u.regKeyOk key = true → (u.point (key / 256 % 4)).regFault = false →
      u.legal.readingKey = true →
      (u.numbersLeft = false → exec (.gateSignReading dt) s = .next (u.answer r stNoResource [])) ∧
      (u.numbersLeft = true →
        exec (.gateSignReading dt) s = .next ((u.snapshot key).2.answer r stDone (u.snapshot key).1)))) ∧
  (∀ (s u : State) (dt : Ticks) (r : GateRequest), s.elapse dt = u → u.nextRequest 3 = some r →
    u.crypto.lcCount < 2 → r.payload.length ≠ 8 ∨ rsv r.payload 1 1 = false ∨ field r.payload 0 1 = 0 ∨
      2 < field r.payload 0 1 ∨ (field r.payload 0 1 = 2 ∧ field r.payload 2 2 ≠ 256 * (field r.payload 2 2 / 256 % 4)) →
    exec (.gateSignReading dt) s = .next (u.answer r stBadParam [])) ∧
  (∀ (s : State) (key : Nat) (k : BankCopy) (b : Bytes), k = (s.point (key / 256 % 4)).bank →
    b = (s.snapshot key).1 → field b 1 1 = 1 ∧ field b 32 8 = k.commitS % 2 ^ 64 ∧
      field b 40 8 = k.regs.getD (key % 256) 0 % 2 ^ 64 ∧
      b.drop 128 = ecdsaSign (toScalar Config.readingKey) (sha256 (b.take 128))) ∧
  (∀ (s u : State) (dt : Ticks) (r : GateRequest) (m : Nat), s.elapse dt = u →
    u.nextRequest 3 = some r → u.crypto.lcCount < 2 → r.payload.length = 8 → rsv r.payload 1 1 = true →
    field r.payload 0 1 = 2 → field r.payload 2 2 = 256 * m → m < 4 →
    ((u.point m).regFault = true ∨ u.legal.readingKey = false →
      exec (.gateSignReading dt) s = .next (u.answer r stIntegrity [])) ∧
    ((u.point m).regFault = false → u.legal.readingKey = true →
      exec (.gateSignReading dt) s = .next (
        match (u.point m).weigh.bodies.find? (fun b => b.1 == field r.payload 4 4) with
        | some b => u.answer r stDone (b.2 ++ ecdsaSign (toScalar Config.readingKey) (sha256 b.2))
        | none => u.answer r stNoResource []))) ∧
  (∀ (s u : State) (dt : Ticks) (r : GateRequest) (log n start : Nat), s.elapse dt = u → u.nextRequest 4 = some r →
    field r.payload 0 1 = log → field r.payload 2 2 = n →
    (r.payload.length = 12 → log < 2 → rsv r.payload 1 1 = true →
      rsv r.payload 10 2 = true → 1 ≤ n → n ≤ 84 → (log = 1 → field r.payload 8 2 = 0) →
      start = field r.payload 4 4 + 4294967296 * field r.payload 8 2 →
      ∃ head, exec (.gateReadLog dt) s = .next (u.answer r stDone (head ++
          (((if log = 0 then u.legal.eventLog else u.legal.sealLog).reverse.filter
            (fun e => decide (start ≤ e.seqNo))).take n).flatMap LogEntry.toBytes)) ∧ head.length = 16 ∧
        field head 0 4 = (if log = 0 then u.legal.elseq else u.legal.sealLog.length) % 4294967296) ∧
    (r.payload.length ≠ 12 ∨ 2 ≤ log ∨ rsv r.payload 1 1 = false ∨ rsv r.payload 10 2 = false ∨ n = 0 ∨ 84 < n ∨
      (log = 1 ∧ field r.payload 8 2 ≠ 0) → exec (.gateReadLog dt) s = .next (u.answer r stBadParam []))) ∧
  (∀ (s u : State) (dt : Ticks) (r : GateRequest), s.elapse dt = u → u.nextRequest 5 = some r →
    u.crypto.lcCount < 2 →
    (r.payload.length ≠ 32 → exec (.gateAttest dt) s = .next (u.answer r stBadParam [])) ∧
    (r.payload.length = 32 → u.legal.attestKey = false →
      exec (.gateAttest dt) s = .next (u.answer r stIntegrity [])) ∧
    (r.payload.length = 32 → u.legal.attestKey = true →
      ∃ v : State, v = u.modLegal (fun l => l.putAseq (min 4294967295 (l.aseq + 1))) ∧
        exec (.gateAttest dt) s = .next (v.answer r stDone (v.attestBody r.payload ++
          ecdsaSign (toScalar Config.attestKey) (sha256 (v.attestBody r.payload)))))) ∧
  (∀ (s u : State) (dt : Ticks) (r : GateRequest), s.elapse dt = u → u.legalRuns = true →
    u.gate.requests.find? (fun x => requestClass x.code == 0) = some r → r.code = 0 ∨ 16 < r.code →
    exec (.gateReservedCode dt) s = .next ((u.logAt u.nodeTime false 0x0D 1 (originCode r.origin) 0xFF
      ([byte r.code, byte stBadOpcode, 0, 0] ++ leBytes 4 r.gseq)).answer r stBadOpcode []))

/-- Resting on R79, R165 to R168, R220, R221, R224, R240, R325, R498 and Tables 6.5 and 6.6: a change is refused by the
first check that fails, else it takes effect and is answered. A parameter is applied, an equal value only stored; a class
L-sealed parameter is DENIED_SEAL with the seal closed. Time is set and answered with the time before and after; a
calendar becomes the passive one; the owner lock is stored and traced. A transaction is begun where none of the node is
open, passed, finished or cancelled; the seal log and the bank of a released point are archived, which empties the one
and zeroes the other. INTEGRITY and NO_RESOURCE of a final pass are the model's choice (log 56). -/
def Obligations.GateChangesTakeEffect : Prop :=
  (∀ (s u : State) (dt : Ticks) (r : GateRequest) (id st : Nat), s.elapse dt = u → u.nextRequest 6 = some r →
    4 ≤ r.payload.length → field r.payload 0 2 = id →
    st = u.setParamStatus id (field r.payload 2 2) (r.payload.drop 4) →
    (st = stDone → u.sameValue id (r.payload.drop 4) = false →
      exec (.gateSetParam dt) s =
        .next ((u.applyParam id (r.payload.drop 4) (originCode r.origin)).answer r stDone [])) ∧
    (st = stDone → u.sameValue id (r.payload.drop 4) = true →
      exec (.gateSetParam dt) s = .next ((u.putParam id (r.payload.drop 4)).answer r stDone [])) ∧
    (st ≠ stDone → exec (.gateSetParam dt) s = .next ((if st = stNoResource ∧ u.classNow id = 1 ∧
      u.sealSpace = false then u.noteSealFull (originCode r.origin) else u).answer r st []))) ∧
  (∀ (s u : State) (dt : Ticks) (r : GateRequest), s.elapse dt = u → u.nextRequest 6 = some r →
    r.payload.length < 4 → exec (.gateSetParam dt) s = .next (u.answer r stBadParam [])) ∧
  (∀ (s : State) (id len : Nat) (v : Bytes), legalSide id = true → (paramInfo id).isSome = true →
    s.classNow id = 1 → s.legal.sealOpen = false → s.setParamStatus id len v = stDeniedSeal) ∧
  (∀ (s u : State) (dt : Ticks) (r : GateRequest), s.elapse dt = u → u.nextRequest 7 = some r →
    (r.payload.length = 80 → (u.ownerAuth r.payload).1 = stDone → u.setTimeOk r.payload = true →
      ∃ v, v = (u.consume (u.ownerAuth r.payload).2).applySetTime r.payload (originCode r.origin) ∧
        exec (.gateSetTime dt) s = .next (v.answer r stDone (leBytes 8 u.nodeTime ++ leBytes 8 v.nodeTime))) ∧
    (r.payload.length = 80 → (u.ownerAuth r.payload).1 ≠ stDone →
      exec (.gateSetTime dt) s = .next (u.answer r (u.ownerAuth r.payload).1 [])) ∧
    (r.payload.length ≠ 80 ∨ ((u.ownerAuth r.payload).1 = stDone ∧ u.setTimeOk r.payload = false) →
      exec (.gateSetTime dt) s = .next (u.answer r stBadParam []))) ∧
  (∀ (s u : State) (dt : Ticks) (r : GateRequest) (cal : Bytes), s.elapse dt = u → u.nextRequest 8 = some r →
    cal = r.payload.take 1920 →
    (r.payload.length = 1988 → (u.ownerAuth r.payload).1 = stDone → calendarOk cal = true →
      ∃ t w : State, exec (.gateLoadCalendar dt) s = .next t ∧ t = w.answer r stDone [] ∧
        t.legal.passive.bytes = cal ∧ t.legal.passive.state = 1 ∧ t.legal.active = u.legal.active ∧
        t.legal.passive.at_ = (if field cal 8 8 = 0 then (u.nodeTime / 60000000000 + 1) * 60000000000
          else field cal 8 8)) ∧
    (r.payload.length = 1988 → (u.ownerAuth r.payload).1 ≠ stDone →
      exec (.gateLoadCalendar dt) s = .next (u.answer r (u.ownerAuth r.payload).1 [])) ∧
    (r.payload.length ≠ 1988 ∨ ((u.ownerAuth r.payload).1 = stDone ∧ calendarOk cal = false) →
      exec (.gateLoadCalendar dt) s = .next (u.answer r stBadParam []))) ∧
  (∀ (s u : State) (dt : Ticks) (r : GateRequest), s.elapse dt = u → u.nextRequest 9 = some r →
    (r.payload.length = 72 → (u.ownerAuth r.payload).1 = stDone → field r.payload 0 1 ≤ 1 →
      rsv r.payload 1 3 = true →
      exec (.gateSetOwnerLock dt) s = .next (((((u.consume (u.ownerAuth r.payload).2).putParam 0x7000
        (r.payload.take 1)).traceLogged 0x7000 (u.param 0x7000) (r.payload.take 1) (originCode r.origin)).unfault
          0x7000).answer r stDone [])) ∧
    (r.payload.length = 72 → (u.ownerAuth r.payload).1 ≠ stDone →
      exec (.gateSetOwnerLock dt) s = .next (u.answer r (u.ownerAuth r.payload).1 [])) ∧
    (r.payload.length ≠ 72 ∨ ((u.ownerAuth r.payload).1 = stDone ∧
        (1 < field r.payload 0 1 ∨ rsv r.payload 1 3 = false)) →
      exec (.gateSetOwnerLock dt) s = .next (u.answer r stBadParam []))) ∧
  (∀ (s u : State) (dt : Ticks) (r : GateRequest) (m n : Nat), s.elapse dt = u → u.nextRequest 10 = some r →
    field r.payload 0 1 = m → (u.point m).weigh.nextTxn = n →
    (u.weighBeginOk r.payload = true → u.txnOpen m = false → u.anyTxnOpen = false →
      ∃ t : Txn, t.number = n ∧ t.tareKind = field r.payload 1 1 ∧ t.tenant = field r.payload 4 8 ∧
        t.preset = field r.payload 12 4 ∧ t.timeoutS = field r.payload 2 2 ∧ t.since = u.mono ∧ t.grossPass = none ∧
        exec (.gateWeighBegin dt) s = .next ((u.modWeigh m (fun w => { w with
          tare := if field r.payload 1 1 = 1 then some ⟨mg (field r.payload 12 4), true⟩ else none
          nextTxn := (n + 1) % 4294967296, txn := some t })).endLcvScreens.answer r stDone (leBytes 4 n))) ∧
    (u.weighBeginOk r.payload = false → exec (.gateWeighBegin dt) s = .next (u.answer r stBadParam [])) ∧
    (u.weighBeginOk r.payload = true → u.txnOpen m = true ∨ u.anyTxnOpen = true →
      exec (.gateWeighBegin dt) s = .next (u.answer r stDeniedState []))) ∧
  (∀ (s u : State) (dt : Ticks) (r : GateRequest) (m : Nat) (t : Txn), s.elapse dt = u → u.nextRequest 11 = some r →
    r.payload.length = 2 → field r.payload 0 1 = m → m < 4 → (u.point m).weigh.txn = some t →
    (field r.payload 1 1 = 1 → u.weighCommitStatus m 1 t = stDone →
      exec (.gateWeighCommit dt) s = .next (u.grossPass m t r)) ∧
    (field r.payload 1 1 = 2 → u.weighCommitStatus m 2 t = stDone →
      exec (.gateWeighCommit dt) s = .next (u.finalPass m t r)) ∧
    (∀ k st, field r.payload 1 1 = k → k = 1 ∨ k = 2 → u.weighCommitStatus m k t = st → st ≠ stDone →
      exec (.gateWeighCommit dt) s = .next (u.answer r st []))) ∧
  (∀ (s : State) (m pass : Nat) (t : Txn) (e : Int), e = (s.wg m).e1 → s.weighCommitStatus m pass t =
    if (if pass = 1 then t.tareKind = 2 ∧ t.grossPass = none else t.tareKind = 2 → t.grossPass ≠ none) then
      (if s.cellsFaulty m then stFault
      else if s.weighStable m = false then stMoving
      else if (s.point m).weigh.zeroSet = false ∨ (s.wg m).overload (s.point m).weigh.gross = true ∨
        (s.wg m).underload (s.point m).weigh.gross = true then stDeniedState
      else if (if pass = 1 then (s.wg m).indicated (s.point m).weigh.gross else (s.finalValues m t).1) < 20 * e
        then stDeniedState
      else if pass = 2 ∧ (s.point m).regFault = true then stIntegrity
      else if pass = 2 ∧ s.numbersLeft = false then stNoResource else stDone)
    else stBadParam) ∧
  (∀ (s : State) (m : Nat) (t : Txn) (r : GateRequest) (g : Int), m < s.points.length →
    g = (s.wg m).indicated (s.point m).weigh.gross →
    s.grossPass m t r = (s.modWeigh m (fun w => { w with
      txn := some { t with grossPass := some (g, s.nodeTime) } })).endLcvScreens.answer r stDone (sBytes 8 g) ∧
    ((s.finalPass m t r).point m).weigh.txn = none ∧ ((s.finalPass m t r).point m).weigh.tare = none ∧
    ∃ body, (((s.finalPass m t r).point m).weigh.bodies).head? = some (t.number, body)) ∧
  (∀ (s u : State) (dt : Ticks) (r : GateRequest), s.elapse dt = u → u.nextRequest 11 = some r →
    (r.payload.length ≠ 2 ∨ 4 ≤ field r.payload 0 1 ∨ field r.payload 1 1 = 0 ∨ 2 < field r.payload 1 1 →
      exec (.gateWeighCommit dt) s = .next (u.answer r stBadParam [])) ∧
    (r.payload.length = 2 → field r.payload 0 1 < 4 → 1 ≤ field r.payload 1 1 → field r.payload 1 1 ≤ 2 →
      (u.point (field r.payload 0 1)).weigh.txn = none →
      exec (.gateWeighCommit dt) s = .next (u.answer r stDeniedState []))) ∧
  (∀ (s u : State) (dt : Ticks) (r : GateRequest) (m : Nat), s.elapse dt = u → u.nextRequest 12 = some r →
    field r.payload 0 1 = m →
    (r.payload.length = 1 → m < 4 → exec (.gateWeighCancel dt) s = .next (match (u.point m).weigh.txn with
      | some t => (u.cancelTxn m 0 (originCode r.origin)).answer r stDone (leBytes 4 t.number)
      | none => u.answer r stDeniedState [])) ∧
    (r.payload.length ≠ 1 ∨ 4 ≤ m → exec (.gateWeighCancel dt) s = .next (u.answer r stBadParam []))) ∧
  (∀ (s u : State) (dt : Ticks) (r : GateRequest), s.elapse dt = u → u.nextRequest 15 = some r →
    (u.sealArchiveStatus r.payload = stDone →
      ∃ t b, exec (.gateSealLogArchive dt) s = .next (State.answer t r stDone b) ∧
        t.legal.slarch = u.legal.slarch + 1 ∧ t.legal.missed = 0 ∧ t.legal.sealLog.length = 1) ∧
    (u.sealArchiveStatus r.payload ≠ stDone →
      exec (.gateSealLogArchive dt) s = .next (u.answer r (u.sealArchiveStatus r.payload) []))) ∧
  (∀ (s u : State) (dt : Ticks) (r : GateRequest) (m st : Nat), s.elapse dt = u → u.nextRequest 16 = some r →
    st = u.regArchiveStatus r.payload → field r.payload 0 1 = m →
    (st = stDone → m < u.points.length →
      ∃ t b, exec (.gateRegArchive dt) s = .next (State.answer t r stDone b) ∧
        t.legal.cfgcnt = min 4294967295 (u.legal.cfgcnt + 1) ∧ (∀ i, (t.point m).bank.regs.getD i 0 = 0) ∧
        ∀ j, j ≠ m → t.point j = u.point j) ∧
    (st ≠ stDone → exec (.gateRegArchive dt) s = .next ((if st = stNoResource ∧ u.sealSpace = false then
      u.noteSealFull (originCode r.origin) else u).answer r st [])))

/-- Resting on Tables 8.4 and 8.5 and R212 to R214: a CALIBRATE with a malformed field is BAD_PARAM, before the seal is
tested (the model's choice, log 31); a closed seal refuses each step. With the seal open BEGIN opens a sequence; each
step that fits it forms its figure and stages it: the mean of S for ZERO, the change of S for a CORNER and, under the
staged corners, for SPAN, the terms of a phase from 50 analysis cycles, and R_REF within 0.5 % of nominal; a step out
of place, out of range or without its ZERO is refused. COMMIT of a whole set writes the block under the next CALCNT
and ends the sequence; ABORT ends it. -/
def Obligations.CalibrationStagesAndCommits : Prop :=
  (∀ (s u : State) (dt : Ticks) (r : GateRequest), s.elapse dt = u → u.nextRequest 13 = some r →
    calFieldsOk r.payload = false → exec (.calBegin dt) s = .next (u.answer r stBadParam [])) ∧
  (∀ (s u : State) (dt : Ticks) (r : GateRequest) (k : Nat), s.elapse dt = u → u.nextRequest 13 = some r →
    calFieldsOk r.payload = true → field r.payload 0 1 = k → u.legal.sealOpen = false →
    (k = 1 → exec (.calBegin dt) s = .next (u.answer r stDeniedSeal [])) ∧
    (k = 2 → exec (.calZero dt) s = .next (u.answer r stDeniedSeal [])) ∧
    (k = 3 → exec (.calCorner dt) s = .next (u.answer r stDeniedSeal [])) ∧
    (k = 4 → exec (.calSpan dt) s = .next (u.answer r stDeniedSeal [])) ∧
    (k = 5 → exec (.calElecRef dt) s = .next (u.answer r stDeniedSeal [])) ∧
    (k = 6 → exec (.calRref dt) s = .next (u.answer r stDeniedSeal [])) ∧
    (k = 7 → exec (.calCommit dt) s = .next (u.answer r stDeniedSeal [])) ∧
    (k = 8 → exec (.calAbort dt) s = .next (u.answer r stDeniedSeal []))) ∧
  (∀ (s u : State) (dt : Ticks) (r : GateRequest) (m : Nat), s.elapse dt = u → u.nextRequest 13 = some r →
    calFieldsOk r.payload = true → field r.payload 0 1 = 1 → field r.payload 1 1 = m → u.legal.sealOpen = true →
    (u.calBeginStatus m = stDone →
      exec (.calBegin dt) s = .next ((u.modLegal (fun l => { l with calSeq := (some
        ⟨m, u.binding m, u.mono, none, [none, none, none, none], none, [none, none, none], [none, none]⟩) })).answer r
          stDone [])) ∧
    (u.calBeginStatus m ≠ stDone → exec (.calBegin dt) s = .next ((if u.calBeginStatus m = stNoResource then
      u.noteSealFull (originCode r.origin) else u).answer r (u.calBeginStatus m) []))) ∧
  (∀ (s u : State) (dt : Ticks) (r : GateRequest) (m k st : Nat), s.elapse dt = u → u.nextRequest 13 = some r →
    calFieldsOk r.payload = true → field r.payload 0 1 = k → field r.payload 1 1 = m → u.legal.sealOpen = true →
    u.calStepStatus m k = st → st ≠ stDone →
    (k = 2 → exec (.calZero dt) s = .next (u.answer r st [])) ∧
    (k = 3 → exec (.calCorner dt) s = .next (u.answer r st [])) ∧
    (k = 4 → exec (.calSpan dt) s = .next (u.answer r st [])) ∧
    (k = 5 → exec (.calElecRef dt) s = .next (u.answer r st [])) ∧
    (k = 6 → exec (.calRref dt) s = .next (u.answer r st [])) ∧
    (k = 7 → exec (.calCommit dt) s = .next (u.answer r st [])) ∧
    (k = 8 → exec (.calAbort dt) s = .next (u.answer r st []))) ∧
  (∀ (s : State) (m k : Nat), s.legal.calSeq = none → s.calStepStatus m k = stDeniedState) ∧
  (∀ (s u : State) (dt : Ticks) (r : GateRequest) (m : Nat) (c : CalSeq), s.elapse dt = u →
    u.nextRequest 13 = some r → calFieldsOk r.payload = true → field r.payload 1 1 = m → u.legal.sealOpen = true →
    u.legal.calSeq = some c → u.calStepStatus m (field r.payload 0 1) = stDone →
    (field r.payload 0 1 = 2 → exec (.calZero dt) s = .next (u.calAccept r (fun c => { c with
      zero := some (windowMean16 ones (u.calWindow m)) }))) ∧
    (field r.payload 0 1 = 3 → exec (.calCorner dt) s = .next (match c.zero with
      | some z => if field r.payload 2 1 ≤ (bindLegal (u.binding m)).length then u.calAccept r (fun c => { c with
          corners := setAt c.corners (field r.payload 2 1 - 1) (some (windowMean16 ones (u.calWindow m) - z)) })
        else u.answer r stBadParam []
      | none => u.answer r stBadParam [])) ∧
    (field r.payload 0 1 = 4 → exec (.calSpan dt) s = .next (match c.zero with
      | some z => if mg (u.wg m).max ≤ 10 * sfield r.payload 4 8 then u.calAccept r (fun c => { c with
          span := some (sfield r.payload 4 8, windowMean16 (u.calFactors m) (u.calWindow m) - z) })
        else u.answer r stBadParam []
      | none => u.answer r stBadParam [])) ∧
    (field r.payload 0 1 = 5 → phaseCount (u.binding m) ≤ field r.payload 2 1 - 1 ∨ sfield r.payload 4 8 ≤ 0 ∨
        field r.payload 12 4 = 0 ∨ u.pointSettled m = false →
      exec (.calElecRef dt) s = .next (u.answer r stBadParam [])) ∧
    (field r.payload 0 1 = 5 → field r.payload 2 1 - 1 < phaseCount (u.binding m) → 0 < sfield r.payload 4 8 →
      field r.payload 12 4 ≠ 0 → u.pointSettled m = true →
      exec (.calElecRef dt) s = .next (match u.lastCycles m with
        | none => u
        | some spans => match u.refTerms m (field r.payload 2 1 - 1) r.payload spans with
          | some x => u.calAccept r (fun c => { c with phases := setAt c.phases (field r.payload 2 1 - 1) (some x) })
          | none => u.answer r stBadParam [])) ∧
    (field r.payload 0 1 = 6 → ∀ a nominal, a = sfield r.payload 4 8 →
      nominal = rtdRRef (u.pnum (rtdId (bindRtd (u.binding m) (field r.payload 2 1)))) →
      exec (.calRref dt) s = .next (if 200 * (a - (nominal : Int)).natAbs ≤ nominal then u.calAccept r (fun c => { c with
        rref := setAt c.rref (field r.payload 2 1) (some a.toNat) }) else u.answer r stBadParam [])) ∧
    (field r.payload 0 1 = 8 → exec (.calAbort dt) s =
      .next ((u.discardCal 0 (originCode r.origin)).answer r stDone [])) ∧
    (field r.payload 0 1 = 7 →
      (u.calTerms m = none → exec (.calCommit dt) s = .next (u.answer r stBadParam [])) ∧
      (∀ terms, u.calTerms m = some terms → 65535 ≤ u.legal.calcnt →
        exec (.calCommit dt) s = .next (u.answer r stDeniedState [])) ∧
      (∀ terms, u.calTerms m = some terms → u.legal.calcnt < 65535 → u.sealSpace = false →
        exec (.calCommit dt) s = .next ((u.noteSealFull (originCode r.origin)).answer r stNoResource [])) ∧
      (∀ terms, u.calTerms m = some terms → u.legal.calcnt < 65535 → u.sealSpace = true →
        ∃ (t : State) (l : Legal), exec (.calCommit dt) s =
            .next (State.answer t r stDone (leBytes 2 (u.legal.calcnt + 1))) ∧
          l = u.legal.putCal (setAt u.legal.calStore m (padTo 96 ([byte m, byte (u.mpType m), 0, 0] ++
            leBytes 4 (u.legal.calcnt + 1) ++ terms))) ∧ t.legal.calA = l.calA ∧ t.legal.calB = l.calB ∧
          t.legal.calcnt = u.legal.calcnt + 1 ∧ t.legal.calSeq = none))) ∧
  (∀ (l : Legal) (b : List Bytes), ∃ g, ((l.putCal b).calA = ⟨g, b, true⟩ ∧ (l.putCal b).calB = l.calB) ∨
    ((l.putCal b).calB = ⟨g, b, true⟩ ∧ (l.putCal b).calA = l.calA)) ∧
  (∀ (c : CalSeq) (cells : Nat) (fs : List Nat) (z a d k : Int), c.factors cells = some fs → c.zero = some z →
    c.span = some (a, d) → 0 < d → k = roundDiv (a * 4294967296 * 65536) d.toNat → 0 ≤ k → k < 2 ^ 64 →
    c.wasteTerms cells = some (fs.flatMap (leBytes 4) ++ sBytes 8 (roundDiv z 65536) ++ leBytes 8 k.toNat))

/-- Resting on R27, R28, R37, R172, R247, R298 and R299: while it is READY Undercoat takes the gate's oldest reply: its slot
frees for the next one that waits, a reply that refuses a command goes on to it, and so does one that is done and changes
nothing that Undercoat keeps; a reading joins the queue for delivery, a profile reading the store's too, and a log entry
becomes an event. A freed slot of the gate takes the oldest waiting request. The oldest reading that waits for the store
is stored where the store can take it, and the oldest for delivery goes out where BULK has room for it. -/
def Obligations.GateRepliesAreTakenInOrder : Prop :=
  (∀ (s u v : State) (dt : Ticks) (g code st : Nat) (b : Bytes) (rest : List GateReply) (f : InFlight),
    s.elapse dt = u → u.ready = true → u.gate.replies = .answer g code st b :: rest →
    v = u.modGate (fun x => { x with replies := rest ++ x.outbox.take 1, outbox := x.outbox.drop 1 }) →
    u.gate.own.find? (fun r => r.1 == g) = none → u.hawk.inFlight.find? (fun f => f.gseq == some g) = some f →
    code ≠ 6 → code ≠ 0x0E →
    (st ≠ stDone → exec (.gateReplyReceive dt) s = .next (v.respond f st b)) ∧
    (st = stDone → code ≠ 1 → code ≠ 8 → code ≠ 9 → exec (.gateReplyReceive dt) s = .next (v.respond f stDone b)) ∧
    (st = stDone → code = 1 → exec (.gateReplyReceive dt) s =
      .next ((v.modUpdate (fun x => { x with gateSeen := true })).respond f stDone b))) ∧
  (∀ (s u v : State) (dt : Ticks) (n : Unsolicited) (rest : List GateReply), s.elapse dt = u → u.ready = true →
    u.gate.replies = .news n :: rest →
    v = u.modGate (fun x => { x with replies := rest ++ x.outbox.take 1, outbox := x.outbox.drop 1 }) →
    (∀ r, n = .reading r → exec (.gateReplyReceive dt) s = .next (v.modHawk (fun h => { h with
      delivery := h.delivery ++ [r], toStore := if field r 1 1 = 3 then h.toStore ++ [r] else h.toStore }))) ∧
    (∀ e, n = .logEntry e → u.update.activation = none →
      exec (.gateReplyReceive dt) s = .next (v.postEvent 0x0480 e)) ∧
    (∀ b, n = .sealState b → exec (.gateReplyReceive dt) s = .next v) ∧
    (∀ old new, n = .timeStatus old new →
      exec (.gateReplyReceive dt) s = .next (v.postEvent 0x0580 [byte old, byte new]))) ∧
  (∀ (s u : State) (dt : Ticks), s.elapse dt = u → u.ready = false ∨ u.gate.replies = [] →
    exec (.gateReplyReceive dt) s = .next u) ∧
  (∀ (s u : State) (dt : Ticks) (code : Nat) (p : Bytes) (rest : List (Nat × Bytes)), s.elapse dt = u →
    u.gate.waiting = (code, p) :: rest → u.gate.requests.length < 8 → u.ready = true → u.boot.lcHalt = false →
    exec (.gateSlotFreeSubmit dt) s = .next { u with gate := { u.gate with
      waiting := rest, requests := u.gate.requests ++ [⟨u.gate.nextGseq, code, .host, p, none⟩]
      own := u.gate.own ++ [(u.gate.nextGseq, p)], nextGseq := nextSeq u.gate.nextGseq } }) ∧
  (∀ (s u : State) (dt : Ticks), s.elapse dt = u → u.gate.waiting = [] ∨ 8 ≤ u.gate.requests.length →
    exec (.gateSlotFreeSubmit dt) s = .next u) ∧
  (∀ (s u : State) (dt : Ticks), s.elapse dt = u → exec (.readingDelivery dt) s =
    .next (if u.ready then u.storeNext.deliverNext.handOver else u)) ∧
  (∀ (s : State) (r : Bytes) (rest : List Bytes), s.hawk.toStore = r :: rest → s.profileReady = true →
    s.storeNext = ((s.modHawk (fun h => { h with toStore := rest })).appendReading r).addSeries r) ∧
  (∀ (s : State), s.hawk.toStore = [] → s.storeNext = s) ∧
  (∀ (s : State) (r : Bytes) (rest : List Bytes), s.hawk.delivery = r :: rest →
    (s.bulkRoom r.length = true → s.deliverNext =
      ((s.modHawk (fun h => { h with delivery := rest })).postBulk 0x0481 r).forwardReading r) ∧
    (s.bulkRoom r.length = false → s.deliverNext = s))

/-! ### The SPI target, the rings and the host's memory window -/

/-- Resting on R46, R60, R280 to R285, R298 to R300, R314 and Tables 11.2 to 11.6: while reset is not held a register
frame takes effect word by word and its status byte, the code with ATTN, becomes LAST once the part is READY: a
misaligned frame is BAD_PARAM and does nothing, and so is a word at an offset that is not described; the first refusal
stands. The cause and interrupt bits clear by writing 1, the counters clear when read, a read of NODE_TIME_LO latches
both halves, and a burst of two from it returns them. Before READY what is behind the boot registers reads its reset
value and takes no write but that of the cause and STAGE. A reserved frame does nothing; a frame that is cut keeps the
effect of its whole words and, from READY on, is counted. -/
def Obligations.SpiFramesReachTheRegisters : Prop :=
  (∀ (s : State) (code : Nat), s.endFrame code = s.modHawk (fun h => { h with
    misoStatus := code + 128 * b2n s.hirq
    lastStatus := if s.ready then code + 128 * b2n s.hirq else h.lastStatus })) ∧
  (∀ (s u : State) (dt : Ticks) (v : Word), s.elapse dt = u → u.boot.held = false →
    exec (.resetCauseWrite dt v) s =
      .next ((u.modBoot (fun b => { b with cause := b.cause &&& ~~~v })).endFrame stDone)) ∧
  (∀ (s u : State) (dt : Ticks) (v : Word), s.elapse dt = u → u.boot.held = false →
    (u.ready = true → exec (.irqStatusWrite dt v) s = .next ((u.modHawk (fun h => { h with
      irqStage := h.irqStage && !v.getLsbD 0, irqRingErr := h.irqRingErr && !v.getLsbD 5
      irqEventLost := h.irqEventLost && !v.getLsbD 6, irqSpiErr := h.irqSpiErr && !v.getLsbD 7 })).endFrame stDone)) ∧
    (u.ready = false → exec (.irqStatusWrite dt v) s = .next ((u.modHawk (fun h => { h with
      irqStage := h.irqStage && !v.getLsbD 0 })).endFrame stDone))) ∧
  (∀ (s u : State) (dt : Ticks) (v : Word), s.elapse dt = u → u.boot.held = false → u.ready = true →
    exec (.registerWrite dt 0x34 [v]) s = .next ((u.modHawk (fun h => { h with scratch := v })).endFrame stDone) ∧
      exec (.registerWrite dt 0x44 [v]) s =
        .next ((u.modHawk (fun h => { h with irqEnable := v &&& 0xFF })).endFrame stDone) ∧
      exec (.registerWrite dt 0x48 [v]) s = .next ((u.modHawk (fun h => { h with
        openDrain := v.getLsbD 0, coalUs := v.toNat / 65536 })).endFrame stDone)) ∧
  (∀ (s u v : State) (dt : Ticks) (addr a b : Nat) (x y : Word), s.elapse dt = u → u.boot.held = false →
    addr % 4 = 0 → u.writeRegister addr x = (a, v) → (v.writeRegister (addr + 4) y).1 = b →
    exec (.registerWrite dt addr [x, y]) s = .next ((v.writeRegister (addr + 4) y).2.endFrame
      (if a = stDone then b else a))) ∧
  (∀ (s u : State) (dt : Ticks) (off : Nat) (ws : List Word), s.elapse dt = u → u.boot.held = false → off % 4 ≠ 0 →
    exec (.registerWrite dt off ws) s = .next (u.endFrame stBadParam)) ∧
  (∀ (s u : State) (dt : Ticks) (off : Nat) (v : Word), s.elapse dt = u → u.boot.held = false →
    (off % 4 = 0 → (0x28 ≤ off ∧ off < 0x30) ∨ (0x38 ≤ off ∧ off < 0x40) ∨ (0x70 ≤ off ∧ off < 0x100) ∨ 0x180 ≤ off →
      exec (.registerWrite dt off [v]) s = .next (u.endFrame stBadParam)) ∧
    (u.ready = false → off = 0x34 ∨ off = 0x44 ∨ off = 0x48 ∨ off = 0x4C ∨ off = 0x60 ∨ off = 0x64 →
      exec (.registerWrite dt off [v]) s = .next (u.endFrame stDone))) ∧
  (∀ (s u : State) (dt : Ticks), s.elapse dt = u → u.boot.held = false → u.ready = true →
    exec (.hawkReset dt) s = .next (u.runHawkReset.endFrame stDone)) ∧
  (∀ (s u : State) (dt : Ticks) (n : Nat) (v : Word), s.elapse dt = u → u.boot.held = false → u.ready = true → n < 4 →
    exec (.ringStatusWrite dt n v) s = .next ((u.modRing n (fun r => { r with
      idxErr := r.idxErr && !v.getLsbD 1, cfgErr := r.cfgErr && !v.getLsbD 2 })).endFrame stDone)) ∧
  (∀ (s u : State) (dt : Ticks) (n : Nat), s.elapse dt = u → u.boot.held = false → u.ready = true → n = 1 ∨ n = 2 →
    ∃ w x : Word, w = BitVec.ofNat 32 u.nodeTime ∧ x = BitVec.ofNat 32 (u.nodeTime / 4294967296) ∧
      exec (.nodeTimeLatch dt 0x50 n) s = .next ((u.modHawk (fun h => { h with
        timeLo := w, timeHi := x, miso := if n = 1 then [w] else [w, x] })).endFrame stDone)) ∧
  (∀ (s u : State) (dt : Ticks), s.elapse dt = u → u.boot.held = false →
    (∀ addr n, addr % 4 ≠ 0 → 1 ≤ n → n ≤ 255 → exec (.nodeTimeLatch dt addr n) s = .next ((u.modHawk (fun h => { h with
      miso := List.replicate n 0 })).endFrame stBadParam)) ∧
    (∀ addr, described addr = false → addr % 4 = 0 → exec (.nodeTimeLatch dt addr 1) s = .next ((u.modHawk (fun h =>
      { h with miso := [0] })).endFrame stBadParam)) ∧
    (∀ addr, described addr = true → addr ≠ 0x50 → addr ≠ 0x5C → addr ≠ 0x6C → addr ≠ 0x10C ∨ u.ready = true →
      exec (.nodeTimeLatch dt addr 1) s = .next ((u.modHawk (fun h => { h with
        miso := [BitVec.ofNat 32 (u.peekRegister addr)] })).endFrame stDone)) ∧
    (u.ready = false → exec (.nodeTimeLatch dt 0x10C 1) s = .next ((u.modHawk (fun h =>
      { h with miso := [0] })).endFrame stNotReady))) ∧
  (∀ (s : State), s.ready = true → s.peekRegister 0x34 = s.hawk.scratch.toNat ∧
    s.peekRegister 0x30 = s.hawk.lastStatus + 256 * s.hawk.frameErr ∧ s.peekRegister 0x44 = s.hawk.irqEnable.toNat ∧
    s.peekRegister 0x48 = b2n s.hawk.openDrain + 65536 * s.hawk.coalUs ∧ s.peekRegister 0x40 = s.irqStatus ∧
    s.peekRegister 0x54 = s.hawk.timeHi.toNat ∧ s.peekRegister 0x58 = s.nodeStateNow ∧
    s.peekRegister 0x24 = s.boot.lcv) ∧
  (∀ (s : State), s.ready = false → s.peekRegister 0x34 = 0 ∧ s.peekRegister 0x44 = 1 ∧ s.peekRegister 0x60 = 0xA000 ∧
    s.peekRegister 0x64 = 0x20000 ∧ s.peekRegister 0x40 = b2n s.hawk.irqStage) ∧
  (∀ (s u : State) (dt : Ticks), s.elapse dt = u → u.boot.held = false → u.ready = true →
    exec (.eventLostRead dt 1) s = .next ((u.modHawk (fun h => { h with
        eventLost := 0, miso := [BitVec.ofNat 32 h.eventLost] })).endFrame stDone) ∧
      exec (.bulkDroppedRead dt 1) s = .next ((u.modHawk (fun h => { h with
        bulkDropped := 0, miso := [BitVec.ofNat 32 h.bulkDropped] })).endFrame stDone)) ∧
  (∀ (s : State) (dt : Ticks) (n : Nat), exec (.eventLostRead dt n) s = exec (.nodeTimeLatch dt 0x5C n) s ∧
    exec (.bulkDroppedRead dt n) s = exec (.nodeTimeLatch dt 0x6C n) s) ∧
  (∀ (s u : State) (dt : Ticks) (code : Nat), s.elapse dt = u → u.boot.held = false → code = 0 ∨ 4 < code →
    exec (.spiReservedFrame dt code) s = .next ((u.modHawk (fun h => { h with miso := [] })).endFrame stBadOpcode)) ∧
  (∀ (s u : State) (dt : Ticks) (cut : CutFrame), s.elapse dt = u → u.boot.held = false →
    exec (.spiFrameCut dt cut) s = .next (((if (u.cutEffect cut).ready then (u.cutEffect cut).modHawk (fun h => { h with
      frameErr := min 65535 (h.frameErr + 1), irqSpiErr := true }) else u.cutEffect cut)).endFrame stAborted)) ∧
  (∀ (s : State) (addr n : Nat) (ws : List Word), s.cutEffect .other = s ∧ s.cutEffect (.read true addr n) = s ∧
    (addr % 4 ≠ 0 → s.cutEffect (.regWrite addr ws) = s ∧ s.cutEffect (.memWrite addr ws) = s) ∧
    (addr % 4 = 0 → ∀ w, s.cutEffect (.regWrite addr [w]) = (s.writeRegister addr w).2) ∧
    (s.ready = false → s.cutEffect (.memWrite addr ws) = s)) ∧
  (∀ (s u : State) (dt : Ticks) (v : Word) (ws : List Word) (addr n : Nat), s.elapse dt = u → u.boot.held = true →
    exec (.registerWrite dt addr ws) s = .next u ∧ exec (.nodeTimeLatch dt addr n) s = .next u ∧
      exec (.resetCauseWrite dt v) s = .next u)

/-- Resting on R286 to R290, R294, R296, R301, R303, R304, R307, R309: while READY a doorbell within the free entries moves
TAIL and a head within the posted ones frees them, on BULK with their buffers; one beyond sets IDX_ERR, is BAD_PARAM and
moves nothing, and a disabled ring takes neither. An enabled ring starts empty where its place is good, else it sets
CFG_ERR; a ring is disabled. AVAIL needs no event of its own: a ring has it with THRESH entries or with one that has
waited COAL_US. The commands of the routes are taken in turn; the host's oldest entry is taken in order, one that fails its
check being answered INTEGRITY. A whole Rilfy frame with a command waits for its turn, one that fails a check is
counted. -/
def Obligations.RingsFollowTheirIndices : Prop :=
  (∀ (s u : State) (dt : Ticks) (v : Word), s.elapse dt = u → u.boot.held = false → u.ready = true →
    (u.ring 0).works = true →
    exec (.commandDoorbell dt v) s = .next (
      if ((v.setWidth 16) - (u.ring 0).tail).toNat ≤ (u.ring 0).size - (u.ring 0).count
      then (u.modRing 0 (fun r => { r with tail := v.setWidth 16 })).endFrame stDone
      else (u.ringError 0 (fun r => { r with idxErr := true })).endFrame stBadParam)) ∧
  (∀ (s u : State) (dt : Ticks) (v : Word), s.elapse dt = u → u.boot.held = false →
    (u.ready = false → exec (.commandDoorbell dt v) s = .next (u.endFrame stNotReady)) ∧
    (u.ready = true → (u.ring 0).works = false → exec (.commandDoorbell dt v) s = .next (u.endFrame stDone))) ∧
  (∀ (s u w : State) (dt : Ticks) (n d : Nat) (v : Word), s.elapse dt = u → u.boot.held = false → u.ready = true →
    1 ≤ n → n < 4 → d = ((v.setWidth 16) - (u.ring n).head).toNat →
    w = u.modRing n (fun r => { r with head := v.setWidth 16, posted := r.posted.drop d }) →
    ((u.ring n).works = false → exec (.ringHeadWrite dt n v) s = .next (u.endFrame stDone)) ∧
    ((u.ring n).works = true → (u.ring n).count < d →
      exec (.ringHeadWrite dt n v) s = .next ((u.ringError n (fun r => { r with idxErr := true })).endFrame
        stBadParam)) ∧
    ((u.ring n).works = true → d ≤ (u.ring n).count → exec (.ringHeadWrite dt n v) s = .next (
      (if n = 3 then w.modHawk (fun h => { h with poolItems := h.poolItems.drop d })
       else if n = 1 then w.postAllHeld else w).endFrame stDone))) ∧
  (∀ (s u w : State) (dt : Ticks) (n : Nat) (v : Word), s.elapse dt = u → u.boot.held = false → u.ready = true →
    n < 4 → (u.ring n).enable = false → v.getLsbD 8 = true →
    (v.toNat % 16 < 4 ∨ 12 < v.toNat % 16 →
      exec (.ringEnable dt n v) s = .next ((u.ringError n (fun r => { r with cfgErr := true })).endFrame stDone)) ∧
    (4 ≤ v.toNat % 16 → v.toNat % 16 ≤ 12 →
      w = u.modRing n (fun r => { r with log2 := v.toNat % 16, thresh := min r.thresh (2 ^ (v.toNat % 16)) }) →
      (w.ringPlaceOk n (w.ring n) = false →
        exec (.ringEnable dt n v) s = .next ((w.ringError n (fun r => { r with cfgErr := true })).endFrame stDone)) ∧
      (∀ x, w.ringPlaceOk n (w.ring n) = true → x = w.modRing n (fun r => { r with
          enable := true, active := true, head := 0, tail := 0, posted := [] }) →
        exec (.ringEnable dt n v) s = .next ((if n = 1 then x.postAllHeld
          else if n = 3 then x.modHawk (fun h => { h with poolItems := [], poolNext := 0 }) else x).endFrame
            stDone)))) ∧
  (∀ (s u : State) (dt : Ticks) (n : Nat) (v : Word), s.elapse dt = u → u.boot.held = false → u.ready = true →
    n < 4 → (u.ring n).enable = true → v.getLsbD 8 = false →
    exec (.ringDisable dt n v) s = .next ((((if n = 0 then State.abortUntaken 4096 u else u).modRing n (fun r => { r with
      enable := false, active := false }))).endFrame stDone)) ∧
  (∀ (s u : State) (dt : Ticks) (n : Nat), s.elapse dt = u → exec (.coalesceTimerExpiry dt n) s = .next u) ∧
  (∀ (s : State) (n : Nat), s.avail n = true ↔ 0 < (s.ring n).count ∧ ((s.ring n).thresh ≤ (s.ring n).count ∨
    ∃ t rest, (s.ring n).posted = t :: rest ∧ t + s.hawk.coalUs * 1000 ≤ s.mono)) ∧
  (∀ (s u : State) (dt : Ticks) (failing : Bool), s.elapse dt = u →
    (u.nextRoute failing = none → exec (.commandTake dt failing) s = .next u) ∧
    (u.nextRoute failing = some 0 → exec (.commandTake dt failing) s =
      .next ((u.modHawk (fun h => { h with turn := 1 })).takeHost failing)) ∧
    (∀ k w, 1 ≤ k → u.nextRoute failing = some k → u.nextWaiting (routeOf k) = some w →
      exec (.commandTake dt failing) s = .next ((u.modHawk (fun h => { h with turn := (k + 1) % 4 })).takeWaiting w))) ∧
  (∀ (s : State) (failing : Bool) (k : Nat), s.nextRoute failing = some k → k < 4 ∧ s.routeReady failing k = true ∧
    ∀ j < (k + 4 - s.hawk.turn % 4) % 4, s.routeReady failing ((s.hawk.turn + j) % 4) = false) ∧
  (∀ (s : State) (b : Bytes) (e : Entry), b = Memory.readBytes s.mem.cells ((s.ring 0).addr (s.ring 0).head) 64 →
    e = Entry.ofBytes b →
    (s.mem.readFails ((s.ring 0).addr (s.ring 0).head) 64 = false → e.bulk = false →
      s.takeHost false = (s.modRing 0 (fun r => { r with head := r.head + 1 })).enterCommand
        ⟨.host, e.tag⟩ e e.inlinePayload 0) ∧
    s.takeHost true = (((s.modRing 0 (fun r => { r with head := r.head + 1 })).modMem
      (·.poison ((s.ring 0).addr (s.ring 0).head))).respondHost true
        (entryBytes 0 0 flagFinal 0 stIntegrity 0 0 []))) ∧
  (∀ (s : State) (w : Waiting) (e : Entry), e = Entry.ofBytes w.entry →
    s.takeWaiting w = (s.modHawk (fun h => { h with waiting := h.waiting.erase w })).enterCommand w.call e
      (if e.bulk then w.data else e.inlinePayload) w.peer) ∧
  (∀ (s u v : State) (dt : Ticks) (port : Origin) (entry d : Bytes), s.elapse dt = u → u.rilfyOpen port = true →
    entry.length = 64 → d.length ≤ 4096 →
    d.length = (if (Entry.ofBytes entry).bulk then (Entry.ofBytes entry).length else 0) →
    v = (if port = .optical then u.modPorts (fun p => { p with optAt := u.mono }) else u) →
    exec (.rilfyFrameReceive dt port (rilfyFrame 1 entry d)) s = .next (v.modHawk (fun h => { h with
      waiting := h.waiting ++ [⟨⟨port, field entry 2 2⟩, entry, d, 0⟩] }))) ∧
  (∀ (s u : State) (dt : Ticks) (port : Origin) (f x c : Bytes), s.elapse dt = u → u.rilfyOpen port = true →
    rilfyInside f = some x → rilfyUnescape x = some c → rilfyOk c = false →
    exec (.rilfyFrameReceive dt port f) s = .next (u.bump (if port = .service then 22 else 23))) ∧
  (∀ (s u : State) (dt : Ticks) (port : Origin) (f : Bytes), s.elapse dt = u →
    u.rilfyOpen port = false ∨ rilfyInside f = none → exec (.rilfyFrameReceive dt port f) s = .next u)

/-- R281, R291, R364, R365: a MEM_READ of one word returns the word of the Hawk area, 0 and BAD_PARAM beyond the
area, 0 and INTEGRITY from a line that is poisoned or fails its check, which is then poisoned; a MEM_WRITE of one word
stores it where the host may write, answers BAD_PARAM and stores nothing where it may not, and INTEGRITY where the
word's line fails. Before READY either frame answers NOT_READY, and at a misaligned address BAD_PARAM; a read then
returns a 0 for each word, 256 of them where its count is 0. A MEM_WRITE of any words changes no byte outside the Hawk
area, none of a place that the host may not write, no ring register and nothing of the legal side. The premise that
COMMAND begins at a multiple of 64 is what R289 lets a base be. -/
def Obligations.HostMemoryWindowIsGuarded : Prop :=
  (∀ (s u : State) (dt : Ticks) (addr : Nat), s.elapse dt = u → u.boot.held = false → u.ready = true →
    addr % 4 = 0 → addr ≤ 0x3FFFC → u.mem.isPoisoned (hawkBase + addr) = false →
    exec (.memRead dt addr 1 []) s = .next ((u.modHawk (fun h => { h with
      miso := [BitVec.ofNat 32 (leNat (Memory.readBytes u.mem.cells (hawkBase + addr) 4))] })).endFrame stDone)) ∧
  (∀ (s u : State) (dt : Ticks) (addr : Nat), s.elapse dt = u → u.boot.held = false → u.ready = true →
    addr % 4 = 0 → 0x3FFFC < addr →
    exec (.memRead dt addr 1 []) s = .next ((u.modHawk (fun h => { h with miso := [0] })).endFrame stBadParam)) ∧
  (∀ (s u : State) (dt : Ticks) (addr : Nat) (failing : List Nat), s.elapse dt = u → u.boot.held = false →
    u.ready = true → addr % 4 = 0 → addr ≤ 0x3FFFC →
    u.mem.isPoisoned (hawkBase + addr) = true ∨ addr / 32 ∈ failing →
    exec (.memRead dt addr 1 failing) s = .next (((u.modMem (·.poison (hawkBase + addr))).modHawk (fun h => { h with
      miso := [0] })).endFrame stIntegrity)) ∧
  (∀ (s u : State) (dt : Ticks) (addr n : Nat) (failing : List Nat), s.elapse dt = u → u.boot.held = false →
    exec (.memRead dt addr n failing) s = .next (
      if u.ready = false then (u.modHawk (fun h => { h with
        miso := List.replicate (if n = 0 then 256 else n) 0 })).endFrame stNotReady
      else if addr % 4 ≠ 0 then (u.modHawk (fun h => { h with
        miso := List.replicate (if n = 0 then 256 else n) 0 })).endFrame stBadParam
      else
        (let r := ((upTo (if n = 0 then 256 else n)).map (addr + 4 * ·)).foldl (State.readWord failing) (u, stDone, [])
        (r.1.modHawk (fun h => { h with miso := r.2.2 })).endFrame r.2.1))) ∧
  (∀ (s u : State) (dt : Ticks) (addr : Nat) (w : Word), s.elapse dt = u → u.boot.held = false → u.ready = true →
    addr % 4 = 0 → addr ≤ 0x3FFFC → u.hostWritable addr = true → u.mem.isPoisoned (hawkBase + addr) = false →
    exec (.memWrite dt addr [w] []) s = .next ((u.modMem (fun m => { m with
      cells := Memory.writeBytes m.cells (hawkBase + addr) (leBytes 4 w.toNat) })).endFrame stDone)) ∧
  (∀ (s u : State) (dt : Ticks) (addr : Nat) (w : Word) (failing : List Nat), s.elapse dt = u →
    u.boot.held = false → u.ready = true → addr % 4 = 0 →
    (0x3FFFC < addr ∨ u.hostWritable addr = false →
      exec (.memWrite dt addr [w] failing) s = .next (u.endFrame stBadParam)) ∧
    (addr ≤ 0x3FFFC → u.hostWritable addr = true →
      u.mem.isPoisoned (hawkBase + addr) = true ∨ addr / 32 ∈ failing → exec (.memWrite dt addr [w] failing) s =
        .next ((u.modMem (·.poison (hawkBase + addr))).endFrame stIntegrity))) ∧
  (∀ (s u : State) (dt : Ticks) (addr : Nat) (ws : List Word) (failing : List Nat), s.elapse dt = u →
    u.boot.held = false →
    (u.ready = false → exec (.memWrite dt addr ws failing) s = .next (u.endFrame stNotReady)) ∧
    (u.ready = true → addr % 4 ≠ 0 → exec (.memWrite dt addr ws failing) s = .next (u.endFrame stBadParam))) ∧
  (∀ (s u t : State) (dt : Ticks) (addr : Nat) (ws : List Word) (failing : List Nat), s.elapse dt = u →
    Memory.wf u.mem.cells = true → (u.ring 0).base % 64 = 0 → exec (.memWrite dt addr ws failing) s = .next t →
    (∀ a, a < hawkBase ∨ hawkBase + 0x40000 ≤ a → Memory.read t.mem.cells a = Memory.read u.mem.cells a) ∧
      (∀ off, u.hostWritable off = false →
        Memory.read t.mem.cells (hawkBase + off) = Memory.read u.mem.cells (hawkBase + off)) ∧
      t.hawk.rings = u.hawk.rings ∧ t.legal = u.legal)

/-! ### The ports -/

/-- Resting on R451, R455, R457 to R461 (the messages of the optical head are those of Table 16.2, whose list of
Table 16.3 this states no line of): a scan takes each enabled pad and leaves the others, and counts modulo 2^32; the
first eight scans of a pad give its baseline, and after them a delta below -TCH_THRESH sets it to raw, an untouched
pad with |delta| below half TCH_THRESH moves it by a 64th, two scans in succession at TCH_THRESH touch it, two below
0.75 TCH_THRESH release it and TCH_MAX_ON recalibrates it. A battery measurement below 2,400 mV raises VBAT_LOW, where
it did not stand, and two in succession of 2,450 mV end it. VBUS starts the service session in READY and RECOVERY and
ends it, with the SESSION events and no change of the legal side as it starts; where a response of the service route
waits, the start is stated by what it leaves. The optical head answers a sign-on that names no address or NODE_ID,
passes over one that names another and departs to idle on any other message; in 1,500 ms it emits the readout or opens
a Rilfy session as the option says, and departs on every other option or later; a readout that has ended, and 30 s
without a frame, lead to idle. -/
def Obligations.TouchVbatUsbAndOpticalEvents : Prop :=
  (∀ (s u : State) (dt : Ticks) (raws : List Nat), s.elapse dt = u → u.ready = true → u.pnum 0x6000 = 0 →
    exec (.touchScan dt raws) s = .next (u.modPorts (fun p => { p with scanSeq := p.scanSeq + 1 }))) ∧
  (∀ (s u : State) (dt : Ticks) (raws : List Nat) (k : Nat) (r : Pad × PadNews), s.elapse dt = u → u.ready = true →
    k < 8 → u.pnum 0x6000 = 2 ^ k →
    r = (u.ports.pads.getD k Pad.reset).scan (raws.getD k 0) (u.pnum 0x6001) (u.pnum 0x6002 * 1000000000) u.mono →
    exec (.touchScan dt raws) s = .next (u.modPorts (fun p => { p with
      pads := setAt p.pads k r.1
      pressed := if r.2 = .pressed then p.pressed ||| padBit k else p.pressed
      released := if r.2 = .released then p.released ||| padBit k else p.released
      recal := if r.2 = .recal then p.recal ||| padBit k else p.recal
      scanSeq := p.scanSeq + 1 }))) ∧
  (∀ (s u : State) (dt : Ticks) (raws : List Nat), s.elapse dt = u → u.ready = true → u.ports.pads.length = 8 →
    ∃ t, exec (.touchScan dt raws) s = .next t ∧ t = { u with ports := { u.ports with
        pads := t.ports.pads, pressed := t.ports.pressed, released := t.ports.released, recal := t.ports.recal
        scanSeq := u.ports.scanSeq + 1 } } ∧
      ∀ k, k < 8 → t.ports.pads.getD k Pad.reset = (if bit (u.pnum 0x6000) k = true
        then ((u.ports.pads.getD k Pad.reset).scan (raws.getD k 0) (u.pnum 0x6001) (u.pnum 0x6002 * 1000000000) u.mono).1
        else u.ports.pads.getD k Pad.reset)) ∧
  (∀ (p : Pad) (raw thresh maxOn now : Nat), p.scans < 8 → p.scan raw thresh maxOn now =
    ({ p with raw := raw, scans := p.scans + 1, baseline := p.baseline + (raw : Rat) / 8 }, .none_)) ∧
  (∀ (p : Pad) (raw thresh maxOn now : Nat) (delta : Rat), 8 ≤ p.scans → 0 < p.baseline → 0 < thresh →
    delta = ((raw : Rat) - p.baseline) / p.baseline * 1000 → p.touched = false →
    (delta < -thresh → p.scan raw thresh maxOn now = ({ p with raw := raw, baseline := raw, above := 0 }, .none_)) ∧
    (-thresh < 2 * delta → 2 * delta < thresh →
      p.scan raw thresh maxOn now =
        ({ p with raw := raw, baseline := p.baseline + ((raw : Rat) - p.baseline) / 64, above := 0 }, .none_)) ∧
    (thresh ≤ 2 * delta ∨ 2 * delta ≤ -thresh → -thresh ≤ delta → delta < thresh →
      p.scan raw thresh maxOn now = ({ p with raw := raw, above := 0 }, .none_)) ∧
    (thresh ≤ delta → p.above = 0 → p.scan raw thresh maxOn now = ({ p with raw := raw, above := 1 }, .none_)) ∧
    (thresh ≤ delta → 1 ≤ p.above → p.scan raw thresh maxOn now =
      ({ p with raw := raw, touched := true, above := 0, below := 0, since := now }, .pressed))) ∧
  (∀ (p : Pad) (raw thresh maxOn now : Nat) (delta : Rat), 8 ≤ p.scans → 0 < p.baseline → 0 < thresh →
    delta = ((raw : Rat) - p.baseline) / p.baseline * 1000 → p.touched = true →
    (p.since + maxOn ≤ now → p.scan raw thresh maxOn now =
      ({ p with raw := raw, baseline := raw, touched := false, above := 0, below := 0 }, .recal)) ∧
    (now < p.since + maxOn → thresh * 3 ≤ delta * 4 →
      p.scan raw thresh maxOn now = ({ p with raw := raw, below := 0 }, .none_)) ∧
    (now < p.since + maxOn → delta * 4 < thresh * 3 → p.below = 0 →
      p.scan raw thresh maxOn now = ({ p with
        raw := raw, below := 1, baseline := if delta < -thresh then (raw : Rat) else p.baseline }, .none_)) ∧
    (now < p.since + maxOn → delta * 4 < thresh * 3 → 1 ≤ p.below → p.scan raw thresh maxOn now =
      ({ p with raw := raw, touched := false, above := 0, below := 0
                baseline := if delta < -thresh then (raw : Rat) else p.baseline }, .released))) ∧
  (∀ (s u : State) (dt : Ticks) (mv : Nat), s.elapse dt = u → u.legalRuns = true → u.aon.mainPower = true →
    (2400 ≤ mv → mv < 2450 → exec (.vbatMeasure dt mv) s = .next (u.modPorts (fun p => { p with
      vbat := mv, vbatGood := 0 }))) ∧
    (mv < 2400 → u.ports.vbatLow = false → exec (.vbatMeasure dt mv) s = .next ((u.modPorts (fun p => { p with
      vbat := mv, vbatGood := 0, vbatLow := true })).postFault 0x0013)) ∧
    (mv < 2400 → u.ports.vbatLow = true → exec (.vbatMeasure dt mv) s = .next (u.modPorts (fun p => { p with
      vbat := mv, vbatGood := 0, vbatLow := true }))) ∧
    (2450 ≤ mv → u.ports.vbatGood = 0 → exec (.vbatMeasure dt mv) s = .next (u.modPorts (fun p => { p with
      vbat := mv, vbatGood := 1 }))) ∧
    (2450 ≤ mv → 1 ≤ u.ports.vbatGood → exec (.vbatMeasure dt mv) s = .next (u.modPorts (fun p => { p with
      vbat := mv, vbatGood := 2, vbatLow := false })))) ∧
  (∀ (s u : State) (dt : Ticks), s.elapse dt = u → u.ports.usbSession = false → u.boot.mainClockFault = false →
    u.boot.stage = 7 ∨ u.boot.stage = 8 → u.ports.servicePending = none → exec (.vbusValid dt) s = .next
      ((((u.modPorts (fun p => { p with vbus := true })).bringIntoForce (fun id => id == 0x6010 || id == 0x6011)).modPorts
        (fun p => { p with usbSession := true })).postEvent 0x0181 [1, 1])) ∧
  (∀ (s u : State) (dt : Ticks), s.elapse dt = u → u.ports.usbSession = false → u.boot.mainClockFault = false →
    u.boot.stage = 7 ∨ u.boot.stage = 8 → ∃ t, exec (.vbusValid dt) s = .next t ∧ t.ports.usbSession = true ∧
      t.ports.vbus = true ∧ t.ports.servicePending = none ∧ t.legal = u.legal) ∧
  (∀ (s u : State) (dt : Ticks), s.elapse dt = u →
    (u.ports.usbSession = true ∨ u.boot.mainClockFault = true ∨ (u.boot.stage ≠ 7 ∧ u.boot.stage ≠ 8) →
      exec (.vbusValid dt) s = .next (u.modPorts (fun p => { p with vbus := true }))) ∧
    (u.ports.usbSession = false →
      exec (.vbusInvalid dt) s = .next (u.modPorts (fun p => { p with vbus := false })))) ∧
  (∀ (s u : State) (dt : Ticks), s.elapse dt = u → u.ports.usbSession = true → exec (.vbusInvalid dt) s = .next
    (((((u.modPorts (fun p => { p with vbus := false, usbSession := false })).orphanRoute .service
      (fun _ => true)).abortJobs .service).cutStaging).postEvent 0x0181 [1, 0])) ∧
  (∀ (s u : State) (dt : Ticks) (msg : Bytes), s.elapse dt = u → u.optListens = true → u.ports.optState = 0 →
    msg = [0x2F, 0x3F, 0x21, 0x0D, 0x0A] ∨ msg = [0x2F, 0x3F] ++ hexText 16 nodeId ++ [0x21, 0x0D, 0x0A] →
    exec (.optSignOn dt msg) s = .next ((u.emit (.optical u.identification)).modPorts (fun p => { p with
      optState := 1, optAt := u.mono + identEnd }))) ∧
  (∀ (s u : State) (dt : Ticks) (a : Bytes), s.elapse dt = u → u.optListens = true → u.ports.optState = 0 →
    a ≠ [] → a ≠ hexText 16 nodeId →
    exec (.optSignOn dt ([0x2F, 0x3F] ++ a ++ [0x21, 0x0D, 0x0A])) s = .next u) ∧
  (∀ (s u : State) (dt : Ticks) (msg : Bytes), s.elapse dt = u → u.optListens = true →
    u.ports.optState = 1 ∨ (u.ports.optState = 0 ∧ ∀ a, msg ≠ [0x2F, 0x3F] ++ a ++ [0x21, 0x0D, 0x0A]) →
    exec (.optSignOn dt msg) s = .next ((u.modPorts (fun p => { p with optState := 0, optRate := 0, optOut := [] })).bump 24)) ∧
  (∀ (s u : State) (dt : Ticks) (z : Byte), s.elapse dt = u → u.optListens = true → u.ports.optState = 1 →
    u.since u.ports.optAt 1500000000 = false → 0x30 ≤ z.toNat → z.toNat ≤ 0x35 →
    exec (.optOptionSelect dt [0x06, 0x30, z, 0x30, 0x0D, 0x0A]) s =
      .next (u.modPorts (fun p => { p with
        optState := 2, optRate := z.toNat - 0x30, optAt := u.mono, optOut := u.readout }))) ∧
  (∀ (s u : State) (dt : Ticks), s.elapse dt = u → u.optListens = true → u.ports.optState = 1 →
    u.since u.ports.optAt 1500000000 = false → bit (u.pnum 0x6020) 1 = true →
    exec (.optOptionSelect dt [0x06, 0x30, 0x35, 0x32, 0x0D, 0x0A]) s = .next ((u.modPorts (fun p => { p with
      optState := 3, optRate := 5, optAt := u.mono })).postEvent 0x0181 [2, 1])) ∧
  (∀ (s u : State) (dt : Ticks) (msg : Bytes), s.elapse dt = u → u.optListens = true →
    u.ports.optState = 0 ∨ (u.ports.optState = 1 ∧ (u.since u.ports.optAt 1500000000 = true ∨
      ∀ z y : Byte, msg = [0x06, 0x30, z, y, 0x0D, 0x0A] → z.toNat < 0x30 ∨ 0x35 < z.toNat ∨
        (y ≠ 0x30 ∧ (y ≠ 0x32 ∨ z ≠ 0x35 ∨ bit (u.pnum 0x6020) 1 = false)))) → exec (.optOptionSelect dt msg) s =
      .next ((u.modPorts (fun p => { p with optState := 0, optRate := 0, optOut := [] })).bump 24)) ∧
  (∀ (s u : State) (dt : Ticks), s.elapse dt = u → u.ports.optState = 1 → u.since u.ports.optAt 1500000000 = true →
    exec (.optMessageTimeout dt) s = .next ((u.modPorts (fun p => { p with optState := 0, optRate := 0, optOut := [] })).bump 24)) ∧
  (∀ (s u : State) (dt : Ticks), s.elapse dt = u → u.ports.optState = 2 →
    exec (.optReadoutEnd dt) s = .next ((u.emit (.optical u.ports.optOut)).modPorts (fun p => { p with optState := 0, optRate := 0, optOut := [] }))) ∧
  (∀ (s u : State) (dt : Ticks), s.elapse dt = u → u.ports.optState = 3 → u.since u.ports.optAt 30000000000 = true →
    exec (.optRilfyIdleTimeout dt) s =
      .next ((((u.modPorts (fun p => { p with optState := 0, optRate := 0, optOut := [] })).orphanRoute .optical
        (fun _ => true)).abortJobs .optical).postEvent 0x0181 [2, 0]))

/-- Resting on R462, R464, R465, R468: a period's boundary starts the poll cycle at the first configured meter, or is
counted where one runs; a meter of MODE 1 is asked under its address and one of MODE 2 selected first, and the cycle
ends after the last; E5h to a selection asks the meter; a good reply is kept, alternates FCB and counts the meter as
responding, and the cycle goes on; any other frame and a missing reply are repeated twice, after which the poll has
failed, and three failed in succession count the meter as not responding. The result of a transaction is discarded
where MBUS_ENABLE has become 0 or the entry was rewritten. What a volume read gives a metering point, `State.takeVolume`
says. -/
def Obligations.MbusPollingFollowsItsSchedule : Prop :=
  (∀ (s u : State) (dt : Ticks) (period : Nat), s.elapse dt = u → u.ready = true → u.boot.mainClockFault = false →
    u.pnum 0x6030 = 1 → period = max 1 (u.pnum 0x6031) * 1000000000 →
    u.nodeTime / period ≠ u.ports.mbusCycleAt / period → exec (.mbusPollCycle dt) s = .next (
      if u.ports.mbusCycle.isSome = true
      then (u.modPorts (fun p => { p with mbusCycleAt := u.nodeTime })).bump 13
      else (u.modPorts (fun p => { p with mbusCycleAt := u.nodeTime })).pollFrom 0)) ∧
  (∀ (s : State) (i k : Nat), s.pnum 0x6030 = 1 → i ≤ k → k < 64 → s.mbusMode k = 1 →
    (∀ j, i ≤ j → j < k → s.mbusMode j = 0) → s.pollFrom i = (s.modPorts (fun p => { p with
      mbusCycle := some (k, 0, false), mbusDiscard := false })).sendRequest k (s.mbusPrimary k)) ∧
  (∀ (s : State) (i k : Nat), s.pnum 0x6030 = 1 → i ≤ k → k < 64 → s.mbusMode k = 2 →
    (∀ j, i ≤ j → j < k → s.mbusMode j = 0) → s.pollFrom i = (s.modPorts (fun p => { p with
      mbusCycle := some (k, 0, true), mbusDiscard := false })).sendSelect k) ∧
  (∀ (s : State) (i : Nat), s.pnum 0x6030 ≠ 1 ∨ (∀ j, i ≤ j → j < 64 → s.mbusMode j = 0) →
    s.pollFrom i = s.modPorts (fun p => { p with mbusCycle := none, mbusDiscard := false })) ∧
  (∀ (s : State) (i a : Nat), (s.sendRequest i a).ports.mbusSentAt = s.mono ∧
    (s.sendRequest i a).out = (s.emit (.mbus [0x10, byte (0x5B + 32 * b2n (s.mbusRun i).fcb), byte a,
      byte (0x5B + 32 * b2n (s.mbusRun i).fcb + a), 0x16])).out) ∧
  (∀ (s u : State) (dt : Ticks) (frame : Bytes) (i tries : Nat) (selecting : Bool), s.elapse dt = u →
    u.ports.mbusCycle = some (i, tries, selecting) →
    (u.ports.mbusDiscard = true ∨ u.pnum 0x6030 = 0 → exec (.mbusReply dt frame) s = .next (u.pollFrom (i + 1)) ∧
      (u.since u.ports.mbusSentAt (u.mbusWait i) = true →
        exec (.mbusReplyTimeout dt) s = .next (u.pollFrom (i + 1)))) ∧
    (u.ports.mbusDiscard = false → u.pnum 0x6030 ≠ 0 → tries < 2 →
      (selecting = true ∧ frame ≠ [0xE5]) ∨ (selecting = false ∧ ∀ user, frame ≠ longFrame user) →
      exec (.mbusReply dt frame) s = .next ((u.modPorts (fun p => { p with
        mbusCycle := some (i, tries + 1, selecting) })).sendPoll i selecting))) ∧
  (∀ (s : State) (i : Nat) (user : Bytes), i < s.ports.mbus.length → userVolume user = none →
    (s.pollGood i user).mbusRun i = { s.mbusRun i with
      fcb := !(s.mbusRun i).fcb, failed := 0, responding := some true, lastOk := some s.mono, raw := some user }) ∧
  (∀ (s u : State) (dt : Ticks) (i tries : Nat), s.elapse dt = u → u.ports.mbusCycle = some (i, tries, true) →
    u.ports.mbusDiscard = false → u.pnum 0x6030 = 1 → exec (.mbusReply dt [0xE5]) s = .next
      ((u.modPorts (fun p => { p with mbusCycle := some (i, tries, false) })).sendPoll i false)) ∧
  (∀ (s u : State) (dt : Ticks) (i tries : Nat) (user : Bytes), s.elapse dt = u →
    u.ports.mbusCycle = some (i, tries, false) → u.ports.mbusDiscard = false → u.pnum 0x6030 = 1 →
    3 ≤ user.length → user.length ≤ 255 → field user 0 1 % 16 = 8 → field user 0 1 < 0x40 →
    field user 2 1 = 0x72 ∨ field user 2 1 = 0x78 → u.mbusMode i ≠ 1 ∨ field user 1 1 = u.mbusPrimary i →
    exec (.mbusReply dt (longFrame user)) s = .next ((u.pollGood i user).pollFrom (i + 1))) ∧
  (∀ (s u : State) (dt : Ticks) (i tries : Nat) (selecting : Bool), s.elapse dt = u →
    u.ports.mbusCycle = some (i, tries, selecting) → u.ports.mbusDiscard = false → u.pnum 0x6030 = 1 →
    u.since u.ports.mbusSentAt (u.mbusWait i) = true → tries < 2 → exec (.mbusReplyTimeout dt) s = .next
      ((u.modPorts (fun p => { p with mbusCycle := some (i, tries + 1, selecting) })).sendPoll i selecting)) ∧
  (∀ (s u : State) (dt : Ticks) (i : Nat) (selecting : Bool), s.elapse dt = u →
    u.ports.mbusCycle = some (i, 2, selecting) → u.ports.mbusDiscard = false → u.pnum 0x6030 = 1 →
    u.since u.ports.mbusSentAt (u.mbusWait i) = true → exec (.mbusReplyTimeout dt) s = .next
      ((u.modMbus i (fun e => { e with
        failed := min 3 (e.failed + 1)
        responding := if 3 ≤ e.failed + 1 then some false else e.responding })).pollFrom (i + 1)))

/-! ### The fabric -/

/-- Resting on R387, R389 to R391, R393 to R395 and R411: QUIET ends after 200 ms; from READY a HELLO goes out every
250 ms, the first of SEEKING at any time; the third handshake HELLO in succession with this port's NONCE echoed raises
the link, with the session key of R391; in UP a HELLO without a renewal changes nothing beside its count; silence of
1,000 ms, a session of 7,200 s, the sixteenth frame in succession that fails authentication and a HELLO of another
NODE_ID drop the link. A frame is judged first by READY and the port's state, then by its length and CRC, and a handshake
HELLO by its tag and its NODE_ID; one that is rejected counts by its cause and, but where it came early, restarts the
count of HELLOs. The lower end begins a renewal at 3,600 s and again every 60 s. With the line free, the waiting frame
that `Port.nextFrame` gives leaves where a scheduled TIME_RESP leaves room, a HELLO with what holds as it leaves; the
frame follows the preamble and SFD, protected under the link key or the session, and holds the line for 320 ns a byte
with the gap of 12. -/
def Obligations.LinksComeUpAndGo : Prop :=
  (∀ (s u : State) (dt : Ticks) (i : Nat), s.elapse dt = u → (u.port i).state = 1 →
    u.since (u.port i).at_ 200000000 = true → exec (.quietEnd dt i) s = .next ((u.enterSeeking i).modFabric (fun f =>
      { f with quietEnd := some (f.quietEnd.getD u.mono) }))) ∧
  (∀ (s u : State) (dt : Ticks) (i : Nat), s.elapse dt = u → (u.port i).state = 3 ∨ (u.port i).state = 4 →
    u.ready = true →
    u.since (u.port i).helloAt 250000000 = true ∨ ((u.port i).state = 3 ∧ (u.port i).helloAt < (u.port i).at_) →
    exec (.helloTimer dt i) s =
      .next ((u.sendLocal i 1 (u.helloPayload i)).modPort i (fun p => { p with helloAt := u.mono }))) ∧
  (∀ (s u : State) (dt : Ticks) (i : Nat), s.elapse dt = u → u.ready = false →
    exec (.helloTimer dt i) s = .next u ∧ exec (.portTransmit dt i) s = .next u) ∧
  (∀ (s u v : State) (dt : Ticks) (i : Nat) (b t : Bytes), s.elapse dt = u → u.received i 1 b = some t →
    (u.port i).state = 3 → v = u.takeFrame i b → 2 ≤ (v.port i).hellos → field t 0 8 = (v.port i).peerId →
    v.mono ≤ (v.port i).lastHello + 375000000 → slice t 24 16 = (v.port i).nonce →
    exec (.helloReceive dt i b) s = .next ((v.modPort i (fun p => { p with
      peerNonce := slice t 8 16, peerAddr := field t 40 2, hellos := 3, lastHello := v.mono })).raiseLink i)) ∧
  (∀ (s u v : State) (dt : Ticks) (i : Nat) (b t : Bytes), s.elapse dt = u → u.received i 1 b = some t →
    (u.port i).state = 4 → v = u.takeFrame i b → field t 0 8 = (v.port i).peerId → field t 40 2 = (v.port i).peerAddr →
    allZero (slice t 8 16) = true → exec (.helloReceive dt i b) s = .next v) ∧
  (∀ (s u v : State) (dt : Ticks) (i : Nat) (b t : Bytes), s.elapse dt = u → u.received i 1 b = some t →
    (u.port i).state = 4 → v = u.takeFrame i b → field t 0 8 ≠ (v.port i).peerId →
    exec (.helloReceive dt i b) s = .next (v.dropLink i false)) ∧
  (∀ (s u v : State) (dt : Ticks) (i : Nat) (b t : Bytes), s.elapse dt = u → u.received i 1 b = some t →
    (u.port i).state = 3 → v = u.takeFrame i b → (v.port i).hellos = 0 ∨ field t 0 8 ≠ (v.port i).peerId ∨
      (v.port i).lastHello + 375000000 < v.mono →
    exec (.helloReceive dt i b) s = .next (v.modPort i (fun p => { p with
      peerId := field t 0 8, peerNonce := slice t 8 16, peerAddr := field t 40 2, hellos := 1, lastHello := v.mono }))) ∧
  (∀ (lk na nb : Bytes) (a b : Nat), a < b →
    sessionKey lk a b na nb = (sha256 (lk ++ na ++ nb ++ leBytes 8 a ++ leBytes 8 b)).take lk.length ∧
    sessionKey lk b a nb na = (sha256 (lk ++ na ++ nb ++ leBytes 8 a ++ leBytes 8 b)).take lk.length) ∧
  (∀ (s : State) (i : Nat), i < s.fabric.ports.length → s.fabric.elected = false →
    ((s.raiseLink i).port i).state = 4 ∧ ((s.raiseLink i).port i).session = some
      ⟨sessionKey (s.linkKey i) nodeId (s.port i).peerId (s.port i).nonce (s.port i).peerNonce, 0, s.mono, 0, 0, none,
        s.mono, none⟩) ∧
  (∀ (s u : State) (dt : Ticks) (i : Nat), s.elapse dt = u → (u.port i).state = 4 →
    u.since (u.port i).lastAuth 1000000000 = true →
    exec (.linkSilenceTimeout dt i) s = .next (u.dropLink i false)) ∧
  (∀ (s u : State) (dt : Ticks) (i : Nat) (x : LinkSession), s.elapse dt = u → (u.port i).state = 4 →
    (u.port i).session = some x → u.since x.since 7200000000000 = true →
    exec (.sessionDeadline dt i) s = .next (u.dropLink i false)) ∧
  (∀ (s u : State) (dt : Ticks) (i : Nat) (x : LinkSession), s.elapse dt = u → (u.port i).state = 4 →
    (u.port i).session = some x → nodeId < (u.port i).peerId → u.since x.since 3600000000000 = true →
    x.renewalAt = x.since ∨ u.since x.renewalAt 60000000000 = true → u.crypto.seeded = true →
    exec (.sessionRenewal dt i) s = .next ((u.drbgBytes 16).2.modPort i (fun p => { p with
      session := some { x with renewal := some ((u.drbgBytes 16).1, none), renewalAt := u.mono } }))) ∧
  (∀ (s : State) (i : Nat) (b : Bytes),
    (s.ready = false ∨ ((s.port i).state ≠ 3 ∧ (s.port i).state ≠ 4) → s.judge i b = .early) ∧
    (s.ready = true → (s.port i).state = 3 ∨ (s.port i).state = 4 →
      (¬∃ body : Bytes, b = body ++ leBytes 4 (crc32 body) ∧ body.length = 32 + field b 8 2 ∧ field b 8 2 ≤ 1024) →
      s.judge i b = .crcErr) ∧
    (s.ready = true → (s.port i).state = 3 → frameWhole b = true → frameType b ≠ 1 → s.judge i b = .early) ∧
    (s.ready = true → (s.port i).state = 3 → frameWhole b = true → frameType b = 1 →
      frameHandshake b = false ∨ s.handshakeOk i b = false → s.judge i b = .authErr) ∧
    (s.ready = true → (s.port i).state = 3 → frameWhole b = true → frameType b = 1 → frameHandshake b = true →
      s.handshakeOk i b = true → field (framePayload b) 0 8 = nodeId → s.judge i b = .dropped) ∧
    (s.ready = true → (s.port i).state = 4 → frameWhole b = true → frameHandshake b = true →
      s.judge i b = (if s.handshakeOk i b = true then .dropped else .authErr))) ∧
  (∀ (s u : State) (dt : Ticks) (i : Nat) (b : Bytes), s.elapse dt = u → i < 3 →
    (u.judge i b = .early → exec (.frameReject dt i b) s = .next (u.modPort i (fun p => { p with
      early := satAdd 0xFFFFFFFF p.early 1 }))) ∧
    (u.judge i b = .crcErr → exec (.frameReject dt i b) s = .next (u.modPort i (fun p => { p with
      crcErr := satAdd 0xFFFFFFFF p.crcErr 1, hellos := 0 }))) ∧
    (u.judge i b = .authErr → (u.port i).state = 3 ∨ (u.port i).authFails < 15 →
      exec (.frameReject dt i b) s = .next (u.modPort i (fun p => { p with
        authErr := satAdd 0xFFFFFFFF p.authErr 1, authFails := min 16 (p.authFails + 1), hellos := 0 }))) ∧
    (u.judge i b = .authErr → (u.port i).state = 4 → 15 ≤ (u.port i).authFails → i < u.fabric.ports.length →
      exec (.frameReject dt i b) s = .next ((u.modPort i (fun p => { p with
        authErr := satAdd 0xFFFFFFFF p.authErr 1, authFails := 16, hellos := 0 })).dropLink i false)) ∧
    (u.judge i b = .dropped → exec (.frameReject dt i b) s = .next (((u.takeFrame i b).modPort i (fun p => { p with
      hellos := 0, dropped := satAdd 0xFFFFFFFF p.dropped 1 })).bump 25))) ∧
  (∀ (s u : State) (dt : Ticks) (i : Nat) (f : TxFrame), s.elapse dt = u → (u.port i).nextFrame = some f → f.type ≠ 1 →
    u.ready = true → (u.port i).state = 4 → (u.port i).lineUntil ≤ u.mono → u.beforeResponse i f = true →
    exec (.portTransmit dt i) s = .next (((u.modPort i (fun p => { p with
      queue := p.queue.erase f })).sendFrame i f).afterSend i f)) ∧
  (∀ (s u : State) (dt : Ticks) (i : Nat) (f g : TxFrame), s.elapse dt = u → (u.port i).nextFrame = some f →
    f.type = 1 → g = { f with payload := u.helloPayload i, src := u.ownSource } → u.ready = true →
    (u.port i).state = 3 ∨ (u.port i).state = 4 → (u.port i).lineUntil ≤ u.mono → u.beforeResponse i g = true →
    exec (.portTransmit dt i) s = .next (((u.modPort i (fun p => { p with
      queue := p.queue.erase f })).sendFrame i g).afterSend i g)) ∧
  (∀ (s : State) (i : Nat) (f : TxFrame), ((s.port i).session = none → (s.sendFrame i f).out = s.out ++
      [.scrim i (List.replicate 7 0x55 ++ [0xD5] ++ handshakeFrame (s.linkKey i)
        (frameHeader f.dst f.src f.type f.hop 0 f.payload.length true 0) f.payload)]) ∧
    (∀ x, (s.port i).session = some x → (s.sendFrame i f).out = s.out ++
      [.scrim i (List.replicate 7 0x55 ++ [0xD5] ++ sessionFrame x.key
        (byte (if nodeId < (s.port i).peerId then 0 else 1) :: zeros 3 ++ beBytes 8 x.txSeq)
        (frameHeader f.dst f.src f.type f.hop x.txSeq f.payload.length false x.epoch) f.payload)]) ∧
    (i < s.fabric.ports.length → ((s.sendFrame i f).port i).lineUntil = s.mono + 320 * (56 + f.payload.length)))

/-- Resting on R388, R397 to R402, R406 and R417: a TIME_REQ goes out every 125 ms; t2 and t3, a multiple of 40,000 ns
later that the frame under way leaves room for, answer it; four times give offset and delay, and a response later than
10 ms gives none; a worker takes the median offset of its upstream's exchanges of the second within 50 ns of the median
delay, which moves its clock and, from an upstream that is not FINE, not its lock; the halves that this division and an
even median round are the model's choice (log 23). An LSA is originated with the next LSA_SEQ at a change, at most once
in 250 ms, or after 10 s; a newer one enters the database, and an entry ages out at 35 s; routes are computed where they
are due, and the role follows the election 1,500 ms after QUIET and then after 500 ms of one result; the highest
PRIORITY with the lowest address is best. A routed frame goes on with HOP one less, or is dropped where its HOP or its
route has ended or the node's own ASSIGNED address sent it. -/
def Obligations.FabricTimeRoutesAndElection : Prop :=
  (∀ (s u : State) (dt : Ticks) (i : Nat), s.elapse dt = u → (u.port i).state = 4 →
    u.since (u.port i).reqAt 125000000 = true → exec (.timeReqTimer dt i) s = .next
      ((u.sendLocal i 3 (leBytes 2 (u.port i).reqId ++ zeros 6)).modPort i (fun p => { p with
        reqId := (p.reqId + 1) % 65536, reqAt := u.mono }))) ∧
  (∀ (s u : State) (dt : Ticks) (i : Nat) (b t : Bytes), s.elapse dt = u → u.received i 3 b = some t →
    ∃ k, 1 ≤ k ∧ u.mono + 40000 * k ≥ (u.port i).lineUntil ∧
      (∀ j, 1 ≤ j → j < k → u.mono + 40000 * j < (u.port i).lineUntil) ∧
      exec (.timeReqReceive dt i b) s = .next ((u.takeFrame i b).modPort i (fun p =>
        { p with pendingResp := some (field t 0 2, u.nodeTime, u.nodeTime + 40000 * k) }))) ∧
  (∀ (s u : State) (dt : Ticks) (i id t2 t3 : Nat), s.elapse dt = u → (u.port i).state = 4 →
    (u.port i).pendingResp = some (id, t2, t3) → t3 ≤ u.nodeTime → (u.port i).lineUntil ≤ u.mono →
    exec (.timeRespSend dt i) s = .next ((u.modPort i (fun p => { p with pendingResp := none })).sendFrame i
      { type := 4, dst := if (u.port i).peerAddr = 0 then 0x3FFF else (u.port i).peerAddr, hop := 1,
        src := u.ownSource
        payload := leBytes 2 id ++ [byte u.ntu.status.code] ++ zeros 5 ++ leBytes 8 t2 ++ leBytes 8 t3 })) ∧
  (∀ (s u v : State) (dt : Ticks) (i t1 : Nat) (b t : Bytes), s.elapse dt = u → u.received i 4 b = some t →
    v = u.takeFrame i b → (v.port i).pendingReq = some (field t 0 2, t1) → v.nodeTime ≤ t1 + 10000000 →
    exec (.timeRespReceive dt i b) s = .next (v.modPort i (fun p => { p with
      pendingReq := none
      exchanges := p.exchanges ++ [((((t1 : Int) - field t 8 8) + ((v.nodeTime : Int) - field t 16 8)) / 2,
        (((v.nodeTime : Int) - t1) - ((field t 16 8 : Int) - field t 8 8)) / 2, v.nodeTime, field t 2 1 == 2)] }))) ∧
  (∀ (s u v : State) (dt : Ticks) (i t1 id : Nat) (b t : Bytes), s.elapse dt = u → u.received i 4 b = some t →
    v = u.takeFrame i b → (v.port i).pendingReq = none ∨
      ((v.port i).pendingReq = some (id, t1) ∧ (id ≠ field t 0 2 ∨ t1 + 10000000 < v.nodeTime)) →
    exec (.timeRespReceive dt i b) s = .next v) ∧
  (∀ (o d : Int) (t : Nat) (fine : Bool), secondOffset [(o, d, t, fine)] = some (o, t, fine)) ∧
  (∀ (a b c : Int × Int × Nat × Bool), a.2.1 ≤ b.2.1 → b.2.1 ≤ c.2.1 → b.2.1 - a.2.1 ≤ 50 → 50 < c.2.1 - b.2.1 →
    a.1 ≤ b.1 → secondOffset [a, b, c] = some ((a.1 + b.1) / 2, max a.2.2.1 b.2.2.1, a.2.2.2 && b.2.2.2)) ∧
  (∀ (s u : State) (dt : Ticks), s.elapse dt = u → u.fabric.role ≠ roleWorker ∨ u.fabric.upstream = none →
    exec (.fabricDisciplineSecond dt) s = .next (u.modFabric (fun f => { f with
      ports := f.ports.map (fun p => { p with exchanges := [] }) }))) ∧
  (∀ (s u v : State) (dt : Ticks) (i t : Nat) (o : Int) (fine : Bool), s.elapse dt = u →
    v = u.modFabric (fun f => { f with ports := f.ports.map (fun p => { p with exchanges := [] }), offset := o }) →
    u.fabric.upstream = some i → u.fabric.role = roleWorker → secondOffset (u.port i).exchanges = some (o, t, fine) →
    exec (.fabricDisciplineSecond dt) s = .next (if fine = true then v.disciplineOffset o t
      else v.offsetUnlocked o t)) ∧
  (∀ (s u : State) (dt : Ticks) (i : Nat), s.elapse dt = u → i < 3 → (u.port i).state = 4 →
    u.since u.fabric.lsaAt 10000000000 = true ∨
      (u.lsaChanged = true ∧ u.since u.fabric.lsaAt 250000000 = true) →
    ∃ t, exec (.lsaRefresh dt) s = .next t ∧ t.fabric.lsaSeq = (u.fabric.lsaSeq + 1) % 2 ^ 64 ∧
      t.fabric.database = putLsa (u.ownLsa ((u.fabric.lsaSeq + 1) % 2 ^ 64)) u.fabric.database) ∧
  (∀ (s u : State) (dt : Ticks), s.elapse dt = u → (∀ i, i < 3 → (u.port i).state ≠ 4) ∨
      u.since u.fabric.lsaAt 250000000 = false ∨ (u.lsaChanged = false ∧ u.since u.fabric.lsaAt 10000000000 = false) →
    exec (.lsaRefresh dt) s = .next u) ∧
  (∀ (s u : State) (dt : Ticks) (i : Nat) (b t : Bytes) (x : Lsa), s.elapse dt = u → u.received i 2 b = some t →
    (u.takeFrame i b).lsaOf (field t 0 8) = some x → field t 8 8 ≤ x.seqNo →
    exec (.lsaReceive dt i b) s = .next (u.takeFrame i b)) ∧
  (∀ (s u : State) (dt : Ticks) (i id : Nat) (b t : Bytes), s.elapse dt = u → u.received i 2 b = some t →
    field t 0 8 = id → id ≠ nodeId → (∀ x, u.lsaOf id = some x → x.seqNo < field t 8 8) →
    u.fabric.database.length < 16381 →
    ∃ w, exec (.lsaReceive dt i b) s = .next w ∧ w.lsaOf id = some (Lsa.ofBytes u.mono t)) ∧
  (∀ (s u : State) (dt : Ticks) (id : Nat) (x : Lsa), s.elapse dt = u → u.lsaOf id = some x →
    u.since x.at_ 35000000000 = true → exec (.lsaAgeOut dt id) s =
      .next ((u.modFabric (fun f => { f with database := f.database.erase x })).topologyChanged)) ∧
  (∀ (s u : State) (dt : Ticks), s.elapse dt = u → u.fabric.routesDue = true →
    exec (.routeCompute dt) s = .next (u.computeRoutes.noteElection.followUpstream)) ∧
  (∀ (s u : State) (dt : Ticks) (t : Nat), s.elapse dt = u → u.fabric.addrState = 1 →
    u.fabric.tentativeSince = some t → u.since t 1000000000 = true → exec (.addressAssign dt) s =
      .next ((u.modFabric (fun f => { f with
        addrState := 2, storedAddr := some f.addr, tentativeSince := none })).topologyChanged)) ∧
  (∀ (s u : State) (dt : Ticks) (t : Nat), s.elapse dt = u → u.fabric.elected = false →
    u.fabric.quietEnd = some t → u.since t 1500000000 = true → exec (.electionEvaluate dt) s =
      .next ((u.modFabric (fun f => { f with elected := true })).applyRole u.electResult)) ∧
  (∀ (s u : State) (dt : Ticks), s.elapse dt = u → u.fabric.elected = true →
    (u.noteElection.fabric.electing = none → exec (.electionEvaluate dt) s = .next u.noteElection) ∧
    ∀ m b r t, u.noteElection.fabric.electing = some (m, b, r, t) → exec (.electionEvaluate dt) s = .next (
      if u.noteElection.since t 500000000 = true then u.noteElection.applyRole (m, b, r) else u.noteElection)) ∧
  (∀ l : List (Nat × Nat), l ≠ [] → ∃ p, (p, bestNode l) ∈ l ∧
    ∀ x ∈ l, x.1 < p ∨ (x.1 = p ∧ bestNode l ≤ x.2)) ∧
  (∀ (s u v : State) (dt : Ticks) (i type : Nat) (b t : Bytes), s.elapse dt = u → frameType b = type →
    u.received i type b = some t → 4 < type → u.forMe b = false → v = u.takeFrame i b →
    ¬(v.fabric.addrState = 2 ∧ frameSrc b = v.fabric.addr) →
    (frameHop b ≤ 1 → exec (.routedFrameForward dt i b) s = .next (v.countDropped i)) ∧
    (v.fabric.routeFor (frameDst b) = none → exec (.routedFrameForward dt i b) s = .next (v.countDropped i)) ∧
    (∀ j, 1 < frameHop b → v.fabric.routeFor (frameDst b) = some j → exec (.routedFrameForward dt i b) s =
      .next (v.enqueueOn j ⟨type, frameDst b, frameHop b - 1, frameSrc b, t⟩))) ∧
  (∀ (s u v : State) (dt : Ticks) (i : Nat) (b t : Bytes), s.elapse dt = u → u.received i (frameType b) b = some t →
    4 < frameType b → v = u.takeFrame i b → u.fabric.addrState = 2 → frameSrc b = u.fabric.addr →
    exec (.routedFrameForward dt i b) s = .next (v.countDropped i))

/-- Resting on R407 to R409 and R329: of the commands of a tunnel only the manager's are taken, and only whole; they
then wait, for the turn of R307, with the origin FABRIC and the address that sent them. The pieces of a tunnel of this
node or of its manager gather in order, for four tunnels at a time and to 4,096 bytes, and are dropped where one does
not follow; those that wait for 2 s time out. The final response ends a tunnel, whole, or 10 s end it with TIMEOUT; a
response that is not final leaves it. A manager distributes every 10 s, to each node of its database as
`State.distributeTo` says; it posts a reading before it acknowledges it, acknowledges a known one again, and leaves one
unacknowledged where BULK has no room; another role drops it. A worker forgets an acknowledged reading and sends one
that is not again after 2 s. -/
def Obligations.TunnelsAndReadingsAreCarried : Prop :=
  (∀ (s u v : State) (dt : Ticks) (i : Nat) (b t : Bytes), s.elapse dt = u → u.receivedForMe i 5 b = some t →
    v = u.takeFrame i b → v.fromManager b = false → exec (.tunnelCmdReceive dt i b) s = .next (v.countDropped i)) ∧
  (∀ (s u v : State) (dt : Ticks) (i : Nat) (b t : Bytes), s.elapse dt = u → u.receivedForMe i 5 b = some t →
    v = u.takeFrame i b → v.fromManager b = true → v.assembled (field t 0 4) (frameSrc b) t = none →
    exec (.tunnelCmdReceive dt i b) s = .next ((v.dropPieces (field t 0 4) (frameSrc b)).countDropped i)) ∧
  (∀ (s u v : State) (dt : Ticks) (i : Nat) (b t data : Bytes), s.elapse dt = u →
    u.receivedForMe i 5 b = some t → v = u.takeFrame i b → v.fromManager b = true →
    v.assembled (field t 0 4) (frameSrc b) t = some data →
    exec (.tunnelCmdReceive dt i b) s = .next (((v.dropPieces (field t 0 4) (frameSrc b)).modFabric (fun f => { f with
      served := f.served ++ [(field t 0 4, frameSrc b, i)] })).modHawk (fun h => { h with
        waiting := h.waiting ++ [⟨⟨.fabric, field t 0 4⟩, slice t 4 64, data, frameSrc b⟩] }))) ∧
  (∀ (v : State) (id src : Nat) (t : Bytes) (e : Entry), e = Entry.ofBytes (slice t 4 64) →
    (v.piecesOf id src ++ t.drop 68).length = (if e.bulk = true then e.length else 0) →
    v.assembled id src t = some (v.piecesOf id src ++ t.drop 68)) ∧
  (∀ (s u v : State) (dt : Ticks) (i id src : Nat) (b t held : Bytes), s.elapse dt = u →
    u.receivedForMe i 7 b = some t → v = u.takeFrame i b → field t 0 4 = id → frameSrc b = src →
    v.piecesOf id src = held →
    ((v.tunnelOf id src).isSome = false → v.fromManager b = false →
      exec (.tunnelBulkReceive dt i b) s = .next (v.countDropped i)) ∧
    ((v.tunnelOf id src).isSome = true ∨ v.fromManager b = true →
      field t 4 4 ≠ held.length ∨ 4096 < held.length + (t.length - 8) ∨
        ((v.tunnelOf id src).isSome = false ∧ held = [] ∧ 4 ≤ v.fabric.pieces.length) →
      exec (.tunnelBulkReceive dt i b) s = .next ((v.dropPieces id src).countDropped i))) ∧
  (∀ (s u v : State) (dt : Ticks) (i id src : Nat) (b t held : Bytes), s.elapse dt = u →
    u.receivedForMe i 7 b = some t → v = u.takeFrame i b → field t 0 4 = id → frameSrc b = src →
    v.piecesOf id src = held → (v.tunnelOf id src).isSome = true ∨
      (v.fromManager b = true ∧ (held ≠ [] ∨ v.fabric.pieces.length < 4)) → field t 4 4 = held.length →
    held.length + (t.length - 8) ≤ 4096 → exec (.tunnelBulkReceive dt i b) s = .next (v.modFabric (fun f => { f with
      pieces := f.pieces.filter (fun q => !(q.id == id && q.src == src)) ++
        [⟨id, src, i, held ++ t.drop 8, v.mono⟩] }))) ∧
  (∀ (s u : State) (dt : Ticks) (id : Nat) (p : TunnelPieces), s.elapse dt = u →
    u.fabric.pieces.filter (fun p => p.id == id && u.since p.at_ 2000000000) = [p] →
    exec (.tunnelPieceTimeout dt id) s = .next ((u.dropPieces p.id p.src).countDropped p.port)) ∧
  (∀ (s u v : State) (dt : Ticks) (i : Nat) (b t data : Bytes) (x : Tunnel), s.elapse dt = u →
    u.receivedForMe i 6 b = some t → v = u.takeFrame i b → v.tunnelOf (field t 0 4) (frameSrc b) = some x →
    x.call.isSome = true → bit (field (slice t 4 64) 4 1) 3 = true →
    v.assembled (field t 0 4) x.dest t = some data →
    exec (.tunnelRespReceive dt i b) s = .next (v.endTunnel x stDone (slice t 4 64 ++ data))) ∧
  (∀ (s u v : State) (dt : Ticks) (i : Nat) (b t : Bytes), s.elapse dt = u →
    u.receivedForMe i 6 b = some t → v = u.takeFrame i b →
    (v.tunnelOf (field t 0 4) (frameSrc b) = none →
      exec (.tunnelRespReceive dt i b) s = .next (v.countDropped i)) ∧
    (∀ x, v.tunnelOf (field t 0 4) (frameSrc b) = some x →
      (v.assembled (field t 0 4) x.dest t = none → exec (.tunnelRespReceive dt i b) s =
        .next ((v.dropPieces (field t 0 4) x.dest).countDropped i)) ∧
      (∀ data, v.assembled (field t 0 4) x.dest t = some data → bit (field (slice t 4 64) 4 1) 3 = false →
        exec (.tunnelRespReceive dt i b) s = .next v) ∧
      (∀ data, v.assembled (field t 0 4) x.dest t = some data → bit (field (slice t 4 64) 4 1) 3 = true →
        x.call = none → exec (.tunnelRespReceive dt i b) s =
          .next ((v.endTunnel x stDone (slice t 4 64 ++ data)).itemDone x.dest x.item (field (slice t 4 64) 6 1))))) ∧
  (∀ (s : State) (dest item status : Nat), s.itemDone dest item status =
    if status = stBusy ∨ status = stNotReady ∨ status = stTimeout ∨ status = stAborted then s
    else (s.bump (if status = stDone then 14 else 15)).modFabric (fun f => { f with
      refused := f.refused ++ [(dest, item)] })) ∧
  (∀ (s u : State) (dt : Ticks) (id : Nat) (x : Tunnel), s.elapse dt = u → x.id = id →
    u.fabric.tunnels = [x] → u.since x.at_ 10000000000 = true →
    exec (.tunnelResponseTimeout dt id) s = .next (u.endTunnel x stTimeout [])) ∧
  (∀ (s u : State) (dt : Ticks), s.elapse dt = u → u.fabric.role = roleManager →
    u.since u.fabric.distAt 10000000000 = true → exec (.distributionRepeat dt) s =
      .next (u.fabric.database.foldl State.distributeTo (u.modFabric (fun f => { f with distAt := u.mono })))) ∧
  (∀ (s u v : State) (dt : Ticks) (i src rid : Nat) (b t : Bytes), s.elapse dt = u →
    u.receivedForMe i 8 b = some t → v = u.takeFrame i b → frameSrc b = src → field t 0 4 = rid →
    (v.fabric.role ≠ roleManager → exec (.readingReceive dt i b) s = .next (v.countDropped i)) ∧
    (v.fabric.role = roleManager → v.fabric.acked.contains (src, rid) = false → t.length = 200 →
      v.bulkRoom 200 = false → exec (.readingReceive dt i b) s = .next v) ∧
    (v.fabric.role = roleManager → v.fabric.acked.contains (src, rid) = true → exec (.readingReceive dt i b) s =
      .next (v.sendRouted 9 src (leBytes 4 rid ++ zeros 4))) ∧
    (v.fabric.role = roleManager → v.fabric.acked = [] → v.bulkRoom 200 = true → t.length = 200 → exec (.readingReceive dt i b) s =
      .next (((v.postBulk 0x0782 (leBytes 2 src ++ zeros 6 ++ t.drop 8)).modFabric (fun f => { f with
        acked := [(src, rid)] })).sendRouted 9 src (leBytes 4 rid ++ zeros 4)))) ∧
  (∀ (s u : State) (dt : Ticks) (i : Nat) (b t : Bytes), s.elapse dt = u → u.receivedForMe i 9 b = some t →
    exec (.readingAckReceive dt i b) s = .next ((u.takeFrame i b).modFabric (fun f => { f with
      forward := f.forward.filter (fun x => x.1 != field t 0 4) }))) ∧
  (∀ (s u : State) (dt : Ticks) (rid at_ : Nat) (r : Bytes), s.elapse dt = u → u.fabric.forward = [(rid, r, at_)] →
    u.since at_ 2000000000 = true → u.fabric.manager ≠ 0 → u.fabric.role = roleWorker →
    exec (.readingResend dt rid) s = .next ((u.modFabric (fun f => { f with
      forward := [(rid, r, u.mono)] })).sendReading rid r))

/-! ### The DMA engine, the guards and the scrubbers -/

/-- Resting on R354, R358, R359, R361, R364, R366, R369 to R379, R522 and R523: the submission of one descriptor
places it and starts the channel, or refuses it before any byte, a bad one and one that touches a legal range, the
latter blocked and counted; a channel that holds a descriptor takes none. A descriptor whose bytes are moved reaches
DONE and its channel goes on to NEXT; suspension by a page fault, a permission and a revoked window, resumption, abort and
disable do what Table 13.10 says; a translation is dropped by page or with all others, and a revoked window leaves the
TLB until it is released. A scrub counts what it finds and acts on it by its kind. The flash controller's jobs complete
in order: an erase blanks its sector, is retried twice and then leaves the sector BAD, and does nothing inside a
revoked guard window; a program appends a reading or an
archive record, and the archive's head is committed at most every 100 ms. How granules are moved, `State.runDma` says. -/
def Obligations.EnginesFinishTheirWork : Prop :=
  (∀ (s u : State) (dt : Ticks) (ch prio index root : Nat) (d : Descriptor) (tables : List (Nat × Word)),
    s.elapse dt = u → u.acAlive = true → (u.mem.channel ch).current = none → u.mem.pool = [] → index < 16384 →
    exec (.dmaSubmit dt ch prio index [d] root tables) s =
      .next ((((u.modMem (fun m => { m.writeTables tables with
        root := root, pool := [⟨index, d, .pending, .none_, 0⟩] })).modMem (fun m => m.modDma ch (fun x => { x with
          prio := prio, since := m.grants }))).startDesc ch index).modMem (·.grantAll))) ∧
  (∀ (s u : State) (dt : Ticks) (ch prio index root : Nat) (ds : List Descriptor) (tables : List (Nat × Word)),
    s.elapse dt = u → (u.mem.channel ch).current.isSome = true →
    exec (.dmaSubmit dt ch prio index ds root tables) s = .next u) ∧
  (∀ (s : State) (ch i : Nat) (p : PoolDesc), s.mem.poolAt i = some p → p.state = .pending →
    (descRefusal p.desc = .none_ → s.startDesc ch i = s.modMem (fun m => m.modDma ch (fun x => { x with
      current := some i, running := false, suspended := false }))) ∧
    (descRefusal p.desc = .badDesc → s.startDesc ch i = s.modMem (fun m => (m.modDma ch (fun x => { x with
      current := some i, running := false, suspended := false })).abortChannel ch .badDesc)) ∧
    (descRefusal p.desc = .legal → s.startDesc ch i = (s.modMem (fun m => (m.modDma ch (fun x => { x with
      current := some i, running := false, suspended := false })).abortChannel ch .legal)).blocked 3)) ∧
  (∀ d : Descriptor, (1 < d.ctrl % 16 ∨ 32 ≤ d.ctrl ∨ d.reservedZero = false ∨ d.len = 0 ∨ 16777215 < d.len ∨
      0x100000000 < d.dst + d.len ∨ (d.ctrl % 16 = 0 ∧ (0x100000000 < d.src + d.len ∨
        (d.src < d.dst + d.len ∧ d.dst < d.src + d.len))) → descRefusal d = .badDesc) ∧
    (d.ctrl % 16 = 1 → d.ctrl < 32 → d.reservedZero = true → 0 < d.len → d.len ≤ 16777215 →
      0x30000000 ≤ d.dst → d.dst < 0x30100000 → descRefusal d = .legal)) ∧
  (∀ (s : State) (ch i done iova : Nat) (dst : Bool) (cause : DescCause),
    cause = .pageFault ∨ cause = .permission ∨ cause = .revoked → s.stopGranule ch i done cause iova dst =
      s.modMem (fun m => ((m.setDesc i .suspended cause done).modDma ch (fun x => { x with
        running := false, suspended := true, faultIova := iova, faultDst := dst })).event)) ∧
  (∀ (s : State) (ch : Nat) (p : PoolDesc), p.desc.next = 0xFFFFFFFF → bit p.desc.ctrl 4 = false →
    s.finishDesc ch p = s.modMem (fun m => ((m.setDesc p.index .done .none_ p.desc.len).modDma ch (fun x => { x with
      running := false, current := none, since := m.grants })).grantAll)) ∧
  (∀ d : Descriptor, d.ctrl % 16 = 0 → d.ctrl < 32 → d.reservedZero = true → 0 < d.len → d.len ≤ 16777215 →
    d.src + d.len ≤ d.dst → d.dst + d.len ≤ 0x10000000 → descRefusal d = .none_) ∧
  (∀ (s u v : State) (dt : Ticks) (ch : Nat) (failing : List Nat) (i : Nat) (p : PoolDesc), s.elapse dt = u →
    u.acAlive = true → v = u.runDma failing ch false (u.granulesLeft ch) → (v.mem.channel ch).current = some i →
    v.mem.poolAt i = some p → (v.mem.channel ch).running = true → p.desc.len ≤ p.done →
    exec (.dmaTransferEnd dt ch failing) s = .next (v.finishDesc ch p)) ∧
  (∀ (s u : State) (dt : Ticks) (ch : Nat) (failing : List Nat), s.elapse dt = u → u.acAlive = true →
    exec (.dmaPageWalk dt ch failing) s =
      .next (((u.runDma failing ch true (u.granulesLeft ch)).runDma failing ch false 1).modMem (·.grantAll))) ∧
  (∀ (s u v : State) (dt : Ticks) (ch r n : Nat), s.elapse dt = u → u.acAlive = true → 2 ≤ u.mem.runningCount →
    u.mem.nextReady = some r → u.mem.preempted = some ch → v = u.runDma [] ch false n →
    (v.mem.channel ch).running = true → (v.mem.channel ch).prio < (u.mem.channel r).prio →
    exec (.dmaPreempt dt ch n) s = .next (v.modMem (fun m => (m.modDma ch (fun x => { x with
      running := false, since := m.grants })).grantAll))) ∧
  (∀ (s u : State) (dt : Ticks) (ch : Nat), s.elapse dt = u → u.acAlive = true → (u.mem.channel ch).suspended = true →
    exec (.dmaResume dt ch) s = .next (u.modMem (fun m => (m.modDma ch (fun x => { x with
      suspended := false, since := m.grants })).grantAll)) ∧
    ∀ i p, (u.mem.channel ch).current = some i → u.mem.poolAt i = some p →
      exec (.dmaAbort dt ch) s = .next (u.modMem (fun m => (m.abortChannel ch p.cause).grantAll))) ∧
  (∀ (s u : State) (dt : Ticks) (ch n i : Nat) (p : PoolDesc), s.elapse dt = u → u.acAlive = true →
    (u.mem.channel ch).running = false → (u.mem.channel ch).suspended = false →
    (u.mem.channel ch).current = some i → u.mem.poolAt i = some p →
    exec (.dmaChannelDisable dt ch n) s = .next (u.modMem (fun m => (m.abortChannel ch .stopped).grantAll))) ∧
  (∀ (s u : State) (dt : Ticks) (tables : List (Nat × Word)), s.elapse dt = u → u.acAlive = true →
    exec (.iommuInvalidate dt none tables) s = .next (u.modMem (fun m => { m.writeTables tables with tlb := [] })) ∧
    ∀ p, exec (.iommuInvalidate dt (some p) tables) s = .next (u.modMem (fun m => { m.writeTables tables with
      tlb := (m.writeTables tables).tlb.filter (fun e => e.page != p) }))) ∧
  (∀ (s u : State) (dt : Ticks) (w : Nat), s.elapse dt = u → u.legalRuns = true →
    ∃ t, exec (.guardWindowRevoke dt w) s = .next t ∧ t.mem.windows = u.mem.windows.modify w (fun x => { x with
      revoked := true }) ∧ (∀ e ∈ t.mem.tlb, t.mem.revokedPage (4096 * e.phys) = false) ∧
      t.mem.cells = u.mem.cells ∧ t.legal = u.legal) ∧
  (∀ (s u : State) (dt : Ticks), s.elapse dt = u → u.legalRuns = true → u.legal.activation = none →
    exec (.guardWindowRelease dt) s = .next (u.modMem (fun m => { m with
      windows := m.windows.map (fun w => { w with revoked := false }) }))) ∧
  (∀ (s u : State) (dt : Ticks), s.elapse dt = u → u.boot.held = false →
    exec (.mramScrub dt .corrected) s = .next (u.bump 2) ∧
    (∀ k, k = 1 ∨ k = 2 →
      exec (.mramScrub dt (.storeWord k)) s = .next (((u.bump 3).rebuildStore k).postFault 0x000C)) ∧
    (∀ k, k = 2 ∨ k = 3 → exec (.mramScrub dt (.bootRecord k)) s = .next (((u.bump 3).modComponent k (fun c =>
      { c with recordBad := true })).postFault 0x000C)) ∧
    (∀ w, w < 131072 → exec (.mramScrub dt (.otherNonLegal w)) s = .next (((u.bump 3).modMem (fun m => { m with
      badWords := m.badWords.insert (0x30100000 / 8 + w) })).postFault 0x000C)) ∧
    (∀ id x, paramInfo id = some x → isLegalParam id = false →
      exec (.mramScrub dt (.classNParam id)) s = .next (((u.bump 3).storeApp id x.initial).postFault 0x000C)) ∧
    (∀ id, isLegalParam id = true → u.legalRuns = true → u.legal.faulted.contains id = false →
      exec (.mramScrub dt (.legalParam id)) s = .next (((((u.bump 3).modLegal (fun l => { l with
        faulted := l.faulted ++ [id] })).openGaps 8 0x000B).logEvent 0x10 0x09 0xFF (leBytes 2 id)).postFault 0x000B)) ∧
    exec (.mramScrub dt (.calCopy 0)) s = .next ((u.bump 3).modLegal (fun l => { l with
      calA := { l.calA with intact := false } })) ∧
    (∀ m, exec (.mramScrub dt (.bankCopy m 0)) s = .next ((u.bump 3).modPoint m (fun p => { p with
      copyA := { p.copyA with intact := false } }))) ∧
    (∀ i v w, i < 8 → exec (.mramScrub dt (.auditCounter i v w)) s = .next ((u.bump 3).modLegal (fun l => { l with
      badCounters := l.badCounters ++ [⟨i, v, w, l.counter i⟩] })))) ∧
  (∀ (s u : State) (dt : Ticks) (line a : Nat), s.elapse dt = u → u.boot.held = false → line < 147456 →
    a = sramLineAddr line → u.mem.isPoisoned a = false →
    exec (.sramScrubLine dt line .corrected) s = .next (u.bump 0) ∧
    exec (.sramScrubLine dt line .fails) s = .next ((u.modMem (fun m => { m with
      poisoned := a / 32 :: m.poisoned })).bump 1)) ∧
  (∀ (s u : State) (dt : Ticks) (sector attempts store : Nat) (rest : List FlashJob), s.elapse dt = u →
    u.flash.jobs = .erase sector attempts store :: rest →
    (∀ n good, n ≠ sector ∨ u.sectorShut sector = true → exec (.flashEraseComplete dt n good) s = .next u) ∧
    (u.sectorShut sector = false → exec (.flashEraseComplete dt sector true) s = .next (u.eraseGood store sector)) ∧
    (u.sectorShut sector = false → attempts < 2 → exec (.flashEraseComplete dt sector false) s = .next ((u.modFlash (fun f => { f with
      jobs := .erase sector (attempts + 1) store :: f.jobs.drop 1 })).beginJob)) ∧
    (u.sectorShut sector = false → 2 ≤ attempts → rest = [] →
      ∃ t, exec (.flashEraseComplete dt sector false) s = .next t ∧ (t.flash.word sector).state = 3)) ∧
  (∀ (s : State) (store sector : Nat) (j : FlashJob), Memory.wf s.mem.cells = true → s.flash.jobs = [j] →
    sector < 4096 → store = 1 ∨ store = 2 → ((s.eraseGood store sector).flash.word sector).state = 2 ∧
      (s.eraseGood store sector).flash.jobs = [] ∧ (s.eraseGood store sector).flash.pos store = (sector, 64) ∧
      ∀ k, k < 65536 → Memory.read (s.eraseGood store sector).mem.cells (flashBase + 65536 * sector + k) = 0xFF) ∧
  (∀ (s : State) (store time : Nat) (b : Bytes), Memory.wf s.mem.cells = true → store = 1 ∨ store = 2 →
    64 ≤ (s.flash.pos store).2 → (s.programAt store time b).flash.pos store =
      ((s.flash.pos store).1, (s.flash.pos store).2 + b.length) ∧
    Memory.readBytes (s.programAt store time b).mem.cells
      (flashBase + 65536 * (s.flash.pos store).1 + (s.flash.pos store).2) b.length = b) ∧
  (∀ (s u : State) (dt : Ticks) (b : Bytes) (rest : List FlashJob), s.elapse dt = u →
    (u.flash.jobs = .programReading b :: rest → exec (.flashProgramComplete dt) s =
      .next (((u.programAt 1 (field b 32 8) b).modFlash (fun f => { f with storeFault := false })).popJob)) ∧
    (u.flash.jobs = .programArchive b :: rest → exec (.flashProgramComplete dt) s =
      .next ((u.programAt 2 (field b 8 8) b).popJob))) ∧
  (∀ (s u : State) (dt : Ticks) (p : Nat × Nat), s.elapse dt = u → u.flash.archPending = some p →
    u.since u.flash.archCommitAt 100000000 = true → exec (.archiveHeadCommit dt) s = .next (u.modFlash (fun f =>
      { f.putArchHead p with archPending := none, archCommitAt := u.mono })) ∧ (u.modFlash (fun f =>
      { f.putArchHead p with archPending := none, archCommitAt := u.mono })).flash.archHead = p)

/-- Resting on R373, R375 and Table 13.2: no command of the DMA engine and no write of its tables changes a byte of
memory outside the Undercoat region, the Hawk area and the non-legal MRAM, whatever its descriptors, tables and
translations say. -/
def Obligations.DmaWritesOnlyItsRegions : Prop :=
  ∀ (s u t : State) (dt : Ticks) (ch n : Nat) (failing : List Nat), s.elapse dt = u →
    Memory.wf u.mem.cells = true →
    (∃ prio index root ds tables, exec (.dmaSubmit dt ch prio index ds root tables) s = .next t) ∨
      (∃ page tables, exec (.iommuInvalidate dt page tables) s = .next t) ∨
      exec (.dmaTransferEnd dt ch failing) s = .next t ∨ exec (.dmaPageWalk dt ch failing) s = .next t ∨
      exec (.dmaPreempt dt ch n) s = .next t ∨ exec (.dmaChannelDisable dt ch n) s = .next t ∨
      exec (.dmaResume dt ch) s = .next t ∨ exec (.dmaAbort dt ch) s = .next t →
    ∀ a, ¬(0x20000000 ≤ a ∧ a ≤ 0x2037FFFF) → ¬(0x203C0000 ≤ a ∧ a ≤ 0x203FFFFF) →
      ¬(0x30100000 ≤ a ∧ a ≤ 0x301FFFFF) → Memory.read t.mem.cells a = Memory.read u.mem.cells a

/-! ### Skim -/

/-- R472, R477, R478: every sample of a block is restored within D, and with D = 0 exactly; the warm-up and a RAW block
are exact; each value is read back from its code; a block of N samples occupies at most 8 + 4N bytes; a profile series
is coded with D = 0. -/
def Obligations.SkimKeepsItsBound : Prop :=
  (∀ (pred d : Nat) (xs ys : List Int), pred ≤ 3 → d ≤ 15 → (∀ x ∈ xs, -2147483648 ≤ x ∧ x ≤ 2147483647) →
    ys = xs.take pred ++ restore pred d (xs.take pred).reverse (codedPart pred d xs) →
    ys.length = xs.length ∧ (∀ i, (xs.getD i 0 - ys.getD i 0).natAbs ≤ d) ∧ (d = 0 → ys = xs) ∧
      ∀ u ∈ codedPart pred d xs, u < 2 ^ 33) ∧
  (∀ (k u : Nat) (rest : List Bool), k ≤ 30 → u < 2 ^ 33 → readRice k (riceBits k u ++ rest) = some (u, rest)) ∧
  (∀ xs : List Int, packAll (xs.flatMap (fun x => bitsOf 32 (wrap32 x))) =
    xs.flatMap (fun x => (leBytes 4 (wrap32 x)).reverse)) ∧
  (∀ (d status : Nat) (xs : List Int), xs.length ≤ 256 → (skimBlock d status xs).length ≤ 8 + 4 * xs.length) ∧
  (∀ (s : State) (src : Nat) (b : SkimBlock), 16 ≤ src → s.blockOf src = some b →
    s.endBlock src = (if b.archived = true
      then (s.modSkim (·.drop src)).appendArchive (b.record (skimBlock 0 b.status b.samples.reverse))
      else s.modSkim (·.drop src)))
end

