-- ==== Sys2Proof/Laws/Dispatch.lean ====
section
/-! SUPPORT. What each arm of `exec` calls, as rewrite rules. -/

namespace Sys2Proof.Machine

@[simp] theorem exec_resetRelease (dt : Ticks) (env : StartEnv) (s : State) :
    exec (.resetRelease dt env) s = execResetRelease dt env s := rfl
@[simp] theorem exec_entropyStartRetry (dt : Ticks) (noise : BitVec 1024) (env : StartEnv) (s : State) :
    exec (.entropyStartRetry dt noise env) s = execEntropyStartRetry dt noise env s := rfl
@[simp] theorem exec_xtalMainTimeout (dt : Ticks) (s : State) :
    exec (.xtalMainTimeout dt) s = execXtalMainTimeout dt s := rfl
@[simp] theorem exec_pllLockTimeout (dt : Ticks) (s : State) :
    exec (.pllLockTimeout dt) s = execPllLockTimeout dt s := rfl
@[simp] theorem exec_legalStartFail (dt : Ticks) (env : StartEnv) (s : State) :
    exec (.legalStartFail dt env) s = execLegalStartFail dt env s := rfl
@[simp] theorem exec_appStartFail (dt : Ticks) (env : StartEnv) (s : State) :
    exec (.appStartFail dt env) s = execAppStartFail dt env s := rfl
@[simp] theorem exec_brownOut (dt : Ticks) (rail : Rail) (cut : Cut) (s : State) :
    exec (.brownOut dt rail cut) s = execBrownOut dt rail cut s := rfl
@[simp] theorem exec_resetPinLow (dt : Ticks) (widthNs : Nat) (cut : Cut) (s : State) :
    exec (.resetPinLow dt widthNs cut) s = execResetPinLow dt widthNs cut s := rfl
@[simp] theorem exec_mainPowerLoss (dt : Ticks) (cut : Cut) (s : State) :
    exec (.mainPowerLoss dt cut) s = execMainPowerLoss dt cut s := rfl
@[simp] theorem exec_aonPowerUp (dt : Ticks) (levels : PinLevels) (s : State) :
    exec (.aonPowerUp dt levels) s = execAonPowerUp dt levels s := rfl
@[simp] theorem exec_aonSupplyLoss (dt : Ticks) (s : State) :
    exec (.aonSupplyLoss dt) s = execAonSupplyLoss dt s := rfl
@[simp] theorem exec_tamperSample (dt : Ticks) (levels : PinLevels) (s : State) :
    exec (.tamperSample dt levels) s = execTamperSample dt levels s := rfl
@[simp] theorem exec_retainedDrain (dt : Ticks) (s : State) :
    exec (.retainedDrain dt) s = execRetainedDrain dt s := rfl
@[simp] theorem exec_displaySequencePhaseEnd (dt : Ticks) (mismatch : Bool) (s : State) :
    exec (.displaySequencePhaseEnd dt mismatch) s = execDisplaySequencePhaseEnd dt mismatch s := rfl
@[simp] theorem exec_lockstepMismatch (dt : Ticks) (env : StartEnv) (s : State) :
    exec (.lockstepMismatch dt env) s = execLockstepMismatch dt env s := rfl
@[simp] theorem exec_lcWatchdogExpiry (dt : Ticks) (env : StartEnv) (s : State) :
    exec (.lcWatchdogExpiry dt env) s = execLcWatchdogExpiry dt env s := rfl
@[simp] theorem exec_acWatchdogExpiry (dt : Ticks) (env : StartEnv) (s : State) :
    exec (.acWatchdogExpiry dt env) s = execAcWatchdogExpiry dt env s := rfl
@[simp] theorem exec_lcIntegrityFault (dt : Ticks) (env : StartEnv) (s : State) :
    exec (.lcIntegrityFault dt env) s = execLcIntegrityFault dt env s := rfl
@[simp] theorem exec_acIntegrityFault (dt : Ticks) (addr : Nat) (env : StartEnv) (s : State) :
    exec (.acIntegrityFault dt addr env) s = execAcIntegrityFault dt addr env s := rfl
@[simp] theorem exec_mainClockFault (dt : Ticks) (s : State) :
    exec (.mainClockFault dt) s = execMainClockFault dt s := rfl
@[simp] theorem exec_pllRestartTry (dt : Ticks) (locked : Bool) (s : State) :
    exec (.pllRestartTry dt locked) s = execPllRestartTry dt locked s := rfl
@[simp] theorem exec_dspClockFault (dt : Ticks) (s : State) :
    exec (.dspClockFault dt) s = execDspClockFault dt s := rfl
@[simp] theorem exec_mclkStop (dt : Ticks) (glitchPs : Option Nat) (s : State) :
    exec (.mclkStop dt glitchPs) s = execMclkStop dt glitchPs s := rfl
@[simp] theorem exec_mclkWindow (dt : Ticks) (meanPpm : Int) (periodsOk : Bool) (s : State) :
    exec (.mclkWindow dt meanPpm periodsOk) s = execMclkWindow dt meanPpm periodsOk s := rfl
@[simp] theorem exec_mclkReturn (dt : Ticks) (s : State) :
    exec (.mclkReturn dt) s = execMclkReturn dt s := rfl
@[simp] theorem exec_xoModLost (dt : Ticks) (s : State) :
    exec (.xoModLost dt) s = execXoModLost dt s := rfl
@[simp] theorem exec_xoModRestartTry (dt : Ticks) (runs : Bool) (s : State) :
    exec (.xoModRestartTry dt runs) s = execXoModRestartTry dt runs s := rfl
@[simp] theorem exec_modEpoch (dt : Ticks) (s : State) :
    exec (.modEpoch dt) s = execModEpoch dt s := rfl
@[simp] theorem exec_slewSecond (dt : Ticks) (s : State) :
    exec (.slewSecond dt) s = execSlewSecond dt s := rfl
@[simp] theorem exec_slewClamp (dt : Ticks) (s : State) :
    exec (.slewClamp dt) s = execSlewClamp dt s := rfl
@[simp] theorem exec_fineHoldoverExpiry (dt : Ticks) (s : State) :
    exec (.fineHoldoverExpiry dt) s = execFineHoldoverExpiry dt s := rfl
@[simp] theorem exec_rtcHourlyWrite (dt : Ticks) (s : State) :
    exec (.rtcHourlyWrite dt) s = execRtcHourlyWrite dt s := rfl
@[simp] theorem exec_counterInputEdge (dt : Ticks) (cnt : Nat) (rising : Bool) (heldNs : Nat) (s : State) :
    exec (.counterInputEdge dt cnt rising heldNs) s = execCounterInputEdge dt cnt rising heldNs s := rfl
@[simp] theorem exec_quadTransition (dt : Ticks) (cnt : Nat) (a b : Bool) (heldANs heldBNs : Nat) (s : State) :
    exec (.quadTransition dt cnt a b heldANs heldBNs) s = execQuadTransition dt cnt a b heldANs heldBNs s := rfl
@[simp] theorem exec_counterLatch (dt : Ticks) (s : State) :
    exec (.counterLatch dt) s = execCounterLatch dt s := rfl
@[simp] theorem exec_faOutput (dt : Ticks) (pch : Nat) (words : List (BitVec 4)) (x3Held : Bool) (s : State) :
    exec (.faOutput dt pch words x3Held) s = execFaOutput dt pch words x3Held s := rfl
@[simp] theorem exec_lineHoldTimeout (dt : Ticks) (pch : Nat) (s : State) :
    exec (.lineHoldTimeout dt pch) s = execLineHoldTimeout dt pch s := rfl
@[simp] theorem exec_lineLockTimeout (dt : Ticks) (pch : Nat) (s : State) :
    exec (.lineLockTimeout dt pch) s = execLineLockTimeout dt pch s := rfl
@[simp] theorem exec_diagBitSet (dt : Ticks) (pch bit : Nat) (seen : Sensed) (s : State) :
    exec (.diagBitSet dt pch bit seen) s = execDiagBitSet dt pch bit seen s := rfl
@[simp] theorem exec_diagBitClear (dt : Ticks) (pch bit : Nat) (seen : Sensed) (s : State) :
    exec (.diagBitClear dt pch bit seen) s = execDiagBitClear dt pch bit seen s := rfl
@[simp] theorem exec_diagSummary (dt : Ticks) (pch : Nat) (s : State) :
    exec (.diagSummary dt pch) s = execDiagSummary dt pch s := rfl
@[simp] theorem exec_syncInEdge (dt : Ticks) (lowLow highHigh : Bool) (s : State) :
    exec (.syncInEdge dt lowLow highHigh) s = execSyncInEdge dt lowLow highHigh s := rfl
@[simp] theorem exec_syncAtFire (dt : Ticks) (afterPs : Nat) (s : State) :
    exec (.syncAtFire dt afterPs) s = execSyncAtFire dt afterPs s := rfl
@[simp] theorem exec_analysisCycle (dt : Ticks) (mp : Nat) (s : State) :
    exec (.analysisCycle dt mp) s = execAnalysisCycle dt mp s := rfl
@[simp] theorem exec_weighPosition (dt : Ticks) (mp : Nat) (s : State) :
    exec (.weighPosition dt mp) s = execWeighPosition dt mp s := rfl
@[simp] theorem exec_weighTimeout (dt : Ticks) (mp : Nat) (s : State) :
    exec (.weighTimeout dt mp) s = execWeighTimeout dt mp s := rfl
@[simp] theorem exec_commitSecond (dt : Ticks) (s : State) :
    exec (.commitSecond dt) s = execCommitSecond dt s := rfl
@[simp] theorem exec_calendarActivation (dt : Ticks) (s : State) :
    exec (.calendarActivation dt) s = execCalendarActivation dt s := rfl
@[simp] theorem exec_keyPress (dt : Ticks) (key : Nat) (second : Bool) (s : State) :
    exec (.keyPress dt key second) s = execKeyPress dt key second s := rfl
@[simp] theorem exec_showLcvTimeout (dt : Ticks) (s : State) :
    exec (.showLcvTimeout dt) s = execShowLcvTimeout dt s := rfl
@[simp] theorem exec_keyStuck (dt : Ticks) (key : Nat) (s : State) :
    exec (.keyStuck dt key) s = execKeyStuck dt key s := rfl
@[simp] theorem exec_calIdleTimeout (dt : Ticks) (s : State) :
    exec (.calIdleTimeout dt) s = execCalIdleTimeout dt s := rfl
@[simp] theorem exec_provUpdate (dt : Ticks) (mp : Nat) (s : State) :
    exec (.provUpdate dt mp) s = execProvUpdate dt mp s := rfl
@[simp] theorem exec_provStabilityPoll (dt : Ticks) (mp : Nat) (s : State) :
    exec (.provStabilityPoll dt mp) s = execProvStabilityPoll dt mp s := rfl
@[simp] theorem exec_harmonicSecond (dt : Ticks) (mp : Nat) (s : State) :
    exec (.harmonicSecond dt mp) s = execHarmonicSecond dt mp s := rfl
@[simp] theorem exec_gateReadStatus (dt : Ticks) (s : State) :
    exec (.gateReadStatus dt) s = execGateReadStatus dt s := rfl
@[simp] theorem exec_gateReadRegisters (dt : Ticks) (s : State) :
    exec (.gateReadRegisters dt) s = execGateReadRegisters dt s := rfl
@[simp] theorem exec_gateSignReading (dt : Ticks) (s : State) :
    exec (.gateSignReading dt) s = execGateSignReading dt s := rfl
@[simp] theorem exec_gateReadLog (dt : Ticks) (s : State) :
    exec (.gateReadLog dt) s = execGateReadLog dt s := rfl
@[simp] theorem exec_gateAttest (dt : Ticks) (s : State) :
    exec (.gateAttest dt) s = execGateAttest dt s := rfl
@[simp] theorem exec_gateSetParam (dt : Ticks) (s : State) :
    exec (.gateSetParam dt) s = execGateSetParam dt s := rfl
@[simp] theorem exec_gateSetTime (dt : Ticks) (s : State) :
    exec (.gateSetTime dt) s = execGateSetTime dt s := rfl
@[simp] theorem exec_gateLoadCalendar (dt : Ticks) (s : State) :
    exec (.gateLoadCalendar dt) s = execGateLoadCalendar dt s := rfl
@[simp] theorem exec_gateSetOwnerLock (dt : Ticks) (s : State) :
    exec (.gateSetOwnerLock dt) s = execGateSetOwnerLock dt s := rfl
@[simp] theorem exec_gateWeighBegin (dt : Ticks) (s : State) :
    exec (.gateWeighBegin dt) s = execGateWeighBegin dt s := rfl
@[simp] theorem exec_gateWeighCommit (dt : Ticks) (s : State) :
    exec (.gateWeighCommit dt) s = execGateWeighCommit dt s := rfl
@[simp] theorem exec_gateWeighCancel (dt : Ticks) (s : State) :
    exec (.gateWeighCancel dt) s = execGateWeighCancel dt s := rfl
@[simp] theorem exec_calBegin (dt : Ticks) (s : State) :
    exec (.calBegin dt) s = execCalBegin dt s := rfl
@[simp] theorem exec_calZero (dt : Ticks) (s : State) :
    exec (.calZero dt) s = execCalZero dt s := rfl
@[simp] theorem exec_calCorner (dt : Ticks) (s : State) :
    exec (.calCorner dt) s = execCalCorner dt s := rfl
@[simp] theorem exec_calSpan (dt : Ticks) (s : State) :
    exec (.calSpan dt) s = execCalSpan dt s := rfl
@[simp] theorem exec_calElecRef (dt : Ticks) (s : State) :
    exec (.calElecRef dt) s = execCalElecRef dt s := rfl
@[simp] theorem exec_calRref (dt : Ticks) (s : State) :
    exec (.calRref dt) s = execCalRref dt s := rfl
@[simp] theorem exec_calCommit (dt : Ticks) (s : State) :
    exec (.calCommit dt) s = execCalCommit dt s := rfl
@[simp] theorem exec_calAbort (dt : Ticks) (s : State) :
    exec (.calAbort dt) s = execCalAbort dt s := rfl
@[simp] theorem exec_gateActivateLegal (dt : Ticks) (s : State) :
    exec (.gateActivateLegal dt) s = execGateActivateLegal dt s := rfl
@[simp] theorem exec_legalActivationSwitch (dt : Ticks) (env : StartEnv) (s : State) :
    exec (.legalActivationSwitch dt env) s = execLegalActivationSwitch dt env s := rfl
@[simp] theorem exec_gateSealLogArchive (dt : Ticks) (s : State) :
    exec (.gateSealLogArchive dt) s = execGateSealLogArchive dt s := rfl
@[simp] theorem exec_gateRegArchive (dt : Ticks) (s : State) :
    exec (.gateRegArchive dt) s = execGateRegArchive dt s := rfl
@[simp] theorem exec_gateReservedCode (dt : Ticks) (s : State) :
    exec (.gateReservedCode dt) s = execGateReservedCode dt s := rfl
@[simp] theorem exec_gateReplyReceive (dt : Ticks) (s : State) :
    exec (.gateReplyReceive dt) s = execGateReplyReceive dt s := rfl
@[simp] theorem exec_gateSlotFreeSubmit (dt : Ticks) (s : State) :
    exec (.gateSlotFreeSubmit dt) s = execGateSlotFreeSubmit dt s := rfl
@[simp] theorem exec_readingDelivery (dt : Ticks) (s : State) :
    exec (.readingDelivery dt) s = execReadingDelivery dt s := rfl
@[simp] theorem exec_memRead (dt : Ticks) (addr nwords : Nat) (failing : List Nat) (s : State) :
    exec (.memRead dt addr nwords failing) s = execMemRead dt addr nwords failing s := rfl
@[simp] theorem exec_memWrite (dt : Ticks) (addr : Nat) (words : List Word) (failing : List Nat) (s : State) :
    exec (.memWrite dt addr words failing) s = execMemWrite dt addr words failing s := rfl
@[simp] theorem exec_spiReservedFrame (dt : Ticks) (code : Nat) (s : State) :
    exec (.spiReservedFrame dt code) s = execSpiReservedFrame dt code s := rfl
@[simp] theorem exec_spiFrameCut (dt : Ticks) (cut : CutFrame) (s : State) :
    exec (.spiFrameCut dt cut) s = execSpiFrameCut dt cut s := rfl
@[simp] theorem exec_registerWrite (dt : Ticks) (addr : Nat) (words : List Word) (s : State) :
    exec (.registerWrite dt addr words) s = execRegisterWrite dt addr words s := rfl
@[simp] theorem exec_resetCauseWrite (dt : Ticks) (value : Word) (s : State) :
    exec (.resetCauseWrite dt value) s = execResetCauseWrite dt value s := rfl
@[simp] theorem exec_irqStatusWrite (dt : Ticks) (value : Word) (s : State) :
    exec (.irqStatusWrite dt value) s = execIrqStatusWrite dt value s := rfl
@[simp] theorem exec_hawkReset (dt : Ticks) (s : State) :
    exec (.hawkReset dt) s = execHawkReset dt s := rfl
@[simp] theorem exec_nodeTimeLatch (dt : Ticks) (addr nwords : Nat) (s : State) :
    exec (.nodeTimeLatch dt addr nwords) s = execNodeTimeLatch dt addr nwords s := rfl
@[simp] theorem exec_eventLostRead (dt : Ticks) (nwords : Nat) (s : State) :
    exec (.eventLostRead dt nwords) s = execEventLostRead dt nwords s := rfl
@[simp] theorem exec_bulkDroppedRead (dt : Ticks) (nwords : Nat) (s : State) :
    exec (.bulkDroppedRead dt nwords) s = execBulkDroppedRead dt nwords s := rfl
@[simp] theorem exec_commandDoorbell (dt : Ticks) (tail : Word) (s : State) :
    exec (.commandDoorbell dt tail) s = execCommandDoorbell dt tail s := rfl
@[simp] theorem exec_ringHeadWrite (dt : Ticks) (ring : Nat) (head : Word) (s : State) :
    exec (.ringHeadWrite dt ring head) s = execRingHeadWrite dt ring head s := rfl
@[simp] theorem exec_ringEnable (dt : Ticks) (ring : Nat) (cfg : Word) (s : State) :
    exec (.ringEnable dt ring cfg) s = execRingEnable dt ring cfg s := rfl
@[simp] theorem exec_ringDisable (dt : Ticks) (ring : Nat) (cfg : Word) (s : State) :
    exec (.ringDisable dt ring cfg) s = execRingDisable dt ring cfg s := rfl
@[simp] theorem exec_commandTake (dt : Ticks) (failing : Bool) (s : State) :
    exec (.commandTake dt failing) s = execCommandTake dt failing s := rfl
@[simp] theorem exec_coalesceTimerExpiry (dt : Ticks) (ring : Nat) (s : State) :
    exec (.coalesceTimerExpiry dt ring) s = execCoalesceTimerExpiry dt ring s := rfl
@[simp] theorem exec_rilfyFrameReceive (dt : Ticks) (port : Origin) (frame : Bytes) (s : State) :
    exec (.rilfyFrameReceive dt port frame) s = execRilfyFrameReceive dt port frame s := rfl
@[simp] theorem exec_getInfo (dt : Ticks) (c : Call) (p : Bytes) (s : State) :
    exec (.getInfo dt c p) s = execGetInfo dt c p s := rfl
@[simp] theorem exec_readStatus (dt : Ticks) (c : Call) (p : Bytes) (s : State) :
    exec (.readStatus dt c p) s = execReadStatus dt c p s := rfl
@[simp] theorem exec_getParam (dt : Ticks) (c : Call) (p : Bytes) (s : State) :
    exec (.getParam dt c p) s = execGetParam dt c p s := rfl
@[simp] theorem exec_setParam (dt : Ticks) (c : Call) (p : Bytes) (s : State) :
    exec (.setParam dt c p) s = execSetParam dt c p s := rfl
@[simp] theorem exec_getParamInfo (dt : Ticks) (c : Call) (p : Bytes) (s : State) :
    exec (.getParamInfo dt c p) s = execGetParamInfo dt c p s := rfl
@[simp] theorem exec_systemReset (dt : Ticks) (c : Call) (p : Bytes) (env : StartEnv) (s : State) :
    exec (.systemReset dt c p env) s = execSystemReset dt c p env s := rfl
@[simp] theorem exec_ping (dt : Ticks) (c : Call) (p : Bytes) (s : State) :
    exec (.ping dt c p) s = execPing dt c p s := rfl
@[simp] theorem exec_chainInfo (dt : Ticks) (c : Call) (p : Bytes) (s : State) :
    exec (.chainInfo dt c p) s = execChainInfo dt c p s := rfl
@[simp] theorem exec_syncNow (dt : Ticks) (c : Call) (p : Bytes) (latePs : Nat) (s : State) :
    exec (.syncNow dt c p latePs) s = execSyncNow dt c p latePs s := rfl
@[simp] theorem exec_syncAt (dt : Ticks) (c : Call) (p : Bytes) (s : State) :
    exec (.syncAt dt c p) s = execSyncAt dt c p s := rfl
@[simp] theorem exec_syncStatus (dt : Ticks) (c : Call) (p : Bytes) (s : State) :
    exec (.syncStatus dt c p) s = execSyncStatus dt c p s := rfl
@[simp] theorem exec_calibrate (dt : Ticks) (c : Call) (p : Bytes) (s : State) :
    exec (.calibrate dt c p) s = execCalibrate dt c p s := rfl
@[simp] theorem exec_weighBegin (dt : Ticks) (c : Call) (p : Bytes) (s : State) :
    exec (.weighBegin dt c p) s = execWeighBegin dt c p s := rfl
@[simp] theorem exec_weighCommit (dt : Ticks) (c : Call) (p : Bytes) (s : State) :
    exec (.weighCommit dt c p) s = execWeighCommit dt c p s := rfl
@[simp] theorem exec_weighCancel (dt : Ticks) (c : Call) (p : Bytes) (s : State) :
    exec (.weighCancel dt c p) s = execWeighCancel dt c p s := rfl
@[simp] theorem exec_provSamples (dt : Ticks) (c : Call) (p : Bytes) (s : State) :
    exec (.provSamples dt c p) s = execProvSamples dt c p s := rfl
@[simp] theorem exec_provStatus (dt : Ticks) (c : Call) (p : Bytes) (s : State) :
    exec (.provStatus dt c p) s = execProvStatus dt c p s := rfl
@[simp] theorem exec_readRegisters (dt : Ticks) (c : Call) (p : Bytes) (s : State) :
    exec (.readRegisters dt c p) s = execReadRegisters dt c p s := rfl
@[simp] theorem exec_signReading (dt : Ticks) (c : Call) (p : Bytes) (s : State) :
    exec (.signReading dt c p) s = execSignReading dt c p s := rfl
@[simp] theorem exec_readLog (dt : Ticks) (c : Call) (p : Bytes) (s : State) :
    exec (.readLog dt c p) s = execReadLog dt c p s := rfl
@[simp] theorem exec_sealLogArchive (dt : Ticks) (c : Call) (p : Bytes) (s : State) :
    exec (.sealLogArchive dt c p) s = execSealLogArchive dt c p s := rfl
@[simp] theorem exec_profileRead (dt : Ticks) (c : Call) (p : Bytes) (s : State) :
    exec (.profileRead dt c p) s = execProfileRead dt c p s := rfl
@[simp] theorem exec_profileStatus (dt : Ticks) (c : Call) (p : Bytes) (s : State) :
    exec (.profileStatus dt c p) s = execProfileStatus dt c p s := rfl
@[simp] theorem exec_readExternal (dt : Ticks) (c : Call) (p : Bytes) (s : State) :
    exec (.readExternal dt c p) s = execReadExternal dt c p s := rfl
@[simp] theorem exec_regArchive (dt : Ticks) (c : Call) (p : Bytes) (s : State) :
    exec (.regArchive dt c p) s = execRegArchive dt c p s := rfl
@[simp] theorem exec_getTime (dt : Ticks) (c : Call) (p : Bytes) (s : State) :
    exec (.getTime dt c p) s = execGetTime dt c p s := rfl
@[simp] theorem exec_setTime (dt : Ticks) (c : Call) (p : Bytes) (s : State) :
    exec (.setTime dt c p) s = execSetTime dt c p s := rfl
@[simp] theorem exec_discipline (dt : Ticks) (c : Call) (p : Bytes) (s : State) :
    exec (.discipline dt c p) s = execDiscipline dt c p s := rfl
@[simp] theorem exec_loadCalendar (dt : Ticks) (c : Call) (p : Bytes) (s : State) :
    exec (.loadCalendar dt c p) s = execLoadCalendar dt c p s := rfl
@[simp] theorem exec_readCalendar (dt : Ticks) (c : Call) (p : Bytes) (s : State) :
    exec (.readCalendar dt c p) s = execReadCalendar dt c p s := rfl
@[simp] theorem exec_tariffStatus (dt : Ticks) (c : Call) (p : Bytes) (s : State) :
    exec (.tariffStatus dt c p) s = execTariffStatus dt c p s := rfl
@[simp] theorem exec_setOwnerLock (dt : Ticks) (c : Call) (p : Bytes) (s : State) :
    exec (.setOwnerLock dt c p) s = execSetOwnerLock dt c p s := rfl
@[simp] theorem exec_ownerStatus (dt : Ticks) (c : Call) (p : Bytes) (s : State) :
    exec (.ownerStatus dt c p) s = execOwnerStatus dt c p s := rfl
@[simp] theorem exec_commSegments (dt : Ticks) (c : Call) (p : Bytes) (s : State) :
    exec (.commSegments dt c p) s = execCommSegments dt c p s := rfl
@[simp] theorem exec_commDigits (dt : Ticks) (c : Call) (p : Bytes) (s : State) :
    exec (.commDigits dt c p) s = execCommDigits dt c p s := rfl
@[simp] theorem exec_statusIcons (dt : Ticks) (c : Call) (p : Bytes) (s : State) :
    exec (.statusIcons dt c p) s = execStatusIcons dt c p s := rfl
@[simp] theorem exec_commCommit (dt : Ticks) (c : Call) (p : Bytes) (s : State) :
    exec (.commCommit dt c p) s = execCommCommit dt c p s := rfl
@[simp] theorem exec_displayStatus (dt : Ticks) (c : Call) (p : Bytes) (s : State) :
    exec (.displayStatus dt c p) s = execDisplayStatus dt c p s := rfl
@[simp] theorem exec_fabricStatus (dt : Ticks) (c : Call) (p : Bytes) (s : State) :
    exec (.fabricStatus dt c p) s = execFabricStatus dt c p s := rfl
@[simp] theorem exec_portStatus (dt : Ticks) (c : Call) (p : Bytes) (s : State) :
    exec (.portStatus dt c p) s = execPortStatus dt c p s := rfl
@[simp] theorem exec_portEnable (dt : Ticks) (c : Call) (p : Bytes) (s : State) :
    exec (.portEnable dt c p) s = execPortEnable dt c p s := rfl
@[simp] theorem exec_nodeList (dt : Ticks) (c : Call) (p : Bytes) (s : State) :
    exec (.nodeList dt c p) s = execNodeList dt c p s := rfl
@[simp] theorem exec_routeTable (dt : Ticks) (c : Call) (p : Bytes) (s : State) :
    exec (.routeTable dt c p) s = execRouteTable dt c p s := rfl
@[simp] theorem exec_installLinkKey (dt : Ticks) (c : Call) (p : Bytes) (s : State) :
    exec (.installLinkKey dt c p) s = execInstallLinkKey dt c p s := rfl
@[simp] theorem exec_tunnelSend (dt : Ticks) (c : Call) (p : Bytes) (s : State) :
    exec (.tunnelSend dt c p) s = execTunnelSend dt c p s := rfl
@[simp] theorem exec_updateStatus (dt : Ticks) (c : Call) (p : Bytes) (s : State) :
    exec (.updateStatus dt c p) s = execUpdateStatus dt c p s := rfl
@[simp] theorem exec_stageBegin (dt : Ticks) (c : Call) (p : Bytes) (s : State) :
    exec (.stageBegin dt c p) s = execStageBegin dt c p s := rfl
@[simp] theorem exec_stageData (dt : Ticks) (c : Call) (p : Bytes) (s : State) :
    exec (.stageData dt c p) s = execStageData dt c p s := rfl
@[simp] theorem exec_stageEnd (dt : Ticks) (c : Call) (p : Bytes) (s : State) :
    exec (.stageEnd dt c p) s = execStageEnd dt c p s := rfl
@[simp] theorem exec_stageAbort (dt : Ticks) (c : Call) (p : Bytes) (s : State) :
    exec (.stageAbort dt c p) s = execStageAbort dt c p s := rfl
@[simp] theorem exec_activate (dt : Ticks) (c : Call) (p : Bytes) (env : StartEnv) (s : State) :
    exec (.activate dt c p env) s = execActivate dt c p env s := rfl
@[simp] theorem exec_readManifest (dt : Ticks) (c : Call) (p : Bytes) (s : State) :
    exec (.readManifest dt c p) s = execReadManifest dt c p s := rfl
@[simp] theorem exec_attest (dt : Ticks) (c : Call) (p : Bytes) (s : State) :
    exec (.attest dt c p) s = execAttest dt c p s := rfl
@[simp] theorem exec_readCert (dt : Ticks) (c : Call) (p : Bytes) (s : State) :
    exec (.readCert dt c p) s = execReadCert dt c p s := rfl
@[simp] theorem exec_ctxOpen (dt : Ticks) (c : Call) (p : Bytes) (s : State) :
    exec (.ctxOpen dt c p) s = execCtxOpen dt c p s := rfl
@[simp] theorem exec_ctxUpdate (dt : Ticks) (c : Call) (p : Bytes) (s : State) :
    exec (.ctxUpdate dt c p) s = execCtxUpdate dt c p s := rfl
@[simp] theorem exec_ctxFinal (dt : Ticks) (c : Call) (p : Bytes) (s : State) :
    exec (.ctxFinal dt c p) s = execCtxFinal dt c p s := rfl
@[simp] theorem exec_ctxAbort (dt : Ticks) (c : Call) (p : Bytes) (s : State) :
    exec (.ctxAbort dt c p) s = execCtxAbort dt c p s := rfl
@[simp] theorem exec_sign (dt : Ticks) (c : Call) (p : Bytes) (s : State) :
    exec (.sign dt c p) s = execSign dt c p s := rfl
@[simp] theorem exec_verify (dt : Ticks) (c : Call) (p : Bytes) (s : State) :
    exec (.verify dt c p) s = execVerify dt c p s := rfl
@[simp] theorem exec_ecdh (dt : Ticks) (c : Call) (p : Bytes) (s : State) :
    exec (.ecdh dt c p) s = execEcdh dt c p s := rfl
@[simp] theorem exec_keygen (dt : Ticks) (c : Call) (p : Bytes) (s : State) :
    exec (.keygen dt c p) s = execKeygen dt c p s := rfl
@[simp] theorem exec_keyLoad (dt : Ticks) (c : Call) (p : Bytes) (s : State) :
    exec (.keyLoad dt c p) s = execKeyLoad dt c p s := rfl
@[simp] theorem exec_keyErase (dt : Ticks) (c : Call) (p : Bytes) (s : State) :
    exec (.keyErase dt c p) s = execKeyErase dt c p s := rfl
@[simp] theorem exec_random (dt : Ticks) (c : Call) (p : Bytes) (s : State) :
    exec (.random dt c p) s = execRandom dt c p s := rfl
@[simp] theorem exec_entropyStatus (dt : Ticks) (c : Call) (p : Bytes) (s : State) :
    exec (.entropyStatus dt c p) s = execEntropyStatus dt c p s := rfl
@[simp] theorem exec_captureStart (dt : Ticks) (c : Call) (p : Bytes) (s : State) :
    exec (.captureStart dt c p) s = execCaptureStart dt c p s := rfl
@[simp] theorem exec_captureStop (dt : Ticks) (c : Call) (p : Bytes) (s : State) :
    exec (.captureStop dt c p) s = execCaptureStop dt c p s := rfl
@[simp] theorem exec_separationTest (dt : Ticks) (c : Call) (p : Bytes) (s : State) :
    exec (.separationTest dt c p) s = execSeparationTest dt c p s := rfl
@[simp] theorem exec_diagCounters (dt : Ticks) (c : Call) (p : Bytes) (s : State) :
    exec (.diagCounters dt c p) s = execDiagCounters dt c p s := rfl
@[simp] theorem exec_mbusList (dt : Ticks) (c : Call) (p : Bytes) (s : State) :
    exec (.mbusList dt c p) s = execMbusList dt c p s := rfl
@[simp] theorem exec_mbusRead (dt : Ticks) (c : Call) (p : Bytes) (s : State) :
    exec (.mbusRead dt c p) s = execMbusRead dt c p s := rfl
@[simp] theorem exec_cryptoJobComplete (dt : Ticks) (ctx : Nat) (s : State) :
    exec (.cryptoJobComplete dt ctx) s = execCryptoJobComplete dt ctx s := rfl
@[simp] theorem exec_cryptoPreempt (dt : Ticks) (s : State) :
    exec (.cryptoPreempt dt) s = execCryptoPreempt dt s := rfl
@[simp] theorem exec_entropyHealthFail (dt : Ticks) (bits : List Bool) (s : State) :
    exec (.entropyHealthFail dt bits) s = execEntropyHealthFail dt bits s := rfl
@[simp] theorem exec_entropySourceRestart (dt : Ticks) (noise : BitVec 1024) (s : State) :
    exec (.entropySourceRestart dt noise) s = execEntropySourceRestart dt noise s := rfl
@[simp] theorem exec_drbgReseed (dt : Ticks) (s : State) :
    exec (.drbgReseed dt) s = execDrbgReseed dt s := rfl
@[simp] theorem exec_displayFrameBoundary (dt : Ticks) (dieTemp : Int) (s : State) :
    exec (.displayFrameBoundary dt dieTemp) s = execDisplayFrameBoundary dt dieTemp s := rfl
@[simp] theorem exec_legalImageWrite (dt : Ticks) (s : State) :
    exec (.legalImageWrite dt) s = execLegalImageWrite dt s := rfl
@[simp] theorem exec_legalStale (dt : Ticks) (s : State) :
    exec (.legalStale dt) s = execLegalStale dt s := rfl
@[simp] theorem exec_epdPhaseEnd (dt : Ticks) (rails : List RailSamples) (s : State) :
    exec (.epdPhaseEnd dt rails) s = execEpdPhaseEnd dt rails s := rfl
@[simp] theorem exec_epdUpdateEnd (dt : Ticks) (s : State) :
    exec (.epdUpdateEnd dt) s = execEpdUpdateEnd dt s := rfl
@[simp] theorem exec_readbackMismatch (dt : Ticks) (output : Nat) (measured : Int) (s : State) :
    exec (.readbackMismatch dt output measured) s = execReadbackMismatch dt output measured s := rfl
@[simp] theorem exec_legalErrorFlash (dt : Ticks) (s : State) :
    exec (.legalErrorFlash dt) s = execLegalErrorFlash dt s := rfl
@[simp] theorem exec_vlcdUpdate (dt : Ticks) (dieTemp : Int) (s : State) :
    exec (.vlcdUpdate dt dieTemp) s = execVlcdUpdate dt dieTemp s := rfl
@[simp] theorem exec_touchScan (dt : Ticks) (raws : List Nat) (s : State) :
    exec (.touchScan dt raws) s = execTouchScan dt raws s := rfl
@[simp] theorem exec_vbatMeasure (dt : Ticks) (mv : Nat) (s : State) :
    exec (.vbatMeasure dt mv) s = execVbatMeasure dt mv s := rfl
@[simp] theorem exec_vbusValid (dt : Ticks) (s : State) :
    exec (.vbusValid dt) s = execVbusValid dt s := rfl
@[simp] theorem exec_vbusInvalid (dt : Ticks) (s : State) :
    exec (.vbusInvalid dt) s = execVbusInvalid dt s := rfl
@[simp] theorem exec_optSignOn (dt : Ticks) (msg : Bytes) (s : State) :
    exec (.optSignOn dt msg) s = execOptSignOn dt msg s := rfl
@[simp] theorem exec_optOptionSelect (dt : Ticks) (msg : Bytes) (s : State) :
    exec (.optOptionSelect dt msg) s = execOptOptionSelect dt msg s := rfl
@[simp] theorem exec_optMessageTimeout (dt : Ticks) (s : State) :
    exec (.optMessageTimeout dt) s = execOptMessageTimeout dt s := rfl
@[simp] theorem exec_optRilfyIdleTimeout (dt : Ticks) (s : State) :
    exec (.optRilfyIdleTimeout dt) s = execOptRilfyIdleTimeout dt s := rfl
@[simp] theorem exec_mbusPollCycle (dt : Ticks) (s : State) :
    exec (.mbusPollCycle dt) s = execMbusPollCycle dt s := rfl
@[simp] theorem exec_mbusReply (dt : Ticks) (frame : Bytes) (s : State) :
    exec (.mbusReply dt frame) s = execMbusReply dt frame s := rfl
@[simp] theorem exec_mbusReplyTimeout (dt : Ticks) (s : State) :
    exec (.mbusReplyTimeout dt) s = execMbusReplyTimeout dt s := rfl
@[simp] theorem exec_quietEnd (dt : Ticks) (port : Nat) (s : State) :
    exec (.quietEnd dt port) s = execQuietEnd dt port s := rfl
@[simp] theorem exec_helloTimer (dt : Ticks) (port : Nat) (s : State) :
    exec (.helloTimer dt port) s = execHelloTimer dt port s := rfl
@[simp] theorem exec_helloReceive (dt : Ticks) (port : Nat) (frame : Bytes) (s : State) :
    exec (.helloReceive dt port frame) s = execHelloReceive dt port frame s := rfl
@[simp] theorem exec_linkSilenceTimeout (dt : Ticks) (port : Nat) (s : State) :
    exec (.linkSilenceTimeout dt port) s = execLinkSilenceTimeout dt port s := rfl
@[simp] theorem exec_sessionRenewal (dt : Ticks) (port : Nat) (s : State) :
    exec (.sessionRenewal dt port) s = execSessionRenewal dt port s := rfl
@[simp] theorem exec_sessionDeadline (dt : Ticks) (port : Nat) (s : State) :
    exec (.sessionDeadline dt port) s = execSessionDeadline dt port s := rfl
@[simp] theorem exec_lsaReceive (dt : Ticks) (port : Nat) (frame : Bytes) (s : State) :
    exec (.lsaReceive dt port frame) s = execLsaReceive dt port frame s := rfl
@[simp] theorem exec_lsaRefresh (dt : Ticks) (s : State) :
    exec (.lsaRefresh dt) s = execLsaRefresh dt s := rfl
@[simp] theorem exec_lsaAgeOut (dt : Ticks) (nodeId : Nat) (s : State) :
    exec (.lsaAgeOut dt nodeId) s = execLsaAgeOut dt nodeId s := rfl
@[simp] theorem exec_routeCompute (dt : Ticks) (s : State) :
    exec (.routeCompute dt) s = execRouteCompute dt s := rfl
@[simp] theorem exec_addressAssign (dt : Ticks) (s : State) :
    exec (.addressAssign dt) s = execAddressAssign dt s := rfl
@[simp] theorem exec_electionEvaluate (dt : Ticks) (s : State) :
    exec (.electionEvaluate dt) s = execElectionEvaluate dt s := rfl
@[simp] theorem exec_timeReqTimer (dt : Ticks) (port : Nat) (s : State) :
    exec (.timeReqTimer dt port) s = execTimeReqTimer dt port s := rfl
@[simp] theorem exec_timeReqReceive (dt : Ticks) (port : Nat) (frame : Bytes) (s : State) :
    exec (.timeReqReceive dt port frame) s = execTimeReqReceive dt port frame s := rfl
@[simp] theorem exec_timeRespSend (dt : Ticks) (port : Nat) (s : State) :
    exec (.timeRespSend dt port) s = execTimeRespSend dt port s := rfl
@[simp] theorem exec_timeRespReceive (dt : Ticks) (port : Nat) (frame : Bytes) (s : State) :
    exec (.timeRespReceive dt port frame) s = execTimeRespReceive dt port frame s := rfl
@[simp] theorem exec_fabricDisciplineSecond (dt : Ticks) (s : State) :
    exec (.fabricDisciplineSecond dt) s = execFabricDisciplineSecond dt s := rfl
@[simp] theorem exec_tunnelCmdReceive (dt : Ticks) (port : Nat) (frame : Bytes) (s : State) :
    exec (.tunnelCmdReceive dt port frame) s = execTunnelCmdReceive dt port frame s := rfl
@[simp] theorem exec_tunnelRespReceive (dt : Ticks) (port : Nat) (frame : Bytes) (s : State) :
    exec (.tunnelRespReceive dt port frame) s = execTunnelRespReceive dt port frame s := rfl
@[simp] theorem exec_tunnelBulkReceive (dt : Ticks) (port : Nat) (frame : Bytes) (s : State) :
    exec (.tunnelBulkReceive dt port frame) s = execTunnelBulkReceive dt port frame s := rfl
@[simp] theorem exec_tunnelPieceTimeout (dt : Ticks) (tunnel : Nat) (s : State) :
    exec (.tunnelPieceTimeout dt tunnel) s = execTunnelPieceTimeout dt tunnel s := rfl
@[simp] theorem exec_tunnelResponseTimeout (dt : Ticks) (tunnel : Nat) (s : State) :
    exec (.tunnelResponseTimeout dt tunnel) s = execTunnelResponseTimeout dt tunnel s := rfl
@[simp] theorem exec_distributionRepeat (dt : Ticks) (s : State) :
    exec (.distributionRepeat dt) s = execDistributionRepeat dt s := rfl
@[simp] theorem exec_readingReceive (dt : Ticks) (port : Nat) (frame : Bytes) (s : State) :
    exec (.readingReceive dt port frame) s = execReadingReceive dt port frame s := rfl
@[simp] theorem exec_readingAckReceive (dt : Ticks) (port : Nat) (frame : Bytes) (s : State) :
    exec (.readingAckReceive dt port frame) s = execReadingAckReceive dt port frame s := rfl
@[simp] theorem exec_readingResend (dt : Ticks) (rid : Nat) (s : State) :
    exec (.readingResend dt rid) s = execReadingResend dt rid s := rfl
@[simp] theorem exec_routedFrameForward (dt : Ticks) (port : Nat) (frame : Bytes) (s : State) :
    exec (.routedFrameForward dt port frame) s = execRoutedFrameForward dt port frame s := rfl
@[simp] theorem exec_frameReject (dt : Ticks) (port : Nat) (frame : Bytes) (s : State) :
    exec (.frameReject dt port frame) s = execFrameReject dt port frame s := rfl
@[simp] theorem exec_portTransmit (dt : Ticks) (port : Nat) (s : State) :
    exec (.portTransmit dt port) s = execPortTransmit dt port s := rfl
@[simp] theorem exec_dmaSubmit (dt : Ticks) (ch prio index : Nat) (descs : List Descriptor) (root : Nat) (tables : List (Nat × Word)) (s : State) :
    exec (.dmaSubmit dt ch prio index descs root tables) s = execDmaSubmit dt ch prio index descs root tables s := rfl
@[simp] theorem exec_dmaPageWalk (dt : Ticks) (ch : Nat) (failing : List Nat) (s : State) :
    exec (.dmaPageWalk dt ch failing) s = execDmaPageWalk dt ch failing s := rfl
@[simp] theorem exec_dmaPreempt (dt : Ticks) (ch granules : Nat) (s : State) :
    exec (.dmaPreempt dt ch granules) s = execDmaPreempt dt ch granules s := rfl
@[simp] theorem exec_dmaResume (dt : Ticks) (ch : Nat) (s : State) :
    exec (.dmaResume dt ch) s = execDmaResume dt ch s := rfl
@[simp] theorem exec_dmaAbort (dt : Ticks) (ch : Nat) (s : State) :
    exec (.dmaAbort dt ch) s = execDmaAbort dt ch s := rfl
@[simp] theorem exec_dmaChannelDisable (dt : Ticks) (ch granules : Nat) (s : State) :
    exec (.dmaChannelDisable dt ch granules) s = execDmaChannelDisable dt ch granules s := rfl
@[simp] theorem exec_dmaTransferEnd (dt : Ticks) (ch : Nat) (failing : List Nat) (s : State) :
    exec (.dmaTransferEnd dt ch failing) s = execDmaTransferEnd dt ch failing s := rfl
@[simp] theorem exec_iommuInvalidate (dt : Ticks) (page : Option Nat) (tables : List (Nat × Word)) (s : State) :
    exec (.iommuInvalidate dt page tables) s = execIommuInvalidate dt page tables s := rfl
@[simp] theorem exec_guardWindowRevoke (dt : Ticks) (window : Nat) (s : State) :
    exec (.guardWindowRevoke dt window) s = execGuardWindowRevoke dt window s := rfl
@[simp] theorem exec_guardWindowRelease (dt : Ticks) (s : State) :
    exec (.guardWindowRelease dt) s = execGuardWindowRelease dt s := rfl
@[simp] theorem exec_mramScrub (dt : Ticks) (finding : ScrubFinding) (s : State) :
    exec (.mramScrub dt finding) s = execMramScrub dt finding s := rfl
@[simp] theorem exec_sramScrubLine (dt : Ticks) (line : Nat) (finding : LineFinding) (s : State) :
    exec (.sramScrubLine dt line finding) s = execSramScrubLine dt line finding s := rfl
@[simp] theorem exec_flashEraseComplete (dt : Ticks) (sector : Nat) (good : Bool) (s : State) :
    exec (.flashEraseComplete dt sector good) s = execFlashEraseComplete dt sector good s := rfl
@[simp] theorem exec_flashProgramComplete (dt : Ticks) (s : State) :
    exec (.flashProgramComplete dt) s = execFlashProgramComplete dt s := rfl
@[simp] theorem exec_archiveHeadCommit (dt : Ticks) (s : State) :
    exec (.archiveHeadCommit dt) s = execArchiveHeadCommit dt s := rfl
@[simp] theorem exec_captureRecord (dt : Ticks) (pch : Nat) (s : State) :
    exec (.captureRecord dt pch) s = execCaptureRecord dt pch s := rfl
@[simp] theorem exec_nonlegalActivationTimeout (dt : Ticks) (env : StartEnv) (s : State) :
    exec (.nonlegalActivationTimeout dt env) s = execNonlegalActivationTimeout dt env s := rfl
@[simp] theorem exec_legalActivationTimeout (dt : Ticks) (env : StartEnv) (s : State) :
    exec (.legalActivationTimeout dt env) s = execLegalActivationTimeout dt env s := rfl
@[simp] theorem exec_trialConfirm (dt : Ticks) (component : Nat) (s : State) :
    exec (.trialConfirm dt component) s = execTrialConfirm dt component s := rfl
@[simp] theorem exec_trialWatchdogExpiry (dt : Ticks) (component : Nat) (env : StartEnv) (s : State) :
    exec (.trialWatchdogExpiry dt component env) s = execTrialWatchdogExpiry dt component env s := rfl
@[simp] theorem exec_mainPowerReturn (dt : Ticks) (s : State) :
    exec (.mainPowerReturn dt) s = execMainPowerReturn dt s := rfl
@[simp] theorem exec_keyRelease (dt : Ticks) (key : Nat) (s : State) :
    exec (.keyRelease dt key) s = execKeyRelease dt key s := rfl
@[simp] theorem exec_dspClockRelockTry (dt : Ticks) (locked : Bool) (s : State) :
    exec (.dspClockRelockTry dt locked) s = execDspClockRelockTry dt locked s := rfl
@[simp] theorem exec_registerListScreenEnd (dt : Ticks) (s : State) :
    exec (.registerListScreenEnd dt) s = execRegisterListScreenEnd dt s := rfl
@[simp] theorem exec_screenHalfSwitch (dt : Ticks) (s : State) :
    exec (.screenHalfSwitch dt) s = execScreenHalfSwitch dt s := rfl
@[simp] theorem exec_optReadoutEnd (dt : Ticks) (s : State) :
    exec (.optReadoutEnd dt) s = execOptReadoutEnd dt s := rfl
@[simp] theorem exec_ringStatusWrite (dt : Ticks) (ring : Nat) (value : Word) (s : State) :
    exec (.ringStatusWrite dt ring value) s = execRingStatusWrite dt ring value s := rfl
@[simp] theorem exec_activateResponseDiscard (dt : Ticks) (s : State) :
    exec (.activateResponseDiscard dt) s = execActivateResponseDiscard dt s := rfl

end Sys2Proof.Machine
end

