-- ==== Sys2Proof/Laws/Frames.lean ====
section
/-! SUPPORT. Byte strings and link frames: what a frame's fields read, and that a frame sealed under a
session opens again (R387 to R391). -/

namespace Sys2Proof.Machine

/-! ### Lengths -/

theorem length_leBytes (k : Nat) : ∀ n, (leBytes k n).length = k := by
  induction k with
  | zero => intro n; rfl
  | succ k ih => intro n; simp [leBytes, ih]

theorem length_beBytes (k n : Nat) : (beBytes k n).length = k := by simp [beBytes, length_leBytes]

theorem length_zeros (n : Nat) : (zeros n).length = n := by simp [zeros]

theorem length_xorBytes (a b : Bytes) : (xorBytes a b).length = min a.length b.length := by simp [xorBytes]

theorem length_aesShift (b : Bytes) : (aesShift b).length = 16 := by simp [aesShift, upTo]

theorem leNat_leBytes (k : Nat) : ∀ n, n < 256 ^ k → leNat (leBytes k n) = n := by
  induction k with
  | zero => intro n h; simp at h; simp [leBytes, leNat, h]
  | succ k ih =>
    intro n h
    have : n / 256 < 256 ^ k := by rw [Nat.div_lt_iff_lt_mul (by omega)]; simpa [pow_succ] using h
    simp only [leBytes, leNat, ih _ this, byte, BitVec.toNat_ofNat]
    omega

/-- Round keys under which a block is a block: at least two, 16 bytes each. -/
def roundKeysOk (ks : List Bytes) : Bool := decide (2 ≤ ks.length) && ks.all (fun k => k.length == 16)

theorem length_aesRounds : ∀ (ks : List Bytes) (b : Bytes), ks ≠ [] → (∀ k ∈ ks, k.length = 16) →
    (aesRounds ks b).length = 16
  | [k], b, _, h => by simp [aesRounds, length_xorBytes, length_aesShift, h k (by simp)]
  | k :: l :: ks, b, _, h => by
    rw [aesRounds]
    · exact length_aesRounds (l :: ks) _ (by simp) (fun x hx => h x (List.mem_cons_of_mem _ hx))
    · simp

theorem length_aesBlock (key b : Bytes) (h : roundKeysOk (aesKeys key) = true) : (aesBlock key b).length = 16 := by
  unfold aesBlock
  match e : aesKeys key with
  | [] => simp [roundKeysOk, e] at h
  | [k] => simp [roundKeysOk, e] at h
  | k :: l :: ks =>
    simp [roundKeysOk, e] at h
    exact length_aesRounds _ _ (by simp) (fun x hx => by
      rcases List.mem_cons.1 hx with rfl | hx
      · exact h.2.1
      · exact h.2.2 x hx)

theorem length_ctrStream (key iv : Bytes) (h : roundKeysOk (aesKeys key) = true) : ∀ n c,
    (ctrStream key iv n c).length = 16 * n
  | 0, _ => rfl
  | n + 1, c => by simp [ctrStream, length_aesBlock key _ h, length_ctrStream key iv h n]; omega

theorem length_gcmTag (key iv aad text : Bytes) (h : roundKeysOk (aesKeys key) = true) :
    (gcmTag key iv aad text).length = 16 := by
  simp [gcmTag, length_xorBytes, length_beBytes, length_ctrStream key iv h]

theorem length_gcmCrypt (key iv text : Bytes) (h : roundKeysOk (aesKeys key) = true) :
    (gcmCrypt key iv text).length = text.length := by
  simp [gcmCrypt, length_xorBytes, length_ctrStream key iv h]; omega

/-! ### Opening what was sealed -/

theorem xorBytes_twice : ∀ (a b : Bytes), a.length ≤ b.length → xorBytes (xorBytes a b) b = a
  | [], _, _ => by simp [xorBytes]
  | x :: a, [], h => by simp at h
  | x :: a, y :: b, h => by
    have := xorBytes_twice a b (by simpa using h)
    simp only [xorBytes, List.zipWith_cons_cons] at this ⊢
    rw [this]; simp

theorem gcmCrypt_twice (key iv text : Bytes) (h : roundKeysOk (aesKeys key) = true) :
    gcmCrypt key iv (gcmCrypt key iv text) = text := by
  change xorBytes (gcmCrypt key iv text) (ctrStream key iv (((gcmCrypt key iv text).length + 15) / 16) 2) = text
  rw [length_gcmCrypt key iv text h]
  exact xorBytes_twice _ _ (by rw [length_ctrStream key iv h]; omega)

/-! ### Fields of joined byte strings -/

theorem slice_append_left (a b : Bytes) (o n : Nat) (h : o + n ≤ a.length) : slice (a ++ b) o n = slice a o n := by
  unfold slice
  rw [List.drop_append_of_le_length (by omega), List.take_append_of_le_length (by simp; omega)]

theorem field_append_left (a b : Bytes) (o n : Nat) (h : o + n ≤ a.length) : field (a ++ b) o n = field a o n := by
  simp [field, slice_append_left a b o n h]

theorem slice_append_middle (a b c : Bytes) : slice (a ++ b ++ c) a.length b.length = b := by
  simp [slice]

/-! ### Frames -/

/-- The frame that `body` and its tag make, with its CRC. -/
theorem frame_parts (h c t : Bytes) (hh : h.length = 16) (ht : t.length = 16) (hc : c.length ≤ 1024)
    (hl : field h 8 2 = c.length) (b : Bytes) (e : b = h ++ c ++ t ++ leBytes 4 (crc32 (h ++ c ++ t))) :
    frameWhole b = true ∧ b.take 16 = h ∧ framePayload b = c ∧ slice b (b.length - 20) 16 = t ∧
      b.take 16 ++ framePayload b = h ++ c := by
  have hb : b.length = 36 + c.length := by rw [e]; simp [hh, ht, length_leBytes]; omega
  have p1 : b.take 16 = h := by rw [e]; simp [List.append_assoc, ← hh]
  have p2 : framePayload b = c := by
    unfold framePayload
    rw [hb, show 36 + c.length - 36 = c.length by omega, e, List.append_assoc (h ++ c), ← hh]
    exact slice_append_middle h c _
  have p3 : slice b (b.length - 20) 16 = t := by
    have := slice_append_middle (h ++ c) t (leBytes 4 (crc32 (h ++ c ++ t)))
    rw [hb, show 36 + c.length - 20 = (h ++ c).length by simp [hh]; omega, e, ← ht]
    exact this
  have crc : crc32 (h ++ c ++ t) < 256 ^ 4 := by unfold crc32; exact BitVec.isLt _
  refine ⟨?_, p1, p2, p3, by rw [p1, p2]⟩
  have f : field b 8 2 = c.length := by
    rw [e, List.append_assoc, List.append_assoc, field_append_left _ _ _ _ (by omega), hl]
  have q1 : b.take (b.length - 4) = h ++ c ++ t := by
    rw [hb, e]; exact List.take_left' (by simp [hh, ht]; omega)
  have q2 : b.drop (b.length - 4) = leBytes 4 (crc32 (h ++ c ++ t)) := by
    rw [hb, e]; exact List.drop_left' (by simp [hh, ht]; omega)
  unfold frameWhole
  rw [q1, q2, leNat_leBytes _ _ crc, f, hb]
  simp; omega

/-- A frame sealed under a session opens again under it. -/
theorem openSession_sessionFrame (key h t : Bytes) (lower : Bool) (next x : Nat)
    (hk : roundKeysOk (aesKeys key) = true) (hh : h.length = 16) (hc : t.length ≤ 1024)
    (hl : field h 8 2 = t.length) (hx : extendSeq next (field h 6 2) = some x) :
    openSession key lower next (sessionFrame key (sessionIv lower x) h t) = some t := by
  have lc := length_gcmCrypt key (sessionIv lower x) t hk
  obtain ⟨_, p1, p2, p3, _⟩ := frame_parts h (gcmCrypt key (sessionIv lower x) t)
    (gcmTag key (sessionIv lower x) h (gcmCrypt key (sessionIv lower x) t)) hh (length_gcmTag _ _ _ _ hk)
    (by omega) (by omega) (sessionFrame key (sessionIv lower x) h t) rfl
  have fl : frameLseq (sessionFrame key (sessionIv lower x) h t) = field h 6 2 := by
    unfold frameLseq sessionFrame
    rw [List.append_assoc, List.append_assoc, field_append_left _ _ _ _ (by omega)]
  unfold openSession
  rw [fl, hx]
  simp only [p1, p2, p3, if_true, gcmCrypt_twice _ _ _ hk]

/-- The header fields of a frame are those of its header. -/
theorem sessionFrame_field (key iv h t : Bytes) (o n : Nat) (hh : h.length = 16) (ho : o + n ≤ 16) :
    field (sessionFrame key iv h t) o n = field h o n := by
  unfold sessionFrame
  rw [List.append_assoc, List.append_assoc, field_append_left _ _ _ _ (by omega)]

theorem sessionFrame_slice (key iv h t : Bytes) (o n : Nat) (hh : h.length = 16) (ho : o + n ≤ 16) :
    slice (sessionFrame key iv h t) o n = slice h o n := by
  unfold sessionFrame
  rw [List.append_assoc, List.append_assoc, slice_append_left _ _ _ _ (by omega)]

theorem sessionFrame_whole (key iv h t : Bytes) (hk : roundKeysOk (aesKeys key) = true) (hh : h.length = 16)
    (hc : t.length ≤ 1024) (hl : field h 8 2 = t.length) : frameWhole (sessionFrame key iv h t) = true := by
  have lc := length_gcmCrypt key iv t hk
  exact (frame_parts h (gcmCrypt key iv t) (gcmTag key iv h (gcmCrypt key iv t)) hh (length_gcmTag _ _ _ _ hk)
    (by omega) (by omega) _ rfl).1

/-- A handshake HELLO's parts. -/
theorem handshakeFrame_parts (key h p : Bytes) (hk : roundKeysOk (aesKeys key) = true) (hh : h.length = 16)
    (hc : p.length ≤ 1024) (hl : field h 8 2 = p.length) :
    frameWhole (handshakeFrame key h p) = true ∧ framePayload (handshakeFrame key h p) = p ∧
      slice (handshakeFrame key h p) ((handshakeFrame key h p).length - 20) 16 =
        gcmTag key (slice p 8 12) (h ++ p) [] ∧ (handshakeFrame key h p).take 16 = h := by
  obtain ⟨a, b, c, d, _⟩ := frame_parts h p (gcmTag key (slice p 8 12) (h ++ p) []) hh (length_gcmTag _ _ _ _ hk) hc
    hl (handshakeFrame key h p) rfl
  exact ⟨a, c, d, b⟩

theorem handshakeFrame_field (key h p : Bytes) (o n : Nat) (hh : h.length = 16) (ho : o + n ≤ 16) :
    field (handshakeFrame key h p) o n = field h o n := by
  unfold handshakeFrame
  simp only [List.append_assoc]
  rw [field_append_left _ _ _ _ (by omega)]

theorem handshakeFrame_slice (key h p : Bytes) (o n : Nat) (hh : h.length = 16) (ho : o + n ≤ 16) :
    slice (handshakeFrame key h p) o n = slice h o n := by
  unfold handshakeFrame
  simp only [List.append_assoc]
  rw [slice_append_left _ _ _ _ (by omega)]

end Sys2Proof.Machine
end

