-- ==== Sys2Proof/Laws/Memory.lean ====
section
/-! SUPPORT. The laws of the memory list: every operation keeps the canonical form, a read after a write
gives the byte written, and a write leaves every other address alone. -/

namespace Sys2Proof.Machine

/-- An address that lies above the bound of a list. -/
def aboveBound : Option Nat → Nat → Prop
  | none, _ => True
  | some l, a => l < a

theorem Memory.wfAbove_cons (lo : Option Nat) (c : Host.Cell) (cs : Memory) :
    Memory.wfAbove lo (c :: cs) = true ↔
      aboveBound lo c.1 ∧ c.2 ≠ emptyByte c.1 ∧ Memory.wfAbove (some c.1) cs = true := by
  cases lo <;> simp [Memory.wfAbove, aboveBound, and_assoc]

theorem Memory.wfAbove_weaken {lo lo' : Option Nat} {m : Memory}
    (h : ∀ a, aboveBound lo' a → aboveBound lo a) (w : Memory.wfAbove lo' m = true) :
    Memory.wfAbove lo m = true := by
  cases m with
  | nil => rfl
  | cons c cs => rw [wfAbove_cons] at w ⊢; exact ⟨h _ w.1, w.2⟩

theorem Memory.wfAbove_write {lo : Option Nat} {a : Nat} (b : Byte) (h : aboveBound lo a) :
    ∀ {m : Memory}, Memory.wfAbove lo m = true → Memory.wfAbove lo (m.write a b) = true := by
  intro m w
  induction m generalizing lo with
  | nil =>
    unfold Memory.write
    split
    · rfl
    · next hb => rw [wfAbove_cons]; exact ⟨h, hb, rfl⟩
  | cons c cs ih =>
    rw [wfAbove_cons] at w
    unfold Memory.write
    split
    · next hc => rw [wfAbove_cons]; exact ⟨w.1, w.2.1, ih (lo := some c.1) hc w.2.2⟩
    · split
      · next hc =>
        subst hc
        split
        · refine Memory.wfAbove_weaken ?_ w.2.2
          intro x hx
          cases lo with
          | none => trivial
          | some l => exact Nat.lt_trans w.1 hx
        · next hb => rw [wfAbove_cons]; exact ⟨h, hb, w.2.2⟩
      · next h1 h2 =>
        split
        · rw [wfAbove_cons]; exact w
        · next hb =>
          rw [wfAbove_cons]
          refine ⟨h, hb, ?_⟩
          rw [wfAbove_cons]
          exact ⟨Nat.lt_of_le_of_ne (Nat.le_of_not_lt h1) (Ne.symm h2), w.2⟩

/-- Writing a byte keeps the canonical form. -/
theorem Memory.wf_write {m : Memory} (a : Nat) (b : Byte) (w : m.wf = true) : (m.write a b).wf = true :=
  Memory.wfAbove_write (lo := none) b trivial w

/-- Writing a string of bytes keeps it. -/
theorem Memory.wf_writeBytes (bs : Bytes) : ∀ {m : Memory} (a : Nat), m.wf = true →
    (Memory.writeBytes m a bs).wf = true := by
  induction bs with
  | nil => intro m a w; exact w
  | cons b bs ih => intro m a w; exact ih (a + 1) (Memory.wf_write a b w)

theorem Memory.wfAbove_filter (p : Host.Cell → Bool) :
    ∀ {m : Memory} {lo : Option Nat}, Memory.wfAbove lo m = true → Memory.wfAbove lo (m.filter p) = true := by
  intro m
  induction m with
  | nil => intro lo w; exact w
  | cons c cs ih =>
    intro lo w
    rw [wfAbove_cons] at w
    rw [List.filter_cons]
    split
    · rw [wfAbove_cons]; exact ⟨w.1, w.2.1, ih w.2.2⟩
    · refine ih (Memory.wfAbove_weaken ?_ w.2.2)
      intro x hx
      cases lo with
      | none => trivial
      | some l => exact Nat.lt_trans w.1 hx

/-- Dropping cells keeps it. -/
theorem Memory.wf_filter {m : Memory} (p : Host.Cell → Bool) (w : m.wf = true) :
    Memory.wf (m.filter p) = true := Memory.wfAbove_filter p w

/-- Clearing a range keeps it. -/
theorem Memory.wf_clear {m : Memory} (a n : Nat) (w : m.wf = true) : (m.clear a n).wf = true :=
  Memory.wf_filter _ w

theorem Memory.read_above {lo a : Nat} (h : a ≤ lo) :
    ∀ {m : Memory}, Memory.wfAbove (some lo) m = true → m.read a = emptyByte a := by
  intro m
  induction m generalizing lo with
  | nil => intro _; rfl
  | cons c cs ih =>
    intro w
    rw [wfAbove_cons] at w
    have hc : lo < c.1 := w.1
    unfold Memory.read
    rw [if_neg (by omega)]
    exact ih (lo := c.1) (by omega) w.2.2

/-- A read of the address written gives the byte written. -/
theorem Memory.read_write_same {m : Memory} (a : Nat) (b : Byte) :
    ∀ {lo : Option Nat}, Memory.wfAbove lo m = true → (m.write a b).read a = b := by
  induction m with
  | nil =>
    intro lo _
    unfold Memory.write
    split
    · next h => exact h.symm
    · simp [Memory.read]
  | cons c cs ih =>
    intro lo w
    rw [wfAbove_cons] at w
    unfold Memory.write
    split
    · next h =>
      unfold Memory.read
      rw [if_neg (by omega)]
      exact ih w.2.2
    · split
      · next h =>
        split
        · next hb =>
          rw [Memory.read_above (lo := c.1) (Nat.le_of_eq h.symm) w.2.2, hb]
        · simp [Memory.read]
      · next h1 h2 =>
        split
        · next hb =>
          unfold Memory.read
          rw [if_neg h2, Memory.read_above (lo := c.1) (Nat.le_of_not_lt h1) w.2.2, hb]
        · simp [Memory.read]

/-- A write leaves every other address alone. -/
theorem Memory.read_write_other {m : Memory} {a x : Nat} (b : Byte) (h : x ≠ a) :
    (m.write a b).read x = m.read x := by
  induction m with
  | nil =>
    unfold Memory.write
    split
    · rfl
    · simp [Memory.read, Ne.symm h]
  | cons c cs ih =>
    unfold Memory.write
    split
    · unfold Memory.read; rw [ih]
    · split
      · next hc =>
        split
        · conv_rhs => unfold Memory.read
          rw [if_neg (by omega)]
        · conv_lhs => unfold Memory.read
          conv_rhs => unfold Memory.read
          rw [if_neg (Ne.symm h), if_neg (by omega)]
      · split
        · rfl
        · conv_lhs => unfold Memory.read
          rw [if_neg (Ne.symm h)]

/-- A string of bytes written leaves every address outside it alone. -/
theorem Memory.read_writeBytes_other (bs : Bytes) : ∀ {m : Memory} {a x : Nat},
    (x < a ∨ a + bs.length ≤ x) → (Memory.writeBytes m a bs).read x = m.read x := by
  induction bs with
  | nil => intro m a x _; rfl
  | cons b bs ih =>
    intro m a x h
    simp only [List.length_cons] at h
    unfold Memory.writeBytes
    rw [ih (by omega), Memory.read_write_other b (by omega)]

/-- A read inside the string written gives the byte at that place. -/
theorem Memory.read_writeBytes (bs : Bytes) : ∀ {m : Memory} {a i : Nat}, m.wf = true → (h : i < bs.length) →
    (Memory.writeBytes m a bs).read (a + i) = bs[i] := by
  induction bs with
  | nil => intro m a i _ h; simp at h
  | cons b bs ih =>
    intro m a i w h
    unfold Memory.writeBytes
    cases i with
    | zero =>
      rw [Memory.read_writeBytes_other bs (by omega)]
      exact Memory.read_write_same a b w
    | succ i =>
      have := ih (m := m.write a b) (a := a + 1) (i := i) (Memory.wf_write a b w) (by simpa using h)
      rw [show a + (i + 1) = a + 1 + i by omega, this]
      rfl

/-- The whole string reads back. -/
theorem Memory.readBytes_writeBytes (bs : Bytes) {m : Memory} (a : Nat) (w : m.wf = true) :
    (Memory.writeBytes m a bs).readBytes a bs.length = bs := by
  unfold Memory.readBytes upTo
  apply List.ext_getElem
  · simp
  · intro i h1 h2
    simp only [List.getElem_map, List.getElem_range]
    exact Memory.read_writeBytes bs w h2

end Sys2Proof.Machine
end

