-- ==== Sys2Proof/Laws/Invariant.lean ====
section
/-! SUPPORT. The invariant `State.Inv` and the named updates of the state: what each needs to keep it. -/

namespace Sys2Proof.Machine

variable {s : State}

/-- A state that differs only where the invariant does not look. -/
theorem State.Inv.congr {t : State} (h : s.Inv) (m : t.mem = s.mem) (l : t.legal = s.legal) (a : t.aon = s.aon)
    (g : t.gate = s.gate) (c : t.channels = s.channels) (k : t.counters = s.counters)
    (p : t.points = s.points) (r : t.hawk = s.hawk) (f : t.fabric = s.fabric) (b : t.boot = s.boot) :
    t.Inv := by
  constructor
  · rw [m]; exact h.mem
  · rw [l]; exact h.logs
  · rw [a]; exact h.aon
  · rw [g]; exact h.gate
  · rw [c]; exact h.channels
  · rw [k]; exact h.counters
  · rw [p]; exact h.points
  · rw [r]; exact h.rings
  · rw [f]; exact h.ports
  · rw [b]; exact h.components

theorem inv_ite {c : Prop} [Decidable c] {a b : State} (ha : a.Inv) (hb : b.Inv) : (if c then a else b).Inv := by
  split <;> assumption

theorem inv_foldl {α : Type} {f : State → α → State} (hf : ∀ s x, s.Inv → (f s x).Inv) (l : List α)
    (h : s.Inv) : (l.foldl f s).Inv := by
  induction l generalizing s with
  | nil => exact h
  | cons x l ih => exact ih (hf s x h)

theorem inv_foldl_fst {α β : Type} {f : State × β → α → State × β}
    (hf : ∀ y x, y.1.Inv → (f y x).1.Inv) (l : List α) {y : State × β} (h : y.1.Inv) :
    (l.foldl f y).1.Inv := by
  induction l generalizing y with
  | nil => exact h
  | cons x l ih => exact ih (hf y x h)

theorem wf_foldl {α : Type} {m : MemSys} {f : MemSys → α → MemSys}
    (hf : ∀ m x, Memory.wf m.cells = true → Memory.wf (f m x).cells = true) (l : List α)
    (h : Memory.wf m.cells = true) : Memory.wf (l.foldl f m).cells = true := by
  induction l generalizing m with
  | nil => exact h
  | cons x l ih => exact ih (hf m x h)

theorem wf_foldl_fst {α β : Type} {f : MemSys × β → α → MemSys × β}
    (hf : ∀ y x, Memory.wf y.1.cells = true → Memory.wf (f y x).1.cells = true) (l : List α) {y : MemSys × β}
    (h : Memory.wf y.1.cells = true) : Memory.wf (l.foldl f y).1.cells = true := by
  induction l generalizing y with
  | nil => exact h
  | cons x l ih => exact ih (hf y x h)

theorem Legal.Bounded.congr {l k : Legal} (h : l.Bounded) (e : k.eventLog = l.eventLog) (q : k.elseqWords = l.elseqWords)
    (u : k.sealLog = l.sealLog) (m : k.missed = l.missed) : k.Bounded :=
  ⟨e ▸ h.events, q ▸ h.elseq, u ▸ h.seals, m ▸ h.missed⟩

theorem AlwaysOn.Bounded.congr {a b : AlwaysOn} (h : a.Bounded) (e : b.buffer = a.buffer) (q : b.rtcSec = a.rtcSec)
    (u : b.rtcFrac = a.rtcFrac) (m : b.trim = a.trim) : b.Bounded :=
  ⟨e ▸ h.buffer, q ▸ h.sec, u ▸ h.frac, m ▸ h.trim⟩

theorem Gate.Bounded.congr {a b : Gate} (h : a.Bounded) (e : b.nextGseq = a.nextGseq) : b.Bounded := by
  unfold Gate.Bounded
  rw [e]
  exact h

/-- The GSEQ after any other is a 32-bit number and not 0. -/
theorem nextSeq_bounded (n : Nat) : 0 < nextSeq n ∧ nextSeq n < 4294967296 := by
  unfold nextSeq
  split <;> omega

/-- Numbering a list keeps its length. -/
theorem length_numbered {α : Type} (l : List α) : (numbered l).length = l.length := by
  simp [numbered, upTo]

/-! ### The named updates -/

theorem inv_modChannel (i : Nat) (f : Channel → Channel) (h : s.Inv) : (s.modChannel i f).Inv :=
  ⟨h.mem, h.logs, h.aon, h.gate, (List.length_modify ..).trans h.channels, h.counters, h.points,
   h.rings, h.ports, h.components⟩

theorem inv_modCounter (i : Nat) (f : Counter → Counter) (h : s.Inv) : (s.modCounter i f).Inv :=
  ⟨h.mem, h.logs, h.aon, h.gate, h.channels, (List.length_modify ..).trans h.counters, h.points,
   h.rings, h.ports, h.components⟩

theorem inv_modPoint (i : Nat) (f : MeterPoint → MeterPoint) (h : s.Inv) : (s.modPoint i f).Inv :=
  ⟨h.mem, h.logs, h.aon, h.gate, h.channels, h.counters, (List.length_modify ..).trans h.points,
   h.rings, h.ports, h.components⟩

theorem inv_modWeigh (i : Nat) (f : Weigh → Weigh) (h : s.Inv) : (s.modWeigh i f).Inv := inv_modPoint i _ h
theorem inv_modProv (i : Nat) (f : Prov → Prov) (h : s.Inv) : (s.modProv i f).Inv := inv_modPoint i _ h

theorem inv_modFabric {f : Fabric → Fabric} (hf : ∀ x : Fabric, x.ports.length = 3 → (f x).ports.length = 3)
    (h : s.Inv) : (s.modFabric f).Inv :=
  ⟨h.mem, h.logs, h.aon, h.gate, h.channels, h.counters, h.points, h.rings, hf _ h.ports, h.components⟩

theorem inv_modPort (i : Nat) (f : Port → Port) (h : s.Inv) : (s.modPort i f).Inv :=
  inv_modFabric (fun x hx => (List.length_modify ..).trans hx) h

theorem inv_modHawk {f : Hawk → Hawk} (hf : ∀ x : Hawk, x.rings.length = 4 → (f x).rings.length = 4)
    (h : s.Inv) : (s.modHawk f).Inv :=
  ⟨h.mem, h.logs, h.aon, h.gate, h.channels, h.counters, h.points, hf _ h.rings, h.ports, h.components⟩

theorem inv_modRing (i : Nat) (f : Ring → Ring) (h : s.Inv) : (s.modRing i f).Inv :=
  inv_modHawk (fun x hx => (List.length_modify ..).trans hx) h

theorem inv_modBoot {f : Boot → Boot} (hf : ∀ x : Boot, x.components.length = 4 → (f x).components.length = 4)
    (h : s.Inv) : (s.modBoot f).Inv :=
  ⟨h.mem, h.logs, h.aon, h.gate, h.channels, h.counters, h.points, h.rings, h.ports, hf _ h.components⟩

theorem inv_modComponent (i : Nat) (f : Component → Component) (h : s.Inv) : (s.modComponent i f).Inv :=
  inv_modBoot (fun x hx => (List.length_modify ..).trans hx) h

theorem inv_modLegal {f : Legal → Legal} (hf : ∀ x : Legal, x.Bounded → (f x).Bounded) (h : s.Inv) :
    (s.modLegal f).Inv :=
  ⟨h.mem, hf _ h.logs, h.aon, h.gate, h.channels, h.counters, h.points, h.rings, h.ports, h.components⟩

theorem inv_modAon {f : AlwaysOn → AlwaysOn} (hf : ∀ x : AlwaysOn, x.Bounded → (f x).Bounded) (h : s.Inv) :
    (s.modAon f).Inv :=
  ⟨h.mem, h.logs, hf _ h.aon, h.gate, h.channels, h.counters, h.points, h.rings, h.ports, h.components⟩

theorem inv_modMem {f : MemSys → MemSys}
    (hf : ∀ x : MemSys, Memory.wf x.cells = true → Memory.wf (f x).cells = true) (h : s.Inv) :
    (s.modMem f).Inv :=
  ⟨hf _ h.mem, h.logs, h.aon, h.gate, h.channels, h.counters, h.points, h.rings, h.ports, h.components⟩

theorem inv_modGate {f : Gate → Gate} (hf : ∀ x : Gate, x.Bounded → (f x).Bounded) (h : s.Inv) :
    (s.modGate f).Inv :=
  ⟨h.mem, h.logs, h.aon, hf _ h.gate, h.channels, h.counters, h.points, h.rings, h.ports, h.components⟩

theorem inv_modNtu (f : Ntu → Ntu) (h : s.Inv) : (s.modNtu f).Inv := h.congr rfl rfl rfl rfl rfl rfl rfl rfl rfl rfl
theorem inv_modDriver (k : Nat) (f : Driver → Driver) (h : s.Inv) : (s.modDriver k f).Inv :=
  h.congr rfl rfl rfl rfl rfl rfl rfl rfl rfl rfl
theorem inv_modMod (f : ModDomain → ModDomain) (h : s.Inv) : (s.modMod f).Inv :=
  h.congr rfl rfl rfl rfl rfl rfl rfl rfl rfl rfl
theorem inv_modFlash (f : Flash → Flash) (h : s.Inv) : (s.modFlash f).Inv :=
  h.congr rfl rfl rfl rfl rfl rfl rfl rfl rfl rfl
theorem inv_modCrypto (f : Crypto → Crypto) (h : s.Inv) : (s.modCrypto f).Inv :=
  h.congr rfl rfl rfl rfl rfl rfl rfl rfl rfl rfl
theorem inv_modDisplay (f : Display → Display) (h : s.Inv) : (s.modDisplay f).Inv :=
  h.congr rfl rfl rfl rfl rfl rfl rfl rfl rfl rfl
theorem inv_modPorts (f : Ports → Ports) (h : s.Inv) : (s.modPorts f).Inv :=
  h.congr rfl rfl rfl rfl rfl rfl rfl rfl rfl rfl
theorem inv_modSync (f : Sync → Sync) (h : s.Inv) : (s.modSync f).Inv :=
  h.congr rfl rfl rfl rfl rfl rfl rfl rfl rfl rfl
theorem inv_modUpdate (f : Update → Update) (h : s.Inv) : (s.modUpdate f).Inv :=
  h.congr rfl rfl rfl rfl rfl rfl rfl rfl rfl rfl
theorem inv_modSkim (f : Skim → Skim) (h : s.Inv) : (s.modSkim f).Inv :=
  h.congr rfl rfl rfl rfl rfl rfl rfl rfl rfl rfl
theorem inv_bump (i n : Nat) (h : s.Inv) : (s.bump i n).Inv := h.congr rfl rfl rfl rfl rfl rfl rfl rfl rfl rfl
theorem inv_emit (o : Out) (h : s.Inv) : (s.emit o).Inv := h.congr rfl rfl rfl rfl rfl rfl rfl rfl rfl rfl
theorem inv_drawFree (w : Nat) (h : s.Inv) : (s.drawFree w).2.Inv :=
  h.congr rfl rfl rfl rfl rfl rfl rfl rfl rfl rfl

/-! ### Time -/

/-- The always-on clock keeps the bounds of RTC_SEC and its fraction. -/
theorem AlwaysOn.Bounded.advance {a : AlwaysOn} (h : a.Bounded) (n : Nat) : (a.advance n).Bounded := by
  unfold AlwaysOn.advance
  split
  · exact ⟨h.buffer, Nat.mod_lt _ (by decide), Nat.mod_lt _ (by decide), h.trim⟩
  · exact h

theorem inv_elapse (dt : Ticks) (h : s.Inv) : (s.elapse dt).Inv :=
  ⟨h.mem, h.logs, h.aon.advance dt.aon, h.gate, h.channels, h.counters, h.points, h.rings, h.ports,
   h.components⟩

end Sys2Proof.Machine
end

