-- ==== Sys2Proof/Laws/Rotated.lean ====
section
/-! SUPPORT. Values rotated across a set of MRAM words (R355): what a read gives after a write, and what a bound on the
members says of a read. -/

namespace Sys2Proof.Machine

variable {α : Type}

/-- The fold of `Rotated.newest`. -/
theorem Rotated.newest_fold_le (l : List (Nat × Nat × α)) (b : Nat × α) :
    b.1 ≤ (l.foldl (fun b w => if b.1 ≤ w.2.1 then w.2 else b) b).1 ∧
      ∀ w ∈ l, w.2.1 ≤ (l.foldl (fun b w => if b.1 ≤ w.2.1 then w.2 else b) b).1 := by
  induction l generalizing b with
  | nil => simp
  | cons x l ih =>
    simp only [List.foldl_cons, List.mem_cons, forall_eq_or_imp]
    obtain ⟨h, k⟩ := ih (if b.1 ≤ x.2.1 then x.2 else b)
    by_cases hx : b.1 ≤ x.2.1
    · rw [if_pos hx] at h k ⊢
      exact ⟨by omega, h, k⟩
    · rw [if_neg hx] at h k ⊢
      exact ⟨h, by omega, k⟩

theorem Rotated.newest_fold_keep (l : List (Nat × Nat × α)) (b : Nat × α) (h : ∀ w ∈ l, w.2.1 < b.1) :
    l.foldl (fun b w => if b.1 ≤ w.2.1 then w.2 else b) b = b := by
  induction l with
  | nil => rfl
  | cons x l ih =>
    have hx := h x (List.mem_cons_self ..)
    rw [List.foldl_cons, if_neg (by omega)]
    exact ih (fun w hw => h w (List.mem_cons_of_mem _ hw))

/-- A reader takes what was written last. -/
@[simp] theorem Rotated.read_write (r : Rotated α) (n : Nat) (d a : α) : (r.write n d a).read d = a := by
  unfold Rotated.read Rotated.newest Rotated.write
  rw [List.foldl_cons, if_pos (Nat.zero_le _), newest_fold_keep]
  intro w hw
  exact Nat.lt_succ_of_le ((newest_fold_le r.words (0, d)).2 w (List.mem_of_mem_filter hw))

/-- What holds of every word, and of the value that stands where none was written, holds of what is read. -/
theorem Rotated.read_of_forall {p : α → Prop} {r : Rotated α} {d : α} (hd : p d) (h : ∀ w ∈ r.words, p w.2.2) :
    p (r.read d) := by
  unfold Rotated.read Rotated.newest
  suffices k : ∀ (l : List (Nat × Nat × α)) (b : Nat × α), p b.2 → (∀ w ∈ l, p w.2.2) →
      p (l.foldl (fun b w => if b.1 ≤ w.2.1 then w.2 else b) b).2 from k r.words (0, d) hd h
  intro l
  induction l with
  | nil => intro b hb _; exact hb
  | cons x l ih =>
    intro b hb hl
    rw [List.foldl_cons]
    refine ih _ ?_ (fun w hw => hl w (List.mem_cons_of_mem _ hw))
    split
    · exact hl x (List.mem_cons_self ..)
    · exact hb

theorem Rotated.write_forall {p : α → Prop} {r : Rotated α} {n : Nat} {d a : α} (ha : p a)
    (h : ∀ w ∈ r.words, p w.2.2) : ∀ w ∈ (r.write n d a).words, p w.2.2 := by
  intro w hw
  rcases List.mem_cons.1 hw with rfl | hw
  · exact ha
  · exact h w (List.mem_of_mem_filter hw)

@[simp] theorem Legal.elseq_putElseq (l : Legal) (n : Nat) : (l.putElseq n).elseq = n := Rotated.read_write ..
@[simp] theorem Legal.rseq_putRseq (l : Legal) (n : Nat) : (l.putRseq n).rseq = n := Rotated.read_write ..
@[simp] theorem Legal.aseq_putAseq (l : Legal) (n : Nat) : (l.putAseq n).aseq = n := Rotated.read_write ..

end Sys2Proof.Machine
end

