-- ==== Sys2Proof/Laws/InvOps.lean ====
section
/-! SUPPORT. Every operation of Machine/Ops.lean keeps the invariant. -/

namespace Sys2Proof.Machine

theorem wf_poison {m : MemSys} (a : ℕ) (h : Memory.wf m.cells = true) :
    Memory.wf (MemSys.poison m a).cells = true := by
  unfold MemSys.poison
  try dsimp only
  repeat' first
    | with_reducible assumption
    | split

theorem wf_writeChunk {m : MemSys} (c : Nat × Bytes) (h : Memory.wf m.cells = true) :
    Memory.wf (m.writeChunk c).cells = true := by
  unfold MemSys.writeChunk
  split
  · exact Memory.wf_writeBytes _ _ h
  · split
    · exact h
    · exact Memory.wf_writeBytes _ _ h

theorem wf_sramWrite {m : MemSys} (a : Nat) (bs : Bytes) (h : Memory.wf m.cells = true) :
    Memory.wf (m.sramWrite a bs).cells = true := by
  unfold MemSys.sramWrite
  generalize lineChunks bs.length a bs = l
  induction l generalizing m with
  | nil => exact h
  | cons c l ih => exact ih (wf_writeChunk c h)

/-- A reply moves no GSEQ. -/
theorem Gate.Bounded.reply {g : Gate} (h : g.Bounded) (r : GateReply) : (g.reply r).Bounded := by
  unfold Gate.reply
  split <;> exact h.congr rfl

/-- ELSEQ takes a number of 48 bits. -/
theorem Legal.Bounded.putElseq {l : Legal} (h : l.Bounded) {n : Nat} (hn : n ≤ 0xFFFFFFFFFFFF) :
    (l.putElseq n).Bounded :=
  ⟨h.events, Rotated.write_forall (p := (· ≤ 0xFFFFFFFFFFFF)) hn h.elseq, h.seals, h.missed⟩

theorem inv_tell {s : State} (u : Unsolicited) (h : s.Inv) :
    (State.tell s u).Inv := by
  unfold State.tell
  exact inv_ite (inv_modGate (fun _ hx => hx.reply _) h) h

theorem inv_logAt {s : State} (time : Nat) (rtc : Bool) (cls code origin mp : Nat) (data : Bytes) (h : s.Inv) :
    (s.logAt time rtc cls code origin mp data).Inv := by
  unfold State.logAt
  exact inv_tell _ (inv_modLegal (fun x hx => Legal.Bounded.putElseq
    (l := { x with eventLog := _ }) ⟨List.length_take_le _ _, hx.elseq, hx.seals, hx.missed⟩
    (Nat.min_le_right _ _)) h)

theorem inv_logEvent {s : State} (cls : ℕ) (code : ℕ) (mp : ℕ) (data : Bytes) (h : s.Inv) :
    (State.logEvent s cls code mp data).Inv := by
  unfold State.logEvent
  try dsimp only
  repeat' first
    | with_reducible assumption
    | with_reducible apply inv_logAt

theorem inv_sealLogAt {s : State} (time : Nat) (rtc : Bool) (cls code origin mp : Nat) (data : Bytes)
    (h : s.Inv) : (s.sealLogAt time rtc cls code origin mp data).Inv := by
  unfold State.sealLogAt
  dsimp only
  split
  · next hc =>
    have hl : s.legal.sealLog.length < 256 := by
      simp only [Bool.or_eq_true, Bool.and_eq_true, decide_eq_true_eq] at hc
      omega
    exact ⟨h.mem, ⟨h.logs.events, h.logs.elseq, hl, h.logs.missed⟩, h.aon, h.gate, h.channels, h.counters,
      h.points, h.rings, h.ports, h.components⟩
  · refine inv_modLegal (fun x hx => ⟨hx.events, hx.elseq, hx.seals, ?_⟩) h
    unfold satAdd
    exact Nat.min_le_left _ _

theorem inv_logBoth {s : State} (time : ℕ) (rtc : Bool) (cls : ℕ) (code : ℕ) (origin : ℕ) (mp : ℕ) (data : Bytes) (h : s.Inv) :
    (State.logBoth s time rtc cls code origin mp data).Inv := by
  unfold State.logBoth
  try dsimp only
  repeat' first
    | with_reducible assumption
    | with_reducible apply inv_logAt
    | with_reducible apply inv_sealLogAt

theorem inv_blocked {s : State} (row : ℕ) (h : s.Inv) :
    (State.blocked s row).Inv := by
  unfold State.blocked
  try dsimp only
  repeat' first
    | intro _
    | with_reducible assumption
    | with_reducible apply inv_logEvent
    | with_reducible apply inv_modLegal
    | (have hb := ‹Legal.Bounded _›; with_reducible exact hb.congr rfl rfl rfl rfl)

theorem inv_pushEntry {s : State} (n : ℕ) (entry : Bytes) (h : s.Inv) :
    (State.pushEntry s n entry).Inv := by
  unfold State.pushEntry
  try dsimp only
  repeat' first
    | intro _
    | with_reducible assumption
    | with_reducible apply inv_modMem
    | with_reducible apply inv_modRing
    | with_reducible apply wf_sramWrite

theorem inv_loseEvent {s : State} (h : s.Inv) :
    (State.loseEvent s).Inv := by
  unfold State.loseEvent
  try dsimp only
  repeat' first
    | intro _
    | with_reducible assumption
    | with_reducible apply inv_modHawk
    | with_reducible apply inv_modRing

theorem inv_postEvent {s : State} (code : ℕ) (payload : Bytes) (h : s.Inv) :
    (State.postEvent s code payload).Inv := by
  unfold State.postEvent
  try dsimp only
  repeat' first
    | with_reducible assumption
    | with_reducible apply inv_loseEvent
    | with_reducible apply inv_modRing
    | with_reducible apply inv_pushEntry
    | with_reducible apply inv_ite

theorem inv_announce {s : State} (code : ℕ) (payload : Bytes) (h : s.Inv) :
    (State.announce s code payload).Inv := by
  unfold State.announce
  try dsimp only
  repeat' first
    | intro _
    | with_reducible assumption
    | with_reducible apply inv_modBoot
    | with_reducible apply inv_postEvent
    | with_reducible apply inv_ite

theorem inv_postFault {s : State} (code : ℕ) (h : s.Inv) :
    (State.postFault s code).Inv := by
  unfold State.postFault
  try dsimp only
  repeat' first
    | with_reducible assumption
    | with_reducible apply inv_announce
    | with_reducible apply inv_ite

theorem inv_postBulk {s : State} (code : ℕ) (item : Bytes) (h : s.Inv) :
    (State.postBulk s code item).Inv := by
  unfold State.postBulk
  try dsimp only
  repeat' first
    | intro _
    | with_reducible assumption
    | with_reducible apply inv_modHawk
    | with_reducible apply inv_modMem
    | with_reducible apply inv_modRing
    | with_reducible apply inv_pushEntry
    | with_reducible apply wf_sramWrite
    | split

theorem inv_dropBulk {s : State} (h : s.Inv) :
    (State.dropBulk s).Inv := by
  unfold State.dropBulk
  try dsimp only
  repeat' first
    | intro _
    | with_reducible assumption
    | with_reducible apply inv_modHawk
    | with_reducible apply inv_modRing

theorem inv_offerBulk {s : State} (code : ℕ) (item : Bytes) (h : s.Inv) :
    (State.offerBulk s code item).Inv := by
  unfold State.offerBulk
  try dsimp only
  repeat' first
    | with_reducible assumption
    | with_reducible apply inv_dropBulk
    | with_reducible apply inv_postBulk
    | with_reducible apply inv_ite

theorem inv_enqueueOn {s : State} (port : ℕ) (f : TxFrame) (h : s.Inv) :
    (State.enqueueOn s port f).Inv := by
  unfold State.enqueueOn
  try dsimp only
  repeat' first
    | with_reducible assumption
    | with_reducible apply inv_bump
    | with_reducible apply inv_modPort
    | with_reducible apply inv_ite

theorem inv_sendRouted {s : State} (type dst : Nat) (payload : Bytes) (h : s.Inv) :
    (State.sendRouted s type dst payload).Inv := by
  unfold State.sendRouted
  try dsimp only
  repeat' first
    | with_reducible assumption
    | with_reducible apply inv_bump
    | with_reducible apply inv_enqueueOn
    | with_reducible apply inv_ite
    | split

theorem inv_sendTunnel (type dst id : Nat) (entry : Bytes) (n : Nat) :
    ∀ {s : State} (off : Nat) (data : Bytes), s.Inv → (s.sendTunnel type dst id entry n off data).Inv := by
  induction n with
  | zero => intro s off data h; exact inv_sendRouted _ _ _ h
  | succ n ih =>
    intro s off data h
    unfold State.sendTunnel
    split
    · exact inv_sendRouted _ _ _ h
    · exact ih _ _ (inv_sendRouted _ _ _ h)

theorem inv_respondHost {s : State} (final : Bool) (entry : Bytes) (h : s.Inv) :
    (State.respondHost s final entry).Inv := by
  unfold State.respondHost
  try dsimp only
  repeat' first
    | intro _
    | with_reducible assumption
    | with_reducible apply inv_modHawk
    | with_reducible apply inv_pushEntry
    | with_reducible apply inv_ite
    | split

theorem inv_sendResponse {s : State} (f : InFlight) (final : Bool) (status : Nat) (result : Bytes) (h : s.Inv) :
    (State.sendResponse s f final status result).Inv := by
  unfold State.sendResponse
  try dsimp only
  repeat' first
    | intro _
    | with_reducible assumption
    | with_reducible apply inv_emit
    | with_reducible apply inv_modFabric
    | with_reducible apply inv_modMem
    | with_reducible apply inv_respondHost
    | with_reducible apply inv_sendTunnel
    | with_reducible apply wf_sramWrite
    | with_reducible apply inv_ite
    | split

theorem inv_postHeld (n : Nat) : ∀ {s : State}, s.Inv → (State.postHeld n s).Inv := by
  induction n with
  | zero => intro s h; exact h
  | succ n ih =>
    intro s h
    unfold State.postHeld
    split
    · exact h
    · split
      · exact ih (inv_pushEntry _ _ (inv_modHawk (fun _ hx => hx) h))
      · exact h

theorem inv_postAllHeld {s : State} (h : s.Inv) :
    (State.postAllHeld s).Inv := by
  unfold State.postAllHeld
  try dsimp only
  repeat' first
    | with_reducible assumption
    | with_reducible apply inv_postHeld

theorem inv_orphanRoute {s : State} (o : Origin) (of : Nat → Bool) (h : s.Inv) :
    (State.orphanRoute s o of).Inv := by
  unfold State.orphanRoute
  try dsimp only
  repeat' first
    | intro _
    | with_reducible assumption
    | with_reducible apply inv_modHawk
    | with_reducible apply inv_ite
    | split

theorem inv_finishReset {s : State} (h : s.Inv) : s.finishReset.Inv := by
  unfold State.finishReset
  refine inv_ite h (inv_modHawk (fun x hx => ?_) h)
  simp [List.length_zipWith, hx, readyRings]

theorem inv_respond {s : State} (f : InFlight) (status : ℕ) (result : Bytes) (h : s.Inv) :
    (State.respond s f status result).Inv := by
  unfold State.respond
  try dsimp only
  repeat' first
    | intro _
    | with_reducible assumption
    | with_reducible apply inv_finishReset
    | with_reducible apply inv_modHawk
    | with_reducible apply inv_sendResponse

theorem inv_acknowledge {s : State} (f : InFlight) (h : s.Inv) :
    (State.acknowledge s f).Inv := by
  unfold State.acknowledge
  try dsimp only
  repeat' first
    | with_reducible assumption
    | with_reducible apply inv_sendResponse
    | with_reducible apply inv_ite

theorem inv_accept {s : State} (f : InFlight) (h : s.Inv) :
    (State.accept s f).Inv := by
  unfold State.accept
  try dsimp only
  repeat' first
    | intro _
    | with_reducible assumption
    | with_reducible apply inv_modHawk

theorem inv_submit {s : State} (f : InFlight) (code : Nat) (payload : Bytes) (h : s.Inv) :
    (State.submit s f code payload).Inv := by
  unfold State.submit
  try dsimp only
  repeat' first
    | intro _
    | with_reducible assumption
    | with_reducible apply inv_modGate
    | with_reducible apply inv_modHawk
    | with_reducible apply inv_respond
    | with_reducible apply inv_ite
    | split
    | (have hb := ‹Gate.Bounded _›; with_reducible exact hb.congr rfl)
    | exact nextSeq_bounded _

theorem inv_schedule {s : State} (code : ℕ) (payload : Bytes) (h : s.Inv) :
    (State.schedule s code payload).Inv := by
  unfold State.schedule
  try dsimp only
  repeat' first
    | intro _
    | with_reducible assumption
    | with_reducible apply inv_modGate
    | with_reducible apply inv_ite
    | (have hb := ‹Gate.Bounded _›; with_reducible exact hb.congr rfl)
    | exact nextSeq_bounded _

theorem inv_answer {s : State} (r : GateRequest) (status : ℕ) (payload : Bytes) (h : s.Inv) :
    (State.answer s r status payload).Inv := by
  exact inv_modGate (fun x hx => Gate.Bounded.reply (show Gate.Bounded { x with requests := x.requests.erase r } from hx) _) h

end Sys2Proof.Machine
end

