-- ==== Sys2Proof/Laws/InvOperands.lean ====
section
/-! SUPPORT. Every operation of Machine/Operands.lean keeps the invariant. -/

namespace Sys2Proof.Machine

theorem inv_putParam {s : State} (id : ℕ) (v : Bytes) (h : s.Inv) :
    (State.putParam s id v).Inv := by
  unfold State.putParam
  try dsimp only
  repeat' first
    | (have hb := ‹State.Inv _›; with_reducible exact hb.congr rfl rfl rfl rfl rfl rfl rfl rfl rfl rfl)

theorem inv_putPending {s : State} (id : Nat) (v : Bytes) (h : s.Inv) : (s.putPending id v).Inv :=
  (inv_putParam id v h).congr rfl rfl rfl rfl rfl rfl rfl rfl rfl rfl

theorem inv_bringIntoForce {s : State} (p : ℕ → Bool) (h : s.Inv) :
    (State.bringIntoForce s p).Inv := by
  unfold State.bringIntoForce
  try dsimp only
  repeat' first
    | (have hb := ‹State.Inv _›; with_reducible exact hb.congr rfl rfl rfl rfl rfl rfl rfl rfl rfl rfl)

end Sys2Proof.Machine
end

