-- ==== Sys2Proof/Laws/InvExcitation.lean ====
section
/-! SUPPORT. Every operation of Machine/Excitation.lean keeps the invariant. -/

namespace Sys2Proof.Machine

theorem inv_meet {s : State} (n : Nat) (e : Sensed) (h : s.Inv) :
    (State.meet s n e).Inv := by
  unfold State.meet
  try dsimp only
  repeat' first
    | intro _
    | with_reducible assumption
    | with_reducible apply inv_modDriver
    | with_reducible apply inv_ite
    | split

end Sys2Proof.Machine
end

