-- ==== Sys2Proof/Laws/InvLegal.lean ====
section
/-! SUPPORT. Every operation of Machine/Legal.lean keeps the invariant. -/

namespace Sys2Proof.Machine

theorem inv_putSlot {s : State} (k : ℕ) (digest : Bytes) (h : s.Inv) :
    (State.putSlot s k digest).Inv := by
  unfold State.putSlot
  try dsimp only
  repeat' first
    | intro _
    | with_reducible assumption
    | with_reducible apply inv_modBoot

/-- A new calibration store moves no bound of the logs. -/
theorem Legal.Bounded.putCal {l : Legal} (h : l.Bounded) (blocks : List Bytes) : (l.putCal blocks).Bounded := by
  unfold Legal.putCal
  dsimp only
  repeat' split
  all_goals exact h.congr rfl rfl rfl rfl

theorem inv_rewriteSlot6 {s : State} (h : s.Inv) :
    (State.rewriteSlot6 s).Inv := by
  unfold State.rewriteSlot6
  try dsimp only
  repeat' first
    | with_reducible assumption
    | with_reducible apply inv_putSlot

theorem inv_rewriteSlot7 {s : State} (h : s.Inv) :
    (State.rewriteSlot7 s).Inv := by
  unfold State.rewriteSlot7
  try dsimp only
  repeat' first
    | with_reducible assumption
    | with_reducible apply inv_putSlot

theorem inv_noteSealFull {s : State} (origin : Nat) (h : s.Inv) :
    (State.noteSealFull s origin).Inv := by
  unfold State.noteSealFull
  try dsimp only
  repeat' first
    | intro _
    | with_reducible assumption
    | with_reducible apply inv_logAt
    | with_reducible apply inv_modLegal
    | with_reducible apply inv_ite
    | split
    | (have hb := ‹Legal.Bounded _›; with_reducible exact hb.congr rfl rfl rfl rfl)

theorem inv_traceSealed {s : State} (id : ℕ) (old : Bytes) (new : Bytes) (origin : ℕ) (h : s.Inv) :
    (State.traceSealed s id old new origin).Inv := by
  unfold State.traceSealed
  try dsimp only
  repeat' first
    | intro _
    | with_reducible assumption
    | with_reducible apply inv_logBoth
    | with_reducible apply inv_modLegal
    | with_reducible apply inv_rewriteSlot7
    | (have hb := ‹Legal.Bounded _›; with_reducible exact hb.congr rfl rfl rfl rfl)

theorem inv_traceLogged {s : State} (id : ℕ) (old : Bytes) (new : Bytes) (origin : ℕ) (h : s.Inv) :
    (State.traceLogged s id old new origin).Inv := by
  unfold State.traceLogged
  try dsimp only
  repeat' first
    | with_reducible assumption
    | with_reducible apply inv_logAt
    | with_reducible apply inv_rewriteSlot7

theorem inv_consume {s : State} (ctr : Option ℕ) (h : s.Inv) :
    (State.consume s ctr).Inv := by
  unfold State.consume
  try dsimp only
  repeat' first
    | intro _
    | with_reducible assumption
    | with_reducible apply inv_modLegal
    | (have hb := ‹Legal.Bounded _›; with_reducible exact hb.congr rfl rfl rfl rfl)
    | split

theorem inv_openGap {s : State} (m : ℕ) (kind : ℕ) (fault : ℕ) (h : s.Inv) :
    (State.openGap s m kind fault).Inv := by
  unfold State.openGap
  try dsimp only
  repeat' first
    | with_reducible assumption
    | with_reducible apply inv_modPoint
    | with_reducible apply inv_ite

theorem inv_openBindingGap {s : State} (m : Nat) (h : s.Inv) :
    (State.openBindingGap s m).Inv := by
  unfold State.openBindingGap
  try dsimp only
  repeat' first
    | intro _
    | with_reducible assumption
    | with_reducible apply inv_modPoint
    | with_reducible apply inv_openGap

theorem inv_openGaps {s : State} (kind : ℕ) (fault : ℕ) (h : s.Inv) :
    (State.openGaps s kind fault).Inv := by
  unfold State.openGaps
  try dsimp only
  repeat' first
    | intro _
    | with_reducible assumption
    | with_reducible apply inv_openGap
    | with_reducible apply inv_foldl

theorem inv_closeGap {s : State} (m : ℕ) (h : s.Inv) :
    (State.closeGap s m).Inv := by
  unfold State.closeGap
  try dsimp only
  repeat' first
    | with_reducible assumption
    | with_reducible apply inv_logEvent
    | with_reducible apply inv_modPoint
    | split

theorem inv_settleGaps {s : State} (h : s.Inv) :
    (State.settleGaps s).Inv := by
  unfold State.settleGaps
  try dsimp only
  repeat' first
    | intro _
    | with_reducible assumption
    | with_reducible apply inv_closeGap
    | with_reducible apply inv_foldl
    | with_reducible apply wf_foldl
    | with_reducible apply inv_foldl
    | with_reducible apply inv_ite
    | split

theorem inv_nextNumber {s : State} (h : s.Inv) :
    (State.nextNumber s).Inv := by
  unfold State.nextNumber
  try dsimp only
  repeat' first
    | intro _
    | with_reducible assumption
    | with_reducible apply inv_modLegal
    | (have hb := ‹Legal.Bounded _›; with_reducible exact hb.congr rfl rfl rfl rfl)

theorem inv_hand {s : State} (reading : Bytes) (h : s.Inv) :
    (State.hand s reading).Inv := by
  unfold State.hand
  try dsimp only
  repeat' first
    | intro _
    | with_reducible assumption
    | with_reducible apply inv_modLegal
    | with_reducible apply inv_tell
    | with_reducible apply inv_ite
    | (have hb := ‹Legal.Bounded _›; with_reducible exact hb.congr rfl rfl rfl rfl)

theorem inv_scheduleReading {s : State} (g : Pedigree) (f : ReadingFields) (h : s.Inv) :
    (State.scheduleReading s g f).Inv := by
  unfold State.scheduleReading
  try dsimp only
  repeat' first
    | intro _
    | with_reducible assumption
    | with_reducible apply inv_hand
    | with_reducible apply inv_modLegal
    | with_reducible apply inv_nextNumber
    | with_reducible apply inv_ite
    | split
    | (have hb := ‹Legal.Bounded _›; with_reducible exact hb.congr rfl rfl rfl rfl)

theorem inv_sum64 {s : State} (n : ℕ) (h : s.Inv) :
    (State.sum64 s n).2.Inv := by
  unfold State.sum64
  try dsimp only
  repeat' first
    | with_reducible assumption
    | with_reducible apply inv_drawFree
    | split

end Sys2Proof.Machine
end

