-- ==== Sys2Proof/Laws/InvFrontEnd.lean ====
section
/-! SUPPORT. Every operation of Machine/FrontEnd.lean keeps the invariant. -/

namespace Sys2Proof.Machine

theorem inv_dropWindows {s : State} (n : Nat) (h : s.Inv) :
    (State.dropWindows s n).Inv := by
  unfold State.dropWindows
  try dsimp only
  repeat' first
    | intro _
    | with_reducible assumption
    | with_reducible apply inv_foldl
    | with_reducible apply inv_modPoint
    | with_reducible apply wf_foldl
    | with_reducible apply inv_foldl
    | with_reducible apply inv_foldl_fst
    | with_reducible apply inv_ite
    | split

theorem inv_holdReferring {s : State} (n : ℕ) (h : s.Inv) :
    (State.holdReferring s n).Inv := by
  unfold State.holdReferring
  try dsimp only
  repeat' first
    | intro _
    | with_reducible assumption
    | with_reducible apply inv_modChannel
    | with_reducible apply inv_ite
    | with_reducible apply inv_foldl

theorem inv_resetChain {s : State} (n : Nat) (h : s.Inv) :
    (State.resetChain s n).Inv := by
  unfold State.resetChain
  try dsimp only
  repeat' first
    | intro _
    | with_reducible assumption
    | with_reducible apply inv_dropWindows
    | with_reducible apply inv_modChannel
    | with_reducible apply inv_ite
    | split

theorem inv_resetChannel {s : State} (n : Nat) (h : s.Inv) :
    (State.resetChannel s n).Inv := by
  unfold State.resetChannel
  try dsimp only
  repeat' first
    | with_reducible assumption
    | with_reducible apply inv_holdReferring
    | with_reducible apply inv_resetChain

theorem inv_gapsOf {s : State} (n kind fault : Nat) (h : s.Inv) :
    (State.gapsOf s n kind fault).Inv := by
  unfold State.gapsOf
  try dsimp only
  repeat' first
    | intro _
    | with_reducible assumption
    | with_reducible apply inv_foldl
    | with_reducible apply inv_openGap
    | with_reducible apply wf_foldl
    | with_reducible apply inv_foldl

theorem inv_restartChannel {s : State} (n kind fault : Nat) (h : s.Inv) :
    (State.restartChannel s n kind fault).Inv := by
  unfold State.restartChannel
  try dsimp only
  repeat' first
    | with_reducible assumption
    | with_reducible apply inv_gapsOf
    | with_reducible apply inv_resetChannel
    | intro _

theorem inv_restartAll {s : State} (kind fault : Nat) (h : s.Inv) :
    (State.restartAll s kind fault).Inv := by
  unfold State.restartAll
  try dsimp only
  repeat' first
    | intro _
    | with_reducible assumption
    | with_reducible apply inv_foldl
    | with_reducible apply inv_gapsOf
    | with_reducible apply inv_resetChain
    | with_reducible apply wf_foldl
    | with_reducible apply inv_foldl

theorem inv_stopAll {s : State} (kind : ℕ) (fault : ℕ) (h : s.Inv) :
    (State.stopAll s kind fault).Inv := by
  unfold State.stopAll
  try dsimp only
  repeat' first
    | intro _
    | with_reducible assumption
    | with_reducible apply inv_dropWindows
    | with_reducible apply inv_modChannel
    | with_reducible apply inv_openGaps
    | with_reducible apply inv_foldl

theorem inv_lineCross {s : State} (k : Nat) (z : Nat) (len : Option Nat) (strong : Nat) (h : s.Inv) :
    (State.lineCross s k z len strong).Inv := by
  unfold State.lineCross
  try dsimp only
  repeat' first
    | intro _
    | with_reducible assumption
    | with_reducible apply inv_modChannel
    | with_reducible apply inv_ite
    | split

theorem inv_feedFir {s : State} (n : Nat) (x : Int) (t : Nat) (h : s.Inv) :
    (State.feedFir s n x t).Inv := by
  unfold State.feedFir
  try dsimp only
  repeat' first
    | intro _
    | with_reducible assumption
    | with_reducible apply inv_foldl
    | with_reducible apply inv_lineCross
    | with_reducible apply inv_modChannel
    | with_reducible apply wf_foldl
    | with_reducible apply inv_foldl
    | with_reducible apply inv_foldl_fst
    | with_reducible apply inv_ite
    | split

theorem inv_takeWords (n : Nat) (l : List (BitVec 4)) : ∀ {s : State}, s.Inv → (s.takeWords n l).Inv := by
  induction l with
  | nil => intro s h; exact h
  | cons w rest ih =>
    intro s h
    unfold State.takeWords
    dsimp only
    refine ih (inv_ite (inv_feedFir _ _ _ ?_) ?_) <;> exact inv_modChannel _ _ h

theorem inv_capture {s : State} (n : Nat) (r : Record) (x3Held : Bool) (h : s.Inv) :
    (State.capture s n r x3Held).Inv := by
  unfold State.capture
  try dsimp only
  repeat' first
    | intro _
    | with_reducible assumption
    | with_reducible apply inv_bump
    | with_reducible apply inv_modChannel
    | with_reducible apply inv_modMem
    | with_reducible apply wf_sramWrite
    | with_reducible apply inv_ite
    | split

theorem inv_keepSample {s : State} (n : ℕ) (r : Record) (h : s.Inv) :
    (State.keepSample s n r).Inv := by
  unfold State.keepSample
  try dsimp only
  repeat' first
    | with_reducible assumption
    | with_reducible apply inv_modChannel
    | with_reducible apply inv_ite

theorem inv_useSample {s : State} (n : ℕ) (r : Record) (theta : ℕ → Option ℤ) (h : s.Inv) :
    (State.useSample s n r theta).Inv := by
  unfold State.useSample
  try dsimp only
  repeat' first
    | intro _
    | with_reducible assumption
    | with_reducible apply inv_modChannel
    | with_reducible apply inv_modPoint
    | with_reducible apply inv_foldl

theorem inv_formRecord {s : State} (n : Nat) (words : List (BitVec 4)) (x3Held : Bool) (h : s.Inv) :
    (State.formRecord s n words x3Held).Inv := by
  unfold State.formRecord
  try dsimp only
  repeat' first
    | intro _
    | with_reducible assumption
    | with_reducible apply inv_capture
    | with_reducible apply inv_foldl
    | with_reducible apply inv_keepSample
    | with_reducible apply inv_modChannel
    | with_reducible apply inv_openGap
    | with_reducible apply inv_settleGaps
    | with_reducible apply inv_takeWords
    | with_reducible apply inv_useSample
    | with_reducible apply wf_foldl
    | with_reducible apply inv_foldl
    | with_reducible apply inv_foldl_fst
    | with_reducible apply inv_ite
    | split

theorem inv_execLineHoldTimeout (dt : Ticks) (pch : Nat) {s : State} (h : s.Inv) :
    ∃ t, execLineHoldTimeout dt pch s = .next t ∧ t.Inv := by
  unfold execLineHoldTimeout
  refine ⟨_, rfl, ?_⟩
  try dsimp only
  repeat' first
    | intro _
    | with_reducible assumption
    | with_reducible apply inv_elapse
    | with_reducible apply inv_modChannel
    | with_reducible apply inv_ite
    | split

theorem inv_execLineLockTimeout (dt : Ticks) (pch : Nat) {s : State} (h : s.Inv) :
    ∃ t, execLineLockTimeout dt pch s = .next t ∧ t.Inv := by
  unfold execLineLockTimeout
  refine ⟨_, rfl, ?_⟩
  try dsimp only
  repeat' first
    | intro _
    | with_reducible assumption
    | with_reducible apply inv_elapse
    | with_reducible apply inv_modChannel
    | with_reducible apply inv_ite
    | split

theorem inv_logDiag {s : State} (n : ℕ) (bit : ℕ) (sets : Bool) (h : s.Inv) :
    (State.logDiag s n bit sets).Inv := by
  unfold State.logDiag
  try dsimp only
  repeat' first
    | with_reducible assumption
    | with_reducible apply inv_logEvent
    | with_reducible apply inv_modChannel
    | with_reducible apply inv_ite

theorem inv_seeDiag {s : State} (n bit : Nat) (h : s.Inv) :
    (State.seeDiag s n bit).Inv := by
  unfold State.seeDiag
  try dsimp only
  repeat' first
    | intro _
    | with_reducible assumption
    | with_reducible apply inv_modChannel
    | with_reducible apply inv_ite

theorem inv_setDiag {s : State} (n bit : Nat) (h : s.Inv) :
    (State.setDiag s n bit).Inv := by
  unfold State.setDiag
  try dsimp only
  repeat' first
    | intro _
    | with_reducible assumption
    | with_reducible apply inv_foldl
    | with_reducible apply inv_holdReferring
    | with_reducible apply inv_logDiag
    | with_reducible apply inv_modChannel
    | with_reducible apply inv_openGap
    | with_reducible apply inv_seeDiag
    | with_reducible apply wf_foldl
    | with_reducible apply inv_foldl
    | with_reducible apply inv_foldl_fst
    | with_reducible apply inv_ite
    | split

theorem inv_clearDiag {s : State} (n bit : Nat) (h : s.Inv) :
    (State.clearDiag s n bit).Inv := by
  unfold State.clearDiag
  try dsimp only
  repeat' first
    | intro _
    | with_reducible assumption
    | with_reducible apply inv_logDiag
    | with_reducible apply inv_modChannel
    | with_reducible apply inv_restartChannel
    | with_reducible apply inv_ite
    | split

theorem inv_execDiagBitSet (dt : Ticks) (pch bit : Nat) (seen : Sensed) {s : State} (h : s.Inv) :
    ∃ t, execDiagBitSet dt pch bit seen s = .next t ∧ t.Inv := by
  unfold execDiagBitSet
  refine ⟨_, rfl, ?_⟩
  try dsimp only
  repeat' first
    | intro _
    | with_reducible assumption
    | with_reducible apply inv_elapse
    | with_reducible apply inv_foldl
    | with_reducible apply inv_meet
    | with_reducible apply inv_setDiag
    | with_reducible apply wf_foldl
    | with_reducible apply inv_foldl
    | with_reducible apply inv_ite
    | split

theorem inv_execDiagBitClear (dt : Ticks) (pch bit : Nat) (seen : Sensed) {s : State} (h : s.Inv) :
    ∃ t, execDiagBitClear dt pch bit seen s = .next t ∧ t.Inv := by
  unfold execDiagBitClear
  refine ⟨_, rfl, ?_⟩
  try dsimp only
  repeat' first
    | intro _
    | with_reducible assumption
    | with_reducible apply inv_clearDiag
    | with_reducible apply inv_elapse
    | with_reducible apply inv_foldl
    | with_reducible apply inv_meet
    | with_reducible apply wf_foldl
    | with_reducible apply inv_foldl
    | with_reducible apply inv_ite
    | split

theorem inv_execDiagSummary (dt : Ticks) (pch : ℕ) {s : State} (h : s.Inv) :
    ∃ t, execDiagSummary dt pch s = .next t ∧ t.Inv := by
  unfold execDiagSummary
  refine ⟨_, rfl, ?_⟩
  try dsimp only
  repeat' first
    | with_reducible assumption
    | with_reducible apply inv_elapse
    | with_reducible apply inv_logEvent
    | with_reducible apply inv_modChannel
    | with_reducible apply inv_ite

theorem inv_refLoss {s : State} (h : s.Inv) :
    (State.refLoss s).Inv := by
  unfold State.refLoss
  try dsimp only
  repeat' first
    | intro _
    | with_reducible assumption
    | with_reducible apply inv_foldl
    | with_reducible apply inv_setDiag
    | with_reducible apply wf_foldl
    | with_reducible apply inv_foldl
    | with_reducible apply inv_ite
    | split

theorem inv_seeSetDiags {s : State} (h : s.Inv) : (State.seeSetDiags s).Inv :=
  ⟨h.mem, h.logs, h.aon, h.gate, (List.length_map ..).trans h.channels, h.counters, h.points, h.rings, h.ports,
   h.components⟩

theorem inv_filterTakes {s : State} (cnt held : Nat) (h : s.Inv) : (s.filterTakes cnt held).2.Inv := by
  unfold State.filterTakes
  dsimp only
  repeat' first
    | with_reducible assumption
    | with_reducible apply inv_drawFree
    | split

theorem inv_filterLevel {s : State} (n by_ : Nat) (level : Bool) (held : Nat) (h : s.Inv) :
    (State.filterLevel s n by_ level held).Inv := by
  unfold State.filterLevel
  dsimp only
  have k := inv_filterTakes by_ held h
  exact inv_ite h (inv_ite (inv_modCounter _ _ k) k)

theorem inv_execCounterInputEdge (dt : Ticks) (cnt : Nat) (rising : Bool) (heldNs : Nat) {s : State} (h : s.Inv) :
    ∃ t, execCounterInputEdge dt cnt rising heldNs s = .next t ∧ t.Inv := by
  unfold execCounterInputEdge
  refine ⟨_, rfl, ?_⟩
  try dsimp only
  repeat' first
    | intro _
    | with_reducible assumption
    | with_reducible apply inv_elapse
    | with_reducible apply inv_filterLevel
    | with_reducible apply inv_modCounter
    | with_reducible apply inv_ite
    | split

theorem inv_execQuadTransition (dt : Ticks) (cnt : Nat) (a b : Bool) (heldANs heldBNs : Nat) {s : State} (h : s.Inv) :
    ∃ t, execQuadTransition dt cnt a b heldANs heldBNs s = .next t ∧ t.Inv := by
  unfold execQuadTransition
  refine ⟨_, rfl, ?_⟩
  try dsimp only
  repeat' first
    | intro _
    | with_reducible assumption
    | with_reducible apply inv_elapse
    | with_reducible apply inv_filterLevel
    | with_reducible apply inv_modCounter
    | with_reducible apply inv_ite
    | split

theorem inv_gather {s : State} (m : ℕ) (idx : ℕ) (amount : ℕ) (t : ℕ) (h : s.Inv) :
    (State.gather s m idx amount t).Inv := by
  unfold State.gather
  try dsimp only
  repeat' first
    | with_reducible assumption
    | with_reducible apply inv_modPoint

theorem inv_accrueVolume {s : State} (m : ℕ) (fwd : ℕ) (rev : ℕ) (t : ℕ) (h : s.Inv) :
    (State.accrueVolume s m fwd rev t).Inv := by
  unfold State.accrueVolume
  try dsimp only
  repeat' first
    | with_reducible assumption
    | with_reducible apply inv_gather
    | with_reducible apply inv_modPoint
    | with_reducible apply inv_ite

theorem inv_noteQuadError {s : State} (n m : Nat) (h : s.Inv) :
    (State.noteQuadError s n m).Inv := by
  unfold State.noteQuadError
  try dsimp only
  repeat' first
    | intro _
    | with_reducible assumption
    | with_reducible apply inv_logEvent
    | with_reducible apply inv_modCounter
    | with_reducible apply inv_modPoint
    | with_reducible apply inv_ite
    | split

theorem inv_latchCounter {s : State} (n t : Nat) (final : Bool) (h : s.Inv) :
    (State.latchCounter s n t final).Inv := by
  unfold State.latchCounter
  try dsimp only
  repeat' first
    | intro _
    | with_reducible assumption
    | with_reducible apply inv_accrueVolume
    | with_reducible apply inv_modCounter
    | with_reducible apply inv_noteQuadError
    | with_reducible apply inv_ite
    | split

theorem inv_finalLatch {s : State} (n : Nat) (h : s.Inv) :
    (State.finalLatch s n).Inv := by
  unfold State.finalLatch
  try dsimp only
  repeat' first
    | intro _
    | with_reducible assumption
    | with_reducible apply inv_latchCounter
    | with_reducible apply inv_modCounter

end Sys2Proof.Machine
end

