-- ==== Sys2Proof/Laws/InvClocks.lean ====
section
/-! SUPPORT. Every operation of Machine/Clocks.lean keeps the invariant. -/

namespace Sys2Proof.Machine

theorem inv_logClock {s : State} (code : ℕ) (value : ℤ) (before : ℕ) (after : ℕ) (h : s.Inv) :
    (State.logClock s code value before after).Inv := by
  unfold State.logClock
  try dsimp only
  repeat' first
    | with_reducible assumption
    | with_reducible apply inv_logEvent
    | with_reducible apply inv_ite

theorem inv_modSwitch {s : State} (src : ModSource) (h : s.Inv) :
    (State.modSwitch s src).Inv := by
  unfold State.modSwitch
  try dsimp only
  repeat' first
    | with_reducible assumption
    | with_reducible apply inv_modMod
    | with_reducible apply inv_restartAll

theorem inv_modLost {s : State} (h : s.Inv) :
    (State.modLost s).Inv := by
  unfold State.modLost
  try dsimp only
  repeat' first
    | intro _
    | with_reducible assumption
    | with_reducible apply inv_logClock
    | with_reducible apply inv_modMod
    | with_reducible apply inv_postFault
    | with_reducible apply inv_stopAll
    | with_reducible apply inv_ite

theorem inv_execMclkStop (dt : Ticks) (glitchPs : Option ℕ) {s : State} (h : s.Inv) :
    ∃ t, execMclkStop dt glitchPs s = .next t ∧ t.Inv := by
  unfold execMclkStop
  refine ⟨_, rfl, ?_⟩
  try dsimp only
  repeat' first
    | with_reducible assumption
    | with_reducible apply inv_elapse
    | with_reducible apply inv_logClock
    | with_reducible apply inv_modLost
    | with_reducible apply inv_modMod
    | with_reducible apply inv_modSwitch
    | with_reducible apply inv_ite
    | split

theorem inv_execMclkWindow (dt : Ticks) (meanPpm : ℤ) (periodsOk : Bool) {s : State} (h : s.Inv) :
    ∃ t, execMclkWindow dt meanPpm periodsOk s = .next t ∧ t.Inv := by
  unfold execMclkWindow
  refine ⟨_, rfl, ?_⟩
  try dsimp only
  repeat' first
    | with_reducible assumption
    | with_reducible apply inv_elapse
    | with_reducible apply inv_logClock
    | with_reducible apply inv_modMod
    | with_reducible apply inv_restartAll
    | with_reducible apply inv_ite

theorem inv_execMclkReturn (dt : Ticks) {s : State} (h : s.Inv) :
    ∃ t, execMclkReturn dt s = .next t ∧ t.Inv := by
  unfold execMclkReturn
  refine ⟨_, rfl, ?_⟩
  try dsimp only
  repeat' first
    | with_reducible assumption
    | with_reducible apply inv_elapse
    | with_reducible apply inv_logClock
    | with_reducible apply inv_modMod
    | with_reducible apply inv_modSwitch
    | with_reducible apply inv_ite

theorem inv_execXoModLost (dt : Ticks) {s : State} (h : s.Inv) :
    ∃ t, execXoModLost dt s = .next t ∧ t.Inv := by
  unfold execXoModLost
  refine ⟨_, rfl, ?_⟩
  try dsimp only
  repeat' first
    | with_reducible assumption
    | with_reducible apply inv_elapse
    | with_reducible apply inv_modLost
    | with_reducible apply inv_modMod
    | with_reducible apply inv_ite

theorem inv_execXoModRestartTry (dt : Ticks) (runs : Bool) {s : State} (h : s.Inv) :
    ∃ t, execXoModRestartTry dt runs s = .next t ∧ t.Inv := by
  unfold execXoModRestartTry
  refine ⟨_, rfl, ?_⟩
  try dsimp only
  repeat' first
    | with_reducible assumption
    | with_reducible apply inv_elapse
    | with_reducible apply inv_logClock
    | with_reducible apply inv_modMod
    | with_reducible apply inv_modSwitch
    | with_reducible apply inv_ite

theorem inv_execModEpoch (dt : Ticks) {s : State} (h : s.Inv) :
    ∃ t, execModEpoch dt s = .next t ∧ t.Inv := by
  unfold execModEpoch
  refine ⟨_, rfl, ?_⟩
  try dsimp only
  repeat' first
    | intro _
    | with_reducible assumption
    | with_reducible apply inv_elapse
    | with_reducible apply inv_modMod
    | with_reducible apply inv_ite
    | split

theorem inv_execSlewSecond (dt : Ticks) {s : State} (h : s.Inv) :
    ∃ t, execSlewSecond dt s = .next t ∧ t.Inv := by
  unfold execSlewSecond
  refine ⟨_, rfl, ?_⟩
  try dsimp only
  repeat' first
    | with_reducible assumption
    | with_reducible apply inv_elapse
    | with_reducible apply inv_logEvent
    | with_reducible apply inv_modNtu
    | with_reducible apply inv_ite

theorem inv_execSlewClamp (dt : Ticks) {s : State} (h : s.Inv) :
    ∃ t, execSlewClamp dt s = .next t ∧ t.Inv := by
  unfold execSlewClamp
  refine ⟨_, rfl, ?_⟩
  try dsimp only
  repeat' first
    | with_reducible assumption
    | with_reducible apply inv_elapse
    | with_reducible apply inv_logEvent
    | with_reducible apply inv_modNtu
    | with_reducible apply inv_ite

theorem inv_disarmSync {s : State} (h : s.Inv) :
    (State.disarmSync s).Inv := by
  unfold State.disarmSync
  try dsimp only
  repeat' first
    | with_reducible assumption
    | with_reducible apply inv_modSync
    | with_reducible apply inv_respond
    | split

theorem inv_setTimeStatus {s : State} (t : TimeStatus) (h : s.Inv) :
    (State.setTimeStatus s t).Inv := by
  unfold State.setTimeStatus
  try dsimp only
  repeat' first
    | intro _
    | with_reducible assumption
    | with_reducible apply inv_disarmSync
    | with_reducible apply inv_modLegal
    | with_reducible apply inv_modNtu
    | with_reducible apply inv_tell
    | with_reducible apply inv_ite
    | split
    | (have hb := ‹Legal.Bounded _›; with_reducible exact hb.congr rfl rfl rfl rfl)

theorem inv_writeRateAdj {s : State} (v : ℤ) (h : s.Inv) :
    (State.writeRateAdj s v).Inv := by
  unfold State.writeRateAdj
  try dsimp only
  repeat' first
    | with_reducible assumption
    | with_reducible apply inv_modNtu

theorem inv_restartDiscipline {s : State} (h : s.Inv) :
    (State.restartDiscipline s).Inv := by
  unfold State.restartDiscipline
  try dsimp only
  repeat' first
    | with_reducible assumption
    | with_reducible apply inv_modNtu

theorem inv_disciplineOffset {s : State} (o : ℤ) (t : ℕ) (h : s.Inv) :
    (State.disciplineOffset s o t).Inv := by
  unfold State.disciplineOffset
  try dsimp only
  repeat' first
    | with_reducible assumption
    | with_reducible apply inv_modNtu
    | with_reducible apply inv_setTimeStatus
    | with_reducible apply inv_writeRateAdj
    | with_reducible apply inv_ite

theorem inv_execFineHoldoverExpiry (dt : Ticks) {s : State} (h : s.Inv) :
    ∃ t, execFineHoldoverExpiry dt s = .next t ∧ t.Inv := by
  unfold execFineHoldoverExpiry
  refine ⟨_, rfl, ?_⟩
  try dsimp only
  repeat' first
    | with_reducible assumption
    | with_reducible apply inv_elapse
    | with_reducible apply inv_modNtu
    | with_reducible apply inv_setTimeStatus
    | with_reducible apply inv_ite

theorem inv_writeRtc {s : State} (h : s.Inv) : s.writeRtc.Inv := by
  unfold State.writeRtc
  refine inv_modNtu _ (inv_modAon (fun x hx => ?_) h)
  split
  · refine ⟨hx.buffer, Nat.mod_lt _ (by decide), ?_, hx.trim⟩
    have : s.nodeTime % second < second := Nat.mod_lt _ (by decide)
    show s.nodeTime % second * 32768 / second < 32768
    rw [Nat.div_lt_iff_lt_mul (by decide)]
    unfold second at *
    omega
  · exact hx

/-- The new trim is a 10-bit signed number. -/
theorem State.newTrim_bounds (s : State) : -512 ≤ s.newTrim ∧ s.newTrim ≤ 511 := by
  unfold State.newTrim clampInt
  dsimp only
  omega

theorem inv_execRtcHourlyWrite (dt : Ticks) {s : State} (h : s.Inv) :
    ∃ t, execRtcHourlyWrite dt s = .next t ∧ t.Inv := by
  unfold execRtcHourlyWrite
  refine ⟨_, rfl, ?_⟩
  refine inv_ite (inv_modAon (fun x hx => ?_) (inv_writeRtc (inv_elapse dt h))) (inv_elapse dt h)
  split
  · exact ⟨hx.buffer, hx.sec, hx.frac, State.newTrim_bounds _⟩
  · exact hx

theorem inv_ignoreSync {s : State} (h : s.Inv) :
    (State.ignoreSync s).Inv := by
  unfold State.ignoreSync
  try dsimp only
  repeat' first
    | with_reducible assumption
    | with_reducible apply inv_modSync

theorem inv_restartReversals {s : State} (h : s.Inv) : (State.restartReversals s).Inv :=
  h.congr rfl rfl rfl rfl rfl rfl rfl rfl rfl rfl

theorem inv_syncEvent {s : State} (src e : Nat) (h : s.Inv) :
    (State.syncEvent s src e).Inv := by
  unfold State.syncEvent
  try dsimp only
  repeat' first
    | intro _
    | with_reducible assumption
    | with_reducible apply inv_emit
    | with_reducible apply inv_logEvent
    | with_reducible apply inv_modMod
    | with_reducible apply inv_modSync
    | with_reducible apply inv_restartAll
    | with_reducible apply inv_restartReversals
    | with_reducible apply inv_tell
    | with_reducible apply inv_ite
    | split

theorem inv_execSyncInEdge (dt : Ticks) (lowLow : Bool) (highHigh : Bool) {s : State} (h : s.Inv) :
    ∃ t, execSyncInEdge dt lowLow highHigh s = .next t ∧ t.Inv := by
  unfold execSyncInEdge
  refine ⟨_, rfl, ?_⟩
  try dsimp only
  repeat' first
    | with_reducible assumption
    | with_reducible apply inv_elapse
    | with_reducible apply inv_ignoreSync
    | with_reducible apply inv_syncEvent
    | with_reducible apply inv_ite

theorem inv_execSyncAtFire (dt : Ticks) (afterPs : Nat) {s : State} (h : s.Inv) :
    ∃ t, execSyncAtFire dt afterPs s = .next t ∧ t.Inv := by
  unfold execSyncAtFire
  dsimp only
  split
  · exact ⟨_, rfl, inv_elapse dt h⟩
  · refine ⟨_, rfl, ?_⟩
    repeat' first
    | intro _
    | with_reducible assumption
    | with_reducible apply inv_elapse
    | with_reducible apply inv_modSync
    | with_reducible apply inv_respond
    | with_reducible apply inv_ignoreSync
    | with_reducible apply inv_syncEvent
    | with_reducible apply inv_ite
    | split

end Sys2Proof.Machine
end

