-- ==== Sys2Proof/Laws/InvEnergy.lean ====
section
/-! SUPPORT. Every operation of Machine/Energy.lean keeps the invariant. -/

namespace Sys2Proof.Machine

theorem inv_accrueScope {s : State} (m scope : Nat) (w : Power) (span : Span) (h : s.Inv) :
    (State.accrueScope s m scope w span).Inv := by
  unfold State.accrueScope
  try dsimp only
  repeat' first
    | intro _
    | with_reducible assumption
    | with_reducible apply inv_foldl
    | with_reducible apply inv_gather
    | with_reducible apply wf_foldl
    | with_reducible apply inv_foldl
    | with_reducible apply inv_foldl_fst
    | with_reducible apply inv_ite
    | split

theorem inv_powerFactor {s : State} (w : Power) (h : s.Inv) :
    (State.powerFactor s w).2.Inv := by
  unfold State.powerFactor
  try dsimp only
  repeat' first
    | with_reducible assumption
    | with_reducible apply inv_drawFree
    | split

theorem inv_blocksOf (ns : Nat) (l : List Power) : ∀ {s : State}, s.Inv → (s.blocksOf ns l).2.Inv := by
  induction l with
  | nil => intro s h; exact h
  | cons w rest ih =>
    intro s h
    exact ih (inv_powerFactor w h)

theorem inv_noteMeans {s : State} (m : ℕ) (ws : List Power) (span : Span) (h : s.Inv) :
    (State.noteMeans s m ws span).Inv := by
  unfold State.noteMeans
  try dsimp only
  repeat' first
    | with_reducible assumption
    | with_reducible apply inv_blocksOf
    | with_reducible apply inv_modPoint

theorem inv_analyse {s : State} (m : Nat) (span : Span) (h : s.Inv) :
    (State.analyse s m span).Inv := by
  unfold State.analyse
  try dsimp only
  repeat' first
    | intro _
    | with_reducible assumption
    | with_reducible apply inv_accrueScope
    | with_reducible apply inv_foldl
    | with_reducible apply inv_modPoint
    | with_reducible apply inv_noteMeans
    | with_reducible apply wf_foldl
    | with_reducible apply inv_foldl
    | with_reducible apply inv_foldl_fst
    | with_reducible apply inv_ite
    | split

theorem inv_execAnalysisCycle (dt : Ticks) (mp : ℕ) {s : State} (h : s.Inv) :
    ∃ t, execAnalysisCycle dt mp s = .next t ∧ t.Inv := by
  unfold execAnalysisCycle
  refine ⟨_, rfl, ?_⟩
  try dsimp only
  repeat' first
    | with_reducible assumption
    | with_reducible apply inv_analyse
    | with_reducible apply inv_elapse
    | with_reducible apply inv_ite
    | split

end Sys2Proof.Machine
end

