-- ==== Sys2Proof/Laws/InvCommit.lean ====
section
/-! SUPPORT. Every operation of Machine/Commit.lean keeps the invariant. -/

namespace Sys2Proof.Machine

theorem inv_openTempGap {s : State} (m : ℕ) (sec : ℕ) (h : s.Inv) :
    (State.openTempGap s m sec).Inv := by
  unfold State.openTempGap
  try dsimp only
  repeat' first
    | with_reducible assumption
    | with_reducible apply inv_modPoint

theorem inv_closeTempGap {s : State} (m : ℕ) (sec : ℕ) (h : s.Inv) :
    (State.closeTempGap s m sec).Inv := by
  unfold State.closeTempGap
  try dsimp only
  repeat' first
    | with_reducible assumption
    | with_reducible apply inv_logEvent
    | with_reducible apply inv_modPoint
    | with_reducible apply inv_ite
    | split

theorem inv_dropHeatSecond {s : State} (m : ℕ) (sec : ℕ) (h : s.Inv) :
    (State.dropHeatSecond s m sec).Inv := by
  unfold State.dropHeatSecond
  try dsimp only
  repeat' first
    | with_reducible assumption
    | with_reducible apply inv_modPoint

theorem inv_addHeat {s : State} (m : ℕ) (x : Option (ℕ × ℕ)) (h : s.Inv) :
    (State.addHeat s m x).Inv := by
  unfold State.addHeat
  try dsimp only
  repeat' first
    | with_reducible assumption
    | with_reducible apply inv_modPoint
    | split

theorem inv_heatSecond {s : State} (m : ℕ) (sec : ℕ) (h : s.Inv) :
    (State.heatSecond s m sec).Inv := by
  unfold State.heatSecond
  try dsimp only
  repeat' first
    | with_reducible assumption
    | with_reducible apply inv_addHeat
    | with_reducible apply inv_closeTempGap
    | with_reducible apply inv_dropHeatSecond
    | with_reducible apply inv_openTempGap
    | split

theorem inv_logSaturation {s : State} (origin m : Nat) (k : BankCopy) (keys : List Nat) (h : s.Inv) :
    (State.logSaturation s origin m k keys).Inv := by
  unfold State.logSaturation
  try dsimp only
  repeat' first
    | intro _
    | with_reducible assumption
    | with_reducible apply inv_foldl
    | with_reducible apply inv_logAt
    | with_reducible apply wf_foldl
    | with_reducible apply inv_foldl
    | with_reducible apply inv_ite
    | split

theorem inv_profileReading {s : State} (g : Pedigree) (period m qd at_ tstat : Nat) (flags : Word) (h : s.Inv) :
    (State.profileReading s g period m qd at_ tstat flags).Inv := by
  unfold State.profileReading
  try dsimp only
  repeat' first
    | with_reducible assumption
    | with_reducible apply inv_scheduleReading
    | with_reducible apply inv_sum64
    | with_reducible apply inv_ite

theorem inv_closeInterval {s : State} (g : Pedigree) (period m at_ : Nat) (more : Word) (h : s.Inv) :
    (State.closeInterval s g period m at_ more).Inv := by
  unfold State.closeInterval
  try dsimp only
  repeat' first
    | intro _
    | with_reducible assumption
    | with_reducible apply inv_foldl
    | with_reducible apply inv_modPoint
    | with_reducible apply inv_profileReading
    | with_reducible apply wf_foldl
    | with_reducible apply inv_foldl
    | with_reducible apply inv_foldl_fst
    | with_reducible apply inv_ite
    | split

theorem inv_openInterval {s : State} (m sec : Nat) (h : s.Inv) :
    (State.openInterval s m sec).Inv := by
  unfold State.openInterval
  try dsimp only
  repeat' first
    | intro _
    | with_reducible assumption
    | with_reducible apply inv_modPoint
    | with_reducible apply inv_ite
    | split

theorem inv_profileStep {s : State} (m sec : Nat) (h : s.Inv) :
    (State.profileStep s m sec).Inv := by
  unfold State.profileStep
  try dsimp only
  repeat' first
    | with_reducible assumption
    | with_reducible apply inv_closeInterval
    | with_reducible apply inv_openInterval
    | with_reducible apply inv_ite
    | split

theorem inv_closeSecond {s : State} (m : ℕ) (h : s.Inv) :
    (State.closeSecond s m).Inv := by
  unfold State.closeSecond
  try dsimp only
  repeat' first
    | with_reducible assumption
    | with_reducible apply inv_modPoint

theorem inv_commitBank {s : State} (m sec tariff : Nat) (all : Bool) (h : s.Inv) :
    (State.commitBank s m sec tariff all).Inv := by
  unfold State.commitBank
  try dsimp only
  repeat' first
    | intro _
    | with_reducible assumption
    | with_reducible apply inv_logSaturation
    | with_reducible apply inv_modPoint
    | with_reducible apply inv_ite
    | split

theorem inv_commitPoint {s : State} (m sec tariff : Nat) (all : Bool) (h : s.Inv) :
    (State.commitPoint s m sec tariff all).Inv := by
  unfold State.commitPoint
  try dsimp only
  repeat' first
    | intro _
    | with_reducible assumption
    | with_reducible apply inv_closeSecond
    | with_reducible apply inv_commitBank
    | with_reducible apply inv_heatSecond
    | with_reducible apply inv_modPoint
    | with_reducible apply inv_ite
    | split

theorem inv_commitAll {s : State} (sec : Nat) (all : Bool) (h : s.Inv) :
    (State.commitAll s sec all).Inv := by
  unfold State.commitAll
  try dsimp only
  repeat' first
    | intro _
    | with_reducible assumption
    | with_reducible apply inv_bringIntoForce
    | with_reducible apply inv_commitPoint
    | with_reducible apply inv_foldl
    | with_reducible apply inv_modBoot
    | with_reducible apply inv_modLegal
    | with_reducible apply wf_foldl
    | with_reducible apply inv_foldl
    | with_reducible apply inv_foldl_fst
    | with_reducible apply inv_ite
    | split
    | (have hb := ‹Legal.Bounded _›; with_reducible exact hb.congr rfl rfl rfl rfl)
    | (have hb := ‹List.length _ = _›; exact (List.length_map ..).trans hb)

theorem inv_takeTariff {s : State} (sec : ℕ) (h : s.Inv) :
    (State.takeTariff s sec).Inv := by
  unfold State.takeTariff
  try dsimp only
  repeat' first
    | intro _
    | with_reducible assumption
    | with_reducible apply inv_modLegal
    | with_reducible apply inv_tell
    | with_reducible apply inv_ite
    | (have hb := ‹Legal.Bounded _›; with_reducible exact hb.congr rfl rfl rfl rfl)

theorem inv_commitAt {s : State} (sec : ℕ) (all : Bool) (h : s.Inv) :
    (State.commitAt s sec all).Inv := by
  unfold State.commitAt
  try dsimp only
  repeat' first
    | intro _
    | with_reducible assumption
    | with_reducible apply inv_commitAll
    | with_reducible apply inv_profileStep
    | with_reducible apply inv_takeTariff
    | with_reducible apply inv_ite
    | with_reducible apply inv_foldl

theorem inv_execCommitSecond (dt : Ticks) {s : State} (h : s.Inv) :
    ∃ t, execCommitSecond dt s = .next t ∧ t.Inv := by
  unfold execCommitSecond
  refine ⟨_, rfl, ?_⟩
  try dsimp only
  repeat' first
    | with_reducible assumption
    | with_reducible apply inv_commitAt
    | with_reducible apply inv_elapse
    | with_reducible apply inv_ite
    | split

theorem inv_activateCalendar {s : State} (h : s.Inv) :
    (State.activateCalendar s).Inv := by
  unfold State.activateCalendar
  try dsimp only
  repeat' first
    | intro _
    | with_reducible assumption
    | with_reducible apply inv_logEvent
    | with_reducible apply inv_modLegal
    | with_reducible apply inv_takeTariff
    | (have hb := ‹Legal.Bounded _›; with_reducible exact hb.congr rfl rfl rfl rfl)

theorem inv_execCalendarActivation (dt : Ticks) {s : State} (h : s.Inv) :
    ∃ t, execCalendarActivation dt s = .next t ∧ t.Inv := by
  unfold execCalendarActivation
  refine ⟨_, rfl, ?_⟩
  try dsimp only
  repeat' first
    | with_reducible assumption
    | with_reducible apply inv_activateCalendar
    | with_reducible apply inv_elapse
    | with_reducible apply inv_ite
    | split

theorem inv_stepTime {s : State} (d : ℤ) (h : s.Inv) : (State.stepTime s d).Inv := by
  unfold State.stepTime
  dsimp only
  apply inv_foldl
  · intro t n ht
    exact inv_ite (inv_modChannel _ _ ht) ht
  · exact ⟨h.mem, h.logs, h.aon, h.gate, (List.length_map ..).trans h.channels,
      (List.length_map ..).trans h.counters, (List.length_map ..).trans h.points, h.rings, h.ports, h.components⟩

theorem inv_commitBeforeStep {s : State} (h : s.Inv) :
    (State.commitBeforeStep s).Inv := by
  unfold State.commitBeforeStep
  try dsimp only
  repeat' first
    | intro _
    | with_reducible assumption
    | with_reducible apply inv_closeInterval
    | with_reducible apply inv_commitAll
    | with_reducible apply inv_foldl
    | with_reducible apply inv_modPoint
    | with_reducible apply wf_foldl
    | with_reducible apply inv_foldl
    | with_reducible apply inv_foldl_fst
    | with_reducible apply inv_ite
    | split

theorem inv_resumeCommits {s : State} (h : s.Inv) :
    (State.resumeCommits s).Inv := by
  unfold State.resumeCommits
  try dsimp only
  repeat' first
    | intro _
    | with_reducible assumption
    | with_reducible apply inv_modLegal
    | with_reducible apply inv_takeTariff
    | with_reducible apply inv_ite
    | (have hb := ‹Legal.Bounded _›; with_reducible exact hb.congr rfl rfl rfl rfl)

end Sys2Proof.Machine
end

