-- ==== Sys2Proof/Laws/InvWeigh.lean ====
section
/-! SUPPORT. Every operation of Machine/Weigh.lean keeps the invariant. -/

namespace Sys2Proof.Machine

theorem inv_initialZero {s : State} (m : ℕ) (h : s.Inv) :
    (State.initialZero s m).Inv := by
  unfold State.initialZero
  try dsimp only
  repeat' first
    | with_reducible assumption
    | with_reducible apply inv_modWeigh
    | with_reducible apply inv_ite

theorem inv_trackZero {s : State} (m : ℕ) (h : s.Inv) :
    (State.trackZero s m).Inv := by
  unfold State.trackZero
  try dsimp only
  repeat' first
    | with_reducible assumption
    | with_reducible apply inv_modWeigh
    | with_reducible apply inv_ite

theorem inv_massPosition {s : State} (m : ℕ) (rs : List Record) (instant : ℕ) (h : s.Inv) :
    (State.massPosition s m rs instant).Inv := by
  unfold State.massPosition
  try dsimp only
  repeat' first
    | with_reducible assumption
    | with_reducible apply inv_initialZero
    | with_reducible apply inv_modWeigh
    | with_reducible apply inv_trackZero
    | with_reducible apply inv_ite

theorem inv_execWeighPosition (dt : Ticks) (mp : Nat) {s : State} (h : s.Inv) :
    ∃ t, execWeighPosition dt mp s = .next t ∧ t.Inv := by
  unfold execWeighPosition
  refine ⟨_, rfl, ?_⟩
  try dsimp only
  repeat' first
    | intro _
    | with_reducible assumption
    | with_reducible apply inv_elapse
    | with_reducible apply inv_foldl
    | with_reducible apply inv_massPosition
    | with_reducible apply inv_modWeigh
    | with_reducible apply wf_foldl
    | with_reducible apply inv_foldl
    | with_reducible apply inv_foldl_fst
    | with_reducible apply inv_ite
    | split

theorem inv_resetInstrument {s : State} (m : ℕ) (h : s.Inv) :
    (State.resetInstrument s m).Inv := by
  unfold State.resetInstrument
  try dsimp only
  repeat' first
    | with_reducible assumption
    | with_reducible apply inv_modWeigh

theorem inv_zeroKey {s : State} (m : Nat) (h : s.Inv) :
    (State.zeroKey s m).Inv := by
  unfold State.zeroKey
  try dsimp only
  repeat' first
    | intro _
    | with_reducible assumption
    | with_reducible apply inv_modWeigh
    | with_reducible apply inv_ite
    | split

theorem inv_tareKey {s : State} (m : Nat) (h : s.Inv) :
    (State.tareKey s m).Inv := by
  unfold State.tareKey
  try dsimp only
  repeat' first
    | intro _
    | with_reducible assumption
    | with_reducible apply inv_modWeigh
    | with_reducible apply inv_ite
    | split

theorem inv_cancelTxn {s : State} (m : ℕ) (cause : ℕ) (origin : ℕ) (h : s.Inv) :
    (State.cancelTxn s m cause origin).Inv := by
  unfold State.cancelTxn
  try dsimp only
  repeat' first
    | with_reducible assumption
    | with_reducible apply inv_logAt
    | with_reducible apply inv_modWeigh
    | split

theorem inv_execWeighTimeout (dt : Ticks) (mp : ℕ) {s : State} (h : s.Inv) :
    ∃ t, execWeighTimeout dt mp s = .next t ∧ t.Inv := by
  unfold execWeighTimeout
  refine ⟨_, rfl, ?_⟩
  try dsimp only
  repeat' first
    | with_reducible assumption
    | with_reducible apply inv_cancelTxn
    | with_reducible apply inv_elapse
    | with_reducible apply inv_tell
    | with_reducible apply inv_ite
    | split

theorem inv_askStatus {s : State} (ext m : Nat) (h : s.Inv) :
    (State.askStatus s ext m).Inv := by
  unfold State.askStatus
  try dsimp only
  repeat' first
    | intro _
    | with_reducible assumption
    | with_reducible apply inv_schedule
    | with_reducible apply inv_ite
    | split

theorem inv_takeAccel {s : State} (m t : Nat) (h : s.Inv) :
    (State.takeAccel s m t).Inv := by
  unfold State.takeAccel
  try dsimp only
  repeat' first
    | intro _
    | with_reducible assumption
    | with_reducible apply inv_modProv
    | with_reducible apply inv_ite
    | split

theorem inv_provPosition {s : State} (m : Nat) (rs : List Record) (instant : Nat) (terms : Bytes) (h : s.Inv) :
    (State.provPosition s m rs instant terms).Inv := by
  unfold State.provPosition
  try dsimp only
  repeat' first
    | intro _
    | with_reducible assumption
    | with_reducible apply inv_modProv
    | with_reducible apply inv_ite
    | split

theorem inv_execProvUpdate (dt : Ticks) (mp : Nat) {s : State} (h : s.Inv) :
    ∃ t, execProvUpdate dt mp s = .next t ∧ t.Inv := by
  unfold execProvUpdate
  refine ⟨_, rfl, ?_⟩
  try dsimp only
  repeat' first
    | intro _
    | with_reducible assumption
    | with_reducible apply inv_askStatus
    | with_reducible apply inv_elapse
    | with_reducible apply inv_foldl
    | with_reducible apply inv_modProv
    | with_reducible apply inv_provPosition
    | with_reducible apply inv_takeAccel
    | with_reducible apply wf_foldl
    | with_reducible apply inv_foldl
    | with_reducible apply inv_ite
    | split

theorem inv_execProvStabilityPoll (dt : Ticks) (mp : Nat) {s : State} (h : s.Inv) :
    ∃ t, execProvStabilityPoll dt mp s = .next t ∧ t.Inv := by
  unfold execProvStabilityPoll
  refine ⟨_, rfl, ?_⟩
  try dsimp only
  repeat' first
    | with_reducible assumption
    | with_reducible apply inv_askStatus
    | with_reducible apply inv_elapse
    | with_reducible apply inv_ite
    | split

end Sys2Proof.Machine
end

