-- ==== Sys2Proof/Laws/InvImage.lean ====
section
/-! SUPPORT. Every operation of Machine/Image.lean keeps the invariant. -/

namespace Sys2Proof.Machine

theorem inv_putWord {s : State} (w : JournalWord) (h : s.Inv) :
    (State.putWord s w).Inv := by
  unfold State.putWord
  try dsimp only
  repeat' first
    | with_reducible assumption
    | with_reducible apply inv_modFlash

theorem inv_warn {s : State} (bit : ℕ) (h : s.Inv) :
    (State.warn s bit).Inv := by
  unfold State.warn
  try dsimp only
  repeat' first
    | intro _
    | with_reducible assumption
    | with_reducible apply inv_modBoot

theorem inv_bootError {s : State} (code : ℕ) (component : ℕ) (bankB : Bool) (h : s.Inv) :
    (State.bootError s code component bankB).Inv := by
  unfold State.bootError
  try dsimp only
  repeat' first
    | intro _
    | with_reducible assumption
    | with_reducible apply inv_modBoot
    | with_reducible apply inv_ite

theorem inv_announceUpdate {s : State} (k : ℕ) (kind : ℕ) (b : Bool) (h : s.Inv) :
    (State.announceUpdate s k kind b).Inv := by
  unfold State.announceUpdate
  try dsimp only
  repeat' first
    | with_reducible assumption
    | with_reducible apply inv_announce

theorem inv_rebuildRecord {s : State} (k : ℕ) (h : s.Inv) :
    (State.rebuildRecord s k).Inv := by
  unfold State.rebuildRecord
  try dsimp only
  repeat' first
    | with_reducible assumption
    | with_reducible apply inv_modComponent
    | with_reducible apply inv_ite

theorem inv_revertTrial {s : State} (k : Nat) (h : s.Inv) :
    (State.revertTrial s k).Inv := by
  unfold State.revertTrial
  try dsimp only
  repeat' first
    | intro _
    | with_reducible assumption
    | with_reducible apply inv_announceUpdate
    | with_reducible apply inv_modBoot
    | with_reducible apply inv_modComponent
    | with_reducible apply inv_warn
    | with_reducible apply inv_ite
    | split

theorem inv_pickBank {s : State} (k : Nat) (h : s.Inv) :
    (State.pickBank s k).Inv := by
  unfold State.pickBank
  try dsimp only
  repeat' first
    | intro _
    | with_reducible assumption
    | with_reducible apply inv_modBoot
    | with_reducible apply inv_modComponent
    | with_reducible apply inv_warn
    | with_reducible apply inv_ite
    | split

theorem inv_checkStaged {s : State} (k : ℕ) (h : s.Inv) :
    (State.checkStaged s k).Inv := by
  unfold State.checkStaged
  try dsimp only
  repeat' first
    | with_reducible assumption
    | with_reducible apply inv_modComponent
    | with_reducible apply inv_warn
    | with_reducible apply inv_ite

theorem inv_loadImage {s : State} (k : Nat) (image : Bytes) (h : s.Inv) :
    (State.loadImage s k image).Inv := by
  unfold State.loadImage
  try dsimp only
  repeat' first
    | intro _
    | with_reducible assumption
    | with_reducible apply inv_modBoot
    | with_reducible apply inv_modMem
    | with_reducible apply inv_ite
    | split
    | exact Memory.wf_writeBytes _ _ ‹_›

theorem inv_selectImage (revert : Bool) {s : State} (k : Nat) (h : s.Inv) :
    (State.selectImage revert s k).Inv := by
  unfold State.selectImage
  try dsimp only
  repeat' first
    | intro _
    | with_reducible assumption
    | with_reducible apply inv_checkStaged
    | with_reducible apply inv_loadImage
    | with_reducible apply inv_modBoot
    | with_reducible apply inv_pickBank
    | with_reducible apply inv_putSlot
    | with_reducible apply inv_rebuildRecord
    | with_reducible apply inv_revertTrial
    | with_reducible apply inv_ite
    | split

theorem inv_stopImages {s : State} (ks : List Nat) (h : s.Inv) :
    (State.stopImages s ks).Inv := by
  unfold State.stopImages
  try dsimp only
  repeat' first
    | intro _
    | with_reducible assumption
    | with_reducible apply inv_foldl
    | with_reducible apply inv_modBoot
    | with_reducible apply inv_modComponent
    | with_reducible apply wf_foldl
    | with_reducible apply inv_foldl
    | with_reducible apply inv_foldl_fst

end Sys2Proof.Machine
end

