-- ==== Sys2Proof/Laws/InvGateReads.lean ====
section
/-! SUPPORT. Every operation of Machine/GateReads.lean keeps the invariant. -/

namespace Sys2Proof.Machine

theorem inv_serve {s : State} (code : ℕ) {f : GateRequest → State → State} (hf : ∀ a0 (t : State), t.Inv → (f a0 t).Inv) (h : s.Inv) :
    (State.serve s code f).Inv := by
  unfold State.serve
  try dsimp only
  repeat' first
    | with_reducible assumption
    | apply hf
    | split

theorem inv_serveSigned {s : State} (code : Nat) {f : GateRequest → State → State}
    (hf : ∀ a0 (t : State), t.Inv → (f a0 t).Inv) (h : s.Inv) : (State.serveSigned s code f).Inv := by
  unfold State.serveSigned
  exact inv_ite h (inv_serve _ hf h)

theorem inv_refuseGate {s : State} (r : GateRequest) (status : ℕ) (h : s.Inv) :
    (State.refuseGate s r status).Inv := by
  unfold State.refuseGate
  try dsimp only
  repeat' first
    | with_reducible assumption
    | with_reducible apply inv_answer

theorem inv_answerStatus (r : GateRequest) {s : State} (h : s.Inv) :
    (State.answerStatus r s).Inv := by
  unfold State.answerStatus
  try dsimp only
  repeat' first
    | with_reducible assumption
    | with_reducible apply inv_answer
    | with_reducible apply inv_refuseGate
    | with_reducible apply inv_ite

theorem inv_execGateReadStatus (dt : Ticks) {s : State} (h : s.Inv) :
    ∃ t, execGateReadStatus dt s = .next t ∧ t.Inv := by
  unfold execGateReadStatus
  refine ⟨_, rfl, ?_⟩
  try dsimp only
  repeat' first
    | intro _
    | with_reducible assumption
    | with_reducible apply inv_answerStatus
    | with_reducible apply inv_elapse
    | with_reducible apply inv_serve

theorem inv_answerRegisters (r : GateRequest) {s : State} (h : s.Inv) :
    (State.answerRegisters r s).Inv := by
  unfold State.answerRegisters
  try dsimp only
  repeat' first
    | with_reducible assumption
    | with_reducible apply inv_answer
    | with_reducible apply inv_refuseGate
    | with_reducible apply inv_ite

theorem inv_execGateReadRegisters (dt : Ticks) {s : State} (h : s.Inv) :
    ∃ t, execGateReadRegisters dt s = .next t ∧ t.Inv := by
  unfold execGateReadRegisters
  refine ⟨_, rfl, ?_⟩
  try dsimp only
  repeat' first
    | intro _
    | with_reducible assumption
    | with_reducible apply inv_answerRegisters
    | with_reducible apply inv_elapse
    | with_reducible apply inv_serve

theorem inv_snapshot {s : State} (key : ℕ) (h : s.Inv) :
    (State.snapshot s key).2.Inv := by
  unfold State.snapshot
  try dsimp only
  repeat' first
    | with_reducible assumption
    | with_reducible apply inv_nextNumber
    | with_reducible apply inv_sum64

theorem inv_answerSign (r : GateRequest) {s : State} (h : s.Inv) :
    (State.answerSign r s).Inv := by
  unfold State.answerSign
  try dsimp only
  repeat' first
    | with_reducible assumption
    | with_reducible apply inv_answer
    | with_reducible apply inv_refuseGate
    | with_reducible apply inv_snapshot
    | with_reducible apply inv_ite
    | split

theorem inv_execGateSignReading (dt : Ticks) {s : State} (h : s.Inv) :
    ∃ t, execGateSignReading dt s = .next t ∧ t.Inv := by
  unfold execGateSignReading
  refine ⟨_, rfl, ?_⟩
  try dsimp only
  repeat' first
    | with_reducible assumption
    | with_reducible apply inv_answerSign
    | with_reducible apply inv_elapse
    | with_reducible apply inv_serveSigned
    | with_reducible apply inv_ite
    | intro _

theorem inv_answerLog (r : GateRequest) {s : State} (h : s.Inv) :
    (State.answerLog r s).Inv := by
  unfold State.answerLog
  try dsimp only
  repeat' first
    | with_reducible assumption
    | with_reducible apply inv_answer
    | with_reducible apply inv_refuseGate
    | with_reducible apply inv_ite

theorem inv_execGateReadLog (dt : Ticks) {s : State} (h : s.Inv) :
    ∃ t, execGateReadLog dt s = .next t ∧ t.Inv := by
  unfold execGateReadLog
  refine ⟨_, rfl, ?_⟩
  try dsimp only
  repeat' first
    | intro _
    | with_reducible assumption
    | with_reducible apply inv_answerLog
    | with_reducible apply inv_elapse
    | with_reducible apply inv_serve

theorem inv_answerAttest (r : GateRequest) {s : State} (h : s.Inv) :
    (State.answerAttest r s).Inv := by
  unfold State.answerAttest
  try dsimp only
  repeat' first
    | intro _
    | with_reducible assumption
    | with_reducible apply inv_answer
    | with_reducible apply inv_modLegal
    | with_reducible apply inv_refuseGate
    | with_reducible apply inv_ite
    | split
    | (have hb := ‹Legal.Bounded _›; with_reducible exact hb.congr rfl rfl rfl rfl)

theorem inv_execGateAttest (dt : Ticks) {s : State} (h : s.Inv) :
    ∃ t, execGateAttest dt s = .next t ∧ t.Inv := by
  unfold execGateAttest
  refine ⟨_, rfl, ?_⟩
  try dsimp only
  repeat' first
    | with_reducible assumption
    | with_reducible apply inv_answerAttest
    | with_reducible apply inv_elapse
    | with_reducible apply inv_serveSigned
    | with_reducible apply inv_ite
    | intro _

theorem inv_gateReject {s : State} (r : GateRequest) (status : ℕ) (h : s.Inv) :
    (State.gateReject s r status).Inv := by
  unfold State.gateReject
  try dsimp only
  repeat' first
    | with_reducible assumption
    | with_reducible apply inv_logAt

theorem inv_execGateReservedCode (dt : Ticks) {s : State} (h : s.Inv) :
    ∃ t, execGateReservedCode dt s = .next t ∧ t.Inv := by
  unfold execGateReservedCode
  refine ⟨_, rfl, ?_⟩
  try dsimp only
  repeat' first
    | with_reducible assumption
    | with_reducible apply inv_elapse
    | with_reducible apply inv_gateReject
    | with_reducible apply inv_refuseGate
    | with_reducible apply inv_ite
    | split

end Sys2Proof.Machine
end

