-- ==== Sys2Proof/Laws/InvGateWrites.lean ====
section
/-! SUPPORT. Every operation of Machine/GateWrites.lean keeps the invariant. -/

namespace Sys2Proof.Machine

theorem inv_leaveBinding {s : State} (m : Nat) (old new : Bytes) (h : s.Inv) :
    (State.leaveBinding s m old new).Inv := by
  unfold State.leaveBinding
  try dsimp only
  repeat' first
    | intro _
    | with_reducible assumption
    | with_reducible apply inv_finalLatch
    | with_reducible apply inv_foldl
    | with_reducible apply inv_openBindingGap
    | with_reducible apply wf_foldl
    | with_reducible apply inv_foldl
    | with_reducible apply inv_ite

theorem inv_enterBinding {s : State} (m : Nat) (old new : Bytes) (h : s.Inv) :
    (State.enterBinding s m old new).Inv := by
  unfold State.enterBinding
  try dsimp only
  repeat' first
    | intro _
    | with_reducible assumption
    | with_reducible apply inv_closeGap
    | with_reducible apply inv_foldl
    | with_reducible apply inv_modCounter
    | with_reducible apply inv_modPoint
    | with_reducible apply inv_resetInstrument
    | with_reducible apply inv_restartChannel
    | with_reducible apply inv_settleGaps
    | with_reducible apply wf_foldl
    | with_reducible apply inv_foldl
    | with_reducible apply inv_foldl_fst
    | with_reducible apply inv_ite
    | split

theorem inv_bindBoundary {s : State} (m : Nat) (h : s.Inv) :
    (State.bindBoundary s m).Inv := by
  unfold State.bindBoundary
  try dsimp only
  repeat' first
    | intro _
    | with_reducible assumption
    | with_reducible apply inv_bringIntoForce
    | with_reducible apply inv_enterBinding
    | with_reducible apply inv_leaveBinding
    | with_reducible apply inv_ite
    | split

theorem inv_sampleBoundary {s : State} (n : Nat) (h : s.Inv) :
    (State.sampleBoundary s n).Inv := by
  unfold State.sampleBoundary
  try dsimp only
  repeat' first
    | intro _
    | with_reducible assumption
    | with_reducible apply inv_bindBoundary
    | with_reducible apply inv_foldl
    | with_reducible apply wf_foldl
    | with_reducible apply inv_foldl
    | with_reducible apply inv_ite
    | split

theorem inv_latchBoundary {s : State} (h : s.Inv) :
    (State.latchBoundary s).Inv := by
  unfold State.latchBoundary
  try dsimp only
  repeat' first
    | intro _
    | with_reducible assumption
    | with_reducible apply inv_bindBoundary
    | with_reducible apply inv_foldl
    | with_reducible apply wf_foldl
    | with_reducible apply inv_foldl
    | with_reducible apply inv_ite
    | split

theorem inv_execFaOutput (dt : Ticks) (pch : Nat) (words : List (BitVec 4)) (x3Held : Bool) {s : State} (h : s.Inv) :
    ∃ t, execFaOutput dt pch words x3Held s = .next t ∧ t.Inv := by
  unfold execFaOutput
  refine ⟨_, rfl, ?_⟩
  try dsimp only
  repeat' first
    | with_reducible assumption
    | with_reducible apply inv_elapse
    | with_reducible apply inv_formRecord
    | with_reducible apply inv_sampleBoundary
    | with_reducible apply inv_ite
    | split

theorem inv_execCounterLatch (dt : Ticks) {s : State} (h : s.Inv) :
    ∃ t, execCounterLatch dt s = .next t ∧ t.Inv := by
  unfold execCounterLatch
  refine ⟨_, rfl, ?_⟩
  try dsimp only
  repeat' first
    | intro _
    | with_reducible assumption
    | with_reducible apply inv_elapse
    | with_reducible apply inv_foldl
    | with_reducible apply inv_latchBoundary
    | with_reducible apply inv_latchCounter
    | with_reducible apply inv_modNtu
    | with_reducible apply inv_settleGaps
    | with_reducible apply wf_foldl
    | with_reducible apply inv_foldl
    | with_reducible apply inv_ite
    | split

theorem inv_pchChanged {s : State} (n i : Nat) (h : s.Inv) :
    (State.pchChanged s n i).Inv := by
  unfold State.pchChanged
  try dsimp only
  repeat' first
    | intro _
    | with_reducible assumption
    | with_reducible apply inv_capture
    | with_reducible apply inv_modSkim
    | with_reducible apply inv_refLoss
    | with_reducible apply inv_restartChannel
    | with_reducible apply inv_seeSetDiags
    | with_reducible apply inv_ite
    | split

theorem inv_restartWhere {s : State} (p : ℕ → Bool) (h : s.Inv) :
    (State.restartWhere s p).Inv := by
  unfold State.restartWhere
  try dsimp only
  repeat' first
    | intro _
    | with_reducible assumption
    | with_reducible apply inv_restartChannel
    | with_reducible apply inv_foldl

theorem inv_excChanged {s : State} (k : Nat) (h : s.Inv) :
    (State.excChanged s k).Inv := by
  unfold State.excChanged
  try dsimp only
  repeat' first
    | intro _
    | with_reducible assumption
    | with_reducible apply inv_refLoss
    | with_reducible apply inv_restartWhere
    | with_reducible apply inv_seeSetDiags
    | with_reducible apply inv_ite

theorem inv_cntChanged {s : State} (n : ℕ) (i : ℕ) (before : ℕ) (h : s.Inv) :
    (State.cntChanged s n i before).Inv := by
  unfold State.cntChanged
  try dsimp only
  repeat' first
    | with_reducible assumption
    | with_reducible apply inv_modCounter
    | with_reducible apply inv_ite

theorem inv_modChanged {s : State} (id : ℕ) (h : s.Inv) :
    (State.modChanged s id).Inv := by
  unfold State.modChanged
  try dsimp only
  repeat' first
    | with_reducible assumption
    | with_reducible apply inv_modMod
    | with_reducible apply inv_modSwitch
    | with_reducible apply inv_restartAll
    | with_reducible apply inv_ite

theorem inv_changed {s : State} (id : Nat) (old : Bytes) (h : s.Inv) :
    (State.changed s id old).Inv := by
  unfold State.changed
  try dsimp only
  repeat' first
    | intro _
    | with_reducible assumption
    | with_reducible apply inv_cntChanged
    | with_reducible apply inv_excChanged
    | with_reducible apply inv_modChanged
    | with_reducible apply inv_modLegal
    | with_reducible apply inv_modPoint
    | with_reducible apply inv_pchChanged
    | with_reducible apply inv_resetInstrument
    | with_reducible apply inv_restartWhere
    | with_reducible apply inv_ite
    | split
    | (have hb := ‹Legal.Bounded _›; with_reducible exact hb.congr rfl rfl rfl rfl)

theorem inv_unfault {s : State} (id : ℕ) (h : s.Inv) :
    (State.unfault s id).Inv := by
  unfold State.unfault
  try dsimp only
  repeat' first
    | intro _
    | with_reducible assumption
    | with_reducible apply inv_modLegal
    | with_reducible apply inv_settleGaps
    | with_reducible apply inv_ite
    | (have hb := ‹Legal.Bounded _›; with_reducible exact hb.congr rfl rfl rfl rfl)

theorem inv_applyParam {s : State} (id : Nat) (v : Bytes) (origin : Nat) (h : s.Inv) :
    (State.applyParam s id v origin).Inv := by
  unfold State.applyParam
  try dsimp only
  repeat' first
    | with_reducible assumption
    | with_reducible apply inv_changed
    | with_reducible apply inv_finalLatch
    | with_reducible apply inv_putParam
    | with_reducible apply inv_putPending
    | with_reducible apply inv_traceSealed
    | with_reducible apply inv_unfault
    | with_reducible apply inv_ite
    | split

theorem inv_answerSetParam (r : GateRequest) {s : State} (h : s.Inv) :
    (State.answerSetParam r s).Inv := by
  unfold State.answerSetParam
  try dsimp only
  repeat' first
    | with_reducible assumption
    | with_reducible apply inv_applyParam
    | with_reducible apply inv_noteSealFull
    | with_reducible apply inv_putParam
    | with_reducible apply inv_refuseGate
    | with_reducible apply inv_ite
    | split

theorem inv_execGateSetParam (dt : Ticks) {s : State} (h : s.Inv) :
    ∃ t, execGateSetParam dt s = .next t ∧ t.Inv := by
  unfold execGateSetParam
  refine ⟨_, rfl, ?_⟩
  try dsimp only
  repeat' first
    | intro _
    | with_reducible assumption
    | with_reducible apply inv_answerSetParam
    | with_reducible apply inv_elapse
    | with_reducible apply inv_serve

theorem inv_commitForStep {s : State} (d : ℤ) (h : s.Inv) :
    (State.commitForStep s d).Inv := by
  unfold State.commitForStep
  try dsimp only
  repeat' first
    | with_reducible assumption
    | with_reducible apply inv_commitAll
    | with_reducible apply inv_commitBeforeStep
    | with_reducible apply inv_takeTariff
    | with_reducible apply inv_ite

theorem inv_statusAfterSet {s : State} (d : ℤ) (h : s.Inv) :
    (State.statusAfterSet s d).Inv := by
  unfold State.statusAfterSet
  try dsimp only
  repeat' first
    | with_reducible assumption
    | with_reducible apply inv_disarmSync
    | with_reducible apply inv_modNtu
    | with_reducible apply inv_setTimeStatus
    | with_reducible apply inv_ite

theorem inv_setUtcOffset {s : State} (v : Bytes) (origin : ℕ) (h : s.Inv) :
    (State.setUtcOffset s v origin).Inv := by
  unfold State.setUtcOffset
  try dsimp only
  repeat' first
    | with_reducible assumption
    | with_reducible apply inv_putParam
    | with_reducible apply inv_putPending
    | with_reducible apply inv_traceLogged
    | with_reducible apply inv_unfault
    | with_reducible apply inv_ite

theorem inv_applySetTime {s : State} (p : Bytes) (origin : ℕ) (h : s.Inv) :
    (State.applySetTime s p origin).Inv := by
  unfold State.applySetTime
  try dsimp only
  repeat' first
    | intro _
    | with_reducible assumption
    | with_reducible apply inv_commitForStep
    | with_reducible apply inv_logAt
    | with_reducible apply inv_modAon
    | with_reducible apply inv_modNtu
    | with_reducible apply inv_resumeCommits
    | with_reducible apply inv_setUtcOffset
    | with_reducible apply inv_statusAfterSet
    | with_reducible apply inv_stepTime
    | with_reducible apply inv_writeRtc
    | with_reducible apply inv_ite
    | (have hb := ‹AlwaysOn.Bounded _›; with_reducible exact hb.congr rfl rfl rfl rfl)

theorem inv_answerSetTime (r : GateRequest) {s : State} (h : s.Inv) :
    (State.answerSetTime r s).Inv := by
  unfold State.answerSetTime
  try dsimp only
  repeat' first
    | with_reducible assumption
    | with_reducible apply inv_answer
    | with_reducible apply inv_applySetTime
    | with_reducible apply inv_consume
    | with_reducible apply inv_refuseGate
    | with_reducible apply inv_ite

theorem inv_execGateSetTime (dt : Ticks) {s : State} (h : s.Inv) :
    ∃ t, execGateSetTime dt s = .next t ∧ t.Inv := by
  unfold execGateSetTime
  refine ⟨_, rfl, ?_⟩
  try dsimp only
  repeat' first
    | intro _
    | with_reducible assumption
    | with_reducible apply inv_answerSetTime
    | with_reducible apply inv_elapse
    | with_reducible apply inv_serve

theorem inv_answerCalendar (r : GateRequest) {s : State} (h : s.Inv) :
    (State.answerCalendar r s).Inv := by
  unfold State.answerCalendar
  try dsimp only
  repeat' first
    | intro _
    | with_reducible assumption
    | with_reducible apply inv_consume
    | with_reducible apply inv_modLegal
    | with_reducible apply inv_putParam
    | with_reducible apply inv_refuseGate
    | with_reducible apply inv_traceLogged
    | with_reducible apply inv_unfault
    | with_reducible apply inv_ite
    | (have hb := ‹Legal.Bounded _›; with_reducible exact hb.congr rfl rfl rfl rfl)

theorem inv_execGateLoadCalendar (dt : Ticks) {s : State} (h : s.Inv) :
    ∃ t, execGateLoadCalendar dt s = .next t ∧ t.Inv := by
  unfold execGateLoadCalendar
  refine ⟨_, rfl, ?_⟩
  try dsimp only
  repeat' first
    | intro _
    | with_reducible assumption
    | with_reducible apply inv_answerCalendar
    | with_reducible apply inv_elapse
    | with_reducible apply inv_serve

theorem inv_answerLock (r : GateRequest) {s : State} (h : s.Inv) :
    (State.answerLock r s).Inv := by
  unfold State.answerLock
  try dsimp only
  repeat' first
    | with_reducible assumption
    | with_reducible apply inv_consume
    | with_reducible apply inv_putParam
    | with_reducible apply inv_refuseGate
    | with_reducible apply inv_traceLogged
    | with_reducible apply inv_unfault
    | with_reducible apply inv_ite

theorem inv_execGateSetOwnerLock (dt : Ticks) {s : State} (h : s.Inv) :
    ∃ t, execGateSetOwnerLock dt s = .next t ∧ t.Inv := by
  unfold execGateSetOwnerLock
  refine ⟨_, rfl, ?_⟩
  try dsimp only
  repeat' first
    | intro _
    | with_reducible assumption
    | with_reducible apply inv_answerLock
    | with_reducible apply inv_elapse
    | with_reducible apply inv_serve

theorem inv_endLcvScreens {s : State} (h : s.Inv) :
    (State.endLcvScreens s).Inv := by
  unfold State.endLcvScreens
  try dsimp only
  repeat' first
    | intro _
    | with_reducible assumption
    | with_reducible apply inv_modLegal
    | (have hb := ‹Legal.Bounded _›; with_reducible exact hb.congr rfl rfl rfl rfl)

theorem inv_answerWeighBegin (r : GateRequest) {s : State} (h : s.Inv) :
    (State.answerWeighBegin r s).Inv := by
  unfold State.answerWeighBegin
  try dsimp only
  repeat' first
    | intro _
    | with_reducible assumption
    | with_reducible apply inv_answer
    | with_reducible apply inv_endLcvScreens
    | with_reducible apply inv_grossPass
    | with_reducible apply inv_modWeigh
    | with_reducible apply inv_refuseGate
    | with_reducible apply inv_ite
    | split

theorem inv_execGateWeighBegin (dt : Ticks) {s : State} (h : s.Inv) :
    ∃ t, execGateWeighBegin dt s = .next t ∧ t.Inv := by
  unfold execGateWeighBegin
  refine ⟨_, rfl, ?_⟩
  try dsimp only
  repeat' first
    | intro _
    | with_reducible assumption
    | with_reducible apply inv_answerWeighBegin
    | with_reducible apply inv_elapse
    | with_reducible apply inv_serve

theorem inv_accrueNet {s : State} (origin m net : Nat) (h : s.Inv) :
    (State.accrueNet s origin m net).Inv := by
  unfold State.accrueNet
  try dsimp only
  repeat' first
    | intro _
    | with_reducible assumption
    | with_reducible apply inv_logSaturation
    | with_reducible apply inv_modPoint
    | with_reducible apply inv_ite
    | split

theorem inv_handBody {s : State} (body : Bytes) (h : s.Inv) :
    (State.handBody s body).Inv := by
  unfold State.handBody
  try dsimp only
  repeat' first
    | intro _
    | with_reducible assumption
    | with_reducible apply inv_hand
    | with_reducible apply inv_modLegal
    | with_reducible apply inv_ite
    | (have hb := ‹Legal.Bounded _›; with_reducible exact hb.congr rfl rfl rfl rfl)

theorem inv_finalPass {s : State} (m : Nat) (t : Txn) (r : GateRequest) (h : s.Inv) :
    (State.finalPass s m t r).Inv := by
  unfold State.finalPass
  try dsimp only
  repeat' first
    | intro _
    | with_reducible assumption
    | with_reducible apply inv_accrueNet
    | with_reducible apply inv_answer
    | with_reducible apply inv_endLcvScreens
    | with_reducible apply inv_handBody
    | with_reducible apply inv_modWeigh
    | with_reducible apply inv_nextNumber
    | with_reducible apply inv_ite

theorem inv_grossPass {s : State} (m : ℕ) (t : Txn) (r : GateRequest) (h : s.Inv) :
    (State.grossPass s m t r).Inv := by
  unfold State.grossPass
  try dsimp only
  repeat' first
    | with_reducible assumption
    | with_reducible apply inv_answer
    | with_reducible apply inv_endLcvScreens
    | with_reducible apply inv_modWeigh

theorem inv_answerWeighCommit (r : GateRequest) {s : State} (h : s.Inv) :
    (State.answerWeighCommit r s).Inv := by
  unfold State.answerWeighCommit
  try dsimp only
  repeat' first
    | with_reducible assumption
    | with_reducible apply inv_finalPass
    | with_reducible apply inv_grossPass
    | with_reducible apply inv_refuseGate
    | with_reducible apply inv_ite
    | split

theorem inv_execGateWeighCommit (dt : Ticks) {s : State} (h : s.Inv) :
    ∃ t, execGateWeighCommit dt s = .next t ∧ t.Inv := by
  unfold execGateWeighCommit
  refine ⟨_, rfl, ?_⟩
  try dsimp only
  repeat' first
    | intro _
    | with_reducible assumption
    | with_reducible apply inv_answerWeighCommit
    | with_reducible apply inv_elapse
    | with_reducible apply inv_serve

theorem inv_answerWeighCancel (r : GateRequest) {s : State} (h : s.Inv) :
    (State.answerWeighCancel r s).Inv := by
  unfold State.answerWeighCancel
  try dsimp only
  repeat' first
    | with_reducible assumption
    | with_reducible apply inv_answer
    | with_reducible apply inv_cancelTxn
    | with_reducible apply inv_refuseGate
    | with_reducible apply inv_ite
    | split

theorem inv_execGateWeighCancel (dt : Ticks) {s : State} (h : s.Inv) :
    ∃ t, execGateWeighCancel dt s = .next t ∧ t.Inv := by
  unfold execGateWeighCancel
  refine ⟨_, rfl, ?_⟩
  try dsimp only
  repeat' first
    | intro _
    | with_reducible assumption
    | with_reducible apply inv_answerWeighCancel
    | with_reducible apply inv_elapse
    | with_reducible apply inv_serve

theorem inv_answerSealArchive (r : GateRequest) {s : State} (h : s.Inv) :
    (State.answerSealArchive r s).Inv := by
  unfold State.answerSealArchive
  try dsimp only
  repeat' first
    | intro _
    | with_reducible assumption
    | with_reducible apply inv_answer
    | with_reducible apply inv_logBoth
    | with_reducible apply inv_modLegal
    | with_reducible apply inv_nextNumber
    | with_reducible apply inv_refuseGate
    | with_reducible apply inv_ite
    | (have hb := ‹Legal.Bounded _›; exact ⟨hb.events, hb.elseq, Nat.zero_le _, Nat.zero_le _⟩)

theorem inv_execGateSealLogArchive (dt : Ticks) {s : State} (h : s.Inv) :
    ∃ t, execGateSealLogArchive dt s = .next t ∧ t.Inv := by
  unfold execGateSealLogArchive
  refine ⟨_, rfl, ?_⟩
  try dsimp only
  repeat' first
    | intro _
    | with_reducible assumption
    | with_reducible apply inv_answerSealArchive
    | with_reducible apply inv_elapse
    | with_reducible apply inv_serve

theorem inv_answerRegArchive (r : GateRequest) {s : State} (h : s.Inv) :
    (State.answerRegArchive r s).Inv := by
  unfold State.answerRegArchive
  try dsimp only
  repeat' first
    | intro _
    | with_reducible assumption
    | with_reducible apply inv_answer
    | with_reducible apply inv_logBoth
    | with_reducible apply inv_modLegal
    | with_reducible apply inv_modPoint
    | with_reducible apply inv_nextNumber
    | with_reducible apply inv_noteSealFull
    | with_reducible apply inv_refuseGate
    | with_reducible apply inv_ite
    | split
    | (have hb := ‹Legal.Bounded _›; with_reducible exact hb.congr rfl rfl rfl rfl)

theorem inv_execGateRegArchive (dt : Ticks) {s : State} (h : s.Inv) :
    ∃ t, execGateRegArchive dt s = .next t ∧ t.Inv := by
  unfold execGateRegArchive
  refine ⟨_, rfl, ?_⟩
  try dsimp only
  repeat' first
    | intro _
    | with_reducible assumption
    | with_reducible apply inv_answerRegArchive
    | with_reducible apply inv_elapse
    | with_reducible apply inv_serve

end Sys2Proof.Machine
end

