-- ==== Sys2Proof/Laws/InvCalibrate.lean ====
section
/-! SUPPORT. Every operation of Machine/Calibrate.lean keeps the invariant. -/

namespace Sys2Proof.Machine

theorem inv_discardCal {s : State} (cause : ℕ) (origin : ℕ) (h : s.Inv) :
    (State.discardCal s cause origin).Inv := by
  unfold State.discardCal
  try dsimp only
  repeat' first
    | intro _
    | with_reducible assumption
    | with_reducible apply inv_logAt
    | with_reducible apply inv_modLegal
    | (have hb := ‹Legal.Bounded _›; with_reducible exact hb.congr rfl rfl rfl rfl)
    | split

theorem inv_calStep {s : State} (step : ℕ) {f : GateRequest → ℕ → State → State} (hf : ∀ a0 a1 (t : State), t.Inv → (f a0 a1 t).Inv) (h : s.Inv) :
    (State.calStep s step f).Inv := by
  unfold State.calStep
  try dsimp only
  repeat' first
    | with_reducible assumption
    | with_reducible apply inv_noteSealFull
    | with_reducible apply inv_refuseGate
    | apply hf
    | with_reducible apply inv_ite
    | split

theorem inv_calAccept {s : State} (r : GateRequest) (f : CalSeq → CalSeq) (h : s.Inv) :
    (State.calAccept s r f).Inv := by
  unfold State.calAccept
  try dsimp only
  repeat' first
    | intro _
    | with_reducible assumption
    | with_reducible apply inv_modLegal
    | with_reducible apply inv_refuseGate
    | (have hb := ‹Legal.Bounded _›; with_reducible exact hb.congr rfl rfl rfl rfl)

theorem inv_calOpen (r : GateRequest) (m : ℕ) {s : State} (h : s.Inv) :
    (State.calOpen r m s).Inv := by
  unfold State.calOpen
  try dsimp only
  repeat' first
    | intro _
    | with_reducible assumption
    | with_reducible apply inv_modLegal
    | with_reducible apply inv_refuseGate
    | (have hb := ‹Legal.Bounded _›; with_reducible exact hb.congr rfl rfl rfl rfl)

theorem inv_execCalBegin (dt : Ticks) {s : State} (h : s.Inv) :
    ∃ t, execCalBegin dt s = .next t ∧ t.Inv := by
  unfold execCalBegin
  refine ⟨_, rfl, ?_⟩
  try dsimp only
  repeat' first
    | intro _
    | with_reducible assumption
    | with_reducible apply inv_calOpen
    | with_reducible apply inv_calStep
    | with_reducible apply inv_elapse

theorem inv_execCalAbort (dt : Ticks) {s : State} (h : s.Inv) :
    ∃ t, execCalAbort dt s = .next t ∧ t.Inv := by
  unfold execCalAbort
  refine ⟨_, rfl, ?_⟩
  try dsimp only
  repeat' first
    | intro _
    | with_reducible assumption
    | with_reducible apply inv_calStep
    | with_reducible apply inv_discardCal
    | with_reducible apply inv_elapse
    | with_reducible apply inv_refuseGate

theorem inv_execCalIdleTimeout (dt : Ticks) {s : State} (h : s.Inv) :
    ∃ t, execCalIdleTimeout dt s = .next t ∧ t.Inv := by
  unfold execCalIdleTimeout
  refine ⟨_, rfl, ?_⟩
  try dsimp only
  repeat' first
    | with_reducible assumption
    | with_reducible apply inv_discardCal
    | with_reducible apply inv_elapse
    | with_reducible apply inv_ite
    | split

theorem inv_calTakeZero (r : GateRequest) (m : Nat) {s : State} (h : s.Inv) :
    (State.calTakeZero r m s).Inv := by
  unfold State.calTakeZero
  try dsimp only
  repeat' first
    | intro _
    | with_reducible assumption
    | with_reducible apply inv_calAccept
    | with_reducible apply inv_ite

theorem inv_execCalZero (dt : Ticks) {s : State} (h : s.Inv) :
    ∃ t, execCalZero dt s = .next t ∧ t.Inv := by
  unfold execCalZero
  refine ⟨_, rfl, ?_⟩
  try dsimp only
  repeat' first
    | intro _
    | with_reducible assumption
    | with_reducible apply inv_calStep
    | with_reducible apply inv_calTakeZero
    | with_reducible apply inv_elapse

theorem inv_calTakeCorner (r : GateRequest) (m : Nat) {s : State} (h : s.Inv) :
    (State.calTakeCorner r m s).Inv := by
  unfold State.calTakeCorner
  try dsimp only
  repeat' first
    | intro _
    | with_reducible assumption
    | with_reducible apply inv_calAccept
    | with_reducible apply inv_refuseGate
    | with_reducible apply inv_ite
    | split

theorem inv_execCalCorner (dt : Ticks) {s : State} (h : s.Inv) :
    ∃ t, execCalCorner dt s = .next t ∧ t.Inv := by
  unfold execCalCorner
  refine ⟨_, rfl, ?_⟩
  try dsimp only
  repeat' first
    | intro _
    | with_reducible assumption
    | with_reducible apply inv_calStep
    | with_reducible apply inv_calTakeCorner
    | with_reducible apply inv_elapse

theorem inv_calTakeSpan (r : GateRequest) (m : Nat) {s : State} (h : s.Inv) :
    (State.calTakeSpan r m s).Inv := by
  unfold State.calTakeSpan
  try dsimp only
  repeat' first
    | intro _
    | with_reducible assumption
    | with_reducible apply inv_calAccept
    | with_reducible apply inv_refuseGate
    | with_reducible apply inv_ite
    | split

theorem inv_execCalSpan (dt : Ticks) {s : State} (h : s.Inv) :
    ∃ t, execCalSpan dt s = .next t ∧ t.Inv := by
  unfold execCalSpan
  refine ⟨_, rfl, ?_⟩
  try dsimp only
  repeat' first
    | intro _
    | with_reducible assumption
    | with_reducible apply inv_calStep
    | with_reducible apply inv_calTakeSpan
    | with_reducible apply inv_elapse

theorem inv_calTakeElec (r : GateRequest) (m : ℕ) {s : State} (h : s.Inv) :
    (State.calTakeElec r m s).Inv := by
  unfold State.calTakeElec
  try dsimp only
  repeat' first
    | with_reducible assumption
    | with_reducible apply inv_calAccept
    | with_reducible apply inv_refuseGate
    | with_reducible apply inv_ite
    | split

theorem inv_execCalElecRef (dt : Ticks) {s : State} (h : s.Inv) :
    ∃ t, execCalElecRef dt s = .next t ∧ t.Inv := by
  unfold execCalElecRef
  refine ⟨_, rfl, ?_⟩
  try dsimp only
  repeat' first
    | intro _
    | with_reducible assumption
    | with_reducible apply inv_calStep
    | with_reducible apply inv_calTakeElec
    | with_reducible apply inv_elapse

theorem inv_calTakeRref (r : GateRequest) (m : ℕ) {s : State} (h : s.Inv) :
    (State.calTakeRref r m s).Inv := by
  unfold State.calTakeRref
  try dsimp only
  repeat' first
    | with_reducible assumption
    | with_reducible apply inv_calAccept
    | with_reducible apply inv_refuseGate
    | with_reducible apply inv_ite

theorem inv_execCalRref (dt : Ticks) {s : State} (h : s.Inv) :
    ∃ t, execCalRref dt s = .next t ∧ t.Inv := by
  unfold execCalRref
  refine ⟨_, rfl, ?_⟩
  try dsimp only
  repeat' first
    | intro _
    | with_reducible assumption
    | with_reducible apply inv_calStep
    | with_reducible apply inv_calTakeRref
    | with_reducible apply inv_elapse

theorem inv_calEnforce {s : State} (m : Nat) (block : Bytes) (h : s.Inv) :
    (State.calEnforce s m block).Inv := by
  unfold State.calEnforce
  try dsimp only
  repeat' first
    | intro _
    | with_reducible assumption
    | with_reducible apply inv_modLegal
    | with_reducible apply inv_resetInstrument
    | with_reducible apply inv_ite
    | split
    | (have hb := ‹Legal.Bounded _›; with_reducible exact hb.congr rfl rfl rfl rfl)

theorem inv_calWrite (r : GateRequest) (m : Nat) {s : State} (h : s.Inv) :
    (State.calWrite r m s).Inv := by
  unfold State.calWrite
  try dsimp only
  repeat' first
    | intro _
    | with_reducible assumption
    | (have hb := ‹Legal.Bounded _›; exact (hb.putCal _).congr rfl rfl rfl rfl)
    | with_reducible apply inv_answer
    | with_reducible apply inv_calEnforce
    | with_reducible apply inv_logBoth
    | with_reducible apply inv_modLegal
    | with_reducible apply inv_noteSealFull
    | with_reducible apply inv_refuseGate
    | with_reducible apply inv_rewriteSlot6
    | with_reducible apply inv_settleGaps
    | with_reducible apply inv_ite
    | split
    | (have hb := ‹Legal.Bounded _›; with_reducible exact hb.congr rfl rfl rfl rfl)

theorem inv_execCalCommit (dt : Ticks) {s : State} (h : s.Inv) :
    ∃ t, execCalCommit dt s = .next t ∧ t.Inv := by
  unfold execCalCommit
  refine ⟨_, rfl, ?_⟩
  try dsimp only
  repeat' first
    | intro _
    | with_reducible assumption
    | with_reducible apply inv_calStep
    | with_reducible apply inv_calWrite
    | with_reducible apply inv_elapse

end Sys2Proof.Machine
end

