-- ==== Sys2Proof/Laws/InvPanel.lean ====
section
/-! SUPPORT. Every operation of Machine/Panel.lean keeps the invariant. -/

namespace Sys2Proof.Machine

theorem inv_execLegalImageWrite (dt : Ticks) {s : State} (h : s.Inv) :
    ∃ t, execLegalImageWrite dt s = .next t ∧ t.Inv := by
  unfold execLegalImageWrite
  refine ⟨_, rfl, ?_⟩
  try dsimp only
  repeat' first
    | intro _
    | with_reducible assumption
    | with_reducible apply inv_elapse
    | with_reducible apply inv_modDisplay
    | with_reducible apply inv_ite
    | split

theorem inv_showLcv {s : State} (h : s.Inv) :
    (State.showLcv s).Inv := by
  unfold State.showLcv
  try dsimp only
  repeat' first
    | intro _
    | with_reducible assumption
    | with_reducible apply inv_modLegal
    | (have hb := ‹Legal.Bounded _›; with_reducible exact hb.congr rfl rfl rfl rfl)

theorem inv_keyFunction {s : State} (f : ℕ) (h : s.Inv) :
    (State.keyFunction s f).Inv := by
  unfold State.keyFunction
  try dsimp only
  repeat' first
    | with_reducible assumption
    | with_reducible apply inv_showLcv
    | with_reducible apply inv_tareKey
    | with_reducible apply inv_zeroKey
    | with_reducible apply inv_ite
    | split

theorem inv_execKeyPress (dt : Ticks) (key : Nat) (second : Bool) {s : State} (h : s.Inv) :
    ∃ t, execKeyPress dt key second s = .next t ∧ t.Inv := by
  unfold execKeyPress
  refine ⟨_, rfl, ?_⟩
  try dsimp only
  repeat' first
    | intro _
    | with_reducible assumption
    | with_reducible apply inv_elapse
    | with_reducible apply inv_keyFunction
    | with_reducible apply inv_modLegal
    | with_reducible apply inv_ite
    | split
    | (have hb := ‹Legal.Bounded _›; with_reducible exact hb.congr rfl rfl rfl rfl)

theorem inv_execKeyRelease (dt : Ticks) (key : ℕ) {s : State} (h : s.Inv) :
    ∃ t, execKeyRelease dt key s = .next t ∧ t.Inv := by
  unfold execKeyRelease
  refine ⟨_, rfl, ?_⟩
  try dsimp only
  repeat' first
    | intro _
    | with_reducible assumption
    | with_reducible apply inv_elapse
    | with_reducible apply inv_modLegal
    | with_reducible apply inv_ite
    | (have hb := ‹Legal.Bounded _›; with_reducible exact hb.congr rfl rfl rfl rfl)

theorem inv_execKeyStuck (dt : Ticks) (key : ℕ) {s : State} (h : s.Inv) :
    ∃ t, execKeyStuck dt key s = .next t ∧ t.Inv := by
  unfold execKeyStuck
  refine ⟨_, rfl, ?_⟩
  try dsimp only
  repeat' first
    | intro _
    | with_reducible assumption
    | with_reducible apply inv_bump
    | with_reducible apply inv_elapse
    | with_reducible apply inv_modLegal
    | with_reducible apply inv_ite
    | (have hb := ‹Legal.Bounded _›; with_reducible exact hb.congr rfl rfl rfl rfl)

theorem inv_execShowLcvTimeout (dt : Ticks) {s : State} (h : s.Inv) :
    ∃ t, execShowLcvTimeout dt s = .next t ∧ t.Inv := by
  unfold execShowLcvTimeout
  refine ⟨_, rfl, ?_⟩
  try dsimp only
  repeat' first
    | intro _
    | with_reducible assumption
    | with_reducible apply inv_elapse
    | with_reducible apply inv_modLegal
    | with_reducible apply inv_ite
    | (have hb := ‹Legal.Bounded _›; with_reducible exact hb.congr rfl rfl rfl rfl)

theorem inv_execScreenHalfSwitch (dt : Ticks) {s : State} (h : s.Inv) :
    ∃ t, execScreenHalfSwitch dt s = .next t ∧ t.Inv := by
  unfold execScreenHalfSwitch
  refine ⟨_, rfl, ?_⟩
  try dsimp only
  repeat' first
    | intro _
    | with_reducible assumption
    | with_reducible apply inv_elapse
    | with_reducible apply inv_modLegal
    | with_reducible apply inv_ite
    | (have hb := ‹Legal.Bounded _›; with_reducible exact hb.congr rfl rfl rfl rfl)

theorem inv_execRegisterListScreenEnd (dt : Ticks) {s : State} (h : s.Inv) :
    ∃ t, execRegisterListScreenEnd dt s = .next t ∧ t.Inv := by
  unfold execRegisterListScreenEnd
  refine ⟨_, rfl, ?_⟩
  try dsimp only
  repeat' first
    | intro _
    | with_reducible assumption
    | with_reducible apply inv_elapse
    | with_reducible apply inv_modLegal
    | with_reducible apply inv_ite
    | (have hb := ‹Legal.Bounded _›; with_reducible exact hb.congr rfl rfl rfl rfl)
    | split

theorem inv_execLegalErrorFlash (dt : Ticks) {s : State} (h : s.Inv) :
    ∃ t, execLegalErrorFlash dt s = .next t ∧ t.Inv := by
  unfold execLegalErrorFlash
  refine ⟨_, rfl, ?_⟩
  try dsimp only
  repeat' first
    | intro _
    | with_reducible assumption
    | with_reducible apply inv_elapse
    | with_reducible apply inv_modLegal
    | with_reducible apply inv_ite
    | (have hb := ‹Legal.Bounded _›; with_reducible exact hb.congr rfl rfl rfl rfl)

end Sys2Proof.Machine
end

