-- ==== Sys2Proof/Laws/InvCommand.lean ====
section
/-! SUPPORT. Every operation of Machine/Command.lean keeps the invariant. -/

namespace Sys2Proof.Machine

theorem inv_enterCommand {s : State} (c : Call) (e : Entry) (payload : Bytes) (peer : Nat) (h : s.Inv) :
    (State.enterCommand s c e payload peer).Inv := by
  unfold State.enterCommand
  try dsimp only
  repeat' first
    | intro _
    | with_reducible assumption
    | with_reducible apply inv_modHawk
    | with_reducible apply inv_sendResponse
    | with_reducible apply inv_ite
    | split

theorem inv_onCommand {s : State} (c : Call) (opcode : ℕ) (p : Bytes) (ok : Bool) (room : ℕ) {f : InFlight → State → State} (hf : ∀ a0 (t : State), t.Inv → (f a0 t).Inv) (h : s.Inv) :
    (State.onCommand s c opcode p ok room f).Inv := by
  unfold State.onCommand
  try dsimp only
  repeat' first
    | with_reducible assumption
    | with_reducible apply inv_respond
    | apply hf
    | with_reducible apply inv_ite
    | split

theorem inv_reply {s : State} (f : InFlight) (status : Nat) (result : Bytes) (h : s.Inv) :
    (State.reply s f status result).Inv := by
  unfold State.reply
  try dsimp only
  repeat' first
    | with_reducible assumption
    | with_reducible apply inv_respond

end Sys2Proof.Machine
end

