-- ==== Sys2Proof/Laws/InvDisplay.lean ====
section
/-! SUPPORT. Every operation of Machine/Display.lean keeps the invariant. -/

namespace Sys2Proof.Machine

theorem inv_copyLayers {s : State} (h : s.Inv) :
    (State.copyLayers s).Inv := by
  unfold State.copyLayers
  try dsimp only
  repeat' first
    | intro _
    | with_reducible assumption
    | with_reducible apply inv_modDisplay
    | with_reducible apply inv_ite
    | split

theorem inv_finishCommits {s : State} (h : s.Inv) :
    (State.finishCommits s).Inv := by
  unfold State.finishCommits
  try dsimp only
  repeat' first
    | intro _
    | with_reducible assumption
    | with_reducible apply inv_modDisplay
    | with_reducible apply inv_respond
    | with_reducible apply inv_foldl
    | split

theorem inv_writeLedger {s : State} (u : Option EpdUpdate) (h : s.Inv) :
    (State.writeLedger s u).Inv := by
  unfold State.writeLedger
  try dsimp only
  repeat' first
    | intro _
    | with_reducible assumption
    | with_reducible apply inv_modDisplay
    | with_reducible apply inv_ite
    | split

theorem inv_tearLedger {s : State} (h : s.Inv) :
    (State.tearLedger s).Inv := by
  unfold State.tearLedger
  try dsimp only
  repeat' first
    | intro _
    | with_reducible assumption
    | with_reducible apply inv_modDisplay
    | with_reducible apply inv_ite
    | split

theorem inv_startUpdate {s : State} (kind : ℕ) (classes : List ℕ) (counts : List ℕ) (phase : ℕ) (h : s.Inv) :
    (State.startUpdate s kind classes counts phase).Inv := by
  unfold State.startUpdate
  try dsimp only
  repeat' first
    | intro _
    | with_reducible assumption
    | with_reducible apply inv_modAon
    | with_reducible apply inv_modDisplay
    | with_reducible apply inv_writeLedger
    | (have hb := ‹AlwaysOn.Bounded _›; with_reducible exact hb.congr rfl rfl rfl rfl)

theorem inv_epdBoundary {s : State} (dieTemp : ℤ) (h : s.Inv) :
    (State.epdBoundary s dieTemp).Inv := by
  unfold State.epdBoundary
  try dsimp only
  repeat' first
    | with_reducible assumption
    | with_reducible apply inv_modDisplay
    | with_reducible apply inv_startUpdate
    | with_reducible apply inv_ite

theorem inv_beginFrame {s : State} (h : s.Inv) :
    (State.beginFrame s).Inv := by
  unfold State.beginFrame
  try dsimp only
  repeat' first
    | intro _
    | with_reducible assumption
    | with_reducible apply inv_modDisplay
    | with_reducible apply inv_ite

theorem inv_execDisplayFrameBoundary (dt : Ticks) (dieTemp : Int) {s : State} (h : s.Inv) :
    ∃ t, execDisplayFrameBoundary dt dieTemp s = .next t ∧ t.Inv := by
  unfold execDisplayFrameBoundary
  refine ⟨_, rfl, ?_⟩
  try dsimp only
  repeat' first
    | intro _
    | with_reducible assumption
    | with_reducible apply inv_beginFrame
    | with_reducible apply inv_bringIntoForce
    | with_reducible apply inv_copyLayers
    | with_reducible apply inv_elapse
    | with_reducible apply inv_epdBoundary
    | with_reducible apply inv_finishCommits
    | with_reducible apply inv_modDisplay
    | with_reducible apply inv_ite
    | split

theorem inv_execEpdPhaseEnd (dt : Ticks) (rails : List RailSamples) {s : State} (h : s.Inv) :
    ∃ t, execEpdPhaseEnd dt rails s = .next t ∧ t.Inv := by
  unfold execEpdPhaseEnd
  refine ⟨_, rfl, ?_⟩
  try dsimp only
  repeat' first
    | intro _
    | with_reducible assumption
    | with_reducible apply inv_elapse
    | with_reducible apply inv_modAon
    | with_reducible apply inv_modDisplay
    | with_reducible apply inv_ite
    | split
    | (have hb := ‹AlwaysOn.Bounded _›; with_reducible exact hb.congr rfl rfl rfl rfl)

theorem inv_compensate {s : State} (h : s.Inv) :
    (State.compensate s).Inv := by
  unfold State.compensate
  try dsimp only
  repeat' first
    | with_reducible assumption
    | with_reducible apply inv_startUpdate
    | with_reducible apply inv_ite

theorem inv_execEpdUpdateEnd (dt : Ticks) {s : State} (h : s.Inv) :
    ∃ t, execEpdUpdateEnd dt s = .next t ∧ t.Inv := by
  unfold execEpdUpdateEnd
  refine ⟨_, rfl, ?_⟩
  try dsimp only
  repeat' first
    | with_reducible assumption
    | with_reducible apply inv_compensate
    | with_reducible apply inv_elapse
    | with_reducible apply inv_modDisplay
    | with_reducible apply inv_writeLedger
    | with_reducible apply inv_ite
    | split

theorem inv_failTest {s : State} (h : s.Inv) :
    (State.failTest s).Inv := by
  unfold State.failTest
  try dsimp only
  repeat' first
    | intro _
    | with_reducible assumption
    | with_reducible apply inv_modBoot
    | with_reducible apply inv_modDisplay

theorem inv_latchDisplayError {s : State} (h : s.Inv) :
    (State.latchDisplayError s).Inv := by
  unfold State.latchDisplayError
  try dsimp only
  repeat' first
    | intro _
    | with_reducible assumption
    | with_reducible apply inv_modLegal
    | with_reducible apply inv_postEvent
    | with_reducible apply inv_postFault
    | with_reducible apply inv_ite
    | split
    | (have hb := ‹Legal.Bounded _›; with_reducible exact hb.congr rfl rfl rfl rfl)

theorem inv_execDisplaySequencePhaseEnd (dt : Ticks) (mismatch : Bool) {s : State} (h : s.Inv) :
    ∃ t, execDisplaySequencePhaseEnd dt mismatch s = .next t ∧ t.Inv := by
  unfold execDisplaySequencePhaseEnd
  refine ⟨_, rfl, ?_⟩
  try dsimp only
  repeat' first
    | intro _
    | with_reducible assumption
    | with_reducible apply inv_elapse
    | with_reducible apply inv_failTest
    | with_reducible apply inv_latchDisplayError
    | with_reducible apply inv_modBoot
    | with_reducible apply inv_modLegal
    | with_reducible apply inv_ite
    | (have hb := ‹Legal.Bounded _›; with_reducible exact hb.congr rfl rfl rfl rfl)

theorem inv_logStale {s : State} (h : s.Inv) :
    (State.logStale s).Inv := by
  unfold State.logStale
  try dsimp only
  repeat' first
    | with_reducible assumption
    | with_reducible apply inv_logEvent
    | with_reducible apply inv_modDisplay
    | with_reducible apply inv_ite
    | split

theorem inv_execLegalStale (dt : Ticks) {s : State} (h : s.Inv) :
    ∃ t, execLegalStale dt s = .next t ∧ t.Inv := by
  unfold execLegalStale
  refine ⟨_, rfl, ?_⟩
  try dsimp only
  repeat' first
    | with_reducible assumption
    | with_reducible apply inv_elapse
    | with_reducible apply inv_logStale
    | with_reducible apply inv_modDisplay
    | with_reducible apply inv_ite

theorem inv_execVlcdUpdate (dt : Ticks) (dieTemp : ℤ) {s : State} (h : s.Inv) :
    ∃ t, execVlcdUpdate dt dieTemp s = .next t ∧ t.Inv := by
  unfold execVlcdUpdate
  refine ⟨_, rfl, ?_⟩
  try dsimp only
  repeat' first
    | with_reducible assumption
    | with_reducible apply inv_elapse
    | with_reducible apply inv_modDisplay

theorem inv_outputError {s : State} (output : Nat) (h : s.Inv) :
    (State.outputError s output).Inv := by
  unfold State.outputError
  try dsimp only
  repeat' first
    | intro _
    | with_reducible assumption
    | with_reducible apply inv_bump
    | with_reducible apply inv_failTest
    | with_reducible apply inv_latchDisplayError
    | with_reducible apply inv_logEvent
    | with_reducible apply inv_modLegal
    | with_reducible apply inv_ite
    | split
    | (have hb := ‹Legal.Bounded _›; with_reducible exact hb.congr rfl rfl rfl rfl)

theorem inv_suspect {s : State} (output n : Nat) (h : s.Inv) :
    (State.suspect s output n).Inv := by
  unfold State.suspect
  try dsimp only
  repeat' first
    | intro _
    | with_reducible assumption
    | with_reducible apply inv_modDisplay

theorem inv_execReadbackMismatch (dt : Ticks) (output : Nat) (measured : Int) {s : State} (h : s.Inv) :
    ∃ t, execReadbackMismatch dt output measured s = .next t ∧ t.Inv := by
  unfold execReadbackMismatch
  refine ⟨_, rfl, ?_⟩
  try dsimp only
  repeat' first
    | intro _
    | with_reducible assumption
    | with_reducible apply inv_elapse
    | with_reducible apply inv_outputError
    | with_reducible apply inv_suspect
    | with_reducible apply inv_ite
    | split
    | (have hb := ‹Legal.Bounded _›; with_reducible exact hb.congr rfl rfl rfl rfl)

theorem inv_stageComm {s : State} (area : List ℕ) (lit : List ℕ) (h : s.Inv) :
    (State.stageComm s area lit).Inv := by
  unfold State.stageComm
  try dsimp only
  repeat' first
    | with_reducible assumption
    | with_reducible apply inv_modDisplay

theorem inv_discardMasked {s : State} (touched : List Nat) (h : s.Inv) :
    (State.discardMasked s touched).Inv := by
  unfold State.discardMasked
  try dsimp only
  repeat' first
    | with_reducible assumption
    | with_reducible apply inv_blocked
    | with_reducible apply inv_ite
    | split

theorem inv_execCommSegments (dt : Ticks) (c : Call) (p : Bytes) {s : State} (h : s.Inv) :
    ∃ t, execCommSegments dt c p s = .next t ∧ t.Inv := by
  unfold execCommSegments
  refine ⟨_, rfl, ?_⟩
  try dsimp only
  repeat' first
    | intro _
    | with_reducible assumption
    | with_reducible apply inv_discardMasked
    | with_reducible apply inv_elapse
    | with_reducible apply inv_onCommand
    | with_reducible apply inv_reply
    | with_reducible apply inv_stageComm
    | with_reducible apply inv_ite
    | split

theorem inv_execCommDigits (dt : Ticks) (c : Call) (p : Bytes) {s : State} (h : s.Inv) :
    ∃ t, execCommDigits dt c p s = .next t ∧ t.Inv := by
  unfold execCommDigits
  refine ⟨_, rfl, ?_⟩
  try dsimp only
  repeat' first
    | intro _
    | with_reducible assumption
    | with_reducible apply inv_discardMasked
    | with_reducible apply inv_elapse
    | with_reducible apply inv_onCommand
    | with_reducible apply inv_reply
    | with_reducible apply inv_stageComm
    | with_reducible apply inv_ite
    | split

theorem inv_execStatusIcons (dt : Ticks) (c : Call) (p : Bytes) {s : State} (h : s.Inv) :
    ∃ t, execStatusIcons dt c p s = .next t ∧ t.Inv := by
  unfold execStatusIcons
  refine ⟨_, rfl, ?_⟩
  try dsimp only
  repeat' first
    | intro _
    | with_reducible assumption
    | with_reducible apply inv_discardMasked
    | with_reducible apply inv_elapse
    | with_reducible apply inv_modDisplay
    | with_reducible apply inv_onCommand
    | with_reducible apply inv_reply
    | with_reducible apply inv_ite
    | split

theorem inv_execCommCommit (dt : Ticks) (c : Call) (p : Bytes) {s : State} (h : s.Inv) :
    ∃ t, execCommCommit dt c p s = .next t ∧ t.Inv := by
  unfold execCommCommit
  refine ⟨_, rfl, ?_⟩
  try dsimp only
  repeat' first
    | intro _
    | with_reducible assumption
    | with_reducible apply inv_accept
    | with_reducible apply inv_elapse
    | with_reducible apply inv_modDisplay
    | with_reducible apply inv_onCommand
    | with_reducible apply inv_reply
    | with_reducible apply inv_ite

theorem inv_execDisplayStatus (dt : Ticks) (c : Call) (p : Bytes) {s : State} (h : s.Inv) :
    ∃ t, execDisplayStatus dt c p s = .next t ∧ t.Inv := by
  unfold execDisplayStatus
  refine ⟨_, rfl, ?_⟩
  try dsimp only
  repeat' first
    | intro _
    | with_reducible assumption
    | with_reducible apply inv_elapse
    | with_reducible apply inv_onCommand
    | with_reducible apply inv_reply

end Sys2Proof.Machine
end

