-- ==== Sys2Proof/Laws/InvServices.lean ====
section
/-! SUPPORT. Every operation of Machine/Services.lean keeps the invariant. -/

namespace Sys2Proof.Machine

theorem inv_forward {s : State} (c : Call) (opcode : ℕ) (p : Bytes) (ok : Bool) (room : ℕ) (code : ℕ) (h : s.Inv) :
    (State.forward s c opcode p ok room code).Inv := by
  unfold State.forward
  try dsimp only
  repeat' first
    | intro _
    | with_reducible assumption
    | with_reducible apply inv_onCommand
    | with_reducible apply inv_submit

theorem inv_execGetInfo (dt : Ticks) (c : Call) (p : Bytes) {s : State} (h : s.Inv) :
    ∃ t, execGetInfo dt c p s = .next t ∧ t.Inv := by
  unfold execGetInfo
  refine ⟨_, rfl, ?_⟩
  try dsimp only
  repeat' first
    | intro _
    | with_reducible assumption
    | with_reducible apply inv_elapse
    | with_reducible apply inv_onCommand
    | with_reducible apply inv_reply

theorem inv_execReadStatus (dt : Ticks) (c : Call) (p : Bytes) {s : State} (h : s.Inv) :
    ∃ t, execReadStatus dt c p s = .next t ∧ t.Inv := by
  unfold execReadStatus
  refine ⟨_, rfl, ?_⟩
  try dsimp only
  repeat' first
    | with_reducible assumption
    | with_reducible apply inv_elapse
    | with_reducible apply inv_forward

theorem inv_execPing (dt : Ticks) (c : Call) (p : Bytes) {s : State} (h : s.Inv) :
    ∃ t, execPing dt c p s = .next t ∧ t.Inv := by
  unfold execPing
  refine ⟨_, rfl, ?_⟩
  try dsimp only
  repeat' first
    | intro _
    | with_reducible assumption
    | with_reducible apply inv_elapse
    | with_reducible apply inv_onCommand
    | with_reducible apply inv_reply

theorem inv_execGetParamInfo (dt : Ticks) (c : Call) (p : Bytes) {s : State} (h : s.Inv) :
    ∃ t, execGetParamInfo dt c p s = .next t ∧ t.Inv := by
  unfold execGetParamInfo
  refine ⟨_, rfl, ?_⟩
  try dsimp only
  repeat' first
    | intro _
    | with_reducible assumption
    | with_reducible apply inv_elapse
    | with_reducible apply inv_onCommand
    | with_reducible apply inv_reply
    | split

theorem inv_execChainInfo (dt : Ticks) (c : Call) (p : Bytes) {s : State} (h : s.Inv) :
    ∃ t, execChainInfo dt c p s = .next t ∧ t.Inv := by
  unfold execChainInfo
  refine ⟨_, rfl, ?_⟩
  try dsimp only
  repeat' first
    | with_reducible assumption
    | with_reducible apply inv_elapse
    | with_reducible apply inv_forward

theorem inv_execSyncNow (dt : Ticks) (c : Call) (p : Bytes) (latePs : ℕ) {s : State} (h : s.Inv) :
    ∃ t, execSyncNow dt c p latePs s = .next t ∧ t.Inv := by
  unfold execSyncNow
  refine ⟨_, rfl, ?_⟩
  try dsimp only
  repeat' first
    | intro _
    | with_reducible assumption
    | with_reducible apply inv_elapse
    | with_reducible apply inv_ignoreSync
    | with_reducible apply inv_onCommand
    | with_reducible apply inv_reply
    | with_reducible apply inv_syncEvent
    | with_reducible apply inv_ite

theorem inv_execSyncAt (dt : Ticks) (c : Call) (p : Bytes) {s : State} (h : s.Inv) :
    ∃ t, execSyncAt dt c p s = .next t ∧ t.Inv := by
  unfold execSyncAt
  refine ⟨_, rfl, ?_⟩
  try dsimp only
  repeat' first
    | intro _
    | with_reducible assumption
    | with_reducible apply inv_accept
    | with_reducible apply inv_acknowledge
    | with_reducible apply inv_disarmSync
    | with_reducible apply inv_elapse
    | with_reducible apply inv_ignoreSync
    | with_reducible apply inv_modSync
    | with_reducible apply inv_onCommand
    | with_reducible apply inv_reply
    | with_reducible apply inv_ite

theorem inv_execSyncStatus (dt : Ticks) (c : Call) (p : Bytes) {s : State} (h : s.Inv) :
    ∃ t, execSyncStatus dt c p s = .next t ∧ t.Inv := by
  unfold execSyncStatus
  refine ⟨_, rfl, ?_⟩
  try dsimp only
  repeat' first
    | intro _
    | with_reducible assumption
    | with_reducible apply inv_elapse
    | with_reducible apply inv_onCommand
    | with_reducible apply inv_reply

theorem inv_execCalibrate (dt : Ticks) (c : Call) (p : Bytes) {s : State} (h : s.Inv) :
    ∃ t, execCalibrate dt c p s = .next t ∧ t.Inv := by
  unfold execCalibrate
  refine ⟨_, rfl, ?_⟩
  try dsimp only
  repeat' first
    | with_reducible assumption
    | with_reducible apply inv_elapse
    | with_reducible apply inv_forward

theorem inv_execWeighBegin (dt : Ticks) (c : Call) (p : Bytes) {s : State} (h : s.Inv) :
    ∃ t, execWeighBegin dt c p s = .next t ∧ t.Inv := by
  unfold execWeighBegin
  refine ⟨_, rfl, ?_⟩
  try dsimp only
  repeat' first
    | intro _
    | with_reducible assumption
    | with_reducible apply inv_elapse
    | with_reducible apply inv_onCommand
    | with_reducible apply inv_submit

theorem inv_execWeighCommit (dt : Ticks) (c : Call) (p : Bytes) {s : State} (h : s.Inv) :
    ∃ t, execWeighCommit dt c p s = .next t ∧ t.Inv := by
  unfold execWeighCommit
  refine ⟨_, rfl, ?_⟩
  try dsimp only
  repeat' first
    | with_reducible assumption
    | with_reducible apply inv_elapse
    | with_reducible apply inv_forward

theorem inv_execWeighCancel (dt : Ticks) (c : Call) (p : Bytes) {s : State} (h : s.Inv) :
    ∃ t, execWeighCancel dt c p s = .next t ∧ t.Inv := by
  unfold execWeighCancel
  refine ⟨_, rfl, ?_⟩
  try dsimp only
  repeat' first
    | with_reducible assumption
    | with_reducible apply inv_elapse
    | with_reducible apply inv_forward

theorem inv_execProvSamples (dt : Ticks) (c : Call) (p : Bytes) {s : State} (h : s.Inv) :
    ∃ t, execProvSamples dt c p s = .next t ∧ t.Inv := by
  unfold execProvSamples
  refine ⟨_, rfl, ?_⟩
  try dsimp only
  repeat' first
    | intro _
    | with_reducible assumption
    | with_reducible apply inv_elapse
    | with_reducible apply inv_modProv
    | with_reducible apply inv_onCommand
    | with_reducible apply inv_reply
    | with_reducible apply inv_ite

theorem inv_execProvStatus (dt : Ticks) (c : Call) (p : Bytes) {s : State} (h : s.Inv) :
    ∃ t, execProvStatus dt c p s = .next t ∧ t.Inv := by
  unfold execProvStatus
  refine ⟨_, rfl, ?_⟩
  try dsimp only
  repeat' first
    | intro _
    | with_reducible assumption
    | with_reducible apply inv_elapse
    | with_reducible apply inv_onCommand
    | with_reducible apply inv_reply

theorem inv_execReadRegisters (dt : Ticks) (c : Call) (p : Bytes) {s : State} (h : s.Inv) :
    ∃ t, execReadRegisters dt c p s = .next t ∧ t.Inv := by
  unfold execReadRegisters
  refine ⟨_, rfl, ?_⟩
  try dsimp only
  repeat' first
    | with_reducible assumption
    | with_reducible apply inv_elapse
    | with_reducible apply inv_forward

theorem inv_execSignReading (dt : Ticks) (c : Call) (p : Bytes) {s : State} (h : s.Inv) :
    ∃ t, execSignReading dt c p s = .next t ∧ t.Inv := by
  unfold execSignReading
  refine ⟨_, rfl, ?_⟩
  try dsimp only
  repeat' first
    | with_reducible assumption
    | with_reducible apply inv_elapse
    | with_reducible apply inv_forward

theorem inv_execReadLog (dt : Ticks) (c : Call) (p : Bytes) {s : State} (h : s.Inv) :
    ∃ t, execReadLog dt c p s = .next t ∧ t.Inv := by
  unfold execReadLog
  refine ⟨_, rfl, ?_⟩
  try dsimp only
  repeat' first
    | with_reducible assumption
    | with_reducible apply inv_elapse
    | with_reducible apply inv_forward

theorem inv_execSealLogArchive (dt : Ticks) (c : Call) (p : Bytes) {s : State} (h : s.Inv) :
    ∃ t, execSealLogArchive dt c p s = .next t ∧ t.Inv := by
  unfold execSealLogArchive
  refine ⟨_, rfl, ?_⟩
  try dsimp only
  repeat' first
    | with_reducible assumption
    | with_reducible apply inv_elapse
    | with_reducible apply inv_forward

theorem inv_execRegArchive (dt : Ticks) (c : Call) (p : Bytes) {s : State} (h : s.Inv) :
    ∃ t, execRegArchive dt c p s = .next t ∧ t.Inv := by
  unfold execRegArchive
  refine ⟨_, rfl, ?_⟩
  try dsimp only
  repeat' first
    | with_reducible assumption
    | with_reducible apply inv_elapse
    | with_reducible apply inv_forward

theorem inv_execReadExternal (dt : Ticks) (c : Call) (p : Bytes) {s : State} (h : s.Inv) :
    ∃ t, execReadExternal dt c p s = .next t ∧ t.Inv := by
  unfold execReadExternal
  refine ⟨_, rfl, ?_⟩
  try dsimp only
  repeat' first
    | intro _
    | with_reducible assumption
    | with_reducible apply inv_elapse
    | with_reducible apply inv_onCommand
    | with_reducible apply inv_reply
    | with_reducible apply inv_ite

theorem inv_execGetTime (dt : Ticks) (c : Call) (p : Bytes) {s : State} (h : s.Inv) :
    ∃ t, execGetTime dt c p s = .next t ∧ t.Inv := by
  unfold execGetTime
  refine ⟨_, rfl, ?_⟩
  try dsimp only
  repeat' first
    | intro _
    | with_reducible assumption
    | with_reducible apply inv_elapse
    | with_reducible apply inv_onCommand
    | with_reducible apply inv_reply

theorem inv_execSetTime (dt : Ticks) (c : Call) (p : Bytes) {s : State} (h : s.Inv) :
    ∃ t, execSetTime dt c p s = .next t ∧ t.Inv := by
  unfold execSetTime
  refine ⟨_, rfl, ?_⟩
  try dsimp only
  repeat' first
    | with_reducible assumption
    | with_reducible apply inv_elapse
    | with_reducible apply inv_forward

theorem inv_execDiscipline (dt : Ticks) (c : Call) (p : Bytes) {s : State} (h : s.Inv) :
    ∃ t, execDiscipline dt c p s = .next t ∧ t.Inv := by
  unfold execDiscipline
  refine ⟨_, rfl, ?_⟩
  try dsimp only
  repeat' first
    | intro _
    | with_reducible assumption
    | with_reducible apply inv_disciplineOffset
    | with_reducible apply inv_elapse
    | with_reducible apply inv_onCommand
    | with_reducible apply inv_reply
    | with_reducible apply inv_ite

theorem inv_execLoadCalendar (dt : Ticks) (c : Call) (p : Bytes) {s : State} (h : s.Inv) :
    ∃ t, execLoadCalendar dt c p s = .next t ∧ t.Inv := by
  unfold execLoadCalendar
  refine ⟨_, rfl, ?_⟩
  try dsimp only
  repeat' first
    | with_reducible assumption
    | with_reducible apply inv_elapse
    | with_reducible apply inv_forward

theorem inv_execReadCalendar (dt : Ticks) (c : Call) (p : Bytes) {s : State} (h : s.Inv) :
    ∃ t, execReadCalendar dt c p s = .next t ∧ t.Inv := by
  unfold execReadCalendar
  refine ⟨_, rfl, ?_⟩
  try dsimp only
  repeat' first
    | intro _
    | with_reducible assumption
    | with_reducible apply inv_elapse
    | with_reducible apply inv_onCommand
    | with_reducible apply inv_reply
    | with_reducible apply inv_ite

theorem inv_execTariffStatus (dt : Ticks) (c : Call) (p : Bytes) {s : State} (h : s.Inv) :
    ∃ t, execTariffStatus dt c p s = .next t ∧ t.Inv := by
  unfold execTariffStatus
  refine ⟨_, rfl, ?_⟩
  try dsimp only
  repeat' first
    | intro _
    | with_reducible assumption
    | with_reducible apply inv_elapse
    | with_reducible apply inv_onCommand
    | with_reducible apply inv_reply

theorem inv_execSetOwnerLock (dt : Ticks) (c : Call) (p : Bytes) {s : State} (h : s.Inv) :
    ∃ t, execSetOwnerLock dt c p s = .next t ∧ t.Inv := by
  unfold execSetOwnerLock
  refine ⟨_, rfl, ?_⟩
  try dsimp only
  repeat' first
    | with_reducible assumption
    | with_reducible apply inv_elapse
    | with_reducible apply inv_forward

theorem inv_execOwnerStatus (dt : Ticks) (c : Call) (p : Bytes) {s : State} (h : s.Inv) :
    ∃ t, execOwnerStatus dt c p s = .next t ∧ t.Inv := by
  unfold execOwnerStatus
  refine ⟨_, rfl, ?_⟩
  try dsimp only
  repeat' first
    | intro _
    | with_reducible assumption
    | with_reducible apply inv_elapse
    | with_reducible apply inv_onCommand
    | with_reducible apply inv_reply

theorem inv_execAttest (dt : Ticks) (c : Call) (p : Bytes) {s : State} (h : s.Inv) :
    ∃ t, execAttest dt c p s = .next t ∧ t.Inv := by
  unfold execAttest
  refine ⟨_, rfl, ?_⟩
  try dsimp only
  repeat' first
    | with_reducible assumption
    | with_reducible apply inv_elapse
    | with_reducible apply inv_forward

theorem inv_execReadCert (dt : Ticks) (c : Call) (p : Bytes) {s : State} (h : s.Inv) :
    ∃ t, execReadCert dt c p s = .next t ∧ t.Inv := by
  unfold execReadCert
  refine ⟨_, rfl, ?_⟩
  try dsimp only
  repeat' first
    | intro _
    | with_reducible assumption
    | with_reducible apply inv_elapse
    | with_reducible apply inv_onCommand
    | with_reducible apply inv_reply
    | with_reducible apply inv_ite
    | split

theorem inv_execEntropyStatus (dt : Ticks) (c : Call) (p : Bytes) {s : State} (h : s.Inv) :
    ∃ t, execEntropyStatus dt c p s = .next t ∧ t.Inv := by
  unfold execEntropyStatus
  refine ⟨_, rfl, ?_⟩
  try dsimp only
  repeat' first
    | intro _
    | with_reducible assumption
    | with_reducible apply inv_elapse
    | with_reducible apply inv_onCommand
    | with_reducible apply inv_reply

theorem inv_execDiagCounters (dt : Ticks) (c : Call) (p : Bytes) {s : State} (h : s.Inv) :
    ∃ t, execDiagCounters dt c p s = .next t ∧ t.Inv := by
  unfold execDiagCounters
  refine ⟨_, rfl, ?_⟩
  try dsimp only
  repeat' first
    | intro _
    | with_reducible assumption
    | with_reducible apply inv_elapse
    | with_reducible apply inv_onCommand
    | with_reducible apply inv_reply

theorem inv_execSeparationTest (dt : Ticks) (c : Call) (p : Bytes) {s : State} (h : s.Inv) :
    ∃ t, execSeparationTest dt c p s = .next t ∧ t.Inv := by
  unfold execSeparationTest
  refine ⟨_, rfl, ?_⟩
  try dsimp only
  repeat' first
    | intro _
    | with_reducible assumption
    | with_reducible apply inv_blocked
    | with_reducible apply inv_elapse
    | with_reducible apply inv_onCommand
    | with_reducible apply inv_reply
    | with_reducible apply inv_foldl

end Sys2Proof.Machine
end

