-- ==== Sys2Proof/Laws/InvRetained.lean ====
section
/-! SUPPORT. Every operation of Machine/Retained.lean keeps the invariant. -/

namespace Sys2Proof.Machine

theorem aon_store {a : AlwaysOn} (source : ℕ) (level : ℕ) (h : a.Bounded) :
    (AlwaysOn.store a source level).Bounded := by
  unfold AlwaysOn.store
  split
  · exact h.congr rfl rfl rfl rfl
  · refine ⟨?_, h.sec, h.frac, h.trim⟩
    simp only [List.length_append, List.length_singleton]
    omega

theorem aon_switch {a : AlwaysOn} (source : ℕ) (before : Bool) (after : Bool) (h : a.Bounded) :
    (AlwaysOn.switch a source before after).Bounded := by
  unfold AlwaysOn.switch
  have k := aon_store source (b2n after) h
  dsimp only
  split
  · exact h
  · split
    · exact k
    · split <;> exact k.congr rfl rfl rfl rfl

theorem aon_sample {a : AlwaysOn} (l : PinLevels) (h : a.Bounded) : (AlwaysOn.sample a l).Bounded := by
  unfold AlwaysOn.sample
  dsimp only
  split
  · exact h.congr rfl rfl rfl rfl
  · exact (aon_switch _ _ _ (aon_switch _ _ _ (aon_switch _ _ _ h))).congr rfl rfl rfl rfl

theorem inv_openSession {s : State} (time : ℕ) (rtc : Bool) (h : s.Inv) :
    (State.openSession s time rtc).Inv := by
  unfold State.openSession
  try dsimp only
  repeat' first
    | intro _
    | with_reducible assumption
    | with_reducible apply inv_logBoth
    | with_reducible apply inv_modLegal
    | with_reducible apply inv_tell
    | (have hb := ‹Legal.Bounded _›; with_reducible exact hb.congr rfl rfl rfl rfl)

theorem inv_closeSession {s : State} (time : ℕ) (rtc : Bool) (h : s.Inv) :
    (State.closeSession s time rtc).Inv := by
  unfold State.closeSession
  try dsimp only
  repeat' first
    | intro _
    | with_reducible assumption
    | with_reducible apply inv_discardCal
    | with_reducible apply inv_logBoth
    | with_reducible apply inv_modLegal
    | with_reducible apply inv_tell
    | (have hb := ‹Legal.Bounded _›; with_reducible exact hb.congr rfl rfl rfl rfl)

theorem inv_logTamper {s : State} (e : RetainedEntry) (code : ℕ) (counter : ℕ) (lows : ℕ) (h : s.Inv) :
    (State.logTamper s e code counter lows).Inv := by
  unfold State.logTamper
  try dsimp only
  repeat' first
    | with_reducible assumption
    | with_reducible apply inv_logAt

theorem inv_logOutage {s : State} (e : RetainedEntry) (h : s.Inv) :
    (State.logOutage s e).Inv := by
  unfold State.logOutage
  try dsimp only
  repeat' first
    | with_reducible assumption
    | with_reducible apply inv_drawFree
    | with_reducible apply inv_logAt
    | with_reducible apply inv_ite

theorem inv_drainEntry {x : State × Nat × Nat} (e : RetainedEntry) (h : x.1.Inv) :
    (drainEntry x e).1.Inv := by
  unfold drainEntry
  try dsimp only
  repeat' first
    | intro _
    | with_reducible assumption
    | with_reducible apply inv_closeSession
    | with_reducible apply inv_logBoth
    | with_reducible apply inv_logOutage
    | with_reducible apply inv_logTamper
    | with_reducible apply inv_modBoot
    | with_reducible apply inv_openSession
    | with_reducible apply inv_ite
    | split

theorem aon_remove {a : AlwaysOn} (n : ℕ) (c : List ℕ) (h : a.Bounded) : (AlwaysOn.remove a n c).Bounded :=
  ⟨(List.length_drop ▸ Nat.sub_le ..).trans h.buffer, h.sec, h.frac, h.trim⟩

theorem inv_logLost {s : State} (a : AlwaysOn) (c : List ℕ) (h : s.Inv) :
    (State.logLost s a c).Inv := by
  unfold State.logLost
  try dsimp only
  repeat' first
    | with_reducible assumption
    | with_reducible apply inv_logEvent
    | with_reducible apply inv_warn
    | with_reducible apply inv_ite

theorem inv_drainEpoch {s : State} (h : s.Inv) :
    (State.drainEpoch s).Inv := by
  unfold State.drainEpoch
  try dsimp only
  repeat' first
    | intro _
    | with_reducible assumption
    | with_reducible apply inv_modAon
    | with_reducible apply inv_ite
    | split
    | (have hb := ‹AlwaysOn.Bounded _›; with_reducible exact hb.congr rfl rfl rfl rfl)

theorem inv_drainCommit {s : State} (h : s.Inv) :
    (State.drainCommit s).Inv := by
  unfold State.drainCommit
  try dsimp only
  repeat' first
    | intro _
    | with_reducible assumption
    | with_reducible apply inv_drainEntry
    | with_reducible apply inv_foldl
    | with_reducible apply inv_logLost
    | with_reducible apply inv_modLegal
    | with_reducible apply wf_foldl
    | with_reducible apply inv_foldl
    | with_reducible apply inv_foldl_fst
    | with_reducible apply inv_ite
    | (have hb := ‹Legal.Bounded _›; with_reducible exact hb.congr rfl rfl rfl rfl)

theorem inv_drainRemove {s : State} (h : s.Inv) : (State.drainRemove s).Inv :=
  inv_modAon (fun _ hx => aon_remove _ _ hx) h

theorem inv_drainNew {s : State} (h : s.Inv) : (State.drainNew s).Inv :=
  inv_modAon (fun _ hx => hx.congr rfl rfl rfl rfl) (inv_drainRemove (inv_drainCommit (inv_drainEpoch h)))

theorem inv_drainPending {s : State} (h : s.Inv) :
    (State.drainPending s).Inv := by
  unfold State.drainPending
  try dsimp only
  repeat' first
    | with_reducible assumption
    | with_reducible apply inv_drainRemove
    | with_reducible apply inv_ite
    | split

theorem inv_drain {s : State} (h : s.Inv) :
    (State.drain s).Inv := by
  unfold State.drain
  try dsimp only
  repeat' first
    | with_reducible assumption
    | with_reducible apply inv_drainNew
    | with_reducible apply inv_drainPending
    | with_reducible apply inv_ite
    | split
    | intro _
    | with_reducible apply aon_remove

theorem inv_drainCut (committed : Bool) {s : State} (h : s.Inv) :
    (State.drainCut committed s).Inv := by
  unfold State.drainCut
  try dsimp only
  repeat' first
    | with_reducible assumption
    | with_reducible apply inv_drainCommit
    | with_reducible apply inv_drainEpoch
    | with_reducible apply inv_drainPending
    | with_reducible apply inv_ite
    | split

theorem inv_execTamperSample (dt : Ticks) (levels : PinLevels) {s : State} (h : s.Inv) :
    ∃ t, execTamperSample dt levels s = .next t ∧ t.Inv := by
  unfold execTamperSample
  refine ⟨_, rfl, ?_⟩
  try dsimp only
  repeat' first
    | intro _
    | with_reducible assumption
    | with_reducible apply aon_sample
    | with_reducible apply inv_elapse
    | with_reducible apply inv_modAon
    | with_reducible apply inv_ite

theorem inv_execRetainedDrain (dt : Ticks) {s : State} (h : s.Inv) :
    ∃ t, execRetainedDrain dt s = .next t ∧ t.Inv := by
  unfold execRetainedDrain
  refine ⟨_, rfl, ?_⟩
  try dsimp only
  repeat' first
    | with_reducible assumption
    | with_reducible apply inv_drain
    | with_reducible apply inv_elapse
    | with_reducible apply inv_ite

theorem inv_execAonPowerUp (dt : Ticks) (levels : PinLevels) {s : State} (h : s.Inv) :
    ∃ t, execAonPowerUp dt levels s = .next t ∧ t.Inv :=
  ⟨_, rfl, inv_ite (inv_elapse dt h) (inv_modAon (fun _ _ => ⟨Nat.zero_le _, Nat.zero_lt_succ _, Nat.zero_lt_succ _, ⟨show (-512 : ℤ) ≤ 0 by decide, show (0 : ℤ) ≤ 511 by decide⟩⟩)
    (inv_elapse dt h))⟩

theorem inv_execAonSupplyLoss (dt : Ticks) {s : State} (h : s.Inv) :
    ∃ t, execAonSupplyLoss dt s = .next t ∧ t.Inv := by
  unfold execAonSupplyLoss
  refine ⟨_, rfl, ?_⟩
  try dsimp only
  repeat' first
    | intro _
    | with_reducible assumption
    | with_reducible apply inv_elapse
    | with_reducible apply inv_modAon
    | with_reducible apply inv_ite
    | (have hb := ‹AlwaysOn.Bounded _›; with_reducible exact hb.congr rfl rfl rfl rfl)

theorem inv_execMainPowerReturn (dt : Ticks) {s : State} (h : s.Inv) :
    ∃ t, execMainPowerReturn dt s = .next t ∧ t.Inv := by
  refine ⟨_, rfl, inv_ite (inv_elapse dt h) (inv_modAon (fun a ha => ?_) (inv_elapse dt h))⟩
  split
  · exact (aon_store _ _ ha).congr rfl rfl rfl rfl
  · exact ha.congr rfl rfl rfl rfl

end Sys2Proof.Machine
end

