-- ==== Sys2Proof/Laws/InvMbus.lean ====
section
/-! SUPPORT. Every operation of Machine/Mbus.lean keeps the invariant. -/

namespace Sys2Proof.Machine

theorem inv_modMbus {s : State} (i : ℕ) (f : MbusEntry → MbusEntry) (h : s.Inv) :
    (State.modMbus s i f).Inv := by
  unfold State.modMbus
  try dsimp only
  repeat' first
    | with_reducible assumption
    | with_reducible apply inv_modPorts

theorem inv_mbusNke {s : State} (h : s.Inv) :
    (State.mbusNke s).Inv := by
  unfold State.mbusNke
  try dsimp only
  repeat' first
    | intro _
    | with_reducible assumption
    | with_reducible apply inv_emit
    | with_reducible apply inv_modPorts
    | with_reducible apply inv_foldl

theorem inv_mbusStart {s : State} (h : s.Inv) :
    (State.mbusStart s).Inv := by
  unfold State.mbusStart
  try dsimp only
  repeat' first
    | with_reducible assumption
    | with_reducible apply inv_mbusNke
    | with_reducible apply inv_modPorts
    | with_reducible apply inv_ite

theorem inv_sendRequest {s : State} (i : ℕ) (a : ℕ) (h : s.Inv) :
    (State.sendRequest s i a).Inv := by
  unfold State.sendRequest
  try dsimp only
  repeat' first
    | with_reducible assumption
    | with_reducible apply inv_emit
    | with_reducible apply inv_modPorts

theorem inv_sendSelect {s : State} (i : ℕ) (h : s.Inv) :
    (State.sendSelect s i).Inv := by
  unfold State.sendSelect
  try dsimp only
  repeat' first
    | with_reducible assumption
    | with_reducible apply inv_emit
    | with_reducible apply inv_modPorts

theorem inv_sendPoll {s : State} (i : ℕ) (selecting : Bool) (h : s.Inv) :
    (State.sendPoll s i selecting).Inv := by
  unfold State.sendPoll
  try dsimp only
  repeat' first
    | with_reducible assumption
    | with_reducible apply inv_sendRequest
    | with_reducible apply inv_sendSelect
    | with_reducible apply inv_ite

theorem inv_pollFrom {s : State} (i : ℕ) (h : s.Inv) :
    (State.pollFrom s i).Inv := by
  unfold State.pollFrom
  try dsimp only
  repeat' first
    | with_reducible assumption
    | with_reducible apply inv_modPorts
    | with_reducible apply inv_sendPoll
    | split

end Sys2Proof.Machine
end

