-- ==== Sys2Proof/Laws/InvStores.lean ====
section
/-! SUPPORT. Every operation of Machine/Stores.lean keeps the invariant. -/

namespace Sys2Proof.Machine

theorem inv_identifyFlash {s : State} (reported : Nat) (h : s.Inv) :
    (State.identifyFlash s reported).Inv := by
  unfold State.identifyFlash
  try dsimp only
  repeat' first
    | intro _
    | with_reducible assumption
    | with_reducible apply inv_modFlash
    | with_reducible apply inv_ite
    | split

theorem inv_recoverStores {s : State} (h : s.Inv) :
    (State.recoverStores s).Inv := by
  unfold State.recoverStores
  try dsimp only
  repeat' first
    | intro _
    | with_reducible assumption
    | with_reducible apply inv_bump
    | with_reducible apply inv_modFlash
    | with_reducible apply inv_ite

theorem inv_rebuildStore {s : State} (store : Nat) (h : s.Inv) :
    (State.rebuildStore s store).Inv := by
  unfold State.rebuildStore
  try dsimp only
  repeat' first
    | intro _
    | with_reducible assumption
    | with_reducible apply inv_foldl
    | with_reducible apply inv_modFlash
    | with_reducible apply wf_foldl
    | with_reducible apply inv_foldl
    | with_reducible apply inv_foldl_fst
    | with_reducible apply inv_ite
    | split

end Sys2Proof.Machine
end

