-- ==== Sys2Proof/Laws/InvStart.lean ====
section
/-! SUPPORT. Every operation of Machine/Start.lean keeps the invariant. -/

namespace Sys2Proof.Machine

theorem logs_keep {l : Legal} (h : l.Bounded) :
    (Legal.keep l).Bounded := by
  unfold Legal.keep
  try dsimp only
  repeat' first
    | (have hb := ‹Legal.Bounded _›; with_reducible exact hb.congr rfl rfl rfl rfl)

theorem wf_clearSram {m : MemSys} (h : Memory.wf m.cells = true) : Memory.wf (MemSys.clearSram m).cells = true :=
  Memory.wf_filter _ h

theorem wf_clearLegalSram {m : MemSys} (h : Memory.wf m.cells = true) :
    Memory.wf (MemSys.clearLegalSram m).cells = true := by
  unfold MemSys.clearLegalSram
  try dsimp only
  repeat' first
    | intro _
    | with_reducible assumption

theorem ports_keep {f : Fabric} (_h : f.ports.length = 3) : (Fabric.keep f).ports.length = 3 := by
  unfold Fabric.keep
  exact show Fabric.reset.ports.length = 3 by decide

theorem inv_coldReset {s : State} (cause : ℕ) (h : s.Inv) : (State.coldReset s cause).Inv := by
  have k := logs_keep h.logs
  exact ⟨wf_clearSram h.mem, k.congr rfl rfl rfl rfl, h.aon, show Gate.reset.Bounded from ⟨by decide, by decide⟩,
    List.length_replicate .., (List.length_map ..).trans h.counters,
    (List.length_map ..).trans ((length_numbered _).trans h.points), show Hawk.reset.rings.length = 4 by decide,
    ports_keep h.ports, (List.length_map ..).trans h.components⟩

theorem inv_applyCut {s : State} (c : Cut) (h : s.Inv) : (State.applyCut s c).Inv := by
  unfold State.applyCut
  apply inv_ite h
  split
  · refine inv_ite h (inv_modLegal (fun l hl => ?_) h)
    exact ⟨(List.length_drop ▸ Nat.sub_le ..).trans hl.events, fun w hw => hl.elseq w (List.mem_of_mem_drop hw),
      hl.seals, hl.missed⟩
  · refine inv_ite h (inv_modLegal (fun l hl => ?_) h)
    exact ⟨hl.events, hl.elseq, (List.length_drop ▸ Nat.sub_le ..).trans hl.seals, hl.missed⟩
  · exact inv_modPoint _ _ h
  · exact inv_drainCut _ h
  · exact inv_tearLedger h
  · exact h

theorem inv_freezeIntegrals {s : State} (h : s.Inv) :
    (State.freezeIntegrals s).Inv := by
  unfold State.freezeIntegrals
  try dsimp only
  repeat' first
    | intro _
    | with_reducible assumption
    | with_reducible apply inv_drawFree
    | with_reducible apply inv_modAon
    | with_reducible apply inv_ite
    | (have hb := ‹AlwaysOn.Bounded _›; with_reducible exact hb.congr rfl rfl rfl rfl)
    | split

theorem inv_resetChip {s : State} (cause : ℕ) (cut : Cut) (h : s.Inv) :
    (State.resetChip s cause cut).Inv := by
  unfold State.resetChip
  try dsimp only
  repeat' first
    | with_reducible assumption
    | with_reducible apply inv_applyCut
    | with_reducible apply inv_coldReset
    | with_reducible apply inv_freezeIntegrals

theorem inv_execBrownOut (dt : Ticks) (rail : Rail) (cut : Cut) {s : State} (h : s.Inv) :
    ∃ t, execBrownOut dt rail cut s = .next t ∧ t.Inv := by
  unfold execBrownOut
  refine ⟨_, rfl, ?_⟩
  try dsimp only
  repeat' first
    | intro _
    | with_reducible assumption
    | with_reducible apply inv_elapse
    | with_reducible apply inv_modBoot
    | with_reducible apply inv_resetChip
    | with_reducible apply inv_ite

theorem inv_resetByPin {s : State} (cut : Cut) (h : s.Inv) :
    (State.resetByPin s cut).Inv := by
  unfold State.resetByPin
  try dsimp only
  repeat' first
    | intro _
    | with_reducible assumption
    | with_reducible apply inv_modBoot
    | with_reducible apply inv_resetChip

theorem inv_execResetPinLow (dt : Ticks) (widthNs : Nat) (cut : Cut) {s : State} (h : s.Inv) :
    ∃ t, execResetPinLow dt widthNs cut s = .next t ∧ t.Inv := by
  unfold execResetPinLow
  refine ⟨_, rfl, ?_⟩
  try dsimp only
  repeat' first
    | with_reducible assumption
    | with_reducible apply inv_drawFree
    | with_reducible apply inv_elapse
    | with_reducible apply inv_resetByPin
    | with_reducible apply inv_ite
    | split

theorem inv_execMainPowerLoss (dt : Ticks) (cut : Cut) {s : State} (h : s.Inv) :
    ∃ t, execMainPowerLoss dt cut s = .next t ∧ t.Inv := by
  refine ⟨_, rfl, inv_ite (inv_elapse dt h) (inv_modBoot (fun _ hb => hb) (inv_coldReset _ (inv_freezeIntegrals
    (inv_modAon (fun a ha => ?_) (inv_applyCut _ (inv_elapse dt h))))))⟩
  split
  · exact (aon_store _ _ ha).congr rfl rfl rfl rfl
  · exact ha.congr rfl rfl rfl rfl

theorem inv_reachStage {s : State} (stage : ℕ) (h : s.Inv) :
    (State.reachStage s stage).Inv := by
  unfold State.reachStage
  try dsimp only
  repeat' first
    | intro _
    | with_reducible assumption
    | with_reducible apply inv_modBoot
    | with_reducible apply inv_modHawk

theorem inv_startSession {s : State} (h : s.Inv) :
    (State.startSession s).Inv := by
  unfold State.startSession
  try dsimp only
  repeat' first
    | intro _
    | with_reducible assumption
    | with_reducible apply inv_bringIntoForce
    | with_reducible apply inv_emit
    | with_reducible apply inv_modPorts
    | with_reducible apply inv_postEvent
    | with_reducible apply inv_ite
    | split

theorem inv_enterRecovery {s : State} (h : s.Inv) :
    (State.enterRecovery s).Inv := by
  unfold State.enterRecovery
  try dsimp only
  repeat' first
    | with_reducible assumption
    | with_reducible apply inv_reachStage
    | with_reducible apply inv_startSession

theorem inv_halt {s : State} (code : ℕ) (component : ℕ) (h : s.Inv) :
    (State.halt s code component).Inv := by
  unfold State.halt
  try dsimp only
  repeat' first
    | with_reducible assumption
    | with_reducible apply inv_bootError
    | with_reducible apply inv_reachStage

theorem inv_feStart {s : State} (h : s.Inv) : (State.feStart s).Inv := by
  unfold State.feStart
  dsimp only
  exact inv_modFabric (fun _ _ => (List.length_map ..).trans (by decide)) h

theorem inv_handHeld (n : ℕ) : ∀ {s : State}, s.Inv → (State.handHeld n s).Inv := by
  induction n with
  | zero => intro s h; exact h
  | succ n ih =>
    intro s h
    unfold State.handHeld
    split
    · exact h
    · split
      · exact ih (inv_tell _ (inv_modLegal (fun _ hl => hl.congr rfl rfl rfl rfl) h))
      · exact h

theorem inv_handOver {s : State} (h : s.Inv) :
    (State.handOver s).Inv := by
  unfold State.handOver
  try dsimp only
  repeat' first
    | intro _
    | with_reducible assumption
    | with_reducible apply inv_handHeld
    | with_reducible apply inv_logEvent
    | with_reducible apply inv_modLegal
    | with_reducible apply inv_ite
    | (have hb := ‹Legal.Bounded _›; with_reducible exact hb.congr rfl rfl rfl rfl)

theorem inv_finishAppActivation {s : State} (h : s.Inv) :
    (State.finishAppActivation s).Inv := by
  unfold State.finishAppActivation
  try dsimp only
  repeat' first
    | intro _
    | with_reducible assumption
    | with_reducible apply inv_modPorts
    | with_reducible apply inv_modUpdate
    | with_reducible apply inv_pushEntry
    | with_reducible apply inv_ite
    | split

theorem inv_becomeReady {s : State} (h : s.Inv) : (State.becomeReady s).Inv :=
  inv_handOver (inv_mbusStart (inv_startSession (inv_foldl (fun _ _ ht => inv_postEvent _ _ ht) _
    (inv_postEvent _ _ (inv_modBoot (fun _ hb => hb) (inv_finishAppActivation
      (inv_modHawk (fun _ _ => show readyRings.length = 4 by decide) (inv_reachStage _ h))))))))

theorem inv_appStart {s : State} (env : StartEnv) (h : s.Inv) :
    (State.appStart s env).Inv := by
  unfold State.appStart
  try dsimp only
  repeat' first
    | intro _
    | with_reducible assumption
    | with_reducible apply inv_becomeReady
    | with_reducible apply inv_feStart
    | with_reducible apply inv_modBoot
    | with_reducible apply inv_recoverStores
    | with_reducible apply inv_ite
    | split

theorem inv_afterLegal {s : State} (env : StartEnv) (h : s.Inv) :
    (State.afterLegal s env).Inv := by
  unfold State.afterLegal
  try dsimp only
  repeat' first
    | with_reducible assumption
    | with_reducible apply inv_appStart
    | with_reducible apply inv_enterRecovery
    | with_reducible apply inv_ite

theorem logs_setCounter {l : Legal} (i : ℕ) (v : ℕ) (h : l.Bounded) :
    (Legal.setCounter l i v).Bounded := by
  unfold Legal.setCounter
  try dsimp only
  repeat' first
    | (have hb := ‹Legal.Bounded _›; with_reducible exact hb.congr rfl rfl rfl rfl)
    | split

theorem inv_restoreCounter {s : State} (c : BadCounter) (h : s.Inv) :
    (State.restoreCounter s c).Inv := by
  unfold State.restoreCounter
  try dsimp only
  repeat' first
    | intro _
    | with_reducible assumption
    | with_reducible apply inv_logEvent
    | with_reducible apply inv_modLegal
    | with_reducible apply inv_ite
    | split
    | (have hb := ‹Legal.Bounded _›; with_reducible exact hb.congr rfl rfl rfl rfl)
    | with_reducible apply logs_setCounter

theorem inv_recoverBank {s : State} (m : ℕ) (h : s.Inv) :
    (State.recoverBank s m).Inv := by
  unfold State.recoverBank
  try dsimp only
  repeat' first
    | with_reducible assumption
    | with_reducible apply inv_logEvent
    | with_reducible apply inv_modPoint
    | with_reducible apply inv_postFault
    | with_reducible apply inv_ite

theorem inv_recoverCal {s : State} (h : s.Inv) :
    (State.recoverCal s).Inv := by
  unfold State.recoverCal
  try dsimp only
  repeat' first
    | intro _
    | with_reducible assumption
    | with_reducible apply inv_logEvent
    | with_reducible apply inv_modLegal
    | with_reducible apply inv_postFault
    | with_reducible apply inv_ite
    | split
    | (have hb := ‹Legal.Bounded _›; with_reducible exact hb.congr rfl rfl rfl rfl)

theorem inv_cancelOpen {s : State} (m : ℕ) (h : s.Inv) :
    (State.cancelOpen s m).Inv := by
  unfold State.cancelOpen
  try dsimp only
  repeat' first
    | with_reducible assumption
    | with_reducible apply inv_cancelTxn
    | with_reducible apply inv_warn
    | with_reducible apply inv_ite

theorem inv_readSeal {s : State} (h : s.Inv) :
    (State.readSeal s).Inv := by
  unfold State.readSeal
  try dsimp only
  repeat' first
    | intro _
    | with_reducible assumption
    | with_reducible apply inv_closeSession
    | with_reducible apply inv_modLegal
    | with_reducible apply inv_openSession
    | with_reducible apply inv_ite
    | (have hb := ‹Legal.Bounded _›; with_reducible exact hb.congr rfl rfl rfl rfl)
    | split

theorem inv_logStart {s : State} (full : Bool) (h : s.Inv) :
    (State.logStart s full).Inv := by
  unfold State.logStart
  try dsimp only
  repeat' first
    | intro _
    | with_reducible assumption
    | with_reducible apply inv_logEvent
    | with_reducible apply inv_modBoot
    | with_reducible apply inv_ite
    | with_reducible apply inv_foldl
    | split

theorem inv_closeLost {s : State} (m : Nat) (h : s.Inv) :
    (State.closeLost s m).Inv := by
  unfold State.closeLost
  try dsimp only
  repeat' first
    | intro _
    | with_reducible assumption
    | with_reducible apply inv_closeInterval
    | with_reducible apply inv_modPoint
    | with_reducible apply inv_ite
    | split

theorem inv_checkKeys {s : State} (env : StartEnv) (h : s.Inv) :
    (State.checkKeys s env).Inv := by
  unfold State.checkKeys
  try dsimp only
  repeat' first
    | intro _
    | with_reducible assumption
    | with_reducible apply inv_logEvent
    | with_reducible apply inv_modLegal
    | with_reducible apply inv_postFault
    | with_reducible apply inv_ite
    | (have hb := ‹Legal.Bounded _›; with_reducible exact hb.congr rfl rfl rfl rfl)

theorem inv_enableAll {s : State} (full : Bool) (env : StartEnv) (h : s.Inv) : (State.enableAll s full env).Inv := by
  unfold State.enableAll
  dsimp only
  have k : (if full then s.modMod (fun m => { m with
      source := if s.prefersMclk && env.mclkTrack then .mclk else .xoMod
      halfRate := s.pnum 0x8011 == 1 }) else s).Inv := inv_ite (inv_modMod _ h) h
  revert k
  generalize (if full then s.modMod (fun m => { m with
      source := if s.prefersMclk && env.mclkTrack then .mclk else .xoMod
      halfRate := s.pnum 0x8011 == 1 }) else s) = u
  intro k
  refine inv_settleGaps (inv_resumeCommits (inv_refLoss (inv_seeSetDiags (inv_foldl
    (fun _ _ ht => inv_resetChain _ ht) _ (inv_openGaps _ _ (inv_bringIntoForce _ (inv_modBoot (fun _ hb => hb) ?_)))))))
  exact ⟨k.mem, k.logs, k.aon, k.gate, k.channels,
    (List.length_map ..).trans ((length_numbered _).trans k.counters), k.points, k.rings, k.ports, k.components⟩

theorem inv_logImages {s : State} (h : s.Inv) :
    (State.logImages s).Inv := by
  unfold State.logImages
  try dsimp only
  repeat' first
    | intro _
    | with_reducible assumption
    | with_reducible apply inv_logBoth
    | with_reducible apply inv_logEvent
    | with_reducible apply inv_modBoot
    | with_reducible apply inv_modLegal
    | with_reducible apply inv_ite
    | (have hb := ‹Legal.Bounded _›; with_reducible exact hb.congr rfl rfl rfl rfl)

theorem inv_restoreLedger {s : State} (h : s.Inv) :
    (State.restoreLedger s).Inv := by
  unfold State.restoreLedger
  try dsimp only
  repeat' first
    | intro _
    | with_reducible assumption
    | with_reducible apply inv_bump
    | with_reducible apply inv_compensate
    | with_reducible apply inv_foldl
    | with_reducible apply inv_logEvent
    | with_reducible apply inv_modDisplay
    | with_reducible apply inv_warn
    | with_reducible apply inv_writeLedger
    | with_reducible apply wf_foldl
    | with_reducible apply inv_foldl
    | with_reducible apply inv_foldl_fst
    | with_reducible apply inv_ite
    | split

theorem inv_startDisplay {s : State} (full : Bool) (h : s.Inv) :
    (State.startDisplay s full).Inv := by
  unfold State.startDisplay
  try dsimp only
  repeat' first
    | intro _
    | with_reducible assumption
    | with_reducible apply inv_modBoot
    | with_reducible apply inv_modDisplay
    | with_reducible apply inv_restoreLedger
    | with_reducible apply inv_ite
    | split

theorem inv_abortSlots {s : State} (h : s.Inv) :
    (State.abortSlots s).Inv := by
  unfold State.abortSlots
  try dsimp only
  repeat' first
    | intro _
    | with_reducible assumption
    | with_reducible apply inv_answer
    | with_reducible apply inv_modGate
    | with_reducible apply inv_foldl
    | (have hb := ‹Gate.Bounded _›; with_reducible exact hb.congr rfl)

theorem inv_legalStart {s : State} (full : Bool) (env : StartEnv) (h : s.Inv) :
    (State.legalStart s full env).Inv := by
  unfold State.legalStart
  try dsimp only
  repeat' first
    | intro _
    | with_reducible assumption
    | with_reducible apply inv_abortSlots
    | with_reducible apply inv_afterLegal
    | with_reducible apply inv_cancelOpen
    | with_reducible apply inv_checkKeys
    | with_reducible apply inv_closeLost
    | with_reducible apply inv_closeSession
    | with_reducible apply inv_discardCal
    | with_reducible apply inv_drain
    | with_reducible apply inv_enableAll
    | with_reducible apply inv_foldl
    | with_reducible apply inv_logEvent
    | with_reducible apply inv_logImages
    | with_reducible apply inv_logStale
    | with_reducible apply inv_logStart
    | with_reducible apply inv_modBoot
    | with_reducible apply inv_modLegal
    | with_reducible apply inv_modMem
    | with_reducible apply inv_readSeal
    | with_reducible apply inv_recoverBank
    | with_reducible apply inv_recoverCal
    | with_reducible apply inv_restoreCounter
    | with_reducible apply inv_rewriteSlot6
    | with_reducible apply inv_rewriteSlot7
    | with_reducible apply inv_startDisplay
    | with_reducible apply wf_foldl
    | with_reducible apply inv_foldl
    | with_reducible apply wf_foldl
    | with_reducible apply inv_ite
    | split
    | (have hb := ‹Legal.Bounded _›; with_reducible exact hb.congr rfl rfl rfl rfl)

theorem inv_enterLegal {s : State} (full : Bool) (env : StartEnv) (h : s.Inv) :
    (State.enterLegal s full env).Inv := by
  unfold State.enterLegal
  try dsimp only
  repeat' first
    | intro _
    | with_reducible assumption
    | with_reducible apply inv_legalStart
    | with_reducible apply inv_modBoot
    | with_reducible apply inv_ite
    | split

theorem inv_noLegalImage {s : State} (h : s.Inv) :
    (State.noLegalImage s).Inv := by
  unfold State.noLegalImage
  try dsimp only
  repeat' first
    | intro _
    | with_reducible assumption
    | with_reducible apply inv_bootError
    | with_reducible apply inv_enterRecovery
    | with_reducible apply inv_modBoot
    | with_reducible apply inv_stopImages

theorem inv_judgeApp {s : State} (h : s.Inv) :
    (State.judgeApp s).Inv := by
  unfold State.judgeApp
  try dsimp only
  repeat' first
    | with_reducible assumption
    | with_reducible apply inv_bootError
    | with_reducible apply inv_stopImages
    | with_reducible apply inv_ite

theorem inv_startImages {s : State} (env : StartEnv) (h : s.Inv) :
    (State.startImages s env).Inv := by
  unfold State.startImages
  try dsimp only
  repeat' first
    | intro _
    | with_reducible assumption
    | with_reducible apply inv_enterLegal
    | with_reducible apply inv_foldl
    | with_reducible apply inv_halt
    | with_reducible apply inv_identifyFlash
    | with_reducible apply inv_judgeApp
    | with_reducible apply inv_modBoot
    | with_reducible apply inv_noLegalImage
    | with_reducible apply inv_selectImage
    | with_reducible apply wf_foldl
    | with_reducible apply inv_foldl
    | with_reducible apply inv_ite
    | split

theorem inv_seedDrbg {s : State} (h : s.Inv) :
    (State.seedDrbg s).Inv := by
  unfold State.seedDrbg
  try dsimp only
  repeat' first
    | (have hb := ‹State.Inv _›; with_reducible exact hb.congr rfl rfl rfl rfl rfl rfl rfl rfl rfl rfl)

theorem inv_countTrip {s : State} (rct : Bool) (h : s.Inv) :
    (State.countTrip s rct).Inv := by
  unfold State.countTrip
  try dsimp only
  repeat' first
    | with_reducible assumption
    | with_reducible apply inv_modCrypto

theorem inv_runStartTests {s : State} (noise : BitVec 1024) (h : s.Inv) : (State.runStartTests s noise).2.Inv := by
  unfold State.runStartTests
  dsimp only
  exact inv_modCrypto _ h

theorem inv_tryEntropy {s : State} (noise : BitVec 1024) (env : StartEnv) (h : s.Inv) :
    (State.tryEntropy s noise env).Inv := by
  unfold State.tryEntropy
  try dsimp only
  repeat' first
    | intro _
    | with_reducible assumption
    | with_reducible apply inv_runStartTests
    | with_reducible apply inv_announce
    | with_reducible apply inv_bump
    | with_reducible apply inv_countTrip
    | with_reducible apply inv_drawFree
    | with_reducible apply inv_modBoot
    | with_reducible apply inv_modCrypto
    | with_reducible apply inv_postFault
    | with_reducible apply inv_seedDrbg
    | with_reducible apply inv_startImages
    | with_reducible apply inv_warn
    | with_reducible apply inv_ite
    | split

theorem inv_startMemory {s : State} (env : StartEnv) (h : s.Inv) :
    (State.startMemory s env).Inv := by
  unfold State.startMemory
  try dsimp only
  repeat' first
    | intro _
    | with_reducible assumption
    | with_reducible apply inv_modBoot
    | with_reducible apply inv_tryEntropy

theorem inv_seedTime {s : State} (h : s.Inv) :
    (State.seedTime s).Inv := by
  unfold State.seedTime
  try dsimp only
  repeat' first
    | intro _
    | with_reducible assumption
    | with_reducible apply inv_modAon
    | with_reducible apply inv_modNtu
    | with_reducible apply inv_warn
    | with_reducible apply inv_ite
    | (have hb := ‹AlwaysOn.Bounded _›; with_reducible exact hb.congr rfl rfl rfl rfl)

theorem inv_startClocks {s : State} (env : StartEnv) (h : s.Inv) :
    (State.startClocks s env).Inv := by
  unfold State.startClocks
  try dsimp only
  repeat' first
    | intro _
    | with_reducible assumption
    | with_reducible apply inv_halt
    | with_reducible apply inv_modBoot
    | with_reducible apply inv_modNtu
    | with_reducible apply inv_seedTime
    | with_reducible apply inv_startMemory
    | with_reducible apply inv_ite

theorem inv_release {s : State} (env : StartEnv) (h : s.Inv) :
    (State.release s env).Inv := by
  unfold State.release
  try dsimp only
  repeat' first
    | intro _
    | with_reducible assumption
    | with_reducible apply inv_halt
    | with_reducible apply inv_modBoot
    | with_reducible apply inv_putSlot
    | with_reducible apply inv_startClocks
    | with_reducible apply inv_ite
    | split

theorem inv_execResetRelease (dt : Ticks) (env : StartEnv) {s : State} (h : s.Inv) :
    ∃ t, execResetRelease dt env s = .next t ∧ t.Inv := by
  unfold execResetRelease
  refine ⟨_, rfl, ?_⟩
  try dsimp only
  repeat' first
    | with_reducible assumption
    | with_reducible apply inv_elapse
    | with_reducible apply inv_release
    | with_reducible apply inv_ite

theorem inv_execEntropyStartRetry (dt : Ticks) (noise : BitVec 1024) (env : StartEnv) {s : State} (h : s.Inv) :
    ∃ t, execEntropyStartRetry dt noise env s = .next t ∧ t.Inv := by
  unfold execEntropyStartRetry
  refine ⟨_, rfl, ?_⟩
  try dsimp only
  repeat' first
    | with_reducible assumption
    | with_reducible apply inv_elapse
    | with_reducible apply inv_tryEntropy
    | with_reducible apply inv_ite
    | split

theorem inv_execXtalMainTimeout (dt : Ticks) {s : State} (h : s.Inv) :
    ∃ t, execXtalMainTimeout dt s = .next t ∧ t.Inv := by
  unfold execXtalMainTimeout
  refine ⟨_, rfl, ?_⟩
  try dsimp only
  repeat' first
    | with_reducible assumption
    | with_reducible apply inv_elapse
    | with_reducible apply inv_halt
    | with_reducible apply inv_ite

theorem inv_execPllLockTimeout (dt : Ticks) {s : State} (h : s.Inv) :
    ∃ t, execPllLockTimeout dt s = .next t ∧ t.Inv := by
  unfold execPllLockTimeout
  refine ⟨_, rfl, ?_⟩
  try dsimp only
  repeat' first
    | with_reducible assumption
    | with_reducible apply inv_elapse
    | with_reducible apply inv_halt
    | with_reducible apply inv_ite

theorem inv_execSystemReset (dt : Ticks) (c : Call) (p : Bytes) (env : StartEnv) {s : State} (h : s.Inv) :
    ∃ t, execSystemReset dt c p env s = .next t ∧ t.Inv := by
  unfold execSystemReset
  refine ⟨_, rfl, ?_⟩
  try dsimp only
  repeat' first
    | intro _
    | with_reducible assumption
    | with_reducible apply inv_elapse
    | with_reducible apply inv_onCommand
    | with_reducible apply inv_release
    | with_reducible apply inv_reply
    | with_reducible apply inv_resetChip

end Sys2Proof.Machine
end

