-- ==== Sys2Proof/Laws/InvCrypto.lean ====
section
/-! SUPPORT. Every operation of Machine/Crypto.lean keeps the invariant. -/

namespace Sys2Proof.Machine

theorem inv_drbgBytes {s : State} (n : ℕ) (h : s.Inv) :
    (State.drbgBytes s n).2.Inv := by
  unfold State.drbgBytes
  try dsimp only
  repeat' first
    | with_reducible assumption
    | with_reducible apply inv_modCrypto

theorem inv_reseed {s : State} (h : s.Inv) :
    (State.reseed s).Inv := by
  unfold State.reseed
  try dsimp only
  repeat' first
    | (have hb := ‹State.Inv _›; with_reducible exact hb.congr rfl rfl rfl rfl rfl rfl rfl rfl rfl rfl)

theorem inv_openContext {s : State} (i : Nat) (byLc : Bool) (prio : Nat) (owner : Origin) (call : Option Call) (job : CryptoJob) (h : s.Inv) :
    (State.openContext s i byLc prio owner call job).Inv := by
  unfold State.openContext
  try dsimp only
  repeat' first
    | intro _
    | with_reducible assumption
    | with_reducible apply inv_modCrypto
    | with_reducible apply inv_ite
    | split

theorem inv_closeContext {s : State} (i : ℕ) (h : s.Inv) :
    (State.closeContext s i).Inv := by
  unfold State.closeContext
  try dsimp only
  repeat' first
    | with_reducible assumption
    | with_reducible apply inv_modCrypto

theorem inv_dropJob {s : State} (n : ℕ) (h : s.Inv) :
    (State.dropJob s n).Inv := by
  unfold State.dropJob
  try dsimp only
  repeat' first
    | with_reducible assumption
    | with_reducible apply inv_closeContext
    | with_reducible apply inv_modCrypto
    | split

theorem inv_execCryptoPreempt (dt : Ticks) {s : State} (h : s.Inv) :
    ∃ t, execCryptoPreempt dt s = .next t ∧ t.Inv := by
  unfold execCryptoPreempt
  refine ⟨_, rfl, ?_⟩
  try dsimp only
  repeat' first
    | with_reducible assumption
    | with_reducible apply inv_elapse
    | with_reducible apply inv_modCrypto
    | with_reducible apply inv_openContext
    | with_reducible apply inv_ite
    | split

theorem inv_putKey {s : State} (n : ℕ) (k : Option KeySlot) (h : s.Inv) :
    (State.putKey s n k).Inv := by
  unfold State.putKey
  try dsimp only
  repeat' first
    | with_reducible assumption
    | with_reducible apply inv_modCrypto

theorem inv_work {s : State} (key : Bytes) (job : CryptoJob) (h : s.Inv) :
    (State.work s key job).2.2.Inv := by
  unfold State.work
  try dsimp only
  repeat' first
    | with_reducible assumption
    | with_reducible apply inv_drbgBytes
    | with_reducible apply inv_putKey
    | with_reducible apply inv_reseed
    | split

theorem inv_completeJob {s : State} (x : Context) (status : Nat) (result : Bytes) (h : s.Inv) :
    (State.completeJob s x status result).Inv := by
  unfold State.completeJob
  try dsimp only
  repeat' first
    | intro _
    | with_reducible assumption
    | with_reducible apply inv_modCrypto
    | with_reducible apply inv_respond
    | with_reducible apply inv_ite
    | split

theorem inv_execCryptoJobComplete (dt : Ticks) (ctx : Nat) {s : State} (h : s.Inv) :
    ∃ t, execCryptoJobComplete dt ctx s = .next t ∧ t.Inv := by
  unfold execCryptoJobComplete
  refine ⟨_, rfl, ?_⟩
  try dsimp only
  repeat' first
    | with_reducible assumption
    | with_reducible apply inv_work
    | with_reducible apply inv_closeContext
    | with_reducible apply inv_completeJob
    | with_reducible apply inv_elapse
    | with_reducible apply inv_work
    | with_reducible apply inv_ite
    | split

theorem inv_abortJobs {s : State} (owner : Origin) (h : s.Inv) :
    (State.abortJobs s owner).Inv := by
  unfold State.abortJobs
  try dsimp only
  repeat' first
    | intro _
    | with_reducible assumption
    | with_reducible apply inv_completeJob
    | with_reducible apply inv_dropJob
    | with_reducible apply inv_foldl

theorem inv_abortLegalJobs {s : State} (h : s.Inv) :
    (State.abortLegalJobs s).Inv := by
  unfold State.abortLegalJobs
  try dsimp only
  repeat' first
    | intro _
    | with_reducible assumption
    | with_reducible apply inv_closeContext
    | with_reducible apply inv_foldl

theorem inv_startJob {s : State} (f : InFlight) (prio : ℕ) (job : CryptoJob) (h : s.Inv) :
    (State.startJob s f prio job).Inv := by
  unfold State.startJob
  try dsimp only
  repeat' first
    | with_reducible assumption
    | with_reducible apply inv_accept
    | with_reducible apply inv_openContext
    | with_reducible apply inv_reply
    | split

theorem inv_execCtxOpen (dt : Ticks) (c : Call) (p : Bytes) {s : State} (h : s.Inv) :
    ∃ t, execCtxOpen dt c p s = .next t ∧ t.Inv := by
  unfold execCtxOpen
  refine ⟨_, rfl, ?_⟩
  try dsimp only
  repeat' first
    | intro _
    | with_reducible assumption
    | with_reducible apply inv_elapse
    | with_reducible apply inv_onCommand
    | with_reducible apply inv_openContext
    | with_reducible apply inv_reply
    | split

theorem inv_setJob {s : State} (i : ℕ) (x : Context) (job : CryptoJob) (h : s.Inv) :
    (State.setJob s i x job).Inv := by
  unfold State.setJob
  try dsimp only
  repeat' first
    | with_reducible assumption
    | with_reducible apply inv_modCrypto

theorem inv_execCtxUpdate (dt : Ticks) (c : Call) (p : Bytes) {s : State} (h : s.Inv) :
    ∃ t, execCtxUpdate dt c p s = .next t ∧ t.Inv := by
  unfold execCtxUpdate
  refine ⟨_, rfl, ?_⟩
  try dsimp only
  repeat' first
    | intro _
    | with_reducible assumption
    | with_reducible apply inv_elapse
    | with_reducible apply inv_onCommand
    | with_reducible apply inv_reply
    | with_reducible apply inv_setJob
    | with_reducible apply inv_ite
    | split

theorem inv_zeroBuffer {s : State} (f : InFlight) (n : ℕ) (h : s.Inv) :
    (State.zeroBuffer s f n).Inv := by
  unfold State.zeroBuffer
  try dsimp only
  repeat' first
    | intro _
    | with_reducible assumption
    | with_reducible apply inv_modMem
    | with_reducible apply wf_sramWrite
    | with_reducible apply inv_ite

theorem inv_execCtxFinal (dt : Ticks) (c : Call) (p : Bytes) {s : State} (h : s.Inv) :
    ∃ t, execCtxFinal dt c p s = .next t ∧ t.Inv := by
  unfold execCtxFinal
  refine ⟨_, rfl, ?_⟩
  try dsimp only
  repeat' first
    | intro _
    | with_reducible assumption
    | with_reducible apply inv_closeContext
    | with_reducible apply inv_completeJob
    | with_reducible apply inv_elapse
    | with_reducible apply inv_onCommand
    | with_reducible apply inv_reply
    | with_reducible apply inv_zeroBuffer
    | with_reducible apply inv_ite
    | split

theorem inv_execCtxAbort (dt : Ticks) (c : Call) (p : Bytes) {s : State} (h : s.Inv) :
    ∃ t, execCtxAbort dt c p s = .next t ∧ t.Inv := by
  unfold execCtxAbort
  refine ⟨_, rfl, ?_⟩
  try dsimp only
  repeat' first
    | intro _
    | with_reducible assumption
    | with_reducible apply inv_completeJob
    | with_reducible apply inv_dropJob
    | with_reducible apply inv_elapse
    | with_reducible apply inv_onCommand
    | with_reducible apply inv_reply
    | split

theorem inv_execSign (dt : Ticks) (c : Call) (p : Bytes) {s : State} (h : s.Inv) :
    ∃ t, execSign dt c p s = .next t ∧ t.Inv := by
  unfold execSign
  refine ⟨_, rfl, ?_⟩
  try dsimp only
  repeat' first
    | intro _
    | with_reducible assumption
    | with_reducible apply inv_elapse
    | with_reducible apply inv_onCommand
    | with_reducible apply inv_startJob

theorem inv_execVerify (dt : Ticks) (c : Call) (p : Bytes) {s : State} (h : s.Inv) :
    ∃ t, execVerify dt c p s = .next t ∧ t.Inv := by
  unfold execVerify
  refine ⟨_, rfl, ?_⟩
  try dsimp only
  repeat' first
    | intro _
    | with_reducible assumption
    | with_reducible apply inv_elapse
    | with_reducible apply inv_onCommand
    | with_reducible apply inv_startJob

theorem inv_execEcdh (dt : Ticks) (c : Call) (p : Bytes) {s : State} (h : s.Inv) :
    ∃ t, execEcdh dt c p s = .next t ∧ t.Inv := by
  unfold execEcdh
  refine ⟨_, rfl, ?_⟩
  try dsimp only
  repeat' first
    | intro _
    | with_reducible assumption
    | with_reducible apply inv_elapse
    | with_reducible apply inv_onCommand
    | with_reducible apply inv_reply
    | with_reducible apply inv_startJob
    | with_reducible apply inv_ite

theorem inv_execKeygen (dt : Ticks) (c : Call) (p : Bytes) {s : State} (h : s.Inv) :
    ∃ t, execKeygen dt c p s = .next t ∧ t.Inv := by
  unfold execKeygen
  refine ⟨_, rfl, ?_⟩
  try dsimp only
  repeat' first
    | intro _
    | with_reducible assumption
    | with_reducible apply inv_elapse
    | with_reducible apply inv_onCommand
    | with_reducible apply inv_reply
    | with_reducible apply inv_startJob
    | with_reducible apply inv_ite

theorem inv_execKeyLoad (dt : Ticks) (c : Call) (p : Bytes) {s : State} (h : s.Inv) :
    ∃ t, execKeyLoad dt c p s = .next t ∧ t.Inv := by
  unfold execKeyLoad
  refine ⟨_, rfl, ?_⟩
  try dsimp only
  repeat' first
    | intro _
    | with_reducible assumption
    | with_reducible apply inv_elapse
    | with_reducible apply inv_onCommand
    | with_reducible apply inv_putKey
    | with_reducible apply inv_reply
    | with_reducible apply inv_ite

theorem inv_execKeyErase (dt : Ticks) (c : Call) (p : Bytes) {s : State} (h : s.Inv) :
    ∃ t, execKeyErase dt c p s = .next t ∧ t.Inv := by
  unfold execKeyErase
  refine ⟨_, rfl, ?_⟩
  try dsimp only
  repeat' first
    | intro _
    | with_reducible assumption
    | with_reducible apply inv_elapse
    | with_reducible apply inv_onCommand
    | with_reducible apply inv_putKey
    | with_reducible apply inv_reply
    | with_reducible apply inv_ite

theorem inv_execRandom (dt : Ticks) (c : Call) (p : Bytes) {s : State} (h : s.Inv) :
    ∃ t, execRandom dt c p s = .next t ∧ t.Inv := by
  unfold execRandom
  refine ⟨_, rfl, ?_⟩
  try dsimp only
  repeat' first
    | intro _
    | with_reducible assumption
    | with_reducible apply inv_elapse
    | with_reducible apply inv_onCommand
    | with_reducible apply inv_reply
    | with_reducible apply inv_startJob
    | with_reducible apply inv_ite

theorem inv_announceEntropy {s : State} (h : s.Inv) :
    (State.announceEntropy s).Inv := by
  unfold State.announceEntropy
  try dsimp only
  repeat' first
    | with_reducible assumption
    | with_reducible apply inv_announce

theorem inv_holdPorts {s : State} (h : s.Inv) :
    (State.holdPorts s).Inv := by
  unfold State.holdPorts
  try dsimp only
  repeat' first
    | intro _
    | with_reducible assumption
    | with_reducible apply inv_modFabric
    | (have hb := ‹List.length _ = _›; exact (List.length_map ..).trans hb)

theorem inv_entropyFailed {s : State} (h : s.Inv) :
    (State.entropyFailed s).Inv := by
  unfold State.entropyFailed
  try dsimp only
  repeat' first
    | intro _
    | with_reducible assumption
    | with_reducible apply inv_announceEntropy
    | with_reducible apply inv_completeJob
    | with_reducible apply inv_dropJob
    | with_reducible apply inv_holdPorts
    | with_reducible apply inv_modCrypto
    | with_reducible apply inv_postFault
    | with_reducible apply inv_ite
    | with_reducible apply inv_foldl

theorem inv_feedNoise {s : State} (bits : List Bool) (h : s.Inv) : (State.feedNoise s bits).2.Inv := by
  unfold State.feedNoise
  dsimp only
  exact inv_modCrypto _ h

theorem inv_execEntropyHealthFail (dt : Ticks) (bits : List Bool) {s : State} (h : s.Inv) :
    ∃ t, execEntropyHealthFail dt bits s = .next t ∧ t.Inv := by
  unfold execEntropyHealthFail
  refine ⟨_, rfl, ?_⟩
  try dsimp only
  repeat' first
    | with_reducible assumption
    | with_reducible apply inv_feedNoise
    | with_reducible apply inv_bump
    | with_reducible apply inv_countTrip
    | with_reducible apply inv_elapse
    | with_reducible apply inv_entropyFailed
    | with_reducible apply inv_ite
    | split

theorem inv_enterSeeking {s : State} (i : ℕ) (h : s.Inv) :
    (State.enterSeeking s i).Inv := by
  unfold State.enterSeeking
  try dsimp only
  repeat' first
    | with_reducible assumption
    | with_reducible apply inv_drbgBytes
    | with_reducible apply inv_modPort
    | with_reducible apply inv_ite

theorem inv_execEntropySourceRestart (dt : Ticks) (noise : BitVec 1024) {s : State} (h : s.Inv) :
    ∃ t, execEntropySourceRestart dt noise s = .next t ∧ t.Inv := by
  unfold execEntropySourceRestart
  refine ⟨_, rfl, ?_⟩
  try dsimp only
  repeat' first
    | intro _
    | with_reducible assumption
    | with_reducible apply inv_runStartTests
    | with_reducible apply inv_bump
    | with_reducible apply inv_countTrip
    | with_reducible apply inv_elapse
    | with_reducible apply inv_enterSeeking
    | with_reducible apply inv_entropyFailed
    | with_reducible apply inv_foldl
    | with_reducible apply inv_modCrypto
    | with_reducible apply inv_seedDrbg
    | with_reducible apply wf_foldl
    | with_reducible apply inv_foldl
    | with_reducible apply inv_foldl_fst
    | with_reducible apply inv_ite
    | split

theorem inv_execDrbgReseed (dt : Ticks) {s : State} (h : s.Inv) :
    ∃ t, execDrbgReseed dt s = .next t ∧ t.Inv := by
  unfold execDrbgReseed
  refine ⟨_, rfl, ?_⟩
  try dsimp only
  repeat' first
    | with_reducible assumption
    | with_reducible apply inv_elapse
    | with_reducible apply inv_reseed
    | with_reducible apply inv_ite

end Sys2Proof.Machine
end

