-- ==== Sys2Proof/Laws/InvIommu.lean ====
section
/-! SUPPORT. Every operation of Machine/Iommu.lean keeps the invariant. -/

namespace Sys2Proof.Machine

theorem wf_useEntry {m : MemSys} (e : TlbEntry) (h : Memory.wf m.cells = true) :
    Memory.wf (MemSys.useEntry m e).cells = true := by
  unfold MemSys.useEntry
  try dsimp only
  repeat' first
    | with_reducible assumption

theorem wf_translate {m : MemSys} (page : Nat) (write : Bool) (h : Memory.wf m.cells = true) :
    Memory.wf (MemSys.translate m page write).1.cells = true := by
  unfold MemSys.translate
  try dsimp only
  repeat' first
    | intro _
    | with_reducible assumption
    | with_reducible apply wf_useEntry
    | with_reducible apply inv_ite
    | split

theorem wf_pieces {m : MemSys} (iova : ℕ) (n : ℕ) (write : Bool) (h : Memory.wf m.cells = true) :
    Memory.wf (MemSys.pieces m iova n write).1.cells = true := by
  unfold MemSys.pieces
  try dsimp only
  repeat' first
    | with_reducible assumption
    | with_reducible apply wf_translate
    | split

theorem inv_scramble {s : State} (r : Nat × Nat) (h : s.Inv) :
    (State.scramble s r).Inv := by
  unfold State.scramble
  try dsimp only
  repeat' first
    | intro _
    | with_reducible assumption
    | with_reducible apply inv_drawFree
    | with_reducible apply inv_modMem
    | with_reducible apply inv_ite
    | exact Memory.wf_writeBytes _ _ ‹_›

theorem inv_scrambleTransfer {s : State} (p : PoolDesc) (h : s.Inv) :
    (State.scrambleTransfer s p).Inv := by
  unfold State.scrambleTransfer
  try dsimp only
  repeat' first
    | intro _
    | with_reducible assumption
    | with_reducible apply inv_foldl
    | with_reducible apply inv_scramble
    | with_reducible apply wf_foldl
    | with_reducible apply inv_foldl
    | with_reducible apply inv_foldl_fst
    | with_reducible apply inv_ite
    | split

end Sys2Proof.Machine
end

