-- ==== Sys2Proof/Laws/InvFaults.lean ====
section
/-! SUPPORT. Every operation of Machine/Faults.lean keeps the invariant. -/

namespace Sys2Proof.Machine

theorem inv_lcDown {s : State} (kind : ℕ) (fault : ℕ) (h : s.Inv) : (State.lcDown s kind fault).Inv := by
  unfold State.lcDown
  extract_lets u
  have k : u.Inv := inv_abortLegalJobs (inv_openGaps kind fault h)
  clear_value u
  exact ⟨k.mem, logs_keep k.logs, k.aon, k.gate, (List.length_map ..).trans k.channels, k.counters,
    (List.length_map ..).trans ((length_numbered _).trans k.points), k.rings, k.ports, k.components⟩

theorem inv_holdLc {s : State} (h : s.Inv) :
    (State.holdLc s).Inv := by
  unfold State.holdLc
  try dsimp only
  repeat' first
    | intro _
    | with_reducible assumption
    | with_reducible apply inv_answer
    | with_reducible apply inv_modBoot
    | with_reducible apply inv_modGate
    | with_reducible apply inv_stopImages
    | with_reducible apply inv_foldl
    | (have hb := ‹Gate.Bounded _›; with_reducible exact hb.congr rfl)

theorem inv_legalReload {s : State} (revert : Bool) (env : StartEnv) (h : s.Inv) :
    (State.legalReload s revert env).Inv := by
  unfold State.legalReload
  try dsimp only
  repeat' first
    | intro _
    | with_reducible assumption
    | with_reducible apply inv_bootError
    | with_reducible apply inv_enterLegal
    | with_reducible apply inv_foldl
    | with_reducible apply inv_holdLc
    | with_reducible apply inv_noLegalImage
    | with_reducible apply inv_selectImage
    | with_reducible apply wf_foldl
    | with_reducible apply inv_foldl
    | with_reducible apply inv_foldl_fst
    | with_reducible apply inv_ite
    | split

theorem inv_enterLcHalt {s : State} (fault : ℕ) (count : ℕ) (env : StartEnv) (h : s.Inv) :
    (State.enterLcHalt s fault count env).Inv := by
  unfold State.enterLcHalt
  try dsimp only
  repeat' first
    | intro _
    | with_reducible assumption
    | with_reducible apply inv_afterLegal
    | with_reducible apply inv_bootError
    | with_reducible apply inv_holdLc
    | with_reducible apply inv_lcDown
    | with_reducible apply inv_modBoot
    | with_reducible apply inv_postFault

theorem inv_lcRestart {s : State} (fault : ℕ) (cause : ℕ) (env : StartEnv) (h : s.Inv) :
    (State.lcRestart s fault cause env).Inv := by
  unfold State.lcRestart
  try dsimp only
  repeat' first
    | intro _
    | with_reducible assumption
    | with_reducible apply inv_bump
    | with_reducible apply inv_enterLcHalt
    | with_reducible apply inv_lcDown
    | with_reducible apply inv_revertTrial
    | with_reducible apply inv_foldl
    | with_reducible apply inv_legalReload
    | with_reducible apply inv_modBoot
    | with_reducible apply inv_postFault
    | with_reducible apply inv_ite

theorem inv_execLockstepMismatch (dt : Ticks) (env : StartEnv) {s : State} (h : s.Inv) :
    ∃ t, execLockstepMismatch dt env s = .next t ∧ t.Inv := by
  unfold execLockstepMismatch
  refine ⟨_, rfl, ?_⟩
  try dsimp only
  repeat' first
    | with_reducible assumption
    | with_reducible apply inv_elapse
    | with_reducible apply inv_lcRestart
    | with_reducible apply inv_ite

theorem inv_execLcWatchdogExpiry (dt : Ticks) (env : StartEnv) {s : State} (h : s.Inv) :
    ∃ t, execLcWatchdogExpiry dt env s = .next t ∧ t.Inv := by
  unfold execLcWatchdogExpiry
  refine ⟨_, rfl, ?_⟩
  try dsimp only
  repeat' first
    | with_reducible assumption
    | with_reducible apply inv_elapse
    | with_reducible apply inv_lcRestart
    | with_reducible apply inv_ite

theorem inv_execLcIntegrityFault (dt : Ticks) (env : StartEnv) {s : State} (h : s.Inv) :
    ∃ t, execLcIntegrityFault dt env s = .next t ∧ t.Inv := by
  unfold execLcIntegrityFault
  refine ⟨_, rfl, ?_⟩
  try dsimp only
  repeat' first
    | with_reducible assumption
    | with_reducible apply inv_elapse
    | with_reducible apply inv_lcRestart
    | with_reducible apply inv_ite

theorem inv_execLegalStartFail (dt : Ticks) (env : StartEnv) {s : State} (h : s.Inv) :
    ∃ t, execLegalStartFail dt env s = .next t ∧ t.Inv := by
  unfold execLegalStartFail
  refine ⟨_, rfl, ?_⟩
  try dsimp only
  repeat' first
    | with_reducible assumption
    | with_reducible apply inv_bootError
    | with_reducible apply inv_elapse
    | with_reducible apply inv_lcRestart
    | with_reducible apply inv_ite

theorem inv_acDown {s : State} (h : s.Inv) : (State.acDown s).Inv := by
  have k : (s.mem.pool.foldl State.scrambleTransfer s.restartDiscipline).Inv :=
    inv_foldl (fun _ p hp => inv_scrambleTransfer p hp) _ (inv_restartDiscipline h)
  exact ⟨wf_clearSram k.mem, k.logs.congr rfl rfl rfl rfl, k.aon, k.gate, (List.length_map ..).trans k.channels,
    k.counters, (List.length_map ..).trans k.points, show Hawk.reset.rings.length = 4 by decide,
    ports_keep k.ports, k.components⟩

theorem inv_appReload {s : State} (revert : Bool) (env : StartEnv) (h : s.Inv) :
    (State.appReload s revert env).Inv := by
  unfold State.appReload
  try dsimp only
  repeat' first
    | intro _
    | with_reducible assumption
    | with_reducible apply inv_appStart
    | with_reducible apply inv_enterRecovery
    | with_reducible apply inv_judgeApp
    | with_reducible apply inv_selectImage
    | with_reducible apply inv_ite
    | with_reducible apply inv_foldl

theorem inv_acRestart {s : State} (fault : ℕ) (env : StartEnv) (h : s.Inv) :
    (State.acRestart s fault env).Inv := by
  unfold State.acRestart
  try dsimp only
  repeat' first
    | intro _
    | with_reducible assumption
    | with_reducible apply inv_acDown
    | with_reducible apply inv_appReload
    | with_reducible apply inv_bootError
    | with_reducible apply inv_bump
    | with_reducible apply inv_revertTrial
    | with_reducible apply inv_foldl
    | with_reducible apply inv_enterRecovery
    | with_reducible apply inv_modBoot
    | with_reducible apply inv_postFault
    | with_reducible apply inv_stopImages
    | with_reducible apply inv_ite

theorem inv_execAcWatchdogExpiry (dt : Ticks) (env : StartEnv) {s : State} (h : s.Inv) :
    ∃ t, execAcWatchdogExpiry dt env s = .next t ∧ t.Inv := by
  unfold execAcWatchdogExpiry
  refine ⟨_, rfl, ?_⟩
  try dsimp only
  repeat' first
    | with_reducible assumption
    | with_reducible apply inv_acRestart
    | with_reducible apply inv_elapse
    | with_reducible apply inv_ite

theorem inv_execAcIntegrityFault (dt : Ticks) (addr : ℕ) (env : StartEnv) {s : State} (h : s.Inv) :
    ∃ t, execAcIntegrityFault dt addr env s = .next t ∧ t.Inv := by
  unfold execAcIntegrityFault
  refine ⟨_, rfl, ?_⟩
  try dsimp only
  repeat' first
    | intro _
    | with_reducible assumption
    | with_reducible apply inv_acRestart
    | with_reducible apply inv_elapse
    | with_reducible apply inv_modMem
    | with_reducible apply wf_poison
    | with_reducible apply inv_ite

theorem inv_execAppStartFail (dt : Ticks) (env : StartEnv) {s : State} (h : s.Inv) :
    ∃ t, execAppStartFail dt env s = .next t ∧ t.Inv := by
  unfold execAppStartFail
  refine ⟨_, rfl, ?_⟩
  try dsimp only
  repeat' first
    | with_reducible assumption
    | with_reducible apply inv_acRestart
    | with_reducible apply inv_bootError
    | with_reducible apply inv_elapse
    | with_reducible apply inv_ite

end Sys2Proof.Machine
end

