-- ==== Sys2Proof/Laws/InvHawk.lean ====
section
/-! SUPPORT. Every operation of Machine/Hawk.lean keeps the invariant. -/

namespace Sys2Proof.Machine

theorem inv_endFrame {s : State} (code : Nat) (h : s.Inv) :
    (State.endFrame s code).Inv := by
  unfold State.endFrame
  try dsimp only
  repeat' first
    | intro _
    | with_reducible assumption
    | with_reducible apply inv_modHawk
    | with_reducible apply inv_ite
    | split

theorem inv_readRegister {s : State} (off : ℕ) (h : s.Inv) :
    (State.readRegister s off).2.Inv := by
  unfold State.readRegister
  try dsimp only
  repeat' first
    | intro _
    | with_reducible assumption
    | with_reducible apply inv_modHawk
    | with_reducible apply inv_ite
    | split

theorem inv_ringError {s : State} (n : ℕ) (f : Ring → Ring) (h : s.Inv) :
    (State.ringError s n f).Inv := by
  unfold State.ringError
  try dsimp only
  repeat' first
    | intro _
    | with_reducible assumption
    | with_reducible apply inv_modHawk
    | with_reducible apply inv_modRing

theorem inv_enableRing {s : State} (n : Nat) (h : s.Inv) :
    (State.enableRing s n).Inv := by
  unfold State.enableRing
  try dsimp only
  repeat' first
    | intro _
    | with_reducible assumption
    | with_reducible apply inv_modHawk
    | with_reducible apply inv_modRing
    | with_reducible apply inv_postAllHeld
    | with_reducible apply inv_ringError
    | with_reducible apply inv_ite
    | split

theorem inv_abortEntry {s : State} (b : Bytes) (h : s.Inv) :
    (State.abortEntry s b).Inv := by
  unfold State.abortEntry
  try dsimp only
  repeat' first
    | intro _
    | with_reducible assumption
    | with_reducible apply inv_modHawk
    | with_reducible apply inv_pushEntry
    | with_reducible apply inv_ite
    | split

theorem inv_abortUntaken (n : ℕ) : ∀ {s : State}, s.Inv → (State.abortUntaken n s).Inv := by
  induction n with
  | zero => intro s h; exact h
  | succ n ih =>
    intro s h
    unfold State.abortUntaken
    exact inv_ite h (ih (inv_modRing _ _ (inv_abortEntry _ h)))

theorem inv_disableRing {s : State} (n : ℕ) (h : s.Inv) :
    (State.disableRing s n).Inv := by
  unfold State.disableRing
  try dsimp only
  repeat' first
    | with_reducible assumption
    | with_reducible apply inv_abortUntaken
    | with_reducible apply inv_modRing
    | with_reducible apply inv_ite

theorem inv_writeRingCfg {s : State} (n : ℕ) (v : ℕ) (h : s.Inv) :
    (State.writeRingCfg s n v).Inv := by
  unfold State.writeRingCfg
  try dsimp only
  repeat' first
    | with_reducible assumption
    | with_reducible apply inv_disableRing
    | with_reducible apply inv_enableRing
    | with_reducible apply inv_modRing
    | with_reducible apply inv_ringError
    | with_reducible apply inv_ite

theorem inv_writeHead {s : State} (n : ℕ) (v : ℕ) (h : s.Inv) :
    (State.writeHead s n v).2.Inv := by
  unfold State.writeHead
  try dsimp only
  repeat' first
    | intro _
    | with_reducible assumption
    | with_reducible apply inv_postAllHeld
    | with_reducible apply inv_modHawk
    | with_reducible apply inv_modRing
    | with_reducible apply inv_postHeld
    | with_reducible apply inv_ringError
    | with_reducible apply inv_ite
    | split

theorem inv_writeTail {s : State} (v : ℕ) (h : s.Inv) :
    (State.writeTail s v).2.Inv := by
  unfold State.writeTail
  try dsimp only
  repeat' first
    | with_reducible assumption
    | with_reducible apply inv_modRing
    | with_reducible apply inv_ringError
    | split

theorem inv_runHawkReset {s : State} (h : s.Inv) :
    (State.runHawkReset s).Inv := by
  unfold State.runHawkReset
  try dsimp only
  repeat' first
    | intro _
    | with_reducible assumption
    | with_reducible apply inv_disableRing
    | with_reducible apply inv_finishReset
    | with_reducible apply inv_modHawk
    | with_reducible apply inv_foldl

theorem inv_writeRing {s : State} (n : ℕ) (off : ℕ) (v : ℕ) (h : s.Inv) :
    (State.writeRing s n off v).2.Inv := by
  unfold State.writeRing
  try dsimp only
  repeat' first
    | with_reducible assumption
    | with_reducible apply inv_modRing
    | with_reducible apply inv_writeHead
    | with_reducible apply inv_writeRingCfg
    | with_reducible apply inv_writeTail
    | with_reducible apply inv_ite
    | split

theorem inv_writePool {s : State} (off : ℕ) (v : ℕ) (h : s.Inv) :
    (State.writePool s off v).2.Inv := by
  unfold State.writePool
  try dsimp only
  repeat' first
    | intro _
    | with_reducible assumption
    | with_reducible apply inv_modHawk
    | split

theorem inv_writeIrqStatus {s : State} (v : ℕ) (h : s.Inv) :
    (State.writeIrqStatus s v).Inv := by
  unfold State.writeIrqStatus
  try dsimp only
  repeat' first
    | intro _
    | with_reducible assumption
    | with_reducible apply inv_modHawk
    | with_reducible apply inv_ite

theorem inv_writeRegister {s : State} (off : ℕ) (v : Word) (h : s.Inv) :
    (State.writeRegister s off v).2.Inv := by
  unfold State.writeRegister
  try dsimp only
  repeat' first
    | intro _
    | with_reducible assumption
    | with_reducible apply inv_modBoot
    | with_reducible apply inv_modHawk
    | with_reducible apply inv_runHawkReset
    | with_reducible apply inv_writeIrqStatus
    | with_reducible apply inv_writePool
    | with_reducible apply inv_writeRing
    | with_reducible apply inv_ite
    | split

theorem inv_putRegister {x : State × Nat} (w : Nat × Word) (h : x.1.Inv) :
    (State.putRegister x w).1.Inv := by
  unfold State.putRegister
  try dsimp only
  repeat' first
    | with_reducible assumption
    | with_reducible apply inv_writeRegister
    | with_reducible apply inv_ite

theorem inv_regWriteBurst {s : State} (addr : Nat) (words : List Word) (h : s.Inv) :
    (State.regWriteBurst s addr words).Inv := by
  unfold State.regWriteBurst
  try dsimp only
  repeat' first
    | intro _
    | with_reducible assumption
    | with_reducible apply inv_endFrame
    | with_reducible apply inv_foldl
    | with_reducible apply inv_putRegister
    | with_reducible apply wf_foldl
    | with_reducible apply inv_foldl
    | with_reducible apply inv_foldl_fst
    | with_reducible apply inv_ite
    | split

theorem inv_regWriteFrame {s : State} (off : Nat) (v : Word) (h : s.Inv) :
    (State.regWriteFrame s off v).Inv := by
  unfold State.regWriteFrame
  try dsimp only
  repeat' first
    | with_reducible assumption
    | with_reducible apply inv_regWriteBurst

theorem inv_getRegister {x : State × Nat × List Word} (off : Nat) (h : x.1.Inv) :
    (State.getRegister x off).1.Inv := by
  unfold State.getRegister
  try dsimp only
  repeat' first
    | with_reducible assumption
    | with_reducible apply inv_readRegister
    | with_reducible apply inv_ite
    | split

theorem inv_regReadFrame {s : State} (addr nwords : Nat) (h : s.Inv) :
    (State.regReadFrame s addr nwords).Inv := by
  unfold State.regReadFrame
  try dsimp only
  repeat' first
    | intro _
    | with_reducible assumption
    | with_reducible apply inv_endFrame
    | with_reducible apply inv_foldl
    | with_reducible apply inv_getRegister
    | with_reducible apply inv_modHawk
    | with_reducible apply wf_foldl
    | with_reducible apply inv_foldl
    | with_reducible apply inv_foldl_fst
    | with_reducible apply inv_ite
    | split

theorem inv_execRegisterWrite (dt : Ticks) (addr : Nat) (words : List Word) {s : State} (h : s.Inv) :
    ∃ t, execRegisterWrite dt addr words s = .next t ∧ t.Inv := by
  unfold execRegisterWrite
  refine ⟨_, rfl, ?_⟩
  try dsimp only
  repeat' first
    | with_reducible assumption
    | with_reducible apply inv_elapse
    | with_reducible apply inv_regWriteBurst

theorem inv_execResetCauseWrite (dt : Ticks) (value : Word) {s : State} (h : s.Inv) :
    ∃ t, execResetCauseWrite dt value s = .next t ∧ t.Inv := by
  unfold execResetCauseWrite
  refine ⟨_, rfl, ?_⟩
  try dsimp only
  repeat' first
    | with_reducible assumption
    | with_reducible apply inv_elapse
    | with_reducible apply inv_regWriteFrame

theorem inv_execIrqStatusWrite (dt : Ticks) (value : Word) {s : State} (h : s.Inv) :
    ∃ t, execIrqStatusWrite dt value s = .next t ∧ t.Inv := by
  unfold execIrqStatusWrite
  refine ⟨_, rfl, ?_⟩
  try dsimp only
  repeat' first
    | with_reducible assumption
    | with_reducible apply inv_elapse
    | with_reducible apply inv_regWriteFrame

theorem inv_execHawkReset (dt : Ticks) {s : State} (h : s.Inv) :
    ∃ t, execHawkReset dt s = .next t ∧ t.Inv := by
  unfold execHawkReset
  refine ⟨_, rfl, ?_⟩
  try dsimp only
  repeat' first
    | with_reducible assumption
    | with_reducible apply inv_elapse
    | with_reducible apply inv_regWriteFrame

theorem inv_execNodeTimeLatch (dt : Ticks) (addr nwords : Nat) {s : State} (h : s.Inv) :
    ∃ t, execNodeTimeLatch dt addr nwords s = .next t ∧ t.Inv := by
  unfold execNodeTimeLatch
  refine ⟨_, rfl, ?_⟩
  try dsimp only
  repeat' first
    | with_reducible assumption
    | with_reducible apply inv_elapse
    | with_reducible apply inv_regReadFrame

theorem inv_execEventLostRead (dt : Ticks) (nwords : Nat) {s : State} (h : s.Inv) :
    ∃ t, execEventLostRead dt nwords s = .next t ∧ t.Inv := by
  unfold execEventLostRead
  refine ⟨_, rfl, ?_⟩
  try dsimp only
  repeat' first
    | with_reducible assumption
    | with_reducible apply inv_elapse
    | with_reducible apply inv_regReadFrame

theorem inv_execBulkDroppedRead (dt : Ticks) (nwords : Nat) {s : State} (h : s.Inv) :
    ∃ t, execBulkDroppedRead dt nwords s = .next t ∧ t.Inv := by
  unfold execBulkDroppedRead
  refine ⟨_, rfl, ?_⟩
  try dsimp only
  repeat' first
    | with_reducible assumption
    | with_reducible apply inv_elapse
    | with_reducible apply inv_regReadFrame

theorem inv_execCommandDoorbell (dt : Ticks) (tail : Word) {s : State} (h : s.Inv) :
    ∃ t, execCommandDoorbell dt tail s = .next t ∧ t.Inv := by
  unfold execCommandDoorbell
  refine ⟨_, rfl, ?_⟩
  try dsimp only
  repeat' first
    | with_reducible assumption
    | with_reducible apply inv_elapse
    | with_reducible apply inv_regWriteFrame

theorem inv_execRingHeadWrite (dt : Ticks) (ring : ℕ) (head : Word) {s : State} (h : s.Inv) :
    ∃ t, execRingHeadWrite dt ring head s = .next t ∧ t.Inv := by
  unfold execRingHeadWrite
  refine ⟨_, rfl, ?_⟩
  try dsimp only
  repeat' first
    | with_reducible assumption
    | with_reducible apply inv_elapse
    | with_reducible apply inv_regWriteFrame

theorem inv_execRingEnable (dt : Ticks) (ring : ℕ) (cfg : Word) {s : State} (h : s.Inv) :
    ∃ t, execRingEnable dt ring cfg s = .next t ∧ t.Inv := by
  unfold execRingEnable
  refine ⟨_, rfl, ?_⟩
  try dsimp only
  repeat' first
    | with_reducible assumption
    | with_reducible apply inv_elapse
    | with_reducible apply inv_regWriteFrame

theorem inv_execRingDisable (dt : Ticks) (ring : ℕ) (cfg : Word) {s : State} (h : s.Inv) :
    ∃ t, execRingDisable dt ring cfg s = .next t ∧ t.Inv := by
  unfold execRingDisable
  refine ⟨_, rfl, ?_⟩
  try dsimp only
  repeat' first
    | with_reducible assumption
    | with_reducible apply inv_elapse
    | with_reducible apply inv_regWriteFrame

theorem inv_execRingStatusWrite (dt : Ticks) (ring : ℕ) (value : Word) {s : State} (h : s.Inv) :
    ∃ t, execRingStatusWrite dt ring value s = .next t ∧ t.Inv := by
  unfold execRingStatusWrite
  refine ⟨_, rfl, ?_⟩
  try dsimp only
  repeat' first
    | with_reducible assumption
    | with_reducible apply inv_elapse
    | with_reducible apply inv_regWriteFrame

theorem inv_execCoalesceTimerExpiry (dt : Ticks) (ring : ℕ) {s : State} (h : s.Inv) :
    ∃ t, execCoalesceTimerExpiry dt ring s = .next t ∧ t.Inv := by
  unfold execCoalesceTimerExpiry
  refine ⟨_, rfl, ?_⟩
  try dsimp only
  repeat' first
    | with_reducible assumption
    | with_reducible apply inv_elapse

theorem inv_execSpiReservedFrame (dt : Ticks) (code : ℕ) {s : State} (h : s.Inv) :
    ∃ t, execSpiReservedFrame dt code s = .next t ∧ t.Inv := by
  unfold execSpiReservedFrame
  refine ⟨_, rfl, ?_⟩
  try dsimp only
  repeat' first
    | intro _
    | with_reducible assumption
    | with_reducible apply inv_elapse
    | with_reducible apply inv_endFrame
    | with_reducible apply inv_modHawk
    | with_reducible apply inv_ite

theorem inv_readWord (failing : List ℕ) {x : State × ℕ × List Word} (off : ℕ) (h : x.1.Inv) :
    (State.readWord failing x off).1.Inv := by
  unfold State.readWord
  try dsimp only
  repeat' first
    | intro _
    | with_reducible assumption
    | with_reducible apply inv_modMem
    | with_reducible apply wf_poison
    | split

theorem inv_writeWord (failing : List ℕ) (first : ℕ) (last : ℕ) {x : State × ℕ} (w : ℕ × Word) (h : x.1.Inv) :
    (State.writeWord failing first last x w).1.Inv := by
  unfold State.writeWord
  try dsimp only
  repeat' first
    | intro _
    | with_reducible assumption
    | with_reducible apply inv_modMem
    | with_reducible apply wf_poison
    | exact Memory.wf_writeBytes _ _ ‹Memory.wf _ = true›
    | split

theorem inv_writeWords {s : State} (addr : ℕ) (words : List Word) (failing : List ℕ) (h : s.Inv) :
    (State.writeWords s addr words failing).1.Inv := by
  unfold State.writeWords
  try dsimp only
  repeat' first
    | intro _
    | with_reducible assumption
    | with_reducible apply inv_writeWord
    | with_reducible apply inv_foldl_fst

theorem inv_execMemRead (dt : Ticks) (addr : ℕ) (nwords : ℕ) (failing : List ℕ) {s : State} (h : s.Inv) :
    ∃ t, execMemRead dt addr nwords failing s = .next t ∧ t.Inv := by
  unfold execMemRead
  refine ⟨_, rfl, ?_⟩
  try dsimp only
  repeat' first
    | intro _
    | with_reducible assumption
    | with_reducible apply inv_elapse
    | with_reducible apply inv_endFrame
    | with_reducible apply inv_modHawk
    | with_reducible apply inv_readWord
    | with_reducible apply inv_ite
    | with_reducible apply inv_foldl_fst

theorem inv_execMemWrite (dt : Ticks) (addr : ℕ) (words : List Word) (failing : List ℕ) {s : State} (h : s.Inv) :
    ∃ t, execMemWrite dt addr words failing s = .next t ∧ t.Inv := by
  unfold execMemWrite
  refine ⟨_, rfl, ?_⟩
  try dsimp only
  repeat' first
    | with_reducible assumption
    | with_reducible apply inv_elapse
    | with_reducible apply inv_endFrame
    | with_reducible apply inv_writeWords
    | with_reducible apply inv_ite

theorem inv_cutEffect {s : State} (x1 : CutFrame) (h : s.Inv) :
    (State.cutEffect s x1).Inv := by
  unfold State.cutEffect
  try dsimp only
  repeat' first
    | intro _
    | with_reducible assumption
    | with_reducible apply inv_putRegister
    | with_reducible apply inv_getRegister
    | with_reducible apply inv_foldl_fst
    | with_reducible apply inv_readRegister
    | with_reducible apply inv_writeRegister
    | with_reducible apply inv_writeWords
    | with_reducible apply inv_ite
    | with_reducible apply inv_foldl
    | split

theorem inv_countCut {s : State} (h : s.Inv) :
    (State.countCut s).Inv := by
  unfold State.countCut
  try dsimp only
  repeat' first
    | intro _
    | with_reducible assumption
    | with_reducible apply inv_modHawk
    | with_reducible apply inv_ite
    | split

theorem inv_execSpiFrameCut (dt : Ticks) (cut : CutFrame) {s : State} (h : s.Inv) :
    ∃ t, execSpiFrameCut dt cut s = .next t ∧ t.Inv := by
  unfold execSpiFrameCut
  refine ⟨_, rfl, ?_⟩
  try dsimp only
  repeat' first
    | with_reducible assumption
    | with_reducible apply inv_countCut
    | with_reducible apply inv_cutEffect
    | with_reducible apply inv_elapse
    | with_reducible apply inv_endFrame
    | with_reducible apply inv_ite
    | split
    | intro _

theorem inv_zeroBroken {s : State} (e : Entry) (h : s.Inv) : (State.zeroBroken s e).Inv := by
  unfold State.zeroBroken
  dsimp only
  split
  · exact inv_dropJob _ h
  · exact h

theorem inv_takeHost {s : State} (failing : Bool) (h : s.Inv) :
    (State.takeHost s failing).Inv := by
  unfold State.takeHost
  try dsimp only
  repeat' first
    | intro _
    | with_reducible assumption
    | with_reducible apply inv_enterCommand
    | with_reducible apply inv_modMem
    | with_reducible apply inv_modRing
    | with_reducible apply inv_respondHost
    | with_reducible apply inv_zeroBroken
    | with_reducible apply inv_sendResponse
    | with_reducible apply wf_poison
    | with_reducible apply inv_ite
    | split

theorem inv_takeWaiting {s : State} (w : Waiting) (h : s.Inv) :
    (State.takeWaiting s w).Inv := by
  unfold State.takeWaiting
  try dsimp only
  repeat' first
    | intro _
    | with_reducible assumption
    | with_reducible apply inv_enterCommand
    | with_reducible apply inv_modHawk
    | with_reducible apply inv_ite
    | split

theorem inv_execCommandTake (dt : Ticks) (failing : Bool) {s : State} (h : s.Inv) :
    ∃ t, execCommandTake dt failing s = .next t ∧ t.Inv := by
  unfold execCommandTake
  refine ⟨_, rfl, ?_⟩
  try dsimp only
  repeat' first
    | intro _
    | with_reducible assumption
    | with_reducible apply inv_elapse
    | with_reducible apply inv_modHawk
    | with_reducible apply inv_takeHost
    | with_reducible apply inv_takeWaiting
    | with_reducible apply inv_ite
    | split

theorem inv_takeRilfy {s : State} (port : Origin) (content : Option Bytes) (h : s.Inv) :
    (State.takeRilfy s port content).Inv := by
  unfold State.takeRilfy
  try dsimp only
  repeat' first
    | intro _
    | with_reducible assumption
    | with_reducible apply inv_bump
    | with_reducible apply inv_modHawk
    | with_reducible apply inv_modPorts
    | with_reducible apply inv_ite
    | split

theorem inv_execRilfyFrameReceive (dt : Ticks) (port : Origin) (frame : Bytes) {s : State} (h : s.Inv) :
    ∃ t, execRilfyFrameReceive dt port frame s = .next t ∧ t.Inv := by
  unfold execRilfyFrameReceive
  refine ⟨_, rfl, ?_⟩
  try dsimp only
  repeat' first
    | with_reducible assumption
    | with_reducible apply inv_elapse
    | with_reducible apply inv_takeRilfy
    | with_reducible apply inv_ite
    | split

end Sys2Proof.Machine
end

