-- ==== Sys2Proof/Laws/InvFlash.lean ====
section
/-! SUPPORT. Every operation of Machine/Flash.lean keeps the invariant. -/

namespace Sys2Proof.Machine

theorem inv_dropTail {s : State} (store sector : Nat) (h : s.Inv) :
    (State.dropTail s store sector).Inv := by
  unfold State.dropTail
  try dsimp only
  repeat' first
    | intro _
    | with_reducible assumption
    | with_reducible apply inv_bump
    | with_reducible apply inv_modFlash
    | with_reducible apply inv_ite
    | split

theorem inv_beginErase {s : State} (store : ℕ) (sector : ℕ) (h : s.Inv) :
    (State.beginErase s store sector).Inv := by
  unfold State.beginErase
  try dsimp only
  repeat' first
    | with_reducible assumption
    | with_reducible apply inv_dropTail
    | with_reducible apply inv_putWord

theorem inv_beginProgram {s : State} (sector : ℕ) (h : s.Inv) :
    (State.beginProgram s sector).Inv := by
  unfold State.beginProgram
  try dsimp only
  repeat' first
    | with_reducible assumption
    | with_reducible apply inv_putWord
    | with_reducible apply inv_ite

theorem inv_beginJob {s : State} (h : s.Inv) :
    (State.beginJob s).Inv := by
  unfold State.beginJob
  try dsimp only
  repeat' first
    | with_reducible assumption
    | with_reducible apply inv_beginErase
    | with_reducible apply inv_beginProgram
    | split

theorem inv_pushJob {s : State} (j : FlashJob) (h : s.Inv) :
    (State.pushJob s j).Inv := by
  unfold State.pushJob
  try dsimp only
  repeat' first
    | with_reducible assumption
    | with_reducible apply inv_beginJob
    | with_reducible apply inv_modFlash
    | with_reducible apply inv_ite

theorem inv_popJob {s : State} (h : s.Inv) :
    (State.popJob s).Inv := by
  unfold State.popJob
  try dsimp only
  repeat' first
    | with_reducible assumption
    | with_reducible apply inv_beginJob
    | with_reducible apply inv_modFlash

theorem inv_openSector {s : State} (store : ℕ) (h : s.Inv) :
    (State.openSector s store).Inv := by
  unfold State.openSector
  try dsimp only
  repeat' first
    | with_reducible assumption
    | with_reducible apply inv_modFlash
    | with_reducible apply inv_postFault
    | with_reducible apply inv_pushJob
    | with_reducible apply inv_ite
    | split

theorem inv_appendReading {s : State} (reading : Bytes) (h : s.Inv) :
    (State.appendReading s reading).Inv := by
  unfold State.appendReading
  try dsimp only
  repeat' first
    | with_reducible assumption
    | with_reducible apply inv_pushJob

theorem inv_loseArchive {s : State} (n : ℕ) (h : s.Inv) :
    (State.loseArchive s n).Inv := by
  unfold State.loseArchive
  try dsimp only
  repeat' first
    | with_reducible assumption
    | with_reducible apply inv_bump
    | with_reducible apply inv_modFlash

theorem inv_appendArchive {s : State} (record : Bytes) (h : s.Inv) :
    (State.appendArchive s record).Inv := by
  unfold State.appendArchive
  try dsimp only
  repeat' first
    | with_reducible assumption
    | with_reducible apply inv_loseArchive
    | with_reducible apply inv_pushJob
    | with_reducible apply inv_ite
    | split

theorem inv_stagingErased {s : State} (sector : ℕ) (h : s.Inv) :
    (State.stagingErased s sector).Inv := by
  unfold State.stagingErased
  try dsimp only
  repeat' first
    | with_reducible assumption
    | with_reducible apply inv_modUpdate
    | with_reducible apply inv_reply
    | with_reducible apply inv_ite
    | split

theorem inv_dropStagingJobs {s : State} (h : s.Inv) : (State.dropStagingJobs s).Inv := inv_modFlash _ h

theorem inv_stagingFailed {s : State} (h : s.Inv) :
    (State.stagingFailed s).Inv := by
  unfold State.stagingFailed
  try dsimp only
  repeat' first
    | with_reducible assumption
    | with_reducible apply inv_modComponent
    | with_reducible apply inv_modFlash
    | with_reducible apply inv_modUpdate
    | with_reducible apply inv_reply
    | split

theorem inv_eraseGood {s : State} (store : ℕ) (sector : ℕ) (h : s.Inv) :
    (State.eraseGood s store sector).Inv := by
  unfold State.eraseGood
  try dsimp only
  repeat' first
    | intro _
    | with_reducible assumption
    | with_reducible apply inv_modFlash
    | with_reducible apply inv_modMem
    | with_reducible apply inv_popJob
    | with_reducible apply inv_putWord
    | with_reducible apply inv_stagingErased
    | with_reducible apply inv_ite
    | exact Memory.wf_clear _ _ ‹Memory.wf _ = true›

theorem inv_replaceJob {s : State} (j : FlashJob) (h : s.Inv) :
    (State.replaceJob s j).Inv := by
  unfold State.replaceJob
  try dsimp only
  repeat' first
    | with_reducible assumption
    | with_reducible apply inv_beginJob
    | with_reducible apply inv_modFlash

theorem inv_eraseBad {s : State} (store : ℕ) (sector : ℕ) (attempts : ℕ) (h : s.Inv) :
    (State.eraseBad s store sector attempts).Inv := by
  unfold State.eraseBad
  try dsimp only
  repeat' first
    | with_reducible assumption
    | with_reducible apply inv_beginJob
    | with_reducible apply inv_bump
    | with_reducible apply inv_loseArchive
    | with_reducible apply inv_modFlash
    | with_reducible apply inv_openSector
    | with_reducible apply inv_popJob
    | with_reducible apply inv_putWord
    | with_reducible apply inv_replaceJob
    | with_reducible apply inv_stagingFailed
    | with_reducible apply inv_ite
    | split

theorem inv_execFlashEraseComplete (dt : Ticks) (sector : ℕ) (good : Bool) {s : State} (h : s.Inv) :
    ∃ t, execFlashEraseComplete dt sector good s = .next t ∧ t.Inv := by
  unfold execFlashEraseComplete
  refine ⟨_, rfl, ?_⟩
  try dsimp only
  repeat' first
    | with_reducible assumption
    | with_reducible apply inv_elapse
    | with_reducible apply inv_eraseBad
    | with_reducible apply inv_eraseGood
    | with_reducible apply inv_ite
    | split

theorem inv_programAt {s : State} (store : ℕ) (time : ℕ) (bytes : Bytes) (h : s.Inv) :
    (State.programAt s store time bytes).Inv := by
  unfold State.programAt
  dsimp only
  refine inv_modFlash _ (inv_modMem ?_ (inv_ite h (inv_modMem ?_ h))) <;> intro m hm <;> dsimp only
  · apply Memory.wf_writeBytes; exact hm
  · apply Memory.wf_writeBytes; exact hm

theorem inv_execFlashProgramComplete (dt : Ticks) {s : State} (h : s.Inv) :
    ∃ t, execFlashProgramComplete dt s = .next t ∧ t.Inv := by
  unfold execFlashProgramComplete
  refine ⟨_, rfl, ?_⟩
  try dsimp only
  repeat' first
    | with_reducible assumption
    | with_reducible apply inv_elapse
    | with_reducible apply inv_modFlash
    | with_reducible apply inv_popJob
    | with_reducible apply inv_programAt
    | split

theorem inv_execArchiveHeadCommit (dt : Ticks) {s : State} (h : s.Inv) :
    ∃ t, execArchiveHeadCommit dt s = .next t ∧ t.Inv := by
  unfold execArchiveHeadCommit
  refine ⟨_, rfl, ?_⟩
  try dsimp only
  repeat' first
    | intro _
    | with_reducible assumption
    | with_reducible apply inv_elapse
    | with_reducible apply inv_modFlash
    | with_reducible apply inv_ite
    | split

theorem inv_execProfileRead (dt : Ticks) (c : Call) (p : Bytes) {s : State} (h : s.Inv) :
    ∃ t, execProfileRead dt c p s = .next t ∧ t.Inv := by
  unfold execProfileRead
  refine ⟨_, rfl, ?_⟩
  try dsimp only
  repeat' first
    | intro _
    | with_reducible assumption
    | with_reducible apply inv_elapse
    | with_reducible apply inv_onCommand
    | with_reducible apply inv_reply
    | with_reducible apply inv_ite

theorem inv_execProfileStatus (dt : Ticks) (c : Call) (p : Bytes) {s : State} (h : s.Inv) :
    ∃ t, execProfileStatus dt c p s = .next t ∧ t.Inv := by
  unfold execProfileStatus
  refine ⟨_, rfl, ?_⟩
  try dsimp only
  repeat' first
    | intro _
    | with_reducible assumption
    | with_reducible apply inv_elapse
    | with_reducible apply inv_onCommand
    | with_reducible apply inv_reply
    | with_reducible apply inv_ite
    | split

end Sys2Proof.Machine
end

