-- ==== Sys2Proof/Laws/InvSkim.lean ====
section
/-! SUPPORT. Every operation of Machine/Skim.lean keeps the invariant. -/

namespace Sys2Proof.Machine

theorem inv_sendCapture {s : State} (item : Bytes) (h : s.Inv) :
    (State.sendCapture s item).Inv := by
  unfold State.sendCapture
  try dsimp only
  repeat' first
    | intro _
    | with_reducible assumption
    | with_reducible apply inv_capture
    | with_reducible apply inv_emit
    | with_reducible apply inv_ite
    | split

theorem inv_endBlock {s : State} (src : Nat) (h : s.Inv) :
    (State.endBlock s src).Inv := by
  unfold State.endBlock
  try dsimp only
  repeat' first
    | intro _
    | with_reducible assumption
    | with_reducible apply inv_appendArchive
    | with_reducible apply inv_capture
    | with_reducible apply inv_modSkim
    | with_reducible apply inv_offerBulk
    | with_reducible apply inv_sendCapture
    | with_reducible apply inv_ite
    | split

theorem inv_endCapture {s : State} (h : s.Inv) :
    (State.endCapture s).Inv := by
  unfold State.endCapture
  try dsimp only
  repeat' first
    | intro _
    | with_reducible assumption
    | with_reducible apply inv_endBlock
    | with_reducible apply inv_modSkim
    | with_reducible apply inv_respond
    | with_reducible apply inv_foldl
    | split

theorem inv_settleCapture {s : State} (h : s.Inv) :
    (State.settleCapture s).Inv := by
  unfold State.settleCapture
  try dsimp only
  repeat' first
    | with_reducible assumption
    | with_reducible apply inv_endCapture
    | with_reducible apply inv_ite
    | split

theorem inv_addSample {s : State} (pch : ℕ) (value : ℤ) (status : ℕ) (seqNo : ℕ) (time : ℕ) (h : s.Inv) :
    (State.addSample s pch value status seqNo time).Inv := by
  unfold State.addSample
  try dsimp only
  repeat' first
    | with_reducible assumption
    | with_reducible apply inv_endBlock
    | with_reducible apply inv_modSkim
    | with_reducible apply inv_settleCapture
    | with_reducible apply inv_ite
    | split

theorem inv_addExternal {s : State} (n : ℕ) (value : ℤ) (status : ℕ) (h : s.Inv) :
    (State.addExternal s n value status).Inv := by
  unfold State.addExternal
  try dsimp only
  repeat' first
    | intro _
    | with_reducible assumption
    | with_reducible apply inv_modPoint
    | with_reducible apply inv_ite
    | with_reducible apply inv_foldl

theorem inv_takeRecord (n : ℕ) {s : State} (x : Bytes × ℕ) (h : s.Inv) :
    (State.takeRecord n s x).Inv := by
  unfold State.takeRecord
  try dsimp only
  repeat' first
    | with_reducible assumption
    | with_reducible apply inv_addExternal
    | with_reducible apply inv_addSample
    | with_reducible apply inv_ite

theorem inv_takeLine {s : State} (n : ℕ) (h : s.Inv) :
    (State.takeLine s n).Inv := by
  unfold State.takeLine
  try dsimp only
  repeat' first
    | intro _
    | with_reducible assumption
    | with_reducible apply inv_modChannel
    | with_reducible apply inv_modMem
    | with_reducible apply inv_takeRecord
    | with_reducible apply wf_poison
    | with_reducible apply inv_ite
    | with_reducible apply inv_foldl

theorem inv_takeLines (n k : ℕ) : ∀ {s : State}, s.Inv → (State.takeLines s n k).Inv := by
  induction k with
  | zero => intro s h; exact h
  | succ k ih =>
    intro s h
    unfold State.takeLines
    exact inv_ite h (ih (inv_takeLine _ h))

theorem inv_stopCapture {s : State} (h : s.Inv) : (State.stopCapture s).Inv := by
  unfold State.stopCapture
  split
  · exact h
  · exact inv_endCapture (inv_foldl (fun _ _ hs => inv_takeLines _ _ hs) _ h)

theorem inv_finishCapture {s : State} (h : s.Inv) : (State.finishCapture s).Inv := by
  unfold State.finishCapture
  split
  · exact inv_ite (inv_stopCapture h) h
  · exact h

theorem inv_execCaptureRecord (dt : Ticks) (pch : ℕ) {s : State} (h : s.Inv) :
    ∃ t, execCaptureRecord dt pch s = .next t ∧ t.Inv := by
  unfold execCaptureRecord
  refine ⟨_, rfl, ?_⟩
  try dsimp only
  repeat' first
    | with_reducible assumption
    | with_reducible apply inv_elapse
    | with_reducible apply inv_finishCapture
    | with_reducible apply inv_takeLine
    | with_reducible apply inv_ite

theorem inv_execCaptureStart (dt : Ticks) (c : Call) (p : Bytes) {s : State} (h : s.Inv) :
    ∃ t, execCaptureStart dt c p s = .next t ∧ t.Inv := by
  unfold execCaptureStart
  refine ⟨_, rfl, ?_⟩
  try dsimp only
  repeat' first
    | intro _
    | with_reducible assumption
    | with_reducible apply inv_accept
    | with_reducible apply inv_acknowledge
    | with_reducible apply inv_elapse
    | with_reducible apply inv_modSkim
    | with_reducible apply inv_onCommand
    | with_reducible apply inv_reply
    | with_reducible apply inv_takeLines
    | with_reducible apply inv_ite
    | with_reducible apply inv_foldl

theorem inv_execCaptureStop (dt : Ticks) (c : Call) (p : Bytes) {s : State} (h : s.Inv) :
    ∃ t, execCaptureStop dt c p s = .next t ∧ t.Inv := by
  unfold execCaptureStop
  refine ⟨_, rfl, ?_⟩
  try dsimp only
  repeat' first
    | intro _
    | with_reducible assumption
    | with_reducible apply inv_elapse
    | with_reducible apply inv_stopCapture
    | with_reducible apply inv_onCommand
    | with_reducible apply inv_reply
    | with_reducible apply inv_ite

theorem inv_addSeries {s : State} (b : Bytes) (h : s.Inv) :
    (State.addSeries s b).Inv := by
  unfold State.addSeries
  try dsimp only
  repeat' first
    | with_reducible assumption
    | with_reducible apply inv_bump
    | with_reducible apply inv_endBlock
    | with_reducible apply inv_modSkim
    | with_reducible apply inv_ite
    | split

end Sys2Proof.Machine
end

