-- ==== Sys2Proof/Laws/InvScrim.lean ====
section
/-! SUPPORT. Every operation of Machine/Scrim.lean keeps the invariant. -/

namespace Sys2Proof.Machine

theorem inv_takeFrame {s : State} (i : ℕ) (b : Bytes) (h : s.Inv) :
    (State.takeFrame s i b).Inv := by
  unfold State.takeFrame
  try dsimp only
  repeat' first
    | with_reducible assumption
    | with_reducible apply inv_modPort

theorem inv_countDropped {s : State} (i : ℕ) (h : s.Inv) :
    (State.countDropped s i).Inv := by
  unfold State.countDropped
  try dsimp only
  repeat' first
    | with_reducible assumption
    | with_reducible apply inv_bump
    | with_reducible apply inv_modPort

theorem inv_sendLocal {s : State} (i : ℕ) (type : ℕ) (payload : Bytes) (h : s.Inv) :
    (State.sendLocal s i type payload).Inv := by
  unfold State.sendLocal
  try dsimp only
  repeat' first
    | with_reducible assumption
    | with_reducible apply inv_enqueueOn

theorem inv_computeRoutes {s : State} (h : s.Inv) :
    (State.computeRoutes s).Inv := by
  unfold State.computeRoutes
  try dsimp only
  repeat' first
    | intro _
    | with_reducible assumption
    | with_reducible apply inv_modFabric

theorem inv_endTunnel {s : State} (t : Tunnel) (status : ℕ) (result : Bytes) (h : s.Inv) :
    (State.endTunnel s t status result).Inv := by
  unfold State.endTunnel
  try dsimp only
  repeat' first
    | intro _
    | with_reducible assumption
    | with_reducible apply inv_modFabric
    | with_reducible apply inv_respond
    | split

theorem inv_abortTunnels {s : State} (h : s.Inv) :
    (State.abortTunnels s).Inv := by
  unfold State.abortTunnels
  try dsimp only
  repeat' first
    | intro _
    | with_reducible assumption
    | with_reducible apply inv_endTunnel
    | with_reducible apply inv_foldl

theorem inv_followUpstream {s : State} (h : s.Inv) :
    (State.followUpstream s).Inv := by
  unfold State.followUpstream
  try dsimp only
  repeat' first
    | intro _
    | with_reducible assumption
    | with_reducible apply inv_modFabric
    | with_reducible apply inv_modNtu
    | with_reducible apply inv_ite

theorem inv_applyRole {s : State} (r : ℕ × ℕ × ℕ) (h : s.Inv) :
    (State.applyRole s r).Inv := by
  unfold State.applyRole
  try dsimp only
  repeat' first
    | intro _
    | with_reducible assumption
    | with_reducible apply inv_abortTunnels
    | with_reducible apply inv_announce
    | with_reducible apply inv_followUpstream
    | with_reducible apply inv_modFabric
    | with_reducible apply inv_restartDiscipline
    | with_reducible apply inv_ite

theorem inv_noteElection {s : State} (h : s.Inv) :
    (State.noteElection s).Inv := by
  unfold State.noteElection
  try dsimp only
  repeat' first
    | intro _
    | with_reducible assumption
    | with_reducible apply inv_applyRole
    | with_reducible apply inv_modFabric
    | with_reducible apply inv_ite

theorem inv_watchAddress {s : State} (h : s.Inv) :
    (State.watchAddress s).Inv := by
  unfold State.watchAddress
  try dsimp only
  repeat' first
    | intro _
    | with_reducible assumption
    | with_reducible apply inv_modFabric

theorem inv_topologyChanged {s : State} (h : s.Inv) :
    (State.topologyChanged s).Inv := by
  unfold State.topologyChanged
  try dsimp only
  repeat' first
    | intro _
    | with_reducible assumption
    | with_reducible apply inv_followUpstream
    | with_reducible apply inv_modFabric
    | with_reducible apply inv_noteElection
    | with_reducible apply inv_watchAddress

theorem inv_raiseLink {s : State} (i : ℕ) (h : s.Inv) :
    (State.raiseLink s i).Inv := by
  unfold State.raiseLink
  try dsimp only
  repeat' first
    | with_reducible assumption
    | with_reducible apply inv_announce
    | with_reducible apply inv_modPort
    | with_reducible apply inv_topologyChanged

theorem inv_rerouteQueue {s : State} (i : ℕ) (h : s.Inv) :
    (State.rerouteQueue s i).Inv := by
  unfold State.rerouteQueue
  try dsimp only
  repeat' first
    | intro _
    | with_reducible assumption
    | with_reducible apply inv_countDropped
    | with_reducible apply inv_enqueueOn
    | with_reducible apply inv_modPort
    | with_reducible apply inv_foldl
    | split

theorem inv_loseTunnels {s : State} (i : Nat) (h : s.Inv) :
    (State.loseTunnels s i).Inv := by
  unfold State.loseTunnels
  try dsimp only
  repeat' first
    | intro _
    | with_reducible assumption
    | with_reducible apply inv_abortJobs
    | with_reducible apply inv_modFabric
    | with_reducible apply inv_orphanRoute
    | with_reducible apply inv_ite
    | split

theorem inv_dropLink {s : State} (i : ℕ) (disable : Bool) (h : s.Inv) :
    (State.dropLink s i disable).Inv := by
  unfold State.dropLink
  try dsimp only
  repeat' first
    | with_reducible assumption
    | with_reducible apply inv_announce
    | with_reducible apply inv_computeRoutes
    | with_reducible apply inv_enterSeeking
    | with_reducible apply inv_loseTunnels
    | with_reducible apply inv_modPort
    | with_reducible apply inv_rerouteQueue
    | with_reducible apply inv_topologyChanged
    | with_reducible apply inv_ite

theorem inv_execQuietEnd (dt : Ticks) (port : ℕ) {s : State} (h : s.Inv) :
    ∃ t, execQuietEnd dt port s = .next t ∧ t.Inv := by
  unfold execQuietEnd
  refine ⟨_, rfl, ?_⟩
  try dsimp only
  repeat' first
    | intro _
    | with_reducible assumption
    | with_reducible apply inv_elapse
    | with_reducible apply inv_enterSeeking
    | with_reducible apply inv_modFabric
    | with_reducible apply inv_ite

theorem inv_execHelloTimer (dt : Ticks) (port : Nat) {s : State} (h : s.Inv) :
    ∃ t, execHelloTimer dt port s = .next t ∧ t.Inv := by
  unfold execHelloTimer
  refine ⟨_, rfl, ?_⟩
  try dsimp only
  repeat' first
    | intro _
    | with_reducible assumption
    | with_reducible apply inv_elapse
    | with_reducible apply inv_modPort
    | with_reducible apply inv_sendLocal
    | with_reducible apply inv_ite
    | split

theorem inv_seekHello {s : State} (i : ℕ) (t : Bytes) (h : s.Inv) :
    (State.seekHello s i t).Inv := by
  unfold State.seekHello
  try dsimp only
  repeat' first
    | with_reducible assumption
    | with_reducible apply inv_modPort
    | with_reducible apply inv_raiseLink
    | with_reducible apply inv_ite

theorem inv_renewSession {s : State} (i : ℕ) (own : Bytes) (peer : Bytes) (h : s.Inv) :
    (State.renewSession s i own peer).Inv := by
  unfold State.renewSession
  try dsimp only
  repeat' first
    | with_reducible assumption
    | with_reducible apply inv_modPort

theorem inv_renewalHello {s : State} (i : ℕ) (t : Bytes) (current : Bool) (h : s.Inv) :
    (State.renewalHello s i t current).Inv := by
  unfold State.renewalHello
  try dsimp only
  repeat' first
    | with_reducible assumption
    | with_reducible apply inv_drbgBytes
    | with_reducible apply inv_modPort
    | with_reducible apply inv_renewSession
    | with_reducible apply inv_ite
    | split

theorem inv_upHello {s : State} (i : ℕ) (t : Bytes) (current : Bool) (h : s.Inv) :
    (State.upHello s i t current).Inv := by
  unfold State.upHello
  try dsimp only
  repeat' first
    | with_reducible assumption
    | with_reducible apply inv_dropLink
    | with_reducible apply inv_modPort
    | with_reducible apply inv_renewalHello
    | with_reducible apply inv_topologyChanged
    | with_reducible apply inv_ite

theorem inv_execHelloReceive (dt : Ticks) (port : ℕ) (frame : Bytes) {s : State} (h : s.Inv) :
    ∃ t, execHelloReceive dt port frame s = .next t ∧ t.Inv := by
  unfold execHelloReceive
  refine ⟨_, rfl, ?_⟩
  try dsimp only
  repeat' first
    | with_reducible assumption
    | with_reducible apply inv_elapse
    | with_reducible apply inv_seekHello
    | with_reducible apply inv_takeFrame
    | with_reducible apply inv_upHello
    | with_reducible apply inv_ite
    | split

theorem inv_execLinkSilenceTimeout (dt : Ticks) (port : ℕ) {s : State} (h : s.Inv) :
    ∃ t, execLinkSilenceTimeout dt port s = .next t ∧ t.Inv := by
  unfold execLinkSilenceTimeout
  refine ⟨_, rfl, ?_⟩
  try dsimp only
  repeat' first
    | with_reducible assumption
    | with_reducible apply inv_dropLink
    | with_reducible apply inv_elapse
    | with_reducible apply inv_ite

theorem inv_execSessionRenewal (dt : Ticks) (port : ℕ) {s : State} (h : s.Inv) :
    ∃ t, execSessionRenewal dt port s = .next t ∧ t.Inv := by
  unfold execSessionRenewal
  refine ⟨_, rfl, ?_⟩
  try dsimp only
  repeat' first
    | with_reducible assumption
    | with_reducible apply inv_drbgBytes
    | with_reducible apply inv_elapse
    | with_reducible apply inv_modPort
    | with_reducible apply inv_ite
    | split

theorem inv_execSessionDeadline (dt : Ticks) (port : ℕ) {s : State} (h : s.Inv) :
    ∃ t, execSessionDeadline dt port s = .next t ∧ t.Inv := by
  unfold execSessionDeadline
  refine ⟨_, rfl, ?_⟩
  try dsimp only
  repeat' first
    | with_reducible assumption
    | with_reducible apply inv_dropLink
    | with_reducible apply inv_elapse
    | with_reducible apply inv_ite
    | split

theorem inv_authFailed {s : State} (i : ℕ) (h : s.Inv) :
    (State.authFailed s i).Inv := by
  unfold State.authFailed
  try dsimp only
  repeat' first
    | with_reducible assumption
    | with_reducible apply inv_dropLink
    | with_reducible apply inv_modPort
    | with_reducible apply inv_ite

theorem inv_execFrameReject (dt : Ticks) (port : Nat) (frame : Bytes) {s : State} (h : s.Inv) :
    ∃ t, execFrameReject dt port frame s = .next t ∧ t.Inv := by
  unfold execFrameReject
  refine ⟨_, rfl, ?_⟩
  try dsimp only
  repeat' first
    | intro _
    | with_reducible assumption
    | with_reducible apply inv_authFailed
    | with_reducible apply inv_countDropped
    | with_reducible apply inv_elapse
    | with_reducible apply inv_modPort
    | with_reducible apply inv_takeFrame
    | with_reducible apply inv_ite
    | split

theorem inv_sendFrame {s : State} (i : Nat) (f : TxFrame) (h : s.Inv) :
    (State.sendFrame s i f).Inv := by
  unfold State.sendFrame
  try dsimp only
  repeat' first
    | intro _
    | with_reducible assumption
    | with_reducible apply inv_emit
    | with_reducible apply inv_modPort
    | with_reducible apply inv_ite
    | split

theorem inv_afterSend {s : State} (i : ℕ) (f : TxFrame) (h : s.Inv) :
    (State.afterSend s i f).Inv := by
  unfold State.afterSend
  try dsimp only
  repeat' first
    | with_reducible assumption
    | with_reducible apply inv_modPort
    | with_reducible apply inv_renewSession
    | with_reducible apply inv_ite
    | split

theorem inv_execPortTransmit (dt : Ticks) (port : Nat) {s : State} (h : s.Inv) :
    ∃ t, execPortTransmit dt port s = .next t ∧ t.Inv := by
  unfold execPortTransmit
  refine ⟨_, rfl, ?_⟩
  try dsimp only
  repeat' first
    | intro _
    | with_reducible assumption
    | with_reducible apply inv_afterSend
    | with_reducible apply inv_elapse
    | with_reducible apply inv_modPort
    | with_reducible apply inv_sendFrame
    | with_reducible apply inv_ite
    | split

theorem inv_execTimeReqTimer (dt : Ticks) (port : ℕ) {s : State} (h : s.Inv) :
    ∃ t, execTimeReqTimer dt port s = .next t ∧ t.Inv := by
  unfold execTimeReqTimer
  refine ⟨_, rfl, ?_⟩
  try dsimp only
  repeat' first
    | with_reducible assumption
    | with_reducible apply inv_elapse
    | with_reducible apply inv_modPort
    | with_reducible apply inv_sendLocal
    | with_reducible apply inv_ite

theorem inv_execTimeReqReceive (dt : Ticks) (port : ℕ) (frame : Bytes) {s : State} (h : s.Inv) :
    ∃ t, execTimeReqReceive dt port frame s = .next t ∧ t.Inv := by
  unfold execTimeReqReceive
  refine ⟨_, rfl, ?_⟩
  try dsimp only
  repeat' first
    | with_reducible assumption
    | with_reducible apply inv_elapse
    | with_reducible apply inv_modPort
    | with_reducible apply inv_takeFrame
    | split

theorem inv_execTimeRespSend (dt : Ticks) (port : ℕ) {s : State} (h : s.Inv) :
    ∃ t, execTimeRespSend dt port s = .next t ∧ t.Inv := by
  unfold execTimeRespSend
  refine ⟨_, rfl, ?_⟩
  try dsimp only
  repeat' first
    | with_reducible assumption
    | with_reducible apply inv_elapse
    | with_reducible apply inv_modPort
    | with_reducible apply inv_sendFrame
    | with_reducible apply inv_ite
    | split

theorem inv_execTimeRespReceive (dt : Ticks) (port : ℕ) (frame : Bytes) {s : State} (h : s.Inv) :
    ∃ t, execTimeRespReceive dt port frame s = .next t ∧ t.Inv := by
  unfold execTimeRespReceive
  refine ⟨_, rfl, ?_⟩
  try dsimp only
  repeat' first
    | with_reducible assumption
    | with_reducible apply inv_elapse
    | with_reducible apply inv_modPort
    | with_reducible apply inv_takeFrame
    | with_reducible apply inv_ite
    | split

theorem inv_offsetUnlocked {s : State} (o : ℤ) (t : ℕ) (h : s.Inv) :
    (State.offsetUnlocked s o t).Inv := by
  unfold State.offsetUnlocked
  try dsimp only
  repeat' first
    | with_reducible assumption
    | with_reducible apply inv_disciplineOffset
    | with_reducible apply inv_modNtu
    | with_reducible apply inv_ite

theorem inv_execFabricDisciplineSecond (dt : Ticks) {s : State} (h : s.Inv) :
    ∃ t, execFabricDisciplineSecond dt s = .next t ∧ t.Inv := by
  unfold execFabricDisciplineSecond
  refine ⟨_, rfl, ?_⟩
  try dsimp only
  repeat' first
    | intro _
    | with_reducible assumption
    | with_reducible apply inv_disciplineOffset
    | with_reducible apply inv_elapse
    | with_reducible apply inv_modFabric
    | with_reducible apply inv_offsetUnlocked
    | with_reducible apply inv_ite
    | (have hb := ‹List.length _ = _›; exact (List.length_map ..).trans hb)
    | split

end Sys2Proof.Machine
end

