-- ==== Sys2Proof/Laws/InvFabric.lean ====
section
/-! SUPPORT. Every operation of Machine/Fabric.lean keeps the invariant. -/

namespace Sys2Proof.Machine

theorem inv_originate {s : State} (h : s.Inv) :
    (State.originate s).Inv := by
  unfold State.originate
  try dsimp only
  repeat' first
    | intro _
    | with_reducible assumption
    | exact ‹List.length _ = _›
    | with_reducible apply inv_foldl
    | with_reducible apply inv_modFabric
    | with_reducible apply inv_sendLocal
    | with_reducible apply wf_foldl
    | with_reducible apply inv_foldl
    | with_reducible apply inv_foldl_fst
    | with_reducible apply inv_ite

theorem inv_execLsaRefresh (dt : Ticks) {s : State} (h : s.Inv) :
    ∃ t, execLsaRefresh dt s = .next t ∧ t.Inv := by
  unfold execLsaRefresh
  refine ⟨_, rfl, ?_⟩
  try dsimp only
  repeat' first
    | with_reducible assumption
    | with_reducible apply inv_elapse
    | with_reducible apply inv_originate
    | with_reducible apply inv_ite

theorem inv_abortWaiting {s : State} (w : Waiting) (h : s.Inv) : (State.abortWaiting s w).Inv := by
  unfold State.abortWaiting
  exact inv_sendResponse _ _ _ _ (inv_modHawk (fun _ hx => hx) h)

theorem inv_abortServed {s : State} (h : s.Inv) :
    (State.abortServed s).Inv := by
  unfold State.abortServed
  try dsimp only
  repeat' first
    | intro _
    | with_reducible assumption
    | with_reducible apply inv_abortJobs
    | with_reducible apply inv_abortWaiting
    | with_reducible apply inv_abortTunnels
    | with_reducible apply inv_respond
    | with_reducible apply inv_foldl

theorem inv_giveUpAddress {s : State} (h : s.Inv) :
    (State.giveUpAddress s).Inv := by
  unfold State.giveUpAddress
  try dsimp only
  repeat' first
    | intro _
    | with_reducible assumption
    | with_reducible apply inv_abortServed
    | with_reducible apply inv_bump
    | with_reducible apply inv_modFabric
    | with_reducible apply inv_originate
    | with_reducible apply inv_topologyChanged
    | with_reducible apply inv_ite
    | split

theorem inv_takeLsa {s : State} (i : ℕ) (t : Bytes) (h : s.Inv) :
    (State.takeLsa s i t).Inv := by
  unfold State.takeLsa
  try dsimp only
  repeat' first
    | intro _
    | with_reducible assumption
    | with_reducible apply inv_bump
    | with_reducible apply inv_giveUpAddress
    | with_reducible apply inv_modFabric
    | with_reducible apply inv_sendLocal
    | with_reducible apply inv_topologyChanged
    | with_reducible apply inv_ite
    | with_reducible apply inv_foldl

theorem inv_execLsaReceive (dt : Ticks) (port : ℕ) (frame : Bytes) {s : State} (h : s.Inv) :
    ∃ t, execLsaReceive dt port frame s = .next t ∧ t.Inv := by
  unfold execLsaReceive
  refine ⟨_, rfl, ?_⟩
  try dsimp only
  repeat' first
    | with_reducible assumption
    | with_reducible apply inv_elapse
    | with_reducible apply inv_takeFrame
    | with_reducible apply inv_takeLsa
    | split

theorem inv_execLsaAgeOut (dt : Ticks) (node : ℕ) {s : State} (h : s.Inv) :
    ∃ t, execLsaAgeOut dt node s = .next t ∧ t.Inv := by
  unfold execLsaAgeOut
  refine ⟨_, rfl, ?_⟩
  try dsimp only
  repeat' first
    | intro _
    | with_reducible assumption
    | with_reducible apply inv_elapse
    | with_reducible apply inv_modFabric
    | with_reducible apply inv_topologyChanged
    | with_reducible apply inv_ite
    | split

theorem inv_execRouteCompute (dt : Ticks) {s : State} (h : s.Inv) :
    ∃ t, execRouteCompute dt s = .next t ∧ t.Inv := by
  unfold execRouteCompute
  refine ⟨_, rfl, ?_⟩
  try dsimp only
  repeat' first
    | with_reducible assumption
    | with_reducible apply inv_computeRoutes
    | with_reducible apply inv_elapse
    | with_reducible apply inv_followUpstream
    | with_reducible apply inv_noteElection
    | with_reducible apply inv_ite

theorem inv_execAddressAssign (dt : Ticks) {s : State} (h : s.Inv) :
    ∃ t, execAddressAssign dt s = .next t ∧ t.Inv := by
  unfold execAddressAssign
  refine ⟨_, rfl, ?_⟩
  try dsimp only
  repeat' first
    | intro _
    | with_reducible assumption
    | with_reducible apply inv_elapse
    | with_reducible apply inv_modFabric
    | with_reducible apply inv_topologyChanged
    | with_reducible apply inv_ite

theorem inv_execElectionEvaluate (dt : Ticks) {s : State} (h : s.Inv) :
    ∃ t, execElectionEvaluate dt s = .next t ∧ t.Inv := by
  unfold execElectionEvaluate
  refine ⟨_, rfl, ?_⟩
  try dsimp only
  repeat' first
    | intro _
    | with_reducible assumption
    | with_reducible apply inv_applyRole
    | with_reducible apply inv_elapse
    | with_reducible apply inv_modFabric
    | with_reducible apply inv_noteElection
    | with_reducible apply inv_ite
    | split

theorem inv_execRoutedFrameForward (dt : Ticks) (port : ℕ) (frame : Bytes) {s : State} (h : s.Inv) :
    ∃ t, execRoutedFrameForward dt port frame s = .next t ∧ t.Inv := by
  unfold execRoutedFrameForward
  refine ⟨_, rfl, ?_⟩
  try dsimp only
  repeat' first
    | with_reducible assumption
    | with_reducible apply inv_countDropped
    | with_reducible apply inv_elapse
    | with_reducible apply inv_enqueueOn
    | with_reducible apply inv_takeFrame
    | with_reducible apply inv_ite
    | split

theorem inv_dropPieces {s : State} (id : ℕ) (src : ℕ) (h : s.Inv) :
    (State.dropPieces s id src).Inv := by
  unfold State.dropPieces
  try dsimp only
  repeat' first
    | intro _
    | with_reducible assumption
    | with_reducible apply inv_modFabric

theorem inv_execTunnelCmdReceive (dt : Ticks) (port : Nat) (frame : Bytes) {s : State} (h : s.Inv) :
    ∃ t, execTunnelCmdReceive dt port frame s = .next t ∧ t.Inv := by
  unfold execTunnelCmdReceive
  refine ⟨_, rfl, ?_⟩
  try dsimp only
  repeat' first
    | intro _
    | with_reducible assumption
    | with_reducible apply inv_countDropped
    | with_reducible apply inv_dropPieces
    | with_reducible apply inv_elapse
    | with_reducible apply inv_modFabric
    | with_reducible apply inv_modHawk
    | with_reducible apply inv_takeFrame
    | with_reducible apply inv_ite
    | split

theorem ports_addPiece {f : Fabric} (p : TunnelPieces) (h : f.ports.length = 3) :
    (Fabric.addPiece f p).ports.length = 3 := by
  unfold Fabric.addPiece
  try dsimp only
  repeat' first
    | with_reducible assumption

theorem inv_execTunnelBulkReceive (dt : Ticks) (port : ℕ) (frame : Bytes) {s : State} (h : s.Inv) :
    ∃ t, execTunnelBulkReceive dt port frame s = .next t ∧ t.Inv := by
  unfold execTunnelBulkReceive
  refine ⟨_, rfl, ?_⟩
  try dsimp only
  repeat' first
    | intro _
    | with_reducible assumption
    | with_reducible apply inv_countDropped
    | with_reducible apply inv_dropPieces
    | with_reducible apply inv_elapse
    | with_reducible apply inv_modFabric
    | with_reducible apply inv_takeFrame
    | with_reducible apply ports_addPiece
    | with_reducible apply inv_ite
    | split

theorem inv_execTunnelPieceTimeout (dt : Ticks) (tunnel : ℕ) {s : State} (h : s.Inv) :
    ∃ t, execTunnelPieceTimeout dt tunnel s = .next t ∧ t.Inv := by
  unfold execTunnelPieceTimeout
  refine ⟨_, rfl, ?_⟩
  try dsimp only
  repeat' first
    | intro _
    | with_reducible assumption
    | with_reducible apply inv_countDropped
    | with_reducible apply inv_dropPieces
    | with_reducible apply inv_elapse
    | with_reducible apply inv_foldl

theorem inv_itemDone {s : State} (dest : ℕ) (item : ℕ) (status : ℕ) (h : s.Inv) :
    (State.itemDone s dest item status).Inv := by
  unfold State.itemDone
  try dsimp only
  repeat' first
    | intro _
    | with_reducible assumption
    | with_reducible apply inv_bump
    | with_reducible apply inv_modFabric
    | with_reducible apply inv_ite

theorem inv_execTunnelRespReceive (dt : Ticks) (port : ℕ) (frame : Bytes) {s : State} (h : s.Inv) :
    ∃ t, execTunnelRespReceive dt port frame s = .next t ∧ t.Inv := by
  unfold execTunnelRespReceive
  refine ⟨_, rfl, ?_⟩
  try dsimp only
  repeat' first
    | with_reducible assumption
    | with_reducible apply inv_countDropped
    | with_reducible apply inv_dropPieces
    | with_reducible apply inv_elapse
    | with_reducible apply inv_endTunnel
    | with_reducible apply inv_itemDone
    | with_reducible apply inv_takeFrame
    | with_reducible apply inv_ite
    | split

theorem inv_execTunnelResponseTimeout (dt : Ticks) (tunnel : ℕ) {s : State} (h : s.Inv) :
    ∃ t, execTunnelResponseTimeout dt tunnel s = .next t ∧ t.Inv := by
  unfold execTunnelResponseTimeout
  refine ⟨_, rfl, ?_⟩
  try dsimp only
  repeat' first
    | with_reducible assumption
    | with_reducible apply inv_elapse
    | with_reducible apply inv_endTunnel
    | split

theorem inv_openTunnel {s : State} (dest : ℕ) (call : Option Call) (item : ℕ) (entry : Bytes) (data : Bytes) (h : s.Inv) :
    (State.openTunnel s dest call item entry data).Inv := by
  unfold State.openTunnel
  try dsimp only
  repeat' first
    | intro _
    | with_reducible assumption
    | with_reducible apply inv_modFabric
    | with_reducible apply inv_sendTunnel

theorem inv_sendItem {s : State} (dest : ℕ) (item : ℕ) (opcode : ℕ) (payload : Bytes) (h : s.Inv) :
    (State.sendItem s dest item opcode payload).Inv := by
  unfold State.sendItem
  try dsimp only
  repeat' first
    | with_reducible assumption
    | with_reducible apply inv_openTunnel
    | with_reducible apply inv_ite

theorem inv_distributeTo {s : State} (e : Lsa) (h : s.Inv) :
    (State.distributeTo s e).Inv := by
  unfold State.distributeTo
  try dsimp only
  repeat' first
    | with_reducible assumption
    | with_reducible apply inv_sendItem
    | with_reducible apply inv_ite
    | split

theorem inv_execDistributionRepeat (dt : Ticks) {s : State} (h : s.Inv) :
    ∃ t, execDistributionRepeat dt s = .next t ∧ t.Inv := by
  unfold execDistributionRepeat
  refine ⟨_, rfl, ?_⟩
  try dsimp only
  repeat' first
    | intro _
    | with_reducible assumption
    | with_reducible apply inv_distributeTo
    | with_reducible apply inv_elapse
    | with_reducible apply inv_modFabric
    | with_reducible apply inv_ite
    | with_reducible apply inv_foldl

theorem inv_sendReading {s : State} (rid : ℕ) (reading : Bytes) (h : s.Inv) :
    (State.sendReading s rid reading).Inv := by
  unfold State.sendReading
  try dsimp only
  repeat' first
    | with_reducible assumption
    | with_reducible apply inv_sendRouted
    | with_reducible apply inv_ite

theorem inv_forwardReading {s : State} (reading : Bytes) (h : s.Inv) :
    (State.forwardReading s reading).Inv := by
  unfold State.forwardReading
  try dsimp only
  repeat' first
    | intro _
    | with_reducible assumption
    | with_reducible apply inv_bump
    | with_reducible apply inv_modFabric
    | with_reducible apply inv_sendReading
    | with_reducible apply inv_ite

theorem inv_execReadingReceive (dt : Ticks) (port : ℕ) (frame : Bytes) {s : State} (h : s.Inv) :
    ∃ t, execReadingReceive dt port frame s = .next t ∧ t.Inv := by
  unfold execReadingReceive
  refine ⟨_, rfl, ?_⟩
  try dsimp only
  repeat' first
    | intro _
    | with_reducible assumption
    | with_reducible apply inv_countDropped
    | with_reducible apply inv_elapse
    | with_reducible apply inv_modFabric
    | with_reducible apply inv_postBulk
    | with_reducible apply inv_sendRouted
    | with_reducible apply inv_takeFrame
    | with_reducible apply inv_ite
    | split

theorem inv_execReadingAckReceive (dt : Ticks) (port : ℕ) (frame : Bytes) {s : State} (h : s.Inv) :
    ∃ t, execReadingAckReceive dt port frame s = .next t ∧ t.Inv := by
  unfold execReadingAckReceive
  refine ⟨_, rfl, ?_⟩
  try dsimp only
  repeat' first
    | intro _
    | with_reducible assumption
    | with_reducible apply inv_elapse
    | with_reducible apply inv_modFabric
    | with_reducible apply inv_takeFrame
    | split

theorem inv_execReadingResend (dt : Ticks) (rid : ℕ) {s : State} (h : s.Inv) :
    ∃ t, execReadingResend dt rid s = .next t ∧ t.Inv := by
  unfold execReadingResend
  refine ⟨_, rfl, ?_⟩
  try dsimp only
  repeat' first
    | intro _
    | with_reducible assumption
    | with_reducible apply inv_elapse
    | with_reducible apply inv_modFabric
    | with_reducible apply inv_sendReading
    | with_reducible apply inv_ite
    | split

theorem inv_execFabricStatus (dt : Ticks) (c : Call) (p : Bytes) {s : State} (h : s.Inv) :
    ∃ t, execFabricStatus dt c p s = .next t ∧ t.Inv := by
  unfold execFabricStatus
  refine ⟨_, rfl, ?_⟩
  try dsimp only
  repeat' first
    | intro _
    | with_reducible assumption
    | with_reducible apply inv_elapse
    | with_reducible apply inv_onCommand
    | with_reducible apply inv_reply

theorem inv_execPortStatus (dt : Ticks) (c : Call) (p : Bytes) {s : State} (h : s.Inv) :
    ∃ t, execPortStatus dt c p s = .next t ∧ t.Inv := by
  unfold execPortStatus
  refine ⟨_, rfl, ?_⟩
  try dsimp only
  repeat' first
    | intro _
    | with_reducible assumption
    | with_reducible apply inv_elapse
    | with_reducible apply inv_onCommand
    | with_reducible apply inv_reply

theorem inv_setPort {s : State} (i : ℕ) (on : Bool) (h : s.Inv) :
    (State.setPort s i on).Inv := by
  unfold State.setPort
  try dsimp only
  repeat' first
    | with_reducible assumption
    | with_reducible apply inv_dropLink
    | with_reducible apply inv_modPort
    | with_reducible apply inv_ite

theorem inv_applyPorts {s : State} (h : s.Inv) :
    (State.applyPorts s).Inv := by
  unfold State.applyPorts
  try dsimp only
  repeat' first
    | intro _
    | with_reducible assumption
    | with_reducible apply inv_setPort
    | with_reducible apply inv_foldl

theorem inv_execPortEnable (dt : Ticks) (c : Call) (p : Bytes) {s : State} (h : s.Inv) :
    ∃ t, execPortEnable dt c p s = .next t ∧ t.Inv := by
  unfold execPortEnable
  refine ⟨_, rfl, ?_⟩
  try dsimp only
  repeat' first
    | intro _
    | with_reducible assumption
    | with_reducible apply inv_applyPorts
    | with_reducible apply inv_elapse
    | with_reducible apply inv_onCommand
    | with_reducible apply inv_putParam
    | with_reducible apply inv_reply
    | with_reducible apply inv_ite

theorem inv_listNode {x : State × Bytes} (e : Lsa) (h : x.1.Inv) :
    (listNode x e).1.Inv := by
  unfold listNode
  try dsimp only
  repeat' first
    | with_reducible assumption
    | with_reducible apply inv_drawFree
    | split

theorem inv_execNodeList (dt : Ticks) (c : Call) (p : Bytes) {s : State} (h : s.Inv) :
    ∃ t, execNodeList dt c p s = .next t ∧ t.Inv := by
  unfold execNodeList
  refine ⟨_, rfl, ?_⟩
  try dsimp only
  repeat' first
    | intro _
    | with_reducible assumption
    | with_reducible apply inv_elapse
    | with_reducible apply inv_listNode
    | with_reducible apply inv_onCommand
    | with_reducible apply inv_reply
    | with_reducible apply inv_foldl_fst

theorem inv_execRouteTable (dt : Ticks) (c : Call) (p : Bytes) {s : State} (h : s.Inv) :
    ∃ t, execRouteTable dt c p s = .next t ∧ t.Inv := by
  unfold execRouteTable
  refine ⟨_, rfl, ?_⟩
  try dsimp only
  repeat' first
    | intro _
    | with_reducible assumption
    | with_reducible apply inv_elapse
    | with_reducible apply inv_onCommand
    | with_reducible apply inv_reply

theorem inv_execInstallLinkKey (dt : Ticks) (c : Call) (p : Bytes) {s : State} (h : s.Inv) :
    ∃ t, execInstallLinkKey dt c p s = .next t ∧ t.Inv := by
  unfold execInstallLinkKey
  refine ⟨_, rfl, ?_⟩
  try dsimp only
  repeat' first
    | intro _
    | with_reducible assumption
    | with_reducible apply inv_dropLink
    | with_reducible apply inv_elapse
    | with_reducible apply inv_enterSeeking
    | with_reducible apply inv_onCommand
    | with_reducible apply inv_putKey
    | with_reducible apply inv_reply
    | with_reducible apply inv_ite

theorem inv_execTunnelSend (dt : Ticks) (c : Call) (p : Bytes) {s : State} (h : s.Inv) :
    ∃ t, execTunnelSend dt c p s = .next t ∧ t.Inv := by
  unfold execTunnelSend
  refine ⟨_, rfl, ?_⟩
  try dsimp only
  repeat' first
    | intro _
    | with_reducible assumption
    | with_reducible apply inv_accept
    | with_reducible apply inv_elapse
    | with_reducible apply inv_onCommand
    | with_reducible apply inv_openTunnel
    | with_reducible apply inv_reply
    | with_reducible apply inv_ite

theorem inv_feRestart {s : State} (h : s.Inv) :
    (State.feRestart s).Inv := by
  unfold State.feRestart
  try dsimp only
  repeat' first
    | intro _
    | with_reducible assumption
    | with_reducible apply inv_announce
    | with_reducible apply inv_applyRole
    | with_reducible apply inv_feStart
    | with_reducible apply inv_ite
    | with_reducible apply inv_foldl

end Sys2Proof.Machine
end

