-- ==== Sys2Proof/Laws/InvDma.lean ====
section
/-! SUPPORT. Every operation of Machine/Dma.lean keeps the invariant. -/

namespace Sys2Proof.Machine

theorem wf_beats {f : GranuleStep → ℕ × ℕ → GranuleStep}
    (hf : ∀ x b, Memory.wf x.mem.cells = true → Memory.wf (f x b).mem.cells = true) (l : List (ℕ × ℕ))
    {x : GranuleStep} (h : Memory.wf x.mem.cells = true) : Memory.wf (l.foldl f x).mem.cells = true := by
  induction l generalizing x with
  | nil => exact h
  | cons b l ih => exact ih (hf x b h)

theorem wf_readPiece (failing : List ℕ) {x : MemSys × Bool × Bytes} (q : ℕ × ℕ) (h : Memory.wf x.1.cells = true) :
    Memory.wf (MemSys.readPiece failing x q).1.cells = true := by
  unfold MemSys.readPiece
  try dsimp only
  repeat' first
    | intro _
    | with_reducible assumption
    | with_reducible apply wf_poison
    | with_reducible apply wf_foldl

theorem wf_readBeat (failing : List ℕ) (src : ℕ) {x : GranuleStep} (b : ℕ × ℕ) (h : Memory.wf x.mem.cells = true) :
    Memory.wf (readBeat failing src x b).mem.cells = true := by
  unfold readBeat
  dsimp only
  have k := wf_pieces (src + b.1) b.2 false h
  split
  · exact h
  · split
    · exact k
    · have r := wf_foldl_fst (fun y q hy => wf_readPiece failing q hy)
        (x.mem.pieces (src + b.1) b.2 false).2.2 (y := (_, false, [])) k
      split <;> exact r

theorem wf_mramPart {x : MemSys × Bool × Bytes} (q : ℕ × ℕ) (h : Memory.wf x.1.cells = true) :
    Memory.wf (MemSys.mramPart x q).1.cells = true := by
  unfold MemSys.mramPart
  dsimp only
  split
  · exact Memory.wf_writeBytes _ _ h
  · split
    · exact h
    · exact Memory.wf_writeBytes _ _ h

theorem wf_writePiece (failing : List ℕ) {x : MemSys × Bool × Bytes} (q : ℕ × ℕ) (h : Memory.wf x.1.cells = true) :
    Memory.wf (MemSys.writePiece failing x q).1.cells = true := by
  unfold MemSys.writePiece
  dsimp only
  split
  · exact wf_sramWrite _ _ (wf_foldl (fun _ _ hm => wf_poison _ hm) _ h)
  · exact wf_foldl_fst (fun _ q hy => wf_mramPart q hy) _ (y := (_, _, _)) h

theorem wf_writeBeat (failing : List ℕ) (dst : ℕ) (data : Bytes) {x : GranuleStep} (b : ℕ × ℕ)
    (h : Memory.wf x.mem.cells = true) : Memory.wf (writeBeat failing dst data x b).mem.cells = true := by
  unfold writeBeat
  dsimp only
  have k := wf_pieces (dst + b.1) b.2 true h
  split
  · exact h
  · split
    · exact k
    · have r := wf_foldl_fst (fun y q hy => wf_writePiece failing q hy)
        (x.mem.pieces (dst + b.1) b.2 true).2.2 (y := (_, false, slice data b.1 b.2)) k
      split <;> exact r

theorem wf_moveGranule {m : MemSys} (failing : List ℕ) (d : Descriptor) (done : ℕ) (h : Memory.wf m.cells = true) :
    Memory.wf (MemSys.moveGranule m failing d done).1.cells = true := by
  unfold MemSys.moveGranule
  extract_lets n r
  have k : Memory.wf r.mem.cells = true := by
    dsimp only [r]
    split
    · exact h
    · exact wf_beats (fun _ _ hx => wf_readBeat _ _ _ hx) _ h
  clear_value r
  split
  · exact k
  · exact wf_beats (fun _ _ hx => wf_writeBeat _ _ _ _ hx) _ k

theorem wf_putDesc {m : MemSys} (p : PoolDesc) (h : Memory.wf m.cells = true) :
    Memory.wf (MemSys.putDesc m p).cells = true := by
  unfold MemSys.putDesc
  try dsimp only
  repeat' first
    | with_reducible assumption

theorem wf_setDesc {m : MemSys} (i : ℕ) (state : DescState) (cause : DescCause) (done : ℕ) (h : Memory.wf m.cells = true) :
    Memory.wf (MemSys.setDesc m i state cause done).cells = true := by
  unfold MemSys.setDesc
  try dsimp only
  repeat' first
    | with_reducible assumption

theorem wf_modDma {m : MemSys} (c : ℕ) (f : DmaChannel → DmaChannel) (h : Memory.wf m.cells = true) :
    Memory.wf (MemSys.modDma m c f).cells = true := by
  unfold MemSys.modDma
  try dsimp only
  repeat' first
    | with_reducible assumption

theorem wf_stopChain (n : ℕ) : ∀ {m : MemSys} (i : ℕ), Memory.wf m.cells = true →
    Memory.wf (MemSys.stopChain n m i).cells = true := by
  induction n with
  | zero => intro m i h; exact h
  | succ n ih =>
    intro m i h
    unfold MemSys.stopChain
    split
    · exact h
    · split
      · exact ih _ (wf_setDesc _ _ _ _ h)
      · exact h

theorem wf_abortChannel {m : MemSys} (c : ℕ) (cause : DescCause) (h : Memory.wf m.cells = true) :
    Memory.wf (MemSys.abortChannel m c cause).cells = true := by
  unfold MemSys.abortChannel
  try dsimp only
  repeat' first
    | with_reducible assumption
    | with_reducible apply wf_modDma
    | with_reducible apply wf_setDesc
    | with_reducible apply wf_stopChain
    | split

theorem wf_event {m : MemSys} (h : Memory.wf m.cells = true) :
    Memory.wf (MemSys.event m).cells = true := by
  unfold MemSys.event
  try dsimp only
  repeat' first
    | with_reducible assumption

theorem wf_suspend {m : MemSys} (c : ℕ) (i : ℕ) (cause : DescCause) (done : ℕ) (iova : ℕ) (dst : Bool) (h : Memory.wf m.cells = true) :
    Memory.wf (MemSys.suspend m c i cause done iova dst).cells = true := by
  unfold MemSys.suspend
  try dsimp only
  repeat' first
    | with_reducible assumption
    | with_reducible apply wf_event
    | with_reducible apply wf_modDma
    | with_reducible apply wf_setDesc

theorem wf_grant {m : MemSys} (h : Memory.wf m.cells = true) :
    Memory.wf (MemSys.grant m).cells = true := by
  unfold MemSys.grant
  try dsimp only
  repeat' first
    | with_reducible assumption
    | with_reducible apply wf_modDma
    | with_reducible apply wf_setDesc
    | split

theorem wf_grantAll {m : MemSys} (h : Memory.wf m.cells = true) :
    Memory.wf (MemSys.grantAll m).cells = true := by
  unfold MemSys.grantAll
  try dsimp only
  repeat' first
    | with_reducible assumption
    | with_reducible apply wf_grant

theorem inv_startDesc {s : State} (c : ℕ) (i : ℕ) (h : s.Inv) :
    (State.startDesc s c i).Inv := by
  unfold State.startDesc
  try dsimp only
  repeat' first
    | intro _
    | with_reducible assumption
    | with_reducible apply inv_blocked
    | with_reducible apply inv_modMem
    | with_reducible apply wf_abortChannel
    | with_reducible apply wf_modDma
    | split

theorem wf_placeChain (ds : List Descriptor) : ∀ {m : MemSys} (i : ℕ), Memory.wf m.cells = true →
    Memory.wf (MemSys.placeChain m i ds).cells = true := by
  induction ds with
  | nil => intro m i h; unfold MemSys.placeChain; exact h
  | cons d ds ih =>
    intro m i h
    unfold MemSys.placeChain
    split
    · exact h
    · split
      · split
        · exact h
        · exact ih _ (wf_putDesc _ h)
      · exact ih _ (wf_putDesc _ h)

theorem wf_writeTables {m : MemSys} (tables : List (ℕ × Word)) (h : Memory.wf m.cells = true) :
    Memory.wf (MemSys.writeTables m tables).cells = true := by
  unfold MemSys.writeTables
  try dsimp only
  repeat' first
    | intro _
    | with_reducible assumption
    | with_reducible apply wf_sramWrite
    | with_reducible apply wf_foldl
    | split

theorem inv_execDmaSubmit (dt : Ticks) (ch prio index : Nat) (descs : List Descriptor) (root : Nat) (tables : List (Nat × Word)) {s : State} (h : s.Inv) :
    ∃ t, execDmaSubmit dt ch prio index descs root tables s = .next t ∧ t.Inv := by
  unfold execDmaSubmit
  refine ⟨_, rfl, ?_⟩
  try dsimp only
  repeat' first
    | intro _
    | with_reducible assumption
    | with_reducible apply inv_elapse
    | with_reducible apply inv_modMem
    | with_reducible apply inv_startDesc
    | with_reducible apply wf_grantAll
    | with_reducible apply wf_modDma
    | with_reducible apply wf_placeChain
    | with_reducible apply wf_writeTables
    | with_reducible apply inv_ite
    | split

theorem inv_stopGranule {s : State} (c : ℕ) (i : ℕ) (done : ℕ) (cause : DescCause) (iova : ℕ) (dst : Bool) (h : s.Inv) :
    (State.stopGranule s c i done cause iova dst).Inv := by
  unfold State.stopGranule
  try dsimp only
  repeat' first
    | intro _
    | with_reducible assumption
    | with_reducible apply inv_blocked
    | with_reducible apply inv_modMem
    | with_reducible apply wf_abortChannel
    | with_reducible apply wf_suspend
    | split

theorem inv_finishDesc {s : State} (c : Nat) (p : PoolDesc) (h : s.Inv) :
    (State.finishDesc s c p).Inv := by
  unfold State.finishDesc
  try dsimp only
  repeat' first
    | intro _
    | with_reducible assumption
    | with_reducible apply inv_modMem
    | with_reducible apply inv_startDesc
    | with_reducible apply wf_event
    | with_reducible apply wf_grantAll
    | with_reducible apply wf_modDma
    | with_reducible apply wf_setDesc
    | with_reducible apply inv_ite
    | split

theorem inv_runDma (failing : List ℕ) (c : ℕ) (hit : Bool) (n : ℕ) : ∀ {s : State}, s.Inv →
    (State.runDma s failing c hit n).Inv := by
  induction n with
  | zero => intro s h; exact h
  | succ n ih =>
    intro s h
    unfold State.runDma
    dsimp only
    split
    · exact h
    · refine inv_ite h (inv_ite h ?_)
      have k : ∀ p : PoolDesc, (s.modMem (fun _ => (s.mem.moveGranule failing p.desc p.done).1)).Inv :=
        fun p => inv_modMem (fun _ _ => wf_moveGranule _ _ _ h.mem) h
      exact inv_ite (inv_stopGranule _ _ _ _ _ _ (k _)) (ih (inv_modMem (fun _ hm => wf_setDesc _ _ _ _ hm) (k _)))

theorem inv_execDmaPageWalk (dt : Ticks) (ch : ℕ) (failing : List ℕ) {s : State} (h : s.Inv) :
    ∃ t, execDmaPageWalk dt ch failing s = .next t ∧ t.Inv := by
  unfold execDmaPageWalk
  refine ⟨_, rfl, ?_⟩
  try dsimp only
  repeat' first
    | intro _
    | with_reducible assumption
    | with_reducible apply inv_elapse
    | with_reducible apply inv_modMem
    | with_reducible apply inv_runDma
    | with_reducible apply wf_grantAll
    | with_reducible apply inv_ite

theorem inv_execDmaTransferEnd (dt : Ticks) (ch : ℕ) (failing : List ℕ) {s : State} (h : s.Inv) :
    ∃ t, execDmaTransferEnd dt ch failing s = .next t ∧ t.Inv := by
  unfold execDmaTransferEnd
  refine ⟨_, rfl, ?_⟩
  try dsimp only
  repeat' first
    | intro _
    | with_reducible assumption
    | with_reducible apply inv_elapse
    | with_reducible apply inv_finishDesc
    | with_reducible apply inv_modMem
    | with_reducible apply inv_runDma
    | with_reducible apply wf_grantAll
    | with_reducible apply inv_ite
    | split

theorem wf_yieldMover {m : MemSys} (c : ℕ) (h : Memory.wf m.cells = true) :
    Memory.wf (MemSys.yieldMover m c).cells = true := by
  unfold MemSys.yieldMover
  try dsimp only
  repeat' first
    | with_reducible assumption
    | with_reducible apply wf_grantAll
    | with_reducible apply wf_modDma

theorem inv_execDmaPreempt (dt : Ticks) (ch : ℕ) (granules : ℕ) {s : State} (h : s.Inv) :
    ∃ t, execDmaPreempt dt ch granules s = .next t ∧ t.Inv := by
  unfold execDmaPreempt
  refine ⟨_, rfl, ?_⟩
  try dsimp only
  repeat' first
    | intro _
    | with_reducible assumption
    | with_reducible apply inv_elapse
    | with_reducible apply inv_modMem
    | with_reducible apply inv_runDma
    | with_reducible apply wf_grantAll
    | with_reducible apply wf_yieldMover
    | with_reducible apply inv_ite
    | split

theorem inv_execDmaResume (dt : Ticks) (ch : Nat) {s : State} (h : s.Inv) :
    ∃ t, execDmaResume dt ch s = .next t ∧ t.Inv := by
  unfold execDmaResume
  refine ⟨_, rfl, ?_⟩
  try dsimp only
  repeat' first
    | intro _
    | with_reducible assumption
    | with_reducible apply inv_elapse
    | with_reducible apply inv_modMem
    | with_reducible apply wf_grantAll
    | with_reducible apply wf_modDma
    | with_reducible apply inv_ite
    | split

theorem inv_execDmaAbort (dt : Ticks) (ch : ℕ) {s : State} (h : s.Inv) :
    ∃ t, execDmaAbort dt ch s = .next t ∧ t.Inv := by
  unfold execDmaAbort
  refine ⟨_, rfl, ?_⟩
  try dsimp only
  repeat' first
    | intro _
    | with_reducible assumption
    | with_reducible apply inv_elapse
    | with_reducible apply inv_modMem
    | with_reducible apply wf_abortChannel
    | with_reducible apply wf_grantAll
    | with_reducible apply inv_ite
    | split

theorem inv_execDmaChannelDisable (dt : Ticks) (ch : ℕ) (granules : ℕ) {s : State} (h : s.Inv) :
    ∃ t, execDmaChannelDisable dt ch granules s = .next t ∧ t.Inv := by
  unfold execDmaChannelDisable
  refine ⟨_, rfl, ?_⟩
  try dsimp only
  repeat' first
    | intro _
    | with_reducible assumption
    | with_reducible apply inv_elapse
    | with_reducible apply inv_modMem
    | with_reducible apply inv_runDma
    | with_reducible apply wf_abortChannel
    | with_reducible apply wf_grantAll
    | with_reducible apply inv_ite
    | split

theorem inv_execIommuInvalidate (dt : Ticks) (page : Option ℕ) (tables : List (ℕ × Word)) {s : State} (h : s.Inv) :
    ∃ t, execIommuInvalidate dt page tables s = .next t ∧ t.Inv := by
  unfold execIommuInvalidate
  refine ⟨_, rfl, ?_⟩
  try dsimp only
  repeat' first
    | intro _
    | with_reducible assumption
    | with_reducible apply inv_elapse
    | with_reducible apply inv_modMem
    | with_reducible apply wf_writeTables
    | with_reducible apply inv_ite
    | split

theorem wf_revoke {m : MemSys} (w : ℕ) (h : Memory.wf m.cells = true) :
    Memory.wf (MemSys.revoke m w).cells = true := by
  unfold MemSys.revoke
  try dsimp only
  repeat' first
    | with_reducible assumption

theorem wf_releaseWindows {m : MemSys} (h : Memory.wf m.cells = true) :
    Memory.wf (MemSys.releaseWindows m).cells = true := by
  unfold MemSys.releaseWindows
  try dsimp only
  repeat' first
    | with_reducible assumption

theorem inv_execGuardWindowRevoke (dt : Ticks) (window : ℕ) {s : State} (h : s.Inv) :
    ∃ t, execGuardWindowRevoke dt window s = .next t ∧ t.Inv := by
  unfold execGuardWindowRevoke
  refine ⟨_, rfl, ?_⟩
  try dsimp only
  repeat' first
    | intro _
    | with_reducible assumption
    | with_reducible apply inv_elapse
    | with_reducible apply inv_modMem
    | with_reducible apply wf_revoke
    | with_reducible apply inv_ite

theorem inv_execGuardWindowRelease (dt : Ticks) {s : State} (h : s.Inv) :
    ∃ t, execGuardWindowRelease dt s = .next t ∧ t.Inv := by
  unfold execGuardWindowRelease
  refine ⟨_, rfl, ?_⟩
  try dsimp only
  repeat' first
    | intro _
    | with_reducible assumption
    | with_reducible apply inv_elapse
    | with_reducible apply inv_modMem
    | with_reducible apply wf_releaseWindows
    | with_reducible apply inv_ite

end Sys2Proof.Machine
end

