-- ==== Sys2Proof/Laws/InvUpdate.lean ====
section
/-! SUPPORT. Every operation of Machine/Update.lean keeps the invariant. -/

namespace Sys2Proof.Machine

theorem inv_execUpdateStatus (dt : Ticks) (c : Call) (p : Bytes) {s : State} (h : s.Inv) :
    ∃ t, execUpdateStatus dt c p s = .next t ∧ t.Inv := by
  unfold execUpdateStatus
  refine ⟨_, rfl, ?_⟩
  try dsimp only
  repeat' first
    | intro _
    | with_reducible assumption
    | with_reducible apply inv_elapse
    | with_reducible apply inv_onCommand
    | with_reducible apply inv_reply

theorem inv_execStageBegin (dt : Ticks) (c : Call) (p : Bytes) {s : State} (h : s.Inv) :
    ∃ t, execStageBegin dt c p s = .next t ∧ t.Inv := by
  unfold execStageBegin
  refine ⟨_, rfl, ?_⟩
  try dsimp only
  repeat' first
    | intro _
    | with_reducible assumption
    | with_reducible apply inv_accept
    | with_reducible apply inv_elapse
    | with_reducible apply inv_modComponent
    | with_reducible apply inv_modUpdate
    | with_reducible apply inv_onCommand
    | with_reducible apply inv_pushJob
    | with_reducible apply inv_reply
    | with_reducible apply inv_ite
    | with_reducible apply inv_foldl

theorem inv_programBytes {s : State} (off : ℕ) (bs : Bytes) (h : s.Inv) :
    (State.programBytes s off bs).Inv := by
  unfold State.programBytes
  try dsimp only
  repeat' first
    | intro _
    | with_reducible assumption
    | with_reducible apply inv_beginProgram
    | with_reducible apply inv_modMem
    | with_reducible apply inv_ite
    | with_reducible apply inv_foldl
    | exact Memory.wf_writeBytes _ _ ‹Memory.wf _ = true›

theorem inv_programStaged {s : State} (g : Staging) (bs : Bytes) (h : s.Inv) :
    (State.programStaged s g bs).Inv := by
  unfold State.programStaged
  try dsimp only
  repeat' first
    | with_reducible assumption
    | with_reducible apply inv_modUpdate
    | with_reducible apply inv_programBytes
    | with_reducible apply inv_ite

theorem inv_execStageData (dt : Ticks) (c : Call) (p : Bytes) {s : State} (h : s.Inv) :
    ∃ t, execStageData dt c p s = .next t ∧ t.Inv := by
  unfold execStageData
  refine ⟨_, rfl, ?_⟩
  try dsimp only
  repeat' first
    | intro _
    | with_reducible assumption
    | with_reducible apply inv_elapse
    | with_reducible apply inv_onCommand
    | with_reducible apply inv_programStaged
    | with_reducible apply inv_reply
    | with_reducible apply inv_ite
    | split

theorem inv_closeStaging {s : State} (g : Staging) (st : BankState) (complete : Bool) (h : s.Inv) :
    (State.closeStaging s g st complete).Inv := by
  unfold State.closeStaging
  try dsimp only
  repeat' first
    | with_reducible assumption
    | with_reducible apply inv_modComponent
    | with_reducible apply inv_dropStagingJobs
    | with_reducible apply inv_modUpdate

theorem inv_execStageEnd (dt : Ticks) (c : Call) (p : Bytes) {s : State} (h : s.Inv) :
    ∃ t, execStageEnd dt c p s = .next t ∧ t.Inv := by
  unfold execStageEnd
  refine ⟨_, rfl, ?_⟩
  try dsimp only
  repeat' first
    | intro _
    | with_reducible assumption
    | with_reducible apply inv_closeStaging
    | with_reducible apply inv_elapse
    | with_reducible apply inv_onCommand
    | with_reducible apply inv_reply
    | with_reducible apply inv_ite
    | split

theorem inv_execStageAbort (dt : Ticks) (c : Call) (p : Bytes) {s : State} (h : s.Inv) :
    ∃ t, execStageAbort dt c p s = .next t ∧ t.Inv := by
  unfold execStageAbort
  refine ⟨_, rfl, ?_⟩
  try dsimp only
  repeat' first
    | intro _
    | with_reducible assumption
    | with_reducible apply inv_closeStaging
    | with_reducible apply inv_elapse
    | with_reducible apply inv_onCommand
    | with_reducible apply inv_reply
    | split

theorem inv_execReadManifest (dt : Ticks) (c : Call) (p : Bytes) {s : State} (h : s.Inv) :
    ∃ t, execReadManifest dt c p s = .next t ∧ t.Inv := by
  unfold execReadManifest
  refine ⟨_, rfl, ?_⟩
  try dsimp only
  repeat' first
    | intro _
    | with_reducible assumption
    | with_reducible apply inv_elapse
    | with_reducible apply inv_onCommand
    | with_reducible apply inv_reply
    | with_reducible apply inv_ite

theorem inv_startTrial {s : State} (k : ℕ) (h : s.Inv) :
    (State.startTrial s k).Inv := by
  unfold State.startTrial
  try dsimp only
  repeat' first
    | with_reducible assumption
    | with_reducible apply inv_modComponent

theorem inv_causeActivate {s : State} (h : s.Inv) :
    (State.causeActivate s).Inv := by
  unfold State.causeActivate
  try dsimp only
  repeat' first
    | intro _
    | with_reducible assumption
    | with_reducible apply inv_modBoot

theorem inv_activateApp {s : State} (f : InFlight) (env : StartEnv) (h : s.Inv) :
    (State.activateApp s f env).Inv := by
  unfold State.activateApp
  try dsimp only
  repeat' first
    | intro _
    | with_reducible assumption
    | with_reducible apply inv_acDown
    | with_reducible apply inv_acknowledge
    | with_reducible apply inv_announceUpdate
    | with_reducible apply inv_appReload
    | with_reducible apply inv_causeActivate
    | with_reducible apply inv_modBoot
    | with_reducible apply inv_modUpdate
    | with_reducible apply inv_startTrial

theorem inv_activateFe {s : State} (f : InFlight) (h : s.Inv) :
    (State.activateFe s f).Inv := by
  unfold State.activateFe
  try dsimp only
  repeat' first
    | with_reducible assumption
    | with_reducible apply inv_acknowledge
    | with_reducible apply inv_announceUpdate
    | with_reducible apply inv_causeActivate
    | with_reducible apply inv_feRestart
    | with_reducible apply inv_modUpdate
    | with_reducible apply inv_reply
    | with_reducible apply inv_selectImage
    | with_reducible apply inv_startTrial

theorem inv_activateLegal {s : State} (f : InFlight) (k : ℕ) (h : s.Inv) :
    (State.activateLegal s f k).Inv := by
  unfold State.activateLegal
  try dsimp only
  repeat' first
    | with_reducible assumption
    | with_reducible apply inv_modUpdate
    | with_reducible apply inv_submit
    | with_reducible apply inv_ite

theorem inv_execActivate (dt : Ticks) (c : Call) (p : Bytes) (env : StartEnv) {s : State} (h : s.Inv) :
    ∃ t, execActivate dt c p env s = .next t ∧ t.Inv := by
  unfold execActivate
  refine ⟨_, rfl, ?_⟩
  try dsimp only
  repeat' first
    | intro _
    | with_reducible assumption
    | with_reducible apply inv_activateApp
    | with_reducible apply inv_activateFe
    | with_reducible apply inv_activateLegal
    | with_reducible apply inv_elapse
    | with_reducible apply inv_onCommand
    | with_reducible apply inv_reply
    | with_reducible apply inv_ite

theorem inv_answerActivate (r : GateRequest) {s : State} (h : s.Inv) :
    (State.answerActivate r s).Inv := by
  unfold State.answerActivate
  try dsimp only
  repeat' first
    | intro _
    | with_reducible assumption
    | with_reducible apply inv_foldl
    | with_reducible apply inv_meet
    | with_reducible apply inv_modLegal
    | with_reducible apply inv_modMem
    | with_reducible apply inv_noteSealFull
    | with_reducible apply inv_refuseGate
    | with_reducible apply wf_foldl
    | with_reducible apply wf_revoke
    | with_reducible apply inv_foldl
    | with_reducible apply inv_foldl_fst
    | with_reducible apply wf_foldl
    | with_reducible apply inv_ite
    | split
    | (have hb := ‹Legal.Bounded _›; with_reducible exact hb.congr rfl rfl rfl rfl)

theorem inv_execGateActivateLegal (dt : Ticks) {s : State} (h : s.Inv) :
    ∃ t, execGateActivateLegal dt s = .next t ∧ t.Inv := by
  unfold execGateActivateLegal
  refine ⟨_, rfl, ?_⟩
  try dsimp only
  repeat' first
    | intro _
    | with_reducible assumption
    | with_reducible apply inv_answerActivate
    | with_reducible apply inv_elapse
    | with_reducible apply inv_serve

theorem inv_switchLegal {s : State} (a : LegalActivation) (r : GateRequest) (env : StartEnv) (h : s.Inv) :
    (State.switchLegal s a r env).Inv := by
  unfold State.switchLegal
  try dsimp only
  repeat' first
    | intro _
    | with_reducible assumption
    | with_reducible apply inv_answer
    | with_reducible apply inv_causeActivate
    | with_reducible apply inv_lcDown
    | with_reducible apply inv_legalReload
    | with_reducible apply inv_modBoot
    | with_reducible apply inv_modLegal
    | with_reducible apply inv_startTrial
    | (have hb := ‹Legal.Bounded _›; with_reducible exact hb.congr rfl rfl rfl rfl)

theorem inv_execLegalActivationSwitch (dt : Ticks) (env : StartEnv) {s : State} (h : s.Inv) :
    ∃ t, execLegalActivationSwitch dt env s = .next t ∧ t.Inv := by
  unfold execLegalActivationSwitch
  refine ⟨_, rfl, ?_⟩
  try dsimp only
  repeat' first
    | intro _
    | with_reducible assumption
    | with_reducible apply inv_elapse
    | with_reducible apply inv_modLegal
    | with_reducible apply inv_modMem
    | with_reducible apply inv_refuseGate
    | with_reducible apply inv_switchLegal
    | with_reducible apply wf_releaseWindows
    | with_reducible apply inv_ite
    | (have hb := ‹Legal.Bounded _›; with_reducible exact hb.congr rfl rfl rfl rfl)
    | split

theorem inv_execLegalActivationTimeout (dt : Ticks) (env : StartEnv) {s : State} (h : s.Inv) :
    ∃ t, execLegalActivationTimeout dt env s = .next t ∧ t.Inv := by
  unfold execLegalActivationTimeout
  refine ⟨_, rfl, ?_⟩
  try dsimp only
  repeat' first
    | with_reducible assumption
    | with_reducible apply inv_elapse
    | with_reducible apply inv_lcDown
    | with_reducible apply inv_legalReload
    | with_reducible apply inv_ite
    | split

theorem inv_execNonlegalActivationTimeout (dt : Ticks) (env : StartEnv) {s : State} (h : s.Inv) :
    ∃ t, execNonlegalActivationTimeout dt env s = .next t ∧ t.Inv := by
  unfold execNonlegalActivationTimeout
  refine ⟨_, rfl, ?_⟩
  try dsimp only
  repeat' first
    | with_reducible assumption
    | with_reducible apply inv_acDown
    | with_reducible apply inv_appReload
    | with_reducible apply inv_elapse
    | with_reducible apply inv_ite
    | split

theorem inv_logConfirmed {s : State} (h : s.Inv) :
    (State.logConfirmed s).Inv := by
  unfold State.logConfirmed
  try dsimp only
  repeat' first
    | with_reducible assumption
    | with_reducible apply inv_logEvent

theorem inv_execTrialConfirm (dt : Ticks) (component : ℕ) {s : State} (h : s.Inv) :
    ∃ t, execTrialConfirm dt component s = .next t ∧ t.Inv := by
  unfold execTrialConfirm
  refine ⟨_, rfl, ?_⟩
  try dsimp only
  repeat' first
    | intro _
    | with_reducible assumption
    | with_reducible apply inv_announceUpdate
    | with_reducible apply inv_elapse
    | with_reducible apply inv_logConfirmed
    | with_reducible apply inv_modComponent
    | with_reducible apply inv_modLegal
    | with_reducible apply inv_modUpdate
    | with_reducible apply inv_ite
    | (have hb := ‹Legal.Bounded _›; with_reducible exact hb.congr rfl rfl rfl rfl)

theorem inv_execTrialWatchdogExpiry (dt : Ticks) (component : ℕ) (env : StartEnv) {s : State} (h : s.Inv) :
    ∃ t, execTrialWatchdogExpiry dt component env s = .next t ∧ t.Inv := by
  unfold execTrialWatchdogExpiry
  refine ⟨_, rfl, ?_⟩
  try dsimp only
  repeat' first
    | intro _
    | with_reducible assumption
    | with_reducible apply inv_acDown
    | with_reducible apply inv_appReload
    | with_reducible apply inv_elapse
    | with_reducible apply inv_feRestart
    | with_reducible apply inv_lcDown
    | with_reducible apply inv_legalReload
    | with_reducible apply inv_modBoot
    | with_reducible apply inv_selectImage
    | with_reducible apply inv_ite
    | split

theorem inv_execActivateResponseDiscard (dt : Ticks) {s : State} (h : s.Inv) :
    ∃ t, execActivateResponseDiscard dt s = .next t ∧ t.Inv := by
  unfold execActivateResponseDiscard
  refine ⟨_, rfl, ?_⟩
  try dsimp only
  repeat' first
    | with_reducible assumption
    | with_reducible apply inv_elapse
    | with_reducible apply inv_modPorts
    | with_reducible apply inv_ite
    | split

end Sys2Proof.Machine
end

