-- ==== Sys2Proof/Laws/InvDelivery.lean ====
section
/-! SUPPORT. Every operation of Machine/Delivery.lean keeps the invariant. -/

namespace Sys2Proof.Machine

theorem inv_keepItem {s : State} (code : ℕ) (payload : Bytes) (h : s.Inv) :
    (State.keepItem s code payload).Inv := by
  unfold State.keepItem
  try dsimp only
  repeat' first
    | intro _
    | with_reducible assumption
    | with_reducible apply inv_modFabric
    | with_reducible apply inv_ite

theorem inv_legalSwitched {s : State} (f : InFlight) (h : s.Inv) :
    (State.legalSwitched s f).Inv := by
  unfold State.legalSwitched
  try dsimp only
  repeat' first
    | intro _
    | with_reducible assumption
    | with_reducible apply inv_acknowledge
    | with_reducible apply inv_announceUpdate
    | with_reducible apply inv_modHawk
    | with_reducible apply inv_modUpdate
    | split

theorem inv_answered {s : State} (f : InFlight) (code : ℕ) (status : ℕ) (payload : Bytes) (h : s.Inv) :
    (State.answered s f code status payload).Inv := by
  unfold State.answered
  try dsimp only
  repeat' first
    | with_reducible assumption
    | with_reducible apply inv_keepItem
    | with_reducible apply inv_legalSwitched
    | with_reducible apply inv_modUpdate
    | with_reducible apply inv_respond
    | with_reducible apply inv_settleCapture
    | with_reducible apply inv_ite

theorem inv_ownAnswered {s : State} (request : Bytes) (status : Nat) (payload : Bytes) (h : s.Inv) :
    (State.ownAnswered s request status payload).Inv := by
  unfold State.ownAnswered
  try dsimp only
  repeat' first
    | intro _
    | with_reducible assumption
    | with_reducible apply inv_modProv
    | with_reducible apply inv_ite
    | split

theorem inv_takeAnswer {s : State} (gseq : ℕ) (code : ℕ) (status : ℕ) (payload : Bytes) (h : s.Inv) :
    (State.takeAnswer s gseq code status payload).Inv := by
  unfold State.takeAnswer
  try dsimp only
  repeat' first
    | intro _
    | with_reducible assumption
    | with_reducible apply inv_answered
    | with_reducible apply inv_modGate
    | with_reducible apply inv_modUpdate
    | with_reducible apply inv_ownAnswered
    | with_reducible apply inv_ite
    | (have hb := ‹Gate.Bounded _›; with_reducible exact hb.congr rfl)
    | split

theorem inv_imageSeen {s : State} (entry : Bytes) (h : s.Inv) :
    (State.imageSeen s entry).Inv := by
  unfold State.imageSeen
  try dsimp only
  repeat' first
    | with_reducible assumption
    | with_reducible apply inv_modUpdate
    | with_reducible apply inv_respond
    | with_reducible apply inv_ite
    | split

theorem inv_takeNews {s : State} (x1 : Unsolicited) (h : s.Inv) :
    (State.takeNews s x1).Inv := by
  unfold State.takeNews
  try dsimp only
  repeat' first
    | intro _
    | with_reducible assumption
    | with_reducible apply inv_imageSeen
    | with_reducible apply inv_modHawk
    | with_reducible apply inv_postEvent
    | split

theorem inv_execGateReplyReceive (dt : Ticks) {s : State} (h : s.Inv) :
    ∃ t, execGateReplyReceive dt s = .next t ∧ t.Inv := by
  unfold execGateReplyReceive
  refine ⟨_, rfl, ?_⟩
  try dsimp only
  repeat' first
    | intro _
    | with_reducible assumption
    | with_reducible apply inv_answer
    | with_reducible apply inv_elapse
    | with_reducible apply inv_modGate
    | with_reducible apply inv_takeAnswer
    | with_reducible apply inv_takeNews
    | with_reducible apply inv_ite
    | split
    | (have hb := ‹Gate.Bounded _›; with_reducible exact hb.congr rfl)

theorem inv_execGateSlotFreeSubmit (dt : Ticks) {s : State} (h : s.Inv) :
    ∃ t, execGateSlotFreeSubmit dt s = .next t ∧ t.Inv := by
  unfold execGateSlotFreeSubmit
  refine ⟨_, rfl, ?_⟩
  try dsimp only
  repeat' first
    | intro _
    | with_reducible assumption
    | with_reducible apply inv_elapse
    | with_reducible apply inv_modGate
    | with_reducible apply inv_schedule
    | with_reducible apply inv_ite
    | (have hb := ‹Gate.Bounded _›; with_reducible exact hb.congr rfl)
    | split

theorem inv_storeNext {s : State} (h : s.Inv) :
    (State.storeNext s).Inv := by
  unfold State.storeNext
  try dsimp only
  repeat' first
    | intro _
    | with_reducible assumption
    | with_reducible apply inv_addSeries
    | with_reducible apply inv_appendReading
    | with_reducible apply inv_modHawk
    | with_reducible apply inv_openSector
    | with_reducible apply inv_ite
    | split

theorem inv_deliverNext {s : State} (h : s.Inv) :
    (State.deliverNext s).Inv := by
  unfold State.deliverNext
  try dsimp only
  repeat' first
    | intro _
    | with_reducible assumption
    | with_reducible apply inv_forwardReading
    | with_reducible apply inv_modHawk
    | with_reducible apply inv_postBulk
    | with_reducible apply inv_ite
    | split

theorem inv_execReadingDelivery (dt : Ticks) {s : State} (h : s.Inv) :
    ∃ t, execReadingDelivery dt s = .next t ∧ t.Inv := by
  unfold execReadingDelivery
  refine ⟨_, rfl, ?_⟩
  try dsimp only
  repeat' first
    | with_reducible assumption
    | with_reducible apply inv_deliverNext
    | with_reducible apply inv_elapse
    | with_reducible apply inv_handOver
    | with_reducible apply inv_storeNext
    | with_reducible apply inv_ite
    | split

end Sys2Proof.Machine
end

