-- ==== Sys2Proof/Laws/InvPorts.lean ====
section
/-! SUPPORT. Every operation of Machine/Ports.lean keeps the invariant. -/

namespace Sys2Proof.Machine

theorem inv_scanPad {s : State} (k : ℕ) (raw : ℕ) (h : s.Inv) :
    (State.scanPad s k raw).Inv := by
  unfold State.scanPad
  try dsimp only
  repeat' first
    | with_reducible assumption
    | with_reducible apply inv_modPorts

theorem inv_execTouchScan (dt : Ticks) (raws : List ℕ) {s : State} (h : s.Inv) :
    ∃ t, execTouchScan dt raws s = .next t ∧ t.Inv := by
  unfold execTouchScan
  refine ⟨_, rfl, ?_⟩
  try dsimp only
  repeat' first
    | intro _
    | with_reducible assumption
    | with_reducible apply inv_elapse
    | with_reducible apply inv_modPorts
    | with_reducible apply inv_scanPad
    | with_reducible apply inv_ite
    | with_reducible apply inv_foldl

theorem inv_enablePads {s : State} (was : ℕ) (now : ℕ) (h : s.Inv) :
    (State.enablePads s was now).Inv := by
  unfold State.enablePads
  try dsimp only
  repeat' first
    | intro _
    | with_reducible assumption
    | with_reducible apply inv_modPorts
    | with_reducible apply inv_foldl

theorem inv_execVbatMeasure (dt : Ticks) (mv : ℕ) {s : State} (h : s.Inv) :
    ∃ t, execVbatMeasure dt mv s = .next t ∧ t.Inv := by
  unfold execVbatMeasure
  refine ⟨_, rfl, ?_⟩
  try dsimp only
  repeat' first
    | with_reducible assumption
    | with_reducible apply inv_elapse
    | with_reducible apply inv_modPorts
    | with_reducible apply inv_postFault
    | with_reducible apply inv_ite

theorem inv_cutStaging {s : State} (h : s.Inv) :
    (State.cutStaging s).Inv := by
  unfold State.cutStaging
  try dsimp only
  repeat' first
    | with_reducible assumption
    | with_reducible apply inv_closeStaging
    | with_reducible apply inv_respond
    | split

theorem inv_endSession {s : State} (h : s.Inv) :
    (State.endSession s).Inv := by
  unfold State.endSession
  try dsimp only
  repeat' first
    | intro _
    | with_reducible assumption
    | with_reducible apply inv_abortJobs
    | with_reducible apply inv_cutStaging
    | with_reducible apply inv_modPorts
    | with_reducible apply inv_orphanRoute
    | with_reducible apply inv_postEvent
    | with_reducible apply inv_ite
    | split

theorem inv_execVbusValid (dt : Ticks) {s : State} (h : s.Inv) :
    ∃ t, execVbusValid dt s = .next t ∧ t.Inv := by
  unfold execVbusValid
  refine ⟨_, rfl, ?_⟩
  try dsimp only
  repeat' first
    | with_reducible assumption
    | with_reducible apply inv_elapse
    | with_reducible apply inv_modPorts
    | with_reducible apply inv_startSession

theorem inv_execVbusInvalid (dt : Ticks) {s : State} (h : s.Inv) :
    ∃ t, execVbusInvalid dt s = .next t ∧ t.Inv := by
  unfold execVbusInvalid
  refine ⟨_, rfl, ?_⟩
  try dsimp only
  repeat' first
    | with_reducible assumption
    | with_reducible apply inv_elapse
    | with_reducible apply inv_endSession
    | with_reducible apply inv_modPorts

theorem inv_opticalIdle {s : State} (h : s.Inv) :
    (State.opticalIdle s).Inv := by
  unfold State.opticalIdle
  try dsimp only
  repeat' first
    | with_reducible assumption
    | with_reducible apply inv_modPorts

theorem inv_cutReadout {s : State} (h : s.Inv) : (State.cutReadout s).Inv := by
  unfold State.cutReadout
  exact inv_ite (inv_opticalIdle h) (inv_opticalIdle (inv_emit _ (inv_drawFree _ h)))

theorem inv_opticalDeparts {s : State} (h : s.Inv) :
    (State.opticalDeparts s).Inv := by
  unfold State.opticalDeparts
  try dsimp only
  repeat' first
    | with_reducible assumption
    | with_reducible apply inv_bump
    | with_reducible apply inv_opticalIdle

theorem inv_endRilfy {s : State} (h : s.Inv) :
    (State.endRilfy s).Inv := by
  unfold State.endRilfy
  try dsimp only
  repeat' first
    | intro _
    | with_reducible assumption
    | with_reducible apply inv_abortJobs
    | with_reducible apply inv_opticalIdle
    | with_reducible apply inv_orphanRoute
    | with_reducible apply inv_postEvent

theorem inv_execOptSignOn (dt : Ticks) (msg : Bytes) {s : State} (h : s.Inv) :
    ∃ t, execOptSignOn dt msg s = .next t ∧ t.Inv := by
  unfold execOptSignOn
  refine ⟨_, rfl, ?_⟩
  try dsimp only
  repeat' first
    | with_reducible assumption
    | with_reducible apply inv_elapse
    | with_reducible apply inv_emit
    | with_reducible apply inv_modPorts
    | with_reducible apply inv_opticalDeparts
    | with_reducible apply inv_ite
    | split

theorem inv_execOptOptionSelect (dt : Ticks) (msg : Bytes) {s : State} (h : s.Inv) :
    ∃ t, execOptOptionSelect dt msg s = .next t ∧ t.Inv := by
  unfold execOptOptionSelect
  refine ⟨_, rfl, ?_⟩
  try dsimp only
  repeat' first
    | with_reducible assumption
    | with_reducible apply inv_elapse
    | with_reducible apply inv_emit
    | with_reducible apply inv_modPorts
    | with_reducible apply inv_opticalDeparts
    | with_reducible apply inv_postEvent
    | with_reducible apply inv_ite
    | split

theorem inv_execOptMessageTimeout (dt : Ticks) {s : State} (h : s.Inv) :
    ∃ t, execOptMessageTimeout dt s = .next t ∧ t.Inv := by
  unfold execOptMessageTimeout
  refine ⟨_, rfl, ?_⟩
  try dsimp only
  repeat' first
    | with_reducible assumption
    | with_reducible apply inv_elapse
    | with_reducible apply inv_opticalDeparts
    | with_reducible apply inv_ite

theorem inv_execOptReadoutEnd (dt : Ticks) {s : State} (h : s.Inv) :
    ∃ t, execOptReadoutEnd dt s = .next t ∧ t.Inv := by
  unfold execOptReadoutEnd
  refine ⟨_, rfl, ?_⟩
  try dsimp only
  repeat' first
    | with_reducible assumption
    | with_reducible apply inv_elapse
    | with_reducible apply inv_emit
    | with_reducible apply inv_opticalIdle
    | with_reducible apply inv_ite

theorem inv_execOptRilfyIdleTimeout (dt : Ticks) {s : State} (h : s.Inv) :
    ∃ t, execOptRilfyIdleTimeout dt s = .next t ∧ t.Inv := by
  unfold execOptRilfyIdleTimeout
  refine ⟨_, rfl, ?_⟩
  try dsimp only
  repeat' first
    | with_reducible assumption
    | with_reducible apply inv_elapse
    | with_reducible apply inv_endRilfy
    | with_reducible apply inv_ite

theorem inv_enableOptical {s : State} (h : s.Inv) :
    (State.enableOptical s).Inv := by
  unfold State.enableOptical
  try dsimp only
  repeat' first
    | with_reducible assumption
    | with_reducible apply inv_endRilfy
    | with_reducible apply inv_cutReadout
    | with_reducible apply inv_opticalIdle
    | with_reducible apply inv_ite

theorem inv_externalHeat {s : State} (m : ℕ) (ml : ℕ) (h : s.Inv) :
    (State.externalHeat s m ml).Inv := by
  unfold State.externalHeat
  try dsimp only
  repeat' first
    | with_reducible assumption
    | with_reducible apply inv_modPoint
    | with_reducible apply inv_ite
    | split

theorem inv_takeVolume {s : State} (v : ℤ) (m : ℕ) (h : s.Inv) :
    (State.takeVolume s v m).Inv := by
  unfold State.takeVolume
  try dsimp only
  repeat' first
    | with_reducible assumption
    | with_reducible apply inv_bump
    | with_reducible apply inv_externalHeat
    | with_reducible apply inv_modPoint
    | with_reducible apply inv_ite
    | split

theorem inv_pollGood {s : State} (i : ℕ) (user : Bytes) (h : s.Inv) :
    (State.pollGood s i user).Inv := by
  unfold State.pollGood
  try dsimp only
  repeat' first
    | intro _
    | with_reducible assumption
    | with_reducible apply inv_modMbus
    | with_reducible apply inv_takeVolume
    | with_reducible apply inv_foldl
    | split

theorem inv_pollBad {s : State} (i : ℕ) (h : s.Inv) :
    (State.pollBad s i).Inv := by
  unfold State.pollBad
  try dsimp only
  repeat' first
    | with_reducible assumption
    | with_reducible apply inv_modMbus

theorem inv_pollMiss {s : State} (i : ℕ) (tries : ℕ) (selecting : Bool) (h : s.Inv) :
    (State.pollMiss s i tries selecting).Inv := by
  unfold State.pollMiss
  try dsimp only
  repeat' first
    | with_reducible assumption
    | with_reducible apply inv_modPorts
    | with_reducible apply inv_pollBad
    | with_reducible apply inv_pollFrom
    | with_reducible apply inv_sendPoll
    | with_reducible apply inv_ite

theorem inv_execMbusPollCycle (dt : Ticks) {s : State} (h : s.Inv) :
    ∃ t, execMbusPollCycle dt s = .next t ∧ t.Inv := by
  unfold execMbusPollCycle
  refine ⟨_, rfl, ?_⟩
  try dsimp only
  repeat' first
    | with_reducible assumption
    | with_reducible apply inv_bump
    | with_reducible apply inv_elapse
    | with_reducible apply inv_modPorts
    | with_reducible apply inv_pollFrom
    | with_reducible apply inv_ite

theorem inv_execMbusReply (dt : Ticks) (frame : Bytes) {s : State} (h : s.Inv) :
    ∃ t, execMbusReply dt frame s = .next t ∧ t.Inv := by
  unfold execMbusReply
  refine ⟨_, rfl, ?_⟩
  try dsimp only
  repeat' first
    | with_reducible assumption
    | with_reducible apply inv_elapse
    | with_reducible apply inv_modPorts
    | with_reducible apply inv_pollFrom
    | with_reducible apply inv_pollGood
    | with_reducible apply inv_pollMiss
    | with_reducible apply inv_sendPoll
    | with_reducible apply inv_ite
    | split

theorem inv_execMbusReplyTimeout (dt : Ticks) {s : State} (h : s.Inv) :
    ∃ t, execMbusReplyTimeout dt s = .next t ∧ t.Inv := by
  unfold execMbusReplyTimeout
  refine ⟨_, rfl, ?_⟩
  try dsimp only
  repeat' first
    | with_reducible assumption
    | with_reducible apply inv_elapse
    | with_reducible apply inv_pollFrom
    | with_reducible apply inv_pollMiss
    | with_reducible apply inv_ite
    | split

theorem inv_mbusState {s : State} (i : ℕ) (h : s.Inv) :
    (State.mbusState s i).2.Inv := by
  unfold State.mbusState
  try dsimp only
  repeat' first
    | with_reducible assumption
    | with_reducible apply inv_drawFree
    | split

theorem inv_mbusAge {s : State} (i : ℕ) (h : s.Inv) :
    (State.mbusAge s i).2.Inv := by
  unfold State.mbusAge
  try dsimp only
  repeat' first
    | with_reducible assumption
    | with_reducible apply inv_drawFree
    | split

theorem inv_listMeter {x : State × Bytes} (i : ℕ) (h : x.1.Inv) :
    (listMeter x i).1.Inv := by
  unfold listMeter
  try dsimp only
  repeat' first
    | with_reducible assumption
    | with_reducible apply inv_mbusAge
    | with_reducible apply inv_mbusState

theorem inv_execMbusList (dt : Ticks) (c : Call) (p : Bytes) {s : State} (h : s.Inv) :
    ∃ t, execMbusList dt c p s = .next t ∧ t.Inv := by
  unfold execMbusList
  refine ⟨_, rfl, ?_⟩
  try dsimp only
  repeat' first
    | intro _
    | with_reducible assumption
    | with_reducible apply inv_elapse
    | with_reducible apply inv_listMeter
    | with_reducible apply inv_onCommand
    | with_reducible apply inv_reply
    | with_reducible apply inv_foldl_fst

theorem inv_execMbusRead (dt : Ticks) (c : Call) (p : Bytes) {s : State} (h : s.Inv) :
    ∃ t, execMbusRead dt c p s = .next t ∧ t.Inv := by
  unfold execMbusRead
  refine ⟨_, rfl, ?_⟩
  try dsimp only
  repeat' first
    | intro _
    | with_reducible assumption
    | with_reducible apply inv_elapse
    | with_reducible apply inv_onCommand
    | with_reducible apply inv_reply
    | split

theorem inv_fitted {s : State} (w : ℕ) (known : Bool) (x : ℤ) (h : s.Inv) :
    (State.fitted s w known x).2.Inv := by
  unfold State.fitted
  try dsimp only
  repeat' first
    | with_reducible assumption
    | with_reducible apply inv_drawFree
    | split

theorem inv_thd {s : State} (xs : List Phasor) (h : s.Inv) :
    (State.thd s xs).2.Inv := by
  unfold State.thd
  try dsimp only
  repeat' first
    | with_reducible assumption
    | with_reducible apply inv_fitted

theorem inv_phaseAngle {s : State} (v : Phasor) (i : Phasor) (h : s.Inv) :
    (State.phaseAngle s v i).2.Inv := by
  unfold State.phaseAngle
  try dsimp only
  repeat' first
    | with_reducible assumption
    | with_reducible apply inv_drawFree
    | split

theorem inv_phaseEntry {x : State × Bytes} (vi : Phasor × Phasor) (h : x.1.Inv) :
    (phaseEntry x vi).1.Inv := by
  unfold phaseEntry
  try dsimp only
  repeat' first
    | with_reducible assumption
    | with_reducible apply inv_fitted
    | with_reducible apply inv_phaseAngle

theorem inv_neutralEntry {x : State × Bytes} (i : Phasor) (h : x.1.Inv) :
    (neutralEntry x i).1.Inv := by
  unfold neutralEntry
  try dsimp only
  repeat' first
    | with_reducible assumption
    | with_reducible apply inv_drawFree

theorem inv_harmonicBlock {s : State} (m : ℕ) (top : ℕ) (volts : List Float) (amps : List Float) (ph : ℕ) (h : s.Inv) :
    (State.harmonicBlock s m top volts amps ph).1.Inv := by
  unfold State.harmonicBlock
  try dsimp only
  repeat' first
    | intro _
    | with_reducible assumption
    | with_reducible apply inv_phaseEntry
    | with_reducible apply inv_thd
    | with_reducible apply inv_foldl_fst

theorem inv_neutralBlock {s : State} (top : ℕ) (amps : List Float) (h : s.Inv) :
    (State.neutralBlock s top amps).1.Inv := by
  unfold State.neutralBlock
  try dsimp only
  repeat' first
    | intro _
    | with_reducible assumption
    | with_reducible apply inv_neutralEntry
    | with_reducible apply inv_thd
    | with_reducible apply inv_foldl_fst

theorem inv_harmonicBlocks {s : State} (m : ℕ) (top : ℕ) (phases : List (List Float × List Float)) (neutral : Option (List Float)) (h : s.Inv) :
    (State.harmonicBlocks s m top phases neutral).1.Inv := by
  unfold State.harmonicBlocks
  try dsimp only
  repeat' first
    | intro _
    | with_reducible assumption
    | with_reducible apply inv_harmonicBlock
    | with_reducible apply inv_neutralBlock
    | with_reducible apply inv_foldl_fst
    | split

theorem inv_execHarmonicSecond (dt : Ticks) (mp : Nat) {s : State} (h : s.Inv) :
    ∃ t, execHarmonicSecond dt mp s = .next t ∧ t.Inv := by
  unfold execHarmonicSecond
  refine ⟨_, rfl, ?_⟩
  try dsimp only
  repeat' first
    | intro _
    | with_reducible assumption
    | with_reducible apply inv_elapse
    | with_reducible apply inv_harmonicBlocks
    | with_reducible apply inv_modPoint
    | with_reducible apply inv_offerBulk
    | with_reducible apply inv_ite
    | split

end Sys2Proof.Machine
end

