-- ==== Sys2Proof/Laws/InvParams.lean ====
section
/-! SUPPORT. Every operation of Machine/Params.lean keeps the invariant. -/

namespace Sys2Proof.Machine

theorem inv_clearRead {s : State} (id : ℕ) (h : s.Inv) :
    (State.clearRead s id).Inv := by
  unfold State.clearRead
  try dsimp only
  repeat' first
    | with_reducible assumption
    | with_reducible apply inv_modPorts
    | with_reducible apply inv_ite

theorem inv_execGetParam (dt : Ticks) (c : Call) (p : Bytes) {s : State} (h : s.Inv) :
    ∃ t, execGetParam dt c p s = .next t ∧ t.Inv := by
  unfold execGetParam
  refine ⟨_, rfl, ?_⟩
  try dsimp only
  repeat' first
    | intro _
    | with_reducible assumption
    | with_reducible apply inv_clearRead
    | with_reducible apply inv_elapse
    | with_reducible apply inv_onCommand
    | with_reducible apply inv_reply
    | split

theorem inv_enableMbus {s : State} (h : s.Inv) :
    (State.enableMbus s).Inv := by
  unfold State.enableMbus
  try dsimp only
  repeat' first
    | with_reducible assumption
    | with_reducible apply inv_mbusStart
    | with_reducible apply inv_modPorts
    | with_reducible apply inv_ite

theorem inv_appChanged {s : State} (id : ℕ) (old : Bytes) (new : Bytes) (h : s.Inv) :
    (State.appChanged s id old new).Inv := by
  unfold State.appChanged
  try dsimp only
  repeat' first
    | with_reducible assumption
    | with_reducible apply inv_applyPorts
    | with_reducible apply inv_enableMbus
    | with_reducible apply inv_enableOptical
    | with_reducible apply inv_enablePads
    | with_reducible apply inv_modPorts
    | with_reducible apply inv_modProv
    | with_reducible apply inv_noteElection
    | with_reducible apply inv_topologyChanged
    | with_reducible apply inv_ite
    | split

theorem inv_storeApp {s : State} (id : ℕ) (v : Bytes) (h : s.Inv) :
    (State.storeApp s id v).Inv := by
  unfold State.storeApp
  try dsimp only
  repeat' first
    | with_reducible assumption
    | with_reducible apply inv_appChanged
    | with_reducible apply inv_bringIntoForce
    | with_reducible apply inv_putParam
    | with_reducible apply inv_putPending
    | with_reducible apply inv_ite

theorem inv_execSetParam (dt : Ticks) (c : Call) (p : Bytes) {s : State} (h : s.Inv) :
    ∃ t, execSetParam dt c p s = .next t ∧ t.Inv := by
  unfold execSetParam
  refine ⟨_, rfl, ?_⟩
  try dsimp only
  repeat' first
    | intro _
    | with_reducible assumption
    | with_reducible apply inv_elapse
    | with_reducible apply inv_onCommand
    | with_reducible apply inv_reply
    | with_reducible apply inv_storeApp
    | with_reducible apply inv_submit
    | with_reducible apply inv_ite
    | split

end Sys2Proof.Machine
end

