-- ==== Sys2Proof/Laws/InvUpkeep.lean ====
section
/-! SUPPORT. Every operation of Machine/Upkeep.lean keeps the invariant. -/

namespace Sys2Proof.Machine

theorem inv_faultParam {s : State} (id : ℕ) (h : s.Inv) :
    (State.faultParam s id).Inv := by
  unfold State.faultParam
  try dsimp only
  repeat' first
    | intro _
    | with_reducible assumption
    | with_reducible apply inv_logEvent
    | with_reducible apply inv_modLegal
    | with_reducible apply inv_openGaps
    | with_reducible apply inv_postFault
    | with_reducible apply inv_ite
    | (have hb := ‹Legal.Bounded _›; with_reducible exact hb.congr rfl rfl rfl rfl)

theorem inv_lostWord {s : State} (x1 : ScrubFinding) (h : s.Inv) :
    (State.lostWord s x1).Inv := by
  unfold State.lostWord
  try dsimp only
  repeat' first
    | intro _
    | with_reducible assumption
    | with_reducible apply inv_rebuildStore
    | with_reducible apply inv_modMem
    | with_reducible apply inv_faultParam
    | with_reducible apply inv_modComponent
    | with_reducible apply inv_modLegal
    | with_reducible apply inv_modPoint
    | with_reducible apply inv_postFault
    | with_reducible apply inv_storeApp
    | with_reducible apply inv_ite
    | (have hb := ‹Legal.Bounded _›; with_reducible exact hb.congr rfl rfl rfl rfl)
    | split

theorem inv_execMramScrub (dt : Ticks) (finding : ScrubFinding) {s : State} (h : s.Inv) :
    ∃ t, execMramScrub dt finding s = .next t ∧ t.Inv := by
  unfold execMramScrub
  refine ⟨_, rfl, ?_⟩
  try dsimp only
  repeat' first
    | with_reducible assumption
    | with_reducible apply inv_bump
    | with_reducible apply inv_elapse
    | with_reducible apply inv_lostWord
    | with_reducible apply inv_ite

theorem inv_execSramScrubLine (dt : Ticks) (line : ℕ) (finding : LineFinding) {s : State} (h : s.Inv) :
    ∃ t, execSramScrubLine dt line finding s = .next t ∧ t.Inv := by
  unfold execSramScrubLine
  refine ⟨_, rfl, ?_⟩
  try dsimp only
  repeat' first
    | intro _
    | with_reducible assumption
    | with_reducible apply inv_bump
    | with_reducible apply inv_elapse
    | with_reducible apply inv_modMem
    | with_reducible apply wf_poison
    | with_reducible apply inv_ite
    | split

theorem inv_linksOff {s : State} (h : s.Inv) :
    (State.linksOff s).Inv := by
  unfold State.linksOff
  try dsimp only
  repeat' first
    | intro _
    | with_reducible assumption
    | with_reducible apply inv_setPort
    | with_reducible apply inv_foldl

theorem inv_portsIdle {s : State} (h : s.Inv) :
    (State.portsIdle s).Inv := by
  unfold State.portsIdle
  try dsimp only
  repeat' first
    | with_reducible assumption
    | with_reducible apply inv_endRilfy
    | with_reducible apply inv_modPorts
    | with_reducible apply inv_cutReadout
    | with_reducible apply inv_ite

theorem inv_fallToCoarse {s : State} (h : s.Inv) :
    (State.fallToCoarse s).Inv := by
  unfold State.fallToCoarse
  try dsimp only
  repeat' first
    | with_reducible assumption
    | with_reducible apply inv_modNtu
    | with_reducible apply inv_setTimeStatus
    | with_reducible apply inv_ite

theorem inv_execMainClockFault (dt : Ticks) {s : State} (h : s.Inv) :
    ∃ t, execMainClockFault dt s = .next t ∧ t.Inv := by
  unfold execMainClockFault
  refine ⟨_, rfl, ?_⟩
  try dsimp only
  repeat' first
    | intro _
    | with_reducible assumption
    | with_reducible apply inv_bump
    | with_reducible apply inv_elapse
    | with_reducible apply inv_endSession
    | with_reducible apply inv_fallToCoarse
    | with_reducible apply inv_linksOff
    | with_reducible apply inv_modBoot
    | with_reducible apply inv_modNtu
    | with_reducible apply inv_portsIdle
    | with_reducible apply inv_postFault
    | with_reducible apply inv_stopAll
    | with_reducible apply inv_ite

theorem inv_mainClockBack {s : State} (h : s.Inv) :
    (State.mainClockBack s).Inv := by
  unfold State.mainClockBack
  try dsimp only
  repeat' first
    | intro _
    | with_reducible assumption
    | with_reducible apply inv_applyPorts
    | with_reducible apply inv_modBoot
    | with_reducible apply inv_modNtu
    | with_reducible apply inv_modPorts
    | with_reducible apply inv_restartAll
    | with_reducible apply inv_settleGaps
    | with_reducible apply inv_startSession
    | with_reducible apply inv_ite

theorem inv_execPllRestartTry (dt : Ticks) (locked : Bool) {s : State} (h : s.Inv) :
    ∃ t, execPllRestartTry dt locked s = .next t ∧ t.Inv := by
  unfold execPllRestartTry
  refine ⟨_, rfl, ?_⟩
  try dsimp only
  repeat' first
    | with_reducible assumption
    | with_reducible apply inv_elapse
    | with_reducible apply inv_mainClockBack
    | with_reducible apply inv_modNtu
    | with_reducible apply inv_ite
    | split

theorem inv_execDspClockFault (dt : Ticks) {s : State} (h : s.Inv) :
    ∃ t, execDspClockFault dt s = .next t ∧ t.Inv := by
  unfold execDspClockFault
  refine ⟨_, rfl, ?_⟩
  try dsimp only
  repeat' first
    | with_reducible assumption
    | with_reducible apply inv_bump
    | with_reducible apply inv_elapse
    | with_reducible apply inv_modNtu
    | with_reducible apply inv_postFault
    | with_reducible apply inv_stopAll
    | with_reducible apply inv_ite

theorem inv_execDspClockRelockTry (dt : Ticks) (locked : Bool) {s : State} (h : s.Inv) :
    ∃ t, execDspClockRelockTry dt locked s = .next t ∧ t.Inv := by
  unfold execDspClockRelockTry
  refine ⟨_, rfl, ?_⟩
  try dsimp only
  repeat' first
    | with_reducible assumption
    | with_reducible apply inv_elapse
    | with_reducible apply inv_modNtu
    | with_reducible apply inv_restartAll
    | with_reducible apply inv_settleGaps
    | with_reducible apply inv_ite

end Sys2Proof.Machine
end

