-- ==== Sys2Proof/Laws/Ops.lean ====
section
/-! SUPPORT. One lemma for each shared operation: all that it does where it is not turned away. -/

namespace Sys2Proof.Machine

/-! ### Commands and the gate -/

/-- A request submitted to an open gate takes the next sequence number and waits (R27, R37). -/
theorem submit_open (s : State) (f : InFlight) (code : Nat) (p : Bytes) (h : s.gateOpen = true)
    (hp : p.length ≤ gatePayloadMax) : s.submit f code p = s.withRequest f code p := by
  simp [State.gateOpen] at h
  unfold State.submit
  rw [if_neg (by omega), if_neg (by simp [h.1]), if_neg (by omega)]
  rfl

/-- A command that was taken, whose operands pass and whose result fits has its own effect (R315, R316). -/
theorem onCommand_taken (s : State) (c : Call) (op n : Nat) (p : Bytes) (ok : Bool) (g : InFlight → State → State)
    (f : InFlight) (h : s.taken c op p = some f) (hn : n ≤ f.room) (ho : ok = true) :
    s.onCommand c op p ok n g = g f s := by
  unfold State.onCommand
  rw [h]
  simp [ho]
  omega

/-- An accepted calibration step is taken by its own function (R213). -/
theorem calStep_done (s : State) (r : GateRequest) (m step : Nat) (f : GateRequest → Nat → State → State)
    (h1 : s.nextRequest 13 = some r) (h2 : calFieldsOk r.payload = true) (h3 : field r.payload 0 1 = step)
    (h4 : field r.payload 1 1 = m) (h5 : s.legal.sealOpen = true) (h6 : s.calStepStatus m step = stDone)
    (h7 : step ≠ 1) : s.calStep step f = f r m s := by
  unfold State.calStep
  rw [h1]
  simp only [h2, if_true, h3, h4]
  rw [if_neg (by simp), if_neg (by simp), if_neg (by simp [h5]), if_neg h7]
  simp [h6, stDone, stNoResource]

/-- The components that STAGE_BEGIN and ACTIVATE name are 2 to 5. -/
theorem componentOk_add_two (k : Nat) (h : k < 4) : componentOk (k + 2) = true := by
  simp [componentOk]
  omega

/-- An AC context that ends frees its place and no more. -/
theorem closeContext_ac (s : State) (i : Nat) (x : Context) (h : s.crypto.contexts.getD i none = some x)
    (hb : x.byLc = false) : s.closeContext i = s.modCrypto (fun k => k.place i none) := by
  unfold State.closeContext
  rw [h]
  simp [hb]

/-! ### Parameters -/

theorem lookupParam_insertParam (l : List (Nat × Bytes)) (id : Nat) (v : Bytes) :
    lookupParam (insertParam l id v) id = some v := by
  induction l with
  | nil => simp [insertParam, lookupParam]
  | cons e l ih =>
    unfold insertParam
    split
    · have : (e.1 == id) = false := by simp; omega
      simpa [lookupParam, List.find?, this] using ih
    · split <;> simp [lookupParam, List.find?]

theorem lookupParam_insertParam_ne (l : List (Nat × Bytes)) (id j : Nat) (v : Bytes) (h : j ≠ id) :
    lookupParam (insertParam l id v) j = lookupParam l j := by
  induction l with
  | nil => simp [insertParam, lookupParam]; omega
  | cons e l ih =>
    have hj : (id == j) = false := by simp; omega
    unfold insertParam
    split
    · cases k : (e.1 == j) <;> simp [lookupParam, List.find?, k] at ih ⊢
      exact ih
    · split
      · rename_i h1 h2
        simp [lookupParam, List.find?, h2, hj]
      · simp [lookupParam, List.find?, hj]

/-! ### Memory and the mailbox -/

theorem writeBytes_append (xs ys : Bytes) : ∀ (m : Memory) (a : Nat),
    Memory.writeBytes m a (xs ++ ys) = Memory.writeBytes (Memory.writeBytes m a xs) (a + xs.length) ys := by
  induction xs with
  | nil => intro m a; rfl
  | cons x xs ih =>
    intro m a
    simp only [List.cons_append, Memory.writeBytes, ih, List.length_cons]
    congr 1
    omega

/-- An entry of 64 bytes on a line boundary is written whole. -/
theorem sramWrite_entry (m : MemSys) (a : Nat) (bs : Bytes) (h : a % 32 = 0) (l : bs.length = 64) :
    (m.sramWrite a bs).cells = Memory.writeBytes m.cells a bs := by
  have e1 : lineChunks bs.length a bs = [(a, bs.take 32), (a + 32, bs.drop 32)] := by
    rw [l]
    have hb : bs.isEmpty = false := by cases bs <;> simp_all
    have hd : (bs.drop 32).isEmpty = false := by
      rw [Bool.eq_false_iff]
      intro h
      have := congrArg List.length (List.isEmpty_iff.1 h)
      simp [l] at this
    simp [lineChunks, hb, h, hd, l]
  unfold MemSys.sramWrite
  rw [e1]
  simp [MemSys.writeChunk, l]
  conv_rhs => rw [← List.take_append_drop 32 bs, writeBytes_append]
  simp [l]

theorem length_entryBytes (op tag flags origin status len : Nat) (p : Bytes) (h : p.length ≤ 48) :
    (entryBytes op tag flags origin status len 0 p).length = 64 := by
  simp [entryBytes, leBytes, zeros, padTo]
  omega

/-- A final response of the host goes to TAIL of an open RESPONSE ring with room (R291, R296). -/
theorem respond_host (s : State) (f : InFlight) (st : Nat) (result : Bytes) (ho : f.call.origin = .host)
    (hb : f.bulk = false) (hl : f.orphan = false) (hz : s.hawk.resetting = false)
    (hw : (s.ring 1).works = true) (hf : (s.ring 1).full = false) :
    s.respond f st result = (s.modHawk (fun h => { h with inFlight := h.inFlight.erase f })).pushEntry 1
      (entryBytes f.opcode f.tag flagFinal 0 st result.length 0 result) := by
  have hr : ∀ g : Hawk → List InFlight, (s.modHawk (fun h => { h with inFlight := g h })).ring 1 = s.ring 1 :=
    fun _ => rfl
  unfold State.respond State.sendResponse
  simp only [ho, hb, hl]
  have e : ∀ x, (s.modHawk (fun h => { h with inFlight := h.inFlight.erase f })).respondHost true x =
      (s.modHawk (fun h => { h with inFlight := h.inFlight.erase f })).pushEntry 1 x := by
    intro x
    unfold State.respondHost
    rw [hr, if_neg (by simp [State.modHawk, hz]), if_pos]
    simp [hw, hf]
  simp only [Bool.false_eq_true, if_false, e]
  unfold State.finishReset
  rw [if_pos]
  · simp [InFlight.responseEntry, hb, ho, originCode]
  · simp [State.pushEntry, State.modRing, State.modHawk, State.modMem, hz]

/-- An entry written at TAIL changes the mailbox and memory alone. -/
theorem pushEntry_frame (s : State) (n : Nat) (e : Bytes) :
    s.pushEntry n e = { s with hawk := (s.pushEntry n e).hawk, mem := (s.pushEntry n e).mem } := rfl

theorem loseEvent_frame (s : State) : s.loseEvent = { s with hawk := s.loseEvent.hawk } := rfl

/-- An event entry changes the mailbox and memory alone (R296, R298). -/
theorem postEvent_frame (s : State) (code : Nat) (p : Bytes) :
    s.postEvent code p = { s with hawk := (s.postEvent code p).hawk, mem := (s.postEvent code p).mem } := by
  have e : s.postEvent code p = if !s.ready then s else if (s.ring 2).works && !(s.ring 2).full then
      (s.pushEntry 2 (entryBytes code 0 (if (s.ring 2).lost then flagLost else 0) 0 0 p.length
        (s.ring 2).seqNo.toNat p)).modRing 2 (fun r => { r with seqNo := r.seqNo + 1, lost := false })
    else s.loseEvent := rfl
  rw [e]
  generalize entryBytes code 0 (if (s.ring 2).lost then flagLost else 0) 0 0 p.length (s.ring 2).seqNo.toNat p = b
  by_cases h : (!s.ready) = true
  · rw [if_pos h]
  · rw [if_neg h]
    by_cases k : ((s.ring 2).works && !(s.ring 2).full) = true
    · rw [if_pos k]
      rfl
    · rw [if_neg k]
      exact loseEvent_frame s

/-- A REG_WRITE frame of one aligned word writes its register (R280, R282). -/
theorem regWriteFrame_aligned (s : State) (off : Nat) (v : Word) (h : s.boot.held = false) (ho : off % 4 = 0) :
    s.regWriteFrame off v = (s.writeRegister off v).2.endFrame (s.writeRegister off v).1 := by
  unfold State.regWriteFrame State.regWriteBurst
  rw [if_neg (by simp [State.spiRuns, h]), if_neg (by simp [ho])]
  simp [wordOffsets, upTo, State.putRegister, firstCode]

theorem bit_toNat (v : Word) (i : Nat) : bit v.toNat i = v.getLsbD i := by simp [bit, BitVec.getLsbD]

/-! ### The always-on integrals -/

/-- Freezing the panel's integrals touches the always-on domain alone (R438). -/
theorem freezeIntegrals_frame (s : State) :
    s.freezeIntegrals = { s with aon := s.freezeIntegrals.aon, free := s.freezeIntegrals.free } := by
  unfold State.freezeIntegrals
  split
  · rfl
  · split
    · rfl
    · simp [State.modAon, State.drawFree]

/-! ### Skim (R470 to R478) -/

theorem length_bitsOf (w n : Nat) : (bitsOf w n).length = w := by simp [bitsOf, upTo]

theorem length_riceBits (k u : Nat) : (riceBits k u).length = riceLen k u := by
  unfold riceBits riceLen
  simp only []
  split <;> simp [length_bitsOf]
  omega

theorem length_packBits : ∀ (n : Nat) (l : List Bool), l.length < 8 * n + 8 →
    (packBits (n + 1) l).length = (l.length + 7) / 8
  | n, l, h => by
    unfold packBits
    split
    · rename_i he
      simp at he
      simp [he]
    · rename_i he
      have hp : 0 < l.length := by cases l <;> simp_all
      cases n with
      | zero => simp [packBits]; omega
      | succ n =>
        have := length_packBits n (l.drop 8) (by simp; omega)
        simp only [List.length_cons, this]
        simp
        omega

theorem length_packAll (l : List Bool) : (packAll l).length = (l.length + 7) / 8 := length_packBits _ _ (by omega)

theorem length_residuals (pred d : Nat) : ∀ (y xs : List Int), (residuals pred d y xs).length = xs.length
  | _, [] => rfl
  | y, x :: xs => by simp [residuals, length_residuals]

theorem clamp32_bounds (i : Int) : -2147483648 ≤ clamp32 i ∧ clamp32 i ≤ 2147483647 := by
  unfold clamp32 clampInt
  omega

/-- The quantiser leaves an error of at most D. -/
theorem quantise_error (d : Nat) (e : Int) : (e - quantise d e * (2 * d + 1)).natAbs ≤ d := by
  unfold quantise
  have h1 := Nat.div_add_mod (e.natAbs + d) (2 * d + 1)
  have h2 := Nat.mod_lt (e.natAbs + d) (show 0 < 2 * d + 1 by omega)
  generalize (e.natAbs + d) / (2 * d + 1) = q at *
  generalize (e.natAbs + d) % (2 * d + 1) = r at *
  have h1' : ((2 * d + 1 : Nat) : Int) * (q : Int) + r = e.natAbs + d := by exact_mod_cast h1
  have hc : ((q : Nat) : Int) * (2 * (d : Int) + 1) = ((2 * d + 1 : Nat) : Int) * (q : Int) := by
    push_cast
    ring
  simp only []
  split
  · rw [neg_mul, hc]
    omega
  · rw [hc]
    omega

theorem natAbs_quantise (d : Nat) (e : Int) : (quantise d e).natAbs ≤ e.natAbs := by
  have h : (e.natAbs + d) / (2 * d + 1) ≤ e.natAbs := by
    rw [← Nat.lt_succ_iff, Nat.div_lt_iff_lt_mul (by omega)]
    have := Nat.zero_le (d * e.natAbs)
    nlinarith
  unfold quantise
  dsimp only
  split
  · rwa [Int.natAbs_neg, Int.natAbs_natCast]
  · rwa [Int.natAbs_natCast]

/-- A reconstructed value lies within D of its sample, clamped or not. -/
theorem reconstruct_error (d : Nat) (p x : Int) (h : -2147483648 ≤ x ∧ x ≤ 2147483647) :
    (x - reconstruct d p (quantise d (x - p))).natAbs ≤ d := by
  have := quantise_error d (x - p)
  unfold reconstruct clamp32 clampInt
  generalize quantise d (x - p) * (2 * d + 1) = z at *
  omega

end Sys2Proof.Machine
end

