-- ==== Sys2Proof/Laws/State.lean ====
section
/-! SUPPORT. Every field after every named update of the state: one rule each, true by `rfl`. -/

namespace Sys2Proof.Machine

variable (s : State)

/-! ### modFabric -/

@[simp] theorem State.modFabric_ntu (f : Fabric → Fabric) : (s.modFabric f).ntu = s.ntu := rfl
@[simp] theorem State.modFabric_modDom (f : Fabric → Fabric) : (s.modFabric f).modDom = s.modDom := rfl
@[simp] theorem State.modFabric_aon (f : Fabric → Fabric) : (s.modFabric f).aon = s.aon := rfl
@[simp] theorem State.modFabric_boot (f : Fabric → Fabric) : (s.modFabric f).boot = s.boot := rfl
@[simp] theorem State.modFabric_params (f : Fabric → Fabric) : (s.modFabric f).params = s.params := rfl
@[simp] theorem State.modFabric_drivers (f : Fabric → Fabric) : (s.modFabric f).drivers = s.drivers := rfl
@[simp] theorem State.modFabric_sources (f : Fabric → Fabric) : (s.modFabric f).sources = s.sources := rfl
@[simp] theorem State.modFabric_inForce (f : Fabric → Fabric) : (s.modFabric f).inForce = s.inForce := rfl
@[simp] theorem State.modFabric_channels (f : Fabric → Fabric) : (s.modFabric f).channels = s.channels := rfl
@[simp] theorem State.modFabric_counters (f : Fabric → Fabric) : (s.modFabric f).counters = s.counters := rfl
@[simp] theorem State.modFabric_sync (f : Fabric → Fabric) : (s.modFabric f).sync = s.sync := rfl
@[simp] theorem State.modFabric_points (f : Fabric → Fabric) : (s.modFabric f).points = s.points := rfl
@[simp] theorem State.modFabric_legal (f : Fabric → Fabric) : (s.modFabric f).legal = s.legal := rfl
@[simp] theorem State.modFabric_gate (f : Fabric → Fabric) : (s.modFabric f).gate = s.gate := rfl
@[simp] theorem State.modFabric_hawk (f : Fabric → Fabric) : (s.modFabric f).hawk = s.hawk := rfl
@[simp] theorem State.modFabric_mem (f : Fabric → Fabric) : (s.modFabric f).mem = s.mem := rfl
@[simp] theorem State.modFabric_flash (f : Fabric → Fabric) : (s.modFabric f).flash = s.flash := rfl
@[simp] theorem State.modFabric_crypto (f : Fabric → Fabric) : (s.modFabric f).crypto = s.crypto := rfl
@[simp] theorem State.modFabric_display (f : Fabric → Fabric) : (s.modFabric f).display = s.display := rfl
@[simp] theorem State.modFabric_ports (f : Fabric → Fabric) : (s.modFabric f).ports = s.ports := rfl
@[simp] theorem State.modFabric_fabric (f : Fabric → Fabric) : (s.modFabric f).fabric = f s.fabric := rfl
@[simp] theorem State.modFabric_skim (f : Fabric → Fabric) : (s.modFabric f).skim = s.skim := rfl
@[simp] theorem State.modFabric_update (f : Fabric → Fabric) : (s.modFabric f).update = s.update := rfl
@[simp] theorem State.modFabric_diagCounters (f : Fabric → Fabric) : (s.modFabric f).diagCounters = s.diagCounters := rfl
@[simp] theorem State.modFabric_free (f : Fabric → Fabric) : (s.modFabric f).free = s.free := rfl
@[simp] theorem State.modFabric_out (f : Fabric → Fabric) : (s.modFabric f).out = s.out := rfl
@[simp] theorem State.modFabric_pending (f : Fabric → Fabric) : (s.modFabric f).pending = s.pending := rfl

/-! ### modHawk -/

@[simp] theorem State.modHawk_ntu (f : Hawk → Hawk) : (s.modHawk f).ntu = s.ntu := rfl
@[simp] theorem State.modHawk_modDom (f : Hawk → Hawk) : (s.modHawk f).modDom = s.modDom := rfl
@[simp] theorem State.modHawk_aon (f : Hawk → Hawk) : (s.modHawk f).aon = s.aon := rfl
@[simp] theorem State.modHawk_boot (f : Hawk → Hawk) : (s.modHawk f).boot = s.boot := rfl
@[simp] theorem State.modHawk_params (f : Hawk → Hawk) : (s.modHawk f).params = s.params := rfl
@[simp] theorem State.modHawk_drivers (f : Hawk → Hawk) : (s.modHawk f).drivers = s.drivers := rfl
@[simp] theorem State.modHawk_sources (f : Hawk → Hawk) : (s.modHawk f).sources = s.sources := rfl
@[simp] theorem State.modHawk_inForce (f : Hawk → Hawk) : (s.modHawk f).inForce = s.inForce := rfl
@[simp] theorem State.modHawk_channels (f : Hawk → Hawk) : (s.modHawk f).channels = s.channels := rfl
@[simp] theorem State.modHawk_counters (f : Hawk → Hawk) : (s.modHawk f).counters = s.counters := rfl
@[simp] theorem State.modHawk_sync (f : Hawk → Hawk) : (s.modHawk f).sync = s.sync := rfl
@[simp] theorem State.modHawk_points (f : Hawk → Hawk) : (s.modHawk f).points = s.points := rfl
@[simp] theorem State.modHawk_legal (f : Hawk → Hawk) : (s.modHawk f).legal = s.legal := rfl
@[simp] theorem State.modHawk_gate (f : Hawk → Hawk) : (s.modHawk f).gate = s.gate := rfl
@[simp] theorem State.modHawk_hawk (f : Hawk → Hawk) : (s.modHawk f).hawk = f s.hawk := rfl
@[simp] theorem State.modHawk_mem (f : Hawk → Hawk) : (s.modHawk f).mem = s.mem := rfl
@[simp] theorem State.modHawk_flash (f : Hawk → Hawk) : (s.modHawk f).flash = s.flash := rfl
@[simp] theorem State.modHawk_crypto (f : Hawk → Hawk) : (s.modHawk f).crypto = s.crypto := rfl
@[simp] theorem State.modHawk_display (f : Hawk → Hawk) : (s.modHawk f).display = s.display := rfl
@[simp] theorem State.modHawk_ports (f : Hawk → Hawk) : (s.modHawk f).ports = s.ports := rfl
@[simp] theorem State.modHawk_fabric (f : Hawk → Hawk) : (s.modHawk f).fabric = s.fabric := rfl
@[simp] theorem State.modHawk_skim (f : Hawk → Hawk) : (s.modHawk f).skim = s.skim := rfl
@[simp] theorem State.modHawk_update (f : Hawk → Hawk) : (s.modHawk f).update = s.update := rfl
@[simp] theorem State.modHawk_diagCounters (f : Hawk → Hawk) : (s.modHawk f).diagCounters = s.diagCounters := rfl
@[simp] theorem State.modHawk_free (f : Hawk → Hawk) : (s.modHawk f).free = s.free := rfl
@[simp] theorem State.modHawk_out (f : Hawk → Hawk) : (s.modHawk f).out = s.out := rfl
@[simp] theorem State.modHawk_pending (f : Hawk → Hawk) : (s.modHawk f).pending = s.pending := rfl

/-! ### modBoot -/

@[simp] theorem State.modBoot_ntu (f : Boot → Boot) : (s.modBoot f).ntu = s.ntu := rfl
@[simp] theorem State.modBoot_modDom (f : Boot → Boot) : (s.modBoot f).modDom = s.modDom := rfl
@[simp] theorem State.modBoot_aon (f : Boot → Boot) : (s.modBoot f).aon = s.aon := rfl
@[simp] theorem State.modBoot_boot (f : Boot → Boot) : (s.modBoot f).boot = f s.boot := rfl
@[simp] theorem State.modBoot_params (f : Boot → Boot) : (s.modBoot f).params = s.params := rfl
@[simp] theorem State.modBoot_drivers (f : Boot → Boot) : (s.modBoot f).drivers = s.drivers := rfl
@[simp] theorem State.modBoot_sources (f : Boot → Boot) : (s.modBoot f).sources = s.sources := rfl
@[simp] theorem State.modBoot_inForce (f : Boot → Boot) : (s.modBoot f).inForce = s.inForce := rfl
@[simp] theorem State.modBoot_channels (f : Boot → Boot) : (s.modBoot f).channels = s.channels := rfl
@[simp] theorem State.modBoot_counters (f : Boot → Boot) : (s.modBoot f).counters = s.counters := rfl
@[simp] theorem State.modBoot_sync (f : Boot → Boot) : (s.modBoot f).sync = s.sync := rfl
@[simp] theorem State.modBoot_points (f : Boot → Boot) : (s.modBoot f).points = s.points := rfl
@[simp] theorem State.modBoot_legal (f : Boot → Boot) : (s.modBoot f).legal = s.legal := rfl
@[simp] theorem State.modBoot_gate (f : Boot → Boot) : (s.modBoot f).gate = s.gate := rfl
@[simp] theorem State.modBoot_hawk (f : Boot → Boot) : (s.modBoot f).hawk = s.hawk := rfl
@[simp] theorem State.modBoot_mem (f : Boot → Boot) : (s.modBoot f).mem = s.mem := rfl
@[simp] theorem State.modBoot_flash (f : Boot → Boot) : (s.modBoot f).flash = s.flash := rfl
@[simp] theorem State.modBoot_crypto (f : Boot → Boot) : (s.modBoot f).crypto = s.crypto := rfl
@[simp] theorem State.modBoot_display (f : Boot → Boot) : (s.modBoot f).display = s.display := rfl
@[simp] theorem State.modBoot_ports (f : Boot → Boot) : (s.modBoot f).ports = s.ports := rfl
@[simp] theorem State.modBoot_fabric (f : Boot → Boot) : (s.modBoot f).fabric = s.fabric := rfl
@[simp] theorem State.modBoot_skim (f : Boot → Boot) : (s.modBoot f).skim = s.skim := rfl
@[simp] theorem State.modBoot_update (f : Boot → Boot) : (s.modBoot f).update = s.update := rfl
@[simp] theorem State.modBoot_diagCounters (f : Boot → Boot) : (s.modBoot f).diagCounters = s.diagCounters := rfl
@[simp] theorem State.modBoot_free (f : Boot → Boot) : (s.modBoot f).free = s.free := rfl
@[simp] theorem State.modBoot_out (f : Boot → Boot) : (s.modBoot f).out = s.out := rfl
@[simp] theorem State.modBoot_pending (f : Boot → Boot) : (s.modBoot f).pending = s.pending := rfl

/-! ### modLegal -/

@[simp] theorem State.modLegal_ntu (f : Legal → Legal) : (s.modLegal f).ntu = s.ntu := rfl
@[simp] theorem State.modLegal_modDom (f : Legal → Legal) : (s.modLegal f).modDom = s.modDom := rfl
@[simp] theorem State.modLegal_aon (f : Legal → Legal) : (s.modLegal f).aon = s.aon := rfl
@[simp] theorem State.modLegal_boot (f : Legal → Legal) : (s.modLegal f).boot = s.boot := rfl
@[simp] theorem State.modLegal_params (f : Legal → Legal) : (s.modLegal f).params = s.params := rfl
@[simp] theorem State.modLegal_drivers (f : Legal → Legal) : (s.modLegal f).drivers = s.drivers := rfl
@[simp] theorem State.modLegal_sources (f : Legal → Legal) : (s.modLegal f).sources = s.sources := rfl
@[simp] theorem State.modLegal_inForce (f : Legal → Legal) : (s.modLegal f).inForce = s.inForce := rfl
@[simp] theorem State.modLegal_channels (f : Legal → Legal) : (s.modLegal f).channels = s.channels := rfl
@[simp] theorem State.modLegal_counters (f : Legal → Legal) : (s.modLegal f).counters = s.counters := rfl
@[simp] theorem State.modLegal_sync (f : Legal → Legal) : (s.modLegal f).sync = s.sync := rfl
@[simp] theorem State.modLegal_points (f : Legal → Legal) : (s.modLegal f).points = s.points := rfl
@[simp] theorem State.modLegal_legal (f : Legal → Legal) : (s.modLegal f).legal = f s.legal := rfl
@[simp] theorem State.modLegal_gate (f : Legal → Legal) : (s.modLegal f).gate = s.gate := rfl
@[simp] theorem State.modLegal_hawk (f : Legal → Legal) : (s.modLegal f).hawk = s.hawk := rfl
@[simp] theorem State.modLegal_mem (f : Legal → Legal) : (s.modLegal f).mem = s.mem := rfl
@[simp] theorem State.modLegal_flash (f : Legal → Legal) : (s.modLegal f).flash = s.flash := rfl
@[simp] theorem State.modLegal_crypto (f : Legal → Legal) : (s.modLegal f).crypto = s.crypto := rfl
@[simp] theorem State.modLegal_display (f : Legal → Legal) : (s.modLegal f).display = s.display := rfl
@[simp] theorem State.modLegal_ports (f : Legal → Legal) : (s.modLegal f).ports = s.ports := rfl
@[simp] theorem State.modLegal_fabric (f : Legal → Legal) : (s.modLegal f).fabric = s.fabric := rfl
@[simp] theorem State.modLegal_skim (f : Legal → Legal) : (s.modLegal f).skim = s.skim := rfl
@[simp] theorem State.modLegal_update (f : Legal → Legal) : (s.modLegal f).update = s.update := rfl
@[simp] theorem State.modLegal_diagCounters (f : Legal → Legal) : (s.modLegal f).diagCounters = s.diagCounters := rfl
@[simp] theorem State.modLegal_free (f : Legal → Legal) : (s.modLegal f).free = s.free := rfl
@[simp] theorem State.modLegal_out (f : Legal → Legal) : (s.modLegal f).out = s.out := rfl
@[simp] theorem State.modLegal_pending (f : Legal → Legal) : (s.modLegal f).pending = s.pending := rfl

/-! ### modNtu -/

@[simp] theorem State.modNtu_ntu (f : Ntu → Ntu) : (s.modNtu f).ntu = f s.ntu := rfl
@[simp] theorem State.modNtu_modDom (f : Ntu → Ntu) : (s.modNtu f).modDom = s.modDom := rfl
@[simp] theorem State.modNtu_aon (f : Ntu → Ntu) : (s.modNtu f).aon = s.aon := rfl
@[simp] theorem State.modNtu_boot (f : Ntu → Ntu) : (s.modNtu f).boot = s.boot := rfl
@[simp] theorem State.modNtu_params (f : Ntu → Ntu) : (s.modNtu f).params = s.params := rfl
@[simp] theorem State.modNtu_drivers (f : Ntu → Ntu) : (s.modNtu f).drivers = s.drivers := rfl
@[simp] theorem State.modNtu_sources (f : Ntu → Ntu) : (s.modNtu f).sources = s.sources := rfl
@[simp] theorem State.modNtu_inForce (f : Ntu → Ntu) : (s.modNtu f).inForce = s.inForce := rfl
@[simp] theorem State.modNtu_channels (f : Ntu → Ntu) : (s.modNtu f).channels = s.channels := rfl
@[simp] theorem State.modNtu_counters (f : Ntu → Ntu) : (s.modNtu f).counters = s.counters := rfl
@[simp] theorem State.modNtu_sync (f : Ntu → Ntu) : (s.modNtu f).sync = s.sync := rfl
@[simp] theorem State.modNtu_points (f : Ntu → Ntu) : (s.modNtu f).points = s.points := rfl
@[simp] theorem State.modNtu_legal (f : Ntu → Ntu) : (s.modNtu f).legal = s.legal := rfl
@[simp] theorem State.modNtu_gate (f : Ntu → Ntu) : (s.modNtu f).gate = s.gate := rfl
@[simp] theorem State.modNtu_hawk (f : Ntu → Ntu) : (s.modNtu f).hawk = s.hawk := rfl
@[simp] theorem State.modNtu_mem (f : Ntu → Ntu) : (s.modNtu f).mem = s.mem := rfl
@[simp] theorem State.modNtu_flash (f : Ntu → Ntu) : (s.modNtu f).flash = s.flash := rfl
@[simp] theorem State.modNtu_crypto (f : Ntu → Ntu) : (s.modNtu f).crypto = s.crypto := rfl
@[simp] theorem State.modNtu_display (f : Ntu → Ntu) : (s.modNtu f).display = s.display := rfl
@[simp] theorem State.modNtu_ports (f : Ntu → Ntu) : (s.modNtu f).ports = s.ports := rfl
@[simp] theorem State.modNtu_fabric (f : Ntu → Ntu) : (s.modNtu f).fabric = s.fabric := rfl
@[simp] theorem State.modNtu_skim (f : Ntu → Ntu) : (s.modNtu f).skim = s.skim := rfl
@[simp] theorem State.modNtu_update (f : Ntu → Ntu) : (s.modNtu f).update = s.update := rfl
@[simp] theorem State.modNtu_diagCounters (f : Ntu → Ntu) : (s.modNtu f).diagCounters = s.diagCounters := rfl
@[simp] theorem State.modNtu_free (f : Ntu → Ntu) : (s.modNtu f).free = s.free := rfl
@[simp] theorem State.modNtu_out (f : Ntu → Ntu) : (s.modNtu f).out = s.out := rfl
@[simp] theorem State.modNtu_pending (f : Ntu → Ntu) : (s.modNtu f).pending = s.pending := rfl

/-! ### modMod -/

@[simp] theorem State.modMod_ntu (f : ModDomain → ModDomain) : (s.modMod f).ntu = s.ntu := rfl
@[simp] theorem State.modMod_modDom (f : ModDomain → ModDomain) : (s.modMod f).modDom = f s.modDom := rfl
@[simp] theorem State.modMod_aon (f : ModDomain → ModDomain) : (s.modMod f).aon = s.aon := rfl
@[simp] theorem State.modMod_boot (f : ModDomain → ModDomain) : (s.modMod f).boot = s.boot := rfl
@[simp] theorem State.modMod_params (f : ModDomain → ModDomain) : (s.modMod f).params = s.params := rfl
@[simp] theorem State.modMod_drivers (f : ModDomain → ModDomain) : (s.modMod f).drivers = s.drivers := rfl
@[simp] theorem State.modMod_sources (f : ModDomain → ModDomain) : (s.modMod f).sources = s.sources := rfl
@[simp] theorem State.modMod_inForce (f : ModDomain → ModDomain) : (s.modMod f).inForce = s.inForce := rfl
@[simp] theorem State.modMod_channels (f : ModDomain → ModDomain) : (s.modMod f).channels = s.channels := rfl
@[simp] theorem State.modMod_counters (f : ModDomain → ModDomain) : (s.modMod f).counters = s.counters := rfl
@[simp] theorem State.modMod_sync (f : ModDomain → ModDomain) : (s.modMod f).sync = s.sync := rfl
@[simp] theorem State.modMod_points (f : ModDomain → ModDomain) : (s.modMod f).points = s.points := rfl
@[simp] theorem State.modMod_legal (f : ModDomain → ModDomain) : (s.modMod f).legal = s.legal := rfl
@[simp] theorem State.modMod_gate (f : ModDomain → ModDomain) : (s.modMod f).gate = s.gate := rfl
@[simp] theorem State.modMod_hawk (f : ModDomain → ModDomain) : (s.modMod f).hawk = s.hawk := rfl
@[simp] theorem State.modMod_mem (f : ModDomain → ModDomain) : (s.modMod f).mem = s.mem := rfl
@[simp] theorem State.modMod_flash (f : ModDomain → ModDomain) : (s.modMod f).flash = s.flash := rfl
@[simp] theorem State.modMod_crypto (f : ModDomain → ModDomain) : (s.modMod f).crypto = s.crypto := rfl
@[simp] theorem State.modMod_display (f : ModDomain → ModDomain) : (s.modMod f).display = s.display := rfl
@[simp] theorem State.modMod_ports (f : ModDomain → ModDomain) : (s.modMod f).ports = s.ports := rfl
@[simp] theorem State.modMod_fabric (f : ModDomain → ModDomain) : (s.modMod f).fabric = s.fabric := rfl
@[simp] theorem State.modMod_skim (f : ModDomain → ModDomain) : (s.modMod f).skim = s.skim := rfl
@[simp] theorem State.modMod_update (f : ModDomain → ModDomain) : (s.modMod f).update = s.update := rfl
@[simp] theorem State.modMod_diagCounters (f : ModDomain → ModDomain) : (s.modMod f).diagCounters = s.diagCounters := rfl
@[simp] theorem State.modMod_free (f : ModDomain → ModDomain) : (s.modMod f).free = s.free := rfl
@[simp] theorem State.modMod_out (f : ModDomain → ModDomain) : (s.modMod f).out = s.out := rfl
@[simp] theorem State.modMod_pending (f : ModDomain → ModDomain) : (s.modMod f).pending = s.pending := rfl

/-! ### modAon -/

@[simp] theorem State.modAon_ntu (f : AlwaysOn → AlwaysOn) : (s.modAon f).ntu = s.ntu := rfl
@[simp] theorem State.modAon_modDom (f : AlwaysOn → AlwaysOn) : (s.modAon f).modDom = s.modDom := rfl
@[simp] theorem State.modAon_aon (f : AlwaysOn → AlwaysOn) : (s.modAon f).aon = f s.aon := rfl
@[simp] theorem State.modAon_boot (f : AlwaysOn → AlwaysOn) : (s.modAon f).boot = s.boot := rfl
@[simp] theorem State.modAon_params (f : AlwaysOn → AlwaysOn) : (s.modAon f).params = s.params := rfl
@[simp] theorem State.modAon_drivers (f : AlwaysOn → AlwaysOn) : (s.modAon f).drivers = s.drivers := rfl
@[simp] theorem State.modAon_sources (f : AlwaysOn → AlwaysOn) : (s.modAon f).sources = s.sources := rfl
@[simp] theorem State.modAon_inForce (f : AlwaysOn → AlwaysOn) : (s.modAon f).inForce = s.inForce := rfl
@[simp] theorem State.modAon_channels (f : AlwaysOn → AlwaysOn) : (s.modAon f).channels = s.channels := rfl
@[simp] theorem State.modAon_counters (f : AlwaysOn → AlwaysOn) : (s.modAon f).counters = s.counters := rfl
@[simp] theorem State.modAon_sync (f : AlwaysOn → AlwaysOn) : (s.modAon f).sync = s.sync := rfl
@[simp] theorem State.modAon_points (f : AlwaysOn → AlwaysOn) : (s.modAon f).points = s.points := rfl
@[simp] theorem State.modAon_legal (f : AlwaysOn → AlwaysOn) : (s.modAon f).legal = s.legal := rfl
@[simp] theorem State.modAon_gate (f : AlwaysOn → AlwaysOn) : (s.modAon f).gate = s.gate := rfl
@[simp] theorem State.modAon_hawk (f : AlwaysOn → AlwaysOn) : (s.modAon f).hawk = s.hawk := rfl
@[simp] theorem State.modAon_mem (f : AlwaysOn → AlwaysOn) : (s.modAon f).mem = s.mem := rfl
@[simp] theorem State.modAon_flash (f : AlwaysOn → AlwaysOn) : (s.modAon f).flash = s.flash := rfl
@[simp] theorem State.modAon_crypto (f : AlwaysOn → AlwaysOn) : (s.modAon f).crypto = s.crypto := rfl
@[simp] theorem State.modAon_display (f : AlwaysOn → AlwaysOn) : (s.modAon f).display = s.display := rfl
@[simp] theorem State.modAon_ports (f : AlwaysOn → AlwaysOn) : (s.modAon f).ports = s.ports := rfl
@[simp] theorem State.modAon_fabric (f : AlwaysOn → AlwaysOn) : (s.modAon f).fabric = s.fabric := rfl
@[simp] theorem State.modAon_skim (f : AlwaysOn → AlwaysOn) : (s.modAon f).skim = s.skim := rfl
@[simp] theorem State.modAon_update (f : AlwaysOn → AlwaysOn) : (s.modAon f).update = s.update := rfl
@[simp] theorem State.modAon_diagCounters (f : AlwaysOn → AlwaysOn) : (s.modAon f).diagCounters = s.diagCounters := rfl
@[simp] theorem State.modAon_free (f : AlwaysOn → AlwaysOn) : (s.modAon f).free = s.free := rfl
@[simp] theorem State.modAon_out (f : AlwaysOn → AlwaysOn) : (s.modAon f).out = s.out := rfl
@[simp] theorem State.modAon_pending (f : AlwaysOn → AlwaysOn) : (s.modAon f).pending = s.pending := rfl

/-! ### modMem -/

@[simp] theorem State.modMem_ntu (f : MemSys → MemSys) : (s.modMem f).ntu = s.ntu := rfl
@[simp] theorem State.modMem_modDom (f : MemSys → MemSys) : (s.modMem f).modDom = s.modDom := rfl
@[simp] theorem State.modMem_aon (f : MemSys → MemSys) : (s.modMem f).aon = s.aon := rfl
@[simp] theorem State.modMem_boot (f : MemSys → MemSys) : (s.modMem f).boot = s.boot := rfl
@[simp] theorem State.modMem_params (f : MemSys → MemSys) : (s.modMem f).params = s.params := rfl
@[simp] theorem State.modMem_drivers (f : MemSys → MemSys) : (s.modMem f).drivers = s.drivers := rfl
@[simp] theorem State.modMem_sources (f : MemSys → MemSys) : (s.modMem f).sources = s.sources := rfl
@[simp] theorem State.modMem_inForce (f : MemSys → MemSys) : (s.modMem f).inForce = s.inForce := rfl
@[simp] theorem State.modMem_channels (f : MemSys → MemSys) : (s.modMem f).channels = s.channels := rfl
@[simp] theorem State.modMem_counters (f : MemSys → MemSys) : (s.modMem f).counters = s.counters := rfl
@[simp] theorem State.modMem_sync (f : MemSys → MemSys) : (s.modMem f).sync = s.sync := rfl
@[simp] theorem State.modMem_points (f : MemSys → MemSys) : (s.modMem f).points = s.points := rfl
@[simp] theorem State.modMem_legal (f : MemSys → MemSys) : (s.modMem f).legal = s.legal := rfl
@[simp] theorem State.modMem_gate (f : MemSys → MemSys) : (s.modMem f).gate = s.gate := rfl
@[simp] theorem State.modMem_hawk (f : MemSys → MemSys) : (s.modMem f).hawk = s.hawk := rfl
@[simp] theorem State.modMem_mem (f : MemSys → MemSys) : (s.modMem f).mem = f s.mem := rfl
@[simp] theorem State.modMem_flash (f : MemSys → MemSys) : (s.modMem f).flash = s.flash := rfl
@[simp] theorem State.modMem_crypto (f : MemSys → MemSys) : (s.modMem f).crypto = s.crypto := rfl
@[simp] theorem State.modMem_display (f : MemSys → MemSys) : (s.modMem f).display = s.display := rfl
@[simp] theorem State.modMem_ports (f : MemSys → MemSys) : (s.modMem f).ports = s.ports := rfl
@[simp] theorem State.modMem_fabric (f : MemSys → MemSys) : (s.modMem f).fabric = s.fabric := rfl
@[simp] theorem State.modMem_skim (f : MemSys → MemSys) : (s.modMem f).skim = s.skim := rfl
@[simp] theorem State.modMem_update (f : MemSys → MemSys) : (s.modMem f).update = s.update := rfl
@[simp] theorem State.modMem_diagCounters (f : MemSys → MemSys) : (s.modMem f).diagCounters = s.diagCounters := rfl
@[simp] theorem State.modMem_free (f : MemSys → MemSys) : (s.modMem f).free = s.free := rfl
@[simp] theorem State.modMem_out (f : MemSys → MemSys) : (s.modMem f).out = s.out := rfl
@[simp] theorem State.modMem_pending (f : MemSys → MemSys) : (s.modMem f).pending = s.pending := rfl

/-! ### modFlash -/

@[simp] theorem State.modFlash_ntu (f : Flash → Flash) : (s.modFlash f).ntu = s.ntu := rfl
@[simp] theorem State.modFlash_modDom (f : Flash → Flash) : (s.modFlash f).modDom = s.modDom := rfl
@[simp] theorem State.modFlash_aon (f : Flash → Flash) : (s.modFlash f).aon = s.aon := rfl
@[simp] theorem State.modFlash_boot (f : Flash → Flash) : (s.modFlash f).boot = s.boot := rfl
@[simp] theorem State.modFlash_params (f : Flash → Flash) : (s.modFlash f).params = s.params := rfl
@[simp] theorem State.modFlash_drivers (f : Flash → Flash) : (s.modFlash f).drivers = s.drivers := rfl
@[simp] theorem State.modFlash_sources (f : Flash → Flash) : (s.modFlash f).sources = s.sources := rfl
@[simp] theorem State.modFlash_inForce (f : Flash → Flash) : (s.modFlash f).inForce = s.inForce := rfl
@[simp] theorem State.modFlash_channels (f : Flash → Flash) : (s.modFlash f).channels = s.channels := rfl
@[simp] theorem State.modFlash_counters (f : Flash → Flash) : (s.modFlash f).counters = s.counters := rfl
@[simp] theorem State.modFlash_sync (f : Flash → Flash) : (s.modFlash f).sync = s.sync := rfl
@[simp] theorem State.modFlash_points (f : Flash → Flash) : (s.modFlash f).points = s.points := rfl
@[simp] theorem State.modFlash_legal (f : Flash → Flash) : (s.modFlash f).legal = s.legal := rfl
@[simp] theorem State.modFlash_gate (f : Flash → Flash) : (s.modFlash f).gate = s.gate := rfl
@[simp] theorem State.modFlash_hawk (f : Flash → Flash) : (s.modFlash f).hawk = s.hawk := rfl
@[simp] theorem State.modFlash_mem (f : Flash → Flash) : (s.modFlash f).mem = s.mem := rfl
@[simp] theorem State.modFlash_flash (f : Flash → Flash) : (s.modFlash f).flash = f s.flash := rfl
@[simp] theorem State.modFlash_crypto (f : Flash → Flash) : (s.modFlash f).crypto = s.crypto := rfl
@[simp] theorem State.modFlash_display (f : Flash → Flash) : (s.modFlash f).display = s.display := rfl
@[simp] theorem State.modFlash_ports (f : Flash → Flash) : (s.modFlash f).ports = s.ports := rfl
@[simp] theorem State.modFlash_fabric (f : Flash → Flash) : (s.modFlash f).fabric = s.fabric := rfl
@[simp] theorem State.modFlash_skim (f : Flash → Flash) : (s.modFlash f).skim = s.skim := rfl
@[simp] theorem State.modFlash_update (f : Flash → Flash) : (s.modFlash f).update = s.update := rfl
@[simp] theorem State.modFlash_diagCounters (f : Flash → Flash) : (s.modFlash f).diagCounters = s.diagCounters := rfl
@[simp] theorem State.modFlash_free (f : Flash → Flash) : (s.modFlash f).free = s.free := rfl
@[simp] theorem State.modFlash_out (f : Flash → Flash) : (s.modFlash f).out = s.out := rfl
@[simp] theorem State.modFlash_pending (f : Flash → Flash) : (s.modFlash f).pending = s.pending := rfl

/-! ### modCrypto -/

@[simp] theorem State.modCrypto_ntu (f : Crypto → Crypto) : (s.modCrypto f).ntu = s.ntu := rfl
@[simp] theorem State.modCrypto_modDom (f : Crypto → Crypto) : (s.modCrypto f).modDom = s.modDom := rfl
@[simp] theorem State.modCrypto_aon (f : Crypto → Crypto) : (s.modCrypto f).aon = s.aon := rfl
@[simp] theorem State.modCrypto_boot (f : Crypto → Crypto) : (s.modCrypto f).boot = s.boot := rfl
@[simp] theorem State.modCrypto_params (f : Crypto → Crypto) : (s.modCrypto f).params = s.params := rfl
@[simp] theorem State.modCrypto_drivers (f : Crypto → Crypto) : (s.modCrypto f).drivers = s.drivers := rfl
@[simp] theorem State.modCrypto_sources (f : Crypto → Crypto) : (s.modCrypto f).sources = s.sources := rfl
@[simp] theorem State.modCrypto_inForce (f : Crypto → Crypto) : (s.modCrypto f).inForce = s.inForce := rfl
@[simp] theorem State.modCrypto_channels (f : Crypto → Crypto) : (s.modCrypto f).channels = s.channels := rfl
@[simp] theorem State.modCrypto_counters (f : Crypto → Crypto) : (s.modCrypto f).counters = s.counters := rfl
@[simp] theorem State.modCrypto_sync (f : Crypto → Crypto) : (s.modCrypto f).sync = s.sync := rfl
@[simp] theorem State.modCrypto_points (f : Crypto → Crypto) : (s.modCrypto f).points = s.points := rfl
@[simp] theorem State.modCrypto_legal (f : Crypto → Crypto) : (s.modCrypto f).legal = s.legal := rfl
@[simp] theorem State.modCrypto_gate (f : Crypto → Crypto) : (s.modCrypto f).gate = s.gate := rfl
@[simp] theorem State.modCrypto_hawk (f : Crypto → Crypto) : (s.modCrypto f).hawk = s.hawk := rfl
@[simp] theorem State.modCrypto_mem (f : Crypto → Crypto) : (s.modCrypto f).mem = s.mem := rfl
@[simp] theorem State.modCrypto_flash (f : Crypto → Crypto) : (s.modCrypto f).flash = s.flash := rfl
@[simp] theorem State.modCrypto_crypto (f : Crypto → Crypto) : (s.modCrypto f).crypto = f s.crypto := rfl
@[simp] theorem State.modCrypto_display (f : Crypto → Crypto) : (s.modCrypto f).display = s.display := rfl
@[simp] theorem State.modCrypto_ports (f : Crypto → Crypto) : (s.modCrypto f).ports = s.ports := rfl
@[simp] theorem State.modCrypto_fabric (f : Crypto → Crypto) : (s.modCrypto f).fabric = s.fabric := rfl
@[simp] theorem State.modCrypto_skim (f : Crypto → Crypto) : (s.modCrypto f).skim = s.skim := rfl
@[simp] theorem State.modCrypto_update (f : Crypto → Crypto) : (s.modCrypto f).update = s.update := rfl
@[simp] theorem State.modCrypto_diagCounters (f : Crypto → Crypto) : (s.modCrypto f).diagCounters = s.diagCounters := rfl
@[simp] theorem State.modCrypto_free (f : Crypto → Crypto) : (s.modCrypto f).free = s.free := rfl
@[simp] theorem State.modCrypto_out (f : Crypto → Crypto) : (s.modCrypto f).out = s.out := rfl
@[simp] theorem State.modCrypto_pending (f : Crypto → Crypto) : (s.modCrypto f).pending = s.pending := rfl

/-! ### modDisplay -/

@[simp] theorem State.modDisplay_ntu (f : Display → Display) : (s.modDisplay f).ntu = s.ntu := rfl
@[simp] theorem State.modDisplay_modDom (f : Display → Display) : (s.modDisplay f).modDom = s.modDom := rfl
@[simp] theorem State.modDisplay_aon (f : Display → Display) : (s.modDisplay f).aon = s.aon := rfl
@[simp] theorem State.modDisplay_boot (f : Display → Display) : (s.modDisplay f).boot = s.boot := rfl
@[simp] theorem State.modDisplay_params (f : Display → Display) : (s.modDisplay f).params = s.params := rfl
@[simp] theorem State.modDisplay_drivers (f : Display → Display) : (s.modDisplay f).drivers = s.drivers := rfl
@[simp] theorem State.modDisplay_sources (f : Display → Display) : (s.modDisplay f).sources = s.sources := rfl
@[simp] theorem State.modDisplay_inForce (f : Display → Display) : (s.modDisplay f).inForce = s.inForce := rfl
@[simp] theorem State.modDisplay_channels (f : Display → Display) : (s.modDisplay f).channels = s.channels := rfl
@[simp] theorem State.modDisplay_counters (f : Display → Display) : (s.modDisplay f).counters = s.counters := rfl
@[simp] theorem State.modDisplay_sync (f : Display → Display) : (s.modDisplay f).sync = s.sync := rfl
@[simp] theorem State.modDisplay_points (f : Display → Display) : (s.modDisplay f).points = s.points := rfl
@[simp] theorem State.modDisplay_legal (f : Display → Display) : (s.modDisplay f).legal = s.legal := rfl
@[simp] theorem State.modDisplay_gate (f : Display → Display) : (s.modDisplay f).gate = s.gate := rfl
@[simp] theorem State.modDisplay_hawk (f : Display → Display) : (s.modDisplay f).hawk = s.hawk := rfl
@[simp] theorem State.modDisplay_mem (f : Display → Display) : (s.modDisplay f).mem = s.mem := rfl
@[simp] theorem State.modDisplay_flash (f : Display → Display) : (s.modDisplay f).flash = s.flash := rfl
@[simp] theorem State.modDisplay_crypto (f : Display → Display) : (s.modDisplay f).crypto = s.crypto := rfl
@[simp] theorem State.modDisplay_display (f : Display → Display) : (s.modDisplay f).display = f s.display := rfl
@[simp] theorem State.modDisplay_ports (f : Display → Display) : (s.modDisplay f).ports = s.ports := rfl
@[simp] theorem State.modDisplay_fabric (f : Display → Display) : (s.modDisplay f).fabric = s.fabric := rfl
@[simp] theorem State.modDisplay_skim (f : Display → Display) : (s.modDisplay f).skim = s.skim := rfl
@[simp] theorem State.modDisplay_update (f : Display → Display) : (s.modDisplay f).update = s.update := rfl
@[simp] theorem State.modDisplay_diagCounters (f : Display → Display) : (s.modDisplay f).diagCounters = s.diagCounters := rfl
@[simp] theorem State.modDisplay_free (f : Display → Display) : (s.modDisplay f).free = s.free := rfl
@[simp] theorem State.modDisplay_out (f : Display → Display) : (s.modDisplay f).out = s.out := rfl
@[simp] theorem State.modDisplay_pending (f : Display → Display) : (s.modDisplay f).pending = s.pending := rfl

/-! ### modPorts -/

@[simp] theorem State.modPorts_ntu (f : Ports → Ports) : (s.modPorts f).ntu = s.ntu := rfl
@[simp] theorem State.modPorts_modDom (f : Ports → Ports) : (s.modPorts f).modDom = s.modDom := rfl
@[simp] theorem State.modPorts_aon (f : Ports → Ports) : (s.modPorts f).aon = s.aon := rfl
@[simp] theorem State.modPorts_boot (f : Ports → Ports) : (s.modPorts f).boot = s.boot := rfl
@[simp] theorem State.modPorts_params (f : Ports → Ports) : (s.modPorts f).params = s.params := rfl
@[simp] theorem State.modPorts_drivers (f : Ports → Ports) : (s.modPorts f).drivers = s.drivers := rfl
@[simp] theorem State.modPorts_sources (f : Ports → Ports) : (s.modPorts f).sources = s.sources := rfl
@[simp] theorem State.modPorts_inForce (f : Ports → Ports) : (s.modPorts f).inForce = s.inForce := rfl
@[simp] theorem State.modPorts_channels (f : Ports → Ports) : (s.modPorts f).channels = s.channels := rfl
@[simp] theorem State.modPorts_counters (f : Ports → Ports) : (s.modPorts f).counters = s.counters := rfl
@[simp] theorem State.modPorts_sync (f : Ports → Ports) : (s.modPorts f).sync = s.sync := rfl
@[simp] theorem State.modPorts_points (f : Ports → Ports) : (s.modPorts f).points = s.points := rfl
@[simp] theorem State.modPorts_legal (f : Ports → Ports) : (s.modPorts f).legal = s.legal := rfl
@[simp] theorem State.modPorts_gate (f : Ports → Ports) : (s.modPorts f).gate = s.gate := rfl
@[simp] theorem State.modPorts_hawk (f : Ports → Ports) : (s.modPorts f).hawk = s.hawk := rfl
@[simp] theorem State.modPorts_mem (f : Ports → Ports) : (s.modPorts f).mem = s.mem := rfl
@[simp] theorem State.modPorts_flash (f : Ports → Ports) : (s.modPorts f).flash = s.flash := rfl
@[simp] theorem State.modPorts_crypto (f : Ports → Ports) : (s.modPorts f).crypto = s.crypto := rfl
@[simp] theorem State.modPorts_display (f : Ports → Ports) : (s.modPorts f).display = s.display := rfl
@[simp] theorem State.modPorts_ports (f : Ports → Ports) : (s.modPorts f).ports = f s.ports := rfl
@[simp] theorem State.modPorts_fabric (f : Ports → Ports) : (s.modPorts f).fabric = s.fabric := rfl
@[simp] theorem State.modPorts_skim (f : Ports → Ports) : (s.modPorts f).skim = s.skim := rfl
@[simp] theorem State.modPorts_update (f : Ports → Ports) : (s.modPorts f).update = s.update := rfl
@[simp] theorem State.modPorts_diagCounters (f : Ports → Ports) : (s.modPorts f).diagCounters = s.diagCounters := rfl
@[simp] theorem State.modPorts_free (f : Ports → Ports) : (s.modPorts f).free = s.free := rfl
@[simp] theorem State.modPorts_out (f : Ports → Ports) : (s.modPorts f).out = s.out := rfl
@[simp] theorem State.modPorts_pending (f : Ports → Ports) : (s.modPorts f).pending = s.pending := rfl

/-! ### modSync -/

@[simp] theorem State.modSync_ntu (f : Sync → Sync) : (s.modSync f).ntu = s.ntu := rfl
@[simp] theorem State.modSync_modDom (f : Sync → Sync) : (s.modSync f).modDom = s.modDom := rfl
@[simp] theorem State.modSync_aon (f : Sync → Sync) : (s.modSync f).aon = s.aon := rfl
@[simp] theorem State.modSync_boot (f : Sync → Sync) : (s.modSync f).boot = s.boot := rfl
@[simp] theorem State.modSync_params (f : Sync → Sync) : (s.modSync f).params = s.params := rfl
@[simp] theorem State.modSync_drivers (f : Sync → Sync) : (s.modSync f).drivers = s.drivers := rfl
@[simp] theorem State.modSync_sources (f : Sync → Sync) : (s.modSync f).sources = s.sources := rfl
@[simp] theorem State.modSync_inForce (f : Sync → Sync) : (s.modSync f).inForce = s.inForce := rfl
@[simp] theorem State.modSync_channels (f : Sync → Sync) : (s.modSync f).channels = s.channels := rfl
@[simp] theorem State.modSync_counters (f : Sync → Sync) : (s.modSync f).counters = s.counters := rfl
@[simp] theorem State.modSync_sync (f : Sync → Sync) : (s.modSync f).sync = f s.sync := rfl
@[simp] theorem State.modSync_points (f : Sync → Sync) : (s.modSync f).points = s.points := rfl
@[simp] theorem State.modSync_legal (f : Sync → Sync) : (s.modSync f).legal = s.legal := rfl
@[simp] theorem State.modSync_gate (f : Sync → Sync) : (s.modSync f).gate = s.gate := rfl
@[simp] theorem State.modSync_hawk (f : Sync → Sync) : (s.modSync f).hawk = s.hawk := rfl
@[simp] theorem State.modSync_mem (f : Sync → Sync) : (s.modSync f).mem = s.mem := rfl
@[simp] theorem State.modSync_flash (f : Sync → Sync) : (s.modSync f).flash = s.flash := rfl
@[simp] theorem State.modSync_crypto (f : Sync → Sync) : (s.modSync f).crypto = s.crypto := rfl
@[simp] theorem State.modSync_display (f : Sync → Sync) : (s.modSync f).display = s.display := rfl
@[simp] theorem State.modSync_ports (f : Sync → Sync) : (s.modSync f).ports = s.ports := rfl
@[simp] theorem State.modSync_fabric (f : Sync → Sync) : (s.modSync f).fabric = s.fabric := rfl
@[simp] theorem State.modSync_skim (f : Sync → Sync) : (s.modSync f).skim = s.skim := rfl
@[simp] theorem State.modSync_update (f : Sync → Sync) : (s.modSync f).update = s.update := rfl
@[simp] theorem State.modSync_diagCounters (f : Sync → Sync) : (s.modSync f).diagCounters = s.diagCounters := rfl
@[simp] theorem State.modSync_free (f : Sync → Sync) : (s.modSync f).free = s.free := rfl
@[simp] theorem State.modSync_out (f : Sync → Sync) : (s.modSync f).out = s.out := rfl
@[simp] theorem State.modSync_pending (f : Sync → Sync) : (s.modSync f).pending = s.pending := rfl

/-! ### modUpdate -/

@[simp] theorem State.modUpdate_ntu (f : Update → Update) : (s.modUpdate f).ntu = s.ntu := rfl
@[simp] theorem State.modUpdate_modDom (f : Update → Update) : (s.modUpdate f).modDom = s.modDom := rfl
@[simp] theorem State.modUpdate_aon (f : Update → Update) : (s.modUpdate f).aon = s.aon := rfl
@[simp] theorem State.modUpdate_boot (f : Update → Update) : (s.modUpdate f).boot = s.boot := rfl
@[simp] theorem State.modUpdate_params (f : Update → Update) : (s.modUpdate f).params = s.params := rfl
@[simp] theorem State.modUpdate_drivers (f : Update → Update) : (s.modUpdate f).drivers = s.drivers := rfl
@[simp] theorem State.modUpdate_sources (f : Update → Update) : (s.modUpdate f).sources = s.sources := rfl
@[simp] theorem State.modUpdate_inForce (f : Update → Update) : (s.modUpdate f).inForce = s.inForce := rfl
@[simp] theorem State.modUpdate_channels (f : Update → Update) : (s.modUpdate f).channels = s.channels := rfl
@[simp] theorem State.modUpdate_counters (f : Update → Update) : (s.modUpdate f).counters = s.counters := rfl
@[simp] theorem State.modUpdate_sync (f : Update → Update) : (s.modUpdate f).sync = s.sync := rfl
@[simp] theorem State.modUpdate_points (f : Update → Update) : (s.modUpdate f).points = s.points := rfl
@[simp] theorem State.modUpdate_legal (f : Update → Update) : (s.modUpdate f).legal = s.legal := rfl
@[simp] theorem State.modUpdate_gate (f : Update → Update) : (s.modUpdate f).gate = s.gate := rfl
@[simp] theorem State.modUpdate_hawk (f : Update → Update) : (s.modUpdate f).hawk = s.hawk := rfl
@[simp] theorem State.modUpdate_mem (f : Update → Update) : (s.modUpdate f).mem = s.mem := rfl
@[simp] theorem State.modUpdate_flash (f : Update → Update) : (s.modUpdate f).flash = s.flash := rfl
@[simp] theorem State.modUpdate_crypto (f : Update → Update) : (s.modUpdate f).crypto = s.crypto := rfl
@[simp] theorem State.modUpdate_display (f : Update → Update) : (s.modUpdate f).display = s.display := rfl
@[simp] theorem State.modUpdate_ports (f : Update → Update) : (s.modUpdate f).ports = s.ports := rfl
@[simp] theorem State.modUpdate_fabric (f : Update → Update) : (s.modUpdate f).fabric = s.fabric := rfl
@[simp] theorem State.modUpdate_skim (f : Update → Update) : (s.modUpdate f).skim = s.skim := rfl
@[simp] theorem State.modUpdate_update (f : Update → Update) : (s.modUpdate f).update = f s.update := rfl
@[simp] theorem State.modUpdate_diagCounters (f : Update → Update) : (s.modUpdate f).diagCounters = s.diagCounters := rfl
@[simp] theorem State.modUpdate_free (f : Update → Update) : (s.modUpdate f).free = s.free := rfl
@[simp] theorem State.modUpdate_out (f : Update → Update) : (s.modUpdate f).out = s.out := rfl
@[simp] theorem State.modUpdate_pending (f : Update → Update) : (s.modUpdate f).pending = s.pending := rfl

/-! ### modSkim -/

@[simp] theorem State.modSkim_ntu (f : Skim → Skim) : (s.modSkim f).ntu = s.ntu := rfl
@[simp] theorem State.modSkim_modDom (f : Skim → Skim) : (s.modSkim f).modDom = s.modDom := rfl
@[simp] theorem State.modSkim_aon (f : Skim → Skim) : (s.modSkim f).aon = s.aon := rfl
@[simp] theorem State.modSkim_boot (f : Skim → Skim) : (s.modSkim f).boot = s.boot := rfl
@[simp] theorem State.modSkim_params (f : Skim → Skim) : (s.modSkim f).params = s.params := rfl
@[simp] theorem State.modSkim_drivers (f : Skim → Skim) : (s.modSkim f).drivers = s.drivers := rfl
@[simp] theorem State.modSkim_sources (f : Skim → Skim) : (s.modSkim f).sources = s.sources := rfl
@[simp] theorem State.modSkim_inForce (f : Skim → Skim) : (s.modSkim f).inForce = s.inForce := rfl
@[simp] theorem State.modSkim_channels (f : Skim → Skim) : (s.modSkim f).channels = s.channels := rfl
@[simp] theorem State.modSkim_counters (f : Skim → Skim) : (s.modSkim f).counters = s.counters := rfl
@[simp] theorem State.modSkim_sync (f : Skim → Skim) : (s.modSkim f).sync = s.sync := rfl
@[simp] theorem State.modSkim_points (f : Skim → Skim) : (s.modSkim f).points = s.points := rfl
@[simp] theorem State.modSkim_legal (f : Skim → Skim) : (s.modSkim f).legal = s.legal := rfl
@[simp] theorem State.modSkim_gate (f : Skim → Skim) : (s.modSkim f).gate = s.gate := rfl
@[simp] theorem State.modSkim_hawk (f : Skim → Skim) : (s.modSkim f).hawk = s.hawk := rfl
@[simp] theorem State.modSkim_mem (f : Skim → Skim) : (s.modSkim f).mem = s.mem := rfl
@[simp] theorem State.modSkim_flash (f : Skim → Skim) : (s.modSkim f).flash = s.flash := rfl
@[simp] theorem State.modSkim_crypto (f : Skim → Skim) : (s.modSkim f).crypto = s.crypto := rfl
@[simp] theorem State.modSkim_display (f : Skim → Skim) : (s.modSkim f).display = s.display := rfl
@[simp] theorem State.modSkim_ports (f : Skim → Skim) : (s.modSkim f).ports = s.ports := rfl
@[simp] theorem State.modSkim_fabric (f : Skim → Skim) : (s.modSkim f).fabric = s.fabric := rfl
@[simp] theorem State.modSkim_skim (f : Skim → Skim) : (s.modSkim f).skim = f s.skim := rfl
@[simp] theorem State.modSkim_update (f : Skim → Skim) : (s.modSkim f).update = s.update := rfl
@[simp] theorem State.modSkim_diagCounters (f : Skim → Skim) : (s.modSkim f).diagCounters = s.diagCounters := rfl
@[simp] theorem State.modSkim_free (f : Skim → Skim) : (s.modSkim f).free = s.free := rfl
@[simp] theorem State.modSkim_out (f : Skim → Skim) : (s.modSkim f).out = s.out := rfl
@[simp] theorem State.modSkim_pending (f : Skim → Skim) : (s.modSkim f).pending = s.pending := rfl

/-! ### modGate -/

@[simp] theorem State.modGate_ntu (f : Gate → Gate) : (s.modGate f).ntu = s.ntu := rfl
@[simp] theorem State.modGate_modDom (f : Gate → Gate) : (s.modGate f).modDom = s.modDom := rfl
@[simp] theorem State.modGate_aon (f : Gate → Gate) : (s.modGate f).aon = s.aon := rfl
@[simp] theorem State.modGate_boot (f : Gate → Gate) : (s.modGate f).boot = s.boot := rfl
@[simp] theorem State.modGate_params (f : Gate → Gate) : (s.modGate f).params = s.params := rfl
@[simp] theorem State.modGate_drivers (f : Gate → Gate) : (s.modGate f).drivers = s.drivers := rfl
@[simp] theorem State.modGate_sources (f : Gate → Gate) : (s.modGate f).sources = s.sources := rfl
@[simp] theorem State.modGate_inForce (f : Gate → Gate) : (s.modGate f).inForce = s.inForce := rfl
@[simp] theorem State.modGate_channels (f : Gate → Gate) : (s.modGate f).channels = s.channels := rfl
@[simp] theorem State.modGate_counters (f : Gate → Gate) : (s.modGate f).counters = s.counters := rfl
@[simp] theorem State.modGate_sync (f : Gate → Gate) : (s.modGate f).sync = s.sync := rfl
@[simp] theorem State.modGate_points (f : Gate → Gate) : (s.modGate f).points = s.points := rfl
@[simp] theorem State.modGate_legal (f : Gate → Gate) : (s.modGate f).legal = s.legal := rfl
@[simp] theorem State.modGate_gate (f : Gate → Gate) : (s.modGate f).gate = f s.gate := rfl
@[simp] theorem State.modGate_hawk (f : Gate → Gate) : (s.modGate f).hawk = s.hawk := rfl
@[simp] theorem State.modGate_mem (f : Gate → Gate) : (s.modGate f).mem = s.mem := rfl
@[simp] theorem State.modGate_flash (f : Gate → Gate) : (s.modGate f).flash = s.flash := rfl
@[simp] theorem State.modGate_crypto (f : Gate → Gate) : (s.modGate f).crypto = s.crypto := rfl
@[simp] theorem State.modGate_display (f : Gate → Gate) : (s.modGate f).display = s.display := rfl
@[simp] theorem State.modGate_ports (f : Gate → Gate) : (s.modGate f).ports = s.ports := rfl
@[simp] theorem State.modGate_fabric (f : Gate → Gate) : (s.modGate f).fabric = s.fabric := rfl
@[simp] theorem State.modGate_skim (f : Gate → Gate) : (s.modGate f).skim = s.skim := rfl
@[simp] theorem State.modGate_update (f : Gate → Gate) : (s.modGate f).update = s.update := rfl
@[simp] theorem State.modGate_diagCounters (f : Gate → Gate) : (s.modGate f).diagCounters = s.diagCounters := rfl
@[simp] theorem State.modGate_free (f : Gate → Gate) : (s.modGate f).free = s.free := rfl
@[simp] theorem State.modGate_out (f : Gate → Gate) : (s.modGate f).out = s.out := rfl
@[simp] theorem State.modGate_pending (f : Gate → Gate) : (s.modGate f).pending = s.pending := rfl

/-! ### modChannel -/

@[simp] theorem State.modChannel_ntu (i : Nat) (f : Channel → Channel) : (s.modChannel i f).ntu = s.ntu := rfl
@[simp] theorem State.modChannel_modDom (i : Nat) (f : Channel → Channel) : (s.modChannel i f).modDom = s.modDom := rfl
@[simp] theorem State.modChannel_aon (i : Nat) (f : Channel → Channel) : (s.modChannel i f).aon = s.aon := rfl
@[simp] theorem State.modChannel_boot (i : Nat) (f : Channel → Channel) : (s.modChannel i f).boot = s.boot := rfl
@[simp] theorem State.modChannel_params (i : Nat) (f : Channel → Channel) : (s.modChannel i f).params = s.params := rfl
@[simp] theorem State.modChannel_drivers (i : Nat) (f : Channel → Channel) : (s.modChannel i f).drivers = s.drivers := rfl
@[simp] theorem State.modChannel_sources (i : Nat) (f : Channel → Channel) : (s.modChannel i f).sources = s.sources := rfl
@[simp] theorem State.modChannel_inForce (i : Nat) (f : Channel → Channel) : (s.modChannel i f).inForce = s.inForce := rfl
@[simp] theorem State.modChannel_channels (i : Nat) (f : Channel → Channel) : (s.modChannel i f).channels = s.channels.modify i f := rfl
@[simp] theorem State.modChannel_counters (i : Nat) (f : Channel → Channel) : (s.modChannel i f).counters = s.counters := rfl
@[simp] theorem State.modChannel_sync (i : Nat) (f : Channel → Channel) : (s.modChannel i f).sync = s.sync := rfl
@[simp] theorem State.modChannel_points (i : Nat) (f : Channel → Channel) : (s.modChannel i f).points = s.points := rfl
@[simp] theorem State.modChannel_legal (i : Nat) (f : Channel → Channel) : (s.modChannel i f).legal = s.legal := rfl
@[simp] theorem State.modChannel_gate (i : Nat) (f : Channel → Channel) : (s.modChannel i f).gate = s.gate := rfl
@[simp] theorem State.modChannel_hawk (i : Nat) (f : Channel → Channel) : (s.modChannel i f).hawk = s.hawk := rfl
@[simp] theorem State.modChannel_mem (i : Nat) (f : Channel → Channel) : (s.modChannel i f).mem = s.mem := rfl
@[simp] theorem State.modChannel_flash (i : Nat) (f : Channel → Channel) : (s.modChannel i f).flash = s.flash := rfl
@[simp] theorem State.modChannel_crypto (i : Nat) (f : Channel → Channel) : (s.modChannel i f).crypto = s.crypto := rfl
@[simp] theorem State.modChannel_display (i : Nat) (f : Channel → Channel) : (s.modChannel i f).display = s.display := rfl
@[simp] theorem State.modChannel_ports (i : Nat) (f : Channel → Channel) : (s.modChannel i f).ports = s.ports := rfl
@[simp] theorem State.modChannel_fabric (i : Nat) (f : Channel → Channel) : (s.modChannel i f).fabric = s.fabric := rfl
@[simp] theorem State.modChannel_skim (i : Nat) (f : Channel → Channel) : (s.modChannel i f).skim = s.skim := rfl
@[simp] theorem State.modChannel_update (i : Nat) (f : Channel → Channel) : (s.modChannel i f).update = s.update := rfl
@[simp] theorem State.modChannel_diagCounters (i : Nat) (f : Channel → Channel) : (s.modChannel i f).diagCounters = s.diagCounters := rfl
@[simp] theorem State.modChannel_free (i : Nat) (f : Channel → Channel) : (s.modChannel i f).free = s.free := rfl
@[simp] theorem State.modChannel_out (i : Nat) (f : Channel → Channel) : (s.modChannel i f).out = s.out := rfl
@[simp] theorem State.modChannel_pending (i : Nat) (f : Channel → Channel) : (s.modChannel i f).pending = s.pending := rfl

/-! ### modCounter -/

@[simp] theorem State.modCounter_ntu (i : Nat) (f : Counter → Counter) : (s.modCounter i f).ntu = s.ntu := rfl
@[simp] theorem State.modCounter_modDom (i : Nat) (f : Counter → Counter) : (s.modCounter i f).modDom = s.modDom := rfl
@[simp] theorem State.modCounter_aon (i : Nat) (f : Counter → Counter) : (s.modCounter i f).aon = s.aon := rfl
@[simp] theorem State.modCounter_boot (i : Nat) (f : Counter → Counter) : (s.modCounter i f).boot = s.boot := rfl
@[simp] theorem State.modCounter_params (i : Nat) (f : Counter → Counter) : (s.modCounter i f).params = s.params := rfl
@[simp] theorem State.modCounter_drivers (i : Nat) (f : Counter → Counter) : (s.modCounter i f).drivers = s.drivers := rfl
@[simp] theorem State.modCounter_sources (i : Nat) (f : Counter → Counter) : (s.modCounter i f).sources = s.sources := rfl
@[simp] theorem State.modCounter_inForce (i : Nat) (f : Counter → Counter) : (s.modCounter i f).inForce = s.inForce := rfl
@[simp] theorem State.modCounter_channels (i : Nat) (f : Counter → Counter) : (s.modCounter i f).channels = s.channels := rfl
@[simp] theorem State.modCounter_counters (i : Nat) (f : Counter → Counter) : (s.modCounter i f).counters = s.counters.modify i f := rfl
@[simp] theorem State.modCounter_sync (i : Nat) (f : Counter → Counter) : (s.modCounter i f).sync = s.sync := rfl
@[simp] theorem State.modCounter_points (i : Nat) (f : Counter → Counter) : (s.modCounter i f).points = s.points := rfl
@[simp] theorem State.modCounter_legal (i : Nat) (f : Counter → Counter) : (s.modCounter i f).legal = s.legal := rfl
@[simp] theorem State.modCounter_gate (i : Nat) (f : Counter → Counter) : (s.modCounter i f).gate = s.gate := rfl
@[simp] theorem State.modCounter_hawk (i : Nat) (f : Counter → Counter) : (s.modCounter i f).hawk = s.hawk := rfl
@[simp] theorem State.modCounter_mem (i : Nat) (f : Counter → Counter) : (s.modCounter i f).mem = s.mem := rfl
@[simp] theorem State.modCounter_flash (i : Nat) (f : Counter → Counter) : (s.modCounter i f).flash = s.flash := rfl
@[simp] theorem State.modCounter_crypto (i : Nat) (f : Counter → Counter) : (s.modCounter i f).crypto = s.crypto := rfl
@[simp] theorem State.modCounter_display (i : Nat) (f : Counter → Counter) : (s.modCounter i f).display = s.display := rfl
@[simp] theorem State.modCounter_ports (i : Nat) (f : Counter → Counter) : (s.modCounter i f).ports = s.ports := rfl
@[simp] theorem State.modCounter_fabric (i : Nat) (f : Counter → Counter) : (s.modCounter i f).fabric = s.fabric := rfl
@[simp] theorem State.modCounter_skim (i : Nat) (f : Counter → Counter) : (s.modCounter i f).skim = s.skim := rfl
@[simp] theorem State.modCounter_update (i : Nat) (f : Counter → Counter) : (s.modCounter i f).update = s.update := rfl
@[simp] theorem State.modCounter_diagCounters (i : Nat) (f : Counter → Counter) : (s.modCounter i f).diagCounters = s.diagCounters := rfl
@[simp] theorem State.modCounter_free (i : Nat) (f : Counter → Counter) : (s.modCounter i f).free = s.free := rfl
@[simp] theorem State.modCounter_out (i : Nat) (f : Counter → Counter) : (s.modCounter i f).out = s.out := rfl
@[simp] theorem State.modCounter_pending (i : Nat) (f : Counter → Counter) : (s.modCounter i f).pending = s.pending := rfl

/-! ### modPoint -/

@[simp] theorem State.modPoint_ntu (i : Nat) (f : MeterPoint → MeterPoint) : (s.modPoint i f).ntu = s.ntu := rfl
@[simp] theorem State.modPoint_modDom (i : Nat) (f : MeterPoint → MeterPoint) : (s.modPoint i f).modDom = s.modDom := rfl
@[simp] theorem State.modPoint_aon (i : Nat) (f : MeterPoint → MeterPoint) : (s.modPoint i f).aon = s.aon := rfl
@[simp] theorem State.modPoint_boot (i : Nat) (f : MeterPoint → MeterPoint) : (s.modPoint i f).boot = s.boot := rfl
@[simp] theorem State.modPoint_params (i : Nat) (f : MeterPoint → MeterPoint) : (s.modPoint i f).params = s.params := rfl
@[simp] theorem State.modPoint_drivers (i : Nat) (f : MeterPoint → MeterPoint) : (s.modPoint i f).drivers = s.drivers := rfl
@[simp] theorem State.modPoint_sources (i : Nat) (f : MeterPoint → MeterPoint) : (s.modPoint i f).sources = s.sources := rfl
@[simp] theorem State.modPoint_inForce (i : Nat) (f : MeterPoint → MeterPoint) : (s.modPoint i f).inForce = s.inForce := rfl
@[simp] theorem State.modPoint_channels (i : Nat) (f : MeterPoint → MeterPoint) : (s.modPoint i f).channels = s.channels := rfl
@[simp] theorem State.modPoint_counters (i : Nat) (f : MeterPoint → MeterPoint) : (s.modPoint i f).counters = s.counters := rfl
@[simp] theorem State.modPoint_sync (i : Nat) (f : MeterPoint → MeterPoint) : (s.modPoint i f).sync = s.sync := rfl
@[simp] theorem State.modPoint_points (i : Nat) (f : MeterPoint → MeterPoint) : (s.modPoint i f).points = s.points.modify i f := rfl
@[simp] theorem State.modPoint_legal (i : Nat) (f : MeterPoint → MeterPoint) : (s.modPoint i f).legal = s.legal := rfl
@[simp] theorem State.modPoint_gate (i : Nat) (f : MeterPoint → MeterPoint) : (s.modPoint i f).gate = s.gate := rfl
@[simp] theorem State.modPoint_hawk (i : Nat) (f : MeterPoint → MeterPoint) : (s.modPoint i f).hawk = s.hawk := rfl
@[simp] theorem State.modPoint_mem (i : Nat) (f : MeterPoint → MeterPoint) : (s.modPoint i f).mem = s.mem := rfl
@[simp] theorem State.modPoint_flash (i : Nat) (f : MeterPoint → MeterPoint) : (s.modPoint i f).flash = s.flash := rfl
@[simp] theorem State.modPoint_crypto (i : Nat) (f : MeterPoint → MeterPoint) : (s.modPoint i f).crypto = s.crypto := rfl
@[simp] theorem State.modPoint_display (i : Nat) (f : MeterPoint → MeterPoint) : (s.modPoint i f).display = s.display := rfl
@[simp] theorem State.modPoint_ports (i : Nat) (f : MeterPoint → MeterPoint) : (s.modPoint i f).ports = s.ports := rfl
@[simp] theorem State.modPoint_fabric (i : Nat) (f : MeterPoint → MeterPoint) : (s.modPoint i f).fabric = s.fabric := rfl
@[simp] theorem State.modPoint_skim (i : Nat) (f : MeterPoint → MeterPoint) : (s.modPoint i f).skim = s.skim := rfl
@[simp] theorem State.modPoint_update (i : Nat) (f : MeterPoint → MeterPoint) : (s.modPoint i f).update = s.update := rfl
@[simp] theorem State.modPoint_diagCounters (i : Nat) (f : MeterPoint → MeterPoint) : (s.modPoint i f).diagCounters = s.diagCounters := rfl
@[simp] theorem State.modPoint_free (i : Nat) (f : MeterPoint → MeterPoint) : (s.modPoint i f).free = s.free := rfl
@[simp] theorem State.modPoint_out (i : Nat) (f : MeterPoint → MeterPoint) : (s.modPoint i f).out = s.out := rfl
@[simp] theorem State.modPoint_pending (i : Nat) (f : MeterPoint → MeterPoint) : (s.modPoint i f).pending = s.pending := rfl

/-! ### modWeigh -/

@[simp] theorem State.modWeigh_ntu (i : Nat) (f : Weigh → Weigh) : (s.modWeigh i f).ntu = s.ntu := rfl
@[simp] theorem State.modWeigh_modDom (i : Nat) (f : Weigh → Weigh) : (s.modWeigh i f).modDom = s.modDom := rfl
@[simp] theorem State.modWeigh_aon (i : Nat) (f : Weigh → Weigh) : (s.modWeigh i f).aon = s.aon := rfl
@[simp] theorem State.modWeigh_boot (i : Nat) (f : Weigh → Weigh) : (s.modWeigh i f).boot = s.boot := rfl
@[simp] theorem State.modWeigh_params (i : Nat) (f : Weigh → Weigh) : (s.modWeigh i f).params = s.params := rfl
@[simp] theorem State.modWeigh_drivers (i : Nat) (f : Weigh → Weigh) : (s.modWeigh i f).drivers = s.drivers := rfl
@[simp] theorem State.modWeigh_sources (i : Nat) (f : Weigh → Weigh) : (s.modWeigh i f).sources = s.sources := rfl
@[simp] theorem State.modWeigh_inForce (i : Nat) (f : Weigh → Weigh) : (s.modWeigh i f).inForce = s.inForce := rfl
@[simp] theorem State.modWeigh_channels (i : Nat) (f : Weigh → Weigh) : (s.modWeigh i f).channels = s.channels := rfl
@[simp] theorem State.modWeigh_counters (i : Nat) (f : Weigh → Weigh) : (s.modWeigh i f).counters = s.counters := rfl
@[simp] theorem State.modWeigh_sync (i : Nat) (f : Weigh → Weigh) : (s.modWeigh i f).sync = s.sync := rfl
@[simp] theorem State.modWeigh_points (i : Nat) (f : Weigh → Weigh) : (s.modWeigh i f).points = s.points.modify i (fun p => { p with weigh := f p.weigh }) := rfl
@[simp] theorem State.modWeigh_legal (i : Nat) (f : Weigh → Weigh) : (s.modWeigh i f).legal = s.legal := rfl
@[simp] theorem State.modWeigh_gate (i : Nat) (f : Weigh → Weigh) : (s.modWeigh i f).gate = s.gate := rfl
@[simp] theorem State.modWeigh_hawk (i : Nat) (f : Weigh → Weigh) : (s.modWeigh i f).hawk = s.hawk := rfl
@[simp] theorem State.modWeigh_mem (i : Nat) (f : Weigh → Weigh) : (s.modWeigh i f).mem = s.mem := rfl
@[simp] theorem State.modWeigh_flash (i : Nat) (f : Weigh → Weigh) : (s.modWeigh i f).flash = s.flash := rfl
@[simp] theorem State.modWeigh_crypto (i : Nat) (f : Weigh → Weigh) : (s.modWeigh i f).crypto = s.crypto := rfl
@[simp] theorem State.modWeigh_display (i : Nat) (f : Weigh → Weigh) : (s.modWeigh i f).display = s.display := rfl
@[simp] theorem State.modWeigh_ports (i : Nat) (f : Weigh → Weigh) : (s.modWeigh i f).ports = s.ports := rfl
@[simp] theorem State.modWeigh_fabric (i : Nat) (f : Weigh → Weigh) : (s.modWeigh i f).fabric = s.fabric := rfl
@[simp] theorem State.modWeigh_skim (i : Nat) (f : Weigh → Weigh) : (s.modWeigh i f).skim = s.skim := rfl
@[simp] theorem State.modWeigh_update (i : Nat) (f : Weigh → Weigh) : (s.modWeigh i f).update = s.update := rfl
@[simp] theorem State.modWeigh_diagCounters (i : Nat) (f : Weigh → Weigh) : (s.modWeigh i f).diagCounters = s.diagCounters := rfl
@[simp] theorem State.modWeigh_free (i : Nat) (f : Weigh → Weigh) : (s.modWeigh i f).free = s.free := rfl
@[simp] theorem State.modWeigh_out (i : Nat) (f : Weigh → Weigh) : (s.modWeigh i f).out = s.out := rfl
@[simp] theorem State.modWeigh_pending (i : Nat) (f : Weigh → Weigh) : (s.modWeigh i f).pending = s.pending := rfl

/-! ### modProv -/

@[simp] theorem State.modProv_ntu (i : Nat) (f : Prov → Prov) : (s.modProv i f).ntu = s.ntu := rfl
@[simp] theorem State.modProv_modDom (i : Nat) (f : Prov → Prov) : (s.modProv i f).modDom = s.modDom := rfl
@[simp] theorem State.modProv_aon (i : Nat) (f : Prov → Prov) : (s.modProv i f).aon = s.aon := rfl
@[simp] theorem State.modProv_boot (i : Nat) (f : Prov → Prov) : (s.modProv i f).boot = s.boot := rfl
@[simp] theorem State.modProv_params (i : Nat) (f : Prov → Prov) : (s.modProv i f).params = s.params := rfl
@[simp] theorem State.modProv_drivers (i : Nat) (f : Prov → Prov) : (s.modProv i f).drivers = s.drivers := rfl
@[simp] theorem State.modProv_sources (i : Nat) (f : Prov → Prov) : (s.modProv i f).sources = s.sources := rfl
@[simp] theorem State.modProv_inForce (i : Nat) (f : Prov → Prov) : (s.modProv i f).inForce = s.inForce := rfl
@[simp] theorem State.modProv_channels (i : Nat) (f : Prov → Prov) : (s.modProv i f).channels = s.channels := rfl
@[simp] theorem State.modProv_counters (i : Nat) (f : Prov → Prov) : (s.modProv i f).counters = s.counters := rfl
@[simp] theorem State.modProv_sync (i : Nat) (f : Prov → Prov) : (s.modProv i f).sync = s.sync := rfl
@[simp] theorem State.modProv_points (i : Nat) (f : Prov → Prov) : (s.modProv i f).points = s.points.modify i (fun p => { p with prov := f p.prov }) := rfl
@[simp] theorem State.modProv_legal (i : Nat) (f : Prov → Prov) : (s.modProv i f).legal = s.legal := rfl
@[simp] theorem State.modProv_gate (i : Nat) (f : Prov → Prov) : (s.modProv i f).gate = s.gate := rfl
@[simp] theorem State.modProv_hawk (i : Nat) (f : Prov → Prov) : (s.modProv i f).hawk = s.hawk := rfl
@[simp] theorem State.modProv_mem (i : Nat) (f : Prov → Prov) : (s.modProv i f).mem = s.mem := rfl
@[simp] theorem State.modProv_flash (i : Nat) (f : Prov → Prov) : (s.modProv i f).flash = s.flash := rfl
@[simp] theorem State.modProv_crypto (i : Nat) (f : Prov → Prov) : (s.modProv i f).crypto = s.crypto := rfl
@[simp] theorem State.modProv_display (i : Nat) (f : Prov → Prov) : (s.modProv i f).display = s.display := rfl
@[simp] theorem State.modProv_ports (i : Nat) (f : Prov → Prov) : (s.modProv i f).ports = s.ports := rfl
@[simp] theorem State.modProv_fabric (i : Nat) (f : Prov → Prov) : (s.modProv i f).fabric = s.fabric := rfl
@[simp] theorem State.modProv_skim (i : Nat) (f : Prov → Prov) : (s.modProv i f).skim = s.skim := rfl
@[simp] theorem State.modProv_update (i : Nat) (f : Prov → Prov) : (s.modProv i f).update = s.update := rfl
@[simp] theorem State.modProv_diagCounters (i : Nat) (f : Prov → Prov) : (s.modProv i f).diagCounters = s.diagCounters := rfl
@[simp] theorem State.modProv_free (i : Nat) (f : Prov → Prov) : (s.modProv i f).free = s.free := rfl
@[simp] theorem State.modProv_out (i : Nat) (f : Prov → Prov) : (s.modProv i f).out = s.out := rfl
@[simp] theorem State.modProv_pending (i : Nat) (f : Prov → Prov) : (s.modProv i f).pending = s.pending := rfl

/-! ### modPort -/

@[simp] theorem State.modPort_ntu (i : Nat) (f : Port → Port) : (s.modPort i f).ntu = s.ntu := rfl
@[simp] theorem State.modPort_modDom (i : Nat) (f : Port → Port) : (s.modPort i f).modDom = s.modDom := rfl
@[simp] theorem State.modPort_aon (i : Nat) (f : Port → Port) : (s.modPort i f).aon = s.aon := rfl
@[simp] theorem State.modPort_boot (i : Nat) (f : Port → Port) : (s.modPort i f).boot = s.boot := rfl
@[simp] theorem State.modPort_params (i : Nat) (f : Port → Port) : (s.modPort i f).params = s.params := rfl
@[simp] theorem State.modPort_drivers (i : Nat) (f : Port → Port) : (s.modPort i f).drivers = s.drivers := rfl
@[simp] theorem State.modPort_sources (i : Nat) (f : Port → Port) : (s.modPort i f).sources = s.sources := rfl
@[simp] theorem State.modPort_inForce (i : Nat) (f : Port → Port) : (s.modPort i f).inForce = s.inForce := rfl
@[simp] theorem State.modPort_channels (i : Nat) (f : Port → Port) : (s.modPort i f).channels = s.channels := rfl
@[simp] theorem State.modPort_counters (i : Nat) (f : Port → Port) : (s.modPort i f).counters = s.counters := rfl
@[simp] theorem State.modPort_sync (i : Nat) (f : Port → Port) : (s.modPort i f).sync = s.sync := rfl
@[simp] theorem State.modPort_points (i : Nat) (f : Port → Port) : (s.modPort i f).points = s.points := rfl
@[simp] theorem State.modPort_legal (i : Nat) (f : Port → Port) : (s.modPort i f).legal = s.legal := rfl
@[simp] theorem State.modPort_gate (i : Nat) (f : Port → Port) : (s.modPort i f).gate = s.gate := rfl
@[simp] theorem State.modPort_hawk (i : Nat) (f : Port → Port) : (s.modPort i f).hawk = s.hawk := rfl
@[simp] theorem State.modPort_mem (i : Nat) (f : Port → Port) : (s.modPort i f).mem = s.mem := rfl
@[simp] theorem State.modPort_flash (i : Nat) (f : Port → Port) : (s.modPort i f).flash = s.flash := rfl
@[simp] theorem State.modPort_crypto (i : Nat) (f : Port → Port) : (s.modPort i f).crypto = s.crypto := rfl
@[simp] theorem State.modPort_display (i : Nat) (f : Port → Port) : (s.modPort i f).display = s.display := rfl
@[simp] theorem State.modPort_ports (i : Nat) (f : Port → Port) : (s.modPort i f).ports = s.ports := rfl
@[simp] theorem State.modPort_fabric (i : Nat) (f : Port → Port) : (s.modPort i f).fabric = { s.fabric with ports := s.fabric.ports.modify i f } := rfl
@[simp] theorem State.modPort_skim (i : Nat) (f : Port → Port) : (s.modPort i f).skim = s.skim := rfl
@[simp] theorem State.modPort_update (i : Nat) (f : Port → Port) : (s.modPort i f).update = s.update := rfl
@[simp] theorem State.modPort_diagCounters (i : Nat) (f : Port → Port) : (s.modPort i f).diagCounters = s.diagCounters := rfl
@[simp] theorem State.modPort_free (i : Nat) (f : Port → Port) : (s.modPort i f).free = s.free := rfl
@[simp] theorem State.modPort_out (i : Nat) (f : Port → Port) : (s.modPort i f).out = s.out := rfl
@[simp] theorem State.modPort_pending (i : Nat) (f : Port → Port) : (s.modPort i f).pending = s.pending := rfl

/-! ### modRing -/

@[simp] theorem State.modRing_ntu (i : Nat) (f : Ring → Ring) : (s.modRing i f).ntu = s.ntu := rfl
@[simp] theorem State.modRing_modDom (i : Nat) (f : Ring → Ring) : (s.modRing i f).modDom = s.modDom := rfl
@[simp] theorem State.modRing_aon (i : Nat) (f : Ring → Ring) : (s.modRing i f).aon = s.aon := rfl
@[simp] theorem State.modRing_boot (i : Nat) (f : Ring → Ring) : (s.modRing i f).boot = s.boot := rfl
@[simp] theorem State.modRing_params (i : Nat) (f : Ring → Ring) : (s.modRing i f).params = s.params := rfl
@[simp] theorem State.modRing_drivers (i : Nat) (f : Ring → Ring) : (s.modRing i f).drivers = s.drivers := rfl
@[simp] theorem State.modRing_sources (i : Nat) (f : Ring → Ring) : (s.modRing i f).sources = s.sources := rfl
@[simp] theorem State.modRing_inForce (i : Nat) (f : Ring → Ring) : (s.modRing i f).inForce = s.inForce := rfl
@[simp] theorem State.modRing_channels (i : Nat) (f : Ring → Ring) : (s.modRing i f).channels = s.channels := rfl
@[simp] theorem State.modRing_counters (i : Nat) (f : Ring → Ring) : (s.modRing i f).counters = s.counters := rfl
@[simp] theorem State.modRing_sync (i : Nat) (f : Ring → Ring) : (s.modRing i f).sync = s.sync := rfl
@[simp] theorem State.modRing_points (i : Nat) (f : Ring → Ring) : (s.modRing i f).points = s.points := rfl
@[simp] theorem State.modRing_legal (i : Nat) (f : Ring → Ring) : (s.modRing i f).legal = s.legal := rfl
@[simp] theorem State.modRing_gate (i : Nat) (f : Ring → Ring) : (s.modRing i f).gate = s.gate := rfl
@[simp] theorem State.modRing_hawk (i : Nat) (f : Ring → Ring) : (s.modRing i f).hawk = { s.hawk with rings := s.hawk.rings.modify i f } := rfl
@[simp] theorem State.modRing_mem (i : Nat) (f : Ring → Ring) : (s.modRing i f).mem = s.mem := rfl
@[simp] theorem State.modRing_flash (i : Nat) (f : Ring → Ring) : (s.modRing i f).flash = s.flash := rfl
@[simp] theorem State.modRing_crypto (i : Nat) (f : Ring → Ring) : (s.modRing i f).crypto = s.crypto := rfl
@[simp] theorem State.modRing_display (i : Nat) (f : Ring → Ring) : (s.modRing i f).display = s.display := rfl
@[simp] theorem State.modRing_ports (i : Nat) (f : Ring → Ring) : (s.modRing i f).ports = s.ports := rfl
@[simp] theorem State.modRing_fabric (i : Nat) (f : Ring → Ring) : (s.modRing i f).fabric = s.fabric := rfl
@[simp] theorem State.modRing_skim (i : Nat) (f : Ring → Ring) : (s.modRing i f).skim = s.skim := rfl
@[simp] theorem State.modRing_update (i : Nat) (f : Ring → Ring) : (s.modRing i f).update = s.update := rfl
@[simp] theorem State.modRing_diagCounters (i : Nat) (f : Ring → Ring) : (s.modRing i f).diagCounters = s.diagCounters := rfl
@[simp] theorem State.modRing_free (i : Nat) (f : Ring → Ring) : (s.modRing i f).free = s.free := rfl
@[simp] theorem State.modRing_out (i : Nat) (f : Ring → Ring) : (s.modRing i f).out = s.out := rfl
@[simp] theorem State.modRing_pending (i : Nat) (f : Ring → Ring) : (s.modRing i f).pending = s.pending := rfl

/-! ### modComponent -/

@[simp] theorem State.modComponent_ntu (i : Nat) (f : Component → Component) : (s.modComponent i f).ntu = s.ntu := rfl
@[simp] theorem State.modComponent_modDom (i : Nat) (f : Component → Component) : (s.modComponent i f).modDom = s.modDom := rfl
@[simp] theorem State.modComponent_aon (i : Nat) (f : Component → Component) : (s.modComponent i f).aon = s.aon := rfl
@[simp] theorem State.modComponent_boot (i : Nat) (f : Component → Component) : (s.modComponent i f).boot = { s.boot with components := s.boot.components.modify i f } := rfl
@[simp] theorem State.modComponent_params (i : Nat) (f : Component → Component) : (s.modComponent i f).params = s.params := rfl
@[simp] theorem State.modComponent_drivers (i : Nat) (f : Component → Component) : (s.modComponent i f).drivers = s.drivers := rfl
@[simp] theorem State.modComponent_sources (i : Nat) (f : Component → Component) : (s.modComponent i f).sources = s.sources := rfl
@[simp] theorem State.modComponent_inForce (i : Nat) (f : Component → Component) : (s.modComponent i f).inForce = s.inForce := rfl
@[simp] theorem State.modComponent_channels (i : Nat) (f : Component → Component) : (s.modComponent i f).channels = s.channels := rfl
@[simp] theorem State.modComponent_counters (i : Nat) (f : Component → Component) : (s.modComponent i f).counters = s.counters := rfl
@[simp] theorem State.modComponent_sync (i : Nat) (f : Component → Component) : (s.modComponent i f).sync = s.sync := rfl
@[simp] theorem State.modComponent_points (i : Nat) (f : Component → Component) : (s.modComponent i f).points = s.points := rfl
@[simp] theorem State.modComponent_legal (i : Nat) (f : Component → Component) : (s.modComponent i f).legal = s.legal := rfl
@[simp] theorem State.modComponent_gate (i : Nat) (f : Component → Component) : (s.modComponent i f).gate = s.gate := rfl
@[simp] theorem State.modComponent_hawk (i : Nat) (f : Component → Component) : (s.modComponent i f).hawk = s.hawk := rfl
@[simp] theorem State.modComponent_mem (i : Nat) (f : Component → Component) : (s.modComponent i f).mem = s.mem := rfl
@[simp] theorem State.modComponent_flash (i : Nat) (f : Component → Component) : (s.modComponent i f).flash = s.flash := rfl
@[simp] theorem State.modComponent_crypto (i : Nat) (f : Component → Component) : (s.modComponent i f).crypto = s.crypto := rfl
@[simp] theorem State.modComponent_display (i : Nat) (f : Component → Component) : (s.modComponent i f).display = s.display := rfl
@[simp] theorem State.modComponent_ports (i : Nat) (f : Component → Component) : (s.modComponent i f).ports = s.ports := rfl
@[simp] theorem State.modComponent_fabric (i : Nat) (f : Component → Component) : (s.modComponent i f).fabric = s.fabric := rfl
@[simp] theorem State.modComponent_skim (i : Nat) (f : Component → Component) : (s.modComponent i f).skim = s.skim := rfl
@[simp] theorem State.modComponent_update (i : Nat) (f : Component → Component) : (s.modComponent i f).update = s.update := rfl
@[simp] theorem State.modComponent_diagCounters (i : Nat) (f : Component → Component) : (s.modComponent i f).diagCounters = s.diagCounters := rfl
@[simp] theorem State.modComponent_free (i : Nat) (f : Component → Component) : (s.modComponent i f).free = s.free := rfl
@[simp] theorem State.modComponent_out (i : Nat) (f : Component → Component) : (s.modComponent i f).out = s.out := rfl
@[simp] theorem State.modComponent_pending (i : Nat) (f : Component → Component) : (s.modComponent i f).pending = s.pending := rfl

/-! ### emit -/

@[simp] theorem State.emit_ntu (o : Out) : (s.emit o).ntu = s.ntu := rfl
@[simp] theorem State.emit_modDom (o : Out) : (s.emit o).modDom = s.modDom := rfl
@[simp] theorem State.emit_aon (o : Out) : (s.emit o).aon = s.aon := rfl
@[simp] theorem State.emit_boot (o : Out) : (s.emit o).boot = s.boot := rfl
@[simp] theorem State.emit_params (o : Out) : (s.emit o).params = s.params := rfl
@[simp] theorem State.emit_drivers (o : Out) : (s.emit o).drivers = s.drivers := rfl
@[simp] theorem State.emit_sources (o : Out) : (s.emit o).sources = s.sources := rfl
@[simp] theorem State.emit_inForce (o : Out) : (s.emit o).inForce = s.inForce := rfl
@[simp] theorem State.emit_channels (o : Out) : (s.emit o).channels = s.channels := rfl
@[simp] theorem State.emit_counters (o : Out) : (s.emit o).counters = s.counters := rfl
@[simp] theorem State.emit_sync (o : Out) : (s.emit o).sync = s.sync := rfl
@[simp] theorem State.emit_points (o : Out) : (s.emit o).points = s.points := rfl
@[simp] theorem State.emit_legal (o : Out) : (s.emit o).legal = s.legal := rfl
@[simp] theorem State.emit_gate (o : Out) : (s.emit o).gate = s.gate := rfl
@[simp] theorem State.emit_hawk (o : Out) : (s.emit o).hawk = s.hawk := rfl
@[simp] theorem State.emit_mem (o : Out) : (s.emit o).mem = s.mem := rfl
@[simp] theorem State.emit_flash (o : Out) : (s.emit o).flash = s.flash := rfl
@[simp] theorem State.emit_crypto (o : Out) : (s.emit o).crypto = s.crypto := rfl
@[simp] theorem State.emit_display (o : Out) : (s.emit o).display = s.display := rfl
@[simp] theorem State.emit_ports (o : Out) : (s.emit o).ports = s.ports := rfl
@[simp] theorem State.emit_fabric (o : Out) : (s.emit o).fabric = s.fabric := rfl
@[simp] theorem State.emit_skim (o : Out) : (s.emit o).skim = s.skim := rfl
@[simp] theorem State.emit_update (o : Out) : (s.emit o).update = s.update := rfl
@[simp] theorem State.emit_diagCounters (o : Out) : (s.emit o).diagCounters = s.diagCounters := rfl
@[simp] theorem State.emit_free (o : Out) : (s.emit o).free = s.free := rfl
@[simp] theorem State.emit_out (o : Out) : (s.emit o).out = s.out ++ [o] := rfl
@[simp] theorem State.emit_pending (o : Out) : (s.emit o).pending = s.pending := rfl

/-! ### modDriver -/

@[simp] theorem State.modDriver_ntu (i : Nat) (f : Driver → Driver) : (s.modDriver i f).ntu = s.ntu := rfl
@[simp] theorem State.modDriver_modDom (i : Nat) (f : Driver → Driver) : (s.modDriver i f).modDom = s.modDom := rfl
@[simp] theorem State.modDriver_aon (i : Nat) (f : Driver → Driver) : (s.modDriver i f).aon = s.aon := rfl
@[simp] theorem State.modDriver_boot (i : Nat) (f : Driver → Driver) : (s.modDriver i f).boot = s.boot := rfl
@[simp] theorem State.modDriver_params (i : Nat) (f : Driver → Driver) : (s.modDriver i f).params = s.params := rfl
@[simp] theorem State.modDriver_inForce (i : Nat) (f : Driver → Driver) : (s.modDriver i f).inForce = s.inForce := rfl
@[simp] theorem State.modDriver_channels (i : Nat) (f : Driver → Driver) : (s.modDriver i f).channels = s.channels := rfl
@[simp] theorem State.modDriver_drivers (i : Nat) (f : Driver → Driver) : (s.modDriver i f).drivers = s.drivers.modify i f := rfl
@[simp] theorem State.modDriver_sources (i : Nat) (f : Driver → Driver) : (s.modDriver i f).sources = s.sources := rfl
@[simp] theorem State.modDriver_counters (i : Nat) (f : Driver → Driver) : (s.modDriver i f).counters = s.counters := rfl
@[simp] theorem State.modDriver_sync (i : Nat) (f : Driver → Driver) : (s.modDriver i f).sync = s.sync := rfl
@[simp] theorem State.modDriver_points (i : Nat) (f : Driver → Driver) : (s.modDriver i f).points = s.points := rfl
@[simp] theorem State.modDriver_legal (i : Nat) (f : Driver → Driver) : (s.modDriver i f).legal = s.legal := rfl
@[simp] theorem State.modDriver_gate (i : Nat) (f : Driver → Driver) : (s.modDriver i f).gate = s.gate := rfl
@[simp] theorem State.modDriver_hawk (i : Nat) (f : Driver → Driver) : (s.modDriver i f).hawk = s.hawk := rfl
@[simp] theorem State.modDriver_mem (i : Nat) (f : Driver → Driver) : (s.modDriver i f).mem = s.mem := rfl
@[simp] theorem State.modDriver_flash (i : Nat) (f : Driver → Driver) : (s.modDriver i f).flash = s.flash := rfl
@[simp] theorem State.modDriver_crypto (i : Nat) (f : Driver → Driver) : (s.modDriver i f).crypto = s.crypto := rfl
@[simp] theorem State.modDriver_display (i : Nat) (f : Driver → Driver) : (s.modDriver i f).display = s.display := rfl
@[simp] theorem State.modDriver_ports (i : Nat) (f : Driver → Driver) : (s.modDriver i f).ports = s.ports := rfl
@[simp] theorem State.modDriver_fabric (i : Nat) (f : Driver → Driver) : (s.modDriver i f).fabric = s.fabric := rfl
@[simp] theorem State.modDriver_skim (i : Nat) (f : Driver → Driver) : (s.modDriver i f).skim = s.skim := rfl
@[simp] theorem State.modDriver_update (i : Nat) (f : Driver → Driver) : (s.modDriver i f).update = s.update := rfl
@[simp] theorem State.modDriver_diagCounters (i : Nat) (f : Driver → Driver) : (s.modDriver i f).diagCounters = s.diagCounters := rfl
@[simp] theorem State.modDriver_free (i : Nat) (f : Driver → Driver) : (s.modDriver i f).free = s.free := rfl
@[simp] theorem State.modDriver_out (i : Nat) (f : Driver → Driver) : (s.modDriver i f).out = s.out := rfl
@[simp] theorem State.modDriver_pending (i : Nat) (f : Driver → Driver) : (s.modDriver i f).pending = s.pending := rfl

/-! ### bump -/

@[simp] theorem State.bump_ntu (i n : Nat) : (s.bump i n).ntu = s.ntu := rfl
@[simp] theorem State.bump_modDom (i n : Nat) : (s.bump i n).modDom = s.modDom := rfl
@[simp] theorem State.bump_aon (i n : Nat) : (s.bump i n).aon = s.aon := rfl
@[simp] theorem State.bump_boot (i n : Nat) : (s.bump i n).boot = s.boot := rfl
@[simp] theorem State.bump_params (i n : Nat) : (s.bump i n).params = s.params := rfl
@[simp] theorem State.bump_drivers (i n : Nat) : (s.bump i n).drivers = s.drivers := rfl
@[simp] theorem State.bump_sources (i n : Nat) : (s.bump i n).sources = s.sources := rfl
@[simp] theorem State.bump_inForce (i n : Nat) : (s.bump i n).inForce = s.inForce := rfl
@[simp] theorem State.bump_channels (i n : Nat) : (s.bump i n).channels = s.channels := rfl
@[simp] theorem State.bump_counters (i n : Nat) : (s.bump i n).counters = s.counters := rfl
@[simp] theorem State.bump_sync (i n : Nat) : (s.bump i n).sync = s.sync := rfl
@[simp] theorem State.bump_points (i n : Nat) : (s.bump i n).points = s.points := rfl
@[simp] theorem State.bump_legal (i n : Nat) : (s.bump i n).legal = s.legal := rfl
@[simp] theorem State.bump_gate (i n : Nat) : (s.bump i n).gate = s.gate := rfl
@[simp] theorem State.bump_hawk (i n : Nat) : (s.bump i n).hawk = s.hawk := rfl
@[simp] theorem State.bump_mem (i n : Nat) : (s.bump i n).mem = s.mem := rfl
@[simp] theorem State.bump_flash (i n : Nat) : (s.bump i n).flash = s.flash := rfl
@[simp] theorem State.bump_crypto (i n : Nat) : (s.bump i n).crypto = s.crypto := rfl
@[simp] theorem State.bump_display (i n : Nat) : (s.bump i n).display = s.display := rfl
@[simp] theorem State.bump_ports (i n : Nat) : (s.bump i n).ports = s.ports := rfl
@[simp] theorem State.bump_fabric (i n : Nat) : (s.bump i n).fabric = s.fabric := rfl
@[simp] theorem State.bump_skim (i n : Nat) : (s.bump i n).skim = s.skim := rfl
@[simp] theorem State.bump_update (i n : Nat) : (s.bump i n).update = s.update := rfl
@[simp] theorem State.bump_diagCounters (i n : Nat) : (s.bump i n).diagCounters = s.diagCounters.modify i (fun c => satAdd 0xFFFFFFFF c n) := rfl
@[simp] theorem State.bump_free (i n : Nat) : (s.bump i n).free = s.free := rfl
@[simp] theorem State.bump_out (i n : Nat) : (s.bump i n).out = s.out := rfl
@[simp] theorem State.bump_pending (i n : Nat) : (s.bump i n).pending = s.pending := rfl

/-! ### elapse -/

@[simp] theorem State.elapse_ntu (dt : Ticks) : (s.elapse dt).ntu = s.ntu.advance dt.sys := rfl
@[simp] theorem State.elapse_modDom (dt : Ticks) : (s.elapse dt).modDom = s.modDom.advance dt.mod := rfl
@[simp] theorem State.elapse_aon (dt : Ticks) : (s.elapse dt).aon = s.aon.advance dt.aon := rfl
@[simp] theorem State.elapse_boot (dt : Ticks) : (s.elapse dt).boot = s.boot := rfl
@[simp] theorem State.elapse_params (dt : Ticks) : (s.elapse dt).params = s.params := rfl
@[simp] theorem State.elapse_drivers (dt : Ticks) : (s.elapse dt).drivers = s.drivers := rfl
@[simp] theorem State.elapse_sources (dt : Ticks) : (s.elapse dt).sources = s.sources := rfl
@[simp] theorem State.elapse_inForce (dt : Ticks) : (s.elapse dt).inForce = s.inForce := rfl
@[simp] theorem State.elapse_channels (dt : Ticks) : (s.elapse dt).channels = s.channels := rfl
@[simp] theorem State.elapse_counters (dt : Ticks) : (s.elapse dt).counters = s.counters := rfl
@[simp] theorem State.elapse_sync (dt : Ticks) :
    (s.elapse dt).sync = { s.sync with outHigh := s.sync.outHigh && !s.syncFalls dt.mod } := rfl
@[simp] theorem State.elapse_points (dt : Ticks) : (s.elapse dt).points = s.points := rfl
@[simp] theorem State.elapse_legal (dt : Ticks) : (s.elapse dt).legal = s.legal := rfl
@[simp] theorem State.elapse_gate (dt : Ticks) : (s.elapse dt).gate = s.gate := rfl
@[simp] theorem State.elapse_hawk (dt : Ticks) : (s.elapse dt).hawk = s.hawk := rfl
@[simp] theorem State.elapse_mem (dt : Ticks) : (s.elapse dt).mem = s.mem := rfl
@[simp] theorem State.elapse_flash (dt : Ticks) : (s.elapse dt).flash = s.flash := rfl
@[simp] theorem State.elapse_crypto (dt : Ticks) : (s.elapse dt).crypto = s.crypto := rfl
@[simp] theorem State.elapse_display (dt : Ticks) : (s.elapse dt).display = s.display := rfl
@[simp] theorem State.elapse_ports (dt : Ticks) : (s.elapse dt).ports = s.ports := rfl
@[simp] theorem State.elapse_fabric (dt : Ticks) : (s.elapse dt).fabric = s.fabric := rfl
@[simp] theorem State.elapse_skim (dt : Ticks) : (s.elapse dt).skim = s.skim := rfl
@[simp] theorem State.elapse_update (dt : Ticks) : (s.elapse dt).update = s.update := rfl
@[simp] theorem State.elapse_diagCounters (dt : Ticks) : (s.elapse dt).diagCounters = s.diagCounters := rfl
@[simp] theorem State.elapse_free (dt : Ticks) : (s.elapse dt).free = s.free := rfl
@[simp] theorem State.elapse_out (dt : Ticks) :
    (s.elapse dt).out = if s.syncFalls dt.mod then [.syncOutLow] else [] := rfl
@[simp] theorem State.elapse_pending (dt : Ticks) : (s.elapse dt).pending = s.pending := rfl

/-! ### drawFree -/

@[simp] theorem State.drawFree_ntu (w : Nat) : (s.drawFree w).2.ntu = s.ntu := rfl
@[simp] theorem State.drawFree_modDom (w : Nat) : (s.drawFree w).2.modDom = s.modDom := rfl
@[simp] theorem State.drawFree_aon (w : Nat) : (s.drawFree w).2.aon = s.aon := rfl
@[simp] theorem State.drawFree_boot (w : Nat) : (s.drawFree w).2.boot = s.boot := rfl
@[simp] theorem State.drawFree_params (w : Nat) : (s.drawFree w).2.params = s.params := rfl
@[simp] theorem State.drawFree_drivers (w : Nat) : (s.drawFree w).2.drivers = s.drivers := rfl
@[simp] theorem State.drawFree_sources (w : Nat) : (s.drawFree w).2.sources = s.sources := rfl
@[simp] theorem State.drawFree_inForce (w : Nat) : (s.drawFree w).2.inForce = s.inForce := rfl
@[simp] theorem State.drawFree_channels (w : Nat) : (s.drawFree w).2.channels = s.channels := rfl
@[simp] theorem State.drawFree_counters (w : Nat) : (s.drawFree w).2.counters = s.counters := rfl
@[simp] theorem State.drawFree_sync (w : Nat) : (s.drawFree w).2.sync = s.sync := rfl
@[simp] theorem State.drawFree_points (w : Nat) : (s.drawFree w).2.points = s.points := rfl
@[simp] theorem State.drawFree_legal (w : Nat) : (s.drawFree w).2.legal = s.legal := rfl
@[simp] theorem State.drawFree_gate (w : Nat) : (s.drawFree w).2.gate = s.gate := rfl
@[simp] theorem State.drawFree_hawk (w : Nat) : (s.drawFree w).2.hawk = s.hawk := rfl
@[simp] theorem State.drawFree_mem (w : Nat) : (s.drawFree w).2.mem = s.mem := rfl
@[simp] theorem State.drawFree_flash (w : Nat) : (s.drawFree w).2.flash = s.flash := rfl
@[simp] theorem State.drawFree_crypto (w : Nat) : (s.drawFree w).2.crypto = s.crypto := rfl
@[simp] theorem State.drawFree_display (w : Nat) : (s.drawFree w).2.display = s.display := rfl
@[simp] theorem State.drawFree_ports (w : Nat) : (s.drawFree w).2.ports = s.ports := rfl
@[simp] theorem State.drawFree_fabric (w : Nat) : (s.drawFree w).2.fabric = s.fabric := rfl
@[simp] theorem State.drawFree_skim (w : Nat) : (s.drawFree w).2.skim = s.skim := rfl
@[simp] theorem State.drawFree_update (w : Nat) : (s.drawFree w).2.update = s.update := rfl
@[simp] theorem State.drawFree_diagCounters (w : Nat) : (s.drawFree w).2.diagCounters = s.diagCounters := rfl
@[simp] theorem State.drawFree_free (w : Nat) : (s.drawFree w).2.free = s.free + 1 := rfl
@[simp] theorem State.drawFree_out (w : Nat) : (s.drawFree w).2.out = s.out := rfl
@[simp] theorem State.drawFree_pending (w : Nat) : (s.drawFree w).2.pending = s.pending := rfl

end Sys2Proof.Machine
end

