-- ==== Sys2Proof/WellFormed.lean ====
section
/-! DEFINITION. Well-formed commands: every operand names something that the part has (a channel, a
counter, a metering point, a port, a ring) or fits the width the spec gives it. -/

namespace Sys2Proof

/-- Four keys and sixteen counter inputs (R448, R115). -/
def StartEnv.wf (e : StartEnv) : Bool := e.keysDown.length == 4 && e.counterLevels.length == 16

def Cut.wf : Cut → Bool
  | .bankCopy mp => mp < 4
  | _ => true

def ScrubFinding.wf : ScrubFinding → Bool
  | .legalParam id => id < 65536
  | .classNParam id => id < 65536
  | .bankCopy mp copy => mp < 4 && copy < 2
  | .calCopy copy => copy < 2
  | .bootRecord c => c < 4
  | _ => true

def CutFrame.wf : CutFrame → Bool
  | .regWrite a ws => a < 16777216 && ws.length ≤ 256
  | .memWrite a ws => a < 16777216 && ws.length ≤ 256
  | .read _ a n => a < 16777216 && n ≤ 256
  | .other => true

/-- A word of an IOMMU table, at its place in the map. -/
def tableEntryOk (t : Nat × Word) : Bool := t.1 % 4 == 0 && t.1 < 4294967296

/-- Table 13.9's widths. -/
def Descriptor.wf (d : Descriptor) : Bool :=
  d.src < 4294967296 && d.dst < 4294967296 && d.len < 4294967296 && d.ctrl < 4294967296 && d.next < 4294967296

/-- A command's operands are in range. -/
def Instr.wf (i : Instr) : Bool :=
  match i with
  | .resetRelease _ env => env.wf
  | .entropyStartRetry _ _ env => env.wf
  | .xtalMainTimeout _ => true
  | .pllLockTimeout _ => true
  | .legalStartFail _ env => env.wf
  | .appStartFail _ env => env.wf
  | .brownOut _ _ cut => cut.wf
  | .resetPinLow _ _ cut => cut.wf
  | .mainPowerLoss _ cut => cut.wf
  | .aonPowerUp _ _ => true
  | .aonSupplyLoss _ => true
  | .tamperSample _ _ => true
  | .retainedDrain _ => true
  | .displaySequencePhaseEnd _ _ => true
  | .lockstepMismatch _ env => env.wf
  | .lcWatchdogExpiry _ env => env.wf
  | .acWatchdogExpiry _ env => env.wf
  | .lcIntegrityFault _ env => env.wf
  | .acIntegrityFault _ addr env => addr < 4294967296 && env.wf
  | .mainClockFault _ => true
  | .pllRestartTry _ _ => true
  | .dspClockFault _ => true
  | .mclkStop _ _ => true
  | .mclkWindow _ _ _ => true
  | .mclkReturn _ => true
  | .xoModLost _ => true
  | .xoModRestartTry _ _ => true
  | .modEpoch _ => true
  | .slewSecond _ => true
  | .slewClamp _ => true
  | .fineHoldoverExpiry _ => true
  | .rtcHourlyWrite _ => true
  | .counterInputEdge _ cnt _ _ => cnt < 16
  | .quadTransition _ cnt _ _ _ _ => cnt < 16 && cnt % 2 == 0
  | .counterLatch _ => true
  | .faOutput _ pch _ _ => pch < 16
  | .lineHoldTimeout _ pch => pch < 16
  | .lineLockTimeout _ pch => pch < 16
  | .diagBitSet _ pch bit _ => pch < 16 && bit < 7
  | .diagBitClear _ pch bit _ => pch < 16 && bit < 7
  | .diagSummary _ pch => pch < 16
  | .syncInEdge _ _ _ => true
  | .syncAtFire _ _ => true
  | .analysisCycle _ mp => mp < 4
  | .weighPosition _ mp => mp < 4
  | .weighTimeout _ mp => mp < 4
  | .commitSecond _ => true
  | .calendarActivation _ => true
  | .keyPress _ key _ => key < 4
  | .showLcvTimeout _ => true
  | .keyStuck _ key => key < 4
  | .calIdleTimeout _ => true
  | .provUpdate _ mp => mp < 4
  | .provStabilityPoll _ mp => mp < 4
  | .harmonicSecond _ mp => mp < 4
  | .gateReadStatus _ => true
  | .gateReadRegisters _ => true
  | .gateSignReading _ => true
  | .gateReadLog _ => true
  | .gateAttest _ => true
  | .gateSetParam _ => true
  | .gateSetTime _ => true
  | .gateLoadCalendar _ => true
  | .gateSetOwnerLock _ => true
  | .gateWeighBegin _ => true
  | .gateWeighCommit _ => true
  | .gateWeighCancel _ => true
  | .calBegin _ => true
  | .calZero _ => true
  | .calCorner _ => true
  | .calSpan _ => true
  | .calElecRef _ => true
  | .calRref _ => true
  | .calCommit _ => true
  | .calAbort _ => true
  | .gateActivateLegal _ => true
  | .legalActivationSwitch _ env => env.wf
  | .gateSealLogArchive _ => true
  | .gateRegArchive _ => true
  | .gateReservedCode _ => true
  | .gateReplyReceive _ => true
  | .gateSlotFreeSubmit _ => true
  | .readingDelivery _ => true
  | .memRead _ addr nwords _ => addr < 16777216 && nwords < 256
  | .memWrite _ addr words _ => addr < 16777216 && 1 ≤ words.length && words.length ≤ 256
  | .spiReservedFrame _ code => code < 256 && !(1 ≤ code && code ≤ 4)
  | .spiFrameCut _ cut => cut.wf
  | .registerWrite _ addr words => addr < 16777216 && 1 ≤ words.length && words.length ≤ 256
  | .resetCauseWrite _ _ => true
  | .irqStatusWrite _ _ => true
  | .hawkReset _ => true
  | .nodeTimeLatch _ addr nwords => addr < 16777216 && nwords < 256
  | .eventLostRead _ nwords => nwords < 256
  | .bulkDroppedRead _ nwords => nwords < 256
  | .commandDoorbell _ _ => true
  | .ringHeadWrite _ ring _ => 1 ≤ ring && ring < 4
  | .ringEnable _ ring _ => ring < 4
  | .ringDisable _ ring _ => ring < 4
  | .commandTake _ _ => true
  | .coalesceTimerExpiry _ ring => 1 ≤ ring && ring < 4
  | .rilfyFrameReceive _ port _ => (port == .service || port == .optical)
  | .getInfo _ _ p => p.length ≤ 65536
  | .readStatus _ _ p => p.length ≤ 65536
  | .getParam _ _ p => p.length ≤ 65536
  | .setParam _ _ p => p.length ≤ 65536
  | .getParamInfo _ _ p => p.length ≤ 65536
  | .systemReset _ _ p env => p.length ≤ 65536 && env.wf
  | .ping _ _ p => p.length ≤ 65536
  | .chainInfo _ _ p => p.length ≤ 65536
  | .syncNow _ _ p _ => p.length ≤ 65536
  | .syncAt _ _ p => p.length ≤ 65536
  | .syncStatus _ _ p => p.length ≤ 65536
  | .calibrate _ _ p => p.length ≤ 65536
  | .weighBegin _ _ p => p.length ≤ 65536
  | .weighCommit _ _ p => p.length ≤ 65536
  | .weighCancel _ _ p => p.length ≤ 65536
  | .provSamples _ _ p => p.length ≤ 65536
  | .provStatus _ _ p => p.length ≤ 65536
  | .readRegisters _ _ p => p.length ≤ 65536
  | .signReading _ _ p => p.length ≤ 65536
  | .readLog _ _ p => p.length ≤ 65536
  | .sealLogArchive _ _ p => p.length ≤ 65536
  | .profileRead _ _ p => p.length ≤ 65536
  | .profileStatus _ _ p => p.length ≤ 65536
  | .readExternal _ _ p => p.length ≤ 65536
  | .regArchive _ _ p => p.length ≤ 65536
  | .getTime _ _ p => p.length ≤ 65536
  | .setTime _ _ p => p.length ≤ 65536
  | .discipline _ _ p => p.length ≤ 65536
  | .loadCalendar _ _ p => p.length ≤ 65536
  | .readCalendar _ _ p => p.length ≤ 65536
  | .tariffStatus _ _ p => p.length ≤ 65536
  | .setOwnerLock _ _ p => p.length ≤ 65536
  | .ownerStatus _ _ p => p.length ≤ 65536
  | .commSegments _ _ p => p.length ≤ 65536
  | .commDigits _ _ p => p.length ≤ 65536
  | .statusIcons _ _ p => p.length ≤ 65536
  | .commCommit _ _ p => p.length ≤ 65536
  | .displayStatus _ _ p => p.length ≤ 65536
  | .fabricStatus _ _ p => p.length ≤ 65536
  | .portStatus _ _ p => p.length ≤ 65536
  | .portEnable _ _ p => p.length ≤ 65536
  | .nodeList _ _ p => p.length ≤ 65536
  | .routeTable _ _ p => p.length ≤ 65536
  | .installLinkKey _ _ p => p.length ≤ 65536
  | .tunnelSend _ _ p => p.length ≤ 65536
  | .updateStatus _ _ p => p.length ≤ 65536
  | .stageBegin _ _ p => p.length ≤ 65536
  | .stageData _ _ p => p.length ≤ 65536
  | .stageEnd _ _ p => p.length ≤ 65536
  | .stageAbort _ _ p => p.length ≤ 65536
  | .activate _ _ p env => p.length ≤ 65536 && env.wf
  | .readManifest _ _ p => p.length ≤ 65536
  | .attest _ _ p => p.length ≤ 65536
  | .readCert _ _ p => p.length ≤ 65536
  | .ctxOpen _ _ p => p.length ≤ 65536
  | .ctxUpdate _ _ p => p.length ≤ 65536
  | .ctxFinal _ _ p => p.length ≤ 65536
  | .ctxAbort _ _ p => p.length ≤ 65536
  | .sign _ _ p => p.length ≤ 65536
  | .verify _ _ p => p.length ≤ 65536
  | .ecdh _ _ p => p.length ≤ 65536
  | .keygen _ _ p => p.length ≤ 65536
  | .keyLoad _ _ p => p.length ≤ 65536
  | .keyErase _ _ p => p.length ≤ 65536
  | .random _ _ p => p.length ≤ 65536
  | .entropyStatus _ _ p => p.length ≤ 65536
  | .captureStart _ _ p => p.length ≤ 65536
  | .captureStop _ _ p => p.length ≤ 65536
  | .separationTest _ _ p => p.length ≤ 65536
  | .diagCounters _ _ p => p.length ≤ 65536
  | .mbusList _ _ p => p.length ≤ 65536
  | .mbusRead _ _ p => p.length ≤ 65536
  | .cryptoJobComplete _ ctx => ctx < 4
  | .cryptoPreempt _ => true
  | .entropyHealthFail _ _ => true
  | .entropySourceRestart _ _ => true
  | .drbgReseed _ => true
  | .displayFrameBoundary _ _ => true
  | .legalImageWrite _ => true
  | .legalStale _ => true
  | .epdPhaseEnd _ rails => !rails.isEmpty
  | .epdUpdateEnd _ => true
  | .readbackMismatch _ output _ => output ≤ 512
  | .legalErrorFlash _ => true
  | .vlcdUpdate _ _ => true
  | .touchScan _ raws => raws.length == 8 && raws.all (fun r => decide (r < 65536))
  | .vbatMeasure _ mv => mv < 65536
  | .vbusValid _ => true
  | .vbusInvalid _ => true
  | .optSignOn _ _ => true
  | .optOptionSelect _ _ => true
  | .optMessageTimeout _ => true
  | .optRilfyIdleTimeout _ => true
  | .mbusPollCycle _ => true
  | .mbusReply _ _ => true
  | .mbusReplyTimeout _ => true
  | .quietEnd _ port => port < 3
  | .helloTimer _ port => port < 3
  | .helloReceive _ port _ => port < 3
  | .linkSilenceTimeout _ port => port < 3
  | .sessionRenewal _ port => port < 3
  | .sessionDeadline _ port => port < 3
  | .lsaReceive _ port _ => port < 3
  | .lsaRefresh _ => true
  | .lsaAgeOut _ _ => true
  | .routeCompute _ => true
  | .addressAssign _ => true
  | .electionEvaluate _ => true
  | .timeReqTimer _ port => port < 3
  | .timeReqReceive _ port _ => port < 3
  | .timeRespSend _ port => port < 3
  | .timeRespReceive _ port _ => port < 3
  | .fabricDisciplineSecond _ => true
  | .tunnelCmdReceive _ port _ => port < 3
  | .tunnelRespReceive _ port _ => port < 3
  | .tunnelBulkReceive _ port _ => port < 3
  | .tunnelPieceTimeout _ _ => true
  | .tunnelResponseTimeout _ _ => true
  | .distributionRepeat _ => true
  | .readingReceive _ port _ => port < 3
  | .readingAckReceive _ port _ => port < 3
  | .readingResend _ _ => true
  | .routedFrameForward _ port _ => port < 3
  | .frameReject _ port _ => port < 3
  | .portTransmit _ port => port < 3
  | .dmaSubmit _ ch prio index descs root tables => ch < 32 && prio < 4 && index < 16384 && !descs.isEmpty && descs.all Descriptor.wf && root % 4096 == 0 && root < 4294967296 && tables.all tableEntryOk
  | .dmaPageWalk _ ch _ => ch < 32
  | .dmaPreempt _ ch _ => ch < 32
  | .dmaResume _ ch => ch < 32
  | .dmaAbort _ ch => ch < 32
  | .dmaChannelDisable _ ch _ => ch < 32
  | .dmaTransferEnd _ ch _ => ch < 32
  | .iommuInvalidate _ _ tables => tables.all tableEntryOk
  | .guardWindowRevoke _ window => window < 8
  | .guardWindowRelease _ => true
  | .mramScrub _ finding => finding.wf
  | .sramScrubLine _ line _ => line < 147456
  | .flashEraseComplete _ sector _ => sector < 4096
  | .flashProgramComplete _ => true
  | .archiveHeadCommit _ => true
  | .captureRecord _ pch => pch < 16
  | .nonlegalActivationTimeout _ env => env.wf
  | .legalActivationTimeout _ env => env.wf
  | .trialConfirm _ component => component < 4
  | .trialWatchdogExpiry _ component env => component < 4 && env.wf
  | .mainPowerReturn _ => true
  | .keyRelease _ key => key < 4
  | .dspClockRelockTry _ _ => true
  | .registerListScreenEnd _ => true
  | .screenHalfSwitch _ => true
  | .optReadoutEnd _ => true
  | .ringStatusWrite _ ring _ => ring < 4
  | .activateResponseDiscard _ => true

/-- The time that passes before a command acts. -/
def Instr.ticks (i : Instr) : Ticks :=
  match i with
  | .resetRelease dt _ => dt
  | .entropyStartRetry dt _ _ => dt
  | .xtalMainTimeout dt => dt
  | .pllLockTimeout dt => dt
  | .legalStartFail dt _ => dt
  | .appStartFail dt _ => dt
  | .brownOut dt _ _ => dt
  | .resetPinLow dt _ _ => dt
  | .mainPowerLoss dt _ => dt
  | .aonPowerUp dt _ => dt
  | .aonSupplyLoss dt => dt
  | .tamperSample dt _ => dt
  | .retainedDrain dt => dt
  | .displaySequencePhaseEnd dt _ => dt
  | .lockstepMismatch dt _ => dt
  | .lcWatchdogExpiry dt _ => dt
  | .acWatchdogExpiry dt _ => dt
  | .lcIntegrityFault dt _ => dt
  | .acIntegrityFault dt _ _ => dt
  | .mainClockFault dt => dt
  | .pllRestartTry dt _ => dt
  | .dspClockFault dt => dt
  | .mclkStop dt _ => dt
  | .mclkWindow dt _ _ => dt
  | .mclkReturn dt => dt
  | .xoModLost dt => dt
  | .xoModRestartTry dt _ => dt
  | .modEpoch dt => dt
  | .slewSecond dt => dt
  | .slewClamp dt => dt
  | .fineHoldoverExpiry dt => dt
  | .rtcHourlyWrite dt => dt
  | .counterInputEdge dt _ _ _ => dt
  | .quadTransition dt _ _ _ _ _ => dt
  | .counterLatch dt => dt
  | .faOutput dt _ _ _ => dt
  | .lineHoldTimeout dt _ => dt
  | .lineLockTimeout dt _ => dt
  | .diagBitSet dt _ _ _ => dt
  | .diagBitClear dt _ _ _ => dt
  | .diagSummary dt _ => dt
  | .syncInEdge dt _ _ => dt
  | .syncAtFire dt _ => dt
  | .analysisCycle dt _ => dt
  | .weighPosition dt _ => dt
  | .weighTimeout dt _ => dt
  | .commitSecond dt => dt
  | .calendarActivation dt => dt
  | .keyPress dt _ _ => dt
  | .showLcvTimeout dt => dt
  | .keyStuck dt _ => dt
  | .calIdleTimeout dt => dt
  | .provUpdate dt _ => dt
  | .provStabilityPoll dt _ => dt
  | .harmonicSecond dt _ => dt
  | .gateReadStatus dt => dt
  | .gateReadRegisters dt => dt
  | .gateSignReading dt => dt
  | .gateReadLog dt => dt
  | .gateAttest dt => dt
  | .gateSetParam dt => dt
  | .gateSetTime dt => dt
  | .gateLoadCalendar dt => dt
  | .gateSetOwnerLock dt => dt
  | .gateWeighBegin dt => dt
  | .gateWeighCommit dt => dt
  | .gateWeighCancel dt => dt
  | .calBegin dt => dt
  | .calZero dt => dt
  | .calCorner dt => dt
  | .calSpan dt => dt
  | .calElecRef dt => dt
  | .calRref dt => dt
  | .calCommit dt => dt
  | .calAbort dt => dt
  | .gateActivateLegal dt => dt
  | .legalActivationSwitch dt _ => dt
  | .gateSealLogArchive dt => dt
  | .gateRegArchive dt => dt
  | .gateReservedCode dt => dt
  | .gateReplyReceive dt => dt
  | .gateSlotFreeSubmit dt => dt
  | .readingDelivery dt => dt
  | .memRead dt _ _ _ => dt
  | .memWrite dt _ _ _ => dt
  | .spiReservedFrame dt _ => dt
  | .spiFrameCut dt _ => dt
  | .registerWrite dt _ _ => dt
  | .resetCauseWrite dt _ => dt
  | .irqStatusWrite dt _ => dt
  | .hawkReset dt => dt
  | .nodeTimeLatch dt _ _ => dt
  | .eventLostRead dt _ => dt
  | .bulkDroppedRead dt _ => dt
  | .commandDoorbell dt _ => dt
  | .ringHeadWrite dt _ _ => dt
  | .ringEnable dt _ _ => dt
  | .ringDisable dt _ _ => dt
  | .commandTake dt _ => dt
  | .coalesceTimerExpiry dt _ => dt
  | .rilfyFrameReceive dt _ _ => dt
  | .getInfo dt _ _ => dt
  | .readStatus dt _ _ => dt
  | .getParam dt _ _ => dt
  | .setParam dt _ _ => dt
  | .getParamInfo dt _ _ => dt
  | .systemReset dt _ _ _ => dt
  | .ping dt _ _ => dt
  | .chainInfo dt _ _ => dt
  | .syncNow dt _ _ _ => dt
  | .syncAt dt _ _ => dt
  | .syncStatus dt _ _ => dt
  | .calibrate dt _ _ => dt
  | .weighBegin dt _ _ => dt
  | .weighCommit dt _ _ => dt
  | .weighCancel dt _ _ => dt
  | .provSamples dt _ _ => dt
  | .provStatus dt _ _ => dt
  | .readRegisters dt _ _ => dt
  | .signReading dt _ _ => dt
  | .readLog dt _ _ => dt
  | .sealLogArchive dt _ _ => dt
  | .profileRead dt _ _ => dt
  | .profileStatus dt _ _ => dt
  | .readExternal dt _ _ => dt
  | .regArchive dt _ _ => dt
  | .getTime dt _ _ => dt
  | .setTime dt _ _ => dt
  | .discipline dt _ _ => dt
  | .loadCalendar dt _ _ => dt
  | .readCalendar dt _ _ => dt
  | .tariffStatus dt _ _ => dt
  | .setOwnerLock dt _ _ => dt
  | .ownerStatus dt _ _ => dt
  | .commSegments dt _ _ => dt
  | .commDigits dt _ _ => dt
  | .statusIcons dt _ _ => dt
  | .commCommit dt _ _ => dt
  | .displayStatus dt _ _ => dt
  | .fabricStatus dt _ _ => dt
  | .portStatus dt _ _ => dt
  | .portEnable dt _ _ => dt
  | .nodeList dt _ _ => dt
  | .routeTable dt _ _ => dt
  | .installLinkKey dt _ _ => dt
  | .tunnelSend dt _ _ => dt
  | .updateStatus dt _ _ => dt
  | .stageBegin dt _ _ => dt
  | .stageData dt _ _ => dt
  | .stageEnd dt _ _ => dt
  | .stageAbort dt _ _ => dt
  | .activate dt _ _ _ => dt
  | .readManifest dt _ _ => dt
  | .attest dt _ _ => dt
  | .readCert dt _ _ => dt
  | .ctxOpen dt _ _ => dt
  | .ctxUpdate dt _ _ => dt
  | .ctxFinal dt _ _ => dt
  | .ctxAbort dt _ _ => dt
  | .sign dt _ _ => dt
  | .verify dt _ _ => dt
  | .ecdh dt _ _ => dt
  | .keygen dt _ _ => dt
  | .keyLoad dt _ _ => dt
  | .keyErase dt _ _ => dt
  | .random dt _ _ => dt
  | .entropyStatus dt _ _ => dt
  | .captureStart dt _ _ => dt
  | .captureStop dt _ _ => dt
  | .separationTest dt _ _ => dt
  | .diagCounters dt _ _ => dt
  | .mbusList dt _ _ => dt
  | .mbusRead dt _ _ => dt
  | .cryptoJobComplete dt _ => dt
  | .cryptoPreempt dt => dt
  | .entropyHealthFail dt _ => dt
  | .entropySourceRestart dt _ => dt
  | .drbgReseed dt => dt
  | .displayFrameBoundary dt _ => dt
  | .legalImageWrite dt => dt
  | .legalStale dt => dt
  | .epdPhaseEnd dt _ => dt
  | .epdUpdateEnd dt => dt
  | .readbackMismatch dt _ _ => dt
  | .legalErrorFlash dt => dt
  | .vlcdUpdate dt _ => dt
  | .touchScan dt _ => dt
  | .vbatMeasure dt _ => dt
  | .vbusValid dt => dt
  | .vbusInvalid dt => dt
  | .optSignOn dt _ => dt
  | .optOptionSelect dt _ => dt
  | .optMessageTimeout dt => dt
  | .optRilfyIdleTimeout dt => dt
  | .mbusPollCycle dt => dt
  | .mbusReply dt _ => dt
  | .mbusReplyTimeout dt => dt
  | .quietEnd dt _ => dt
  | .helloTimer dt _ => dt
  | .helloReceive dt _ _ => dt
  | .linkSilenceTimeout dt _ => dt
  | .sessionRenewal dt _ => dt
  | .sessionDeadline dt _ => dt
  | .lsaReceive dt _ _ => dt
  | .lsaRefresh dt => dt
  | .lsaAgeOut dt _ => dt
  | .routeCompute dt => dt
  | .addressAssign dt => dt
  | .electionEvaluate dt => dt
  | .timeReqTimer dt _ => dt
  | .timeReqReceive dt _ _ => dt
  | .timeRespSend dt _ => dt
  | .timeRespReceive dt _ _ => dt
  | .fabricDisciplineSecond dt => dt
  | .tunnelCmdReceive dt _ _ => dt
  | .tunnelRespReceive dt _ _ => dt
  | .tunnelBulkReceive dt _ _ => dt
  | .tunnelPieceTimeout dt _ => dt
  | .tunnelResponseTimeout dt _ => dt
  | .distributionRepeat dt => dt
  | .readingReceive dt _ _ => dt
  | .readingAckReceive dt _ _ => dt
  | .readingResend dt _ => dt
  | .routedFrameForward dt _ _ => dt
  | .frameReject dt _ _ => dt
  | .portTransmit dt _ => dt
  | .dmaSubmit dt _ _ _ _ _ _ => dt
  | .dmaPageWalk dt _ _ => dt
  | .dmaPreempt dt _ _ => dt
  | .dmaResume dt _ => dt
  | .dmaAbort dt _ => dt
  | .dmaChannelDisable dt _ _ => dt
  | .dmaTransferEnd dt _ _ => dt
  | .iommuInvalidate dt _ _ => dt
  | .guardWindowRevoke dt _ => dt
  | .guardWindowRelease dt => dt
  | .mramScrub dt _ => dt
  | .sramScrubLine dt _ _ => dt
  | .flashEraseComplete dt _ _ => dt
  | .flashProgramComplete dt => dt
  | .archiveHeadCommit dt => dt
  | .captureRecord dt _ => dt
  | .nonlegalActivationTimeout dt _ => dt
  | .legalActivationTimeout dt _ => dt
  | .trialConfirm dt _ => dt
  | .trialWatchdogExpiry dt _ _ => dt
  | .mainPowerReturn dt => dt
  | .keyRelease dt _ => dt
  | .dspClockRelockTry dt _ => dt
  | .registerListScreenEnd dt => dt
  | .screenHalfSwitch dt => dt
  | .optReadoutEnd dt => dt
  | .ringStatusWrite dt _ _ => dt
  | .activateResponseDiscard dt => dt

end Sys2Proof
end

