-- ==== Sys2Proof/Tests/Slice0.lean ====
section
/-! SUPPORT. The model's own tests: what WellFormed refuses, the worked examples of the spec, and for every
statement with hypotheses a state and operands that meet all of them together (`witness_`, named after the
statement, in the order of its clauses). Expected values are the spec's. -/

open Sys2Proof Sys2Proof.Machine

namespace Sys2Proof.Tests

set_option Elab.async false

/-! ### States and operands that the tests share -/


/-- No time passes before the command. -/
def at0 : Ticks := ⟨0, 0, 0⟩
/-- A call of the host with TAG 1. -/
def hc : Call := ⟨.host, 1⟩
/-- A command in flight of the host, taken and not yet accepted. -/
def fl (op : Nat) (p : Bytes) : InFlight := ⟨hc, 1, op, false, true, 0x10000, 4096, p, none, false, 0, false⟩
/-- A GET_INFO in flight whose response buffer holds nothing. -/
def small : InFlight := { fl 0x0101 [] with bufCap := 0 }
/-- The part running after a full start: PLL_SYS, FINE time, XO_MOD, every image running. -/
def run : State :=
  { State.reset with
    ntu := { Ntu.reset with sysSource := .pll, acc := 10000000000000 * 4294967296, status := .fine }
    modDom := { ModDomain.reset with source := .xoMod }
    boot := { Boot.reset with stage := 7, held := false, legalReady := true, displayPhase := 5,
                              components := List.replicate 4 { Component.reset with running := true } } }
/-- The running part with stored parameters. -/
def par (l : List (Nat × Bytes)) : State := { run with params := l }
/-- A state with one command in flight. -/
def srv (s : State) (op : Nat) (p : Bytes) : State := { s with hawk := { s.hawk with inFlight := [fl op p] } }
/-- An active ring of 16 entries with one waiting. -/
def ring : Ring := { Ring.absent with base := 0x1000, log2 := 4, enable := true, active := true, head := 1, tail := 2 }
/-- A state with four such rings. -/
def mailbox (s : State) : State := { s with hawk := { s.hawk with rings := List.replicate 4 ring } }
/-- A gate request of the host. -/
def asked (code : Nat) (p : Bytes) : GateRequest := ⟨5, code, .host, p, none⟩
/-- A state in a phase of the display sequence. -/
def phase (s : State) (n : Nat) : State := { s with boot := { s.boot with displayPhase := n } }
/-- The running part with other legal state. -/
def legal (l : Legal) : State := { run with legal := l }
/-- The running part with an LCD. -/
def lcd : State := par [(0x4000, [1])]
/-- An update that compensates, in phase `n`. -/
def epd (n : Nat) : EpdUpdate := ⟨8, [], [], n, 0⟩
/-- The running part with an update on its panel. -/
def showing (e : EpdUpdate) : State := { run with display := { Display.reset with update := some e } }
/-- The running part with another crypto engine. -/
def crypto (c : Crypto) : State := { run with crypto := c }
/-- A seeded engine with key slot 3 loaded. -/
def keyed (type : Nat) : Crypto :=
  { Crypto.reset with slots := (List.replicate 16 none).set 3 (some ⟨type, beBytes 32 1⟩), seeded := true }
/-- An open context of the host. -/
def ctx (call : Option Call) (job : CryptoJob) : Context := ⟨false, 1, 0, 0, .host, call, job, [], 0⟩
/-- An engine whose four contexts hold the same job. -/
def working (x : Context) : Crypto := { keyed 3 with contexts := List.replicate 4 (some x) }
/-- The point 2G of P-256. -/
def point2 : Bytes :=
  beBytes 32 0x7CF27B188D034F7E8A52380304B51AC3C08969E277F21B35A60B48FC47669978 ++
    beBytes 32 0x07775510DB8ED040293D9AC69F7430DBBA7DADE63CE982299E04B79D227873D1
/-- The running part with an engine and one accepted command. -/
def going (c : Crypto) (op : Nat) : State :=
  { run with crypto := c, hawk := { run.hawk with inFlight := [{ fl op [] with accepted := true }] } }
/-- The running part with one M-Bus meter in MODE 1. -/
def metered (e : MbusEntry) : State :=
  { par [(0x6100, [1, 1] ++ zeros 22)] with ports := { Ports.reset with mbus := List.replicate 64 e } }
/-- The running part with unread capture records on every channel. -/
def unread : State := { run with channels := List.replicate 16 { Channel.reset with capUnread := 4 } }
/-- The running part with an open capture. -/
def capturing : State := { run with skim := { Skim.reset with capture := some ⟨hc, 1, 0, none, 0, 0, false⟩ } }
/-- The running part with other boot state. -/
def boot (b : Boot) : State := { run with boot := b }
/-- The running part with another always-on domain. -/
def aon (a : AlwaysOn) : State := { run with aon := a }
/-- The running part with another node time unit. -/
def ntu (n : Ntu) : State := { run with ntu := n }
/-- The running part with MCLK_IN selected. -/
def mclk (m : ModDomain) : State := { par [(0x8010, [1])] with modDom := m }
/-- The running part with sixteen channels alike. -/
def chans (c : Channel) : State := { run with channels := List.replicate 16 c }
/-- The running part with one component replaced. -/
def comp (k : Nat) (c : Component) : State := boot { run.boot with components := run.boot.components.set k c }
/-- A running component whose bank B is confirmed. -/
def spare : Component := { Component.reset with running := true, bankB := ⟨.confirmed, false, true⟩ }
/-- A running component whose bank A is in trial. -/
def trial : Component :=
  { spare with bankA := ⟨.trial, false, true⟩, trialSince := some 9900000000000, trialCommits := 10 }
/-- A retained entry of zeros. -/
def kept : RetainedEntry := ⟨0, 0, 0, 0, 0⟩
/-- A state whose gate holds one request. -/
def asking (s : State) (l : Legal) (r : GateRequest) : State :=
  { s with legal := l, gate := { Gate.reset with requests := [r] } }
/-- A binding record of a type and subtype on channels 0, 1 and so on. -/
def bound (type sub : Nat) : Bytes := [byte type, byte sub, 0, 0, 0, 1, 255, 1] ++ List.replicate 20 255
/-- A chain in LINE mode. -/
def lineCfg : Bytes := [3, 5, 0, 1, 0, 0, 0, 0, 1, 0] ++ zeros 6
/-- A settled channel with a good record. -/
def good : Channel :=
  { Channel.reset with running := true, settled := true, latest := some ⟨0, 0, 0, 10, 0⟩ }
/-- The running part with four weighing instruments alike. -/
def pts (w : Weigh) : State := { run with points := List.replicate 4 { MeterPoint.reset 0 with weigh := w } }
/-- A bound WASTE metering point with good records. -/
def waste (w : Weigh) : State :=
  { chans good with
    params := [(0x2300, bound 4 0), (0x2340, leBytes 4 1000 ++ leBytes 4 1 ++ zeros 16)]
    points := List.replicate 4 { MeterPoint.reset 0 with weigh := w } }
/-- An open weighing transaction. -/
def sale : Txn := ⟨1, 0, 0, 0, 60, 0, none⟩
/-- A WASTE metering point with provisional output on and an acceleration stream. -/
def proving (a : List (Nat × Int)) : State :=
  { chans good with
    params := [(0x2000, bound 4 0), (0x2060, [1]), (0x2061, [1])]
    points := List.replicate 4 { MeterPoint.reset 0 with prov := { Prov.reset with accel := a } } }
/-- A calibration sequence of a metering point with nothing staged. -/
def cal (m : Nat) (b : Bytes) : CalSeq :=
  ⟨m, b, 0, none, [none, none, none, none], none, [none, none, none], [none, none]⟩
/-- A calendar that Table 9.10 accepts. -/
def tariffs : Bytes :=
  [1, 1] ++ zeros 30 ++ [1, 1] ++ zeros 94 ++ [0, 0, 1, 0] ++ (List.replicate 11 [255, 255, 0, 0]).flatten ++ zeros 1744
/-- An ELEC metering point with a whole line cycle of records. -/
def elecCycles : State :=
  { chans { good with cycle := (List.range 52).map (fun k => ⟨0, 0, 0, k, k⟩) } with
    params := [(0x1010, lineCfg), (0x1050, lineCfg), (0x2300, bound 1 1)]
    points := List.replicate 4 { MeterPoint.reset 0 with cycleStart := some 51 } }
/-- A metering point whose bank holds no registers. -/
def bare : MeterPoint :=
  { MeterPoint.reset 3 with
    copyA := { BankCopy.factory 3 with regs := [] }, copyB := { BankCopy.factory 3 with regs := [] } }
/-- The running part with a USB service session. -/
def serviced : State := { run with ports := { Ports.reset with usbSession := true } }
/-- The running part with its optical head in a state. -/
def optic (state at_ : Nat) : State :=
  { par [(0x6020, [3])] with ports := { Ports.reset with optState := state, optAt := at_ } }
/-- The running part with flash work. -/
def flash (js : List FlashJob) : State := { run with flash := { Flash.reset with jobs := js } }
/-- A session key of zeros. -/
def key0 : Bytes := zeros 16
/-- A port in UP with a session. -/
def upPort : Port := { Port.reset with state := 4, session := some ⟨key0, 0, 0, 0, 0, none, 0, none⟩ }
/-- The running part with three ports alike. -/
def linked (p : Port) : State := { run with fabric := { Fabric.reset with ports := List.replicate 3 p } }
/-- An engine whose slots all hold a link key. -/
def linkKeyed : Crypto := { Crypto.reset with slots := List.replicate 16 (some ⟨1, zeros 32⟩) }
/-- The header of a session frame from node 9 to node 5. -/
def header (hop type n : Nat) : Bytes := frameHeader 5 9 type hop 0 n false 0
/-- A session frame of the peer. -/
def fromPeer (hop type : Nat) (t : Bytes) : Bytes :=
  sessionFrame key0 (sessionIv true 0) (header hop type t.length) t
/-- A handshake HELLO of a NODE_ID. -/
def helloOf (id : Nat) : Bytes :=
  handshakeFrame key0 (frameHeader 0x3FFF 0 1 1 0 48 true 0) (leBytes 8 id ++ zeros 40)
/-- A handshake HELLO of NODE_ID 7. -/
def hello : Bytes := helloOf 7
/-- Thirty-two bytes and their CRC-32. -/
def blank : Bytes := zeros 32 ++ leBytes 4 (crc32 (zeros 32))

theorem nodeId_low : 7 < nodeId := by unfold nodeId; omega
theorem seven_ne : 7 ≠ nodeId := by have := nodeId_low; omega
theorem nodeId_lt : nodeId < 0x0641000000000000 := by
  have := Config.nodeIdLow.isLt
  unfold nodeId; omega

/-- What a frame of the peer in these tests has to have. -/
def FrameOk (hop type : Nat) (t : Bytes) : Prop :=
  t.length ≤ 1024 ∧ payloadOk type t = true ∧ (header hop type t.length).length = 16 ∧
    field (header hop type t.length) 8 2 = t.length ∧ field (header hop type t.length) 6 2 = 0 ∧
    frameType (header hop type t.length) = type ∧ frameHandshake (header hop type t.length) = false ∧
    frameEpoch (header hop type t.length) = 0 ∧ scrimHeaderOk (header hop type t.length) = true

/-- A frame of a peer with NODE_ID 0 in a session is received in every state that holds the session. -/
theorem received_peer (s : State) (i hop type : Nat) (t : Bytes) (h0 : s.ready = true) (h1 : (s.port i).state = 4)
    (h2 : (s.port i).session = some ⟨key0, 0, 0, 0, 0, none, 0, none⟩) (h3 : (s.port i).peerId = 0)
    (h4 : FrameOk hop type t) : s.received i type (fromPeer hop type t) = some t := by
  obtain ⟨l, ok, hh, fl, fs, ft, fk, fe, hd⟩ := h4
  have hk : roundKeysOk (aesKeys key0) = true := by decide +kernel
  have w : frameWhole (fromPeer hop type t) = true := sessionFrame_whole key0 (sessionIv true 0) _ t hk hh l fl
  have fld := fun o n ho => sessionFrame_field key0 (sessionIv true 0) (header hop type t.length) t o n hh ho
  have sl := sessionFrame_slice key0 (sessionIv true 0) (header hop type t.length) t 12 4 hh (by omega)
  have ty : frameType (fromPeer hop type t) = type := (fld 4 1 (by omega)).trans ft
  have hs : frameHandshake (fromPeer hop type t) = false := by
    rw [← fk]; unfold frameHandshake fromPeer; rw [fld 10 1 (by omega)]
  have ep : frameEpoch (fromPeer hop type t) = 0 := (fld 11 1 (by omega)).trans fe
  have op : openSession key0 true 0 (fromPeer hop type t) = some t :=
    openSession_sessionFrame key0 _ t true 0 0 hk hh l fl (by rw [fs]; rfl)
  have hd' : scrimHeaderOk (fromPeer hop type t) = true := by
    rw [← hd]; unfold scrimHeaderOk frameDst frameSrc frameHop fromPeer rsv
    rw [fld 0 2 (by omega), fld 2 2 (by omega), fld 5 1 (by omega), fld 10 1 (by omega), sl]
  have lo : decide (0 < nodeId) = true := by have := nodeId_low; simp; omega
  simp [State.received, State.judge, h0, h1, w, hs, Port.judgeSession, h2, h3, ep, lo, op, admitText, hd', ty, ok]

theorem received_for_me (s : State) (i hop type : Nat) (t : Bytes) (h0 : s.ready = true) (h1 : (s.port i).state = 4)
    (h2 : (s.port i).session = some ⟨key0, 0, 0, 0, 0, none, 0, none⟩) (h3 : (s.port i).peerId = 0)
    (h4 : FrameOk hop type t) (h5 : s.forMe (fromPeer hop type t) = true) :
    s.receivedForMe i type (fromPeer hop type t) = some t := by
  simp [State.receivedForMe, h5, received_peer s i hop type t h0 h1 h2 h3 h4]

/-- A handshake HELLO of any NODE_ID under the link key authenticates. -/
theorem helloOf_ok (id : Nat) (s : State) (i : Nat) (h : (s.keySlot i).isSome = true) (k : s.linkKey i = key0) :
    frameWhole (helloOf id) = true ∧ framePayload (helloOf id) = leBytes 8 id ++ zeros 40 ∧ frameType (helloOf id) = 1 ∧
      frameHandshake (helloOf id) = true ∧ scrimHeaderOk (helloOf id) = true ∧ s.handshakeOk i (helloOf id) = true := by
  have hk : roundKeysOk (aesKeys key0) = true := by decide +kernel
  have hh : (frameHeader 0x3FFF 0 1 1 0 48 true 0).length = 16 := by decide
  have hl : (leBytes 8 id ++ zeros 40).length = 48 := by
    rw [List.length_append, length_leBytes]; rfl
  obtain ⟨a, b, c, d⟩ := handshakeFrame_parts key0 _ (leBytes 8 id ++ zeros 40) hk hh (by rw [hl]; decide) (by rw [hl]; decide)
  have fld := fun o n ho => handshakeFrame_field key0 _ (leBytes 8 id ++ zeros 40) o n hh ho
  have sl := handshakeFrame_slice key0 _ (leBytes 8 id ++ zeros 40) 12 4 hh (by omega)
  have ty : frameType (helloOf id) = 1 := (fld 4 1 (by omega)).trans (by decide)
  have hs : frameHandshake (helloOf id) = true := by
    unfold frameHandshake helloOf; rw [fld 10 1 (by omega)]; decide
  have hd : scrimHeaderOk (helloOf id) = true := by
    unfold scrimHeaderOk frameDst frameSrc frameHop helloOf rsv
    rw [fld 0 2 (by omega), fld 2 2 (by omega), fld 5 1 (by omega), fld 10 1 (by omega), sl]; decide
  refine ⟨a, b, ty, hs, hd, ?_⟩
  unfold State.handshakeOk
  rw [ty, k]
  unfold helloOf
  rw [b, c, d]
  simp [typeHello, h]

theorem hello_ok (s : State) (i : Nat) (h : (s.keySlot i).isSome = true) (k : s.linkKey i = key0) :
    frameWhole hello = true ∧ framePayload hello = leBytes 8 7 ++ zeros 40 ∧ frameType hello = 1 ∧
      frameHandshake hello = true ∧ scrimHeaderOk hello = true ∧ s.handshakeOk i hello = true :=
  helloOf_ok 7 s i h k

theorem received_hello (s : State) (i : Nat) (h0 : s.ready = true) (h1 : (s.port i).state = 3) (h : (s.keySlot i).isSome = true)
    (k : s.linkKey i = key0) : s.received i 1 hello = some (leBytes 8 7 ++ zeros 40) := by
  obtain ⟨w, p, ty, hs, hd, ok⟩ := hello_ok s i h k
  have id : field (leBytes 8 7 ++ zeros 40) 0 8 = 7 := by decide
  have po : payloadOk 1 (leBytes 8 7 ++ zeros 40) = true := by decide
  simp [State.received, State.judge, h0, h1, w, p, ty, hs, hd, ok, id, seven_ne, typeHello, admitText, po]

theorem judge_hello (s : State) (i : Nat) (h0 : s.ready = true) (h1 : (s.port i).state = 4) (h : (s.keySlot i).isSome = true)
    (k : s.linkKey i = key0) : s.judge i hello = .dropped := by
  obtain ⟨w, _, _, hs, _, ok⟩ := hello_ok s i h k
  simp [State.judge, h0, h1, w, hs, ok]

/-- A log entry of zeros. -/
def entry : LogEntry := ⟨0, 0, 0, 0, 0, 0, 0, zeros 28⟩
/-- Noise that passes the start-up tests: 0 and 1 in turn. -/
def lively : BitVec 1024 := BitVec.ofNat 1024 ((2 ^ 1024 - 1) / 3)
/-- A front end at rest. -/
def calm : Sensed := ⟨0, 0, 3300, 0, 0, 0, 0, false, 0, 0, 0⟩
/-- A start in which every check passes. -/
def env0 : StartEnv :=
  ⟨false, true, true, true, true, lively, 256, true, true, false, true, true, [false, false, false, false], 25,
    List.replicate 16 false⟩
/-- The running part with a valid flash sector of the profile store. -/
def stored : State :=
  let h : Bytes := leBytes 4 0x06405EC0 ++ [1, 1, 0, 0, 1] ++ zeros 51
  { run with
    mem := { MemSys.reset with
      cells := Memory.writeBytes [] (flashBase + 65536 * 192) (h ++ leBytes 4 (crc32 h) ++ zeros 192) }
    flash := { Flash.reset with profHeadWords := .fresh (192, 256), journal := [⟨192, 0, 1, 1⟩] } }
/-- The running part with ELEC banks and a gate request for a snapshot of register 0. -/
def snap (l : Legal) (p : Bytes) : State :=
  { asking run l (asked 3 p) with
    points := List.replicate 4 { MeterPoint.reset 0 with
      copyA := { BankCopy.factory 0 with type := 1, subtype := 1 }
      copyB := { BankCopy.factory 0 with type := 1, subtype := 1 } } }
/-- An ELEC calibration sequence open on metering point 3, with a request for a step. -/
def elecCal (p : Bytes) : State :=
  asking elecCycles { Legal.reset with sealOpen := true, calSeq := some (cal 3 (bound 1 1)) } (asked 13 p)
/-- A WASTE calibration sequence on metering point 3, with a request for a step. -/
def wasteCal (stable : Bool) (c : CalSeq) (p : Bytes) : State :=
  asking (waste { Weigh.reset with stable := stable }) { Legal.reset with sealOpen := true, calSeq := some c } (asked 13 p)
/-- A HEAT calibration sequence whose terms are whole, with a request for COMMIT. -/
def heatCal (l : Legal) : State :=
  asking (par [(0x2300, bound 3 0)])
    { l with sealOpen := true, calSeq := some ({ cal 3 (bound 3 0) with rref := [some 1, some 2] }) }
    (asked 13 ([7, 3] ++ zeros 18))
/-- The running part with one reply waiting. -/
def replied (r : GateReply) : State := { run with gate := { Gate.reset with replies := [r] } }
/-- The running part with a reply to a host command that waits for it. -/
def replying (r : GateReply) : State :=
  { replied r with hawk := { run.hawk with inFlight := [{ fl 0x0401 [] with gseq := some 5 }] } }
/-- The running part with four disabled rings at a base. -/
def idleRings (base : Nat) : State :=
  { run with hawk := { run.hawk with rings := List.replicate 4 { Ring.absent with base := base, log2 := 4 } } }
/-- A whole frame whose TYPE is 1 and which is no handshake frame. -/
def plain : Bytes := let h := zeros 4 ++ [1] ++ zeros 27; h ++ leBytes 4 (crc32 h)
/-- A pad that has been scanned eight times against a baseline of 1,000. -/
def pad (touched : Bool) (n : Nat) : Pad := ⟨0, 1000, 8, touched, n, n, 0⟩
/-- The running part in the middle of a poll of entry 0. -/
def polling (c : Nat × Nat × Bool) (discard : Bool) : State :=
  { (par [(0x6030, [1]), (0x6100, [1, 0, 5])]) with
    ports := { Ports.reset with mbusCycle := some c, mbusDiscard := discard } }
/-- A port that waits for its peer, with the link keys held. -/
def handshaking (p : Port) : State := { linked { p with state := 3, session := none } with crypto := linkKeyed }
/-- The frame that carries this node's own NODE_ID back to it. -/
theorem helloOf_nodeId : field (framePayload (helloOf nodeId)) 0 8 = nodeId := by
  have h := (helloOf_ok nodeId (handshaking upPort) 0 rfl rfl).2.1
  rw [h]
  have l := nodeId_lt
  have e : slice (leBytes 8 nodeId ++ zeros 40) 0 8 = leBytes 8 nodeId := by
    unfold slice
    rw [List.drop_zero, List.take_append_of_le_length (by rw [length_leBytes])]
    exact List.take_of_length_le (by rw [length_leBytes])
  unfold field
  rw [e, leNat_leBytes 8 nodeId (by omega)]
/-- A linked node with other fabric state. -/
def woven (p : Port) (f : Fabric) : State := { run with fabric := { f with ports := List.replicate 3 p } }
/-- A linked node of address 5 under a manager. -/
def ruled (manager : Nat) (l : List Tunnel) : State :=
  woven upPort { Fabric.reset with addr := 5, addrState := 2, manager := manager, tunnels := l }
/-- The running part with one descriptor in the pool. -/
def pooled (d : Descriptor) (st : DescState) : State :=
  { run with mem := { MemSys.reset with pool := [⟨3, d, st, .none_, 0⟩] } }

theorem inv_reset : State.reset.Inv := ⟨by decide, ⟨by decide, by decide, by decide, by decide⟩, ⟨by decide, by decide, by decide, by decide⟩, ⟨by decide, by decide⟩, by decide, by decide, by decide, by decide, by decide, by decide⟩

/-! ### WellFormed: one ill-formed term for each check, and its neighbours inside the range -/

def short0 : StartEnv := { env0 with keysDown := [] }
def short1 : StartEnv := { env0 with counterLevels := [] }
def desc0 : Descriptor := ⟨0, 64, 4, 0, 0, true, 0⟩
def big : Nat := 4294967296
def submit (ch prio index : Nat) (d : List Descriptor) (root : Nat) (t : List (Nat × Word)) : Instr :=
  .dmaSubmit at0 ch prio index d root t

theorem test_refuses_short_environments : [Instr.resetRelease at0 short0, .resetRelease at0 short1,
    .entropyStartRetry at0 lively short0, .legalStartFail at0 short0, .appStartFail at0 short0,
    .lockstepMismatch at0 short0, .lcWatchdogExpiry at0 short0, .acWatchdogExpiry at0 short0,
    .lcIntegrityFault at0 short0, .acIntegrityFault at0 0 short0, .legalActivationSwitch at0 short0,
    .systemReset at0 hc [] short0, .activate at0 hc [] short0, .nonlegalActivationTimeout at0 short0,
    .legalActivationTimeout at0 short0, .trialWatchdogExpiry at0 0 short0].any Instr.wf = false := by decide

theorem test_refuses_cuts : [Instr.brownOut at0 .io (.bankCopy 4), .resetPinLow at0 1000 (.bankCopy 4),
    .mainPowerLoss at0 (.bankCopy 4), .spiFrameCut at0 (.regWrite 16777216 []),
    .spiFrameCut at0 (.memWrite 16777216 []), .spiFrameCut at0 (.memWrite 0 (List.replicate 257 0)),
    .spiFrameCut at0 (.read true 0 257)].any Instr.wf = false := by decide +kernel

theorem test_refuses_channels_and_counters : [Instr.counterInputEdge at0 16 true 0,
    .quadTransition at0 16 true true 0 0, .quadTransition at0 1 true true 0 0, .faOutput at0 16 [] false,
    .lineHoldTimeout at0 16, .lineLockTimeout at0 16, .diagBitSet at0 16 0 calm, .diagBitSet at0 0 7 calm,
    .diagBitClear at0 16 0 calm, .diagBitClear at0 0 7 calm, .diagSummary at0 16, .captureRecord at0 16].any Instr.wf = false := by decide

theorem test_refuses_points_and_keys : [Instr.analysisCycle at0 4, .weighPosition at0 4, .weighTimeout at0 4,
    .provUpdate at0 4, .provStabilityPoll at0 4, .harmonicSecond at0 4, .keyPress at0 4 false, .keyStuck at0 4,
    .keyRelease at0 4, .cryptoJobComplete at0 4, .trialConfirm at0 4, .trialWatchdogExpiry at0 4 env0].any
    Instr.wf = false := by decide

theorem test_refuses_ports : [Instr.quietEnd at0 3, .helloTimer at0 3, .helloReceive at0 3 [],
    .linkSilenceTimeout at0 3, .sessionRenewal at0 3, .sessionDeadline at0 3, .lsaReceive at0 3 [],
    .timeReqTimer at0 3, .timeReqReceive at0 3 [], .timeRespSend at0 3, .timeRespReceive at0 3 [],
    .tunnelCmdReceive at0 3 [], .tunnelRespReceive at0 3 [], .tunnelBulkReceive at0 3 [],
    .readingReceive at0 3 [], .readingAckReceive at0 3 [], .routedFrameForward at0 3 [], .frameReject at0 3 [],
    .portTransmit at0 3, .rilfyFrameReceive at0 .host []].any Instr.wf = false := by decide

theorem test_refuses_spi : [Instr.memRead at0 16777216 1 [], .memRead at0 0 256 [],
    .memWrite at0 16777216 [0] [], .memWrite at0 0 [] [], .memWrite at0 0 (List.replicate 257 0) [],
    .spiReservedFrame at0 256, .spiReservedFrame at0 1, .spiReservedFrame at0 4, .registerWrite at0 16777216 [0],
    .registerWrite at0 0 [], .nodeTimeLatch at0 16777216 1, .nodeTimeLatch at0 0 256, .eventLostRead at0 256,
    .bulkDroppedRead at0 256, .ringHeadWrite at0 0 0, .ringHeadWrite at0 4 0,
    .ringEnable at0 4 0, .ringDisable at0 4 0, .ringStatusWrite at0 4 0, .coalesceTimerExpiry at0 0,
    .coalesceTimerExpiry at0 4].any Instr.wf = false := by decide +kernel

theorem test_refuses_memory_and_display : [Instr.acIntegrityFault at0 big env0, .mramScrub at0 (.legalParam 65536),
    .mramScrub at0 (.classNParam 65536), .mramScrub at0 (.bankCopy 4 0), .mramScrub at0 (.bankCopy 0 2),
    .mramScrub at0 (.calCopy 2), .mramScrub at0 (.bootRecord 4), .sramScrubLine at0 147456 .good,
    .flashEraseComplete at0 4096 true, .guardWindowRevoke at0 8, .readbackMismatch at0 513 0, .epdPhaseEnd at0 [],
    .touchScan at0 (List.replicate 7 0), .touchScan at0 (List.replicate 8 65536), .vbatMeasure at0 65536].any
    Instr.wf = false := by decide

theorem test_refuses_dma : [submit 32 0 0 [desc0] 0 [], submit 0 4 0 [desc0] 0 [], submit 0 0 16384 [desc0] 0 [],
    submit 0 0 0 [] 0 [], submit 0 0 0 [{ desc0 with src := big }] 0 [], submit 0 0 0 [{ desc0 with dst := big }] 0 [],
    submit 0 0 0 [{ desc0 with len := big }] 0 [], submit 0 0 0 [{ desc0 with ctrl := big }] 0 [],
    submit 0 0 0 [{ desc0 with next := big }] 0 [], submit 0 0 0 [desc0] 4095 [], submit 0 0 0 [desc0] big [],
    submit 0 0 0 [desc0] 0 [(2, 0)], submit 0 0 0 [desc0] 0 [(big, 0)], .iommuInvalidate at0 none [(2, 0)],
    .dmaPageWalk at0 32 [], .dmaPreempt at0 32 0, .dmaResume at0 32, .dmaAbort at0 32, .dmaChannelDisable at0 32 0,
    .dmaTransferEnd at0 32 []].any Instr.wf = false := by decide

/-- A command's payload is at most 65,536 bytes, whatever the command. -/
theorem test_refuses_long_payloads (p : Bytes) (h : 65536 < p.length) : [Instr.getInfo at0 hc p, .setParam at0 hc p,
    .systemReset at0 hc p env0, .syncNow at0 hc p 0, .stageData at0 hc p, .activate at0 hc p env0, .ctxUpdate at0 hc p,
    .mbusRead at0 hc p].any Instr.wf = false := by
  simp [Instr.wf, Nat.not_le.mpr h]

/-- The last value of each range is accepted. -/
theorem test_accepts_the_bounds : [Instr.resetRelease at0 env0, .mainPowerLoss at0 (.bankCopy 3),
    .quadTransition at0 14 true true 0 0, .faOutput at0 15 [] false, .diagBitSet at0 15 6 calm, .analysisCycle at0 3, .keyPress at0 3 false,
    .quietEnd at0 2, .rilfyFrameReceive at0 .optical [], .memRead at0 16777215 0 [], .spiReservedFrame at0 5,
    .spiReservedFrame at0 0, .registerWrite at0 16777215 [0], .ringHeadWrite at0 3 0, .ringEnable at0 0 0,
    .mramScrub at0 (.bankCopy 3 1), .sramScrubLine at0 147455 .good, .touchScan at0 (List.replicate 8 65535),
    submit 31 3 16383 [desc0] 0xFFFFF000 [(4294967292, 0)], .getInfo at0 hc []].all Instr.wf = true := by decide

theorem test_decode_table_gives_no_bits (n w : Nat) : decodeTableWord n w = none := rfl
theorem test_fetch_word_keeps_the_state (s : State) (n w : Nat) : s.withFetchWord n w = s := by
  simp [State.withFetchWord, decodeTableWord]

/-! ### The spec's worked examples, one value or one command each -/

/-- Table 2.10: the CRC-8 of the nine ASCII bytes "123456789". -/
theorem test_crc8_check : crc8 (ascii "123456789") = 0xF4 := by decide +kernel

/-- Chapter 3: day 11,123 is 2030-06-15; chapter 9: 2030-03-31 is day 11,047, a Sunday. -/
theorem test_date : dateOfDay 11123 = (2030, 6, 15) ∧ dateOfDay 11047 = (2030, 3, 31) ∧ weekday 11047 = 7 := by
  decide

/-- CHAIN_CFG of the waste platform (chapter 5). -/
def wasteChain : ChainCfg := ChainCfg.ofBytes [4, 0x0C, 0x0A, 0, 0, 0, 0, 0x80, 0x80, 0, 0, 0, 0, 0, 0, 0]

/-- Chapter 5: the group delay (twice 792,574 cycles), the settling and the first settled output of F10. -/
theorem test_chain_delay : wasteChain.fieldsOk = true ∧ wasteChain.delay2 = 2 * 792574 ∧
    wasteChain.settleIndex = 448 ∧ wasteChain.firstSettled = 7 ∧ wasteChain.settleCycles 6144000 = 1835008 := by
  decide +kernel

/-- A pair of counters after filtered samples. -/
def turned (l : List (Bool × Bool)) : Counter :=
  l.foldl (fun c p => c.quad p.1 p.2) { Counter.reset with ref := some (false, false) }

/-- Table 4.9, step 3: jitter counts nothing. -/
theorem test_quad_jitter : let c := turned [(true, false), (true, true), (false, true), (false, false),
    (false, true)]; c.fwd = 1 ∧ c.rev = 0 ∧ c.pos = 3 ∧ c.last = 4 := by decide

/-- Table 4.9, steps 5 and 6: a full cycle back, then both lines at once. -/
theorem test_quad_error : let c := turned [(true, false), (true, true), (false, true), (false, false),
    (false, true), (false, false), (false, true), (true, true), (true, false), (false, false), (true, true)]
    c.fwd = 1 ∧ c.rev = 1 ∧ c.pos = 0 ∧ c.quadError = 1 := by decide

/-- Chapter 19: a counter across its wrap. -/
theorem test_counter_wrap : (0x00000004#32 - 0xFFFFFFA0#32).toNat = 100 := by decide

/-- WG_CFG of chapter 6. -/
def oneRange : WgCfg := WgCfg.ofBytes ([0x60, 0xE3, 0x16, 0, 0xF4, 1] ++ zeros 10 ++ [0x0A, 0x0A, 5, 0x64, 0xE8, 3, 0, 0])
/-- WG_CFG of the two-range instrument of chapter 6. -/
def twoRanges : WgCfg :=
  WgCfg.ofBytes (leBytes 4 600000 ++ leBytes 4 200 ++ leBytes 4 1500000 ++ leBytes 4 500 ++ zeros 8)

/-- Chapter 6: the indicated gross and net of the transaction, in g. -/
theorem test_indicated : oneRange.indicated 412298200 = 412500 ∧ oneRange.indicated 373798200 = 374000 := by
  decide

/-- Table 6.10: rounding across the range boundary. -/
theorem test_indicated_ranges : twoRanges.indicated 599899000 = 599800 ∧ twoRanges.indicated 600050000 = 600000 ∧
    twoRanges.indicated 600260000 = 600500 ∧ twoRanges.indicated 3950000 = 4000 := by decide

/-- The calibration block of chapter 8, before its CRC. -/
def wasteBlock : Bytes :=
  zeros 8 ++ (List.replicate 4 (leBytes 4 0x40000000)).flatten ++ leBytes 8 219902324 ++ leBytes 8 3906250000

/-- Chapter 6: the mass of the full bin and of the first stable window. -/
theorem test_mass : massOf wasteBlock 673230968 = 412300000 ∧ massOf wasteBlock (219902324 + 1979) = 1800 := by
  decide

/-- Table 8.11: K from a zero point and a span of one window position each. -/
theorem test_span : (CalSeq.wasteTerms ⟨0, [], 0, some (219902324 * 65536), [none, none, none, none],
    some (1000000000, (1319413951 - 219902324) * 65536), [none, none, none], [none, none]⟩ 1).map (fun t => slice t 0 24) =
      some (wasteBlock.drop 8 |>.take 24) := by decide +kernel

/-- Chapter 9: the register of key 0x018A shows 234567.89 kWh. -/
theorem test_register_digits : registerCells 1 1 1234567890123 =
    pointAt ([2, 3, 4, 5, 6, 7, 8, 9].map hexDigit) 2 := by decide

/-- Twelve switch points of a day profile. -/
def dayOf (l : List Bytes) : Bytes := l.flatten ++ (List.replicate (12 - l.length) [0xFF, 0xFF, 0, 0]).flatten

/-- The calendar of Table 9.12: three seasons, two week profiles, four day profiles, two special days. -/
def calendar912 : Bytes :=
  [1, 3, 2] ++ zeros 13 ++ [0x3C, 3, 5, 7, 0x3C, 0, 0x0A, 5, 7, 0, 0x3C, 0] ++ zeros 4 ++
    [1, 1, 0, 0, 4, 1, 1, 0, 10, 1, 0, 0] ++ zeros 20 ++ [0, 0, 0, 0, 0, 1, 1, 0, 2, 2, 2, 2, 2, 1, 1, 0] ++
    zeros 48 ++ dayOf [[0, 0, 1, 0]] ++ dayOf [[0, 0, 1, 0]] ++
    dayOf [[0, 0, 1, 0], [0xE0, 1, 2, 0], [0xB0, 4, 1, 0]] ++ dayOf [[0, 0, 4, 0]] ++
    (List.replicate 12 (dayOf [])).flatten ++ [0, 0, 12, 25, 3, 0, 0, 0, 0xEE, 7, 4, 1, 3, 0, 0, 0] ++ zeros 1008

theorem test_calendar_accepted : calendarOk calendar912 = true := by decide +kernel

/-- Table 9.12: the tariff from each of its six instants, and of the minute before step 3 (R238). -/
theorem test_calendar_tariffs :
    [954457200, 954464400, 954540000, 954626400, 954655200, 954698400, 954539940].map
      (fun t => calendarTariff calendar912 60 (t / 60)) = [1, 1, 4, 1, 2, 1, 1] := by decide +kernel

/-- Chapter 10: the signed body of transaction 5,318, without the node's NODE_ID (bytes 8 to 15). -/
theorem test_reading_body :
    let b := State.readingBody { State.reset with
        legal := { Legal.reset with calcnt := 18, cfgcnt := 57, rseqWords := .fresh 1046211, sealOpen := false }
        boot := { Boot.reset with lcv := 0x5E3A91C4 }
        fabric := { Fabric.reset with role := 1, addrState := 2, addr := 0x0A3C } }
      ⟨2, 0, 6, 1, 2, 0, 2, 954663306500000000, 374000, 0, 4, 0, 0,
        leBytes 4 5318 ++ leBytes 4 1 ++ leBytes 8 0x41A27 ++ leBytes 8 412500 ++ leBytes 8 38500 ++ zeros 8 ++
          leBytes 8 500⟩
    b.take 8 = [1, 2, 0, 6, 1, 2, 0, 2] ∧
      (b.drop 16).take 34 = [0x3C, 0x0A, 0x12, 0, 0x39, 0, 0, 0, 0xC4, 0x91, 0x3A, 0x5E, 0xC3, 0xF6, 0x0F, 0,
        0, 0x49, 8, 0x20, 0x38, 0xA5, 0x3F, 0x0D, 0xF0, 0xB4, 5, 0, 0, 0, 0, 0, 0, 0] ∧
      b.drop 50 = [0, 0, 4] ++ zeros 11 ++ [0xC6, 0x14, 0, 0, 1, 0, 0, 0, 0x27, 0x1A, 4, 0, 0, 0, 0, 0,
        0x54, 0x4B, 6, 0, 0, 0, 0, 0, 0x64, 0x96] ++ zeros 14 ++ [0xF4, 1] ++ zeros 22 := by decide +kernel

/-- Chapter 11: the response entry of step 6. -/
theorem test_response_entry :
    (entryBytes 0x0301 0x5A11 8 0 0 4 0 [0xC6, 0x14, 0, 0]).take 20 =
      [1, 3, 0x11, 0x5A, 8, 0, 0, 0, 4, 0, 0, 0, 0, 0, 0, 0, 0xC6, 0x14, 0, 0] := by decide

/-- Chapter 14: the header of the TIME_RESP. -/
theorem test_scrim_header : frameHeader 0x0A3C 0x0102 4 1 0x7F3A 24 false 3 =
    [0x3C, 0x0A, 2, 1, 4, 1, 0x3A, 0x7F, 0x18, 0, 0, 3, 0, 0, 0, 0] := by decide

/-- Table 15.9: the four phases of band 4 (T = 384 U) in ticks. -/
theorem test_epd_phases : [1, 2, 3, 4].map (fun k => EpdUpdate.ticks ⟨4, [], [], k, 0⟩) = [2048, 4096, 4096, 2048] := by
  decide

/-- Chapter 15: the compensating pulses of 921,600 and of 16,282,000 units at 1,875 mV. -/
theorem test_epd_pulse :
    let s := { State.reset with display := { Display.reset with vcMinus := -1875 } }
    s.pulseTicks 921600 = 492 ∧ s.pulseTicks 16282000 = 8684 ∧ s.pulseTicks (-900) = 0 := by decide

/-- Chapter 15: SEG5 goes OFF to ON; the phases take the rails V-, V+, V-, V+. -/
theorem test_epd_levels :
    [1, 2, 3, 4].map (fun k => EpdUpdate.level ⟨4, [1], [], k, 0⟩ 0 k (15100, -14950, 0, 0) 0) =
      [-14950, 15100, -14950, 15100] := by decide

/-- Chapter 16: the poll and the volumes of its two replies. -/
theorem test_mbus : shortFrame 0x5B 5 = [0x10, 0x5B, 5, 0x60, 0x16] ∧
    volumeRecord 6 [4, 0x13, 0x40, 0xE2, 1, 0] = some 123456000 ∧
    volumeRecord 6 [4, 0x13, 0x2D, 0xE3, 1, 0] = some 123693000 := by decide

/-- Table 16.5: the sign-on names no address. -/
theorem test_optical : signOnAddress [0x2F, 0x3F, 0x21, 0x0D, 0x0A] = some [] := by decide

/-- Table 17.5: the encoder's choice for the eight samples with D = 2. -/
theorem test_skim_block : skimBlock 2 0 [1000, 1003, 1009, 1012, 1010, 1004, 1001, 999] =
    [0x48, 0, 7, 0, 0, 0, 6, 0, 0, 0, 3, 0xE8, 0xD8, 0xA0] := by decide +kernel

/-- Chapter 2: the time of retained entry 1 of Table 2.13. -/
theorem test_retained_time : RetainedEntry.time { kept with rtcSec := 0x2F167A5A, sub := 4 } = 790002266500000000 := by
  decide


/-! ### A witness for each clause of each statement -/

theorem witness_step_runs_the_front_command_1 : ∃ (s : State) (c : Instr) (rest : List Instr),
    s.pending = c :: rest :=
    ⟨{ run with pending := [.commitSecond at0] }, .commitSecond at0, [], by decide⟩

theorem witness_step_runs_the_front_command_2 : ∃ (s : State), s.pending = [] :=
    ⟨run, by decide⟩

theorem witness_manufacture_state_1 : ∃ i, i ∈ [State.reset.legal.calcnt, State.reset.legal.cfgcnt,
    State.reset.legal.tamperSeal, State.reset.legal.tamperCover, State.reset.legal.tamperTerm,
    State.reset.legal.sealsess, State.reset.legal.slarch, State.reset.legal.sepFaults, State.reset.legal.ownerCtr] :=
    ⟨0, by decide⟩

theorem witness_manufacture_state_2 : ∃ m, ∃ k, m < 4 ∧ k ∈ [(State.reset.point m).copyA,
    (State.reset.point m).copyB] :=
    ⟨0, (State.reset.point 0).copyA, by decide +kernel⟩

theorem witness_manufacture_state_3 : ∃ k, ∃ b, k ∈ [State.reset.legal.calA, State.reset.legal.calB] ∧ b ∈ k.blocks :=
    ⟨State.reset.legal.calA, State.reset.legal.calA.blocks.getD 0 [], by decide +kernel⟩

theorem witness_every_step_keeps_the_invariant_1 : ∃ (s t : State), s.Inv ∧ step s = .next t :=
    ⟨State.reset, _, inv_reset, rfl⟩

theorem witness_passing_time_moves_only_the_clocks_1 : ∃ (s : State) (dt : Ticks), s.sync.outHigh = true ∧
    s.modDom.source ≠ .stopped ∧ s.modDom.halfRate = false ∧ s.modDom.epochBase + 2 ≤ s.modDom.cycle + dt.mod :=
    ⟨{ run with sync := { Sync.reset with outHigh := true } }, ⟨0, 2, 0⟩, by decide⟩

theorem witness_passing_time_moves_only_the_clocks_2 : ∃ (s : State) (dt : Ticks), s.sync.outHigh = true ∧
    s.modDom.source ≠ .stopped ∧ s.modDom.halfRate = false ∧ s.modDom.cycle + dt.mod < s.modDom.epochBase + 2 :=
    ⟨{ run with sync := { Sync.reset with outHigh := true } }, ⟨0, 1, 0⟩, by decide⟩

theorem witness_passing_time_moves_only_the_clocks_3 : ∃ (s : State), s.sync.outHigh = false :=
    ⟨run, by decide⟩

theorem witness_passing_time_moves_only_the_clocks_4 : ∃ (s : State), s.ntu.sysSource = .pll ∧ s.ntu.rateAdj = 0 ∧
    s.ntu.slew = 0 :=
    ⟨run, by decide⟩

theorem witness_passing_time_moves_only_the_clocks_5 : ∃ (s : State), s.ntu.sysSource = .stopped ∧ 0 ≤ s.ntu.slew ∧
    s.ntu.slew < slewLimit ∧ s.ntu.acc < 2 ^ 96 :=
    ⟨State.reset, by decide⟩

theorem witness_passing_time_moves_only_the_clocks_6 : ∃ (s : State), s.aon.powered = true ∧ s.aon.trim = 0 ∧
    s.aon.trimAcc = 0 ∧ s.aon.rtcFrac < 32768 ∧ s.aon.rtcSec < 2 ^ 32 :=
    ⟨run, by decide⟩

theorem witness_passing_time_moves_only_the_clocks_7 : ∃ (s : State), s.aon.powered = false :=
    ⟨{ run with aon := { AlwaysOn.reset with powered := false } }, by decide⟩

theorem witness_net_slew_stays_within_sixty_seconds_1 : ∃ (s : State), -slewLimit ≤ s.ntu.slew ∧
    s.ntu.slew ≤ slewLimit :=
    ⟨{ run with ntu := { Ntu.reset with slew := -slewLimit } }, by decide⟩

theorem witness_net_slew_stays_within_sixty_seconds_2 : ∃ (s : State), s.ntu.slew = slewLimit ∧ 0 ≤ s.ntu.rateAdj :=
    ⟨{ run with ntu := { Ntu.reset with slew := slewLimit } }, by decide⟩

theorem witness_net_slew_stays_within_sixty_seconds_3 : ∃ (s : State) (dt : Ticks) (d : Int),
    d = ((dt.sys * s.ntu.inc : Nat) : Int) * s.ntu.rateAdj / 1000000000 ∧ -slewLimit < s.ntu.slew + d ∧
    s.ntu.slew + d < slewLimit :=
    ⟨run, ⟨25000000, 1, 1⟩, _, rfl, by decide⟩

theorem witness_memory_and_entries_read_back_1 : ∃ (m : Memory), m.wf = true :=
    ⟨[(5, 7)], by decide⟩

theorem witness_memory_and_entries_read_back_2 : ∃ (a x : Nat) (bs : Bytes), (x < a ∨ a + bs.length ≤ x) :=
    ⟨4, 6, [1, 2], by decide⟩

theorem witness_memory_and_entries_read_back_3 : ∃ (op tag flags origin status len : Nat) (p : Bytes), op < 65536 ∧
    tag < 65536 ∧ flags < 256 ∧ origin < 256 ∧ status < 256 ∧ len < 4294967296 ∧ p.length ≤ 48 ∧ len = p.length :=
    ⟨65535, 65535, 255, 255, 255, 48, zeros 48, by decide⟩

theorem witness_host_rows_follow_their_command_1 : ∃ (i : Instr) (s : State) (r : HostRow), hostRow i = some r ∧
    (s.elapse r.dt).taken r.call r.opcode r.payload = none :=
    ⟨.getInfo at0 hc [], run, _, rfl, by decide⟩

theorem witness_host_rows_follow_their_command_2 : ∃ (i : Instr) (s : State) (r : HostRow) (f : InFlight) (n : Nat),
    hostRow i = some r ∧ (s.elapse r.dt).taken r.call r.opcode r.payload = some f ∧
    requestLength r.opcode = some n ∧ (r.opcode ∈ [0x0601, 0x0602, 0x0603] → (s.elapse r.dt).stagingOpen = true) ∧
    r.payload.length ≠ n :=
    ⟨.getInfo at0 hc [1], srv run 0x0101 [1], _, _, _, rfl, rfl, rfl, by decide⟩

theorem witness_host_rows_follow_their_command_3 : ∃ (i : Instr) (s : State) (r : HostRow) (f : InFlight) (n : Nat),
    hostRow i = some r ∧ (s.elapse r.dt).taken r.call r.opcode r.payload = some f ∧ resultSize r.opcode = some n ∧
    f.room < n :=
    ⟨.getInfo at0 hc [], { run with hawk := { run.hawk with inFlight := [small] } }, _, _, _, rfl, rfl, rfl,
    by decide⟩

theorem witness_final_responses_reach_the_host_1 : ∃ (s : State) (f : InFlight) (result : Bytes), ∃ a,
    Memory.wf s.mem.cells = true ∧ s.hawk.rings.length = 4 ∧ f.call.origin = .host ∧ f.bulk = false ∧
    f.orphan = false ∧ result.length ≤ 48 ∧ s.hawk.resetting = false ∧ (s.ring 1).works = true ∧
    (s.ring 1).full = false ∧ (s.ring 1).base % 64 = 0 ∧
    (a < (s.ring 1).addr (s.ring 1).tail ∨ (s.ring 1).addr (s.ring 1).tail + 64 ≤ a) :=
    ⟨mailbox run, { fl 0x0101 [] with bulk := false }, zeros 48, hawkBase + 0x107F, by decide⟩

theorem witness_final_responses_reach_the_host_2 : ∃ (s : State) (f : InFlight), f.call.origin = .host ∧
    f.bulk = false ∧ f.orphan = false ∧ s.hawk.resetting = false ∧
    ((s.ring 1).works = false ∨ (s.ring 1).full = true) :=
    ⟨{ run with hawk := { run.hawk with rings := [Ring.absent, Ring.absent, Ring.absent, Ring.absent] } },
    { fl 0x0101 [] with bulk := false }, by decide⟩

theorem witness_gate_takes_eight_requests_1 : ∃ (s : State) (p : Bytes), p.length ≤ 4080 ∧ s.boot.lcHalt = false ∧
    s.gate.requests.length < 8 :=
    ⟨run, zeros 4080, by decide +kernel⟩

theorem witness_gate_takes_eight_requests_2 : ∃ (s : State) (p : Bytes), p.length ≤ 4080 ∧ s.boot.lcHalt = false ∧
    8 ≤ s.gate.requests.length :=
    ⟨{ run with gate := { Gate.reset with requests := List.replicate 8 (asked 1 []) } }, zeros 4080,
    by decide +kernel⟩

theorem witness_gate_takes_eight_requests_3 : ∃ (s : State) (p : Bytes), p.length ≤ 4080 ∧ s.boot.lcHalt = true :=
    ⟨boot { run.boot with lcHalt := true }, [], by decide⟩

theorem witness_gate_takes_eight_requests_4 : ∃ (p : Bytes), 4080 < p.length :=
    ⟨zeros 4081, by decide +kernel⟩

theorem witness_gate_takes_eight_requests_5 : ∃ (n : Nat), n + 1 < 4294967296 :=
    ⟨4294967294, by decide⟩

theorem witness_logs_keep_their_bounds_1 : ∃ (s : State), s.ready = false :=
    ⟨State.reset, by decide⟩

theorem witness_logs_keep_their_bounds_2 : ∃ (s : State) (cls code : Nat),
    (s.legal.sealLog.length < 248 ∨ (s.legal.sealLog.length < 256 ∧ (cls = 3 ∨ (cls = 0x10 ∧ code = 1)))) :=
    ⟨{ run with legal := { Legal.reset with sealLog := List.replicate 255 entry } }, 3, 1, by decide +kernel⟩

theorem witness_logs_keep_their_bounds_3 : ∃ (s : State) (cls code : Nat),
    (s.legal.sealLog.length = 256 ∨ (248 ≤ s.legal.sealLog.length ∧ cls ≠ 3 ∧ ¬(cls = 0x10 ∧ code = 1))) :=
    ⟨{ run with legal := { Legal.reset with sealLog := List.replicate 248 entry } }, 2, 1, by decide +kernel⟩

theorem witness_host_commands_become_gate_requests_1 : ∃ (s u : State) (dt : Ticks) (c : Call) (p : Bytes) (f : InFlight),
    Serves s dt u c 0x0102 p (extSizes.getD (field p 0 1) 0) f ∧ u.gateOpen = true ∧ p.length = 2 :=
    ⟨srv run 0x0102 (zeros 2), _, at0, hc, zeros 2, fl 0x0102 (zeros 2), ⟨rfl, by decide, by decide⟩, by decide⟩

theorem witness_host_commands_become_gate_requests_2 : ∃ (s u : State) (dt : Ticks) (c : Call) (p : Bytes) (f : InFlight),
    Serves s dt u c 0x0201 p 32 f ∧ u.gateOpen = true ∧ p.length = 1 :=
    ⟨srv run 0x0201 (zeros 1), _, at0, hc, zeros 1, fl 0x0201 (zeros 1), ⟨rfl, by decide, by decide⟩, by decide⟩

theorem witness_host_commands_become_gate_requests_3 : ∃ (s u : State) (dt : Ticks) (c : Call) (p : Bytes) (f : InFlight),
    Serves s dt u c 0x0205 p 2 f ∧ u.gateOpen = true ∧ p.length = 20 ∧ rsv p 3 1 = true :=
    ⟨srv run 0x0205 (zeros 20), _, at0, hc, zeros 20, fl 0x0205 (zeros 20), ⟨rfl, by decide, by decide⟩,
    by decide⟩

theorem witness_host_commands_become_gate_requests_4 : ∃ (s u : State) (dt : Ticks) (c : Call) (p : Bytes) (f : InFlight),
    Serves s dt u c 0x0302 p 16 f ∧ u.gateOpen = true ∧ p.length = 2 :=
    ⟨srv run 0x0302 (zeros 2), _, at0, hc, zeros 2, fl 0x0302 (zeros 2), ⟨rfl, by decide, by decide⟩, by decide⟩

theorem witness_host_commands_become_gate_requests_5 : ∃ (s u : State) (dt : Ticks) (c : Call) (p : Bytes) (f : InFlight),
    Serves s dt u c 0x0303 p 4 f ∧ u.gateOpen = true ∧ p.length = 1 :=
    ⟨srv run 0x0303 (zeros 1), _, at0, hc, zeros 1, fl 0x0303 (zeros 1), ⟨rfl, by decide, by decide⟩, by decide⟩

theorem witness_host_commands_become_gate_requests_6 : ∃ (s u : State) (dt : Ticks) (c : Call) (p : Bytes) (f : InFlight),
    Serves s dt u c 0x0401 p (16 + 8 * field p 2 2) f ∧ u.gateOpen = true ∧ p.length = 4 :=
    ⟨srv run 0x0401 [0, 0, 253, 1], _, at0, hc, [0, 0, 253, 1], fl 0x0401 [0, 0, 253, 1], ⟨rfl, by decide,
    by decide⟩, by decide⟩

theorem witness_host_commands_become_gate_requests_7 : ∃ (s u : State) (dt : Ticks) (c : Call) (p : Bytes) (f : InFlight),
    Serves s dt u c 0x0402 p 192 f ∧ u.gateOpen = true ∧ p.length = 8 ∧ rsv p 1 1 = true :=
    ⟨srv run 0x0402 (zeros 8), _, at0, hc, zeros 8, fl 0x0402 (zeros 8), ⟨rfl, by decide, by decide⟩, by decide⟩

theorem witness_host_commands_become_gate_requests_8 : ∃ (s u : State) (dt : Ticks) (c : Call) (p : Bytes) (f : InFlight),
    Serves s dt u c 0x0403 p (16 + 48 * field p 2 2) f ∧ u.gateOpen = true ∧ p.length = 12 ∧ rsv p 1 1 = true ∧
    rsv p 10 2 = true :=
    ⟨srv run 0x0403 (zeros 12), _, at0, hc, zeros 12, fl 0x0403 (zeros 12), ⟨rfl, by decide, by decide⟩,
    by decide⟩

theorem witness_host_commands_become_gate_requests_9 : ∃ (s u : State) (dt : Ticks) (c : Call) (p : Bytes) (f : InFlight),
    Serves s dt u c 0x0404 p 192 f ∧ u.gateOpen = true ∧ p.length = 32 :=
    ⟨srv run 0x0404 (zeros 32), _, at0, hc, zeros 32, fl 0x0404 (zeros 32), ⟨rfl, by decide, by decide⟩,
    by decide⟩

theorem witness_host_commands_become_gate_requests_10 : ∃ (s u : State) (dt : Ticks) (c : Call) (p : Bytes) (f : InFlight),
    Serves s dt u c 0x0408 p 192 f ∧ u.gateOpen = true ∧ p.length = 36 ∧ rsv p 1 3 = true :=
    ⟨srv run 0x0408 (zeros 36), _, at0, hc, zeros 36, fl 0x0408 (zeros 36), ⟨rfl, by decide, by decide⟩,
    by decide⟩

theorem witness_host_commands_become_gate_requests_11 : ∃ (s u : State) (dt : Ticks) (c : Call) (p : Bytes) (f : InFlight),
    Serves s dt u c 0x0502 p 16 f ∧ u.gateOpen = true ∧ p.length = 80 ∧ rsv p 1 1 = true :=
    ⟨srv run 0x0502 (zeros 80), _, at0, hc, zeros 80, fl 0x0502 (zeros 80), ⟨rfl, by decide, by decide⟩,
    by decide⟩

theorem witness_host_commands_become_gate_requests_12 : ∃ (s u : State) (dt : Ticks) (c : Call) (p : Bytes) (f : InFlight),
    Serves s dt u c 0x0504 p 0 f ∧ u.gateOpen = true ∧ p.length = 1988 :=
    ⟨srv run 0x0504 (zeros 1988), _, at0, hc, zeros 1988, fl 0x0504 (zeros 1988), ⟨rfl, by decide +kernel,
    by decide +kernel⟩, by decide +kernel⟩

theorem witness_host_commands_become_gate_requests_13 : ∃ (s u : State) (dt : Ticks) (c : Call) (p : Bytes) (f : InFlight),
    Serves s dt u c 0x0507 p 0 f ∧ u.gateOpen = true ∧ p.length = 72 ∧ rsv p 1 3 = true :=
    ⟨srv run 0x0507 (zeros 72), _, at0, hc, zeros 72, fl 0x0507 (zeros 72), ⟨rfl, by decide, by decide⟩,
    by decide⟩

theorem witness_host_commands_become_gate_requests_14 : ∃ (s u : State) (dt : Ticks) (c : Call) (p : Bytes) (f : InFlight),
    Serves s dt u c 0x0901 p 416 f ∧ u.gateOpen = true ∧ p.length = 32 :=
    ⟨srv run 0x0901 (zeros 32), _, at0, hc, zeros 32, fl 0x0901 (zeros 32), ⟨rfl, by decide, by decide⟩,
    by decide⟩

theorem witness_host_commands_become_gate_requests_15 : ∃ (s u : State) (dt : Ticks) (c : Call) (p : Bytes) (f : InFlight),
    Serves s dt u c 0x0301 p 4 f ∧ u.gateOpen = true ∧ p.length = 16 ∧ rsv p 2 2 = true :=
    ⟨srv run 0x0301 (zeros 16), _, at0, hc, zeros 16, fl 0x0301 (zeros 16), ⟨rfl, by decide, by decide⟩,
    by decide⟩

theorem witness_host_commands_become_gate_requests_16 : ∃ (s u : State) (dt : Ticks) (c : Call) (p : Bytes) (f : InFlight) (i : ParamInfo),
    Serves s dt u c 0x0104 p 0 f ∧ u.gateOpen = true ∧ 4 ≤ p.length ∧ p.length ≤ 4080 ∧
    paramInfo (field p 0 2) = some i ∧ i.route = 0 ∧ legalSide (field p 0 2) = true :=
    ⟨srv run 0x0104 ([0, 0x10, 0, 0]), _, at0, hc, [0, 0x10, 0, 0], fl 0x0104 ([0, 0x10, 0, 0]), _, ⟨rfl,
    by decide, by decide⟩, by decide, by decide, by decide, rfl, by decide⟩

theorem witness_system_reads_answer_1 : ∃ (s u : State) (dt : Ticks) (c : Call) (p : Bytes) (f : InFlight),
    Serves s dt u c 0x0101 p 48 f ∧ p = [] :=
    ⟨srv run 0x0101 [], _, at0, hc, [], fl 0x0101 [], ⟨rfl, by decide, by decide⟩, by decide⟩

theorem witness_system_reads_answer_2 : ∃ (s u : State) (dt : Ticks) (c : Call) (p : Bytes) (f : InFlight),
    Serves s dt u c 0x0107 p p.length f ∧ p.length ≤ 48 :=
    ⟨srv run 0x0107 (zeros 48), _, at0, hc, zeros 48, fl 0x0107 (zeros 48), ⟨rfl, by decide, by decide⟩,
    by decide⟩

theorem witness_system_reads_answer_3 : ∃ (s u : State) (dt : Ticks) (c : Call) (id : Nat) (p : Bytes) (f : InFlight) (i : ParamInfo),
    Serves s dt u c 0x0105 p 8 f ∧ p.length = 2 ∧ field p 0 2 = id ∧ paramInfo id = some i :=
    ⟨srv run 0x0105 [0x00, 0x60], _, at0, hc, 0x6000, [0x00, 0x60], fl 0x0105 [0x00, 0x60], _, ⟨rfl, by decide,
    by decide⟩, by decide, by decide, rfl⟩

theorem witness_system_reads_answer_4 : ∃ (s u : State) (dt : Ticks) (c : Call) (id : Nat) (p : Bytes) (f : InFlight) (i : ParamInfo),
    Serves s dt u c 0x0103 p (8 + (u.param id).length) f ∧ p.length = 2 ∧ field p 0 2 = id ∧ id ≠ 0x6008 ∧
    paramInfo id = some i :=
    ⟨srv run 0x0103 [0x00, 0x60], _, at0, hc, 0x6000, [0x00, 0x60], fl 0x0103 [0x00, 0x60], _, ⟨rfl, by decide,
    by decide⟩, by decide, by decide, by decide, rfl⟩

theorem witness_system_reads_answer_5 : ∃ (s u : State) (dt : Ticks) (c : Call) (p : Bytes) (f : InFlight),
    Serves s dt u c 0x0103 p (8 + u.touchState.length) f ∧ p.length = 2 ∧ field p 0 2 = 0x6008 :=
    ⟨srv run 0x0103 [0x08, 0x60], _, at0, hc, [0x08, 0x60], fl 0x0103 [0x08, 0x60], ⟨rfl, by decide, by decide⟩,
    by decide⟩

theorem witness_system_reads_answer_6 : ∃ (s u : State) (dt : Ticks) (c : Call) (p : Bytes) (f : InFlight),
    Serves s dt u c 0x0103 p 8 f ∧ p.length = 2 ∧ paramInfo (field p 0 2) = none ∧
    (u.valueOf (field p 0 2)).length = 0 :=
    ⟨srv run 0x0103 [0xFF, 0xFF], _, at0, hc, [0xFF, 0xFF], fl 0x0103 [0xFF, 0xFF], ⟨rfl, by decide, by decide⟩,
    by decide⟩

theorem witness_set_param_stores_the_value_1 : ∃ (s u : State) (dt : Ticks) (c : Call) (id : Nat) (p : Bytes) (f : InFlight) (i : ParamInfo),
    Serves s dt u c 0x0104 p 0 f ∧ 4 ≤ p.length ∧ field p 0 2 = id ∧ paramInfo id = some i ∧ i.route = 0 ∧
    legalSide id = false ∧ u.setAppStatus id i.size (field p 2 2) (p.drop 4) = stDone ∧ u.param id = p.drop 4 :=
    ⟨srv run 0x0104 [0x00, 0x60, 1, 0, 0], _, at0, hc, 0x6000, [0x00, 0x60, 1, 0, 0], fl 0x0104 [0x00, 0x60, 1,
    0, 0], _, ⟨rfl, by decide, by decide⟩, by decide, by decide, rfl, by decide⟩

theorem witness_set_param_stores_the_value_2 : ∃ (s u : State) (dt : Ticks) (c : Call) (id : Nat) (p : Bytes) (f : InFlight) (i : ParamInfo),
    Serves s dt u c 0x0104 p 0 f ∧ 4 ≤ p.length ∧ field p 0 2 = id ∧ paramInfo id = some i ∧ i.route = 0 ∧
    legalSide id = false ∧ u.setAppStatus id i.size (field p 2 2) (p.drop 4) = stDone ∧ u.param id ≠ p.drop 4 ∧
    u.waits id = true :=
    ⟨srv run 0x0104 [0x10, 0x00, 1, 0, 1], _, at0, hc, 0x0010, [0x10, 0x00, 1, 0, 1], fl 0x0104 [0x10, 0x00, 1,
    0, 1], _, ⟨rfl, by decide, by decide⟩, by decide, by decide, rfl, by decide⟩

theorem witness_set_param_stores_the_value_3 : ∃ (s u : State) (dt : Ticks) (c : Call) (id : Nat) (p : Bytes) (f : InFlight) (i : ParamInfo),
    Serves s dt u c 0x0104 p 0 f ∧ 4 ≤ p.length ∧ field p 0 2 = id ∧ paramInfo id = some i ∧ i.route = 0 ∧
    legalSide id = false ∧ u.setAppStatus id i.size (field p 2 2) (p.drop 4) = stDone ∧ u.param id ≠ p.drop 4 ∧
    u.waits id = false :=
    ⟨srv run 0x0104 [0x00, 0x60, 1, 0, 1], _, at0, hc, 0x6000, [0x00, 0x60, 1, 0, 1], fl 0x0104 [0x00, 0x60, 1,
    0, 1], _, ⟨rfl, by decide, by decide⟩, by decide, by decide, rfl, by decide⟩

theorem witness_set_param_stores_the_value_4 : ∃ (s u : State) (dt : Ticks) (c : Call) (p : Bytes) (f : InFlight),
    Serves s dt u c 0x0104 p 0 f ∧ 4 ≤ p.length ∧ paramInfo (field p 0 2) = none :=
    ⟨srv run 0x0104 [0xFF, 0xFF, 0, 0], _, at0, hc, [0xFF, 0xFF, 0, 0], fl 0x0104 [0xFF, 0xFF, 0, 0], ⟨rfl,
    by decide, by decide⟩, by decide⟩

theorem witness_set_param_stores_the_value_5 : ∃ (s u : State) (dt : Ticks) (c : Call) (p : Bytes) (f : InFlight) (i : ParamInfo),
    Serves s dt u c 0x0104 p 0 f ∧ 4 ≤ p.length ∧ paramInfo (field p 0 2) = some i ∧ i.route ≠ 0 :=
    ⟨srv run 0x0104 [0x08, 0x60, 0, 0], _, at0, hc, [0x08, 0x60, 0, 0], fl 0x0104 [0x08, 0x60, 0, 0], _, ⟨rfl,
    by decide, by decide⟩, by decide, rfl, by decide⟩

theorem witness_set_param_stores_the_value_6 : ∃ (id j : Nat), j ≠ id :=
    ⟨1, 0, by decide⟩

theorem witness_system_reset_starts_again_1 : ∃ (s u : State) (dt : Ticks) (c : Call) (p : Bytes) (f : InFlight),
    Serves s dt u c 0x0106 p 0 f ∧ p.length = 4 ∧ field p 0 4 = 0xA55A :=
    ⟨srv run 0x0106 (leBytes 4 0xA55A), _, at0, hc, leBytes 4 0xA55A, fl 0x0106 (leBytes 4 0xA55A), ⟨rfl,
    by decide, by decide⟩, by decide⟩

theorem witness_sync_commands_follow_table_1 : ∃ (s u : State) (dt : Ticks) (c : Call) (p : Bytes) (f : InFlight),
    Serves s dt u c 0x0202 p 8 f ∧ p = [] ∧ u.syncAllowed 2 = true ∧ u.inHoldoff = false ∧
    u.modDom.source ≠ .stopped ∧ u.legalRuns = true :=
    ⟨srv (par [(0x8020, [7, 0, 0, 0])]) 0x0202 [], _, at0, hc, [], fl 0x0202 [], ⟨rfl, by decide, by decide⟩,
    by decide⟩

theorem witness_sync_commands_follow_table_2 : ∃ (s u : State) (dt : Ticks) (c : Call) (p : Bytes) (f : InFlight),
    Serves s dt u c 0x0202 p 8 f ∧ p = [] ∧ u.syncAllowed 2 = false :=
    ⟨srv (par [(0x8020, [0, 0, 0, 0])]) 0x0202 [], _, at0, hc, [], fl 0x0202 [], ⟨rfl, by decide, by decide⟩,
    by decide⟩

theorem witness_sync_commands_follow_table_3 : ∃ (s u : State) (dt : Ticks) (c : Call) (p : Bytes) (f : InFlight),
    Serves s dt u c 0x0202 p 8 f ∧ p = [] ∧ u.syncAllowed 2 = true ∧ u.inHoldoff = true :=
    ⟨srv
    { run with params := [(0x8020, [7, 0, 0, 0])], sync := { Sync.reset with acceptedAt := (some 10000000000000) } }
    0x0202 [], _, at0, hc, [], fl 0x0202 [], ⟨rfl, by decide, by decide⟩, by decide⟩

theorem witness_sync_commands_follow_table_4 : ∃ (s u : State) (dt : Ticks) (c : Call) (p : Bytes) (f : InFlight),
    Serves s dt u c 0x0202 p 8 f ∧ p = [] ∧ u.syncAllowed 2 = true ∧ u.inHoldoff = false ∧
    (u.modDom.source = .stopped ∨ u.legalRuns = false) :=
    ⟨srv ({ run with params := [(0x8020, [7, 0, 0, 0])], modDom := ModDomain.reset }) 0x0202 ([]), _, at0, hc, [],
    fl 0x0202 ([]), ⟨rfl, by decide, by decide⟩, by decide⟩

theorem witness_sync_commands_follow_table_5 : ∃ (s u : State) (dt : Ticks) (c : Call) (p : Bytes) (f : InFlight),
    Serves s dt u c 0x0203 p 8 f ∧ p.length = 8 ∧ u.syncAllowed 3 = true ∧ u.inHoldoff = false ∧
    u.modDom.source ≠ .stopped ∧ u.legalRuns = true ∧ u.ntu.status = .fine ∧ u.nodeTime + 100000 ≤ field p 0 8 ∧
    field p 0 8 ≤ u.nodeTime + 3600000000000 :=
    ⟨srv (par [(0x8020, [7, 0, 0, 0])]) 0x0203 (leBytes 8 (10000000100000)), _, at0, hc, leBytes 8
    (10000000100000), fl 0x0203 (leBytes 8 (10000000100000)), ⟨rfl, by decide, by decide⟩, by decide⟩

theorem witness_sync_commands_follow_table_6 : ∃ (s u : State) (dt : Ticks) (c : Call) (p : Bytes) (f : InFlight),
    Serves s dt u c 0x0203 p 8 f ∧ p.length = 8 ∧ u.syncAllowed 3 = false :=
    ⟨srv (par [(0x8020, [0, 0, 0, 0])]) 0x0203 (zeros 8), _, at0, hc, zeros 8, fl 0x0203 (zeros 8), ⟨rfl,
    by decide, by decide⟩, by decide⟩

theorem witness_sync_commands_follow_table_7 : ∃ (s u : State) (dt : Ticks) (c : Call) (p : Bytes) (f : InFlight),
    Serves s dt u c 0x0203 p 8 f ∧ p.length = 8 ∧ u.syncAllowed 3 = true ∧ u.inHoldoff = true :=
    ⟨srv ({ par [(0x8020, [7, 0, 0, 0])] with
        sync := { Sync.reset with acceptedAt := some 10000000000000 } }) 0x0203 (zeros 8),
    _, at0, hc, zeros 8, fl 0x0203 (zeros 8), ⟨rfl, by decide, by decide⟩, by decide⟩

theorem witness_sync_commands_follow_table_8 : ∃ (s u : State) (dt : Ticks) (c : Call) (p : Bytes) (f : InFlight),
    Serves s dt u c 0x0203 p 8 f ∧ p.length = 8 ∧ u.syncAllowed 3 = true ∧ u.inHoldoff = false ∧
    (u.modDom.source = .stopped ∨ u.legalRuns = false) :=
    ⟨srv ({ par [(0x8020, [7, 0, 0, 0])] with modDom := ModDomain.reset }) 0x0203 (zeros 8), _, at0, hc, zeros 8,
    fl 0x0203 (zeros 8), ⟨rfl, by decide, by decide⟩, by decide⟩

theorem witness_sync_commands_follow_table_9 : ∃ (s u : State) (dt : Ticks) (c : Call) (p : Bytes) (f : InFlight),
    Serves s dt u c 0x0203 p 8 f ∧ p.length = 8 ∧ u.syncAllowed 3 = true ∧ u.inHoldoff = false ∧
    u.modDom.source ≠ .stopped ∧ u.legalRuns = true ∧ u.ntu.status ≠ .fine :=
    ⟨srv ({ par [(0x8020, [7, 0, 0, 0])] with ntu := { run.ntu with status := .coarse } }) 0x0203 (zeros 8), _,
    at0, hc, zeros 8, fl 0x0203 (zeros 8), ⟨rfl, by decide, by decide⟩, by decide⟩

theorem witness_sync_commands_follow_table_10 : ∃ (s u : State) (dt : Ticks) (c : Call) (p : Bytes) (f : InFlight),
    Serves s dt u c 0x0203 p 8 f ∧ p.length = 8 ∧ u.syncAllowed 3 = true ∧ u.inHoldoff = false ∧
    u.modDom.source ≠ .stopped ∧ u.legalRuns = true ∧ u.ntu.status = .fine ∧ field p 0 8 < u.nodeTime + 100000 :=
    ⟨srv (par [(0x8020, [7, 0, 0, 0])]) 0x0203 (leBytes 8 (10000000099999)), _, at0, hc, leBytes 8
    (10000000099999), fl 0x0203 (leBytes 8 (10000000099999)), ⟨rfl, by decide, by decide⟩, by decide⟩

theorem witness_sync_commands_follow_table_11 : ∃ (s u : State) (dt : Ticks) (c : Call) (p : Bytes) (f : InFlight),
    Serves s dt u c 0x0203 p 8 f ∧ p.length = 8 ∧ u.syncAllowed 3 = true ∧ u.inHoldoff = false ∧
    u.modDom.source ≠ .stopped ∧ u.legalRuns = true ∧ u.ntu.status = .fine ∧
    u.nodeTime + 3600000000000 < field p 0 8 :=
    ⟨srv (par [(0x8020, [7, 0, 0, 0])]) 0x0203 (leBytes 8 13600000000001), _, at0, hc, leBytes 8 13600000000001,
    fl 0x0203 (leBytes 8 13600000000001), ⟨rfl, by decide, by decide⟩, by decide⟩

theorem witness_sync_commands_follow_table_12 : ∃ (s u : State) (dt : Ticks) (c : Call) (p : Bytes) (f : InFlight),
    Serves s dt u c 0x0204 p 32 f ∧ p = [] :=
    ⟨srv run 0x0204 [], _, at0, hc, [], fl 0x0204 [], ⟨rfl, by decide, by decide⟩, by decide⟩

theorem witness_provisional_commands_answer_1 : ∃ (s u : State) (dt : Ticks) (c : Call) (m n : Nat) (p : Bytes) (f : InFlight),
    Serves s dt u c 0x0304 p 0 f ∧ field p 0 1 = m ∧ field p 1 1 = n ∧ m < 4 ∧ 1 ≤ n ∧ p.length = 16 + 4 * n ∧
    rsv p 2 2 = true ∧ 100000 ≤ field p 12 4 ∧ field p 12 4 ≤ 100000000 ∧ u.pnum (pointId m 0x60) = 1 ∧
    u.pnum (pointId m 0x61) = 1 :=
    ⟨srv (par [(0x2060, [1, 0, 0, 0]), (0x2061, [1, 0, 0, 0])]) 0x0304 (zeros 1 ++ [1] ++ zeros 10 ++ leBytes 4
    100000 ++ zeros 4), _, at0, hc, 0, 1, zeros 1 ++ [1] ++ zeros 10 ++ leBytes 4 100000 ++ zeros 4, fl 0x0304
    (zeros 1 ++ [1] ++ zeros 10 ++ leBytes 4 100000 ++ zeros 4), ⟨rfl, by decide, by decide⟩, by decide⟩

theorem witness_provisional_commands_answer_2 : ∃ (s u : State) (dt : Ticks) (c : Call) (m n : Nat) (p : Bytes) (f : InFlight),
    Serves s dt u c 0x0304 p 0 f ∧ field p 0 1 = m ∧ field p 1 1 = n ∧ m < 4 ∧ 1 ≤ n ∧ p.length = 16 + 4 * n ∧
    rsv p 2 2 = true ∧ 100000 ≤ field p 12 4 ∧ field p 12 4 ≤ 100000000 ∧
    (u.pnum (pointId m 0x60) ≠ 1 ∨ u.pnum (pointId m 0x61) ≠ 1) :=
    ⟨srv run 0x0304 (zeros 1 ++ [1] ++ zeros 10 ++ leBytes 4 100000 ++ zeros 4), _, at0, hc, 0, 1, zeros 1 ++ [1]
    ++ zeros 10 ++ leBytes 4 100000 ++ zeros 4, fl 0x0304 (zeros 1 ++ [1] ++ zeros 10 ++ leBytes 4 100000 ++
    zeros 4), ⟨rfl, by decide, by decide⟩, by decide⟩

theorem witness_provisional_commands_answer_3 : ∃ (s u : State) (dt : Ticks) (c : Call) (m : Nat) (p : Bytes) (f : InFlight),
    Serves s dt u c 0x0305 p 12 f ∧ p.length = 1 ∧ field p 0 1 = m ∧ m < 4 :=
    ⟨srv run 0x0305 [3], _, at0, hc, 3, [3], fl 0x0305 [3], ⟨rfl, by decide, by decide⟩, by decide⟩

theorem witness_record_reads_answer_1 : ∃ (s u : State) (dt : Ticks) (c : Call) (p : Bytes) (f : InFlight), ∃ all,
    Serves s dt u c 0x0405 p (16 + 192 * field p 2 2) f ∧ p.length = 16 ∧ rsv p 1 1 = true ∧ rsv p 4 4 = true ∧
    field p 0 1 < 4 ∧ 1 ≤ field p 2 2 ∧ field p 2 2 ≤ 21 ∧
    all = (u.storedReadings (field p 0 1)).filter (fun b => decide (field p 8 8 ≤ readingTime b)) ∧ all ≠ [] :=
    ⟨srv stored 0x0405 ([0, 0, 21, 0] ++ zeros 12), _, at0, hc, [0, 0, 21, 0] ++ zeros 12, fl 0x0405 ([0, 0, 21,
    0] ++ zeros 12), _, ⟨rfl, by decide +kernel, by decide +kernel⟩, by decide +kernel, by decide +kernel,
    by decide +kernel, by decide +kernel, by decide +kernel, by decide +kernel, rfl, by decide +kernel⟩

theorem witness_record_reads_answer_2 : ∃ (s u : State) (dt : Ticks) (c : Call) (p : Bytes) (f : InFlight),
    Serves s dt u c 0x0406 p 24 f ∧ p.length = 1 ∧ field p 0 1 < 4 :=
    ⟨srv run 0x0406 [3], _, at0, hc, [3], fl 0x0406 [3], ⟨rfl, by decide, by decide⟩, by decide⟩

theorem witness_record_reads_answer_3 : ∃ (s u : State) (dt : Ticks) (c : Call) (m : Nat) (p : Bytes) (f : InFlight),
    Serves s dt u c 0x0407 p 36 f ∧ p.length = 1 ∧ field p 0 1 = m ∧ m < 4 ∧ u.mpType m = typeHeat ∧ u.mpSub m = 1 :=
    ⟨srv (par [(0x2000, [3, 1] ++ zeros 94)]) 0x0407 [0], _, at0, hc, 0, [0], fl 0x0407 [0], ⟨rfl, by decide,
    by decide⟩, by decide⟩

theorem witness_record_reads_answer_4 : ∃ (s u : State) (dt : Ticks) (c : Call) (m : Nat) (p : Bytes) (f : InFlight),
    Serves s dt u c 0x0407 p 36 f ∧ p.length = 1 ∧ field p 0 1 = m ∧ m < 4 ∧
    (u.mpType m ≠ typeHeat ∨ u.mpSub m ≠ 1) :=
    ⟨srv run 0x0407 [0], _, at0, hc, 0, [0], fl 0x0407 [0], ⟨rfl, by decide, by decide⟩, by decide⟩

theorem witness_time_commands_answer_1 : ∃ (s u : State) (dt : Ticks) (c : Call) (p : Bytes) (f : InFlight),
    Serves s dt u c 0x0501 p 32 f ∧ p = [] :=
    ⟨srv run 0x0501 [], _, at0, hc, [], fl 0x0501 [], ⟨rfl, by decide, by decide⟩, by decide⟩

theorem witness_time_commands_answer_2 : ∃ (s u : State) (dt : Ticks) (c : Call) (p : Bytes) (f : InFlight),
    Serves s dt u c 0x0505 p 1936 f ∧ p = [0] ∧ u.legal.active.state ≠ 0 :=
    ⟨srv { run with legal := { Legal.reset with active := { CalendarSlot.none with state := 1 } } } 0x0505 [0],
    _, at0, hc, [0], fl 0x0505 [0], ⟨rfl, by decide, by decide⟩, by decide⟩

theorem witness_time_commands_answer_3 : ∃ (s u : State) (dt : Ticks) (c : Call) (p : Bytes) (f : InFlight),
    Serves s dt u c 0x0505 p 1936 f ∧ p = [1] ∧ u.legal.passive.state = 1 :=
    ⟨srv { run with legal := { Legal.reset with passive := { CalendarSlot.none with state := 1 } } } 0x0505 [1],
    _, at0, hc, [1], fl 0x0505 [1], ⟨rfl, by decide, by decide⟩, by decide⟩

theorem witness_time_commands_answer_4 : ∃ (s u : State) (dt : Ticks) (c : Call) (p : Bytes) (f : InFlight),
    Serves s dt u c 0x0505 p 1936 f ∧ ((p = [0] ∧ u.legal.active.state = 0) ∨ (p = [1] ∧
    u.legal.passive.state = 0)) :=
    ⟨srv run 0x0505 [1], _, at0, hc, [1], fl 0x0505 [1], ⟨rfl, by decide, by decide⟩, by decide⟩

theorem witness_time_commands_answer_5 : ∃ (s u : State) (dt : Ticks) (c : Call) (p : Bytes) (f : InFlight),
    Serves s dt u c 0x0506 p 32 f ∧ p = [] :=
    ⟨srv run 0x0506 [], _, at0, hc, [], fl 0x0506 [], ⟨rfl, by decide, by decide⟩, by decide⟩

theorem witness_time_commands_answer_6 : ∃ (s u : State) (dt : Ticks) (c : Call) (p : Bytes) (f : InFlight),
    Serves s dt u c 0x0508 p 8 f ∧ p = [] :=
    ⟨srv run 0x0508 [], _, at0, hc, [], fl 0x0508 [], ⟨rfl, by decide, by decide⟩, by decide⟩

theorem witness_time_commands_answer_7 : ∃ (s u : State) (dt : Ticks) (c : Call) (p : Bytes) (f : InFlight),
    Serves s dt u c 0x0503 p 4 f ∧ p.length = 16 ∧ field p 0 8 ≤ u.nodeTime ∧
    u.nodeTime ≤ field p 0 8 + 2 * second ∧ u.fabric.role ≠ 1 :=
    ⟨srv run 0x0503 (leBytes 8 9998000000000 ++ zeros 8), _, at0, hc, leBytes 8 9998000000000 ++ zeros 8, fl
    0x0503 (leBytes 8 9998000000000 ++ zeros 8), ⟨rfl, by decide, by decide⟩, by decide⟩

theorem witness_time_commands_answer_8 : ∃ (s u : State) (dt : Ticks) (c : Call) (p : Bytes) (f : InFlight),
    Serves s dt u c 0x0503 p 4 f ∧ p.length = 16 ∧
    (u.nodeTime < field p 0 8 ∨ field p 0 8 + 2 * second < u.nodeTime) :=
    ⟨srv run 0x0503 (leBytes 8 9997999999999 ++ zeros 8), _, at0, hc, leBytes 8 9997999999999 ++ zeros 8, fl
    0x0503 (leBytes 8 9997999999999 ++ zeros 8), ⟨rfl, by decide, by decide⟩, by decide⟩

theorem witness_time_commands_answer_9 : ∃ (s u : State) (dt : Ticks) (c : Call) (p : Bytes) (f : InFlight),
    Serves s dt u c 0x0503 p 4 f ∧ p.length = 16 ∧ field p 0 8 ≤ u.nodeTime ∧
    u.nodeTime ≤ field p 0 8 + 2 * second ∧ u.fabric.role = 1 :=
    ⟨srv { run with fabric := { Fabric.reset with role := 1 } } 0x0503 (leBytes 8 10000000000000 ++ zeros 8), _,
    at0, hc, leBytes 8 10000000000000 ++ zeros 8, fl 0x0503 (leBytes 8 10000000000000 ++ zeros 8), ⟨rfl,
    by decide, by decide⟩, by decide⟩

theorem witness_time_commands_answer_10 : ∃ (v : Int), -100000 ≤ v ∧ v ≤ 100000 :=
    ⟨100000, by decide⟩

theorem witness_display_commands_write_the_staging_copies_1 : ∃ (s u : State) (dt : Ticks) (c : Call) (p : Bytes) (f : InFlight),
    Serves s dt u c 0x0601 p 0 f ∧ p.length = 12 ∧ field p 0 1 ≤ 7 ∧ rsv p 1 3 = true ∧
    (u.pnum 0x4000 = 2 → field p 0 1 = 0 ∧ field p 4 8 < 2 ^ 48) ∧ u.stagingOpen = true :=
    ⟨srv (par [(0x4000, [1, 0, 0, 0])]) 0x0601 ([7] ++ zeros 11), _, at0, hc, [7] ++ zeros 11, fl 0x0601 ([7] ++
    zeros 11), ⟨rfl, by decide, by decide⟩, by decide⟩

theorem witness_display_commands_write_the_staging_copies_2 : ∃ (s u : State) (dt : Ticks) (c : Call) (p map : Bytes) (f : InFlight) (cells : List Cell) (group : List Nat),
    Serves s dt u c 0x0602 p 0 f ∧ p.length = 20 ∧ field p 0 1 ≤ 7 ∧ rsv p 1 3 = true ∧
    map = u.param (0x4020 + field p 0 1) ∧ group = indices map 2 (8 * field map 0 1) ∧
    cellsOf [] (((slice p 4 16).takeWhile (· != 0)).map (·.toNat)) = some cells ∧ cells.length ≤ field map 0 1 ∧
    u.stagingOpen = true :=
    ⟨srv (par [(0x4000, [1, 0, 0, 0]), (0x4020, [1] ++ zeros 127)]) 0x0602 (zeros 4 ++ [0x38] ++ zeros 15), _, at0,
    hc, zeros 4 ++ [0x38] ++ zeros 15, _, fl 0x0602 (zeros 4 ++ [0x38] ++ zeros 15), _, _, ⟨rfl, by decide,
    by decide⟩, by decide, by decide, by decide, rfl, rfl, rfl, by decide⟩

theorem witness_display_commands_write_the_staging_copies_3 : ∃ (s u : State) (dt : Ticks) (c : Call) (p : Bytes) (f : InFlight) (set clear : Nat → Prop),
    Serves s dt u c 0x0603 p 0 f ∧ p.length = 8 ∧ bit (field p 0 4) 31 = false ∧ bit (field p 4 4) 31 = false ∧
    u.stagingOpen = true ∧ (∀ i, set i ↔ ∃ k < 31, bit (field p 0 4) k = true ∧ u.iconSegment k = i) ∧ (∀ i,
    clear i ↔ ∃ k < 31, bit (field p 4 4) k = true ∧ u.iconSegment k = i) :=
    ⟨srv run 0x0603 (zeros 8), _, at0, hc, zeros 8, fl 0x0603 (zeros 8), _, _, ⟨rfl, by decide, by decide⟩,
    by decide, by decide, by decide, by decide, fun _ => Iff.rfl, fun _ => Iff.rfl⟩

theorem witness_display_commands_write_the_staging_copies_4 : ∃ (s u : State) (dt : Ticks) (c : Call) (p : Bytes) (f : InFlight),
    Serves s dt u c 0x0604 p 0 f ∧ p.length = 1 ∧ field p 0 1 ≤ 3 ∧ u.dispMode ≠ 0 :=
    ⟨srv (par [(0x4000, [1, 0, 0, 0])]) 0x0604 [3], _, at0, hc, [3], fl 0x0604 [3], ⟨rfl, by decide, by decide⟩,
    by decide⟩

theorem witness_display_commands_write_the_staging_copies_5 : ∃ (s u : State) (dt : Ticks) (c : Call) (p : Bytes) (f : InFlight),
    Serves s dt u c 0x0604 p 0 f ∧ p = [3] ∧ u.dispMode = 0 :=
    ⟨srv run 0x0604 [3], _, at0, hc, [3], fl 0x0604 [3], ⟨rfl, by decide, by decide⟩, by decide⟩

theorem witness_display_commands_write_the_staging_copies_6 : ∃ (s u : State) (dt : Ticks) (c : Call) (p : Bytes) (f : InFlight),
    Serves s dt u c 0x0605 p 16 f ∧ p = [] :=
    ⟨srv run 0x0605 [], _, at0, hc, [], fl 0x0605 [], ⟨rfl, by decide, by decide⟩, by decide⟩

theorem witness_frame_boundaries_compose_the_layers_1 : ∃ (s u : State) (dt : Ticks), s.elapse dt = u ∧
    2 ≤ u.boot.displayPhase ∧ u.dispMode ≠ 0 ∧ (u.pnum 0x4000 = 1 ∨ u.pnum 0x4000 = 2) ∧ u.display.update = none :=
    ⟨lcd, _, at0, rfl, by decide⟩

theorem witness_frame_boundaries_compose_the_layers_2 : ∃ (s u : State) (dt : Ticks), s.elapse dt = u ∧
    (u.boot.displayPhase < 2 ∨ u.dispMode = 0 ∨ u.display.update.isSome = true) :=
    ⟨run, _, at0, rfl, by decide⟩

theorem witness_frame_boundaries_compose_the_layers_3 : ∃ (s : State), s.display.commits = [] :=
    ⟨run, by decide⟩

theorem witness_frame_boundaries_compose_the_layers_4 : ∃ (s : State) (c : Call) (f : InFlight),
    s.display.commits = [c] ∧ s.accepted c 0x0604 = some f :=
    ⟨{ srv run 0x0604 [3] with
        display := { Display.reset with commits := [hc] }
        hawk := { run.hawk with inFlight := [{ fl 0x0604 [3] with accepted := true }] } },
    hc, _, rfl, rfl⟩

theorem witness_frame_boundaries_compose_the_layers_5 : ∃ (s : State), s.display.composite ≠ s.display.panel :=
    ⟨{ run with display := { Display.reset with composite := [1], panel := [] } }, by decide⟩

theorem witness_frame_boundaries_compose_the_layers_6 : ∃ (s : State) (i : Nat), 4 ≤ s.boot.displayPhase ∧
    (∀ m < 4, (s.point m).prov.shown = false) ∧ i < 512 ∧ s.segmentNow i = true ∧ s.masked i = true :=
    ⟨{ lcd with display := { Display.reset with maskLive := [1] } }, 0, by decide⟩

theorem witness_frame_boundaries_compose_the_layers_7 : ∃ (s : State) (i : Nat), 4 ≤ s.boot.displayPhase ∧
    (∀ m < 4, (s.point m).prov.shown = false) ∧ i < 512 ∧ s.segmentNow i = true ∧ s.masked i = false ∧
    i ∈ s.iconSegments :=
    ⟨par [(0x4000, [1]), (0x4030, zeros 64)], 0, by decide⟩

theorem witness_frame_boundaries_compose_the_layers_8 : ∃ (s : State) (i : Nat), 4 ≤ s.boot.displayPhase ∧
    (∀ m < 4, (s.point m).prov.shown = false) ∧ i < 512 ∧ s.segmentNow i = true ∧ s.masked i = false ∧
    i ∉ s.iconSegments :=
    ⟨par [(0x4000, [1]), (0x4030, List.replicate 64 255)], 63, by decide⟩

theorem witness_frame_boundaries_compose_the_layers_9 : ∃ (s u : State) (dt : Ticks), s.elapse dt = u ∧
    u.boot.displayPhase = 5 ∧ u.dispMode ≠ 0 ∧ u.display.stale = false ∧
    (u.display.legalAt.getD u.boot.displayPhaseAt) + 2000000000 ≤ u.mono ∧ u.legalRuns = false :=
    ⟨{ lcd with boot := { lcd.boot with legalReady := false } }, _, at0, rfl, by decide⟩

theorem witness_frame_boundaries_compose_the_layers_10 : ∃ (s u : State) (dt : Ticks), s.elapse dt = u ∧
    u.boot.displayPhase = 5 ∧ u.dispMode ≠ 0 ∧ u.display.stale = false ∧
    (u.display.legalAt.getD u.boot.displayPhaseAt) + 2000000000 ≤ u.mono ∧ u.legalRuns = true :=
    ⟨lcd, _, at0, rfl, by decide⟩

theorem witness_frame_boundaries_compose_the_layers_11 : ∃ (s u : State) (dt : Ticks), s.elapse dt = u ∧
    u.legalRuns = true ∧ u.legal.displayError = true ∧
    u.legal.errAt + (if u.legal.errShown then 1000000000 else 4000000000) ≤ u.mono :=
    ⟨legal { Legal.reset with displayError := true }, _, at0, rfl, by decide⟩

theorem witness_drive_and_readback_events_1 : ∃ (s : State) (temp v : Int),
    v = (s.pnumNow 0x4005 : Int) - 2 * s.pnumNow 0x4006 * (temp - 25) ∧ 2500 ≤ v ∧ v ≤ 5400 :=
    ⟨lcd, 25, _, rfl, by decide⟩

theorem witness_drive_and_readback_events_2 : ∃ (s u : State) (dt : Ticks) (e : EpdUpdate), s.elapse dt = u ∧
    u.display.update = some e ∧ e.ended = false ∧ e.phaseAt + e.ticks * 1000000000 / 32768 ≤ u.mono :=
    ⟨showing (epd 14), _, at0, _, rfl, rfl, by decide⟩

theorem witness_drive_and_readback_events_3 : ∃ (e : EpdUpdate) (j : Nat), e.classes.getD j 0 = 0 :=
    ⟨epd 1, 0, by decide⟩

theorem witness_drive_and_readback_events_4 : ∃ (e : EpdUpdate) (j : Nat), e.classes.getD j 0 = 1 :=
    ⟨{ epd 1 with classes := [1] }, 0, by decide⟩

theorem witness_drive_and_readback_events_5 : ∃ (e : EpdUpdate) (j : Nat), e.classes.getD j 0 = 2 :=
    ⟨{ epd 1 with classes := [2] }, 0, by decide⟩

theorem witness_drive_and_readback_events_6 : ∃ (s u : State) (dt : Ticks) (e : EpdUpdate), s.elapse dt = u ∧
    u.display.update = some e ∧ e.ended = true :=
    ⟨showing (epd 15), _, at0, _, rfl, rfl, by decide⟩

theorem witness_drive_and_readback_events_7 : ∃ (s : State), (∀ l ∈ s.display.ledger, l.natAbs ≤ 65536) :=
    ⟨run, by decide⟩

theorem witness_drive_and_readback_events_8 : ∃ (s : State), (∃ l ∈ s.display.ledger, s.pulseTicks l ≠ 0) :=
    ⟨{ run with display := { Display.reset with ledger := [16282000], vcMinus := -1875 } }, by decide⟩

theorem witness_drive_and_readback_events_9 : ∃ (s u : State) (dt : Ticks) (o : Nat) (mv : Int), s.elapse dt = u ∧
    u.misreads o mv = false :=
    ⟨run, _, at0, 0, 0, rfl, by decide⟩

theorem witness_drive_and_readback_events_10 : ∃ (s u : State) (dt : Ticks) (o : Nat) (mv : Int), s.elapse dt = u ∧
    u.driven o = true ∧ 2 ≤ u.boot.displayPhase ∧ u.misreads o mv = true ∧ (∀ x ∈ u.display.suspects,
    x.1 = o → (x.2 + 1) % 4294967296 ≠ u.checkNumber % 4294967296) :=
    ⟨lcd, _, at0, 63, 100000, rfl, by decide⟩

theorem witness_drive_and_readback_events_11 : ∃ (s u v : State) (dt : Ticks) (o k : Nat) (mv : Int),
    s.elapse dt = u ∧ u.driven o = true ∧ 4 ≤ u.boot.displayPhase ∧ u.misreads o mv = true ∧ (o,
    k) ∈ u.display.suspects ∧ (k + 1) % 4294967296 = u.checkNumber % 4294967296 ∧ v = u.suspect o u.checkNumber ∧
    u.legalOutput o = false :=
    ⟨{ lcd with display := { Display.reset with suspects := [(63, 4294967295)] } }, _, _, at0, 63, 4294967295,
    100000, rfl, by decide +kernel, by decide +kernel, by decide +kernel, by decide +kernel, by decide +kernel,
    rfl, by decide +kernel⟩

theorem witness_drive_and_readback_events_12 : ∃ (s u v : State) (dt : Ticks) (o k : Nat) (mv : Int),
    s.elapse dt = u ∧ u.driven o = true ∧ 4 ≤ u.boot.displayPhase ∧ u.misreads o mv = true ∧ (o,
    k) ∈ u.display.suspects ∧ (k + 1) % 4294967296 = u.checkNumber % 4294967296 ∧ v = u.suspect o u.checkNumber ∧
    u.legalOutput o = true ∧ u.legalRuns = true ∧ u.legal.errorOutputs.contains o = false :=
    ⟨{ lcd with display := { Display.reset with suspects := [(0, 4294967295)], maskLive := [1] } }, _, _, at0, 0,
    4294967295, 100000, rfl, by decide +kernel, by decide +kernel, by decide +kernel, by decide +kernel,
    by decide +kernel, rfl, by decide +kernel⟩

theorem witness_drive_and_readback_events_13 : ∃ (s u v : State) (dt : Ticks) (o k : Nat) (mv : Int),
    s.elapse dt = u ∧ u.driven o = true ∧ 4 ≤ u.boot.displayPhase ∧ u.misreads o mv = true ∧ (o,
    k) ∈ u.display.suspects ∧ (k + 1) % 4294967296 = u.checkNumber % 4294967296 ∧ v = u.suspect o u.checkNumber ∧
    u.legalOutput o = true ∧ u.legal.errorOutputs.contains o = true :=
    ⟨{ lcd with
        display := { Display.reset with suspects := [(0, 4294967295)], maskLive := [1] }
        legal := { Legal.reset with errorOutputs := [0] } },
    _, _, at0, 0, 4294967295, 100000, rfl, by decide +kernel, by decide +kernel, by decide +kernel,
    by decide +kernel, by decide +kernel, rfl, by decide +kernel⟩

theorem witness_drive_and_readback_events_14 : ∃ (s : State), s.dispMode = 1 ∧ 2 ≤ s.boot.displayPhase ∧
    s.boot.held = false :=
    ⟨lcd, by decide⟩

theorem witness_drive_and_readback_events_15 : ∃ (s : State), s.legal.displayError = true :=
    ⟨legal { Legal.reset with displayError := true }, by decide⟩

theorem witness_drive_and_readback_events_16 : ∃ (s : State), s.legal.displayError = false ∧ s.ready = false :=
    ⟨State.reset, by decide⟩

theorem witness_keys_and_screens_1 : ∃ (s u : State) (dt : Ticks), s.elapse dt = u ∧ u.sequencePhaseOver = true ∧
    u.boot.displayPhase ≠ 3 :=
    ⟨phase run 4, _, at0, rfl, by decide⟩

theorem witness_keys_and_screens_2 : ∃ (s u : State) (dt : Ticks), s.elapse dt = u ∧ u.sequencePhaseOver = true ∧
    u.boot.displayPhase = 3 ∧ u.display.testFail = false :=
    ⟨phase run 3, _, at0, rfl, by decide⟩

theorem witness_keys_and_screens_3 : ∃ (s u : State) (dt : Ticks) (k : Nat), s.elapse dt = u ∧
    u.sequencePhaseOver = true ∧ u.boot.displayPhase = k ∧ (k = 2 ∨ k = 3) :=
    ⟨phase run 2, _, at0, _, rfl, by decide +kernel, rfl, Or.inl rfl⟩

theorem witness_keys_and_screens_4 : ∃ (s : State), s.dispMode = 1 ∧ s.boot.displayPhase = 2 :=
    ⟨phase lcd 2, by decide⟩

theorem witness_keys_and_screens_5 : ∃ (s : State), s.dispMode = 1 ∧ s.boot.displayPhase = 3 :=
    ⟨phase lcd 3, by decide⟩

theorem witness_keys_and_screens_6 : ∃ (s : State), s.dispMode = 1 ∧ s.boot.displayPhase = 4 :=
    ⟨phase lcd 4, by decide⟩

theorem witness_keys_and_screens_7 : ∃ (s u : State) (dt : Ticks) (k : Nat), s.elapse dt = u ∧ k < 4 ∧
    u.legalRuns = true ∧ u.legal.keysDown = [false, false, false, false] ∧ u.legal.keysWait = false :=
    ⟨run, _, at0, 3, rfl, by decide⟩

theorem witness_keys_and_screens_8 : ∃ (s u : State) (dt : Ticks) (k : Nat) (second : Bool), s.elapse dt = u ∧
    k < 4 ∧ u.legalRuns = true ∧ u.legal.keysDown.getD k false = false ∧
    (second = true ∨ u.legal.keysWait = true ∨ (∃ j < u.legal.keysDown.length, j ≠ k ∧
    u.legal.keysDown.getD j false = true)) :=
    ⟨run, _, at0, 0, true, rfl, by decide⟩

theorem witness_keys_and_screens_9 : ∃ (s : State) (m : Nat), s.wastePoint = some m :=
    ⟨par [(0x2300, bound 4 0)], _, rfl⟩

theorem witness_keys_and_screens_10 : ∃ (s u : State) (dt : Ticks) (k : Nat), s.elapse dt = u ∧ k < 4 ∧
    u.legalRuns = true ∧ u.legal.keysDown.getD k false = true ∧ u.legal.keysStuck.getD k false = false ∧
    u.legal.keysAt.getD k 0 + 60000000000 ≤ u.mono :=
    ⟨legal { Legal.reset with keysDown := [true, false, false, false] }, _, at0, 0, rfl, by decide⟩

theorem witness_keys_and_screens_11 : ∃ (s u : State) (dt : Ticks), s.elapse dt = u ∧ u.legalRuns = true ∧
    u.legal.lcvScreen ≠ 0 ∧ u.legal.screenAt + 5000000000 ≤ u.mono :=
    ⟨legal { Legal.reset with lcvScreen := 1 }, _, at0, rfl, by decide⟩

theorem witness_keys_and_screens_12 : ∃ (s u : State) (dt : Ticks), s.elapse dt = u ∧ u.legalRuns = true ∧
    (u.legal.lcvScreen ≠ 0 ∨ (u.legal.regList ≠ [] ∧ u.legal.regValue = true)) ∧ u.legalDigits < 8 ∧
    u.legal.lowerHalf = false ∧ u.legal.screenAt + 2500000000 ≤ u.mono :=
    ⟨{ par [(0x8031, [7])] with legal := { Legal.reset with lcvScreen := 1 } }, _, at0, rfl, by decide⟩

theorem witness_keys_and_screens_13 : ∃ (s u : State) (dt : Ticks) (x : Nat × Nat × Nat) (rest : List (Nat × Nat × Nat)),
    s.elapse dt = u ∧ u.legalRuns = true ∧ u.boot.displayPhase = 5 ∧ u.legal.lcvScreen = 0 ∧ u.wastePoint = none ∧
    u.legal.regList = x :: rest ∧ u.legal.regValue = false ∧ u.legal.screenAt + 1000000000 ≤ u.mono :=
    ⟨legal { Legal.reset with regList := [(0, 0, 0)] }, _, at0, _, _, rfl, by decide, by decide, by decide,
    by decide, rfl, by decide⟩

theorem witness_keys_and_screens_14 : ∃ (s u : State) (dt : Ticks) (x : Nat × Nat × Nat) (rest : List (Nat × Nat × Nat)),
    s.elapse dt = u ∧ u.legalRuns = true ∧ u.boot.displayPhase = 5 ∧ u.legal.lcvScreen = 0 ∧ u.wastePoint = none ∧
    u.legal.regList = x :: rest ∧ rest ≠ [] ∧ u.legal.regValue = true ∧ u.legal.screenAt + 5000000000 ≤ u.mono :=
    ⟨legal { Legal.reset with regList := [(0, 0, 0), (0, 1, 0)], regValue := true }, _, at0, _, _, rfl,
    by decide, by decide, by decide, by decide, rfl, by decide⟩

theorem witness_keys_and_screens_15 : ∃ (s u : State) (dt : Ticks), s.elapse dt = u ∧ u.legalRuns = true ∧
    u.boot.displayPhase = 5 ∧ u.legal.lcvScreen = 0 ∧ u.wastePoint = none ∧ u.legal.regList = [] :=
    ⟨run, _, at0, rfl, by decide⟩

theorem witness_crypto_commands_take_a_context_1 : ∃ (s u : State) (dt : Ticks) (c : Call) (p : Bytes) (f : InFlight) (i : Nat),
    Serves s dt u c 0x0907 p 64 f ∧ p.length = 36 ∧ field p 1 1 ≤ 3 ∧ rsv p 2 2 = true ∧
    u.slotType (field p 0 1) [3] = true ∧ u.crypto.freeContext = some i :=
    ⟨srv (crypto (keyed 3)) 0x0907 ([3, 3] ++ zeros 34), _, at0, hc, [3, 3] ++ zeros 34, fl 0x0907 ([3, 3] ++
    zeros 34), _, ⟨rfl, by decide, by decide⟩, by decide, by decide, by decide, by decide, rfl⟩

theorem witness_crypto_commands_take_a_context_2 : ∃ (s u : State) (dt : Ticks) (c : Call) (p : Bytes) (f : InFlight) (i : Nat),
    Serves s dt u c 0x0908 p 0 f ∧ p.length = 164 ∧ field p 0 1 ≤ 3 ∧ rsv p 1 3 = true ∧
    publicKeyOk (slice p 4 64) = true ∧ u.crypto.freeContext = some i :=
    ⟨srv (crypto (keyed 3)) 0x0908 ([3, 0, 0, 0] ++ point2 ++ zeros 96), _, at0, hc, [3, 0, 0, 0] ++ point2 ++
    zeros 96, fl 0x0908 ([3, 0, 0, 0] ++ point2 ++ zeros 96), _, ⟨rfl, by decide +kernel, by decide +kernel⟩,
    by decide +kernel, by decide +kernel, by decide +kernel, by decide +kernel, rfl⟩

theorem witness_crypto_commands_take_a_context_3 : ∃ (s u : State) (dt : Ticks) (c : Call) (p : Bytes) (f : InFlight) (i : Nat),
    Serves s dt u c 0x0909 p 0 f ∧ p.length = 68 ∧ rsv p 3 1 = true ∧ field p 2 1 ≤ 3 ∧ 3 ≤ field p 1 1 ∧
    field p 1 1 ≤ 15 ∧ u.slotType (field p 0 1) [3] = true ∧ publicKeyOk (p.drop 4) = true ∧
    ecPublic (u.scalar (field p 0 1)) ≠ p.drop 4 ∧ u.crypto.freeContext = some i :=
    ⟨srv (crypto (keyed 3)) 0x0909 ([3, 15, 3, 0] ++ point2), _, at0, hc, [3, 15, 3, 0] ++ point2, fl 0x0909 ([3,
    15, 3, 0] ++ point2), _, ⟨rfl, by decide +kernel, by decide +kernel⟩, by decide +kernel, by decide +kernel,
    by decide +kernel, by decide +kernel, by decide +kernel, by decide +kernel, by decide +kernel,
    by decide +kernel, rfl⟩

theorem witness_crypto_commands_take_a_context_4 : ∃ (s u : State) (dt : Ticks) (c : Call) (p : Bytes) (f : InFlight) (i : Nat),
    Serves s dt u c 0x090A p 64 f ∧ p.length = 4 ∧ rsv p 2 2 = true ∧ field p 1 1 ≤ 3 ∧ 3 ≤ field p 0 1 ∧
    field p 0 1 ≤ 15 ∧ u.crypto.seeded = true ∧ u.crypto.freeContext = some i :=
    ⟨srv (crypto (keyed 3)) 0x090A [15, 3, 0, 0], _, at0, hc, [15, 3, 0, 0], fl 0x090A [15, 3, 0, 0], _, ⟨rfl,
    by decide, by decide⟩, by decide, by decide, by decide, by decide, by decide, by decide, rfl⟩

theorem witness_crypto_commands_take_a_context_5 : ∃ (s u : State) (dt : Ticks) (c : Call) (p : Bytes) (f : InFlight) (i : Nat),
    Serves s dt u c 0x090D p (field p 0 2) f ∧ p.length = 2 ∧ 1 ≤ field p 0 2 ∧ field p 0 2 ≤ 4096 ∧
    u.crypto.seeded = true ∧ u.crypto.freeContext = some i :=
    ⟨srv (crypto (keyed 3)) 0x090D (leBytes 2 4096), _, at0, hc, leBytes 2 4096, fl 0x090D (leBytes 2 4096), _,
    ⟨rfl, by decide, by decide⟩, by decide, by decide, by decide, by decide, rfl⟩

theorem witness_crypto_commands_take_a_context_6 : ∃ (s u : State) (dt : Ticks) (c : Call) (p : Bytes) (f : InFlight) (job : CryptoJob),
    Serves s dt u c 0x0903 p 1 f ∧ p.length = 16 ∧ field p 1 1 ≤ 3 ∧ rsv p 3 1 = true ∧ ((field p 0 1 = 1 ∧
    field p 2 1 = 0 ∧ rsv p 4 12 = true) ∨ ((field p 0 1 = 2 ∨ field p 0 1 = 3) ∧ u.slotType (field p 2 1) [1,
    2] = true)) ∧ job = (if field p 0 1 = 1 then .sha [] else .gcm (field p 0 1 == 3) (field p 2 1) (slice p 4 12) [] [] false) ∧
    u.crypto.freeContext = none :=
    ⟨srv (crypto (working (ctx none (.sha [])))) 0x0903 ([1, 3] ++ zeros 14), _, at0, hc, [1, 3] ++ zeros 14,
    fl 0x0903 ([1, 3] ++ zeros 14), _, ⟨rfl, by decide, by decide⟩, by decide, by decide, by decide, by decide,
    rfl, by decide⟩

theorem witness_crypto_commands_take_a_context_7 : ∃ (s u : State) (dt : Ticks) (c : Call) (p : Bytes) (f : InFlight) (job : CryptoJob),
    ∃ i, Serves s dt u c 0x0903 p 1 f ∧ p.length = 16 ∧ field p 1 1 ≤ 3 ∧ rsv p 3 1 = true ∧ ((field p 0 1 = 1 ∧
    field p 2 1 = 0 ∧ rsv p 4 12 = true) ∨ ((field p 0 1 = 2 ∨ field p 0 1 = 3) ∧ u.slotType (field p 2 1) [1,
    2] = true)) ∧ job = (if field p 0 1 = 1 then .sha [] else .gcm (field p 0 1 == 3) (field p 2 1) (slice p 4 12) [] [] false) ∧
    u.crypto.freeContext = some i :=
    ⟨srv (crypto (keyed 1)) 0x0903 ([3, 3, 3] ++ zeros 13), _, at0, hc, [3, 3, 3] ++ zeros 13, fl 0x0903 ([3, 3,
    3] ++ zeros 13), _, _, ⟨rfl, by decide, by decide⟩, by decide, by decide, by decide, by decide, rfl, rfl⟩

theorem witness_crypto_commands_take_a_context_8 : ∃ (s : State), s.crypto.freeContext = none :=
    ⟨crypto (working (ctx none (.sha []))), by decide⟩

theorem witness_crypto_commands_take_a_context_9 : ∃ (s : State), ∃ i, s.crypto.freeContext = some i :=
    ⟨run, _, rfl⟩

theorem witness_crypto_commands_take_a_context_10 : ∃ (c : Crypto) (i : Nat), c.freeContext = some i :=
    ⟨Crypto.reset, _, rfl⟩

theorem witness_crypto_commands_take_a_context_11 : ∃ (s : State) (n : Nat) (k : KeySlot), s.keySlot n = some k :=
    ⟨crypto (keyed 3), 3, _, rfl⟩

theorem witness_crypto_jobs_complete_1 : ∃ (s u : State) (dt : Ticks) (i : Nat) (c : Call) (x : Context) (op : Nat) (f : InFlight),
    ∃ n, ∃ d, s.elapse dt = u ∧ u.crypto.contexts.getD i none = some x ∧ x.byLc = false ∧ x.call = some c ∧
    op = x.job.opcode ∧ u.accepted c op = some f ∧ x.job = .sign n d ∧ scalarOk (beNat x.key) = true :=
    ⟨going (working { ctx (some hc) (.sign 3 []) with key := beBytes 32 1 }) 0x0907, _, at0, 3, hc, _, _, _, 3, [],
    rfl, rfl, by decide, by decide, rfl, rfl, by decide⟩

theorem witness_crypto_jobs_complete_2 : ∃ (s u : State) (dt : Ticks) (i : Nat) (c : Call) (x : Context) (op : Nat) (f : InFlight),
    ∃ q, ∃ d, ∃ r, ∃ g, s.elapse dt = u ∧ u.crypto.contexts.getD i none = some x ∧ x.byLc = false ∧
    x.call = some c ∧ op = x.job.opcode ∧ u.accepted c op = some f ∧ x.job = .verify q d r g :=
    ⟨going (working (ctx (some hc) (.verify [] [] [] []))) 0x0908, _, at0, 3, hc, _, _, _, [], [], [], [], rfl,
    rfl, by decide, by decide, rfl, rfl, by decide⟩

theorem witness_crypto_jobs_complete_3 : ∃ (s u : State) (dt : Ticks) (i : Nat) (c : Call) (x : Context) (op : Nat) (f : InFlight),
    ∃ n, ∃ dest, ∃ q, s.elapse dt = u ∧ u.crypto.contexts.getD i none = some x ∧ x.byLc = false ∧ x.call = some c ∧
    op = x.job.opcode ∧ u.accepted c op = some f ∧ x.job = .ecdh n dest q ∧ scalarOk (beNat x.key) = true :=
    ⟨going (working { ctx (some hc) (.ecdh 3 4 []) with key := beBytes 32 1 }) 0x0909, _, at0, 3, hc, _, _, _, 3,
    4, [], rfl, rfl, by decide, by decide, rfl, rfl, by decide⟩

theorem witness_crypto_jobs_complete_4 : ∃ (s u : State) (dt : Ticks) (i : Nat) (c : Call) (x : Context) (op : Nat) (f : InFlight),
    ∃ n, s.elapse dt = u ∧ u.crypto.contexts.getD i none = some x ∧ x.byLc = false ∧ x.call = some c ∧
    op = x.job.opcode ∧ u.accepted c op = some f ∧ x.job = .keygen n ∧ u.crypto.seeded = true :=
    ⟨going (working (ctx (some hc) (.keygen 4))) 0x090A, _, at0, 3, hc, _, _, _, 4, rfl, rfl, by decide, by decide,
    rfl, rfl, by decide⟩

theorem witness_crypto_jobs_complete_5 : ∃ (s u : State) (dt : Ticks) (i : Nat) (c : Call) (x : Context) (op : Nat) (f : InFlight),
    ∃ n, s.elapse dt = u ∧ u.crypto.contexts.getD i none = some x ∧ x.byLc = false ∧ x.call = some c ∧
    op = x.job.opcode ∧ u.accepted c op = some f ∧ x.job = .random n ∧ u.crypto.seeded = true :=
    ⟨going (working (ctx (some hc) (.random 4096))) 0x090D, _, at0, 3, hc, _, _, _, 4096, rfl, rfl, by decide,
    by decide, rfl, rfl, by decide⟩

theorem witness_crypto_jobs_complete_6 : ∃ (s u : State) (dt : Ticks) (i : Nat) (x : Context), s.elapse dt = u ∧
    u.crypto.contexts.getD i none = some x ∧ x.byLc = true ∧ u.crypto.saved = [] :=
    ⟨crypto (working { ctx none (.sha []) with byLc := true }), _, at0, 0, _, rfl, rfl, by decide⟩

theorem witness_crypto_jobs_complete_7 : ∃ (s u : State) (dt : Ticks) (i : Nat) (x : Context), ∃ y,
    s.elapse dt = u ∧ u.crypto.contexts.getD i none = some x ∧ x.byLc = true ∧ u.crypto.saved = [y] :=
    ⟨crypto { working { ctx none (.sha []) with byLc := true } with saved := [ctx none (.sha [])] }, _, at0, 0, _,
    _, rfl, rfl, by decide, rfl⟩

theorem witness_crypto_jobs_complete_8 : ∃ (s u : State) (dt : Ticks) (c : Call) (p : Bytes) (f : InFlight) (x : Context) (job : CryptoJob),
    Serves s dt u c 0x0904 p (x.job.feedOutput x.key (field p 1 1) (p.drop 4)).length f ∧ 4 ≤ p.length ∧
    field p 1 1 ≤ 1 ∧ rsv p 2 2 = true ∧ u.streamOf c.origin (field p 0 1) = some x ∧
    x.job.feed (field p 1 1) (p.drop 4) = some job ∧ u.crypto.whereIs (field p 0 1) = none :=
    ⟨srv (crypto { Crypto.reset with saved := [ctx none (.sha [])] }) 0x0904 ([1, 0, 0, 0, 7]), _, at0, hc, [1, 0,
    0, 0, 7], fl 0x0904 ([1, 0, 0, 0, 7]), _, _, ⟨rfl, by decide, by decide⟩, by decide, by decide, by decide, rfl,
    rfl, by decide⟩

theorem witness_crypto_jobs_complete_9 : ∃ (s u : State) (dt : Ticks) (c : Call) (p : Bytes) (f : InFlight) (x : Context) (job : CryptoJob),
    ∃ i, Serves s dt u c 0x0904 p (x.job.feedOutput x.key (field p 1 1) (p.drop 4)).length f ∧ 4 ≤ p.length ∧
    field p 1 1 ≤ 1 ∧ rsv p 2 2 = true ∧ u.streamOf c.origin (field p 0 1) = some x ∧
    x.job.feed (field p 1 1) (p.drop 4) = some job ∧ u.crypto.whereIs (field p 0 1) = some i :=
    ⟨srv (crypto (working (ctx none (.sha [])))) 0x0904 ([1, 0, 0, 0, 7]), _, at0, hc, [1, 0, 0, 0, 7],
    fl 0x0904 ([1, 0, 0, 0, 7]), _, _, _, ⟨rfl, by decide, by decide⟩, by decide, by decide, by decide, rfl, rfl, rfl⟩

theorem witness_crypto_jobs_complete_10 : ∃ (d data : Bytes), d.length + data.length ≤ 4294967295 :=
    ⟨[], [], by decide⟩

theorem witness_crypto_jobs_complete_11 : ∃ (s u : State) (dt : Ticks) (c : Call) (p : Bytes) (i : Nat) (f : InFlight) (x : Context) (d : Bytes),
    Serves s dt u c 0x0905 p 32 f ∧ p.length = 4 ∧ rsv p 1 3 = true ∧ u.streamOf c.origin (field p 0 1) = some x ∧
    u.crypto.whereIs (field p 0 1) = some i ∧ x.job = .sha d :=
    ⟨srv (crypto (working (ctx none (.sha [])))) 0x0905 [1, 0, 0, 0], _, at0, hc, [1, 0, 0, 0], _, fl 0x0905 [1,
    0, 0, 0], _, [], ⟨rfl, by decide, by decide⟩, by decide, by decide, rfl, rfl, by decide⟩

theorem witness_crypto_jobs_complete_12 : ∃ (s u : State) (dt : Ticks) (c : Call) (p : Bytes) (i n : Nat) (f : InFlight) (x : Context) (iv a t : Bytes) (b : Bool),
    u.streamOf c.origin (field p 0 1) = some x ∧ u.crypto.whereIs (field p 0 1) = some i ∧ rsv p 1 3 = true ∧
    x.job = .gcm false n iv a t b ∧ Serves s dt u c 0x0905 p 16 f ∧ p.length = 4 :=
    ⟨srv (crypto (working (ctx none (.gcm false 3 (zeros 12) [] [] true)))) 0x0905 ([1, 0, 0, 0]), _, at0, hc, [1,
    0, 0, 0], _, 3, fl 0x0905 ([1, 0, 0, 0]), _, zeros 12, [], [], true, rfl, rfl, by decide, by decide, ⟨rfl,
    by decide, by decide⟩, by decide⟩

theorem witness_crypto_jobs_complete_13 : ∃ (s u : State) (dt : Ticks) (c : Call) (p : Bytes) (i n : Nat) (f : InFlight) (x : Context) (iv a t : Bytes) (b : Bool),
    u.streamOf c.origin (field p 0 1) = some x ∧ u.crypto.whereIs (field p 0 1) = some i ∧ rsv p 1 3 = true ∧
    x.job = .gcm true n iv a t b ∧ Serves s dt u c 0x0905 p t.length f ∧ p.length = 20 ∧
    gcmTag x.key iv a t = p.drop 4 :=
    ⟨srv (crypto (working { ctx none (.gcm true 3 (zeros 12) [] [] true) with key := zeros 32 })) 0x0905 ([1, 0, 0,
    0] ++ gcmTag (zeros 32) (zeros 12) [] []), _, at0, hc, [1, 0, 0, 0] ++ gcmTag (zeros 32) (zeros 12) [] [], _,
    3, fl 0x0905 ([1, 0, 0, 0] ++ gcmTag (zeros 32) (zeros 12) [] []), _, zeros 12, [], [], true, rfl, rfl,
    by decide +kernel, by decide +kernel, ⟨rfl, by decide +kernel, by decide +kernel⟩, by decide +kernel⟩

theorem witness_crypto_jobs_complete_14 : ∃ (s u : State) (dt : Ticks) (c : Call) (p : Bytes) (i n : Nat) (f : InFlight) (x : Context) (iv a t : Bytes) (b : Bool),
    u.streamOf c.origin (field p 0 1) = some x ∧ u.crypto.whereIs (field p 0 1) = some i ∧ rsv p 1 3 = true ∧
    x.job = .gcm true n iv a t b ∧ Serves s dt u c 0x0905 p t.length f ∧ p.length = 20 ∧
    gcmTag x.key iv a t ≠ p.drop 4 :=
    ⟨srv (crypto (working { ctx none (.gcm true 3 (zeros 12) [] [] true) with
        key := zeros 32 })) 0x0905 ([1] ++ zeros 19),
    _, at0, hc, [1] ++ zeros 19, _, 3, fl 0x0905 ([1] ++ zeros 19), _, zeros 12, [], [], true, rfl, rfl,
    by decide +kernel, by decide +kernel, ⟨rfl, by decide +kernel, by decide +kernel⟩, by decide +kernel⟩

theorem witness_crypto_jobs_complete_15 : ∃ (s u : State) (dt : Ticks) (c : Call) (p : Bytes) (f : InFlight) (x : Context),
    Serves s dt u c 0x0906 p 0 f ∧ p.length = 1 ∧ u.crypto.jobOf (field p 0 1) = some x ∧ x.owner = c.origin :=
    ⟨srv (crypto (working (ctx none (.sha [])))) 0x0906 [1], _, at0, hc, [1], fl 0x0906 [1], _, ⟨rfl, by decide,
    by decide⟩, by decide, rfl, by decide⟩

theorem witness_key_slots_are_loaded_and_erased_1 : ∃ (s u : State) (dt : Ticks) (c : Call) (p : Bytes) (f : InFlight),
    Serves s dt u c 0x090B p 0 f ∧ p.length = 36 ∧ rsv p 2 2 = true ∧ 3 ≤ field p 0 1 ∧ field p 0 1 ≤ 15 ∧
    keyForm (field p 1 1) (p.drop 4) = true ∧ u.slotHeld (field p 0 1) = false :=
    ⟨srv run 0x090B ([15, 3] ++ zeros 34), _, at0, hc, [15, 3] ++ zeros 34, fl 0x090B ([15, 3] ++ zeros 34),
    ⟨rfl, by decide, by decide⟩, by decide⟩

theorem witness_key_slots_are_loaded_and_erased_2 : ∃ (s u : State) (dt : Ticks) (c : Call) (p : Bytes) (f : InFlight),
    Serves s dt u c 0x090B p 0 f ∧ p.length = 36 ∧ rsv p 2 2 = true ∧ keyForm (field p 1 1) (p.drop 4) = true ∧
    (field p 0 1 ≤ 2 ∨ (field p 0 1 ≤ 15 ∧ u.slotHeld (field p 0 1) = true)) :=
    ⟨srv run 0x090B ([2, 3] ++ zeros 34), _, at0, hc, [2, 3] ++ zeros 34, fl 0x090B ([2, 3] ++ zeros 34), ⟨rfl,
    by decide, by decide⟩, by decide⟩

theorem witness_key_slots_are_loaded_and_erased_3 : ∃ (s u : State) (dt : Ticks) (c : Call) (p : Bytes) (f : InFlight),
    Serves s dt u c 0x090C p 0 f ∧ p.length = 1 ∧ 3 ≤ field p 0 1 ∧ field p 0 1 ≤ 15 ∧
    u.slotHeld (field p 0 1) = false :=
    ⟨srv run 0x090C [15], _, at0, hc, [15], fl 0x090C [15], ⟨rfl, by decide, by decide⟩, by decide⟩

theorem witness_key_slots_are_loaded_and_erased_4 : ∃ (s u : State) (dt : Ticks) (c : Call) (p : Bytes) (f : InFlight),
    Serves s dt u c 0x090C p 0 f ∧ p.length = 1 ∧ (field p 0 1 ≤ 2 ∨ (field p 0 1 ≤ 15 ∧
    u.slotHeld (field p 0 1) = true)) :=
    ⟨srv run 0x090C [2], _, at0, hc, [2], fl 0x090C [2], ⟨rfl, by decide, by decide⟩, by decide⟩

theorem witness_key_slots_are_loaded_and_erased_5 : ∃ (s u : State) (dt : Ticks) (c : Call) (p : Bytes) (f : InFlight),
    Serves s dt u c 0x090E p 16 f ∧ p = [] :=
    ⟨srv run 0x090E [], _, at0, hc, [], fl 0x090E [], ⟨rfl, by decide, by decide⟩, by decide⟩

theorem witness_key_slots_are_loaded_and_erased_6 : ∃ (s : State) (n : Nat), ∃ m, n < s.crypto.slots.length ∧ m ≠ n :=
    ⟨run, 15, 16, by decide⟩

theorem witness_lc_contexts_and_the_entropy_source_1 : ∃ (s u : State) (dt : Ticks) (i : Nat), s.elapse dt = u ∧
    u.legalRuns = true ∧ u.crypto.lcCount < 2 ∧ u.crypto.freeContext = some i :=
    ⟨run, _, at0, _, rfl, by decide, by decide, rfl⟩

theorem witness_lc_contexts_and_the_entropy_source_2 : ∃ (s u : State) (dt : Ticks) (i : Nat) (x : Context),
    s.elapse dt = u ∧ u.legalRuns = true ∧ u.crypto.lcCount < 2 ∧ u.crypto.freeContext = none ∧
    u.crypto.victim = some i ∧ u.crypto.contexts.getD i none = some x :=
    ⟨crypto (working (ctx none (.sha []))), _, at0, _, _, rfl, by decide, by decide, by decide, rfl, rfl⟩

theorem witness_lc_contexts_and_the_entropy_source_3 : ∃ (s u : State) (dt : Ticks), s.elapse dt = u ∧
    2 ≤ u.crypto.lcCount :=
    ⟨crypto (working { ctx none (.sha []) with byLc := true }), _, at0, rfl, by decide⟩

theorem witness_lc_contexts_and_the_entropy_source_4 : ∃ (c : Crypto) (i j : Nat) (x y : Context),
    c.victim = some i ∧ c.contexts.getD i none = some x ∧ j < 4 ∧ c.contexts.getD j none = some y ∧
    y.byLc = false ∧ x.prio = y.prio ∧ y.job.ecc = false :=
    ⟨working (ctx none (.sha [])), _, 3, _, _, rfl, rfl, by decide, rfl, by decide⟩

theorem witness_lc_contexts_and_the_entropy_source_5 : ∃ (s u : State) (dt : Ticks) (bits : List Bool),
    s.elapse dt = u ∧ u.crypto.seeded = true ∧ (u.crypto.noise.run_ bits).2 = none :=
    ⟨crypto (keyed 3), _, at0, [], rfl, by decide⟩

theorem witness_lc_contexts_and_the_entropy_source_6 : ∃ (s u : State) (dt : Ticks) (bits : List Bool), ∃ rct,
    s.elapse dt = u ∧ u.crypto.seeded = true ∧ (u.crypto.noise.run_ bits).2 = some rct :=
    ⟨crypto (keyed 3), _, at0, List.replicate 41 false, true, rfl, by decide +kernel⟩

theorem witness_lc_contexts_and_the_entropy_source_7 : ∃ (s u v : State) (dt : Ticks) (noise : BitVec 1024),
    s.elapse dt = u ∧ u.crypto.seeded = false ∧ u.crypto.entropyFail = true ∧ u.crypto.latched = false ∧
    u.crypto.failedAt + 1000000000 ≤ u.mono ∧ v = u.modCrypto (fun c => { c with noise := (startTests noise).1 }) ∧
    (startTests noise).2 = none ∧ (∀ i < 3, (u.port i).state ≠ 5) :=
    ⟨crypto { Crypto.reset with entropyFail := true }, _, _, at0, lively, rfl, by decide +kernel,
    by decide +kernel, by decide +kernel, by decide +kernel, rfl, by decide +kernel⟩

theorem witness_lc_contexts_and_the_entropy_source_8 : ∃ (s u v : State) (dt : Ticks) (noise : BitVec 1024), ∃ rct,
    s.elapse dt = u ∧ u.crypto.seeded = false ∧ u.crypto.entropyFail = true ∧ u.crypto.latched = false ∧
    u.crypto.failedAt + 1000000000 ≤ u.mono ∧ v = u.modCrypto (fun c => { c with noise := (startTests noise).1 }) ∧
    (startTests noise).2 = some rct :=
    ⟨crypto { Crypto.reset with entropyFail := true }, _, _, at0, 0, true, rfl, by decide +kernel,
    by decide +kernel, by decide +kernel, by decide +kernel, rfl, by decide +kernel⟩

theorem witness_lc_contexts_and_the_entropy_source_9 : ∃ (s u : State) (dt : Ticks), s.elapse dt = u ∧
    u.crypto.latched = true :=
    ⟨crypto { Crypto.reset with latched := true }, _, at0, rfl, by decide⟩

theorem witness_lc_contexts_and_the_entropy_source_10 : ∃ (s u : State) (dt : Ticks), s.elapse dt = u ∧
    u.crypto.seeded = true ∧ (65536 ≤ u.crypto.generates ∨ u.crypto.reseedAt + 60000000000 ≤ u.mono) :=
    ⟨crypto { keyed 3 with generates := 65536 }, _, at0, rfl, by decide⟩

theorem witness_observation_commands_answer_1 : ∃ (s u : State) (dt : Ticks) (c : Call) (p : Bytes) (f : InFlight),
    ∃ der, Serves s dt u c 0x0902 p 4 f ∧ p.length = 4 ∧ field p 0 1 ≤ 5 ∧ rsv p 1 1 = true ∧
    der = (certificate (field p 0 1)).take 1024 ∧ field p 2 2 < der.length :=
    ⟨srv run 0x0902 ([5, 0, 0, 0]), _, at0, hc, [5, 0, 0, 0], fl 0x0902 ([5, 0, 0, 0]), _, ⟨rfl, by decide,
    by decide⟩, by decide, by decide, by decide, rfl, by decide⟩

theorem witness_observation_commands_answer_2 : ∃ (s u : State) (dt : Ticks) (c : Call) (p : Bytes) (f : InFlight),
    Serves s dt u c 0x0A04 p (4 * field p 2 2) f ∧ p.length = 4 ∧ 1 ≤ field p 2 2 ∧
    field p 0 2 + field p 2 2 ≤ 1020 :=
    ⟨srv run 0x0A04 [0xFB, 3, 1, 0], _, at0, hc, [0xFB, 3, 1, 0], fl 0x0A04 [0xFB, 3, 1, 0], ⟨rfl, by decide,
    by decide⟩, by decide⟩

theorem witness_observation_commands_answer_3 : ∃ (s u : State) (dt : Ticks) (c : Call) (p : Bytes) (f : InFlight),
    Serves s dt u c 0x0A06 p 263 f ∧ p.length = 1 ∧ field p 0 1 < 64 ∧ (u.mbusRun (field p 0 1)).raw = none :=
    ⟨srv run 0x0A06 [63], _, at0, hc, [63], fl 0x0A06 [63], ⟨rfl, by decide, by decide⟩, by decide⟩

theorem witness_observation_commands_answer_4 : ∃ (s u : State) (dt : Ticks) (c : Call) (p raw : Bytes) (f : InFlight) (t : Nat),
    Serves s dt u c 0x0A06 p 263 f ∧ p.length = 1 ∧ field p 0 1 < 64 ∧ (u.mbusRun (field p 0 1)).raw = some raw ∧
    (u.mbusRun (field p 0 1)).lastOk = some t :=
    ⟨srv (metered { MbusEntry.reset with raw := some [7], lastOk := some 5 }) 0x0A06 [63], _, at0, hc, [63], _,
    fl 0x0A06 [63], _, ⟨rfl, by decide, by decide⟩, by decide, by decide, rfl, rfl⟩

theorem witness_observation_commands_answer_5 : ∃ (s u : State) (dt : Ticks) (c : Call) (p : Bytes) (f : InFlight),
    Serves s dt u c 0x0A05 p (16 * field p 1 1) f ∧ p.length = 2 ∧ 1 ≤ field p 1 1 ∧
    field p 0 1 + field p 1 1 ≤ 64 ∧ (∀ i,
    field p 0 1 ≤ i → i < field p 0 1 + field p 1 1 → (u.mbusRun i).lastOk.isSome = true ∧
    (u.mbusMode i = 0 ∨ (u.mbusRun i).responding.isSome = true)) :=
    ⟨srv (metered { MbusEntry.reset with responding := some true, lastOk := some 5 }) 0x0A05 ([0, 64]), _, at0, hc,
    [0, 64], fl 0x0A05 ([0, 64]), ⟨rfl, by decide, by decide⟩, by decide, by decide, by decide,
    by intro i h0 h; have h1 : i < 64 := h; clear h h0; revert h1; revert i; decide +kernel⟩

theorem witness_observation_commands_answer_6 : ∃ (s u : State) (dt : Ticks) (c : Call) (p : Bytes) (f : InFlight) (i t : Nat) (r : Bool),
    Serves s dt u c 0x0A05 p 16 f ∧ p.length = 2 ∧ field p 0 1 = i ∧ field p 1 1 = 1 ∧ i < 64 ∧ u.mbusMode i ≠ 0 ∧
    (u.mbusRun i).responding = some r ∧ (u.mbusRun i).lastOk = some t :=
    ⟨srv (metered { MbusEntry.reset with responding := some true, lastOk := some 5 }) 0x0A05 [0, 1], _, at0, hc,
    [0, 1], fl 0x0A05 [0, 1], 0, _, _, ⟨rfl, by decide, by decide⟩, by decide, by decide, by decide, by decide,
    by decide, rfl, rfl⟩

theorem witness_observation_commands_answer_7 : ∃ (s u : State) (dt : Ticks) (c : Call) (p : Bytes) (f : InFlight),
    Serves s dt u c 0x0A03 p 16 f ∧ p = [] :=
    ⟨srv run 0x0A03 [], _, at0, hc, [], fl 0x0A03 [], ⟨rfl, by decide, by decide⟩, by decide⟩

theorem witness_captures_start_and_stop_1 : ∃ (s u : State) (dt : Ticks) (c : Call) (p : Bytes) (f : InFlight),
    Serves s dt u c 0x0A01 p 8 f ∧ p.length = 8 ∧ rsv p 3 1 = true ∧ field p 2 1 ≤ 15 ∧ field p 0 2 ≠ 0 ∧
    u.skim.capture = none ∧ (∀ n < 16, bit (field p 0 2) n = true → u.captures n = true) :=
    ⟨srv (par [(0x1011, [1])]) 0x0A01 ([1, 0, 15, 0] ++ zeros 4), _, at0, hc, [1, 0, 15, 0] ++ zeros 4,
    fl 0x0A01 ([1, 0, 15, 0] ++ zeros 4), ⟨rfl, by decide, by decide⟩, by decide⟩

theorem witness_captures_start_and_stop_2 : ∃ (s u : State) (dt : Ticks) (c : Call) (p : Bytes) (f : InFlight),
    Serves s dt u c 0x0A01 p 8 f ∧ p.length = 8 ∧ rsv p 3 1 = true ∧ field p 2 1 ≤ 15 ∧ field p 0 2 ≠ 0 ∧
    (u.skim.capture.isSome = true ∨ ∃ n < 16, bit (field p 0 2) n = true ∧ u.captures n = false) :=
    ⟨srv run 0x0A01 ([1, 0, 15, 0] ++ zeros 4), _, at0, hc, [1, 0, 15, 0] ++ zeros 4, fl 0x0A01 ([1, 0, 15,
    0] ++ zeros 4), ⟨rfl, by decide, by decide⟩, by decide⟩

theorem witness_captures_start_and_stop_3 : ∃ (s u : State) (dt : Ticks) (c : Call) (p : Bytes) (f : InFlight),
    Serves s dt u c 0x0A02 p 0 f ∧ p = [] ∧ u.skim.capture.isSome = true :=
    ⟨srv capturing 0x0A02 [], _, at0, hc, [], fl 0x0A02 [], ⟨rfl, by decide, by decide⟩, by decide⟩

theorem witness_captures_start_and_stop_4 : ∃ (s u : State) (dt : Ticks) (c : Call) (p : Bytes) (f : InFlight),
    Serves s dt u c 0x0A02 p 0 f ∧ p = [] ∧ u.skim.capture = none :=
    ⟨srv run 0x0A02 ([]), _, at0, hc, [], fl 0x0A02 ([]), ⟨rfl, by decide, by decide⟩, by decide⟩

theorem witness_captures_start_and_stop_5 : ∃ (s : State) (c : Capture) (f : InFlight), s.skim.capture = some c ∧
    (∀ b ∈ s.skim.blocks, 16 ≤ b.src) ∧ s.accepted c.call 0x0A01 = some f :=
    ⟨{ going Crypto.reset 0x0A01 with skim := { Skim.reset with capture := some ⟨hc, 1, 0, none, 0, 0, false⟩ } },
    _, _, rfl, by decide, rfl⟩

theorem witness_captures_start_and_stop_6 : ∃ (s u : State) (dt : Ticks) (n : Nat), s.elapse dt = u ∧ n < 16 ∧
    u.ready = true ∧ 4 ≤ (u.channel n).capUnread :=
    ⟨unread, _, at0, 15, rfl, by decide⟩

theorem witness_captures_start_and_stop_6_none : ∃ (s u : State) (dt : Ticks) (n : Nat), s.elapse dt = u ∧ n < 16 ∧
    u.ready = true ∧ ¬ 4 ≤ (u.channel n).capUnread :=
    ⟨run, _, at0, 15, rfl, by decide⟩

theorem witness_captures_start_and_stop_6_runs : ∃ (s : State) (c : Capture), s.skim.capture = some c ∧
    c.stopping = false :=
    ⟨capturing, _, rfl, rfl⟩

theorem witness_captures_start_and_stop_6_stops : ∃ (s : State) (c : Capture), s.skim.capture = some c ∧
    c.stopping = true :=
    ⟨{ run with skim := { Skim.reset with capture := some ⟨hc, 1, 0, none, 0, 0, true⟩ } }, _, rfl, rfl⟩

theorem witness_captures_start_and_stop_7 : ∃ (s : State) (n : Nat), n < s.channels.length ∧
    4 ≤ (s.channel n).capUnread ∧ s.skim.capture = none ∧
    (pointsWhere (fun m => s.mpType m == typeHeat && s.mpSub m == 1 && (bindPch (s.binding m) 0 == n || bindPch (s.binding m) 1 == n))) = [] :=
    ⟨unread, 15, by decide⟩

theorem witness_staging_fills_the_other_bank_1 : ∃ (s u : State) (dt : Ticks) (c : Call) (p : Bytes) (f : InFlight),
    Serves s dt u c 0x0801 p 36 f ∧ p = [] :=
    ⟨srv run 0x0801 [], _, at0, hc, [], fl 0x0801 [], ⟨rfl, by decide, by decide⟩, by decide⟩

theorem witness_staging_fills_the_other_bank_2 : ∃ (s u : State) (dt : Ticks) (c : Call) (p : Bytes) (f : InFlight) (k : Nat),
    Serves s dt u c 0x0802 p 1 f ∧ p.length = 12 ∧ rsv p 1 3 = true ∧ field p 0 1 = k + 2 ∧ k < 4 ∧
    257 ≤ field p 4 4 ∧ u.stageStatus k (field p 4 4) = stDone :=
    ⟨srv run 0x0802 ([5, 0, 0, 0] ++ leBytes 4 257 ++ zeros 4), _, at0, hc, [5, 0, 0, 0] ++ leBytes 4 257 ++
    zeros 4, fl 0x0802 ([5, 0, 0, 0] ++ leBytes 4 257 ++ zeros 4), 3, ⟨rfl, by decide, by decide⟩, by decide⟩

theorem witness_staging_fills_the_other_bank_3 : ∃ (s u : State) (dt : Ticks) (c : Call) (p : Bytes) (f : InFlight) (k : Nat),
    Serves s dt u c 0x0802 p 1 f ∧ p.length = 12 ∧ rsv p 1 3 = true ∧ field p 0 1 = k + 2 ∧ k < 4 ∧
    257 ≤ field p 4 4 ∧ u.stageStatus k (field p 4 4) ≠ stDone :=
    ⟨srv { run with update := { Update.reset with staging := some ⟨2, false, 1000, 0, 999, none, []⟩ } } 0x0802
    ([5, 0, 0, 0] ++ leBytes 4 257 ++ zeros 4), _, at0, hc, [5, 0, 0, 0] ++ leBytes 4 257 ++ zeros 4, fl 0x0802
    ([5, 0, 0, 0] ++ leBytes 4 257 ++ zeros 4), 3, ⟨rfl, by decide, by decide⟩, by decide⟩

theorem witness_staging_fills_the_other_bank_4 : ∃ (s u : State) (dt : Ticks) (c : Call) (p : Bytes) (f : InFlight) (g : Staging),
    Serves s dt u c 0x0803 p 0 f ∧ 9 ≤ p.length ∧ p.length ≤ 4096 ∧ rsv p 4 4 = true ∧ u.update.staging = some g ∧
    field p 0 4 = g.staged ∧ g.staged + (p.length - 8) ≤ g.size ∧ u.windowShut g.component g.bankB = false :=
    ⟨srv { run with update := { Update.reset with staging := some ⟨2, false, 1000, 0, 999, none, []⟩ } } 0x0803
    (leBytes 4 999 ++ zeros 4 ++ [7]), _, at0, hc, leBytes 4 999 ++ zeros 4 ++ [7], fl 0x0803 (leBytes 4 999 ++
    zeros 4 ++ [7]), _, ⟨rfl, by decide, by decide⟩, by decide, by decide, by decide, rfl, by decide⟩

theorem witness_staging_fills_the_other_bank_5 : ∃ (s u : State) (dt : Ticks) (c : Call) (p : Bytes) (f : InFlight),
    Serves s dt u c 0x0803 p 0 f ∧ 9 ≤ p.length ∧ p.length ≤ 4096 ∧ rsv p 4 4 = true ∧ u.update.staging = none :=
    ⟨srv run 0x0803 (zeros 9), _, at0, hc, zeros 9, fl 0x0803 (zeros 9), ⟨rfl, by decide, by decide⟩, by decide⟩

theorem witness_staging_fills_the_other_bank_6 : ∃ (s u : State) (dt : Ticks) (c : Call) (p : Bytes) (f : InFlight) (g : Staging),
    Serves s dt u c 0x0803 p 0 f ∧ 9 ≤ p.length ∧ p.length ≤ 4096 ∧ rsv p 4 4 = true ∧ u.update.staging = some g ∧
    (field p 0 4 ≠ g.staged ∨ g.size < g.staged + (p.length - 8)) :=
    ⟨srv ({ run with
        update := { Update.reset with staging := some ⟨2, false, 1000, 0, 999, none, []⟩ } }) 0x0803 (zeros 9),
    _, at0, hc, zeros 9, fl 0x0803 (zeros 9), _, ⟨rfl, by decide, by decide⟩, by decide, by decide, by decide, rfl,
    by decide⟩

theorem witness_staging_fills_the_other_bank_7 : ∃ (s u : State) (dt : Ticks) (c : Call) (p : Bytes) (f : InFlight) (g : Staging),
    Serves s dt u c 0x0803 p 0 f ∧ 9 ≤ p.length ∧ p.length ≤ 4096 ∧ rsv p 4 4 = true ∧ u.update.staging = some g ∧
    field p 0 4 = g.staged ∧ g.staged + (p.length - 8) ≤ g.size ∧ u.windowShut g.component g.bankB = true :=
    ⟨srv ({ run with
        mem := { MemSys.reset with windows := [⟨flashBase, 0x4000000, true⟩] }
        update := { Update.reset with
            staging := some ⟨2, false, 1000, 0, 999, none, []⟩ } }) 0x0803 (leBytes 4 999 ++ zeros 4 ++ [7]),
    _, at0, hc, leBytes 4 999 ++ zeros 4 ++ [7], fl 0x0803 (leBytes 4 999 ++ zeros 4 ++ [7]), _, ⟨rfl, by decide,
    by decide⟩, by decide, by decide, by decide, rfl, by decide⟩

theorem witness_staging_fills_the_other_bank_8 : ∃ (s u : State) (dt : Ticks) (c : Call) (p : Bytes) (f : InFlight) (g : Staging),
    Serves s dt u c 0x0804 p 0 f ∧ p.length = 1 ∧ 2 ≤ field p 0 1 ∧ field p 0 1 ≤ 5 ∧ u.update.staging = some g ∧
    g.component + 2 = field p 0 1 :=
    ⟨srv { run with update := { Update.reset with staging := some ⟨2, false, 1000, 0, 999, none, []⟩ } } 0x0804
    [4], _, at0, hc, [4], fl 0x0804 [4], _, ⟨rfl, by decide, by decide⟩, by decide, by decide, by decide, rfl,
    by decide⟩

theorem witness_staging_fills_the_other_bank_9 : ∃ (s u : State) (dt : Ticks) (c : Call) (p : Bytes) (f : InFlight) (g : Staging),
    Serves s dt u c 0x0805 p 0 f ∧ p.length = 1 ∧ 2 ≤ field p 0 1 ∧ field p 0 1 ≤ 5 ∧ u.update.staging = some g ∧
    g.component + 2 = field p 0 1 :=
    ⟨srv { run with update := { Update.reset with staging := some ⟨2, false, 1000, 0, 999, none, []⟩ } } 0x0805
    [4], _, at0, hc, [4], fl 0x0805 [4], _, ⟨rfl, by decide, by decide⟩, by decide, by decide, by decide, rfl,
    by decide⟩

theorem witness_staging_fills_the_other_bank_10 : ∃ (s u : State) (dt : Ticks) (c : Call) (p : Bytes) (f : InFlight),
    p.length = 1 ∧ 2 ≤ field p 0 1 ∧ field p 0 1 ≤ 5 ∧ (∀ g,
    u.update.staging = some g → g.component + 2 ≠ field p 0 1) ∧ Serves s dt u c 0x0804 p 0 f :=
    ⟨srv run 0x0804 ([5]), _, at0, hc, [5], fl 0x0804 ([5]), by decide, by decide, by decide,
    by rintro g ⟨⟩, ⟨rfl, by decide, by decide⟩⟩

theorem witness_staging_fills_the_other_bank_11 : ∃ (s u : State) (dt : Ticks) (c : Call) (p : Bytes) (f : InFlight),
    p.length = 1 ∧ 2 ≤ field p 0 1 ∧ field p 0 1 ≤ 5 ∧ (∀ g,
    u.update.staging = some g → g.component + 2 ≠ field p 0 1) ∧ Serves s dt u c 0x0805 p 0 f :=
    ⟨srv run 0x0805 ([5]), _, at0, hc, [5], fl 0x0805 ([5]), by decide, by decide, by decide,
    by rintro g ⟨⟩, ⟨rfl, by decide, by decide⟩⟩

theorem witness_staging_fills_the_other_bank_12 : ∃ (s u : State) (dt : Ticks) (c : Call) (p : Bytes) (f : InFlight) (b : Bool),
    Serves s dt u c 0x0807 p 256 f ∧ p.length = 2 ∧ 2 ≤ field p 0 1 ∧ field p 0 1 ≤ 5 ∧ field p 1 1 = b2n b :=
    ⟨srv run 0x0807 [5, 1], _, at0, hc, [5, 1], fl 0x0807 [5, 1], true, ⟨rfl, by decide, by decide⟩, by decide⟩

theorem witness_staging_fills_the_other_bank_13 : ∃ (s : State) (g : Staging),
    g.component < s.boot.components.length :=
    ⟨run, ⟨3, false, 1000, 0, 999, none, []⟩, by decide⟩

theorem witness_activate_follows_its_checks_1 : ∃ (s u : State) (dt : Ticks) (c : Call) (p : Bytes) (f : InFlight) (k : Nat),
    Serves s dt u c 0x0806 p 4 f ∧ p.length = 1 ∧ field p 0 1 = k + 2 ∧ k < 4 ∧ u.activateStatus k ≠ stDone :=
    ⟨srv run 0x0806 [5], _, at0, hc, [5], fl 0x0806 [5], 3, ⟨rfl, by decide, by decide⟩, by decide⟩

theorem witness_activate_follows_its_checks_2 : ∃ (s u : State) (dt : Ticks) (c : Call) (p : Bytes) (f : InFlight) (k : Nat),
    Serves s dt u c 0x0806 p 4 f ∧ p.length = 1 ∧ field p 0 1 = k + 2 ∧ k < 2 ∧ u.activateStatus k = stDone ∧
    u.gateOpen = true :=
    ⟨srv (comp 1 spare) 0x0806 [3], _, at0, hc, [3], fl 0x0806 [3], 1, ⟨rfl, by decide, by decide⟩, by decide⟩

theorem witness_activate_follows_its_checks_3 : ∃ (s u : State) (dt : Ticks) (c : Call) (p : Bytes) (f : InFlight) (k : Nat),
    Serves s dt u c 0x0806 p 4 f ∧ p.length = 1 ∧ field p 0 1 = k + 2 ∧ (k = 2 ∨ k = 3) ∧
    u.activateStatus k = stDone ∧ u.pnum 0x7000 ≠ 1 ∧ u.ports.vbatLow = false ∧ u.anyMoving = false ∧
    u.newMeets k (u.manifest k (!(u.component k).activeB)) u.running = true :=
    ⟨srv (comp 3 spare) 0x0806 [5], _, at0, hc, [5], fl 0x0806 [5], 3, ⟨rfl, by decide, by decide⟩, by decide⟩

theorem witness_activate_follows_its_checks_4 : ∃ (s u : State) (dt : Ticks) (c : Call) (p : Bytes) (f : InFlight) (k st : Nat),
    Serves s dt u c 0x0806 p 4 f ∧ p.length = 1 ∧ field p 0 1 = k + 2 ∧ (k = 2 ∨ k = 3) ∧
    u.activateStatus k = stDone ∧
    st = (if u.pnum 0x7000 = 1 then stDeniedLock else if u.ports.vbatLow then stLowBattery else if u.anyMoving then stMoving else if u.newMeets k (u.manifest k (!(u.component k).activeB)) u.running then stDone else stIncompatible) ∧
    st ≠ stDone :=
    ⟨srv ({ comp 3 spare with params := [(0x7000, [1])] }) 0x0806 ([5]), _, at0, hc, [5], fl 0x0806 ([5]), 3, _,
    ⟨rfl, by decide +kernel, by decide +kernel⟩, by decide +kernel, by decide +kernel, by decide +kernel,
    by decide +kernel, rfl, by decide +kernel⟩

theorem witness_activate_follows_its_checks_5 : ∃ (s : State) (k : Nat), k < s.boot.components.length :=
    ⟨run, 3, by decide⟩

theorem witness_activate_follows_its_checks_6 : ∃ (s u : State) (dt : Ticks) (r : GateRequest) (k : Nat),
    s.elapse dt = u ∧ u.nextRequest 0x0E = some r ∧ u.legal.activation = none ∧ r.payload.length = 772 ∧
    field r.payload 0 1 = k + 2 ∧ k < 2 ∧ u.requestVerifies k (slice r.payload 4 256) = true ∧
    u.legal.sealOpen = true ∧ u.pnum 0x7000 ≠ 1 ∧ u.ports.vbatLow = false ∧ u.anyMoving = false ∧
    (∀ x ∈ partners k, u.partnerVerifies x.2 (requestPartner k r.payload x.2) = true) ∧
    u.newMeets k (slice r.payload 4 256) (requestPartner k r.payload) = true ∧ u.legal.sealLog.length < 248 :=
    ⟨asking (comp 1 spare) { Legal.reset with sealOpen := true } (asked 0x0E ([3] ++ zeros 771)), _, at0, _, 1,
    rfl, rfl, by decide +kernel⟩

theorem witness_activate_follows_its_checks_7 : ∃ (s u : State) (dt : Ticks) (r : GateRequest) (k : Nat),
    s.elapse dt = u ∧ u.nextRequest 0x0E = some r ∧ u.legal.activation = none ∧ r.payload.length = 772 ∧
    field r.payload 0 1 = k + 2 ∧ k < 2 ∧ u.requestVerifies k (slice r.payload 4 256) = true ∧
    u.legal.sealOpen = false :=
    ⟨asking (comp 1 spare) Legal.reset (asked 0x0E ([3] ++ zeros 771)), _, at0, _, 1, rfl, rfl,
    by decide +kernel⟩

theorem witness_activate_follows_its_checks_8 : ∃ (s u : State) (dt : Ticks) (r : GateRequest) (k : Nat),
    s.elapse dt = u ∧ u.nextRequest 0x0E = some r ∧ u.legal.activation = none ∧ r.payload.length = 772 ∧
    field r.payload 0 1 = k + 2 ∧ k < 2 ∧ u.requestVerifies k (slice r.payload 4 256) = false :=
    ⟨asking run Legal.reset (asked 0x0E ([3] ++ zeros 771)), _, at0, _, 1, rfl, rfl, by decide +kernel⟩

theorem witness_activate_follows_its_checks_9 : ∃ (s u : State) (dt : Ticks) (r : GateRequest) (k : Nat), ∃ st,
    s.elapse dt = u ∧ u.nextRequest 0x0E = some r ∧ u.legal.activation = none ∧ r.payload.length = 772 ∧
    field r.payload 0 1 = k + 2 ∧ k < 2 ∧ u.requestVerifies k (slice r.payload 4 256) = true ∧
    u.legal.sealOpen = true ∧
    st = (if u.pnum 0x7000 = 1 then stDeniedLock else if u.ports.vbatLow then stLowBattery else if u.anyMoving then stMoving else if (partners k).all (fun x => u.partnerVerifies x.2 (requestPartner k r.payload x.2)) && u.newMeets k (slice r.payload 4 256) (requestPartner k r.payload) then stDone else stIncompatible) ∧
    st ≠ stDone :=
    ⟨{ asking (comp 1 spare) { Legal.reset with sealOpen := true } (asked 0x0E ([3] ++ zeros 771)) with
        params := [(0x7000, [1])] },
    _, at0, _, 1, _, rfl, rfl, by decide +kernel, by decide +kernel, by decide +kernel, by decide +kernel,
    by decide +kernel, by decide +kernel, rfl, by decide +kernel⟩

theorem witness_activate_follows_its_checks_10 : ∃ (s u : State) (dt : Ticks) (r : GateRequest) (k : Nat), ∃ st,
    s.elapse dt = u ∧ u.nextRequest 0x0E = some r ∧ u.legal.activation = none ∧ r.payload.length = 772 ∧
    field r.payload 0 1 = k + 2 ∧ k < 2 ∧ u.requestVerifies k (slice r.payload 4 256) = true ∧
    u.legal.sealOpen = true ∧
    st = (if u.pnum 0x7000 = 1 then stDeniedLock else if u.ports.vbatLow then stLowBattery else if u.anyMoving then stMoving else if (partners k).all (fun x => u.partnerVerifies x.2 (requestPartner k r.payload x.2)) && u.newMeets k (slice r.payload 4 256) (requestPartner k r.payload) then stDone else stIncompatible) ∧
    st = stDone ∧ 248 ≤ u.legal.sealLog.length :=
    ⟨asking (comp 1 spare) { Legal.reset with
        sealOpen := true
        sealLog := List.replicate 248 entry } (asked 0x0E ([3] ++ zeros 771)),
    _, at0, _, 1, _, rfl, rfl, by decide +kernel, by decide +kernel, by decide +kernel, by decide +kernel,
    by decide +kernel, by decide +kernel, rfl, rfl, by decide +kernel⟩

theorem witness_activate_follows_its_checks_11 : ∃ (s u : State) (dt : Ticks) (a : LegalActivation) (r : GateRequest),
    s.elapse dt = u ∧ u.legal.activation = some a ∧ u.legalRuns = true ∧ a.after < u.legal.lastCommit ∧
    u.gate.requests.find? (fun x => x.gseq == a.gseq) = some r :=
    ⟨asking run { Legal.reset with activation := some ⟨0, true, 5, .host, 0, 0⟩, lastCommit := 1 } (asked 0x0E
    []), _, at0, _, _, rfl, rfl, by decide, by decide, rfl⟩

theorem witness_trials_end_confirmed_or_reverted_1 : ∃ (s u : State) (dt : Ticks) (t : Nat), s.elapse dt = u ∧
    u.boot.pauseFrom = some t ∧ u.lcAlive = true ∧ u.boot.legalReady = false ∧ t + 650000000 ≤ u.nodeTime :=
    ⟨boot { run.boot with legalReady := false, pauseFrom := some 9999350000000 }, _, at0, _, rfl, rfl, by decide⟩

theorem witness_trials_end_confirmed_or_reverted_2 : ∃ (s u : State) (dt : Ticks) (a : Activation),
    s.elapse dt = u ∧ u.update.activation = some a ∧ a.component = 2 ∧ a.switched = true ∧ u.boot.stage = 6 ∧
    a.since + 1800000000 ≤ u.mono :=
    ⟨{ boot { run.boot with stage := 6 } with
        update := { Update.reset with activation := some ⟨2, true, .host, 1, 9998200000000, true⟩ } },
    _, at0, _, rfl, rfl, by decide⟩

theorem witness_trials_end_confirmed_or_reverted_3 : ∃ (s u : State) (dt : Ticks) (t : Nat), s.elapse dt = u ∧
    u.inTrial 2 = true ∧ (u.component 2).trialSince = some t ∧ u.mono < t + 300000000000 ∧ u.healthy 2 = true :=
    ⟨{ comp 2 trial with update := { Update.reset with gateSeen := true } }, _, at0, _, rfl, by decide, rfl,
    by decide⟩

theorem witness_trials_end_confirmed_or_reverted_4 : ∃ (s u : State) (dt : Ticks) (t : Nat), s.elapse dt = u ∧
    u.inTrial 3 = true ∧ (u.component 3).trialSince = some t ∧ u.mono < t + 300000000000 ∧ u.healthy 3 = true :=
    ⟨comp 3 trial, _, at0, _, rfl, by decide, rfl, by decide⟩

theorem witness_trials_end_confirmed_or_reverted_5 : ∃ (s u : State) (dt : Ticks) (t k : Nat), s.elapse dt = u ∧
    k < 2 ∧ u.inTrial k = true ∧ (u.component k).trialSince = some t ∧ u.mono < t + 300000000000 ∧
    u.healthy k = true :=
    ⟨{ comp 1 trial with
        display := { Display.reset with legalWritten := some 9900000000000 }
        legal := { Legal.reset with slotsBefore := some (zeros 32, zeros 32) } },
    _, at0, _, 1, rfl, by decide, by decide, rfl, by decide⟩

theorem witness_trials_end_confirmed_or_reverted_6 : ∃ (s : State) (k : Nat), k < s.boot.components.length ∧
    (s.component k).active.state = .trial :=
    ⟨comp 1 trial, 1, by decide +kernel⟩

theorem witness_trials_end_confirmed_or_reverted_7 : ∃ (s u : State) (dt : Ticks) (t : Nat), s.elapse dt = u ∧
    u.inTrial 2 = true ∧ (u.component 2).trialSince = some t ∧ t + 300000000000 ≤ u.mono :=
    ⟨comp 2 { trial with trialSince := some 9700000000000 }, _, at0, _, rfl, by decide, rfl, by decide⟩

theorem witness_trials_end_confirmed_or_reverted_8 : ∃ (s u : State) (dt : Ticks) (t : Nat), s.elapse dt = u ∧
    u.inTrial 3 = true ∧ (u.component 3).trialSince = some t ∧ t + 300000000000 ≤ u.mono :=
    ⟨comp 3 { trial with trialSince := some 9700000000000 }, _, at0, _, rfl, by decide, rfl, by decide⟩

theorem witness_trials_end_confirmed_or_reverted_9 : ∃ (s u : State) (dt : Ticks) (t k : Nat), s.elapse dt = u ∧
    k < 2 ∧ u.inTrial k = true ∧ (u.component k).trialSince = some t ∧ t + 300000000000 ≤ u.mono :=
    ⟨comp 1 { trial with trialSince := some 9700000000000 }, _, at0, _, 1, rfl, by decide, by decide, rfl,
    by decide⟩

theorem witness_trials_end_confirmed_or_reverted_10 : ∃ (s u : State) (dt : Ticks) (x : Bytes) (t : Nat),
    s.elapse dt = u ∧ u.ports.servicePending = some (x, t) ∧ t + 60000000000 ≤ u.mono ∧ u.ports.usbSession = false :=
    ⟨{ run with ports := { Ports.reset with servicePending := some ([], 9940000000000) } }, _, at0, _, _, rfl,
    rfl, by decide⟩

theorem witness_fabric_commands_answer_1 : ∃ (s u : State) (dt : Ticks) (c : Call) (p : Bytes) (f : InFlight),
    Serves s dt u c 0x0701 p 20 f ∧ p = [] :=
    ⟨srv run 0x0701 [], _, at0, hc, [], fl 0x0701 [], ⟨rfl, by decide, by decide⟩, by decide⟩

theorem witness_fabric_commands_answer_2 : ∃ (s u : State) (dt : Ticks) (c : Call) (p : Bytes) (f : InFlight) (i : Nat),
    Serves s dt u c 0x0702 p 32 f ∧ p.length = 1 ∧ field p 0 1 = i ∧ i ≤ 2 :=
    ⟨srv run 0x0702 [2], _, at0, hc, [2], fl 0x0702 [2], 2, ⟨rfl, by decide, by decide⟩, by decide⟩

theorem witness_fabric_commands_answer_3 : ∃ (s u : State) (dt : Ticks) (c : Call) (p : Bytes) (f : InFlight) (i : Nat) (on : Bool),
    Serves s dt u c 0x0703 p 0 f ∧ p.length = 2 ∧ field p 0 1 = i ∧ i ≤ 2 ∧ field p 1 1 = b2n on ∧
    c.origin ≠ .fabric ∧ bit (u.pnum 0x5001) i = !on :=
    ⟨srv run 0x0703 [2, 0], _, at0, hc, [2, 0], fl 0x0703 [2, 0], 2, false, ⟨rfl, by decide, by decide⟩,
    by decide⟩

theorem witness_fabric_commands_answer_4 : ∃ (s u : State) (dt : Ticks) (c : Call) (p : Bytes) (f : InFlight) (l : List Lsa),
    Serves s dt u c 0x0704 p (8 + 16 * field p 2 2) f ∧ p.length = 4 ∧ 1 ≤ field p 2 2 ∧ field p 2 2 ≤ 255 ∧
    l = (u.fabric.database.drop (field p 0 2)).take (field p 2 2) :=
    ⟨srv run 0x0704 [0, 0, 255, 0], _, at0, hc, [0, 0, 255, 0], fl 0x0704 [0, 0, 255, 0], _, ⟨rfl, by decide,
    by decide⟩, by decide, by decide, by decide, rfl⟩

theorem witness_fabric_commands_answer_5 : ∃ (s u : State) (dt : Ticks) (c : Call) (p : Bytes) (f : InFlight) (l : List Route),
    Serves s dt u c 0x0705 p (8 + 8 * field p 2 2) f ∧ p.length = 4 ∧ 1 ≤ field p 2 2 ∧ field p 2 2 ≤ 255 ∧
    l = (u.fabric.routes.drop (field p 0 2)).take (field p 2 2) :=
    ⟨srv run 0x0705 [0, 0, 1, 0], _, at0, hc, [0, 0, 1, 0], fl 0x0705 [0, 0, 1, 0], _, ⟨rfl, by decide,
    by decide⟩, by decide, by decide, by decide, rfl⟩

theorem witness_fabric_commands_answer_6 : ∃ (s u : State) (dt : Ticks) (c : Call) (p : Bytes) (f : InFlight) (i n : Nat),
    Serves s dt u c 0x0706 p 0 f ∧ p.length = 36 ∧ rsv p 2 2 = true ∧ field p 0 1 = i ∧ i ≤ 2 ∧ field p 1 1 = n ∧
    (n = 32 ∨ (n = 16 ∧ rsv p 20 16 = true)) :=
    ⟨srv run 0x0706 ([2, 16] ++ zeros 34), _, at0, hc, [2, 16] ++ zeros 34, fl 0x0706 ([2, 16] ++ zeros 34), 2,
    16, ⟨rfl, by decide, by decide⟩, by decide⟩

theorem witness_fabric_commands_answer_7 : ∃ (s u : State) (dt : Ticks) (c : Call) (p : Bytes) (f : InFlight) (e : Entry),
    e = Entry.ofBytes (slice p 4 64) ∧ Serves s dt u c 0x0707 p (64 + if e.bulk then e.bufCap else 0) f ∧
    68 ≤ p.length ∧ rsv p 2 2 = true ∧ 1 ≤ field p 0 2 ∧ field p 0 2 ≤ 0x3FFD ∧ p.length - 68 ≤ 4096 ∧
    p.length - 68 = (if e.bulk then e.length else 0) ∧ (e.bulk = true → e.bufCap ≤ 4096) :=
    ⟨srv run 0x0707 (leBytes 4 0x3FFD ++ zeros 64), _, at0, hc, leBytes 4 0x3FFD ++ zeros 64, fl 0x0707 (leBytes
    4 0x3FFD ++ zeros 64), _, rfl, ⟨rfl, by decide, by decide⟩, by decide⟩

theorem witness_resets_keep_what_mram_holds_1 : ∃ (s u : State) (dt : Ticks), s.elapse dt = u ∧
    u.boot.railsGood.getD 0 true = true :=
    ⟨run, _, at0, rfl, by decide⟩

theorem witness_resets_keep_what_mram_holds_2 : ∃ (s u : State) (dt : Ticks), s.elapse dt = u ∧
    u.boot.railsGood.getD 1 true = true :=
    ⟨run, _, at0, rfl, by decide⟩

theorem witness_resets_keep_what_mram_holds_3 : ∃ (s u : State) (dt : Ticks) (w : Nat), s.elapse dt = u ∧ 1000 ≤ w :=
    ⟨run, _, at0, 1000, rfl, by decide⟩

theorem witness_resets_keep_what_mram_holds_4 : ∃ (s u : State) (dt : Ticks) (w : Nat), s.elapse dt = u ∧ 100 < w ∧
    w < 1000 :=
    ⟨run, _, at0, 999, rfl, by decide⟩

theorem witness_resets_keep_what_mram_holds_5 : ∃ (s u : State) (dt : Ticks) (w : Nat), s.elapse dt = u ∧ w ≤ 100 :=
    ⟨run, _, at0, 100, rfl, by decide⟩

theorem witness_resets_keep_what_mram_holds_6 : ∃ (s u : State) (dt : Ticks), s.elapse dt = u ∧
    u.boot.railsGood.getD 2 true = true :=
    ⟨run, _, at0, rfl, by decide⟩

theorem witness_resets_keep_what_mram_holds_7 : ∃ (s u : State) (dt : Ticks) (cut : Cut), s.elapse dt = u ∧
    cut = .none ∧ u.display.update = none ∧ u.aon.mainPower = true ∧ u.aon.powered = true :=
    ⟨run, _, at0, .none, rfl, by decide⟩

theorem witness_resets_keep_what_mram_holds_8 : ∃ (s : State) (cut : Cut), cut = .none ∧ s.display.update = none :=
    ⟨run, .none, by decide⟩

theorem witness_release_starts_the_part_1 : ∃ (s u : State) (dt : Ticks) (env : StartEnv), s.elapse dt = u ∧
    u.boot.held = true ∧ u.aon.mainPower = true ∧ env.testHigh = false :=
    ⟨State.reset, _, at0, env0, rfl, by decide⟩

theorem witness_release_starts_the_part_2 : ∃ (s u : State) (dt : Ticks) (env : StartEnv), s.elapse dt = u ∧
    (u.boot.held = false ∨ u.aon.mainPower = false ∨ env.testHigh = true) :=
    ⟨run, _, at0, env0, rfl, by decide⟩

theorem witness_release_starts_the_part_3 : ∃ (s u : State) (dt : Ticks), s.elapse dt = u ∧ u.boot.stage = 2 ∧
    u.boot.xtal = false :=
    ⟨boot { run.boot with stage := 2 }, _, at0, rfl, by decide⟩

theorem witness_release_starts_the_part_4 : ∃ (s u : State) (dt : Ticks), s.elapse dt = u ∧ u.boot.stage = 2 ∧
    u.boot.xtal = true :=
    ⟨boot { run.boot with stage := 2, xtal := true }, _, at0, rfl, by decide⟩

theorem witness_release_starts_the_part_5 : ∃ (s u : State) (dt : Ticks) (noise : BitVec 1024), s.elapse dt = u ∧
    u.boot.stage = 3 ∧ u.boot.entropyWait + 1000000000 ≤ u.mono ∧ (startTests noise).2 = none :=
    ⟨boot { run.boot with stage := 3 }, _, at0, lively, rfl, by decide +kernel⟩

theorem witness_release_starts_the_part_6 : ∃ (s u : State) (dt : Ticks) (noise : BitVec 1024) (rct : Bool),
    s.elapse dt = u ∧ u.boot.stage = 3 ∧ u.boot.entropyWait + 1000000000 ≤ u.mono ∧
    (startTests noise).2 = some rct ∧ u.boot.entropyTries < 2 :=
    ⟨boot { run.boot with stage := 3, entropyTries := 1 }, _, at0, 0, true, rfl, by decide +kernel⟩

theorem witness_release_starts_the_part_7 : ∃ (s u : State) (dt : Ticks) (noise : BitVec 1024) (rct : Bool),
    s.elapse dt = u ∧ u.boot.stage = 3 ∧ u.boot.entropyWait + 1000000000 ≤ u.mono ∧
    (startTests noise).2 = some rct ∧ 2 ≤ u.boot.entropyTries :=
    ⟨boot { run.boot with stage := 3, entropyTries := 2 }, _, at0, 0, true, rfl, by decide +kernel⟩

theorem witness_release_starts_the_part_8 : ∃ (env : StartEnv), usableDensity env.flash = 0 :=
    ⟨{ env0 with flash := 31 }, by decide⟩

theorem witness_always_on_domain_keeps_tamper_1 : ∃ (a : AlwaysOn), a.levels = none :=
    ⟨{ AlwaysOn.reset with levels := none }, by decide⟩

theorem witness_always_on_domain_keeps_tamper_2 : ∃ (a : AlwaysOn) (b : PinLevels) (e : Nat → Bool → RetainedEntry),
    a.levels = some b ∧ a.buffer.length ≤ 61 ∧ (∀ source level, e source level = ⟨a.rtcSec, a.rtcFrac / 4096,
    source, b2n level, crc8 (leBytes 4 a.rtcSec ++ [byte (a.rtcFrac / 4096), byte source, byte (b2n level)])⟩) :=
    ⟨{ AlwaysOn.reset with levels := some ⟨true, true, true⟩, buffer := List.replicate 61 kept }, ⟨true, true,
    true⟩, _, by decide, by decide, fun _ _ => rfl⟩

theorem witness_always_on_domain_keeps_tamper_3 : ∃ (a : AlwaysOn), 64 ≤ a.buffer.length :=
    ⟨{ AlwaysOn.reset with buffer := List.replicate 64 kept }, by decide⟩

theorem witness_always_on_domain_keeps_tamper_4 : ∃ (s u : State) (dt : Ticks), s.elapse dt = u ∧
    u.legalRuns = true ∧ u.aon.powered = true ∧
    (u.aon.buffer ≠ [] ∨ u.aon.sealCount + u.aon.coverCount + u.aon.termCount ≠ 0) :=
    ⟨aon { AlwaysOn.reset with buffer := [kept] }, _, at0, rfl, by decide⟩

theorem witness_always_on_domain_keeps_tamper_5 : ∃ (s u : State) (dt : Ticks), s.elapse dt = u ∧
    u.aon.powered = false :=
    ⟨aon { AlwaysOn.reset with powered := false }, _, at0, rfl, by decide⟩

theorem witness_always_on_domain_keeps_tamper_6 : ∃ (s u : State) (dt : Ticks), s.elapse dt = u ∧
    u.aon.powered = true ∧ (u.aon.mainPower = false ∨ u.boot.railsGood.getD 1 true = false) :=
    ⟨aon { AlwaysOn.reset with mainPower := false }, _, at0, rfl, by decide⟩

theorem witness_always_on_domain_keeps_tamper_7 : ∃ (s u : State) (dt : Ticks), s.elapse dt = u ∧
    u.aon.powered = true ∧ u.aon.mainPower = false :=
    ⟨aon { AlwaysOn.reset with mainPower := false }, _, at0, rfl, by decide⟩

theorem witness_always_on_domain_keeps_tamper_8 : ∃ (s u : State) (dt : Ticks), s.elapse dt = u ∧
    u.legalRuns = true ∧ u.ntu.status = .fine ∧ u.ntu.rtcWriteAt + 3600000000000 ≤ u.mono ∧
    u.writeRtc.aon.powered = true :=
    ⟨run, _, at0, rfl, by decide⟩

theorem witness_always_on_domain_keeps_tamper_9 : ∃ (s : State), s.aon.powered = true :=
    ⟨run, by decide⟩

theorem witness_faults_restart_one_side_1 : ∃ (s u : State) (dt : Ticks), s.elapse dt = u ∧ u.lcAlive = true ∧
    u.boot.legalReady = false ∧ u.boot.legalStartAt + 1000000000 ≤ u.mono :=
    ⟨boot { run.boot with legalReady := false }, _, at0, rfl, by decide⟩

theorem witness_faults_restart_one_side_2 : ∃ (s u : State) (dt : Ticks), s.elapse dt = u ∧ u.acAlive = true :=
    ⟨run, _, at0, rfl, by decide⟩

theorem witness_faults_restart_one_side_3 : ∃ (s u : State) (dt : Ticks), s.elapse dt = u ∧ u.boot.stage = 6 ∧
    u.boot.appStartAt + 2000000000 ≤ u.mono :=
    ⟨boot { run.boot with stage := 6 }, _, at0, rfl, by decide⟩

theorem witness_faults_restart_one_side_4 : ∃ (s : State) (recent : List Nat),
    recent = (s.mono :: s.boot.acRestarts.filter (fun t => decide (s.mono ≤ t + 600000000000))).take 3 ∧
    recent.length < 3 :=
    ⟨run, [10000000000000], by decide⟩

theorem witness_faults_restart_one_side_5 : ∃ (s : State) (recent : List Nat),
    recent = (s.mono :: s.boot.acRestarts.filter (fun t => decide (s.mono ≤ t + 600000000000))).take 3 ∧
    recent.length = 3 :=
    ⟨boot { run.boot with acRestarts := [10000000000000, 9400000000000] }, [10000000000000, 10000000000000,
    9400000000000], by decide⟩

theorem witness_faults_restart_one_side_6 : ∃ a, 0x20000000 ≤ a ∧ a ≤ 0x203FFFFF :=
    ⟨0x203FFFFF, by decide⟩

theorem witness_modulator_clock_is_supervised_1 : ∃ (s u : State) (dt : Ticks) (g : Option Nat), s.elapse dt = u ∧
    u.prefersMclk = true ∧ (∀ p, g = some p → 40690 < 50 * ((p : Int) - 40690).natAbs) ∧ u.modDom.source ≠ .mclk :=
    ⟨mclk { ModDomain.reset with source := .xoMod }, _, at0, none, rfl, by decide, by rintro p ⟨⟩, by decide⟩

theorem witness_modulator_clock_is_supervised_2 : ∃ (s u : State) (dt : Ticks) (g : Option Nat), s.elapse dt = u ∧
    u.prefersMclk = true ∧ (∀ p, g = some p → 40690 < 50 * ((p : Int) - 40690).natAbs) ∧ u.modDom.source = .mclk ∧
    (u.modDom.latched = true ∨ u.modDom.xoRuns = false) :=
    ⟨mclk { ModDomain.reset with source := .mclk, latched := true }, _, at0, some 41504, rfl, by decide,
    by rintro p ⟨⟩; decide, by decide⟩

theorem witness_modulator_clock_is_supervised_3 : ∃ (s u : State) (dt : Ticks) (g : Option Nat), s.elapse dt = u ∧
    u.prefersMclk = true ∧ (∀ p, g = some p → 40690 < 50 * ((p : Int) - 40690).natAbs) ∧ u.modDom.source = .mclk ∧
    u.modDom.latched = false ∧ u.modDom.xoRuns = true :=
    ⟨mclk { ModDomain.reset with source := .mclk, xoRuns := true }, _, at0, some 41504, rfl, by decide,
    by rintro p ⟨⟩; decide, by decide⟩

theorem witness_modulator_clock_is_supervised_4 : ∃ (s u : State) (dt : Ticks) (g : Option Nat), s.elapse dt = u ∧
    (u.prefersMclk = false ∨ (∃ p : Nat, g = some p ∧ 50 * ((p : Int) - 40690).natAbs ≤ 40690)) :=
    ⟨run, _, at0, none, rfl, by decide⟩

theorem witness_modulator_clock_is_supervised_5 : ∃ (s u : State) (dt : Ticks) (ppm : Int), s.elapse dt = u ∧
    u.prefersMclk = true ∧ u.modDom.source = .mclk ∧ ppm.natAbs ≤ 5000 :=
    ⟨mclk { ModDomain.reset with source := .mclk }, _, at0, -5000, rfl, by decide⟩

theorem witness_modulator_clock_is_supervised_6 : ∃ (s u : State) (dt : Ticks) (ppm : Int), s.elapse dt = u ∧
    u.prefersMclk = true ∧ u.modDom.source = .mclk ∧ 5000 < ppm.natAbs ∧ u.modDom.relocked = false ∧
    u.modDom.outside = true :=
    ⟨mclk { ModDomain.reset with source := .mclk, outside := true }, _, at0, -5001, rfl, by decide⟩

theorem witness_modulator_clock_is_supervised_7 : ∃ (s u : State) (dt : Ticks) (t : Nat), s.elapse dt = u ∧
    u.prefersMclk = true ∧ u.legalRuns = true ∧ ((u.modDom.source = .xoMod ∧
    u.modDom.latched = false) ∨ u.modDom.source = .stopped) ∧ u.modDom.trackSince = some t ∧
    t + 1000000000 ≤ u.mono :=
    ⟨mclk { ModDomain.reset with source := .xoMod, trackSince := some 9999000000000 }, _, at0, _, rfl, by decide,
    by decide, by decide, rfl, by decide⟩

theorem witness_modulator_clock_is_supervised_8 : ∃ (s u : State) (dt : Ticks), s.elapse dt = u ∧
    u.modDom.source = .xoMod :=
    ⟨run, _, at0, rfl, by decide⟩

theorem witness_modulator_clock_is_supervised_9 : ∃ (s u : State) (dt : Ticks), s.elapse dt = u ∧
    u.modDom.source = .stopped ∧ u.legalRuns = true :=
    ⟨mclk ModDomain.reset, _, at0, rfl, by decide⟩

theorem witness_modulator_clock_is_supervised_10 : ∃ (s u : State) (dt : Ticks), s.elapse dt = u ∧
    u.modDom.source ≠ .xoMod ∧ u.legalRuns = true :=
    ⟨mclk { ModDomain.reset with source := .mclk }, _, at0, rfl, by decide⟩

theorem witness_modulator_clock_is_supervised_11 : ∃ (s u : State) (dt : Ticks), s.elapse dt = u ∧
    u.modDom.source = .mclk ∧ u.legalRuns = true ∧ u.modDom.xoRuns = false :=
    ⟨mclk { ModDomain.reset with source := .mclk, xoRuns := false }, _, at0, rfl, by decide⟩

theorem witness_modulator_clock_is_supervised_12 : ∃ (s u : State) (dt : Ticks), ∃ t, s.elapse dt = u ∧
    u.modDom.source = .mclk ∧ u.legalRuns = true ∧ u.modDom.xoRuns = true ∧ u.modDom.latched = true ∧
    u.modDom.xoSince = some t ∧ t + 1000000000 ≤ u.mono :=
    ⟨mclk { ModDomain.reset with source := .mclk, xoRuns := true, latched := true, xoSince := some 9999000000000 },
    _, at0, _, rfl, by decide, by decide, by decide, by decide, rfl, by decide⟩

theorem witness_modulator_clock_is_supervised_13 : ∃ (s u : State) (dt : Ticks), s.elapse dt = u ∧
    u.modDom.source ≠ .stopped ∧ u.modDom.epochBase < u.modDom.cycle ∧
    (u.modDom.cycle - u.modDom.epochBase) % 6144 = 0 ∧ (∀ x ∈ u.modDom.stamps, x.1 < u.modDom.cycle) :=
    ⟨mclk { ModDomain.reset with source := .xoMod, cycle := 6144, stamps := [(0, 0)] }, _, at0, rfl, by decide⟩

theorem witness_time_and_sync_events_1 : ∃ (s u : State) (dt : Ticks), s.elapse dt = u ∧ u.legalRuns = true ∧
    (u.ntu.slewHigh + 1) * 1000000000 * 4294967296 ≤ u.ntu.slew.natAbs :=
    ⟨ntu { run.ntu with slew := second * 4294967296 }, _, at0, rfl, by decide⟩

theorem witness_time_and_sync_events_2 : ∃ (s u : State) (dt : Ticks), s.elapse dt = u ∧ u.legalRuns = true ∧
    u.ntu.clampLogged = false ∧ ((u.ntu.slew = slewLimit ∧ 0 < u.ntu.rateAdj) ∨ (u.ntu.slew = -slewLimit ∧
    u.ntu.rateAdj < 0)) :=
    ⟨ntu { run.ntu with slew := slewLimit, rateAdj := 1 }, _, at0, rfl, by decide⟩

theorem witness_time_and_sync_events_3 : ∃ (s u : State) (dt : Ticks) (t : Nat), s.elapse dt = u ∧
    u.ntu.status = .fine ∧ u.ntu.lastOffset = some t ∧ t + 60000000000 ≤ u.mono :=
    ⟨ntu { run.ntu with lastOffset := some 9940000000000 }, _, at0, _, rfl, by decide, rfl, by decide⟩

theorem witness_time_and_sync_events_4 : ∃ (s u : State) (dt : Ticks) (low high : Bool), s.elapse dt = u ∧
    (low && high) = false :=
    ⟨run, _, at0, true, false, rfl, by decide⟩

theorem witness_time_and_sync_events_5 : ∃ (s u v : State) (dt : Ticks) (after t : Nat) (c : Call),
    s.elapse dt = u ∧ u.sync.armed = some (t, c) ∧ t ≤ u.nodeTime + 82 ∧ u.modDom.source ≠ .stopped ∧
    u.legalRuns = true ∧ u.syncAllowed 3 = true ∧ u.inHoldoff = false ∧ after ≤ 40700 ∧
    v = (u.modSync (fun y => { y with armed := none })).syncEvent 3 (t + after / 1000) ∧ v.accepted c 0x0203 = none :=
    ⟨{ par [(0x8020, [7])] with sync := { Sync.reset with armed := some (10000000000082, hc) } }, _, _, at0, 40700,
    _, _, rfl, rfl, by decide, by decide, by decide, by decide, by decide, by decide, rfl, by decide⟩

theorem witness_time_and_sync_events_6 : ∃ (s u : State) (dt : Ticks) (t : Nat) (c : Call) (f : InFlight),
    s.elapse dt = u ∧ u.sync.armed = some (t, c) ∧ t ≤ u.nodeTime + 82 ∧ u.accepted c 0x0203 = some f ∧
    (u.modDom.source = .stopped ∨ u.legalRuns = false) :=
    ⟨{ run with
        modDom := ModDomain.reset
        sync := { Sync.reset with armed := some (10000000000082, hc) }
        hawk := { run.hawk with inFlight := [{ fl 0x0203 [] with accepted := true }] } },
    _, at0, _, _, _, rfl, rfl, by decide, rfl, by decide⟩

theorem witness_time_and_sync_events_7 : ∃ (s u : State) (dt : Ticks) (t : Nat) (c : Call) (f : InFlight),
    s.elapse dt = u ∧ u.sync.armed = some (t, c) ∧ t ≤ u.nodeTime + 82 ∧ u.accepted c 0x0203 = some f ∧
    u.modDom.source ≠ .stopped ∧ u.legalRuns = true ∧ u.syncAllowed 3 = false :=
    ⟨{ par [(0x8020, [0])] with
        sync := { Sync.reset with armed := some (10000000000082, hc) }
        hawk := { run.hawk with inFlight := [{ fl 0x0203 [] with accepted := true }] } },
    _, at0, _, _, _, rfl, rfl, by decide, rfl, by decide⟩

theorem witness_time_and_sync_events_8 : ∃ (s u : State) (dt : Ticks) (t : Nat) (c : Call) (f : InFlight),
    s.elapse dt = u ∧ u.sync.armed = some (t, c) ∧ t ≤ u.nodeTime + 82 ∧ u.accepted c 0x0203 = some f ∧
    u.modDom.source ≠ .stopped ∧ u.legalRuns = true ∧ u.syncAllowed 3 = true ∧ u.inHoldoff = true :=
    ⟨{ par [(0x8020, [7])] with
        sync := { Sync.reset with acceptedAt := some 10000000000000, armed := some (10000000000082, hc) }
        hawk := { run.hawk with inFlight := [{ fl 0x0203 [] with accepted := true }] } },
    _, at0, _, _, _, rfl, rfl, by decide, rfl, by decide⟩

theorem witness_time_and_sync_events_9 : ∃ (s u : State) (dt : Ticks) (t : Nat) (c : Call), s.elapse dt = u ∧
    u.sync.armed = some (t, c) ∧ u.nodeTime + 82 < t :=
    ⟨{ par [(0x8020, [7])] with sync := { Sync.reset with armed := some (10000000000083, hc) } }, _, at0, _, _,
    rfl, rfl, by decide⟩

theorem witness_clock_faults_stop_measurement_1 : ∃ (s u : State) (dt : Ticks), s.elapse dt = u ∧
    u.ntu.sysSource = .pll ∧ u.boot.mainClockFault = false :=
    ⟨run, _, at0, rfl, by decide⟩

theorem witness_clock_faults_stop_measurement_2 : ∃ (s u : State) (dt : Ticks) (t : Nat), s.elapse dt = u ∧
    u.boot.mainClockFault = true ∧ u.ntu.pllLockedAt = some t ∧ t + 1000000000 ≤ u.mono :=
    ⟨{ boot { run.boot with mainClockFault := true } with ntu := { run.ntu with pllLockedAt := some 9999000000000 } },
    _, at0, _, rfl, by decide, rfl, by decide⟩

theorem witness_clock_faults_stop_measurement_3 : ∃ (s u : State) (dt : Ticks), s.elapse dt = u ∧
    u.boot.mainClockFault = true ∧ u.ntu.pllLockedAt = none :=
    ⟨boot { run.boot with mainClockFault := true }, _, at0, rfl, by decide⟩

theorem witness_clock_faults_stop_measurement_4 : ∃ (s u : State) (dt : Ticks), s.elapse dt = u ∧
    u.ntu.sysSource ≠ .stopped ∧ u.ntu.dspLocked = true :=
    ⟨run, _, at0, rfl, by decide⟩

theorem witness_clock_faults_stop_measurement_5 : ∃ (s u : State) (dt : Ticks), s.elapse dt = u ∧
    u.ntu.dspLocked = false :=
    ⟨ntu { run.ntu with dspLocked := false }, _, at0, rfl, by decide⟩

theorem witness_clock_faults_stop_measurement_6 : ∃ (n : Nat), n < 16 :=
    ⟨15, by decide⟩

theorem witness_counters_and_diagnostics_1 : ∃ (s u : State) (dt : Ticks) (n held : Nat) (rising : Bool),
    s.elapse dt = u ∧ n < 16 ∧ n < u.counters.length ∧ u.legalRuns = true ∧ u.cntMode n = 1 ∧
    u.cntPartner n = false ∧ ((u.counter n).level = some rising ∨ held < filterNs (u.pnum (cntId n 2))) :=
    ⟨par [(0x17C0, [1])], _, at0, 15, 0, true, rfl, by decide⟩

theorem witness_counters_and_diagnostics_2 : ∃ (s u : State) (dt : Ticks) (n held : Nat) (rising : Bool),
    s.elapse dt = u ∧ n < 16 ∧ n < u.counters.length ∧ u.legalRuns = true ∧ u.cntMode n = 1 ∧
    u.cntPartner n = false ∧ (u.counter n).level ≠ some rising ∧ filterNs (u.pnum (cntId n 2)) + 2000 ≤ held :=
    ⟨par [(0x17C0, [1])], _, at0, 15, 5002000, true, rfl, by decide⟩

theorem witness_counters_and_diagnostics_3 : ∃ (s u : State) (dt : Ticks) (n heldA heldB : Nat) (a b : Bool) (la lb : Option Bool),
    s.elapse dt = u ∧ n < 16 ∧ n % 2 = 0 ∧ n + 1 < u.counters.length ∧ u.legalRuns = true ∧ u.cntMode n = 2 ∧
    ((la = some a ∧ ((u.counter n).level = some a ∨ filterNs (u.pnum (cntId n 2)) + 2000 ≤ heldA)) ∨ (la = (u.counter n).level ∧
    heldA < filterNs (u.pnum (cntId n 2)))) ∧ ((lb = some b ∧
    ((u.counter (n + 1)).level = some b ∨ filterNs (u.pnum (cntId n 2)) + 2000 ≤ heldB)) ∨ (lb = (u.counter (n + 1)).level ∧
    heldB < filterNs (u.pnum (cntId n 2)))) :=
    ⟨par [(0x1780, [2])], _, at0, 14, 5002000, 5002000, true, true, some true, some true, rfl, by decide⟩

theorem witness_counters_and_diagnostics_4 : ∃ (c : Counter), c.ref = none :=
    ⟨Counter.reset, by decide⟩

theorem witness_counters_and_diagnostics_5 : ∃ (c : Counter) (a b : Bool), c.ref = some (a, b) :=
    ⟨{ Counter.reset with ref := some (true, false) }, true, false, by decide⟩

theorem witness_counters_and_diagnostics_6 : ∃ (c : Counter), c.ref = some (false, false) ∧ c.pos = c.last :=
    ⟨{ Counter.reset with ref := some (false, false) }, by decide⟩

theorem witness_counters_and_diagnostics_7 : ∃ (s u : State) (dt : Ticks) (t : Nat), s.elapse dt = u ∧
    u.legalRuns = true ∧ t = u.nodeTime / 10000000 * 10000000 ∧ u.ntu.latchAt ≠ some t :=
    ⟨run, _, at0, _, rfl, by decide, rfl, by decide⟩

theorem witness_counters_and_diagnostics_8 : ∃ (s : State) (n : Nat), n < s.counters.length :=
    ⟨run, 15, by decide⟩

theorem witness_counters_and_diagnostics_9 : ∃ (s u v : State) (dt : Ticks) (n b : Nat) (e : Sensed),
    s.elapse dt = u ∧ v = u.meet n e ∧ n < 16 ∧ v.legalRuns = true ∧ v.diagPresent n b e = true :=
    ⟨par [(0x13C0, [1])], _, _, at0, 15, 0, { calm with pinP := -100000000 }, rfl, rfl, by decide⟩

theorem witness_counters_and_diagnostics_10 : ∃ (s u v : State) (dt : Ticks) (n b : Nat) (e : Sensed),
    s.elapse dt = u ∧ v = u.meet n e ∧ n < 16 ∧ v.legalRuns = true ∧ v.diagPresent n b e = false ∧
    v.refOff n b = false ∧ b ≠ 4 :=
    ⟨par [(0x13C0, [1])], _, _, at0, 15, 1, calm, rfl, rfl, by decide⟩

theorem witness_counters_and_diagnostics_11 : ∃ (s u v : State) (dt : Ticks) (n b : Nat) (e : Sensed),
    s.elapse dt = u ∧ v = u.meet n e ∧ n < 16 ∧ v.legalRuns = true ∧
    (v.diagPresent n b e = true ∨ v.refOff n b = true ∨ b = 4) :=
    ⟨run, _, _, at0, 15, 4, calm, rfl, rfl, by decide⟩

theorem witness_counters_and_diagnostics_12 : ∃ (s : State) (n b : Nat), (b = 1 ∨ b = 2 ∨ b = 3) ∧
    s.pchMode n = modeBridge :=
    ⟨par [(0x13C0, [1])], 15, 3, by decide +kernel⟩

theorem witness_counters_and_diagnostics_13 : ∃ (s : State) (n b : Nat), (s.channel n).diag.getLsbD b = true ∧
    s.mono < (s.channel n).diagAt.getD b 0 + 100000000 :=
    ⟨chans { Channel.reset with diag := 1, diagAt := List.replicate 8 10000000000000 }, 15, 0, by decide⟩

theorem witness_counters_and_diagnostics_14 : ∃ (s : State) (n b : Nat), b < 8 ∧
    (s.channel n).diag.getLsbD b = true ∧ (s.channel n).diagAt.getD b 0 + 100000000 ≤ s.mono ∧
    n < s.channels.length :=
    ⟨chans { Channel.reset with diag := 128, diagAt := List.replicate 8 9900000000000 }, 15, 7, by decide⟩

theorem witness_counters_and_diagnostics_15 : ∃ (s : State) (n : Nat), s.pchMode n = modeBridge :=
    ⟨par [(0x13C0, [1])], 15, by decide⟩

theorem witness_counters_and_diagnostics_16 : ∃ (s u : State) (dt : Ticks) (n t : Nat), s.elapse dt = u ∧
    u.legalRuns = true ∧ (u.channel n).burstAt = some t ∧ t + 10000000000 ≤ u.mono :=
    ⟨chans { Channel.reset with burstAt := some 9990000000000 }, _, at0, 15, _, rfl, by decide, rfl, by decide⟩

theorem witness_channels_form_records_1 : ∃ (s u : State) (dt : Ticks) (n : Nat) (words : List (BitVec 4)),
    s.elapse dt = u ∧ n < 16 ∧ u.recordDue n words = true :=
    ⟨{ chans { Channel.reset with running := true, words := 900000 } with
        modDom := { ModDomain.reset with source := .xoMod, cycle := 1000000 } },
    _, at0, 15, [], rfl, by decide⟩

theorem witness_channels_form_records_2 : ∃ (s u : State) (dt : Ticks) (n : Nat) (words : List (BitVec 4)),
    s.elapse dt = u ∧ n < 16 ∧ u.recordDue n words = false :=
    ⟨run, _, at0, 15, [], rfl, by decide⟩

theorem witness_channels_form_records_3 : ∃ (s : State), s.inForce = [] :=
    ⟨run, by decide⟩

theorem witness_channels_form_records_4 : ∃ (s w : State) (n : Nat) (words : List (BitVec 4)),
    n < s.channels.length ∧ w = s.takeWords n words :=
    ⟨run, _, 15, [], by decide, rfl⟩

theorem witness_channels_form_records_5 : ∃ (s u : State) (dt : Ticks) (n k : Nat), s.elapse dt = u ∧
    (u.channel n).running = true ∧ (u.chain n).mode = 1 ∧ (u.channel n).line.hold = false ∧
    k = (u.chain n).lineRef ∧ ((∃ z, (u.channel k).cross.latest = some z ∧
    z + 33300000 * 65536 ≤ u.nodeTime * 65536) ∨ ((u.channel k).cross.latest = none ∧
    (u.channel k).running = true ∧
    (u.channel k).resetCycle + (u.chain k).settleIndex * (u.chain k).m1 + u.fMod * 333 / 10000 ≤ u.modDom.cycle) ∨ (∃ t,
    (u.channel k).cross.period = some t ∧ (65 * t < 1000000000 * 65536 ∨ 1000000000 * 65536 < 45 * t))) :=
    ⟨{ chans { Channel.reset with running := true, cross := { Crossing.reset with latest := some 0 } } with
        params := [(0x1010, [3, 5, 0, 1] ++ zeros 12)] },
    _, at0, 0, _, rfl, by decide +kernel, by decide +kernel, by decide +kernel, rfl, Or.inl (by decide)⟩

theorem witness_channels_form_records_6 : ∃ (s u : State) (dt : Ticks) (n k : Nat), s.elapse dt = u ∧
    (u.channel n).running = true ∧ (u.chain n).mode = 1 ∧ (u.channel n).line.locked = false ∧
    (u.channel n).line.hold = false ∧ (u.chain n).lineRef = k ∧ (u.channel k).running = true ∧
    (u.channel k).resetCycle + (u.chain k).settleIndex * (u.chain k).m1 + u.fMod / 10 ≤ u.modDom.cycle :=
    ⟨{ chans { Channel.reset with running := true } with
        params := [(0x1010, [3, 5, 0, 1] ++ zeros 12)]
        modDom := { ModDomain.reset with source := .xoMod, cycle := 1000000 } },
    _, at0, 0, _, rfl, by decide, by decide, by decide, by decide, rfl, by decide⟩

theorem witness_metering_follows_its_events_1 : ∃ (s u : State) (dt : Ticks) (sec : Nat), s.elapse dt = u ∧
    u.legalRuns = true ∧ sec = u.legal.lastCommit + 1000000000 ∧ sec ≤ u.nodeTime ∧
    (sec + 100000000 ≤ u.nodeTime ∨ ∀ m < 4, u.mpType m = typeElec → ∀ t,
    (u.point m).cycleStart = some t → sec ≤ t) :=
    ⟨{ run with legal := { Legal.reset with lastCommit := 9999000000000 } }, _, at0, _, rfl, by decide, rfl,
    by decide⟩

theorem witness_metering_follows_its_events_2 : ∃ (s u : State) (dt : Ticks), s.elapse dt = u ∧
    (u.legalRuns = false ∨ u.nodeTime < u.legal.lastCommit + 1000000000) :=
    ⟨legal { Legal.reset with lastCommit := 9999000000001 }, _, at0, rfl, by decide⟩

theorem witness_metering_follows_its_events_3 : ∃ (regs : List Nat), (∀ r ∈ regs, r < 2 ^ 64) :=
    ⟨[18446744073709551615], by decide⟩

theorem witness_metering_follows_its_events_4 : ∃ (regs amounts : List Nat) (tariff q : Nat), q < amounts.length ∧
    1 ≤ tariff ∧ tariff ≤ 8 ∧ 8 * q + tariff - 1 < regs.length :=
    ⟨List.replicate 160 0, List.replicate 20 0, 8, 19, by decide +kernel⟩

theorem witness_metering_follows_its_events_5 : ∃ (s u : State) (dt : Ticks), s.elapse dt = u ∧
    u.legalRuns = true ∧ u.ntu.status ≠ .invalid ∧ u.legal.passive.state = 1 ∧
    u.legal.passive.at_ ≤ u.legal.lastCommit ∧ u.legal.activateFrom ≤ u.legal.lastCommit ∧
    u.legal.lastCommit % 60000000000 = 0 :=
    ⟨legal { Legal.reset with passive := { CalendarSlot.none with state := 1 }, lastCommit := 60000000000 }, _,
    at0, rfl, by decide⟩

theorem witness_metering_follows_its_events_6 : ∃ (s u : State) (dt : Ticks), s.elapse dt = u ∧
    (u.legal.passive.state ≠ 1 ∨ u.legal.lastCommit < u.legal.passive.at_ ∨ u.legal.lastCommit < u.legal.activateFrom ∨ u.legal.lastCommit % 60000000000 ≠ 0) :=
    ⟨run, _, at0, rfl, by decide⟩

theorem witness_metering_follows_its_events_7 : ∃ (s u : State) (dt : Ticks) (m : Nat) (w : Span),
    s.elapse dt = u ∧ m < 4 ∧ u.mpType m = typeElec ∧ u.legalRuns = true ∧ u.cycleSpan m = some w :=
    ⟨{ chans { Channel.reset with cycle := [⟨0, 0, 0, 99000000000000, 0⟩] } with
        params := [(0x2000, bound 1 1)]
        points := List.replicate 4 { MeterPoint.reset 0 with cycleStart := some 0 } },
    _, at0, 0, _, rfl, by decide, by decide, by decide, rfl⟩

theorem witness_metering_follows_its_events_8 : ∃ (s u : State) (dt : Ticks) (m : Nat), s.elapse dt = u ∧
    u.cycleSpan m = none :=
    ⟨run, _, at0, 0, rfl, by decide⟩

theorem witness_metering_follows_its_events_9 : ∃ (s : State) (m : Nat) (w : Span), m < s.points.length ∧
    s.cycleGood m w = false :=
    ⟨{ chans { good with cycle := [⟨0, 2, 0, 10, 0⟩] } with params := [(0x2300, bound 1 1)] }, 3, ⟨0, 1000, false⟩,
    by decide⟩

theorem witness_metering_follows_its_events_10 : ∃ (s u : State) (dt : Ticks) (m t : Nat) (rs : List Record),
    s.elapse dt = u ∧ m < 4 ∧ u.mpType m = typeWaste ∧ u.legalRuns = true ∧ u.positionRecords m = some rs ∧
    t = (rs.map (·.instant)).foldl max 0 :=
    ⟨{ chans { good with recent := [⟨0, 0, 0, 10, 0⟩] } with params := [(0x2300, bound 4 0)] }, _, at0, 3, _, _,
    rfl, by decide, by decide, by decide, rfl, rfl⟩

theorem witness_metering_follows_its_events_11 : ∃ (s u : State) (dt : Ticks) (m : Nat) (t : Txn),
    s.elapse dt = u ∧ m < 4 ∧ u.legalRuns = true ∧ (u.point m).weigh.txn = some t ∧
    t.since + t.timeoutS * 1000000000 ≤ u.mono :=
    ⟨pts { Weigh.reset with txn := some { sale with since := 9940000000000 } }, _, at0, 3, _, rfl, by decide,
    by decide, rfl, by decide⟩

theorem witness_metering_follows_its_events_12 : ∃ (s u : State) (dt : Ticks) (m : Nat), s.elapse dt = u ∧
    u.commonRecords (bindLegal (u.binding m)) (u.point m).prov.lastTaken = none :=
    ⟨run, _, at0, 0, rfl, by decide⟩

theorem witness_metering_follows_its_events_13 : ∃ (s u v : State) (dt : Ticks) (m t : Nat) (rs : List Record),
    s.elapse dt = u ∧ m < 4 ∧ u.ready = true ∧ u.mpType m = typeWaste ∧ u.pnum (pointId m 0x60) = 1 ∧
    u.commonRecords (bindLegal (u.binding m)) (u.point m).prov.lastTaken = some rs ∧
    t = (rs.map (·.instant)).foldl max 0 ∧
    v = ((u.modProv m (fun p => { p with lastTaken := some t })).askStatus 2 m).takeAccel m t :=
    ⟨{ proving [] with channels := List.replicate 16 { good with recent := [⟨0, 0, 0, 10, 0⟩] } }, _, _, at0, 0, _,
    _, rfl, by decide, by decide, by decide, by decide, rfl, rfl, rfl⟩

theorem witness_metering_follows_its_events_14 : ∃ (s : State) (m t : Nat),
    accelStream t (s.point m).prov.accel = none :=
    ⟨run, 0, 0, by decide⟩

theorem witness_metering_follows_its_events_15 : ∃ (s : State) (m t : Nat), ∃ a,
    accelStream t (s.point m).prov.accel = some a :=
    ⟨proving [(10, 0)], 0, 10, _, rfl⟩

theorem witness_metering_follows_its_events_16 : ∃ (s u : State) (dt : Ticks) (m : Nat), s.elapse dt = u ∧ m < 4 ∧
    u.ready = true ∧ (u.point m).prov.shown = true ∧ (∀ x ∈ u.gate.own, x.2 ≠ [4, byte m]) ∧ (∀ x ∈ u.gate.waiting,
    x.2 ≠ [4, byte m]) :=
    ⟨{ run with points := List.replicate 4 { MeterPoint.reset 0 with prov := { Prov.reset with shown := true } } },
    _, at0, 3, rfl, by decide⟩

theorem witness_metering_follows_its_events_17 : ∃ (s u : State) (dt : Ticks) (m n now : Nat) (b : Bytes) (phases : List (Option (List Float) × Option (List Float))),
    s.elapse dt = u ∧ m < 4 ∧ u.ready = true ∧ u.pnum (pointId m 0x90) = 1 ∧ u.harmReady m = true ∧
    b = u.binding m ∧ now = u.nodeTime / 1000000000 * 1000000000 ∧ n = (u.chain (bindPch b 0)).lineN ∧
    (u.point m).harmSecond ≠ some now ∧
    phases = ((upTo (phaseCount b)).map (phaseChannels b)).map (fun ch => (u.captureCopies ch.1 n now,
    u.captureCopies ch.2 n now)) ∧ phases.any (fun q => q.1.isNone || q.2.isNone) = true :=
    ⟨{ chans good with
        params := [(0x1010, lineCfg), (0x1011, [1]), (0x1051, [1]), (0x2000, bound 1 1), (0x2090, [1])] },
    _, at0, 0, _, _, _, _, rfl, by decide, by decide, by decide, by decide, rfl, rfl, rfl, by decide, rfl, by decide⟩

theorem witness_metering_follows_its_events_18 : ∃ (s u : State) (dt : Ticks) (m n now : Nat) (b : Bytes) (phases : List (Option (List Float) × Option (List Float))),
    s.elapse dt = u ∧ m < 4 ∧ u.ready = true ∧ u.pnum (pointId m 0x90) = 1 ∧ u.harmReady m = true ∧
    b = u.binding m ∧ now = u.nodeTime / 1000000000 * 1000000000 ∧ n = (u.chain (bindPch b 0)).lineN ∧
    (u.point m).harmSecond ≠ some now ∧
    phases = ((upTo (phaseCount b)).map (phaseChannels b)).map (fun ch => (u.captureCopies ch.1 n now,
    u.captureCopies ch.2 n now)) ∧ phases.any (fun q => q.1.isNone || q.2.isNone) = false ∧
    (bindPch b 6 < 16 → (u.captureCopies (bindPch b 6) n now).isSome = true) :=
    ⟨{ chans { good with capTimes := [5] } with
        params := [(0x1010, lineCfg), (0x1011, [1]), (0x1051, [1]), (0x2000, bound 1 1), (0x2090, [1])] },
    _, at0, 0, _, _, _, _, rfl, by decide, by decide, by decide, by decide, rfl, rfl, rfl, by decide, rfl, by decide⟩

theorem witness_metering_follows_its_events_19 : ∃ (s u : State) (dt : Ticks) (m : Nat), s.elapse dt = u ∧
    (u.point m).harmSecond = some (u.nodeTime / 1000000000 * 1000000000) :=
    ⟨{ run with points := List.replicate 4 { MeterPoint.reset 0 with harmSecond := some 10000000000000 } }, _, at0,
    0, rfl, rfl⟩

theorem witness_metering_follows_its_events_20 : ∃ (s u : State) (dt : Ticks) (c : CalSeq), s.elapse dt = u ∧
    u.legal.calSeq = some c ∧ u.legalRuns = true ∧ c.lastStep + 3600000000000 ≤ u.mono :=
    ⟨legal { Legal.reset with calSeq := some { cal 0 [] with lastStep := 6400000000000 } }, _, at0, _, rfl, rfl,
    by decide⟩

theorem witness_gate_reads_answer_1 : ∃ (s u : State) (dt : Ticks) (r : GateRequest), s.elapse dt = u ∧
    u.nextRequest 1 = some r ∧ r.payload.length = 2 :=
    ⟨asking run Legal.reset (asked 1 [0, 0]), _, at0, _, rfl, rfl, by decide⟩

theorem witness_gate_reads_answer_2 : ∃ (s u : State) (dt : Ticks) (r : GateRequest), s.elapse dt = u ∧
    u.nextRequest 1 = some r ∧ r.payload.length = 1 ∧ field r.payload 0 1 < 16 ∧
    u.pchMode (field r.payload 0 1) ≠ 0 :=
    ⟨asking (par [(0x13C0, [1])]) Legal.reset (asked 1 [15]), _, at0, _, rfl, rfl, by decide⟩

theorem witness_gate_reads_answer_3 : ∃ (s u : State) (dt : Ticks) (r : GateRequest), s.elapse dt = u ∧
    u.nextRequest 1 = some r ∧ r.payload.length ≠ 1 ∧ r.payload.length ≠ 2 :=
    ⟨asking run Legal.reset (asked 1 []), _, at0, _, rfl, rfl, by decide⟩

theorem witness_gate_reads_answer_4 : ∃ (arg : Nat), arg < 16 :=
    ⟨15, by decide⟩

theorem witness_gate_reads_answer_5 : ∃ (arg : Nat), arg < 4 :=
    ⟨3, by decide⟩

theorem witness_gate_reads_answer_6 : ∃ ext, 8 ≤ ext :=
    ⟨8, by decide⟩

theorem witness_gate_reads_answer_7 : ∃ (s u : State) (dt : Ticks) (r : GateRequest) (m first n : Nat), ∃ k,
    s.elapse dt = u ∧ u.nextRequest 2 = some r ∧ r.payload.length = 4 ∧ field r.payload 0 1 = m ∧
    field r.payload 1 1 = first ∧ field r.payload 2 2 = n ∧ m < 4 ∧ 1 ≤ n ∧ first + n ≤ 256 ∧
    (u.point m).regFault = false ∧ k = (u.point m).bank :=
    ⟨asking run Legal.reset (asked 2 [3, 0, 0, 1]), _, at0, _, 3, 0, 256, _, rfl, rfl, by decide +kernel,
    by decide +kernel, by decide +kernel, by decide +kernel, by decide +kernel, by decide +kernel,
    by decide +kernel, by decide +kernel, rfl⟩

theorem witness_gate_reads_answer_8 : ∃ (s u : State) (dt : Ticks) (r : GateRequest) (m first n : Nat),
    s.elapse dt = u ∧ u.nextRequest 2 = some r ∧ field r.payload 0 1 = m ∧ field r.payload 1 1 = first ∧
    field r.payload 2 2 = n ∧ r.payload.length = 4 ∧ m < 4 ∧ 1 ≤ n ∧ first + n ≤ 256 ∧ (u.point m).regFault = true :=
    ⟨{ asking run Legal.reset (asked 2 [3, 0, 0, 1]) with
        points := List.replicate 4 { MeterPoint.reset 0 with regFault := true } },
    _, at0, _, _, _, _, rfl, rfl, rfl, rfl, rfl, by decide +kernel⟩

theorem witness_gate_reads_answer_9 : ∃ (s u : State) (dt : Ticks) (r : GateRequest) (m first n : Nat),
    s.elapse dt = u ∧ u.nextRequest 2 = some r ∧ field r.payload 0 1 = m ∧ field r.payload 1 1 = first ∧
    field r.payload 2 2 = n ∧ (r.payload.length ≠ 4 ∨ 4 ≤ m ∨ n = 0 ∨ 256 < first + n) :=
    ⟨asking run Legal.reset (asked 2 [3, 1, 0, 1]), _, at0, _, _, _, _, rfl, rfl, rfl, rfl, rfl, by decide⟩

theorem witness_gate_reads_answer_10 : ∃ (s u : State) (dt : Ticks), s.elapse dt = u ∧ 2 ≤ u.crypto.lcCount :=
    ⟨crypto (working { ctx none (.sha []) with byLc := true }), _, at0, rfl, by decide⟩

theorem witness_gate_reads_answer_11 : ∃ (s u : State) (dt : Ticks) (r : GateRequest) (key : Nat),
    s.elapse dt = u ∧ u.nextRequest 3 = some r ∧ u.crypto.lcCount < 2 ∧ r.payload.length = 8 ∧
    rsv r.payload 1 1 = true ∧ field r.payload 0 1 = 1 ∧ field r.payload 2 2 = key ∧
    (field r.payload 4 4 ≠ 0 ∨ u.regKeyOk key = false) :=
    ⟨snap Legal.reset ([1, 0, 255, 255] ++ zeros 4), _, at0, _, _, rfl, rfl, by decide, by decide, by decide,
    by decide, rfl, by decide⟩

theorem witness_gate_reads_answer_12 : ∃ (s u : State) (dt : Ticks) (r : GateRequest) (key : Nat),
    s.elapse dt = u ∧ u.nextRequest 3 = some r ∧ u.crypto.lcCount < 2 ∧ r.payload.length = 8 ∧
    rsv r.payload 1 1 = true ∧ field r.payload 0 1 = 1 ∧ field r.payload 2 2 = key ∧ field r.payload 4 4 = 0 ∧
    u.regKeyOk key = true ∧ ((u.point (key / 256 % 4)).regFault = true ∨ u.legal.readingKey = false) :=
    ⟨snap { Legal.reset with readingKey := false } ([1] ++ zeros 7), _, at0, _, 0, rfl, rfl, by decide⟩

theorem witness_gate_reads_answer_13 : ∃ (s u : State) (dt : Ticks) (r : GateRequest) (key : Nat),
    s.elapse dt = u ∧ u.nextRequest 3 = some r ∧ u.crypto.lcCount < 2 ∧ r.payload.length = 8 ∧
    rsv r.payload 1 1 = true ∧ field r.payload 0 1 = 1 ∧ field r.payload 2 2 = key ∧ field r.payload 4 4 = 0 ∧
    u.regKeyOk key = true ∧ (u.point (key / 256 % 4)).regFault = false ∧ u.legal.readingKey = true ∧
    u.numbersLeft = false :=
    ⟨snap { Legal.reset with rseqWords := .fresh 281474976710655 } ([1] ++ zeros 7), _, at0, _, 0, rfl, rfl,
    by decide⟩

theorem witness_gate_reads_answer_14 : ∃ (s u : State) (dt : Ticks) (r : GateRequest) (key : Nat),
    s.elapse dt = u ∧ u.nextRequest 3 = some r ∧ u.crypto.lcCount < 2 ∧ r.payload.length = 8 ∧
    rsv r.payload 1 1 = true ∧ field r.payload 0 1 = 1 ∧ field r.payload 2 2 = key ∧ field r.payload 4 4 = 0 ∧
    u.regKeyOk key = true ∧ (u.point (key / 256 % 4)).regFault = false ∧ u.legal.readingKey = true ∧
    u.numbersLeft = true :=
    ⟨snap Legal.reset ([1] ++ zeros 7), _, at0, _, 0, rfl, rfl, by decide⟩

theorem witness_gate_reads_answer_15 : ∃ (s u : State) (dt : Ticks) (r : GateRequest), s.elapse dt = u ∧
    u.nextRequest 3 = some r ∧ u.crypto.lcCount < 2 ∧
    (r.payload.length ≠ 8 ∨ rsv r.payload 1 1 = false ∨ field r.payload 0 1 = 0 ∨ 2 < field r.payload 0 1 ∨ (field r.payload 0 1 = 2 ∧
    field r.payload 2 2 ≠ 256 * (field r.payload 2 2 / 256 % 4))) :=
    ⟨asking run Legal.reset (asked 3 ([2, 0, 1, 0] ++ zeros 4)), _, at0, _, rfl, rfl, by decide⟩

theorem witness_gate_reads_answer_16 : ∃ (s u : State) (dt : Ticks) (r : GateRequest) (m : Nat), s.elapse dt = u ∧
    u.nextRequest 3 = some r ∧ u.crypto.lcCount < 2 ∧ r.payload.length = 8 ∧ rsv r.payload 1 1 = true ∧
    field r.payload 0 1 = 2 ∧ field r.payload 2 2 = 256 * m ∧ m < 4 ∧
    ((u.point m).regFault = true ∨ u.legal.readingKey = false) :=
    ⟨asking run { Legal.reset with readingKey := false } (asked 3 ([2, 0, 0, 3] ++ zeros 4)), _, at0, _, 3, rfl,
    rfl, by decide⟩

theorem witness_gate_reads_answer_17 : ∃ (s u : State) (dt : Ticks) (r : GateRequest) (m : Nat), s.elapse dt = u ∧
    u.nextRequest 3 = some r ∧ u.crypto.lcCount < 2 ∧ r.payload.length = 8 ∧ rsv r.payload 1 1 = true ∧
    field r.payload 0 1 = 2 ∧ field r.payload 2 2 = 256 * m ∧ m < 4 ∧ (u.point m).regFault = false ∧
    u.legal.readingKey = true :=
    ⟨asking run Legal.reset (asked 3 ([2, 0, 0, 3] ++ zeros 4)), _, at0, _, 3, rfl, rfl, by decide⟩

theorem witness_gate_reads_answer_18 : ∃ (s u : State) (dt : Ticks) (r : GateRequest) (log n start : Nat),
    s.elapse dt = u ∧ u.nextRequest 4 = some r ∧ r.payload.length = 12 ∧ field r.payload 0 1 = log ∧ log < 2 ∧
    rsv r.payload 1 1 = true ∧ rsv r.payload 10 2 = true ∧ field r.payload 2 2 = n ∧ 1 ≤ n ∧ n ≤ 84 ∧
    (log = 1 → field r.payload 8 2 = 0) ∧ start = field r.payload 4 4 + 4294967296 * field r.payload 8 2 :=
    ⟨asking run Legal.reset (asked 4 ([1, 0, 84] ++ zeros 9)), _, at0, _, 1, 84, _, rfl, rfl, by decide,
    by decide, by decide, by decide, by decide, by decide, by decide, by decide, by decide, rfl⟩

theorem witness_gate_reads_answer_19 : ∃ (s u : State) (dt : Ticks) (r : GateRequest) (log n : Nat),
    s.elapse dt = u ∧ u.nextRequest 4 = some r ∧ field r.payload 0 1 = log ∧ field r.payload 2 2 = n ∧
    (r.payload.length ≠ 12 ∨ 2 ≤ log ∨ rsv r.payload 1 1 = false ∨ rsv r.payload 10 2 = false ∨ n = 0 ∨ 84 < n ∨ (log = 1 ∧
    field r.payload 8 2 ≠ 0)) :=
    ⟨asking run Legal.reset (asked 4 ([1, 0, 85] ++ zeros 9)), _, at0, _, _, _, rfl, rfl, rfl, rfl, by decide⟩

theorem witness_gate_reads_answer_20 : ∃ (s u : State) (dt : Ticks) (r : GateRequest), s.elapse dt = u ∧
    u.nextRequest 5 = some r ∧ u.crypto.lcCount < 2 ∧ r.payload.length ≠ 32 :=
    ⟨asking run Legal.reset (asked 5 (zeros 31)), _, at0, _, rfl, rfl, by decide⟩

theorem witness_gate_reads_answer_21 : ∃ (s u : State) (dt : Ticks) (r : GateRequest), s.elapse dt = u ∧
    u.nextRequest 5 = some r ∧ u.crypto.lcCount < 2 ∧ r.payload.length = 32 ∧ u.legal.attestKey = false :=
    ⟨asking run { Legal.reset with attestKey := false } (asked 5 (zeros 32)), _, at0, _, rfl, rfl, by decide⟩

theorem witness_gate_reads_answer_22 : ∃ (s u : State) (dt : Ticks) (r : GateRequest), s.elapse dt = u ∧
    u.nextRequest 5 = some r ∧ u.crypto.lcCount < 2 ∧ r.payload.length = 32 ∧ u.legal.attestKey = true :=
    ⟨asking run Legal.reset (asked 5 (zeros 32)), _, at0, _, rfl, rfl, by decide⟩

theorem witness_gate_reads_answer_23 : ∃ (s u : State) (dt : Ticks) (r : GateRequest), s.elapse dt = u ∧
    u.legalRuns = true ∧ u.gate.requests.find? (fun x => requestClass x.code == 0) = some r ∧
    (r.code = 0 ∨ 16 < r.code) :=
    ⟨asking run Legal.reset (asked 17 []), _, at0, _, rfl, by decide, rfl, by decide⟩

theorem witness_gate_changes_take_effect_1 : ∃ (s u : State) (dt : Ticks) (r : GateRequest) (id st : Nat),
    s.elapse dt = u ∧ u.nextRequest 6 = some r ∧ 4 ≤ r.payload.length ∧ field r.payload 0 2 = id ∧
    st = u.setParamStatus id (field r.payload 2 2) (r.payload.drop 4) ∧ st = stDone ∧
    u.sameValue id (r.payload.drop 4) = false :=
    ⟨asking run { Legal.reset with sealOpen := true } (asked 6 [0x20, 0x80, 1, 0, 0]), _, at0, _, _, _, rfl, rfl,
    by decide, rfl, rfl, rfl, by decide⟩

theorem witness_gate_changes_take_effect_2 : ∃ (s u : State) (dt : Ticks) (r : GateRequest) (id st : Nat),
    s.elapse dt = u ∧ u.nextRequest 6 = some r ∧ 4 ≤ r.payload.length ∧ field r.payload 0 2 = id ∧
    st = u.setParamStatus id (field r.payload 2 2) (r.payload.drop 4) ∧ st = stDone ∧
    u.sameValue id (r.payload.drop 4) = true :=
    ⟨asking (par [(0x8020, [0])]) { Legal.reset with sealOpen := true } (asked 6 [0x20, 0x80, 1, 0, 0]), _, at0, _,
    _, _, rfl, rfl, by decide, rfl, rfl, rfl, by decide⟩

theorem witness_gate_changes_take_effect_3 : ∃ (s u : State) (dt : Ticks) (r : GateRequest) (id st : Nat),
    s.elapse dt = u ∧ u.nextRequest 6 = some r ∧ 4 ≤ r.payload.length ∧ field r.payload 0 2 = id ∧
    st = u.setParamStatus id (field r.payload 2 2) (r.payload.drop 4) ∧ st ≠ stDone :=
    ⟨asking run Legal.reset (asked 6 [0x20, 0x80, 1, 0, 0]), _, at0, _, _, _, rfl, rfl, by decide, rfl, rfl,
    by decide⟩

theorem witness_gate_changes_take_effect_4 : ∃ (s u : State) (dt : Ticks) (r : GateRequest), s.elapse dt = u ∧
    u.nextRequest 6 = some r ∧ r.payload.length < 4 :=
    ⟨asking run Legal.reset (asked 6 [0, 0, 0]), _, at0, _, rfl, rfl, by decide⟩

theorem witness_gate_changes_take_effect_5 : ∃ (s : State) (id : Nat), legalSide id = true ∧
    (paramInfo id).isSome = true ∧ s.classNow id = 1 ∧ s.legal.sealOpen = false :=
    ⟨run, 0x8020, by decide⟩

theorem witness_gate_changes_take_effect_6 : ∃ (s u : State) (dt : Ticks) (r : GateRequest), s.elapse dt = u ∧
    u.nextRequest 7 = some r ∧ r.payload.length = 80 ∧ (u.ownerAuth r.payload).1 = stDone ∧
    u.setTimeOk r.payload = true :=
    ⟨asking run { Legal.reset with sealOpen := true } (asked 7 (zeros 80)), _, at0, _, rfl, rfl,
    by decide +kernel⟩

theorem witness_gate_changes_take_effect_7 : ∃ (s u : State) (dt : Ticks) (r : GateRequest), s.elapse dt = u ∧
    u.nextRequest 7 = some r ∧ r.payload.length = 80 ∧ (u.ownerAuth r.payload).1 ≠ stDone :=
    ⟨asking run Legal.reset (asked 7 (zeros 80)), _, at0, _, rfl, rfl, by decide +kernel⟩

theorem witness_gate_changes_take_effect_8 : ∃ (s u : State) (dt : Ticks) (r : GateRequest), s.elapse dt = u ∧
    u.nextRequest 7 = some r ∧ (r.payload.length ≠ 80 ∨ ((u.ownerAuth r.payload).1 = stDone ∧
    u.setTimeOk r.payload = false)) :=
    ⟨asking run Legal.reset (asked 7 (zeros 79)), _, at0, _, rfl, rfl, Or.inl (by decide +kernel)⟩

theorem witness_gate_changes_take_effect_9 : ∃ (s u : State) (dt : Ticks) (r : GateRequest) (cal : Bytes),
    s.elapse dt = u ∧ u.nextRequest 8 = some r ∧ r.payload.length = 1988 ∧ cal = r.payload.take 1920 ∧
    (u.ownerAuth r.payload).1 = stDone ∧ calendarOk cal = true :=
    ⟨asking run { Legal.reset with sealOpen := true } (asked 8 (tariffs ++ zeros 68)), _, at0, _, _, rfl, rfl,
    by decide +kernel, rfl, by decide +kernel⟩

theorem witness_gate_changes_take_effect_10 : ∃ (s u : State) (dt : Ticks) (r : GateRequest) (cal : Bytes),
    s.elapse dt = u ∧ u.nextRequest 8 = some r ∧ cal = r.payload.take 1920 ∧ r.payload.length = 1988 ∧
    (u.ownerAuth r.payload).1 ≠ stDone :=
    ⟨asking run Legal.reset (asked 8 (zeros 1988)), _, at0, _, _, rfl, rfl, rfl, by decide +kernel⟩

theorem witness_gate_changes_take_effect_11 : ∃ (s u : State) (dt : Ticks) (r : GateRequest) (cal : Bytes),
    s.elapse dt = u ∧ u.nextRequest 8 = some r ∧ cal = r.payload.take 1920 ∧
    (r.payload.length ≠ 1988 ∨ ((u.ownerAuth r.payload).1 = stDone ∧ calendarOk cal = false)) :=
    ⟨asking run { Legal.reset with sealOpen := true } (asked 8 (zeros 1988)), _, at0, _, _, rfl, rfl, rfl,
    Or.inr (by decide +kernel)⟩

theorem witness_gate_changes_take_effect_12 : ∃ (s u : State) (dt : Ticks) (r : GateRequest), s.elapse dt = u ∧
    u.nextRequest 9 = some r ∧ r.payload.length = 72 ∧ (u.ownerAuth r.payload).1 = stDone ∧
    field r.payload 0 1 ≤ 1 ∧ rsv r.payload 1 3 = true :=
    ⟨asking run { Legal.reset with sealOpen := true } (asked 9 (zeros 72)), _, at0, _, rfl, rfl,
    by decide +kernel⟩

theorem witness_gate_changes_take_effect_13 : ∃ (s u : State) (dt : Ticks) (r : GateRequest), s.elapse dt = u ∧
    u.nextRequest 9 = some r ∧ r.payload.length = 72 ∧ (u.ownerAuth r.payload).1 ≠ stDone :=
    ⟨asking run Legal.reset (asked 9 (zeros 72)), _, at0, _, rfl, rfl, by decide +kernel⟩

theorem witness_gate_changes_take_effect_14 : ∃ (s u : State) (dt : Ticks) (r : GateRequest), s.elapse dt = u ∧
    u.nextRequest 9 = some r ∧ (r.payload.length ≠ 72 ∨ ((u.ownerAuth r.payload).1 = stDone ∧
    (1 < field r.payload 0 1 ∨ rsv r.payload 1 3 = false))) :=
    ⟨asking run { Legal.reset with sealOpen := true } (asked 9 ([2] ++ zeros 71)), _, at0, _, rfl, rfl,
    by decide +kernel⟩

theorem witness_gate_changes_take_effect_15 : ∃ (s u : State) (dt : Ticks) (r : GateRequest) (m n : Nat),
    s.elapse dt = u ∧ u.nextRequest 10 = some r ∧ field r.payload 0 1 = m ∧ (u.point m).weigh.nextTxn = n ∧
    u.weighBeginOk r.payload = true ∧ u.txnOpen m = false ∧ u.anyTxnOpen = false :=
    ⟨asking (waste { Weigh.reset with nextTxn := 9 }) Legal.reset (asked 10 ([3, 0, 60, 0, 1] ++ zeros 11)), _,
    at0, _, _, _, rfl, rfl, rfl, rfl, by decide⟩

theorem witness_gate_changes_take_effect_16 : ∃ (s u : State) (dt : Ticks) (r : GateRequest) (m n : Nat),
    s.elapse dt = u ∧ u.nextRequest 10 = some r ∧ field r.payload 0 1 = m ∧ (u.point m).weigh.nextTxn = n ∧
    u.weighBeginOk r.payload = false :=
    ⟨asking (waste { Weigh.reset with nextTxn := 9 }) Legal.reset (asked 10 ([3, 0, 59, 0, 1] ++ zeros 11)), _,
    at0, _, _, _, rfl, rfl, rfl, rfl, by decide⟩

theorem witness_gate_changes_take_effect_17 : ∃ (s u : State) (dt : Ticks) (r : GateRequest) (m n : Nat),
    s.elapse dt = u ∧ u.nextRequest 10 = some r ∧ field r.payload 0 1 = m ∧ (u.point m).weigh.nextTxn = n ∧
    u.weighBeginOk r.payload = true ∧ (u.txnOpen m = true ∨ u.anyTxnOpen = true) :=
    ⟨asking (waste { Weigh.reset with txn := some sale }) Legal.reset (asked 10 ([3, 0, 60, 0, 1] ++ zeros 11)), _,
    at0, _, _, _, rfl, rfl, rfl, rfl, by decide⟩

theorem witness_gate_changes_take_effect_18 : ∃ (s u : State) (dt : Ticks) (r : GateRequest) (m : Nat) (t : Txn),
    s.elapse dt = u ∧ u.nextRequest 11 = some r ∧ r.payload.length = 2 ∧ field r.payload 0 1 = m ∧ m < 4 ∧
    (u.point m).weigh.txn = some t ∧ field r.payload 1 1 = 1 ∧ u.weighCommitStatus m 1 t = stDone :=
    ⟨asking (waste
    { Weigh.reset with
        txn := some { sale with tareKind := 2 }
        stable := true
        zeroSet := true
        latest := some ⟨5, 20000, 20000, []⟩ })
    Legal.reset (asked 11 [3, 1]), _, at0, _, 3, _, rfl, rfl, by decide, by decide, by decide, rfl, by decide⟩

theorem witness_gate_changes_take_effect_19 : ∃ (s u : State) (dt : Ticks) (r : GateRequest) (m : Nat) (t : Txn),
    s.elapse dt = u ∧ u.nextRequest 11 = some r ∧ r.payload.length = 2 ∧ field r.payload 0 1 = m ∧ m < 4 ∧
    (u.point m).weigh.txn = some t ∧ field r.payload 1 1 = 2 ∧ u.weighCommitStatus m 2 t = stDone :=
    ⟨asking (waste
    { Weigh.reset with txn := some sale, stable := true, zeroSet := true, latest := some ⟨5, 20000, 20000, []⟩ })
    Legal.reset (asked 11 [3, 2]), _, at0, _, 3, _, rfl, rfl, by decide, by decide, by decide, rfl, by decide⟩

theorem witness_gate_changes_take_effect_20 : ∃ (s u : State) (dt : Ticks) (r : GateRequest) (m : Nat) (t : Txn),
    ∃ k, ∃ st, s.elapse dt = u ∧ u.nextRequest 11 = some r ∧ r.payload.length = 2 ∧ field r.payload 0 1 = m ∧
    m < 4 ∧ (u.point m).weigh.txn = some t ∧ field r.payload 1 1 = k ∧ (k = 1 ∨ k = 2) ∧
    u.weighCommitStatus m k t = st ∧ st ≠ stDone :=
    ⟨asking (waste { Weigh.reset with txn := some sale }) Legal.reset (asked 11 [3, 2]), _, at0, _, 3, _, 2, _,
    rfl, rfl, by decide +kernel, by decide +kernel, by decide +kernel, rfl, by decide +kernel, by decide +kernel,
    rfl, by decide +kernel⟩

theorem witness_gate_changes_take_effect_21 : ∃ (s : State) (m : Nat) (g : Int), m < s.points.length ∧
    g = (s.wg m).indicated (s.point m).weigh.gross :=
    ⟨run, 3, _, by decide, rfl⟩

theorem witness_gate_changes_take_effect_22 : ∃ (s u : State) (dt : Ticks) (r : GateRequest), s.elapse dt = u ∧
    u.nextRequest 11 = some r ∧
    (r.payload.length ≠ 2 ∨ 4 ≤ field r.payload 0 1 ∨ field r.payload 1 1 = 0 ∨ 2 < field r.payload 1 1) :=
    ⟨asking run Legal.reset (asked 11 [3, 3]), _, at0, _, rfl, rfl, by decide⟩

theorem witness_gate_changes_take_effect_23 : ∃ (s u : State) (dt : Ticks) (r : GateRequest), s.elapse dt = u ∧
    u.nextRequest 11 = some r ∧ r.payload.length = 2 ∧ field r.payload 0 1 < 4 ∧ 1 ≤ field r.payload 1 1 ∧
    field r.payload 1 1 ≤ 2 ∧ (u.point (field r.payload 0 1)).weigh.txn = none :=
    ⟨asking run Legal.reset (asked 11 [3, 2]), _, at0, _, rfl, rfl, by decide⟩

theorem witness_gate_changes_take_effect_24 : ∃ (s u : State) (dt : Ticks) (r : GateRequest) (m : Nat) (t : Txn),
    s.elapse dt = u ∧ u.nextRequest 12 = some r ∧ r.payload.length = 1 ∧ field r.payload 0 1 = m ∧ m < 4 ∧
    (u.point m).weigh.txn = some t :=
    ⟨asking (waste { Weigh.reset with txn := some sale }) Legal.reset (asked 12 [3]), _, at0, _, 3, _, rfl, rfl,
    by decide, by decide, by decide, rfl⟩

theorem witness_gate_changes_take_effect_25 : ∃ (s u : State) (dt : Ticks) (r : GateRequest) (m : Nat),
    s.elapse dt = u ∧ u.nextRequest 12 = some r ∧ field r.payload 0 1 = m ∧ (r.payload.length ≠ 1 ∨ 4 ≤ m) :=
    ⟨asking run Legal.reset (asked 12 [4]), _, at0, _, _, rfl, rfl, rfl, by decide⟩

theorem witness_gate_changes_take_effect_26 : ∃ (s u : State) (dt : Ticks) (r : GateRequest), s.elapse dt = u ∧
    u.nextRequest 15 = some r ∧ u.sealArchiveStatus r.payload = stDone :=
    ⟨asking run { Legal.reset with sealOpen := true } (asked 15 (sha256 [])), _, at0, _, rfl, rfl,
    by decide +kernel⟩

theorem witness_gate_changes_take_effect_27 : ∃ (s u : State) (dt : Ticks) (r : GateRequest), s.elapse dt = u ∧
    u.nextRequest 15 = some r ∧ u.sealArchiveStatus r.payload ≠ stDone :=
    ⟨asking run Legal.reset (asked 15 (zeros 32)), _, at0, _, rfl, rfl, by decide +kernel⟩

theorem witness_gate_changes_take_effect_28 : ∃ (s u : State) (dt : Ticks) (r : GateRequest) (m st : Nat),
    s.elapse dt = u ∧ u.nextRequest 16 = some r ∧ st = u.regArchiveStatus r.payload ∧ field r.payload 0 1 = m ∧
    st = stDone ∧ m < u.points.length :=
    ⟨asking { run with points := List.replicate 4 bare } { Legal.reset with sealOpen := true } (asked 16 ([3, 0, 0,
    0] ++ sha256 bare.bank.toBytes)), _, at0, _, 3, stDone, rfl, rfl, by decide +kernel⟩

theorem witness_gate_changes_take_effect_29 : ∃ (s u : State) (dt : Ticks) (r : GateRequest) (m st : Nat),
    s.elapse dt = u ∧ u.nextRequest 16 = some r ∧ st = u.regArchiveStatus r.payload ∧ field r.payload 0 1 = m ∧
    st ≠ stDone :=
    ⟨asking run Legal.reset (asked 16 (zeros 36)), _, at0, _, _, _, rfl, rfl, rfl, rfl, by decide +kernel⟩

theorem witness_calibration_stages_and_commits_1 : ∃ (s u : State) (dt : Ticks) (r : GateRequest),
    s.elapse dt = u ∧ u.nextRequest 13 = some r ∧ calFieldsOk r.payload = false :=
    ⟨asking run Legal.reset (asked 13 (zeros 20)), _, at0, _, rfl, rfl, by decide⟩

theorem witness_calibration_stages_and_commits_2 : ∃ (s u : State) (dt : Ticks) (r : GateRequest) (k : Nat),
    s.elapse dt = u ∧ u.nextRequest 13 = some r ∧ calFieldsOk r.payload = true ∧ field r.payload 0 1 = k ∧
    u.legal.sealOpen = false ∧ k = 1 :=
    ⟨asking run Legal.reset (asked 13 ([1, 3] ++ zeros 18)), _, at0, _, 1, rfl, rfl, by decide +kernel⟩

theorem witness_calibration_stages_and_commits_3 : ∃ (s u : State) (dt : Ticks) (r : GateRequest) (k : Nat),
    s.elapse dt = u ∧ u.nextRequest 13 = some r ∧ calFieldsOk r.payload = true ∧ field r.payload 0 1 = k ∧
    u.legal.sealOpen = false ∧ k = 2 :=
    ⟨asking run Legal.reset (asked 13 ([2, 3] ++ zeros 18)), _, at0, _, 2, rfl, rfl, by decide +kernel⟩

theorem witness_calibration_stages_and_commits_4 : ∃ (s u : State) (dt : Ticks) (r : GateRequest) (k : Nat),
    s.elapse dt = u ∧ u.nextRequest 13 = some r ∧ calFieldsOk r.payload = true ∧ field r.payload 0 1 = k ∧
    u.legal.sealOpen = false ∧ k = 3 :=
    ⟨asking run Legal.reset (asked 13 ([3, 3, 1] ++ zeros 17)), _, at0, _, 3, rfl, rfl, by decide +kernel⟩

theorem witness_calibration_stages_and_commits_5 : ∃ (s u : State) (dt : Ticks) (r : GateRequest) (k : Nat),
    s.elapse dt = u ∧ u.nextRequest 13 = some r ∧ calFieldsOk r.payload = true ∧ field r.payload 0 1 = k ∧
    u.legal.sealOpen = false ∧ k = 4 :=
    ⟨asking run Legal.reset (asked 13 ([4, 3] ++ zeros 18)), _, at0, _, 4, rfl, rfl, by decide +kernel⟩

theorem witness_calibration_stages_and_commits_6 : ∃ (s u : State) (dt : Ticks) (r : GateRequest) (k : Nat),
    s.elapse dt = u ∧ u.nextRequest 13 = some r ∧ calFieldsOk r.payload = true ∧ field r.payload 0 1 = k ∧
    u.legal.sealOpen = false ∧ k = 5 :=
    ⟨asking run Legal.reset (asked 13 ([5, 3, 1] ++ zeros 17)), _, at0, _, 5, rfl, rfl, by decide +kernel⟩

theorem witness_calibration_stages_and_commits_7 : ∃ (s u : State) (dt : Ticks) (r : GateRequest) (k : Nat),
    s.elapse dt = u ∧ u.nextRequest 13 = some r ∧ calFieldsOk r.payload = true ∧ field r.payload 0 1 = k ∧
    u.legal.sealOpen = false ∧ k = 6 :=
    ⟨asking run Legal.reset (asked 13 ([6, 3] ++ zeros 18)), _, at0, _, 6, rfl, rfl, by decide +kernel⟩

theorem witness_calibration_stages_and_commits_8 : ∃ (s u : State) (dt : Ticks) (r : GateRequest) (k : Nat),
    s.elapse dt = u ∧ u.nextRequest 13 = some r ∧ calFieldsOk r.payload = true ∧ field r.payload 0 1 = k ∧
    u.legal.sealOpen = false ∧ k = 7 :=
    ⟨asking run Legal.reset (asked 13 ([7, 3] ++ zeros 18)), _, at0, _, 7, rfl, rfl, by decide +kernel⟩

theorem witness_calibration_stages_and_commits_9 : ∃ (s u : State) (dt : Ticks) (r : GateRequest) (k : Nat),
    s.elapse dt = u ∧ u.nextRequest 13 = some r ∧ calFieldsOk r.payload = true ∧ field r.payload 0 1 = k ∧
    u.legal.sealOpen = false ∧ k = 8 :=
    ⟨asking run Legal.reset (asked 13 ([8, 3] ++ zeros 18)), _, at0, _, 8, rfl, rfl, by decide +kernel⟩

theorem witness_calibration_stages_and_commits_10 : ∃ (s u : State) (dt : Ticks) (r : GateRequest) (m : Nat),
    s.elapse dt = u ∧ u.nextRequest 13 = some r ∧ calFieldsOk r.payload = true ∧ field r.payload 0 1 = 1 ∧
    field r.payload 1 1 = m ∧ u.legal.sealOpen = true ∧ u.calBeginStatus m = stDone :=
    ⟨asking (waste { Weigh.reset with stable := true }) { Legal.reset with sealOpen := true } (asked 13 ([1, 3]
    ++ zeros 18)), _, at0, _, 3, rfl, rfl, by decide⟩

theorem witness_calibration_stages_and_commits_11 : ∃ (s u : State) (dt : Ticks) (r : GateRequest) (m : Nat),
    s.elapse dt = u ∧ u.nextRequest 13 = some r ∧ calFieldsOk r.payload = true ∧ field r.payload 0 1 = 1 ∧
    field r.payload 1 1 = m ∧ u.legal.sealOpen = true ∧ u.calBeginStatus m ≠ stDone :=
    ⟨asking run { Legal.reset with sealOpen := true } (asked 13 ([1, 3] ++ zeros 18)), _, at0, _, 3, rfl, rfl,
    by decide⟩

theorem witness_calibration_stages_and_commits_12 : ∃ (s u : State) (dt : Ticks) (r : GateRequest) (m k st : Nat),
    s.elapse dt = u ∧ u.nextRequest 13 = some r ∧ calFieldsOk r.payload = true ∧ field r.payload 0 1 = k ∧
    field r.payload 1 1 = m ∧ u.legal.sealOpen = true ∧ u.calStepStatus m k = st ∧ st ≠ stDone ∧ k = 2 :=
    ⟨asking run { Legal.reset with sealOpen := true } (asked 13 ([2, 3] ++ zeros 18)), _, at0, _, 3, 2, _, rfl,
    rfl, by decide +kernel, by decide +kernel, by decide +kernel, by decide +kernel, rfl, by decide +kernel⟩

theorem witness_calibration_stages_and_commits_13 : ∃ (s u : State) (dt : Ticks) (r : GateRequest) (m k st : Nat),
    s.elapse dt = u ∧ u.nextRequest 13 = some r ∧ calFieldsOk r.payload = true ∧ field r.payload 0 1 = k ∧
    field r.payload 1 1 = m ∧ u.legal.sealOpen = true ∧ u.calStepStatus m k = st ∧ st ≠ stDone ∧ k = 3 :=
    ⟨asking run { Legal.reset with sealOpen := true } (asked 13 ([3, 3, 1] ++ zeros 17)), _, at0, _, 3, 3, _, rfl,
    rfl, by decide +kernel, by decide +kernel, by decide +kernel, by decide +kernel, rfl, by decide +kernel⟩

theorem witness_calibration_stages_and_commits_14 : ∃ (s u : State) (dt : Ticks) (r : GateRequest) (m k st : Nat),
    s.elapse dt = u ∧ u.nextRequest 13 = some r ∧ calFieldsOk r.payload = true ∧ field r.payload 0 1 = k ∧
    field r.payload 1 1 = m ∧ u.legal.sealOpen = true ∧ u.calStepStatus m k = st ∧ st ≠ stDone ∧ k = 4 :=
    ⟨asking run { Legal.reset with sealOpen := true } (asked 13 ([4, 3] ++ zeros 18)), _, at0, _, 3, 4, _, rfl,
    rfl, by decide +kernel, by decide +kernel, by decide +kernel, by decide +kernel, rfl, by decide +kernel⟩

theorem witness_calibration_stages_and_commits_15 : ∃ (s u : State) (dt : Ticks) (r : GateRequest) (m k st : Nat),
    s.elapse dt = u ∧ u.nextRequest 13 = some r ∧ calFieldsOk r.payload = true ∧ field r.payload 0 1 = k ∧
    field r.payload 1 1 = m ∧ u.legal.sealOpen = true ∧ u.calStepStatus m k = st ∧ st ≠ stDone ∧ k = 5 :=
    ⟨asking run { Legal.reset with sealOpen := true } (asked 13 ([5, 3, 1] ++ zeros 17)), _, at0, _, 3, 5, _, rfl,
    rfl, by decide +kernel, by decide +kernel, by decide +kernel, by decide +kernel, rfl, by decide +kernel⟩

theorem witness_calibration_stages_and_commits_16 : ∃ (s u : State) (dt : Ticks) (r : GateRequest) (m k st : Nat),
    s.elapse dt = u ∧ u.nextRequest 13 = some r ∧ calFieldsOk r.payload = true ∧ field r.payload 0 1 = k ∧
    field r.payload 1 1 = m ∧ u.legal.sealOpen = true ∧ u.calStepStatus m k = st ∧ st ≠ stDone ∧ k = 6 :=
    ⟨asking run { Legal.reset with sealOpen := true } (asked 13 ([6, 3] ++ zeros 18)), _, at0, _, 3, 6, _, rfl,
    rfl, by decide +kernel, by decide +kernel, by decide +kernel, by decide +kernel, rfl, by decide +kernel⟩

theorem witness_calibration_stages_and_commits_17 : ∃ (s u : State) (dt : Ticks) (r : GateRequest) (m k st : Nat),
    s.elapse dt = u ∧ u.nextRequest 13 = some r ∧ calFieldsOk r.payload = true ∧ field r.payload 0 1 = k ∧
    field r.payload 1 1 = m ∧ u.legal.sealOpen = true ∧ u.calStepStatus m k = st ∧ st ≠ stDone ∧ k = 7 :=
    ⟨asking run { Legal.reset with sealOpen := true } (asked 13 ([7, 3] ++ zeros 18)), _, at0, _, 3, 7, _, rfl,
    rfl, by decide +kernel, by decide +kernel, by decide +kernel, by decide +kernel, rfl, by decide +kernel⟩

theorem witness_calibration_stages_and_commits_18 : ∃ (s u : State) (dt : Ticks) (r : GateRequest) (m k st : Nat),
    s.elapse dt = u ∧ u.nextRequest 13 = some r ∧ calFieldsOk r.payload = true ∧ field r.payload 0 1 = k ∧
    field r.payload 1 1 = m ∧ u.legal.sealOpen = true ∧ u.calStepStatus m k = st ∧ st ≠ stDone ∧ k = 8 :=
    ⟨asking run { Legal.reset with sealOpen := true } (asked 13 ([8, 3] ++ zeros 18)), _, at0, _, 3, 8, _, rfl,
    rfl, by decide +kernel, by decide +kernel, by decide +kernel, by decide +kernel, rfl, by decide +kernel⟩

theorem witness_calibration_stages_and_commits_19 : ∃ (s : State), s.legal.calSeq = none :=
    ⟨run, by decide⟩

theorem witness_calibration_stages_and_commits_20 : ∃ (s u : State) (dt : Ticks) (r : GateRequest) (m : Nat) (c : CalSeq),
    s.elapse dt = u ∧ u.nextRequest 13 = some r ∧ calFieldsOk r.payload = true ∧ field r.payload 1 1 = m ∧
    u.legal.sealOpen = true ∧ u.legal.calSeq = some c ∧ u.calStepStatus m (field r.payload 0 1) = stDone ∧
    field r.payload 0 1 = 2 :=
    ⟨asking (waste { Weigh.reset with stable := true })
    { Legal.reset with sealOpen := true, calSeq := some (cal 3 (bound 4 0)) } (asked 13 ([2, 3] ++ zeros 18)),
    _, at0, _, 3, _, rfl, rfl, by decide, by decide, by decide, rfl, by decide⟩

theorem witness_calibration_stages_and_commits_21 : ∃ (s u : State) (dt : Ticks) (r : GateRequest) (m : Nat) (c : CalSeq),
    s.elapse dt = u ∧ u.nextRequest 13 = some r ∧ calFieldsOk r.payload = true ∧ field r.payload 1 1 = m ∧
    u.legal.sealOpen = true ∧ u.legal.calSeq = some c ∧ u.calStepStatus m (field r.payload 0 1) = stDone ∧
    field r.payload 0 1 = 3 :=
    ⟨wasteCal true (cal 3 (bound 4 0)) ([3, 3, 1] ++ zeros 17), _, at0, _, 3, _, rfl, rfl, by decide, by decide,
    by decide, rfl, by decide⟩

theorem witness_calibration_stages_and_commits_22 : ∃ (s u : State) (dt : Ticks) (r : GateRequest) (m : Nat) (c : CalSeq),
    s.elapse dt = u ∧ u.nextRequest 13 = some r ∧ calFieldsOk r.payload = true ∧ field r.payload 1 1 = m ∧
    u.legal.sealOpen = true ∧ u.legal.calSeq = some c ∧ u.calStepStatus m (field r.payload 0 1) = stDone ∧
    field r.payload 0 1 = 4 :=
    ⟨wasteCal true (cal 3 (bound 4 0)) ([4, 3] ++ zeros 18), _, at0, _, 3, _, rfl, rfl, by decide, by decide,
    by decide, rfl, by decide⟩

theorem witness_calibration_stages_and_commits_23 : ∃ (s u : State) (dt : Ticks) (r : GateRequest) (m : Nat) (c : CalSeq),
    s.elapse dt = u ∧ u.nextRequest 13 = some r ∧ calFieldsOk r.payload = true ∧ field r.payload 1 1 = m ∧
    u.legal.sealOpen = true ∧ u.legal.calSeq = some c ∧ u.calStepStatus m (field r.payload 0 1) = stDone ∧
    field r.payload 0 1 = 5 ∧
    (phaseCount (u.binding m) ≤ field r.payload 2 1 - 1 ∨ sfield r.payload 4 8 ≤ 0 ∨ field r.payload 12 4 = 0 ∨ u.pointSettled m = false) :=
    ⟨elecCal ([5, 3, 3] ++ zeros 17), _, at0, _, 3, _, rfl, rfl, by decide, by decide, by decide, rfl, by decide⟩

theorem witness_calibration_stages_and_commits_24 : ∃ (s u : State) (dt : Ticks) (r : GateRequest) (m : Nat) (c : CalSeq),
    ∃ spans, s.elapse dt = u ∧ u.nextRequest 13 = some r ∧ calFieldsOk r.payload = true ∧ field r.payload 1 1 = m ∧
    u.legal.sealOpen = true ∧ u.legal.calSeq = some c ∧ u.calStepStatus m (field r.payload 0 1) = stDone ∧
    field r.payload 0 1 = 5 ∧ field r.payload 2 1 - 1 < phaseCount (u.binding m) ∧ 0 < sfield r.payload 4 8 ∧
    field r.payload 12 4 ≠ 0 ∧ u.pointSettled m = true ∧ u.lastCycles m = some spans :=
    ⟨asking elecCycles { Legal.reset with sealOpen := true, calSeq := some (cal 3 (bound 1 1)) } (asked 13 ([5,
    3, 1, 0, 1, 0, 0, 0, 0, 0, 0, 0, 1] ++ zeros 7)), _, at0, _, 3, _, ((elecCycles.lastCycles 3).getD []), rfl,
    rfl, by decide +kernel, by decide +kernel, by decide +kernel, rfl, by decide +kernel⟩

theorem witness_calibration_stages_and_commits_25 : ∃ (s u : State) (dt : Ticks) (r : GateRequest) (m : Nat) (c : CalSeq),
    ∃ a nominal, s.elapse dt = u ∧ u.nextRequest 13 = some r ∧ calFieldsOk r.payload = true ∧
    field r.payload 1 1 = m ∧ u.legal.sealOpen = true ∧ u.legal.calSeq = some c ∧
    u.calStepStatus m (field r.payload 0 1) = stDone ∧ field r.payload 0 1 = 6 ∧ a = sfield r.payload 4 8 ∧
    nominal = rtdRRef (u.pnum (rtdId (bindRtd (u.binding m) (field r.payload 2 1)))) ∧
    200 * (a - (nominal : Int)).natAbs ≤ nominal :=
    ⟨asking (par [(0x2300, bound 3 0)]) { Legal.reset with sealOpen := true, calSeq := some (cal 3 (bound 3 0)) }
    (asked 13 ([6, 3, 0, 0] ++ leBytes 8 400000000 ++ zeros 8)), _, at0, _, 3, _, _, _, rfl, rfl, by decide,
    by decide, by decide, rfl, by decide, by decide, rfl, rfl, by decide⟩

theorem witness_calibration_stages_and_commits_26 : ∃ (s u : State) (dt : Ticks) (r : GateRequest) (m : Nat) (c : CalSeq),
    s.elapse dt = u ∧ u.nextRequest 13 = some r ∧ calFieldsOk r.payload = true ∧ field r.payload 1 1 = m ∧
    u.legal.sealOpen = true ∧ u.legal.calSeq = some c ∧ u.calStepStatus m (field r.payload 0 1) = stDone ∧
    field r.payload 0 1 = 8 :=
    ⟨asking (par [(0x2300, bound 3 0)]) { Legal.reset with sealOpen := true, calSeq := some (cal 3 (bound 3 0)) }
    (asked 13 ([8, 3] ++ zeros 18)), _, at0, _, 3, _, rfl, rfl, by decide, by decide, by decide, rfl, by decide⟩

theorem witness_calibration_stages_and_commits_27 : ∃ (s u : State) (dt : Ticks) (r : GateRequest) (m : Nat) (c : CalSeq),
    s.elapse dt = u ∧ u.nextRequest 13 = some r ∧ calFieldsOk r.payload = true ∧ field r.payload 1 1 = m ∧
    u.legal.sealOpen = true ∧ u.legal.calSeq = some c ∧ u.calStepStatus m (field r.payload 0 1) = stDone ∧
    field r.payload 0 1 = 7 ∧ u.calTerms m = none :=
    ⟨elecCal ([7, 3] ++ zeros 18), _, at0, _, 3, _, rfl, rfl, by decide, by decide, by decide, rfl, by decide⟩

theorem witness_calibration_stages_and_commits_28 : ∃ (s u : State) (dt : Ticks) (r : GateRequest) (m : Nat) (c : CalSeq),
    ∃ terms, s.elapse dt = u ∧ u.nextRequest 13 = some r ∧ calFieldsOk r.payload = true ∧ field r.payload 1 1 = m ∧
    u.legal.sealOpen = true ∧ u.legal.calSeq = some c ∧ u.calStepStatus m (field r.payload 0 1) = stDone ∧
    field r.payload 0 1 = 7 ∧ u.calTerms m = some terms ∧ 65535 ≤ u.legal.calcnt :=
    ⟨heatCal { Legal.reset with calcnt := 65535 }, _, at0, _, 3, _, _, rfl, rfl, by decide, by decide, by decide,
    rfl, by decide, by decide, rfl, by decide⟩

theorem witness_calibration_stages_and_commits_29 : ∃ (s u : State) (dt : Ticks) (r : GateRequest) (m : Nat) (c : CalSeq),
    ∃ terms, s.elapse dt = u ∧ u.nextRequest 13 = some r ∧ calFieldsOk r.payload = true ∧ field r.payload 1 1 = m ∧
    u.legal.sealOpen = true ∧ u.legal.calSeq = some c ∧ u.calStepStatus m (field r.payload 0 1) = stDone ∧
    field r.payload 0 1 = 7 ∧ u.calTerms m = some terms ∧ u.legal.calcnt < 65535 ∧ u.sealSpace = false :=
    ⟨heatCal { Legal.reset with sealLog := List.replicate 248 entry }, _, at0, _, 3, _, _, rfl, rfl,
    by decide +kernel, by decide +kernel, by decide +kernel, rfl, by decide +kernel, by decide +kernel, rfl,
    by decide +kernel⟩

theorem witness_calibration_stages_and_commits_30 : ∃ (s u : State) (dt : Ticks) (r : GateRequest) (m : Nat) (c : CalSeq),
    ∃ terms, s.elapse dt = u ∧ u.nextRequest 13 = some r ∧ calFieldsOk r.payload = true ∧ field r.payload 1 1 = m ∧
    u.legal.sealOpen = true ∧ u.legal.calSeq = some c ∧ u.calStepStatus m (field r.payload 0 1) = stDone ∧
    field r.payload 0 1 = 7 ∧ u.calTerms m = some terms ∧ u.legal.calcnt < 65535 ∧ u.sealSpace = true :=
    ⟨asking (par [(0x2300, bound 3 0)])
    { Legal.reset with sealOpen := true, calSeq := some ({ cal 3 (bound 3 0) with rref := [some 1, some 2] }) }
    (asked 13 ([7, 3] ++ zeros 18)), _, at0, _, 3, _, _, rfl, rfl, by decide, by decide, by decide, rfl,
    by decide, by decide, rfl, by decide⟩

theorem witness_calibration_stages_and_commits_31 : ∃ (c : CalSeq) (cells : Nat) (fs : List Nat) (z a d k : Int),
    c.factors cells = some fs ∧ c.zero = some z ∧ c.span = some (a, d) ∧ 0 < d ∧
    k = roundDiv (a * 4294967296 * 65536) d.toNat ∧ 0 ≤ k ∧ k < 2 ^ 64 :=
    ⟨{ cal 3 [] with zero := some (219902324 * 65536), span := some (1000000000, (1319413951 - 219902324) * 65536) },
    1, _, _, _, _, _, rfl, rfl, rfl, by decide +kernel, rfl, by decide +kernel⟩

theorem witness_gate_replies_are_taken_in_order_1 : ∃ (s u : State) (dt : Ticks) (g code st : Nat) (b : Bytes) (rest : List GateReply) (f : InFlight),
    s.elapse dt = u ∧ u.ready = true ∧ u.gate.replies = .answer g code st b :: rest ∧
    u.gate.own.find? (fun r => r.1 == g) = none ∧ u.hawk.inFlight.find? (fun f => f.gseq == some g) = some f ∧
    code ≠ 6 ∧ code ≠ 0x0E ∧ st ≠ stDone :=
    ⟨replying (.answer 5 2 1 []), _, at0, 5, 2, 1, [], _, _, rfl, by decide, rfl, by decide, rfl, by decide⟩

theorem witness_gate_replies_are_taken_in_order_2 : ∃ (s u : State) (dt : Ticks) (g code st : Nat) (b : Bytes) (rest : List GateReply) (f : InFlight),
    s.elapse dt = u ∧ u.ready = true ∧ u.gate.replies = .answer g code st b :: rest ∧
    u.gate.own.find? (fun r => r.1 == g) = none ∧ u.hawk.inFlight.find? (fun f => f.gseq == some g) = some f ∧
    code ≠ 6 ∧ code ≠ 0x0E ∧ st = stDone ∧ code ≠ 1 ∧ code ≠ 8 ∧ code ≠ 9 :=
    ⟨replying (.answer 5 2 0 []), _, at0, 5, 2, 0, [], _, _, rfl, by decide, rfl, by decide, rfl, by decide⟩

theorem witness_gate_replies_are_taken_in_order_3 : ∃ (s u : State) (dt : Ticks) (g code st : Nat) (b : Bytes) (rest : List GateReply) (f : InFlight),
    s.elapse dt = u ∧ u.ready = true ∧ u.gate.replies = .answer g code st b :: rest ∧
    u.gate.own.find? (fun r => r.1 == g) = none ∧ u.hawk.inFlight.find? (fun f => f.gseq == some g) = some f ∧
    code ≠ 6 ∧ code ≠ 0x0E ∧ st = stDone ∧ code = 1 :=
    ⟨replying (.answer 5 1 0 []), _, at0, 5, 1, 0, [], _, _, rfl, by decide, rfl, by decide, rfl, by decide⟩

theorem witness_gate_replies_are_taken_in_order_4 : ∃ (s u : State) (dt : Ticks) (n : Unsolicited) (rest : List GateReply),
    ∃ r, s.elapse dt = u ∧ u.ready = true ∧ u.gate.replies = .news n :: rest ∧ n = .reading r :=
    ⟨replied (.news (.reading [])), _, at0, _, _, _, rfl, by decide, rfl, rfl⟩

theorem witness_gate_replies_are_taken_in_order_5 : ∃ (s u : State) (dt : Ticks) (n : Unsolicited) (rest : List GateReply),
    ∃ e, s.elapse dt = u ∧ u.ready = true ∧ u.gate.replies = .news n :: rest ∧ n = .logEntry e ∧
    u.update.activation = none :=
    ⟨replied (.news (.logEntry [])), _, at0, _, _, _, rfl, by decide, rfl, rfl, by decide⟩

theorem witness_gate_replies_are_taken_in_order_6 : ∃ (s u : State) (dt : Ticks) (n : Unsolicited) (rest : List GateReply),
    ∃ b, s.elapse dt = u ∧ u.ready = true ∧ u.gate.replies = .news n :: rest ∧ n = .sealState b :=
    ⟨replied (.news (.sealState true)), _, at0, _, _, _, rfl, by decide, rfl, rfl⟩

theorem witness_gate_replies_are_taken_in_order_7 : ∃ (s u : State) (dt : Ticks) (n : Unsolicited) (rest : List GateReply),
    ∃ old, ∃ new, s.elapse dt = u ∧ u.ready = true ∧ u.gate.replies = .news n :: rest ∧ n = .timeStatus old new :=
    ⟨replied (.news (.timeStatus 0 1)), _, at0, _, _, _, _, rfl, by decide, rfl, rfl⟩

theorem witness_gate_replies_are_taken_in_order_8 : ∃ (s u : State) (dt : Ticks), s.elapse dt = u ∧
    (u.ready = false ∨ u.gate.replies = []) :=
    ⟨run, _, at0, rfl, by decide⟩

theorem witness_gate_replies_are_taken_in_order_9 : ∃ (s u : State) (dt : Ticks) (code : Nat) (p : Bytes) (rest : List (Nat × Bytes)),
    s.elapse dt = u ∧ u.gate.waiting = (code, p) :: rest ∧ u.gate.requests.length < 8 ∧ u.ready = true ∧
    u.boot.lcHalt = false :=
    ⟨{ run with gate := { Gate.reset with waiting := [(1, [0])] } }, _, at0, 1, [0], _, rfl, rfl, by decide⟩

theorem witness_gate_replies_are_taken_in_order_10 : ∃ (s u : State) (dt : Ticks), s.elapse dt = u ∧
    (u.gate.waiting = [] ∨ 8 ≤ u.gate.requests.length) :=
    ⟨run, _, at0, rfl, by decide⟩

theorem witness_gate_replies_are_taken_in_order_11 : ∃ (s : State) (r : Bytes) (rest : List Bytes),
    s.hawk.toStore = r :: rest ∧ s.profileReady = true :=
    ⟨{ stored with hawk := { run.hawk with toStore := [zeros 192] } }, _, _, rfl, by decide⟩

theorem witness_gate_replies_are_taken_in_order_12 : ∃ (s : State), s.hawk.toStore = [] :=
    ⟨run, by decide⟩

theorem witness_gate_replies_are_taken_in_order_13 : ∃ (s : State) (r : Bytes) (rest : List Bytes),
    s.hawk.delivery = r :: rest ∧ s.bulkRoom r.length = true :=
    ⟨{ run with hawk := { (mailbox run).hawk with delivery := [zeros 192], poolSize := 192 } }, zeros 192, _, rfl,
    by decide +kernel⟩

theorem witness_gate_replies_are_taken_in_order_14 : ∃ (s : State) (r : Bytes) (rest : List Bytes),
    s.hawk.delivery = r :: rest ∧ s.bulkRoom r.length = false :=
    ⟨{ idleRings 0 with hawk := { (idleRings 0).hawk with delivery := [zeros 192] } }, zeros 192, _, rfl,
    by decide +kernel⟩

theorem witness_spi_frames_reach_the_registers_1 : ∃ (s u v : State) (dt : Ticks) (addr a b : Nat) (x y : Word),
    s.elapse dt = u ∧ u.boot.held = false ∧ addr % 4 = 0 ∧ u.writeRegister addr x = (a, v) ∧
    (v.writeRegister (addr + 4) y).1 = b :=
    ⟨run, _, _, at0, 0, _, _, 0, 0, rfl, by decide, rfl, rfl, rfl⟩

theorem witness_spi_frames_reach_the_registers_2 : ∃ (s u : State) (dt : Ticks) (off : Nat), s.elapse dt = u ∧
    u.boot.held = false ∧ off % 4 ≠ 0 :=
    ⟨run, _, at0, 2, rfl, by decide⟩

theorem witness_spi_frames_reach_the_registers_3 : ∃ (s u : State) (dt : Ticks) (off : Nat), s.elapse dt = u ∧
    u.boot.held = false ∧ off % 4 = 0 ∧ ((0x28 ≤ off ∧ off < 0x30) ∨ (0x38 ≤ off ∧ off < 0x40) ∨ (0x70 ≤ off ∧
    off < 0x100) ∨ 0x180 ≤ off) :=
    ⟨run, _, at0, 0x28, rfl, by decide⟩

theorem witness_spi_frames_reach_the_registers_4 : ∃ (s u : State) (dt : Ticks) (off : Nat), s.elapse dt = u ∧
    u.boot.held = false ∧ u.ready = false ∧
    (off = 0x34 ∨ off = 0x44 ∨ off = 0x48 ∨ off = 0x4C ∨ off = 0x60 ∨ off = 0x64) :=
    ⟨boot { run.boot with stage := 6 }, _, at0, 0x64, rfl, by decide⟩

theorem witness_spi_frames_reach_the_registers_5 : ∃ (s u : State) (dt : Ticks) (n : Nat), s.elapse dt = u ∧
    u.boot.held = false ∧ u.ready = true ∧ n < 4 :=
    ⟨run, _, at0, 3, rfl, by decide⟩

theorem witness_spi_frames_reach_the_registers_6 : ∃ (s u : State) (dt : Ticks) (n : Nat), s.elapse dt = u ∧
    u.boot.held = false ∧ u.ready = true ∧ (n = 1 ∨ n = 2) :=
    ⟨run, _, at0, 2, rfl, by decide⟩

theorem witness_spi_frames_reach_the_registers_7 : ∃ (s u : State) (dt : Ticks), ∃ addr, ∃ n, s.elapse dt = u ∧
    u.boot.held = false ∧ addr % 4 ≠ 0 ∧ 1 ≤ n ∧ n ≤ 255 :=
    ⟨run, _, at0, 2, 255, rfl, by decide⟩

theorem witness_spi_frames_reach_the_registers_8 : ∃ (s u : State) (dt : Ticks), ∃ addr, s.elapse dt = u ∧
    u.boot.held = false ∧ described addr = false ∧ addr % 4 = 0 :=
    ⟨run, _, at0, 0x118, rfl, by decide⟩

theorem witness_spi_frames_reach_the_registers_9 : ∃ (s u : State) (dt : Ticks), ∃ addr, s.elapse dt = u ∧
    u.boot.held = false ∧ described addr = true ∧ addr ≠ 0x50 ∧ addr ≠ 0x5C ∧ addr ≠ 0x6C ∧
    (addr ≠ 0x10C ∨ u.ready = true) :=
    ⟨run, _, at0, 0x10C, rfl, by decide⟩

theorem witness_spi_frames_reach_the_registers_10 : ∃ (s : State), s.ready = true :=
    ⟨run, by decide⟩

theorem witness_spi_frames_reach_the_registers_11 : ∃ (s : State), s.ready = false :=
    ⟨boot { run.boot with stage := 6 }, by decide⟩

theorem witness_spi_frames_reach_the_registers_12 : ∃ (s u : State) (dt : Ticks) (code : Nat), s.elapse dt = u ∧
    u.boot.held = false ∧ (code = 0 ∨ 4 < code) :=
    ⟨run, _, at0, 5, rfl, by decide⟩

theorem witness_spi_frames_reach_the_registers_13 : ∃ (s u : State) (dt : Ticks), s.elapse dt = u ∧
    u.boot.held = true :=
    ⟨boot { run.boot with held := true }, _, at0, rfl, by decide⟩

theorem witness_rings_follow_their_indices_1 : ∃ (s u : State) (dt : Ticks), s.elapse dt = u ∧
    u.boot.held = false ∧ u.ready = true ∧ (u.ring 0).works = true :=
    ⟨mailbox run, _, at0, rfl, by decide⟩

theorem witness_rings_follow_their_indices_2 : ∃ (s u : State) (dt : Ticks), s.elapse dt = u ∧
    u.boot.held = false ∧ u.ready = false :=
    ⟨boot { run.boot with stage := 6 }, _, at0, rfl, by decide⟩

theorem witness_rings_follow_their_indices_3 : ∃ (s u : State) (dt : Ticks), s.elapse dt = u ∧
    u.boot.held = false ∧ u.ready = true ∧ (u.ring 0).works = false :=
    ⟨idleRings 0, _, at0, rfl, by decide⟩

theorem witness_rings_follow_their_indices_4 : ∃ (s u : State) (dt : Ticks) (n d : Nat) (v : Word),
    s.elapse dt = u ∧ u.boot.held = false ∧ u.ready = true ∧ 1 ≤ n ∧ n < 4 ∧
    d = ((v.setWidth 16) - (u.ring n).head).toNat ∧ (u.ring n).works = false :=
    ⟨idleRings 0, _, at0, 3, _, 2, rfl, by decide, by decide, by decide, by decide, rfl, by decide⟩

theorem witness_rings_follow_their_indices_5 : ∃ (s u : State) (dt : Ticks) (n d : Nat) (v : Word),
    s.elapse dt = u ∧ u.boot.held = false ∧ u.ready = true ∧ 1 ≤ n ∧ n < 4 ∧
    d = ((v.setWidth 16) - (u.ring n).head).toNat ∧ (u.ring n).works = true ∧ (u.ring n).count < d :=
    ⟨mailbox run, _, at0, 3, _, 3, rfl, by decide, by decide, by decide, by decide, rfl, by decide⟩

theorem witness_rings_follow_their_indices_6 : ∃ (s u : State) (dt : Ticks) (n d : Nat) (v : Word),
    s.elapse dt = u ∧ u.boot.held = false ∧ u.ready = true ∧ 1 ≤ n ∧ n < 4 ∧
    d = ((v.setWidth 16) - (u.ring n).head).toNat ∧ (u.ring n).works = true ∧ d ≤ (u.ring n).count :=
    ⟨mailbox run, _, at0, 3, _, 2, rfl, by decide, by decide, by decide, by decide, rfl, by decide⟩

theorem witness_rings_follow_their_indices_7 : ∃ (s u : State) (dt : Ticks) (n : Nat) (v : Word), s.elapse dt = u ∧
    u.boot.held = false ∧ u.ready = true ∧ n < 4 ∧ (u.ring n).enable = false ∧ v.getLsbD 8 = true ∧
    (v.toNat % 16 < 4 ∨ 12 < v.toNat % 16) :=
    ⟨idleRings 0, _, at0, 3, 0x103, rfl, by decide⟩

theorem witness_rings_follow_their_indices_8 : ∃ (s u w : State) (dt : Ticks) (n : Nat) (v : Word),
    s.elapse dt = u ∧ u.boot.held = false ∧ u.ready = true ∧ n < 4 ∧ (u.ring n).enable = false ∧
    v.getLsbD 8 = true ∧ 4 ≤ v.toNat % 16 ∧ v.toNat % 16 ≤ 12 ∧
    w = u.modRing n (fun r => { r with log2 := v.toNat % 16, thresh := min r.thresh (2 ^ (v.toNat % 16)) }) ∧
    w.ringPlaceOk n (w.ring n) = false :=
    ⟨idleRings 1, _, _, at0, 3, 0x10C, rfl, by decide, by decide, by decide, by decide, by decide, by decide,
    by decide, rfl, by decide⟩

theorem witness_rings_follow_their_indices_9 : ∃ (s u w : State) (dt : Ticks) (n : Nat) (v : Word),
    s.elapse dt = u ∧ u.boot.held = false ∧ u.ready = true ∧ n < 4 ∧ (u.ring n).enable = false ∧
    v.getLsbD 8 = true ∧ 4 ≤ v.toNat % 16 ∧ v.toNat % 16 ≤ 12 ∧
    w = u.modRing n (fun r => { r with log2 := v.toNat % 16, thresh := min r.thresh (2 ^ (v.toNat % 16)) }) ∧
    w.ringPlaceOk n (w.ring n) = true :=
    ⟨idleRings 0, _, _, at0, 0, 0x104, rfl, by decide, by decide, by decide, by decide, by decide, by decide,
    by decide, rfl, by decide⟩

theorem witness_rings_follow_their_indices_10 : ∃ (s u : State) (dt : Ticks) (n : Nat) (v : Word),
    s.elapse dt = u ∧ u.boot.held = false ∧ u.ready = true ∧ 1 ≤ n ∧ n < 4 ∧ (u.ring n).enable = true ∧
    v.getLsbD 8 = false :=
    ⟨mailbox run, _, at0, 3, 0, rfl, by decide⟩

theorem witness_rings_follow_their_indices_11 : ∃ (s u : State) (dt : Ticks) (failing : Bool), s.elapse dt = u ∧
    u.nextRoute failing = none :=
    ⟨run, _, at0, false, rfl, by decide⟩

theorem witness_rings_follow_their_indices_12 : ∃ (s u : State) (dt : Ticks) (failing : Bool), s.elapse dt = u ∧
    u.nextRoute failing = some 0 :=
    ⟨mailbox run, _, at0, false, rfl, by decide⟩

theorem witness_rings_follow_their_indices_13 : ∃ (s u : State) (dt : Ticks) (failing : Bool), ∃ k, ∃ w,
    s.elapse dt = u ∧ 1 ≤ k ∧ u.nextRoute failing = some k ∧ u.nextWaiting (routeOf k) = some w :=
    ⟨{ serviced with hawk := { run.hawk with waiting := [⟨⟨.service, 1⟩, zeros 64, [], 0⟩] } }, _, at0, false, _,
    _, rfl, by decide +kernel, rfl, rfl⟩

theorem witness_rings_follow_their_indices_14 : ∃ (s : State) (failing : Bool) (k : Nat),
    s.nextRoute failing = some k :=
    ⟨mailbox run, false, _, rfl⟩

theorem witness_rings_follow_their_indices_15 : ∃ (s : State) (b : Bytes) (e : Entry),
    b = Memory.readBytes s.mem.cells ((s.ring 0).addr (s.ring 0).head) 64 ∧ e = Entry.ofBytes b ∧
    s.mem.readFails ((s.ring 0).addr (s.ring 0).head) 64 = false ∧ e.bulk = false :=
    ⟨mailbox run, _, _, rfl, rfl, by decide⟩

theorem witness_rings_follow_their_indices_16 : ∃ (s u v : State) (dt : Ticks) (port : Origin) (entry d : Bytes),
    s.elapse dt = u ∧ u.rilfyOpen port = true ∧ entry.length = 64 ∧ d.length ≤ 4096 ∧
    d.length = (if (Entry.ofBytes entry).bulk then (Entry.ofBytes entry).length else 0) ∧
    v = (if port = .optical then u.modPorts (fun p => { p with optAt := u.mono }) else u) :=
    ⟨serviced, _, _, at0, .service, zeros 64, [], rfl, by decide +kernel, by decide +kernel, by decide +kernel,
    by decide +kernel, rfl⟩

theorem witness_rings_follow_their_indices_17 : ∃ (s u : State) (dt : Ticks) (port : Origin) (f x c : Bytes),
    s.elapse dt = u ∧ u.rilfyOpen port = true ∧ rilfyInside f = some x ∧ rilfyUnescape x = some c ∧
    rilfyOk c = false :=
    ⟨serviced, _, at0, .service, [0x7E, 0, 0x7E], _, _, rfl, by decide, rfl, rfl, by decide⟩

theorem witness_rings_follow_their_indices_18 : ∃ (s u : State) (dt : Ticks) (port : Origin) (f : Bytes),
    s.elapse dt = u ∧ (u.rilfyOpen port = false ∨ rilfyInside f = none) :=
    ⟨serviced, _, at0, .service, [0x7E], rfl, by decide⟩

theorem witness_host_memory_window_is_guarded_1 : ∃ (s u : State) (dt : Ticks) (addr : Nat), s.elapse dt = u ∧
    u.boot.held = false ∧ u.ready = true ∧ addr % 4 = 0 ∧ 0x3FFFC < addr :=
    ⟨run, _, at0, 0x40000, rfl, by decide⟩

theorem witness_host_memory_window_is_guarded_2 : ∃ (s u : State) (dt : Ticks) (addr : Nat), s.elapse dt = u ∧
    u.boot.held = false ∧ u.ready = true ∧ addr % 4 = 0 ∧ addr ≤ 0x3FFFC ∧ u.hostWritable addr = true ∧
    u.mem.isPoisoned (hawkBase + addr) = false :=
    ⟨mailbox run, _, at0, 0x13FC, rfl, by decide⟩

theorem witness_host_memory_window_is_guarded_3 : ∃ (s u : State) (dt : Ticks) (addr : Nat), s.elapse dt = u ∧
    u.boot.held = false ∧ u.ready = true ∧ addr % 4 = 0 ∧ (0x3FFFC < addr ∨ u.hostWritable addr = false) :=
    ⟨run, _, at0, 0x40000, rfl, by decide⟩

theorem witness_host_memory_window_is_guarded_4 : ∃ (s u : State) (dt : Ticks) (addr : Nat) (failing : List Nat),
    s.elapse dt = u ∧ u.boot.held = false ∧ u.ready = true ∧ addr % 4 = 0 ∧ addr ≤ 0x3FFFC ∧
    u.hostWritable addr = true ∧ (u.mem.isPoisoned (hawkBase + addr) = true ∨ addr / 32 ∈ failing) :=
    ⟨mailbox run, _, at0, 0x13FC, [159], rfl, by decide⟩

theorem witness_host_memory_window_is_guarded_5 : ∃ (s u : State) (dt : Ticks), s.elapse dt = u ∧
    u.boot.held = false ∧ u.ready = false :=
    ⟨boot { run.boot with stage := 6 }, _, at0, rfl, by decide⟩

theorem witness_host_memory_window_is_guarded_6 : ∃ (s u : State) (dt : Ticks) (addr : Nat), s.elapse dt = u ∧
    u.boot.held = false ∧ u.ready = true ∧ addr % 4 ≠ 0 :=
    ⟨run, _, at0, 2, rfl, by decide⟩

theorem witness_host_memory_window_is_guarded_7 : ∃ (s u t : State) (dt : Ticks) (addr : Nat) (ws : List Word) (failing : List Nat),
    ∃ a, s.elapse dt = u ∧ Memory.wf u.mem.cells = true ∧ (u.ring 0).base % 64 = 0 ∧
    exec (.memWrite dt addr ws failing) s = .next t ∧ (a < hawkBase ∨ hawkBase + 0x40000 ≤ a) :=
    ⟨mailbox run, _, _, at0, 0, [5], [], 0, rfl, by decide, by decide, rfl, by decide⟩

theorem witness_host_memory_window_is_guarded_8 : ∃ (s u t : State) (dt : Ticks) (addr : Nat) (ws : List Word) (failing : List Nat),
    ∃ off, s.elapse dt = u ∧ Memory.wf u.mem.cells = true ∧ (u.ring 0).base % 64 = 0 ∧
    exec (.memWrite dt addr ws failing) s = .next t ∧ u.hostWritable off = false :=
    ⟨{ run with hawk := { (mailbox run).hawk with poolBase := 0xA000, poolSize := 0x20000 } }, _, _, at0, 0, [5],
    [], 0xA000, rfl, by decide, by decide, rfl, by decide⟩

theorem witness_touch_vbat_usb_and_optical_events_1 : ∃ (s u : State) (dt : Ticks), s.elapse dt = u ∧
    u.ready = true ∧ u.pnum 0x6000 = 0 :=
    ⟨run, _, at0, rfl, by decide⟩

theorem witness_touch_vbat_usb_and_optical_events_2 : ∃ (s u : State) (dt : Ticks) (raws : List Nat) (k : Nat) (r : Pad × PadNews),
    s.elapse dt = u ∧ u.ready = true ∧ k < 8 ∧ u.pnum 0x6000 = 2 ^ k ∧
    r = (u.ports.pads.getD k Pad.reset).scan (raws.getD k 0) (u.pnum 0x6001) (u.pnum 0x6002 * 1000000000) u.mono :=
    ⟨par [(0x6000, [128])], _, at0, [0, 0, 0, 0, 0, 0, 0, 65535], 7, _, rfl, by decide, by decide, by decide,
    rfl⟩

theorem witness_touch_vbat_usb_and_optical_events_3 : ∃ (s u : State) (dt : Ticks), s.elapse dt = u ∧
    u.ready = true ∧ u.ports.pads.length = 8 :=
    ⟨run, _, at0, rfl, by decide⟩

theorem witness_touch_vbat_usb_and_optical_events_4 : ∃ (p : Pad), p.scans < 8 :=
    ⟨Pad.reset, by decide⟩

theorem witness_touch_vbat_usb_and_optical_events_5 : ∃ (p : Pad) (raw thresh : Nat) (delta : Rat), 8 ≤ p.scans ∧
    0 < p.baseline ∧ 0 < thresh ∧ delta = ((raw : Rat) - p.baseline) / p.baseline * 1000 ∧ p.touched = false ∧
    delta < -thresh :=
    ⟨pad false 0, 994, 5, _, by decide +kernel, by decide +kernel, by decide +kernel, rfl, by decide +kernel⟩

theorem witness_touch_vbat_usb_and_optical_events_6 : ∃ (p : Pad) (raw thresh : Nat) (delta : Rat), 8 ≤ p.scans ∧
    0 < p.baseline ∧ 0 < thresh ∧ delta = ((raw : Rat) - p.baseline) / p.baseline * 1000 ∧ p.touched = false ∧
    -thresh < 2 * delta ∧ 2 * delta < thresh :=
    ⟨pad false 0, 1002, 5, _, by decide +kernel, by decide +kernel, by decide +kernel, rfl, by decide +kernel⟩

theorem witness_touch_vbat_usb_and_optical_events_7 : ∃ (p : Pad) (raw thresh : Nat) (delta : Rat), 8 ≤ p.scans ∧
    0 < p.baseline ∧ 0 < thresh ∧ delta = ((raw : Rat) - p.baseline) / p.baseline * 1000 ∧ p.touched = false ∧
    (thresh ≤ 2 * delta ∨ 2 * delta ≤ -thresh) ∧ -thresh ≤ delta ∧ delta < thresh :=
    ⟨pad false 0, 1004, 5, _, by decide +kernel, by decide +kernel, by decide +kernel, rfl, by decide +kernel⟩

theorem witness_touch_vbat_usb_and_optical_events_8 : ∃ (p : Pad) (raw thresh : Nat) (delta : Rat), 8 ≤ p.scans ∧
    0 < p.baseline ∧ 0 < thresh ∧ delta = ((raw : Rat) - p.baseline) / p.baseline * 1000 ∧ p.touched = false ∧
    thresh ≤ delta ∧ p.above = 0 :=
    ⟨pad false 0, 1005, 5, _, by decide +kernel, by decide +kernel, by decide +kernel, rfl, by decide +kernel⟩

theorem witness_touch_vbat_usb_and_optical_events_9 : ∃ (p : Pad) (raw thresh : Nat) (delta : Rat), 8 ≤ p.scans ∧
    0 < p.baseline ∧ 0 < thresh ∧ delta = ((raw : Rat) - p.baseline) / p.baseline * 1000 ∧ p.touched = false ∧
    thresh ≤ delta ∧ 1 ≤ p.above :=
    ⟨pad false 1, 1005, 5, _, by decide +kernel, by decide +kernel, by decide +kernel, rfl, by decide +kernel⟩

theorem witness_touch_vbat_usb_and_optical_events_10 : ∃ (p : Pad) (raw thresh maxOn now : Nat) (delta : Rat),
    8 ≤ p.scans ∧ 0 < p.baseline ∧ 0 < thresh ∧ delta = ((raw : Rat) - p.baseline) / p.baseline * 1000 ∧
    p.touched = true ∧ p.since + maxOn ≤ now :=
    ⟨pad true 0, 1005, 5, 7, 7, _, by decide +kernel, by decide +kernel, by decide +kernel, rfl, by decide +kernel⟩

theorem witness_touch_vbat_usb_and_optical_events_11 : ∃ (p : Pad) (raw thresh maxOn now : Nat) (delta : Rat),
    8 ≤ p.scans ∧ 0 < p.baseline ∧ 0 < thresh ∧ delta = ((raw : Rat) - p.baseline) / p.baseline * 1000 ∧
    p.touched = true ∧ now < p.since + maxOn ∧ thresh * 3 ≤ delta * 4 :=
    ⟨pad true 0, 1015, 20, 7, 6, _, by decide +kernel, by decide +kernel, by decide +kernel, rfl, by decide +kernel⟩

theorem witness_touch_vbat_usb_and_optical_events_12 : ∃ (p : Pad) (raw thresh maxOn now : Nat) (delta : Rat),
    8 ≤ p.scans ∧ 0 < p.baseline ∧ 0 < thresh ∧ delta = ((raw : Rat) - p.baseline) / p.baseline * 1000 ∧
    p.touched = true ∧ now < p.since + maxOn ∧ delta * 4 < thresh * 3 ∧ p.below = 0 :=
    ⟨pad true 0, 1014, 20, 7, 6, _, by decide +kernel, by decide +kernel, by decide +kernel, rfl, by decide +kernel⟩

theorem witness_touch_vbat_usb_and_optical_events_13 : ∃ (p : Pad) (raw thresh maxOn now : Nat) (delta : Rat),
    8 ≤ p.scans ∧ 0 < p.baseline ∧ 0 < thresh ∧ delta = ((raw : Rat) - p.baseline) / p.baseline * 1000 ∧
    p.touched = true ∧ now < p.since + maxOn ∧ delta * 4 < thresh * 3 ∧ 1 ≤ p.below :=
    ⟨pad true 1, 1014, 20, 7, 6, _, by decide +kernel, by decide +kernel, by decide +kernel, rfl, by decide +kernel⟩

theorem witness_touch_vbat_usb_and_optical_events_14 : ∃ (s u : State) (dt : Ticks) (mv : Nat), s.elapse dt = u ∧
    u.legalRuns = true ∧ u.aon.mainPower = true ∧ 2400 ≤ mv ∧ mv < 2450 :=
    ⟨run, _, at0, 2449, rfl, by decide⟩

theorem witness_touch_vbat_usb_and_optical_events_15 : ∃ (s u : State) (dt : Ticks) (mv : Nat), s.elapse dt = u ∧
    u.legalRuns = true ∧ u.aon.mainPower = true ∧ mv < 2400 ∧ u.ports.vbatLow = false :=
    ⟨run, _, at0, 2399, rfl, by decide⟩

theorem witness_touch_vbat_usb_and_optical_events_16 : ∃ (s u : State) (dt : Ticks) (mv : Nat), s.elapse dt = u ∧
    u.legalRuns = true ∧ u.aon.mainPower = true ∧ mv < 2400 ∧ u.ports.vbatLow = true :=
    ⟨{ run with ports := { Ports.reset with vbatLow := true } }, _, at0, 2399, rfl, by decide⟩

theorem witness_touch_vbat_usb_and_optical_events_17 : ∃ (s u : State) (dt : Ticks) (mv : Nat), s.elapse dt = u ∧
    u.legalRuns = true ∧ u.aon.mainPower = true ∧ 2450 ≤ mv ∧ u.ports.vbatGood = 0 :=
    ⟨run, _, at0, 2450, rfl, by decide⟩

theorem witness_touch_vbat_usb_and_optical_events_18 : ∃ (s u : State) (dt : Ticks) (mv : Nat), s.elapse dt = u ∧
    u.legalRuns = true ∧ u.aon.mainPower = true ∧ 2450 ≤ mv ∧ 1 ≤ u.ports.vbatGood :=
    ⟨{ run with ports := { Ports.reset with vbatGood := 1 } }, _, at0, 2450, rfl, by decide⟩

theorem witness_touch_vbat_usb_and_optical_events_19 : ∃ (s u : State) (dt : Ticks), s.elapse dt = u ∧
    u.ports.usbSession = false ∧ u.boot.mainClockFault = false ∧ (u.boot.stage = 7 ∨ u.boot.stage = 8) ∧
    u.ports.servicePending = none :=
    ⟨run, _, at0, rfl, by decide⟩

theorem witness_touch_vbat_usb_and_optical_events_20 : ∃ (s u : State) (dt : Ticks), s.elapse dt = u ∧
    (u.ports.usbSession = true ∨ u.boot.mainClockFault = true ∨ (u.boot.stage ≠ 7 ∧ u.boot.stage ≠ 8)) :=
    ⟨serviced, _, at0, rfl, by decide⟩

theorem witness_touch_vbat_usb_and_optical_events_21 : ∃ (s u : State) (dt : Ticks), s.elapse dt = u ∧
    u.ports.usbSession = true :=
    ⟨{ run with ports := { Ports.reset with usbSession := true } }, _, at0, rfl, by decide⟩

theorem witness_touch_vbat_usb_and_optical_events_22 : ∃ (s u : State) (dt : Ticks) (msg : Bytes),
    s.elapse dt = u ∧ u.optListens = true ∧ u.ports.optState = 0 ∧ (msg = [0x2F, 0x3F, 0x21, 0x0D,
    0x0A] ∨ msg = [0x2F, 0x3F] ++ hexText 16 nodeId ++ [0x21, 0x0D, 0x0A]) :=
    ⟨optic 0 0, _, at0, [0x2F, 0x3F, 0x21, 0x0D, 0x0A], rfl, by decide⟩

theorem witness_touch_vbat_usb_and_optical_events_23 : ∃ (s u : State) (dt : Ticks) (a : Bytes), s.elapse dt = u ∧
    u.optListens = true ∧ u.ports.optState = 0 ∧ a ≠ [] ∧ a ≠ hexText 16 nodeId :=
    ⟨optic 0 0, _, at0, [0], rfl, by decide, by decide, by decide,
    fun h => absurd (congrArg List.length h) (by simp [hexText, upTo])⟩

theorem witness_touch_vbat_usb_and_optical_events_24 : ∃ (s u : State) (dt : Ticks) (z : Byte), s.elapse dt = u ∧
    u.optListens = true ∧ u.ports.optState = 1 ∧ u.since u.ports.optAt 1500000000 = false ∧ 0x30 ≤ z.toNat ∧
    z.toNat ≤ 0x35 :=
    ⟨optic 1 9999000000000, _, at0, 0x35, rfl, by decide⟩

theorem witness_touch_vbat_usb_and_optical_events_25 : ∃ (s u : State) (dt : Ticks), s.elapse dt = u ∧
    u.optListens = true ∧ u.ports.optState = 1 ∧ u.since u.ports.optAt 1500000000 = false ∧
    bit (u.pnum 0x6020) 1 = true :=
    ⟨optic 1 9999000000000, _, at0, rfl, by decide⟩

theorem witness_touch_vbat_usb_and_optical_events_26 : ∃ (s u : State) (dt : Ticks) (msg : Bytes),
    s.elapse dt = u ∧ u.optListens = true ∧ (u.ports.optState = 0 ∨ (u.ports.optState = 1 ∧
    (u.since u.ports.optAt 1500000000 = true ∨ ∀ z y : Byte, msg = [0x06, 0x30, z, y, 0x0D,
    0x0A] → z.toNat < 0x30 ∨ 0x35 < z.toNat ∨ (y ≠ 0x30 ∧ (y ≠ 0x32 ∨ z ≠ 0x35 ∨ bit (u.pnum 0x6020) 1 = false))))) :=
    ⟨optic 0 0, _, at0, [], rfl, by decide, Or.inl (by decide)⟩

theorem witness_touch_vbat_usb_and_optical_events_27 : ∃ (s u : State) (dt : Ticks), s.elapse dt = u ∧
    u.ports.optState = 1 ∧ u.since u.ports.optAt 1500000000 = true :=
    ⟨optic 1 9998500000000, _, at0, rfl, by decide⟩

theorem witness_touch_vbat_usb_and_optical_events_28 : ∃ (s u : State) (dt : Ticks), s.elapse dt = u ∧
    u.ports.optState = 2 :=
    ⟨optic 2 0, _, at0, rfl, by decide⟩

theorem witness_touch_vbat_usb_and_optical_events_29 : ∃ (s u : State) (dt : Ticks), s.elapse dt = u ∧
    u.ports.optState = 3 ∧ u.since u.ports.optAt 30000000000 = true :=
    ⟨optic 3 9970000000000, _, at0, rfl, by decide⟩

theorem witness_mbus_polling_follows_its_schedule_1 : ∃ (s u : State) (dt : Ticks) (period : Nat),
    s.elapse dt = u ∧ u.ready = true ∧ u.boot.mainClockFault = false ∧ u.pnum 0x6030 = 1 ∧
    period = max 1 (u.pnum 0x6031) * 1000000000 ∧ u.nodeTime / period ≠ u.ports.mbusCycleAt / period :=
    ⟨par [(0x6030, [1])], _, at0, _, rfl, by decide, by decide, by decide, rfl, by decide⟩

theorem witness_mbus_polling_follows_its_schedule_2 : ∃ (s : State) (i k : Nat), s.pnum 0x6030 = 1 ∧ i ≤ k ∧
    k < 64 ∧ s.mbusMode k = 1 ∧ (∀ j, i ≤ j → j < k → s.mbusMode j = 0) :=
    ⟨par [(0x6030, [1]), (0x613F, [1, 0, 5])], 62, 63, by decide, by decide, by decide, by decide, fun j _ _ =>
    by have e : j = 62 := (by omega); subst e; decide⟩

theorem witness_mbus_polling_follows_its_schedule_3 : ∃ (s : State) (i k : Nat), s.pnum 0x6030 = 1 ∧ i ≤ k ∧
    k < 64 ∧ s.mbusMode k = 2 ∧ (∀ j, i ≤ j → j < k → s.mbusMode j = 0) :=
    ⟨par [(0x6030, [1]), (0x613F, [2, 0, 5])], 63, 63, by decide +kernel, by decide +kernel, by decide +kernel,
    by decide +kernel, by intro j h0 h1; omega⟩

theorem witness_mbus_polling_follows_its_schedule_4 : ∃ (s : State) (i : Nat), (s.pnum 0x6030 ≠ 1 ∨ (∀ j,
    i ≤ j → j < 64 → s.mbusMode j = 0)) :=
    ⟨run, 0, Or.inl (by decide)⟩

theorem witness_mbus_polling_follows_its_schedule_5 : ∃ (s u : State) (dt : Ticks) (i tries : Nat) (selecting : Bool),
    s.elapse dt = u ∧ u.ports.mbusCycle = some (i, tries, selecting) ∧
    (u.ports.mbusDiscard = true ∨ u.pnum 0x6030 = 0) ∧ u.since u.ports.mbusSentAt (u.mbusWait i) = true :=
    ⟨polling (0, 0, true) true, _, at0, _, _, _, rfl, rfl, by decide⟩

theorem witness_mbus_polling_follows_its_schedule_6 : ∃ (s u : State) (dt : Ticks) (i tries : Nat) (selecting : Bool),
    s.elapse dt = u ∧ u.ports.mbusCycle = some (i, tries, selecting) ∧ u.ports.mbusDiscard = false ∧
    u.pnum 0x6030 ≠ 0 ∧ tries < 2 :=
    ⟨polling (0, 1, true) false, _, at0, _, _, _, rfl, rfl, by decide⟩

theorem witness_mbus_polling_follows_its_schedule_7 : ∃ (s : State) (i : Nat) (user : Bytes),
    i < s.ports.mbus.length ∧ userVolume user = none :=
    ⟨run, 63, [], by decide⟩

theorem witness_mbus_polling_follows_its_schedule_8 : ∃ (s u : State) (dt : Ticks) (i tries : Nat),
    s.elapse dt = u ∧ u.ports.mbusCycle = some (i, tries, true) ∧ u.ports.mbusDiscard = false ∧ u.pnum 0x6030 = 1 :=
    ⟨{ (par [(0x6030, [1]), (0x6100, [1, 0, 5])]) with ports := { Ports.reset with mbusCycle := some (0, 0, true) } },
    _, at0, _, _, rfl, rfl, by decide⟩

theorem witness_mbus_polling_follows_its_schedule_9 : ∃ (s u : State) (dt : Ticks) (i tries : Nat) (user : Bytes),
    s.elapse dt = u ∧ u.ports.mbusCycle = some (i, tries, false) ∧ u.ports.mbusDiscard = false ∧
    u.pnum 0x6030 = 1 ∧ 3 ≤ user.length ∧ user.length ≤ 255 ∧ field user 0 1 % 16 = 8 ∧ field user 0 1 < 0x40 ∧
    (field user 2 1 = 0x72 ∨ field user 2 1 = 0x78) ∧ (u.mbusMode i ≠ 1 ∨ field user 1 1 = u.mbusPrimary i) :=
    ⟨polling (0, 2, false) false, _, at0, _, _, [8, 5, 0x72], rfl, rfl, by decide⟩

theorem witness_mbus_polling_follows_its_schedule_10 : ∃ (s u : State) (dt : Ticks) (i tries : Nat) (selecting : Bool),
    s.elapse dt = u ∧ u.ports.mbusCycle = some (i, tries, selecting) ∧ u.ports.mbusDiscard = false ∧
    u.pnum 0x6030 = 1 ∧ u.since u.ports.mbusSentAt (u.mbusWait i) = true ∧ tries < 2 :=
    ⟨{ (par [(0x6030, [1]), (0x6100, [1, 0, 5])]) with
        ports := { Ports.reset with mbusCycle := some (0, 1, false) } },
    _, at0, _, _, _, rfl, rfl, by decide⟩

theorem witness_mbus_polling_follows_its_schedule_11 : ∃ (s u : State) (dt : Ticks) (i : Nat) (selecting : Bool),
    s.elapse dt = u ∧ u.ports.mbusCycle = some (i, 2, selecting) ∧ u.ports.mbusDiscard = false ∧
    u.pnum 0x6030 = 1 ∧ u.since u.ports.mbusSentAt (u.mbusWait i) = true :=
    ⟨{ (par [(0x6030, [1]), (0x6100, [1, 0, 5])]) with ports := { Ports.reset with mbusCycle := some (0, 2, true) } },
    _, at0, _, _, rfl, rfl, by decide⟩

theorem witness_links_come_up_and_go_1 : ∃ (s u : State) (dt : Ticks) (i : Nat), s.elapse dt = u ∧
    (u.port i).state = 1 ∧ u.since (u.port i).at_ 200000000 = true :=
    ⟨linked { upPort with state := 1, session := none }, _, at0, 2, rfl, by decide⟩

theorem witness_links_come_up_and_go_2 : ∃ (s u : State) (dt : Ticks) (i : Nat), s.elapse dt = u ∧
    ((u.port i).state = 3 ∨ (u.port i).state = 4) ∧ u.ready = true ∧
    (u.since (u.port i).helloAt 250000000 = true ∨ ((u.port i).state = 3 ∧ (u.port i).helloAt < (u.port i).at_)) :=
    ⟨linked { upPort with state := 3, session := none }, _, at0, 2, rfl, by decide⟩

theorem witness_links_come_up_and_go_3 : ∃ (s u : State) (dt : Ticks), s.elapse dt = u ∧ u.ready = false :=
    ⟨boot { run.boot with stage := 6 }, _, at0, rfl, by decide⟩

theorem witness_links_come_up_and_go_4 : ∃ (s u v : State) (dt : Ticks) (i : Nat) (b t : Bytes), s.elapse dt = u ∧
    u.received i 1 b = some t ∧ (u.port i).state = 3 ∧ v = u.takeFrame i b ∧ 2 ≤ (v.port i).hellos ∧
    field t 0 8 = (v.port i).peerId ∧ v.mono ≤ (v.port i).lastHello + 375000000 ∧ slice t 24 16 = (v.port i).nonce :=
    ⟨{ linked { upPort with state := 3, session := none, hellos := 2, peerId := 7, nonce := zeros 16, lastHello := 9999625000000 } with
        crypto := linkKeyed },
    _, _, at0, 0, hello, (leBytes 8 7 ++ zeros 40), rfl, received_hello _ 0 rfl rfl rfl rfl, by decide +kernel, rfl,
    by decide +kernel⟩

theorem witness_links_come_up_and_go_5 : ∃ (s u v : State) (dt : Ticks) (i : Nat) (b t : Bytes), s.elapse dt = u ∧
    u.received i 1 b = some t ∧ (u.port i).state = 4 ∧ v = u.takeFrame i b ∧ field t 0 8 = (v.port i).peerId ∧
    field t 40 2 = (v.port i).peerAddr ∧ allZero (slice t 8 16) = true :=
    ⟨linked upPort, _, _, at0, 0, (fromPeer 1 1 (zeros 48)), (zeros 48), rfl, received_peer _ 0 1 1 (zeros 48)
    rfl rfl rfl rfl (by unfold FrameOk; decide +kernel), by decide +kernel, rfl, by decide +kernel⟩

theorem witness_links_come_up_and_go_6 : ∃ (s u v : State) (dt : Ticks) (i : Nat) (b t : Bytes), s.elapse dt = u ∧
    u.received i 1 b = some t ∧ (u.port i).state = 4 ∧ v = u.takeFrame i b ∧ field t 0 8 ≠ (v.port i).peerId :=
    ⟨linked upPort, _, _, at0, 0, (fromPeer 1 1 (leBytes 8 7 ++ zeros 40)), (leBytes 8 7 ++ zeros 40), rfl,
    received_peer _ 0 1 1 (leBytes 8 7 ++ zeros 40) rfl rfl rfl rfl (by unfold FrameOk; decide +kernel),
    by decide +kernel, rfl, by decide +kernel⟩

theorem witness_links_come_up_and_go_7 : ∃ (s u v : State) (dt : Ticks) (i : Nat) (b t : Bytes), s.elapse dt = u ∧
    u.received i 1 b = some t ∧ (u.port i).state = 3 ∧ v = u.takeFrame i b ∧
    ((v.port i).hellos = 0 ∨ field t 0 8 ≠ (v.port i).peerId ∨ (v.port i).lastHello + 375000000 < v.mono) :=
    ⟨handshaking { upPort with peerId := 7 }, _, _, at0, 0, hello, leBytes 8 7 ++ zeros 40, rfl,
    received_hello _ 0 rfl rfl rfl rfl, by decide +kernel, rfl, by decide +kernel⟩

theorem witness_links_come_up_and_go_8 : ∃ (a b : Nat), a < b :=
    ⟨0, 1, by decide⟩

theorem witness_links_come_up_and_go_9 : ∃ (s : State) (i : Nat), i < s.fabric.ports.length ∧
    s.fabric.elected = false :=
    ⟨run, 2, by decide⟩

theorem witness_links_come_up_and_go_10 : ∃ (s u : State) (dt : Ticks) (i : Nat), s.elapse dt = u ∧
    (u.port i).state = 4 ∧ u.since (u.port i).lastAuth 1000000000 = true :=
    ⟨linked upPort, _, at0, 2, rfl, by decide⟩

theorem witness_links_come_up_and_go_11 : ∃ (s u : State) (dt : Ticks) (i : Nat) (x : LinkSession),
    s.elapse dt = u ∧ (u.port i).state = 4 ∧ (u.port i).session = some x ∧ u.since x.since 7200000000000 = true :=
    ⟨linked upPort, _, at0, 2, _, rfl, by decide, rfl, by decide⟩

theorem witness_links_come_up_and_go_12 : ∃ (s u : State) (dt : Ticks) (i : Nat) (x : LinkSession),
    s.elapse dt = u ∧ (u.port i).state = 4 ∧ (u.port i).session = some x ∧ nodeId < (u.port i).peerId ∧
    u.since x.since 3600000000000 = true ∧ (x.renewalAt = x.since ∨ u.since x.renewalAt 60000000000 = true) ∧
    u.crypto.seeded = true :=
    ⟨{ linked { upPort with peerId := 0x0641000000000000 } with crypto := keyed 3 }, _, at0, 0, _, rfl,
    by decide, rfl, nodeId_lt, by decide⟩

theorem witness_links_come_up_and_go_13 : ∃ (s : State) (i : Nat), (s.ready = false ∨ ((s.port i).state ≠ 3 ∧
    (s.port i).state ≠ 4)) :=
    ⟨run, 2, by decide⟩

theorem witness_links_come_up_and_go_14 : ∃ (s : State) (i : Nat) (b : Bytes), s.ready = true ∧
    ((s.port i).state = 3 ∨ (s.port i).state = 4) ∧ ¬∃ body : Bytes, b = body ++ leBytes 4 (crc32 body) ∧
    body.length = 32 + field b 8 2 ∧ field b 8 2 ≤ 1024 :=
    ⟨linked upPort, 2, [], by decide, by decide,
    by rintro ⟨x, h, l, _⟩; have := congrArg List.length h; simp [length_leBytes] at this⟩

theorem witness_links_come_up_and_go_15 : ∃ (s : State) (i : Nat) (b : Bytes), s.ready = true ∧
    (s.port i).state = 3 ∧ frameWhole b = true ∧ frameType b ≠ 1 :=
    ⟨handshaking upPort, 2, blank, by decide +kernel⟩

theorem witness_links_come_up_and_go_16 : ∃ (s : State) (i : Nat) (b : Bytes), s.ready = true ∧
    (s.port i).state = 3 ∧ frameWhole b = true ∧ frameType b = 1 ∧
    (frameHandshake b = false ∨ s.handshakeOk i b = false) :=
    ⟨handshaking upPort, 2, plain, by decide +kernel, by decide +kernel, by decide +kernel, by decide +kernel,
    by decide +kernel⟩

theorem witness_links_come_up_and_go_17 : ∃ (s : State) (i : Nat) (b : Bytes), s.ready = true ∧
    (s.port i).state = 3 ∧ frameWhole b = true ∧ frameType b = 1 ∧ frameHandshake b = true ∧
    s.handshakeOk i b = true ∧ field (framePayload b) 0 8 = nodeId :=
    ⟨handshaking upPort, 0, helloOf nodeId, by decide, by decide,
    (helloOf_ok nodeId (handshaking upPort) 0 rfl rfl).1, (helloOf_ok nodeId (handshaking upPort) 0 rfl rfl).2.2.1,
    (helloOf_ok nodeId (handshaking upPort) 0 rfl rfl).2.2.2.1,
    (helloOf_ok nodeId (handshaking upPort) 0 rfl rfl).2.2.2.2.2, helloOf_nodeId⟩

theorem witness_links_come_up_and_go_18 : ∃ (s : State) (i : Nat) (b : Bytes), s.ready = true ∧
    (s.port i).state = 4 ∧ frameWhole b = true ∧ frameHandshake b = true :=
    ⟨linked upPort, 0, hello, by decide, by decide, (hello_ok (handshaking upPort) 0 rfl rfl).1,
    (hello_ok (handshaking upPort) 0 rfl rfl).2.2.2.1⟩

theorem witness_links_come_up_and_go_19 : ∃ (s u : State) (dt : Ticks) (i : Nat) (b : Bytes), s.elapse dt = u ∧
    i < 3 ∧ u.judge i b = .early :=
    ⟨run, _, at0, 2, [], rfl, by decide +kernel⟩

theorem witness_links_come_up_and_go_20 : ∃ (s u : State) (dt : Ticks) (i : Nat) (b : Bytes), s.elapse dt = u ∧
    i < 3 ∧ u.judge i b = .crcErr :=
    ⟨linked upPort, _, at0, 2, [], rfl, by decide +kernel⟩

theorem witness_links_come_up_and_go_21 : ∃ (s u : State) (dt : Ticks) (i : Nat) (b : Bytes), s.elapse dt = u ∧
    i < 3 ∧ u.judge i b = .authErr ∧ ((u.port i).state = 3 ∨ (u.port i).authFails < 15) :=
    ⟨linked { upPort with session := none, authFails := 14 }, _, at0, 2, blank, rfl, by decide +kernel⟩

theorem witness_links_come_up_and_go_22 : ∃ (s u : State) (dt : Ticks) (i : Nat) (b : Bytes), s.elapse dt = u ∧
    i < 3 ∧ u.judge i b = .authErr ∧ (u.port i).state = 4 ∧ 15 ≤ (u.port i).authFails ∧ i < u.fabric.ports.length :=
    ⟨linked { upPort with session := none, authFails := 15 }, _, at0, 2, blank, rfl, by decide +kernel⟩

theorem witness_links_come_up_and_go_23 : ∃ (s u : State) (dt : Ticks) (i : Nat) (b : Bytes), s.elapse dt = u ∧
    i < 3 ∧ u.judge i b = .dropped :=
    ⟨{ linked upPort with crypto := linkKeyed }, _, at0, 0, hello, rfl, by decide +kernel,
    judge_hello _ 0 rfl rfl rfl rfl⟩

theorem witness_links_come_up_and_go_24 : ∃ (s u : State) (dt : Ticks) (i : Nat) (f : TxFrame), s.elapse dt = u ∧
    (u.port i).nextFrame = some f ∧ f.type ≠ 1 ∧ u.ready = true ∧ (u.port i).state = 4 ∧
    (u.port i).lineUntil ≤ u.mono ∧ u.beforeResponse i f = true :=
    ⟨linked { upPort with queue := [⟨2, 0, 1, 0, []⟩] }, _, at0, 2, _, rfl, rfl, by decide⟩

theorem witness_links_come_up_and_go_25 : ∃ (s u : State) (dt : Ticks) (i : Nat) (f g : TxFrame), s.elapse dt = u ∧
    (u.port i).nextFrame = some f ∧ f.type = 1 ∧ g = { f with payload := u.helloPayload i, src := u.ownSource } ∧
    u.ready = true ∧ ((u.port i).state = 3 ∨ (u.port i).state = 4) ∧ (u.port i).lineUntil ≤ u.mono ∧
    u.beforeResponse i g = true :=
    ⟨linked { upPort with queue := [⟨1, 0, 1, 0, []⟩] }, _, at0, 2, _, _, rfl, rfl, rfl, rfl, by decide⟩

theorem witness_links_come_up_and_go_26 : ∃ (s : State) (i : Nat), (s.port i).session = none :=
    ⟨run, 2, by decide⟩

theorem witness_links_come_up_and_go_27 : ∃ (s : State) (i : Nat), ∃ x, (s.port i).session = some x :=
    ⟨linked upPort, 2, _, rfl⟩

theorem witness_fabric_time_routes_and_election_1 : ∃ (s u : State) (dt : Ticks) (i : Nat), s.elapse dt = u ∧
    (u.port i).state = 4 ∧ u.since (u.port i).reqAt 125000000 = true :=
    ⟨linked upPort, _, at0, 2, rfl, by decide⟩

theorem witness_fabric_time_routes_and_election_2 : ∃ (s u : State) (dt : Ticks) (i : Nat) (b t : Bytes),
    s.elapse dt = u ∧ u.received i 3 b = some t ∧ (u.port i).lineUntil ≤ u.mono :=
    ⟨linked upPort, _, at0, 0, (fromPeer 1 3 (zeros 8)), (zeros 8), rfl,
    received_peer _ 0 1 3 (zeros 8) rfl rfl rfl rfl (by unfold FrameOk; decide +kernel), by decide +kernel⟩

theorem witness_fabric_time_routes_and_election_3 : ∃ (s u : State) (dt : Ticks) (i id t2 t3 : Nat),
    s.elapse dt = u ∧ (u.port i).state = 4 ∧ (u.port i).pendingResp = some (id, t2, t3) ∧ t3 ≤ u.nodeTime ∧
    (u.port i).lineUntil ≤ u.mono :=
    ⟨linked { upPort with pendingResp := some (1, 0, 10000000000000) }, _, at0, 2, _, _, _, rfl, by decide, rfl,
    by decide⟩

theorem witness_fabric_time_routes_and_election_4 : ∃ (s u v : State) (dt : Ticks) (i t1 : Nat) (b t : Bytes),
    s.elapse dt = u ∧ u.received i 4 b = some t ∧ v = u.takeFrame i b ∧ (v.port i).pendingReq = some (field t 0 2,
    t1) ∧ v.nodeTime ≤ t1 + 10000000 :=
    ⟨linked { upPort with pendingReq := some (0, 9999990000000) }, _, _, at0, 0, 9999990000000, (fromPeer 1 4
    (zeros 24)), (zeros 24), rfl, received_peer _ 0 1 4 (zeros 24) rfl rfl rfl rfl
    (by unfold FrameOk; decide +kernel), rfl, by decide +kernel⟩

theorem witness_fabric_time_routes_and_election_5 : ∃ (s u v : State) (dt : Ticks) (i t1 id : Nat) (b t : Bytes),
    s.elapse dt = u ∧ u.received i 4 b = some t ∧ v = u.takeFrame i b ∧
    ((v.port i).pendingReq = none ∨ ((v.port i).pendingReq = some (id, t1) ∧
    (id ≠ field t 0 2 ∨ t1 + 10000000 < v.nodeTime))) :=
    ⟨linked upPort, _, _, at0, 0, 0, 0, fromPeer 1 4 (zeros 24), zeros 24, rfl,
    received_peer _ 0 1 4 (zeros 24) rfl rfl rfl rfl (by unfold FrameOk; decide +kernel), rfl,
    Or.inl (by decide +kernel)⟩

theorem witness_fabric_time_routes_and_election_6 : ∃ (a b c : Int × Int × Nat × Bool), a.2.1 ≤ b.2.1 ∧
    b.2.1 ≤ c.2.1 ∧ b.2.1 - a.2.1 ≤ 50 ∧ 50 < c.2.1 - b.2.1 ∧ a.1 ≤ b.1 :=
    ⟨(0, 0, 0, true), (0, 50, 0, true), (0, 101, 0, true), by decide⟩

theorem witness_fabric_time_routes_and_election_7 : ∃ (s u : State) (dt : Ticks), s.elapse dt = u ∧
    (u.fabric.role ≠ roleWorker ∨ u.fabric.upstream = none) :=
    ⟨run, _, at0, rfl, by decide⟩

theorem witness_fabric_time_routes_and_election_8 : ∃ (s u v : State) (dt : Ticks) (i t : Nat) (o : Int) (fine : Bool),
    s.elapse dt = u ∧
    v = u.modFabric (fun f => { f with ports := f.ports.map (fun p => { p with exchanges := [] }), offset := o }) ∧
    u.fabric.upstream = some i ∧ u.fabric.role = roleWorker ∧ secondOffset (u.port i).exchanges = some (o, t, fine) :=
    ⟨{ linked { upPort with exchanges := [(5, 1, 7, true)] } with
        fabric := { (linked { upPort with exchanges := [(5, 1, 7, true)] }).fabric with
            upstream := some 0
            role := 1 } },
    _, _, at0, 0, 7, 5, true, rfl, rfl, by decide⟩

theorem witness_fabric_time_routes_and_election_9 : ∃ (s u : State) (dt : Ticks) (i : Nat), s.elapse dt = u ∧
    i < 3 ∧ (u.port i).state = 4 ∧ (u.since u.fabric.lsaAt 10000000000 = true ∨ (u.lsaChanged = true ∧
    u.since u.fabric.lsaAt 250000000 = true)) :=
    ⟨linked upPort, _, at0, 2, rfl, by decide⟩

theorem witness_fabric_time_routes_and_election_10 : ∃ (s u : State) (dt : Ticks), s.elapse dt = u ∧ ((∀ i,
    i < 3 → (u.port i).state ≠ 4) ∨ u.since u.fabric.lsaAt 250000000 = false ∨ (u.lsaChanged = false ∧
    u.since u.fabric.lsaAt 10000000000 = false)) :=
    ⟨run, _, at0, rfl, Or.inl (by decide)⟩

theorem witness_fabric_time_routes_and_election_11 : ∃ (s u : State) (dt : Ticks) (i : Nat) (b t : Bytes) (x : Lsa),
    s.elapse dt = u ∧ u.received i 2 b = some t ∧ (u.takeFrame i b).lsaOf (field t 0 8) = some x ∧
    field t 8 8 ≤ x.seqNo :=
    ⟨{ linked upPort with
        fabric := { (linked upPort).fabric with database := [⟨0, 3, 9, 2, 0, 0, 0, 0, 0, [], 0⟩] } },
    _, at0, 0, (fromPeer 1 2 (zeros 40)), (zeros 40), _, rfl, received_peer _ 0 1 2 (zeros 40) rfl rfl rfl rfl
    (by unfold FrameOk; decide +kernel), rfl, by decide +kernel⟩

theorem witness_fabric_time_routes_and_election_12 : ∃ (s u : State) (dt : Ticks) (i id : Nat) (b t : Bytes),
    s.elapse dt = u ∧ u.received i 2 b = some t ∧ field t 0 8 = id ∧ id ≠ nodeId ∧ (∀ x,
    u.lsaOf id = some x → x.seqNo < field t 8 8) ∧ u.fabric.database.length < 16381 :=
    ⟨{ linked upPort with fabric := { (linked upPort).fabric with database := [] } }, _, at0, 0, 7, (fromPeer 1 2
    (leBytes 8 7 ++ zeros 32)), (leBytes 8 7 ++ zeros 32), rfl, received_peer _ 0 1 2 (leBytes 8 7 ++ zeros 32)
    rfl rfl rfl rfl (by unfold FrameOk; decide +kernel), by decide +kernel, seven_ne, (fun x h => by cases h),
    by decide +kernel⟩

theorem witness_fabric_time_routes_and_election_13 : ∃ (s u : State) (dt : Ticks) (id : Nat) (x : Lsa),
    s.elapse dt = u ∧ u.lsaOf id = some x ∧ u.since x.at_ 35000000000 = true :=
    ⟨{ linked upPort with
        fabric := { (linked upPort).fabric with database := [⟨0, 3, 9, 2, 0, 0, 0, 0, 0, [], 0⟩] } },
    _, at0, 0, _, rfl, rfl, by decide⟩

theorem witness_fabric_time_routes_and_election_14 : ∃ (s u : State) (dt : Ticks), s.elapse dt = u ∧
    u.fabric.routesDue = true :=
    ⟨{ linked upPort with fabric := { (linked upPort).fabric with routesDue := true } }, _, at0, rfl, by decide⟩

theorem witness_fabric_time_routes_and_election_15 : ∃ (s u : State) (dt : Ticks) (t : Nat), s.elapse dt = u ∧
    u.fabric.addrState = 1 ∧ u.fabric.tentativeSince = some t ∧ u.since t 1000000000 = true :=
    ⟨{ linked upPort with
        fabric := { (linked upPort).fabric with addrState := 1, tentativeSince := some 9999000000000 } },
    _, at0, _, rfl, by decide, rfl, by decide⟩

theorem witness_fabric_time_routes_and_election_16 : ∃ (s u : State) (dt : Ticks) (t : Nat), s.elapse dt = u ∧
    u.fabric.elected = false ∧ u.fabric.quietEnd = some t ∧ u.since t 1500000000 = true :=
    ⟨{ linked upPort with fabric := { (linked upPort).fabric with quietEnd := some 9998500000000 } }, _, at0, _,
    rfl, by decide, rfl, by decide⟩

theorem witness_fabric_time_routes_and_election_17 : ∃ (s u : State) (dt : Ticks), s.elapse dt = u ∧
    u.fabric.elected = true ∧ u.noteElection.fabric.electing = none :=
    ⟨woven upPort { Fabric.reset with elected := true, role := 1 }, _, at0, rfl, by decide⟩

theorem witness_fabric_time_routes_and_election_18 : ∃ (s u : State) (dt : Ticks), ∃ m, ∃ b, ∃ r, ∃ t,
    s.elapse dt = u ∧ u.fabric.elected = true ∧ u.noteElection.fabric.electing = some (m, b, r, t) :=
    ⟨woven upPort { Fabric.reset with elected := true, role := 1, manager := 7 }, _, at0, _, _, _, _, rfl,
    by decide, rfl⟩

theorem witness_fabric_time_routes_and_election_19 : ∃ (l : List (Nat × Nat)), l ≠ [] :=
    ⟨[(0, 0)], by decide⟩

theorem witness_fabric_time_routes_and_election_20 : ∃ (s u v : State) (dt : Ticks) (i type : Nat) (b t : Bytes),
    s.elapse dt = u ∧ frameType b = type ∧ u.received i type b = some t ∧ 4 < type ∧ u.forMe b = false ∧
    v = u.takeFrame i b ∧ ¬(v.fabric.addrState = 2 ∧ frameSrc b = v.fabric.addr) ∧ frameHop b ≤ 1 :=
    ⟨linked upPort, _, _, at0, 0, 9, (fromPeer 1 9 (zeros 8)), (zeros 8), rfl, by decide +kernel, received_peer _
    0 1 9 (zeros 8) rfl rfl rfl rfl (by unfold FrameOk; decide +kernel), by decide +kernel, by decide +kernel, rfl,
    by decide +kernel⟩

theorem witness_fabric_time_routes_and_election_21 : ∃ (s u v : State) (dt : Ticks) (i : Nat) (b t : Bytes),
    s.elapse dt = u ∧ u.received i (frameType b) b = some t ∧ 4 < frameType b ∧ v = u.takeFrame i b ∧
    u.fabric.addrState = 2 ∧ frameSrc b = u.fabric.addr :=
    ⟨woven upPort { Fabric.reset with addr := 9, addrState := 2 }, _, _, at0, 0, fromPeer 1 9 (zeros 8), zeros 8,
    rfl, by have e : frameType (fromPeer 1 9 (zeros 8)) = 9 := (by decide +kernel); rw [e]; exact received_peer _ 0 1 9 (zeros 8) rfl rfl rfl rfl (by unfold FrameOk; decide +kernel), by decide +kernel, rfl, by decide +kernel⟩

theorem witness_tunnels_and_readings_are_carried_1 : ∃ (s u v : State) (dt : Ticks) (i : Nat) (b t : Bytes),
    s.elapse dt = u ∧ u.receivedForMe i 5 b = some t ∧ v = u.takeFrame i b ∧ v.fromManager b = false :=
    ⟨{ linked upPort with fabric := { (linked upPort).fabric with addr := 5, addrState := 2, manager := 8 } }, _,
    _, at0, 0, (fromPeer 1 5 (zeros 68)), (zeros 68), rfl, received_for_me _ 0 1 5 (zeros 68) rfl rfl rfl rfl
    (by unfold FrameOk; decide +kernel) (by decide), rfl, by decide +kernel⟩

theorem witness_tunnels_and_readings_are_carried_2 : ∃ (s u v : State) (dt : Ticks) (i : Nat) (b t : Bytes),
    s.elapse dt = u ∧ u.receivedForMe i 5 b = some t ∧ v = u.takeFrame i b ∧ v.fromManager b = true ∧
    v.assembled (field t 0 4) (frameSrc b) t = none :=
    ⟨{ linked upPort with fabric := { (linked upPort).fabric with addr := 5, addrState := 2, manager := 9 } }, _,
    _, at0, 0, (fromPeer 1 5 (zeros 69)), (zeros 69), rfl, received_for_me _ 0 1 5 (zeros 69) rfl rfl rfl rfl
    (by unfold FrameOk; decide +kernel) (by decide), rfl, by decide +kernel⟩

theorem witness_tunnels_and_readings_are_carried_3 : ∃ (s u v : State) (dt : Ticks) (i : Nat) (b t data : Bytes),
    s.elapse dt = u ∧ u.receivedForMe i 5 b = some t ∧ v = u.takeFrame i b ∧ v.fromManager b = true ∧
    v.assembled (field t 0 4) (frameSrc b) t = some data :=
    ⟨ruled 9 [], _, _, at0, 0, fromPeer 1 5 (zeros 68), zeros 68, [], rfl,
    received_for_me _ 0 1 5 (zeros 68) rfl rfl rfl rfl (by unfold FrameOk; decide +kernel) (by decide), rfl,
    by decide +kernel⟩

theorem witness_tunnels_and_readings_are_carried_4 : ∃ (v : State) (id src : Nat) (t : Bytes) (e : Entry),
    e = Entry.ofBytes (slice t 4 64) ∧
    (v.piecesOf id src ++ t.drop 68).length = (if e.bulk = true then e.length else 0) :=
    ⟨run, 0, 0, zeros 68, _, rfl, by decide +kernel⟩

theorem witness_tunnels_and_readings_are_carried_5 : ∃ (s u v : State) (dt : Ticks) (i id src : Nat) (b t held : Bytes),
    s.elapse dt = u ∧ u.receivedForMe i 7 b = some t ∧ v = u.takeFrame i b ∧ field t 0 4 = id ∧ frameSrc b = src ∧
    v.piecesOf id src = held ∧ (v.tunnelOf id src).isSome = false ∧ v.fromManager b = false :=
    ⟨ruled 8 [], _, _, at0, 0, 0, 9, fromPeer 1 7 (zeros 9), zeros 9, _, rfl,
    received_for_me _ 0 1 7 (zeros 9) rfl rfl rfl rfl (by unfold FrameOk; decide +kernel) (by decide), rfl,
    by decide +kernel, by decide +kernel, rfl, by decide +kernel⟩

theorem witness_tunnels_and_readings_are_carried_6 : ∃ (s u v : State) (dt : Ticks) (i id src : Nat) (b t held : Bytes),
    s.elapse dt = u ∧ u.receivedForMe i 7 b = some t ∧ v = u.takeFrame i b ∧ field t 0 4 = id ∧ frameSrc b = src ∧
    v.piecesOf id src = held ∧ ((v.tunnelOf id src).isSome = true ∨ v.fromManager b = true) ∧
    (field t 4 4 ≠ held.length ∨ 4096 < held.length + (t.length - 8) ∨ ((v.tunnelOf id src).isSome = false ∧
    held = [] ∧ 4 ≤ v.fabric.pieces.length)) :=
    ⟨ruled 9 [], _, _, at0, 0, 0, 9, fromPeer 1 7 (zeros 4 ++ [1] ++ zeros 4), zeros 4 ++ [1] ++ zeros 4, _, rfl,
    received_for_me _ 0 1 7 (zeros 4 ++ [1] ++ zeros 4) rfl rfl rfl rfl (by unfold FrameOk; decide +kernel) (by decide),
    rfl, by decide +kernel, by decide +kernel, rfl, by decide +kernel⟩

theorem witness_tunnels_and_readings_are_carried_7 : ∃ (s u v : State) (dt : Ticks) (i id src : Nat) (b t held : Bytes),
    s.elapse dt = u ∧ u.receivedForMe i 7 b = some t ∧ v = u.takeFrame i b ∧ field t 0 4 = id ∧ frameSrc b = src ∧
    v.piecesOf id src = held ∧ ((v.tunnelOf id src).isSome = true ∨ (v.fromManager b = true ∧
    (held ≠ [] ∨ v.fabric.pieces.length < 4))) ∧ field t 4 4 = held.length ∧ held.length + (t.length - 8) ≤ 4096 :=
    ⟨ruled 9 [], _, _, at0, 0, 0, 9, fromPeer 1 7 (zeros 9), zeros 9, _, rfl,
    received_for_me _ 0 1 7 (zeros 9) rfl rfl rfl rfl (by unfold FrameOk; decide +kernel) (by decide), rfl,
    by decide +kernel, by decide +kernel, rfl, by decide +kernel⟩

theorem witness_tunnels_and_readings_are_carried_8 : ∃ (s u : State) (dt : Ticks) (id : Nat) (p : TunnelPieces),
    s.elapse dt = u ∧ u.fabric.pieces.filter (fun p => p.id == id && u.since p.at_ 2000000000) = [p] :=
    ⟨{ linked upPort with fabric := { (linked upPort).fabric with pieces := [⟨1, 9, 0, [], 9998000000000⟩] } },
    _, at0, 1, ⟨1, 9, 0, [], 9998000000000⟩, rfl, by decide⟩

theorem witness_tunnels_and_readings_are_carried_9 : ∃ (s u v : State) (dt : Ticks) (i : Nat) (b t data : Bytes) (x : Tunnel),
    s.elapse dt = u ∧ u.receivedForMe i 6 b = some t ∧ v = u.takeFrame i b ∧
    v.tunnelOf (field t 0 4) (frameSrc b) = some x ∧ x.call.isSome = true ∧
    bit (field (slice t 4 64) 4 1) 3 = true ∧ v.assembled (field t 0 4) x.dest t = some data :=
    ⟨{ linked upPort with
        fabric := { (linked upPort).fabric with addr := 5, addrState := 2, tunnels := [⟨0, 9, some hc, 0, 0⟩] } },
    _, _, at0, 0, (fromPeer 1 6 (zeros 8 ++ [8] ++ zeros 59)), (zeros 8 ++ [8] ++ zeros 59), _, _, rfl,
    received_for_me _ 0 1 6 (zeros 8 ++ [8] ++ zeros 59) rfl rfl rfl rfl (by unfold FrameOk; decide +kernel)
    (by decide), rfl, rfl, by decide +kernel, by decide +kernel, rfl⟩

theorem witness_tunnels_and_readings_are_carried_10 : ∃ (s u v : State) (dt : Ticks) (i : Nat) (b t : Bytes),
    s.elapse dt = u ∧ u.receivedForMe i 6 b = some t ∧ v = u.takeFrame i b ∧
    v.tunnelOf (field t 0 4) (frameSrc b) = none :=
    ⟨ruled 9 [], _, _, at0, 0, fromPeer 1 6 (zeros 68), zeros 68, rfl,
    received_for_me _ 0 1 6 (zeros 68) rfl rfl rfl rfl (by unfold FrameOk; decide +kernel) (by decide), rfl,
    by decide +kernel⟩

theorem witness_tunnels_and_readings_are_carried_11 : ∃ (s u v : State) (dt : Ticks) (i : Nat) (b t : Bytes), ∃ x,
    s.elapse dt = u ∧ u.receivedForMe i 6 b = some t ∧ v = u.takeFrame i b ∧
    v.tunnelOf (field t 0 4) (frameSrc b) = some x ∧ v.assembled (field t 0 4) x.dest t = none :=
    ⟨ruled 9 [⟨0, 9, none, 0, 0⟩], _, _, at0, 0, fromPeer 1 6 (zeros 69), zeros 69, _, rfl,
    received_for_me _ 0 1 6 (zeros 69) rfl rfl rfl rfl (by unfold FrameOk; decide +kernel) (by decide), rfl, rfl,
    by decide +kernel⟩

theorem witness_tunnels_and_readings_are_carried_12 : ∃ (s u v : State) (dt : Ticks) (i : Nat) (b t : Bytes), ∃ x,
    ∃ data, s.elapse dt = u ∧ u.receivedForMe i 6 b = some t ∧ v = u.takeFrame i b ∧
    v.tunnelOf (field t 0 4) (frameSrc b) = some x ∧ v.assembled (field t 0 4) x.dest t = some data ∧
    bit (field (slice t 4 64) 4 1) 3 = false :=
    ⟨ruled 9 [⟨0, 9, none, 0, 0⟩], _, _, at0, 0, fromPeer 1 6 (zeros 68), zeros 68, _, _, rfl,
    received_for_me _ 0 1 6 (zeros 68) rfl rfl rfl rfl (by unfold FrameOk; decide +kernel) (by decide), rfl, rfl,
    rfl, by decide +kernel⟩

theorem witness_tunnels_and_readings_are_carried_13 : ∃ (s u v : State) (dt : Ticks) (i : Nat) (b t : Bytes), ∃ x,
    ∃ data, s.elapse dt = u ∧ u.receivedForMe i 6 b = some t ∧ v = u.takeFrame i b ∧
    v.tunnelOf (field t 0 4) (frameSrc b) = some x ∧ v.assembled (field t 0 4) x.dest t = some data ∧
    bit (field (slice t 4 64) 4 1) 3 = true ∧ x.call = none :=
    ⟨ruled 9 [⟨0, 9, none, 0, 0⟩], _, _, at0, 0, fromPeer 1 6 (zeros 8 ++ [8] ++ zeros 59),
    zeros 8 ++ [8] ++ zeros 59, _, _, rfl,
    received_for_me _ 0 1 6 (zeros 8 ++ [8] ++ zeros 59) rfl rfl rfl rfl (by unfold FrameOk; decide +kernel) (by decide),
    rfl, rfl, rfl, by decide +kernel⟩

theorem witness_tunnels_and_readings_are_carried_14 : ∃ (s u : State) (dt : Ticks) (id : Nat) (x : Tunnel),
    s.elapse dt = u ∧ x.id = id ∧ u.fabric.tunnels = [x] ∧ u.since x.at_ 10000000000 = true :=
    ⟨{ linked upPort with fabric := { (linked upPort).fabric with tunnels := [⟨1, 9, none, 0, 9990000000000⟩] } },
    _, at0, 1, ⟨1, 9, none, 0, 9990000000000⟩, rfl, by decide⟩

theorem witness_tunnels_and_readings_are_carried_15 : ∃ (s u : State) (dt : Ticks), s.elapse dt = u ∧
    u.fabric.role = roleManager ∧ u.since u.fabric.distAt 10000000000 = true :=
    ⟨{ linked upPort with fabric := { (linked upPort).fabric with role := 2, distAt := 9990000000000 } }, _, at0,
    rfl, by decide⟩

theorem witness_tunnels_and_readings_are_carried_16 : ∃ (s u v : State) (dt : Ticks) (i src rid : Nat) (b t : Bytes),
    s.elapse dt = u ∧ u.receivedForMe i 8 b = some t ∧ v = u.takeFrame i b ∧ frameSrc b = src ∧ field t 0 4 = rid ∧
    v.fabric.role ≠ roleManager :=
    ⟨ruled 9 [], _, _, at0, 0, 9, 0, fromPeer 1 8 (zeros 200), zeros 200, rfl,
    received_for_me _ 0 1 8 (zeros 200) rfl rfl rfl rfl (by unfold FrameOk; decide +kernel) (by decide), rfl,
    by decide +kernel⟩

theorem witness_tunnels_and_readings_are_carried_17 : ∃ (s u v : State) (dt : Ticks) (i src rid : Nat) (b t : Bytes),
    s.elapse dt = u ∧ u.receivedForMe i 8 b = some t ∧ v = u.takeFrame i b ∧ frameSrc b = src ∧ field t 0 4 = rid ∧
    v.fabric.role = roleManager ∧ v.fabric.acked.contains (src, rid) = false ∧ t.length = 200 ∧
    v.bulkRoom 200 = false :=
    ⟨{ woven upPort { Fabric.reset with addr := 5, addrState := 2, role := 2 } with hawk := (idleRings 0).hawk },
    _, _, at0, 0, 9, 0, fromPeer 1 8 (zeros 200), zeros 200, rfl,
    received_for_me _ 0 1 8 (zeros 200) rfl rfl rfl rfl (by unfold FrameOk; decide +kernel) (by decide), rfl,
    by decide +kernel⟩

theorem witness_tunnels_and_readings_are_carried_18 : ∃ (s u v : State) (dt : Ticks) (i src rid : Nat) (b t : Bytes),
    s.elapse dt = u ∧ u.receivedForMe i 8 b = some t ∧ v = u.takeFrame i b ∧ frameSrc b = src ∧ field t 0 4 = rid ∧
    v.fabric.role = roleManager ∧ v.fabric.acked.contains (src, rid) = true :=
    ⟨{ linked upPort with
        fabric := { (linked upPort).fabric with addr := 5, addrState := 2, role := 2, acked := [(9, 0)] } },
    _, _, at0, 0, 9, 0, (fromPeer 1 8 (zeros 200)), (zeros 200), rfl,
    received_for_me _ 0 1 8 (zeros 200) rfl rfl rfl rfl (by unfold FrameOk; decide +kernel) (by decide), rfl,
    by decide +kernel⟩

theorem witness_tunnels_and_readings_are_carried_19 : ∃ (s u v : State) (dt : Ticks) (i src rid : Nat) (b t : Bytes),
    s.elapse dt = u ∧ u.receivedForMe i 8 b = some t ∧ v = u.takeFrame i b ∧ frameSrc b = src ∧ field t 0 4 = rid ∧
    v.fabric.role = roleManager ∧ v.fabric.acked = [] ∧ v.bulkRoom 200 = true ∧ t.length = 200 :=
    ⟨{ ({ linked upPort with fabric := { (linked upPort).fabric with addr := 5, addrState := 2, role := 2 } }) with
        hawk := { (mailbox run).hawk with poolSize := 256 } },
    _, _, at0, 0, 9, 0, (fromPeer 1 8 (zeros 200)), (zeros 200), rfl,
    received_for_me _ 0 1 8 (zeros 200) rfl rfl rfl rfl (by unfold FrameOk; decide +kernel) (by decide), rfl,
    by decide +kernel⟩

theorem witness_tunnels_and_readings_are_carried_20 : ∃ (s u : State) (dt : Ticks) (i : Nat) (b t : Bytes),
    s.elapse dt = u ∧ u.receivedForMe i 9 b = some t :=
    ⟨{ linked upPort with fabric := { (linked upPort).fabric with addr := 5, addrState := 2 } }, _, at0, 0,
    (fromPeer 1 9 (zeros 8)), (zeros 8), rfl, received_for_me _ 0 1 9 (zeros 8) rfl rfl rfl rfl
    (by unfold FrameOk; decide +kernel) (by decide)⟩

theorem witness_tunnels_and_readings_are_carried_21 : ∃ (s u : State) (dt : Ticks) (rid at_ : Nat) (r : Bytes),
    s.elapse dt = u ∧ u.fabric.forward = [(rid, r, at_)] ∧ u.since at_ 2000000000 = true ∧ u.fabric.manager ≠ 0 ∧
    u.fabric.role = roleWorker :=
    ⟨{ linked upPort with
        fabric := { (linked upPort).fabric with forward := [(1, [], 9998000000000)], manager := 9, role := 1 } },
    _, at0, 1, 9998000000000, [], rfl, by decide⟩

theorem witness_engines_finish_their_work_1 : ∃ (s u : State) (dt : Ticks) (ch index : Nat), s.elapse dt = u ∧
    u.acAlive = true ∧ (u.mem.channel ch).current = none ∧ u.mem.pool = [] ∧ index < 16384 :=
    ⟨run, _, at0, 31, 16383, rfl, by decide⟩

theorem witness_engines_finish_their_work_2 : ∃ (s u : State) (dt : Ticks) (ch : Nat), s.elapse dt = u ∧
    (u.mem.channel ch).current.isSome = true :=
    ⟨{ run with
        mem := { MemSys.reset with
            channels := MemSys.reset.channels.set 3 { DmaChannel.reset with current := some 3 } } },
    _, at0, 3, rfl, by decide⟩

theorem witness_engines_finish_their_work_3 : ∃ (s : State) (i : Nat) (p : PoolDesc), s.mem.poolAt i = some p ∧
    p.state = .pending ∧ descRefusal p.desc = .none_ :=
    ⟨{ run with
        mem := { MemSys.reset with pool := [⟨3, ⟨0, 16777215, 16777215, 0, 0, true, 0⟩, .pending, .none_, 0⟩] } },
    3, _, rfl, by decide⟩

theorem witness_engines_finish_their_work_4 : ∃ (s : State) (i : Nat) (p : PoolDesc), s.mem.poolAt i = some p ∧
    p.state = .pending ∧ descRefusal p.desc = .badDesc :=
    ⟨{ run with
        mem := { MemSys.reset with pool := [⟨3, ⟨0, 16777214, 16777215, 0, 0, true, 0⟩, .pending, .none_, 0⟩] } },
    3, _, rfl, by decide⟩

theorem witness_engines_finish_their_work_5 : ∃ (s : State) (i : Nat) (p : PoolDesc), s.mem.poolAt i = some p ∧
    p.state = .pending ∧ descRefusal p.desc = .legal :=
    ⟨pooled ⟨0, 0x30000000, 4, 1, 0, true, 0⟩ .pending, 3, _, rfl, by decide⟩

theorem witness_engines_finish_their_work_6 : ∃ (d : Descriptor),
    (1 < d.ctrl % 16 ∨ 32 ≤ d.ctrl ∨ d.reservedZero = false ∨ d.len = 0 ∨ 16777215 < d.len ∨ 0x100000000 < d.dst + d.len ∨ (d.ctrl % 16 = 0 ∧
    (0x100000000 < d.src + d.len ∨ (d.src < d.dst + d.len ∧ d.dst < d.src + d.len)))) :=
    ⟨⟨0, 0, 4, 2, 0, true, 0⟩, by decide⟩

theorem witness_engines_finish_their_work_7 : ∃ (d : Descriptor), d.ctrl % 16 = 1 ∧ d.ctrl < 32 ∧
    d.reservedZero = true ∧ 0 < d.len ∧ d.len ≤ 16777215 ∧ 0x30000000 ≤ d.dst ∧ d.dst < 0x30100000 :=
    ⟨⟨0, 0x30000000, 4, 1, 0, true, 0⟩, by decide⟩

theorem witness_engines_finish_their_work_8 : ∃ (cause : DescCause),
    (cause = .pageFault ∨ cause = .permission ∨ cause = .revoked) :=
    ⟨.revoked, by decide⟩

theorem witness_engines_finish_their_work_9 : ∃ (p : PoolDesc), p.desc.next = 0xFFFFFFFF ∧
    bit p.desc.ctrl 4 = false :=
    ⟨⟨3, ⟨0, 0, 4, 0, 0xFFFFFFFF, true, 0⟩, .active, .none_, 0⟩, by decide⟩

theorem witness_engines_finish_their_work_10 : ∃ (d : Descriptor), d.ctrl % 16 = 0 ∧ d.ctrl < 32 ∧
    d.reservedZero = true ∧ 0 < d.len ∧ d.len ≤ 16777215 ∧ d.src + d.len ≤ d.dst ∧ d.dst + d.len ≤ 0x10000000 :=
    ⟨⟨0, 16777215, 16777215, 16, 0, true, 0⟩, by decide⟩

theorem witness_engines_finish_their_work_11 : ∃ (s u v : State) (dt : Ticks) (ch : Nat) (failing : List Nat) (i : Nat) (p : PoolDesc),
    s.elapse dt = u ∧ u.acAlive = true ∧ v = u.runDma failing ch false (u.granulesLeft ch) ∧
    (v.mem.channel ch).current = some i ∧ v.mem.poolAt i = some p ∧ (v.mem.channel ch).running = true ∧
    p.desc.len ≤ p.done :=
    ⟨{ run with
        mem := { MemSys.reset with
            pool := [⟨3, ⟨0x10000000, 0x20000000, 4, 0, 0, true, 0⟩, .active, .none_, 4⟩]
            channels := (MemSys.reset.channels.set 3 { DmaChannel.reset with current := some 3, running := true }) } },
    _, _, at0, 3, [], _, _, rfl, by decide, rfl, rfl, rfl, by decide⟩

theorem witness_engines_finish_their_work_12 : ∃ (s u v : State) (dt : Ticks) (ch r n : Nat), s.elapse dt = u ∧
    u.acAlive = true ∧ 2 ≤ u.mem.runningCount ∧ u.mem.nextReady = some r ∧ u.mem.preempted = some ch ∧
    v = u.runDma [] ch false n ∧ (v.mem.channel ch).running = true ∧
    (v.mem.channel ch).prio < (u.mem.channel r).prio :=
    ⟨{ run with
        mem := { MemSys.reset with
            channels := [⟨0, none, true, false, 0, false, 0⟩, ⟨1, none, true, false, 0, false, 0⟩, ⟨2, some 3, false, false, 0, false, 0⟩] } },
    _, _, at0, _, _, 0, rfl, by decide, by decide, rfl, rfl, rfl, by decide⟩

theorem witness_engines_finish_their_work_13 : ∃ (s u : State) (dt : Ticks) (ch : Nat), ∃ i p, s.elapse dt = u ∧
    u.acAlive = true ∧ (u.mem.channel ch).suspended = true ∧ (u.mem.channel ch).current = some i ∧
    u.mem.poolAt i = some p :=
    ⟨{ run with
        mem := { MemSys.reset with
            pool := [⟨3, ⟨0x10000000, 0x20000000, 4, 0, 0, true, 0⟩, .active, .none_, 4⟩]
            channels := (MemSys.reset.channels.set 3 { DmaChannel.reset with
                current := some 3
                suspended := true }) } },
    _, at0, 3, _, _, rfl, by decide, by decide, rfl, rfl⟩

theorem witness_engines_finish_their_work_14 : ∃ (s u : State) (dt : Ticks) (ch i : Nat) (p : PoolDesc),
    s.elapse dt = u ∧ u.acAlive = true ∧ (u.mem.channel ch).running = false ∧
    (u.mem.channel ch).suspended = false ∧ (u.mem.channel ch).current = some i ∧ u.mem.poolAt i = some p :=
    ⟨{ run with
        mem := { MemSys.reset with
            pool := [⟨3, ⟨0x10000000, 0x20000000, 4, 0, 0, true, 0⟩, .active, .none_, 4⟩]
            channels := (MemSys.reset.channels.set 3 { DmaChannel.reset with current := some 3 }) } },
    _, at0, 3, _, _, rfl, by decide, by decide, by decide, rfl, rfl⟩

theorem witness_engines_finish_their_work_15 : ∃ (s u : State) (dt : Ticks), s.elapse dt = u ∧ u.legalRuns = true ∧
    u.legal.activation = none :=
    ⟨run, _, at0, rfl, by decide⟩

theorem witness_engines_finish_their_work_16 : ∃ (s u : State) (dt : Ticks), ∃ k, s.elapse dt = u ∧
    u.boot.held = false ∧ (k = 1 ∨ k = 2) :=
    ⟨run, _, at0, 2, rfl, by decide +kernel⟩

theorem witness_engines_finish_their_work_17 : ∃ (s u : State) (dt : Ticks), ∃ k, s.elapse dt = u ∧
    u.boot.held = false ∧ (k = 2 ∨ k = 3) :=
    ⟨run, _, at0, 3, rfl, by decide +kernel⟩

theorem witness_engines_finish_their_work_18 : ∃ (s u : State) (dt : Ticks), ∃ w, s.elapse dt = u ∧
    u.boot.held = false ∧ w < 131072 :=
    ⟨run, _, at0, 131071, rfl, by decide⟩

theorem witness_engines_finish_their_work_19 : ∃ (s u : State) (dt : Ticks), ∃ id, ∃ x, s.elapse dt = u ∧
    u.boot.held = false ∧ paramInfo id = some x ∧ isLegalParam id = false :=
    ⟨run, _, at0, 0x6000, _, rfl, by decide, rfl, by decide⟩

theorem witness_engines_finish_their_work_20 : ∃ (s u : State) (dt : Ticks), ∃ id, s.elapse dt = u ∧
    u.boot.held = false ∧ isLegalParam id = true ∧ u.legalRuns = true ∧ u.legal.faulted.contains id = false :=
    ⟨run, _, at0, 0x8020, rfl, by decide⟩

theorem witness_engines_finish_their_work_21 : ∃ (s u : State) (dt : Ticks), ∃ i, s.elapse dt = u ∧
    u.boot.held = false ∧ i < 8 :=
    ⟨run, _, at0, 7, rfl, by decide⟩

theorem witness_engines_finish_their_work_22 : ∃ (s u : State) (dt : Ticks) (line a : Nat), s.elapse dt = u ∧
    u.boot.held = false ∧ line < 147456 ∧ a = sramLineAddr line ∧ u.mem.isPoisoned a = false :=
    ⟨run, _, at0, 147455, _, rfl, by decide, by decide, rfl, by decide⟩

theorem witness_engines_finish_their_work_23 : ∃ (s u : State) (dt : Ticks) (sector attempts store : Nat) (rest : List FlashJob),
    ∃ n, s.elapse dt = u ∧ u.flash.jobs = .erase sector attempts store :: rest ∧ (n ≠ sector ∨ u.sectorShut sector = true) :=
    ⟨flash [.erase 200 1 1], _, at0, _, _, _, _, 201, rfl, rfl, .inl (by decide)⟩

theorem witness_engines_finish_their_work_23_shut : ∃ (s u : State) (dt : Ticks) (sector attempts store : Nat)
    (rest : List FlashJob), ∃ n, s.elapse dt = u ∧ u.flash.jobs = .erase sector attempts store :: rest ∧
    (n ≠ sector ∨ u.sectorShut sector = true) ∧ n = sector :=
    ⟨{ flash [.erase 16 0 0] with mem := { MemSys.reset with windows := [⟨flashBase, 0x4000000, true⟩] } }, _, at0, _, _, _, _,
      16, rfl, rfl, .inr (by decide +kernel), rfl⟩

theorem witness_engines_finish_their_work_24 : ∃ (s u : State) (dt : Ticks) (sector attempts store : Nat) (rest : List FlashJob),
    s.elapse dt = u ∧ u.flash.jobs = .erase sector attempts store :: rest ∧ u.sectorShut sector = false ∧
    attempts < 2 :=
    ⟨flash [.erase 200 1 1], _, at0, _, _, _, _, rfl, rfl, by decide +kernel, by decide⟩

theorem witness_engines_finish_their_work_25 : ∃ (s u : State) (dt : Ticks) (sector attempts store : Nat) (rest : List FlashJob),
    s.elapse dt = u ∧ u.flash.jobs = .erase sector attempts store :: rest ∧ u.sectorShut sector = false ∧
    2 ≤ attempts ∧ rest = [] :=
    ⟨flash [.erase 200 2 1], _, at0, _, _, _, _, rfl, rfl, by decide +kernel, by decide⟩

theorem witness_engines_finish_their_work_26 : ∃ (s : State) (store sector : Nat) (j : FlashJob), ∃ k,
    Memory.wf s.mem.cells = true ∧ s.flash.jobs = [j] ∧ sector < 4096 ∧ (store = 1 ∨ store = 2) ∧ k < 65536 :=
    ⟨flash [.erase 200 1 1], 2, 4095, _, 65535, by decide +kernel, rfl, by decide +kernel⟩

theorem witness_engines_finish_their_work_27 : ∃ (s : State) (store : Nat), Memory.wf s.mem.cells = true ∧
    (store = 1 ∨ store = 2) ∧ 64 ≤ (s.flash.pos store).2 :=
    ⟨stored, 1, by decide +kernel⟩

theorem witness_engines_finish_their_work_28 : ∃ (s u : State) (dt : Ticks) (b : Bytes) (rest : List FlashJob),
    s.elapse dt = u ∧ u.flash.jobs = .programReading b :: rest :=
    ⟨flash [.programReading []], _, at0, _, _, rfl, rfl⟩

theorem witness_engines_finish_their_work_29 : ∃ (s u : State) (dt : Ticks) (b : Bytes) (rest : List FlashJob),
    s.elapse dt = u ∧ u.flash.jobs = .programArchive b :: rest :=
    ⟨flash [.programArchive []], _, at0, _, _, rfl, rfl⟩

theorem witness_engines_finish_their_work_30 : ∃ (s u : State) (dt : Ticks) (p : Nat × Nat), s.elapse dt = u ∧
    u.flash.archPending = some p ∧ u.since u.flash.archCommitAt 100000000 = true :=
    ⟨{ run with flash := { Flash.reset with archPending := some (1216, 128), archCommitAt := 9999900000000 } },
    _, at0, _, rfl, rfl, by decide⟩

theorem witness_dma_writes_only_its_regions_1 : ∃ (s u t : State) (dt : Ticks) (ch n : Nat) (failing : List Nat),
    s.elapse dt = u ∧ Memory.wf u.mem.cells = true ∧ ((∃ prio index root ds tables,
    exec (.dmaSubmit dt ch prio index ds root tables) s = .next t) ∨ (∃ page tables,
    exec (.iommuInvalidate dt page tables) s = .next t) ∨ exec (.dmaTransferEnd dt ch failing) s = .next t ∨ exec (.dmaPageWalk dt ch failing) s = .next t ∨ exec (.dmaPreempt dt ch n) s = .next t ∨ exec (.dmaChannelDisable dt ch n) s = .next t ∨ exec (.dmaResume dt ch) s = .next t ∨ exec (.dmaAbort dt ch) s = .next t) :=
    ⟨run, _, _, at0, 0, 0, [], rfl, by decide, .inr (.inr (.inr (.inr (.inr (.inr (.inr rfl))))))⟩

theorem witness_skim_keeps_its_bound_1 : ∃ (pred d : Nat) (xs ys : List Int), pred ≤ 3 ∧ d ≤ 15 ∧ (∀ x ∈ xs,
    -2147483648 ≤ x ∧ x ≤ 2147483647) ∧
    ys = xs.take pred ++ restore pred d (xs.take pred).reverse (codedPart pred d xs) ∧ d = 0 :=
    ⟨3, 0, [2147483647, -2147483648, 5, 0, 7], _, by decide, by decide, by decide, rfl, by decide⟩

theorem witness_skim_keeps_its_bound_2 : ∃ (pred d : Nat) (xs ys : List Int), ∃ u, pred ≤ 3 ∧ d ≤ 15 ∧ (∀ x ∈ xs,
    -2147483648 ≤ x ∧ x ≤ 2147483647) ∧
    ys = xs.take pred ++ restore pred d (xs.take pred).reverse (codedPart pred d xs) ∧ u ∈ codedPart pred d xs :=
    ⟨0, 0, [0], _, 0, by decide, by decide, by decide, rfl, by decide⟩

theorem witness_skim_keeps_its_bound_3 : ∃ (k u : Nat), k ≤ 30 ∧ u < 2 ^ 33 :=
    ⟨30, 2 ^ 33 - 1, by decide⟩

theorem witness_skim_keeps_its_bound_4 : ∃ (xs : List Int), xs.length ≤ 256 :=
    ⟨(List.replicate 256 0), by decide +kernel⟩

theorem witness_skim_keeps_its_bound_5 : ∃ (s : State) (src : Nat) (b : SkimBlock), 16 ≤ src ∧
    s.blockOf src = some b ∧ b.archived = true :=
    ⟨{ run with skim := { Skim.reset with blocks := [⟨16, 0, 0, 0, 0, 0, 0, true, []⟩] } }, 16, _, by decide,
    rfl, by decide⟩

end Sys2Proof.Tests
end

section
/-! PROOFS. Resets and what they keep: the always-on domain, MRAM and the node time; what they clear: system SRAM and
what runs (R41 to R44, R363, Table 2.2). -/

namespace Sys2Proof.Machine

/-! ### System SRAM -/

theorem inSram_iff (a : Nat) : inSram a = true ↔ 0x20000000 ≤ a ∧ a ≤ 0x203FFFFF := by
  simp [inSram]

/-- A cleared address reads as one that no cell lists; any other reads as before. -/
theorem Memory.read_filter (m : Memory) (p : Nat → Bool) (a : Nat) :
    Memory.read (m.filter (fun c => p c.1)) a = if p a = true then m.read a else emptyByte a := by
  induction m with
  | nil => simp [Memory.read]
  | cons c cs ih =>
    by_cases hc : c.1 = a
    · subst hc
      by_cases hp : p c.1 = true
      · simp [Memory.read, hp]
      · simpa [hp] using ih
    · by_cases hp : p c.1 = true <;> simp [Memory.read, hc, hp, ih]

/-- Outside the xSPI window an address that no cell lists reads 0. -/
theorem emptyByte_of_inSram {a : Nat} (h : inSram a = true) : emptyByte a = 0 := by
  rw [inSram_iff] at h
  exact if_neg (by omega)

/-- Clearing system SRAM makes it read 0 and leaves the rest of memory alone (R363). -/
theorem MemSys.read_clearSram (m : MemSys) (a : Nat) : Memory.read m.clearSram.cells a =
    if 0x20000000 ≤ a ∧ a ≤ 0x203FFFFF then 0 else Memory.read m.cells a := by
  have h : Memory.read m.clearSram.cells a = if (!inSram a) = true then Memory.read m.cells a else emptyByte a :=
    Memory.read_filter m.cells (fun x => !inSram x) a
  rw [h]
  cases hs : inSram a
  · simp [← inSram_iff, hs]
  · simp [← inSram_iff, hs, emptyByte_of_inSram hs]

/-! ### A reset of the whole chip -/

section coldReset
variable (s : State) (n : Nat)

@[simp] theorem State.coldReset_aon : (s.coldReset n).aon = s.aon := rfl
@[simp] theorem State.coldReset_params : (s.coldReset n).params = s.params := rfl
@[simp] theorem State.coldReset_update : (s.coldReset n).update = Update.reset := rfl
@[simp] theorem State.coldReset_nodeTime : (s.coldReset n).nodeTime = s.nodeTime := rfl
@[simp] theorem State.coldReset_slots : (s.coldReset n).crypto.slots = s.crypto.slots := rfl
@[simp] theorem State.coldReset_sealLog : (s.coldReset n).legal.sealLog = s.legal.sealLog := rfl
@[simp] theorem State.coldReset_eventLog : (s.coldReset n).legal.eventLog = s.legal.eventLog := rfl
@[simp] theorem State.coldReset_calStore : (s.coldReset n).legal.calStore = s.legal.calStore := rfl
@[simp] theorem State.coldReset_cfgcnt : (s.coldReset n).legal.cfgcnt = s.legal.cfgcnt := rfl
@[simp] theorem State.coldReset_inFlight : (s.coldReset n).hawk.inFlight = [] := rfl
@[simp] theorem State.coldReset_requests : (s.coldReset n).gate.requests = [] := rfl
@[simp] theorem State.coldReset_held : (s.coldReset n).boot.held = true := rfl
@[simp] theorem State.coldReset_stage : (s.coldReset n).boot.stage = 0 := rfl
@[simp] theorem State.coldReset_cause : (s.coldReset n).boot.cause = BitVec.ofNat 32 (2 ^ n) := rfl
@[simp] theorem State.coldReset_bootCounter : (s.coldReset n).boot.bootCounter = s.boot.bootCounter := rfl

/-- Every counter keeps its counts (log 46). -/
theorem State.coldReset_counts (i : Nat) :
    ((s.coldReset n).counters[i]?).map (fun c : Counter => (c.fwd, c.rev)) =
      (s.counters[i]?).map (fun c : Counter => (c.fwd, c.rev)) := by
  have h : (s.coldReset n).counters = s.counters.map Counter.keep := rfl
  rw [h, List.getElem?_map, Option.map_map]
  rfl

theorem getElem?_numbered {α : Type} (l : List α) (i : Nat) :
    (numbered l)[i]? = (l[i]?).map (fun x => (i, x)) := by
  by_cases h : i < l.length
  · simp [numbered, upTo, h]
  · simp [numbered, upTo, h]

/-- Every metering point keeps both copies of its register bank. -/
theorem State.coldReset_copies (m : Nat) :
    ((s.coldReset n).points[m]?).map (fun p : MeterPoint => (p.copyA, p.copyB)) =
      (s.points[m]?).map (fun p : MeterPoint => (p.copyA, p.copyB)) := by
  have h : (s.coldReset n).points = (numbered s.points).map (fun x => MeterPoint.keep x.1 x.2) := rfl
  rw [h, List.getElem?_map, getElem?_numbered, Option.map_map, Option.map_map]
  rfl

/-- System SRAM reads 0 after the reset, and every other address as before. -/
theorem State.coldReset_read (a : Nat) : Memory.read (s.coldReset n).mem.cells a =
    if 0x20000000 ≤ a ∧ a ≤ 0x203FFFFF then 0 else Memory.read s.mem.cells a :=
  MemSys.read_clearSram s.mem a

end coldReset

/-! ### What a loss of power leaves behind -/

@[simp] theorem State.applyCut_none (s : State) : s.applyCut .none = s := by
  simp [State.applyCut]

/-- Without an EPD phase there is no integral to hold. -/
theorem State.freezeIntegrals_idle {s : State} (h : s.display.update = none) : s.freezeIntegrals = s := by
  simp [State.freezeIntegrals, h]

/-- A reset that cuts neither a write nor an EPD phase is the plain reset. -/
theorem State.resetChip_uncut {s : State} (n : Nat) (h : s.display.update = none) :
    s.resetChip n .none = s.coldReset n := by
  rw [State.resetChip, State.applyCut_none, State.freezeIntegrals_idle h]

@[simp] theorem State.freezeIntegrals_mainPower (s : State) :
    s.freezeIntegrals.aon.mainPower = s.aon.mainPower := by
  unfold State.freezeIntegrals
  split
  · rfl
  · split <;> rfl

/-! ### The loss of main power -/

/-- What the always-on domain notes at the loss: the entry in its buffer while it has its own supply, and that main
power is away (R57). -/
def AlwaysOn.losePower (a : AlwaysOn) : AlwaysOn :=
  { (if a.powered then a.store srcPower 0 else a) with mainPower := false }

@[simp] theorem AlwaysOn.losePower_mainPower (a : AlwaysOn) : a.losePower.mainPower = false := rfl

theorem AlwaysOn.losePower_powered {a : AlwaysOn} (h : a.powered = true) :
    a.losePower = { a.store srcPower 0 with mainPower := false } := by
  rw [AlwaysOn.losePower, if_pos h]

/-- The state that the loss of main power leaves. -/
def State.losePower (s : State) (cut : Cut) : State :=
  (((s.applyCut cut).modAon AlwaysOn.losePower).freezeIntegrals.coldReset 0).modBoot (fun b => { b with
    railsGood := [false, false, false] })

theorem exec_mainPowerLoss_powered {s : State} {dt : Ticks} (cut : Cut) (h : (s.elapse dt).aon.mainPower = true) :
    exec (.mainPowerLoss dt cut) s = .next ((s.elapse dt).losePower cut) := by
  simp only [exec_mainPowerLoss, execMainPowerLoss, h]
  rfl

@[simp] theorem State.losePower_mainPower (s : State) (cut : Cut) : (s.losePower cut).aon.mainPower = false := by
  simp [State.losePower]

/-- An uncut loss while no EPD phase runs changes the always-on domain by its own note alone. -/
theorem State.losePower_aon {s : State} (h : s.display.update = none) :
    (s.losePower .none).aon = s.aon.losePower := by
  have hu : (s.modAon AlwaysOn.losePower).display.update = none := h
  simp [State.losePower, State.freezeIntegrals_idle hu]

/-! ### Brown-outs and RESET_N -/

/-- The place of a supply in `Boot.railsGood`. -/
def railIndex : Rail → Nat
  | .core => 0
  | .io => 1
  | .vdda => 2

/-- The bit of RESET_CAUSE that a failing supply sets (Table 2.2). -/
def railCause : Rail → Nat
  | .core => 1
  | .io => 2
  | .vdda => 2

/-- A supply that fails resets the chip where it was good, and does nothing more where it had failed before. -/
theorem exec_brownOut_eq (dt : Ticks) (rail : Rail) (cut : Cut) (s : State) :
    exec (.brownOut dt rail cut) s = .next (if !((s.elapse dt).boot.railsGood.getD (railIndex rail) true) then s.elapse dt
      else ((s.elapse dt).resetChip (railCause rail) cut).modBoot (fun b => { b with
        railsGood := setAt b.railsGood (railIndex rail) false })) := by
  cases rail <;> rfl

/-- A supply that was good and fails resets the chip with its cause bit (R41). -/
theorem exec_brownOut_good {s u : State} {dt : Ticks} (rail : Rail) (cut : Cut) (hu : s.elapse dt = u)
    (h : u.boot.railsGood.getD (railIndex rail) true = true) :
    exec (.brownOut dt rail cut) s = .next ((u.resetChip (railCause rail) cut).modBoot (fun b => { b with
      railsGood := setAt b.railsGood (railIndex rail) false })) := by
  rw [exec_brownOut_eq, hu, if_neg (by rw [h]; decide)]

theorem exec_resetPinLow_long {s u : State} {dt : Ticks} {w : Nat} (cut : Cut) (hu : s.elapse dt = u) (h : 1000 ≤ w) :
    exec (.resetPinLow dt w cut) s = .next (u.resetByPin cut) := by
  subst hu
  simp only [exec_resetPinLow, execResetPinLow, if_pos h]

theorem exec_resetPinLow_short {s u : State} {dt : Ticks} {w : Nat} (cut : Cut) (hu : s.elapse dt = u) (h : w ≤ 100) :
    exec (.resetPinLow dt w cut) s = .next u := by
  subst hu
  simp only [exec_resetPinLow, execResetPinLow, if_neg (show ¬1000 ≤ w by omega), if_pos h]

/-- Between 100 ns and 1 µs a free bit decides whether RESET_N acts (log 9). -/
theorem exec_resetPinLow_between {s u : State} {dt : Ticks} {w : Nat} (cut : Cut) (hu : s.elapse dt = u)
    (h1 : 100 < w) (h2 : w < 1000) :
    exec (.resetPinLow dt w cut) s = .next { u with free := u.free + 1 } ∨
      exec (.resetPinLow dt w cut) s = .next (({ u with free := u.free + 1 } : State).resetByPin cut) := by
  subst hu
  simp only [exec_resetPinLow, execResetPinLow, if_neg (show ¬1000 ≤ w by omega), if_neg (show ¬w ≤ 100 by omega)]
  split
  · exact .inr rfl
  · exact .inl rfl

/-- Settles O35: a reset is the plain one where nothing is cut, and that one keeps and clears field by field. -/
theorem resetsKeepWhatMramHolds : Obligations.ResetsKeepWhatMramHolds := by
  unfold Obligations.ResetsKeepWhatMramHolds
  refine ⟨?core, ?io, ?pinLong, ?pinBetween, ?pinShort, ?vdda, ?lossStored, ?lossResets, ?kept⟩
  case core => exact fun s u dt cut hu h => exec_brownOut_good .core cut hu h
  case io => exact fun s u dt cut hu h => exec_brownOut_good .io cut hu h
  case pinLong => exact fun s u dt w cut hu h => exec_resetPinLow_long cut hu h
  case pinBetween => exact fun s u dt w cut hu h1 h2 => exec_resetPinLow_between cut hu h1 h2
  case pinShort => exact fun s u dt w cut hu h => exec_resetPinLow_short cut hu h
  case vdda => exact fun s u dt cut hu h => exec_brownOut_good .vdda cut hu h
  case lossStored =>
    rintro s u dt cut rfl rfl hidle hmain hpow
    refine ⟨_, exec_mainPowerLoss_powered .none hmain, ?_⟩
    rw [State.losePower_aon hidle, AlwaysOn.losePower_powered hpow]
    rfl
  case lossResets =>
    rintro s u dt cut rfl hmain
    exact ⟨_, exec_mainPowerLoss_powered cut hmain, State.losePower_mainPower .., rfl, rfl, rfl⟩
  case kept =>
    rintro s n cut rfl hidle
    refine ⟨s.coldReset n, (State.resetChip_uncut n hidle).symm, ?_⟩
    -- every clause is a frame lemma of the plain reset
    simp [State.coldReset_counts, State.coldReset_copies, State.coldReset_read]

end Sys2Proof.Machine
end

section
/-! PROOFS. What the part holds as it leaves manufacture: the factory copies of the register banks and of the
calibration store, the rotated values of which one word stands, and parameters of which none has been written. -/

namespace Sys2Proof.Machine

/-- A set of which one word has been written reads as that word. -/
@[simp] theorem Rotated.read_fresh {α : Type} (a d : α) : (Rotated.fresh a).read d = a := by
  simp [Rotated.read, Rotated.newest, Rotated.fresh]

@[simp] theorem Legal.elseq_reset : Legal.reset.elseq = 0 := Rotated.read_fresh ..
@[simp] theorem Legal.rseq_reset : Legal.reset.rseq = 0 := Rotated.read_fresh ..
@[simp] theorem Legal.aseq_reset : Legal.reset.aseq = 0 := Rotated.read_fresh ..

/-- A bank copy of manufacture reads 0 in every register, and also beyond its last. -/
theorem BankCopy.factory_regs_getD (mp i : Nat) : (BankCopy.factory mp).regs.getD i 0 = 0 :=
  List.getElem?_getD_replicate_default_eq ..

/-- The points after reset are those of manufacture, each with its own number. -/
theorem State.reset_point (m : Nat) : State.reset.point m = MeterPoint.reset m := by
  have hrange : (List.range 4).getD m m = m := by
    by_cases h : m < 4
    · simp [h]
    · exact List.getD_eq_default _ _ (by simpa using h)
  calc State.reset.point m = ((List.range 4).map MeterPoint.reset).getD m (MeterPoint.reset m) := rfl
    _ = MeterPoint.reset ((List.range 4).getD m m) := List.getD_map ..
    _ = MeterPoint.reset m := by rw [hrange]

/-- Both copies of every point's register bank are those of manufacture. -/
theorem State.eq_factory_of_mem_reset_copies {m : Nat} {k : BankCopy}
    (h : k ∈ [(State.reset.point m).copyA, (State.reset.point m).copyB]) : k = BankCopy.factory m := by
  rw [State.reset_point] at h
  simpa [MeterPoint.reset] using h

theorem CalCopy.eq_zeros_of_mem_reset_blocks {b : Bytes} (h : b ∈ CalCopy.reset.blocks) : b = zeros 96 :=
  List.eq_of_mem_replicate h

/-- A parameter that was never written holds its default (R339). -/
theorem State.param_of_unwritten {s : State} {id : Nat} (h : lookupParam s.params id = none) :
    s.param id = defaultOf id := by
  rw [State.param, h, Option.getD_none]

/-- Settles O2: `State.reset` is put together from the factory parts, and each clause is a lemma about its part. -/
theorem manufactureState : Obligations.ManufactureState := by
  unfold Obligations.ManufactureState
  refine ⟨?counters, rfl, rfl, rfl, Legal.elseq_reset, Legal.rseq_reset, Legal.aseq_reset, rfl, ?banks, ?calibration,
    fun id => State.param_of_unwritten rfl⟩
  case counters => simp [State.reset, Legal.reset]
  case banks =>
    intro m _ k hk
    obtain rfl := State.eq_factory_of_mem_reset_copies hk
    exact ⟨rfl, rfl, rfl, BankCopy.factory_regs_getD m⟩
  case calibration =>
    intro k hk
    obtain rfl : k = CalCopy.reset := by simpa [State.reset, Legal.reset] using hk
    exact ⟨rfl, rfl, fun b hb => CalCopy.eq_zeros_of_mem_reset_blocks hb⟩

end Sys2Proof.Machine
end

section
/-! PROOFS. The Skim codec read back: the bytes of packed bits (R474), the code of one value (R476), the samples within
D (R475, R477), and the length of a block (R478). -/

namespace Sys2Proof.Machine

/-! ### Bits and bytes (R474) -/

/-- A number's bits are those of its upper part, then those of its lower. -/
theorem bitsOf_add (v w n : Nat) : bitsOf (v + w) n = bitsOf v (n / 2 ^ w) ++ bitsOf w n := by
  unfold bitsOf upTo
  rw [List.range_add, List.map_append, List.map_map]
  congr 1
  · refine List.map_congr_left fun i hi => ?_
    rw [List.mem_range] at hi
    rw [Nat.testBit_div_two_pow, show v - 1 - i + w = v + w - 1 - i by omega]
  · refine List.map_congr_left fun i _ => ?_
    rw [Function.comp_apply, show v + w - 1 - (v + i) = w - 1 - i by omega]

theorem bitsOf_one (n : Nat) : bitsOf 1 n = [n.testBit 0] := rfl

theorem ofBits_append_singleton (l : List Bool) (b : Bool) : ofBits (l ++ [b]) = 2 * ofBits l + b2n b := by
  simp [ofBits]

theorem b2n_testBit_zero (n : Nat) : b2n (n.testBit 0) = n % 2 := by
  rcases Nat.mod_two_eq_zero_or_one n with h | h <;> simp [b2n, h]

/-- The low `w` bits of a number spell it modulo `2 ^ w`. -/
theorem ofBits_bitsOf (w n : Nat) : ofBits (bitsOf w n) = n % 2 ^ w := by
  induction w generalizing n with
  | zero => simp [bitsOf, upTo, ofBits, Nat.mod_one]
  | succ w ih =>
    rw [bitsOf_add, bitsOf_one, ofBits_append_singleton, ih, b2n_testBit_zero, pow_one, Nat.pow_succ', Nat.mod_mul]
    omega

theorem byte_mod (n : Nat) : byte (n % 256) = byte n := BitVec.eq_of_toNat_eq (by simp [byte])

/-- Eight bits pack into their byte. -/
theorem packAll_byte_append (n : Nat) (l : List Bool) : packAll (bitsOf 8 n ++ l) = byte n :: packAll l := by
  have hlen := length_bitsOf 8 n
  have hne : (bitsOf 8 n ++ l).isEmpty = false :=
    List.isEmpty_eq_false_iff.2 (List.append_ne_nil_of_left_ne_nil (List.ne_nil_of_length_eq_add_one hlen) l)
  have hfuel : (bitsOf 8 n ++ l).length / 8 = l.length / 8 + 1 := by
    rw [List.length_append, hlen]
    omega
  unfold packAll
  rw [hfuel, packBits, hne]
  simp [List.take_left' hlen, List.drop_left' hlen, hlen, ofBits_bitsOf, byte_mod]

/-- `8 k` bits pack into `k` bytes, most significant first. -/
theorem packAll_bytes_append (k n : Nat) (l : List Bool) :
    packAll (bitsOf (8 * k) n ++ l) = beBytes k n ++ packAll l := by
  induction k generalizing n l with
  | zero => rfl
  | succ k ih =>
    have hbe : beBytes (k + 1) n = beBytes k (n / 2 ^ 8) ++ [byte n] := List.reverse_cons
    rw [Nat.mul_succ, bitsOf_add, List.append_assoc, ih, packAll_byte_append, hbe, List.append_assoc,
      List.singleton_append]

/-- The body of a RAW block is its samples, each as four bytes, most significant first. -/
theorem packAll_raw (xs : List Int) : packAll (xs.flatMap (fun x => bitsOf 32 (wrap32 x))) =
    xs.flatMap (fun x => beBytes 4 (wrap32 x)) := by
  induction xs with
  | nil => rfl
  | cons x xs ih => rw [List.flatMap_cons, List.flatMap_cons, packAll_bytes_append 4, ih]

/-! ### The code of one value (R476) -/

/-- What is read behind `m` ones and a zero: the value's upper part is `m`. -/
theorem readRice_short {k m : Nat} {c : List Bool} (rest : List Bool) (hm : m ≤ 31) (hc : c.length = k) :
    readRice k (List.replicate m true ++ [false] ++ c ++ rest) = some (m * 2 ^ k + ofBits c, rest) := by
  have hones : ((List.replicate m true ++ [false] ++ c ++ rest).takeWhile id).length = m := by
    simp [List.takeWhile_append_of_pos]
  have hdrop : (List.replicate m true ++ [false] ++ c ++ rest).drop (m + 1) = c ++ rest := by
    rw [List.append_assoc]
    exact List.drop_left' (by simp)
  simp only [readRice, hones, show min 32 m = m by omega, show m ≠ 32 by omega, if_false, hdrop]
  simp [List.take_left' hc, List.drop_left' hc, hc]

/-- What is read behind 32 ones: the value in 33 bits. -/
theorem readRice_escape (k : Nat) {c : List Bool} (rest : List Bool) (hc : c.length = 33) :
    readRice k (List.replicate 32 true ++ c ++ rest) = some (ofBits c, rest) := by
  have hones : 32 ≤ ((List.replicate 32 true ++ c ++ rest).takeWhile id).length := by
    rw [List.append_assoc, List.takeWhile_append_of_pos (by simp), List.length_append,
      List.length_replicate]
    omega
  have hdrop : (List.replicate 32 true ++ c ++ rest).drop 32 = c ++ rest := by
    rw [List.append_assoc]
    exact List.drop_left' (by simp)
  simp only [readRice, Nat.min_eq_left hones, if_true, hdrop]
  simp [List.take_left' hc, List.drop_left' hc, hc]

/-- The code of a value of at most 33 bits reads back as the value, and leaves what follows. -/
theorem readRice_riceBits {k u : Nat} (rest : List Bool) (hu : u < 2 ^ 33) :
    readRice k (riceBits k u ++ rest) = some (u, rest) := by
  unfold riceBits
  by_cases h : u / 2 ^ k ≤ 31
  · simp only [if_pos h]
    rw [readRice_short rest h (length_bitsOf k u), ofBits_bitsOf, Nat.div_add_mod']
  · simp only [if_neg h]
    rw [readRice_escape k rest (length_bitsOf 33 u), ofBits_bitsOf, Nat.mod_eq_of_lt hu]

/-! ### The samples restored (R475, R477) -/

theorem unzigzag_zigzag (q : Int) : unzigzag (zigzag q) = q := by
  unfold unzigzag zigzag
  split_ifs <;> omega

theorem zigzag_le (q : Int) : zigzag q ≤ 2 * q.natAbs := by
  unfold zigzag
  split_ifs <;> omega

/-- A quantised error of a sample against a clamped prediction fits the escape's 33 bits. -/
theorem zigzag_quantise_lt (d : Nat) {x : Int} (p : Int) (hx : -2147483648 ≤ x ∧ x ≤ 2147483647) :
    zigzag (quantise d (x - clamp32 p)) < 2 ^ 33 := by
  have hp := clamp32_bounds p
  have hz := zigzag_le (quantise d (x - clamp32 p))
  have hq := natAbs_quantise d (x - clamp32 p)
  omega

theorem residuals_lt (pred d : Nat) (y : List Int) {xs : List Int}
    (h : ∀ x ∈ xs, -2147483648 ≤ x ∧ x ≤ 2147483647) : ∀ u ∈ residuals pred d y xs, u < 2 ^ 33 := by
  induction xs generalizing y with
  | nil => simp [residuals]
  | cons x xs ih =>
    rw [List.forall_mem_cons] at h
    exact List.forall_mem_cons.2 ⟨zigzag_quantise_lt d _ h.1, ih _ h.2⟩

/-- `y` lies within `d` of `x`. -/
def Within (d : Nat) (x y : Int) : Prop := (x - y).natAbs ≤ d

theorem within_self (d : Nat) (x : Int) : Within d x x := by simp [Within]

theorem eq_of_within_zero {x y : Int} (h : Within 0 x y) : x = y := by
  unfold Within at h
  omega

/-- Every sample after the warm-up is restored within D: encoder and decoder hold the same history `y`, so one step's
bound is all there is. -/
theorem restore_residuals_within (pred d : Nat) (y : List Int) {xs : List Int}
    (h : ∀ x ∈ xs, -2147483648 ≤ x ∧ x ≤ 2147483647) :
    List.Forall₂ (Within d) xs (restore pred d y (residuals pred d y xs)) := by
  induction xs generalizing y with
  | nil => exact .nil
  | cons x xs ih =>
    rw [List.forall_mem_cons] at h
    simp only [residuals, restore, unzigzag_zigzag]
    exact .cons (reconstruct_error d _ x h.1) (ih _ h.2)

/-- Every sample of a block is restored within D; the warm-up stands there itself. -/
theorem restore_codedPart_within (pred d : Nat) {xs : List Int} (h : ∀ x ∈ xs, -2147483648 ≤ x ∧ x ≤ 2147483647) :
    List.Forall₂ (Within d) xs (xs.take pred ++ restore pred d (xs.take pred).reverse (codedPart pred d xs)) := by
  have hwarm : List.Forall₂ (Within d) (xs.take pred) (xs.take pred) :=
    List.forall₂_same.2 fun x _ => within_self d x
  have hrest : List.Forall₂ (Within d) (xs.drop pred) (restore pred d (xs.take pred).reverse (codedPart pred d xs)) :=
    restore_residuals_within pred d _ fun x hx => h x (List.mem_of_mem_drop hx)
  simpa only [List.take_append_drop] using List.rel_append hwarm hrest

/-- Related lists stay related place by place, also beyond their end where the defaults are. -/
theorem forall₂_getD {α β : Type} {R : α → β → Prop} {a : α} {b : β} (hd : R a b) {l : List α} {m : List β}
    (h : List.Forall₂ R l m) (i : Nat) : R (l.getD i a) (m.getD i b) := by
  induction h generalizing i with
  | nil => simpa using hd
  | cons hxy _ ih =>
    cases i with
    | zero => simpa using hxy
    | succ i => simpa using ih i

/-! ### The length of a block (R478, R479) -/

/-- What the search for the best coding holds: it still stands at its start, or at the length of its combination. -/
def IsCoding (d : Nat) (xs : List Int) (best : Nat × Nat × Nat) : Prop :=
  best.2.2 = 2 ^ 32 ∨ best.2.2 = bodyLen best.1 best.2.1 (codedPart best.1 d xs) xs.length

theorem isCoding_bestCoding (d : Nat) (xs : List Int) : IsCoding d xs (bestCoding d xs) := by
  unfold bestCoding
  refine List.foldlRecOn _ _ (.inl rfl) fun best hbest pred _ => ?_
  refine List.foldlRecOn _ _ hbest fun best hbest k _ => ?_
  dsimp only
  split
  · exact .inr rfl
  · exact hbest

theorem length_flatMap_bitsOf (w : Nat) (f : Int → Nat) (xs : List Int) :
    (xs.flatMap (fun x => bitsOf w (f x))).length = w * xs.length := by
  simp [List.length_flatMap, length_bitsOf, Nat.mul_comm]

/-- `bodyLen` is the length of the body that the combination makes. -/
theorem length_body (pred k d : Nat) (xs : List Int) :
    (packAll ((xs.take pred).flatMap (fun x => bitsOf 32 (wrap32 x)) ++
      (codedPart pred d xs).flatMap (riceBits k))).length = bodyLen pred k (codedPart pred d xs) xs.length := by
  rw [length_packAll, List.length_append, length_flatMap_bitsOf, List.length_take, List.length_flatMap, bodyLen]
  simp only [length_riceBits]

theorem length_blockHeader (pred d k n status len : Nat) : (blockHeader pred d k n status len).length = 8 := rfl

/-- A block is RAW, with four bytes a sample, unless a coding is shorter. -/
theorem length_skimBlock_le (d status : Nat) {xs : List Int} (hn : xs.length ≤ 256) :
    (skimBlock d status xs).length ≤ 8 + 4 * xs.length := by
  unfold skimBlock
  dsimp only
  split
  case isTrue =>
    rw [List.length_append, length_blockHeader, length_packAll, length_flatMap_bitsOf]
    omega
  case isFalse hshort =>
    have hbody := isCoding_bestCoding d xs
    unfold IsCoding at hbody
    rw [List.length_append, length_blockHeader, length_body]
    omega

/-! ### Profile series (R472) -/

/-- A series stands behind the channels, so no capture's bound reaches its block, which goes to the archive alone. -/
theorem State.endBlock_series {s : State} {src : Nat} {b : SkimBlock} (hsrc : 16 ≤ src)
    (hb : s.blockOf src = some b) : s.endBlock src =
      if b.archived = true
      then (s.modSkim (·.drop src)).appendArchive (b.record (skimBlock 0 b.status b.samples.reverse))
      else s.modSkim (·.drop src) := by
  unfold State.endBlock
  rw [hb]
  simp only [if_neg (show ¬src < 16 by omega), if_pos hsrc]

/-- Settles O59: the quantiser's bound holds step by step over the common history, a code reads back as its value, and
the encoder takes a coding only where it is shorter than RAW. -/
theorem skimKeepsItsBound : Obligations.SkimKeepsItsBound := by
  unfold Obligations.SkimKeepsItsBound
  refine ⟨?restored, ?codes, packAll_raw, fun d status _ hn => length_skimBlock_le d status hn, ?series⟩
  case restored =>
    rintro pred d xs ys _ _ hxs rfl
    have hwithin := restore_codedPart_within pred d hxs
    refine ⟨hwithin.length_eq.symm, forall₂_getD (within_self d 0) hwithin, ?exact,
      residuals_lt pred d _ fun x hx => hxs x (List.mem_of_mem_drop hx)⟩
    rintro rfl
    have hequal := hwithin.imp fun _ _ => eq_of_within_zero
    rw [List.forall₂_eq_eq_eq] at hequal
    exact hequal.symm
  case codes => exact fun k u rest _ hu => readRice_riceBits rest hu
  case series => exact fun s src b hsrc hb => State.endBlock_series hsrc hb

end Sys2Proof.Machine
end

section
/-! PROOFS. One step: the queue, the next state that every command has, and the invariant at reset and after it. -/

namespace Sys2Proof.Machine

/-- Settles O1: `step` is this case split on the queue. -/
theorem stepRunsTheFrontCommand : Obligations.StepRunsTheFrontCommand := by
  unfold Obligations.StepRunsTheFrontCommand step
  constructor
  · intro s c rest hs
    rw [hs]
  · intro s hs
    rw [hs]

/-- The queue is none of what the invariant looks at. -/
theorem inv_pending {s : State} (rest : List Instr) (h : s.Inv) : { s with pending := rest }.Inv :=
  h.congr rfl rfl rfl rfl rfl rfl rfl rfl rfl rfl

/-- Every command has a next state, and it meets the invariant where the state before it did. -/
theorem exec_next_inv {s : State} (h : s.Inv) (c : Instr) : ∃ t, exec c s = .next t ∧ t.Inv := by
  cases c with
  | resetRelease dt env => exact inv_execResetRelease dt env h
  | entropyStartRetry dt pass env => exact inv_execEntropyStartRetry dt pass env h
  | xtalMainTimeout dt => exact inv_execXtalMainTimeout dt h
  | pllLockTimeout dt => exact inv_execPllLockTimeout dt h
  | legalStartFail dt env => exact inv_execLegalStartFail dt env h
  | appStartFail dt env => exact inv_execAppStartFail dt env h
  | brownOut dt rail cut => exact inv_execBrownOut dt rail cut h
  | resetPinLow dt widthNs cut => exact inv_execResetPinLow dt widthNs cut h
  | mainPowerLoss dt cut => exact inv_execMainPowerLoss dt cut h
  | aonPowerUp dt levels => exact inv_execAonPowerUp dt levels h
  | aonSupplyLoss dt => exact inv_execAonSupplyLoss dt h
  | tamperSample dt levels => exact inv_execTamperSample dt levels h
  | retainedDrain dt => exact inv_execRetainedDrain dt h
  | displaySequencePhaseEnd dt mismatch => exact inv_execDisplaySequencePhaseEnd dt mismatch h
  | lockstepMismatch dt env => exact inv_execLockstepMismatch dt env h
  | lcWatchdogExpiry dt env => exact inv_execLcWatchdogExpiry dt env h
  | acWatchdogExpiry dt env => exact inv_execAcWatchdogExpiry dt env h
  | lcIntegrityFault dt env => exact inv_execLcIntegrityFault dt env h
  | acIntegrityFault dt addr env => exact inv_execAcIntegrityFault dt addr env h
  | mainClockFault dt => exact inv_execMainClockFault dt h
  | pllRestartTry dt locked => exact inv_execPllRestartTry dt locked h
  | dspClockFault dt => exact inv_execDspClockFault dt h
  | mclkStop dt glitchPs => exact inv_execMclkStop dt glitchPs h
  | mclkWindow dt meanPpm periodsOk => exact inv_execMclkWindow dt meanPpm periodsOk h
  | mclkReturn dt => exact inv_execMclkReturn dt h
  | xoModLost dt => exact inv_execXoModLost dt h
  | xoModRestartTry dt runs => exact inv_execXoModRestartTry dt runs h
  | modEpoch dt => exact inv_execModEpoch dt h
  | slewSecond dt => exact inv_execSlewSecond dt h
  | slewClamp dt => exact inv_execSlewClamp dt h
  | fineHoldoverExpiry dt => exact inv_execFineHoldoverExpiry dt h
  | rtcHourlyWrite dt => exact inv_execRtcHourlyWrite dt h
  | counterInputEdge dt cnt rising heldNs => exact inv_execCounterInputEdge dt cnt rising heldNs h
  | quadTransition dt cnt a b heldANs heldBNs => exact inv_execQuadTransition dt cnt a b heldANs heldBNs h
  | counterLatch dt => exact inv_execCounterLatch dt h
  | faOutput dt pch words x3Held => exact inv_execFaOutput dt pch words x3Held h
  | lineHoldTimeout dt pch => exact inv_execLineHoldTimeout dt pch h
  | lineLockTimeout dt pch => exact inv_execLineLockTimeout dt pch h
  | diagBitSet dt pch bit seen => exact inv_execDiagBitSet dt pch bit seen h
  | diagBitClear dt pch bit seen => exact inv_execDiagBitClear dt pch bit seen h
  | diagSummary dt pch => exact inv_execDiagSummary dt pch h
  | syncInEdge dt lowLow highHigh => exact inv_execSyncInEdge dt lowLow highHigh h
  | syncAtFire dt afterPs => exact inv_execSyncAtFire dt afterPs h
  | analysisCycle dt mp => exact inv_execAnalysisCycle dt mp h
  | weighPosition dt mp => exact inv_execWeighPosition dt mp h
  | weighTimeout dt mp => exact inv_execWeighTimeout dt mp h
  | commitSecond dt => exact inv_execCommitSecond dt h
  | calendarActivation dt => exact inv_execCalendarActivation dt h
  | keyPress dt key second => exact inv_execKeyPress dt key second h
  | showLcvTimeout dt => exact inv_execShowLcvTimeout dt h
  | keyStuck dt key => exact inv_execKeyStuck dt key h
  | calIdleTimeout dt => exact inv_execCalIdleTimeout dt h
  | provUpdate dt mp => exact inv_execProvUpdate dt mp h
  | provStabilityPoll dt mp => exact inv_execProvStabilityPoll dt mp h
  | harmonicSecond dt mp => exact inv_execHarmonicSecond dt mp h
  | gateReadStatus dt => exact inv_execGateReadStatus dt h
  | gateReadRegisters dt => exact inv_execGateReadRegisters dt h
  | gateSignReading dt => exact inv_execGateSignReading dt h
  | gateReadLog dt => exact inv_execGateReadLog dt h
  | gateAttest dt => exact inv_execGateAttest dt h
  | gateSetParam dt => exact inv_execGateSetParam dt h
  | gateSetTime dt => exact inv_execGateSetTime dt h
  | gateLoadCalendar dt => exact inv_execGateLoadCalendar dt h
  | gateSetOwnerLock dt => exact inv_execGateSetOwnerLock dt h
  | gateWeighBegin dt => exact inv_execGateWeighBegin dt h
  | gateWeighCommit dt => exact inv_execGateWeighCommit dt h
  | gateWeighCancel dt => exact inv_execGateWeighCancel dt h
  | calBegin dt => exact inv_execCalBegin dt h
  | calZero dt => exact inv_execCalZero dt h
  | calCorner dt => exact inv_execCalCorner dt h
  | calSpan dt => exact inv_execCalSpan dt h
  | calElecRef dt => exact inv_execCalElecRef dt h
  | calRref dt => exact inv_execCalRref dt h
  | calCommit dt => exact inv_execCalCommit dt h
  | calAbort dt => exact inv_execCalAbort dt h
  | gateActivateLegal dt => exact inv_execGateActivateLegal dt h
  | legalActivationSwitch dt env => exact inv_execLegalActivationSwitch dt env h
  | gateSealLogArchive dt => exact inv_execGateSealLogArchive dt h
  | gateRegArchive dt => exact inv_execGateRegArchive dt h
  | gateReservedCode dt => exact inv_execGateReservedCode dt h
  | gateReplyReceive dt => exact inv_execGateReplyReceive dt h
  | gateSlotFreeSubmit dt => exact inv_execGateSlotFreeSubmit dt h
  | readingDelivery dt => exact inv_execReadingDelivery dt h
  | memRead dt addr nwords failing => exact inv_execMemRead dt addr nwords failing h
  | memWrite dt addr words failing => exact inv_execMemWrite dt addr words failing h
  | spiReservedFrame dt code => exact inv_execSpiReservedFrame dt code h
  | spiFrameCut dt cut => exact inv_execSpiFrameCut dt cut h
  | registerWrite dt addr words => exact inv_execRegisterWrite dt addr words h
  | resetCauseWrite dt value => exact inv_execResetCauseWrite dt value h
  | irqStatusWrite dt value => exact inv_execIrqStatusWrite dt value h
  | hawkReset dt => exact inv_execHawkReset dt h
  | nodeTimeLatch dt addr nwords => exact inv_execNodeTimeLatch dt addr nwords h
  | eventLostRead dt nwords => exact inv_execEventLostRead dt nwords h
  | bulkDroppedRead dt nwords => exact inv_execBulkDroppedRead dt nwords h
  | commandDoorbell dt tail => exact inv_execCommandDoorbell dt tail h
  | ringHeadWrite dt ring head => exact inv_execRingHeadWrite dt ring head h
  | ringEnable dt ring cfg => exact inv_execRingEnable dt ring cfg h
  | ringDisable dt ring cfg => exact inv_execRingDisable dt ring cfg h
  | commandTake dt failing => exact inv_execCommandTake dt failing h
  | coalesceTimerExpiry dt ring => exact inv_execCoalesceTimerExpiry dt ring h
  | rilfyFrameReceive dt port frame => exact inv_execRilfyFrameReceive dt port frame h
  | getInfo dt c p => exact inv_execGetInfo dt c p h
  | readStatus dt c p => exact inv_execReadStatus dt c p h
  | getParam dt c p => exact inv_execGetParam dt c p h
  | setParam dt c p => exact inv_execSetParam dt c p h
  | getParamInfo dt c p => exact inv_execGetParamInfo dt c p h
  | systemReset dt c p env => exact inv_execSystemReset dt c p env h
  | ping dt c p => exact inv_execPing dt c p h
  | chainInfo dt c p => exact inv_execChainInfo dt c p h
  | syncNow dt c p latePs => exact inv_execSyncNow dt c p latePs h
  | syncAt dt c p => exact inv_execSyncAt dt c p h
  | syncStatus dt c p => exact inv_execSyncStatus dt c p h
  | calibrate dt c p => exact inv_execCalibrate dt c p h
  | weighBegin dt c p => exact inv_execWeighBegin dt c p h
  | weighCommit dt c p => exact inv_execWeighCommit dt c p h
  | weighCancel dt c p => exact inv_execWeighCancel dt c p h
  | provSamples dt c p => exact inv_execProvSamples dt c p h
  | provStatus dt c p => exact inv_execProvStatus dt c p h
  | readRegisters dt c p => exact inv_execReadRegisters dt c p h
  | signReading dt c p => exact inv_execSignReading dt c p h
  | readLog dt c p => exact inv_execReadLog dt c p h
  | sealLogArchive dt c p => exact inv_execSealLogArchive dt c p h
  | profileRead dt c p => exact inv_execProfileRead dt c p h
  | profileStatus dt c p => exact inv_execProfileStatus dt c p h
  | readExternal dt c p => exact inv_execReadExternal dt c p h
  | regArchive dt c p => exact inv_execRegArchive dt c p h
  | getTime dt c p => exact inv_execGetTime dt c p h
  | setTime dt c p => exact inv_execSetTime dt c p h
  | discipline dt c p => exact inv_execDiscipline dt c p h
  | loadCalendar dt c p => exact inv_execLoadCalendar dt c p h
  | readCalendar dt c p => exact inv_execReadCalendar dt c p h
  | tariffStatus dt c p => exact inv_execTariffStatus dt c p h
  | setOwnerLock dt c p => exact inv_execSetOwnerLock dt c p h
  | ownerStatus dt c p => exact inv_execOwnerStatus dt c p h
  | commSegments dt c p => exact inv_execCommSegments dt c p h
  | commDigits dt c p => exact inv_execCommDigits dt c p h
  | statusIcons dt c p => exact inv_execStatusIcons dt c p h
  | commCommit dt c p => exact inv_execCommCommit dt c p h
  | displayStatus dt c p => exact inv_execDisplayStatus dt c p h
  | fabricStatus dt c p => exact inv_execFabricStatus dt c p h
  | portStatus dt c p => exact inv_execPortStatus dt c p h
  | portEnable dt c p => exact inv_execPortEnable dt c p h
  | nodeList dt c p => exact inv_execNodeList dt c p h
  | routeTable dt c p => exact inv_execRouteTable dt c p h
  | installLinkKey dt c p => exact inv_execInstallLinkKey dt c p h
  | tunnelSend dt c p => exact inv_execTunnelSend dt c p h
  | updateStatus dt c p => exact inv_execUpdateStatus dt c p h
  | stageBegin dt c p => exact inv_execStageBegin dt c p h
  | stageData dt c p => exact inv_execStageData dt c p h
  | stageEnd dt c p => exact inv_execStageEnd dt c p h
  | stageAbort dt c p => exact inv_execStageAbort dt c p h
  | activate dt c p env => exact inv_execActivate dt c p env h
  | readManifest dt c p => exact inv_execReadManifest dt c p h
  | attest dt c p => exact inv_execAttest dt c p h
  | readCert dt c p => exact inv_execReadCert dt c p h
  | ctxOpen dt c p => exact inv_execCtxOpen dt c p h
  | ctxUpdate dt c p => exact inv_execCtxUpdate dt c p h
  | ctxFinal dt c p => exact inv_execCtxFinal dt c p h
  | ctxAbort dt c p => exact inv_execCtxAbort dt c p h
  | sign dt c p => exact inv_execSign dt c p h
  | verify dt c p => exact inv_execVerify dt c p h
  | ecdh dt c p => exact inv_execEcdh dt c p h
  | keygen dt c p => exact inv_execKeygen dt c p h
  | keyLoad dt c p => exact inv_execKeyLoad dt c p h
  | keyErase dt c p => exact inv_execKeyErase dt c p h
  | random dt c p => exact inv_execRandom dt c p h
  | entropyStatus dt c p => exact inv_execEntropyStatus dt c p h
  | captureStart dt c p => exact inv_execCaptureStart dt c p h
  | captureStop dt c p => exact inv_execCaptureStop dt c p h
  | separationTest dt c p => exact inv_execSeparationTest dt c p h
  | diagCounters dt c p => exact inv_execDiagCounters dt c p h
  | mbusList dt c p => exact inv_execMbusList dt c p h
  | mbusRead dt c p => exact inv_execMbusRead dt c p h
  | cryptoJobComplete dt ctx => exact inv_execCryptoJobComplete dt ctx h
  | cryptoPreempt dt => exact inv_execCryptoPreempt dt h
  | entropyHealthFail dt rct => exact inv_execEntropyHealthFail dt rct h
  | entropySourceRestart dt noise => simpa only [exec_entropySourceRestart] using inv_execEntropySourceRestart dt noise h
  | drbgReseed dt => exact inv_execDrbgReseed dt h
  | displayFrameBoundary dt dieTemp => exact inv_execDisplayFrameBoundary dt dieTemp h
  | legalImageWrite dt => exact inv_execLegalImageWrite dt h
  | legalStale dt => exact inv_execLegalStale dt h
  | epdPhaseEnd dt rails => exact inv_execEpdPhaseEnd dt rails h
  | epdUpdateEnd dt => exact inv_execEpdUpdateEnd dt h
  | readbackMismatch dt output measured => exact inv_execReadbackMismatch dt output measured h
  | legalErrorFlash dt => exact inv_execLegalErrorFlash dt h
  | vlcdUpdate dt dieTemp => exact inv_execVlcdUpdate dt dieTemp h
  | touchScan dt raws => exact inv_execTouchScan dt raws h
  | vbatMeasure dt mv => exact inv_execVbatMeasure dt mv h
  | vbusValid dt => exact inv_execVbusValid dt h
  | vbusInvalid dt => exact inv_execVbusInvalid dt h
  | optSignOn dt msg => exact inv_execOptSignOn dt msg h
  | optOptionSelect dt msg => exact inv_execOptOptionSelect dt msg h
  | optMessageTimeout dt => exact inv_execOptMessageTimeout dt h
  | optRilfyIdleTimeout dt => exact inv_execOptRilfyIdleTimeout dt h
  | mbusPollCycle dt => exact inv_execMbusPollCycle dt h
  | mbusReply dt frame => exact inv_execMbusReply dt frame h
  | mbusReplyTimeout dt => exact inv_execMbusReplyTimeout dt h
  | quietEnd dt port => exact inv_execQuietEnd dt port h
  | helloTimer dt port => exact inv_execHelloTimer dt port h
  | helloReceive dt port frame => exact inv_execHelloReceive dt port frame h
  | linkSilenceTimeout dt port => exact inv_execLinkSilenceTimeout dt port h
  | sessionRenewal dt port => exact inv_execSessionRenewal dt port h
  | sessionDeadline dt port => exact inv_execSessionDeadline dt port h
  | lsaReceive dt port frame => exact inv_execLsaReceive dt port frame h
  | lsaRefresh dt => exact inv_execLsaRefresh dt h
  | lsaAgeOut dt nodeId => exact inv_execLsaAgeOut dt nodeId h
  | routeCompute dt => exact inv_execRouteCompute dt h
  | addressAssign dt => exact inv_execAddressAssign dt h
  | electionEvaluate dt => exact inv_execElectionEvaluate dt h
  | timeReqTimer dt port => exact inv_execTimeReqTimer dt port h
  | timeReqReceive dt port frame => exact inv_execTimeReqReceive dt port frame h
  | timeRespSend dt port => exact inv_execTimeRespSend dt port h
  | timeRespReceive dt port frame => exact inv_execTimeRespReceive dt port frame h
  | fabricDisciplineSecond dt => exact inv_execFabricDisciplineSecond dt h
  | tunnelCmdReceive dt port frame => exact inv_execTunnelCmdReceive dt port frame h
  | tunnelRespReceive dt port frame => exact inv_execTunnelRespReceive dt port frame h
  | tunnelBulkReceive dt port frame => exact inv_execTunnelBulkReceive dt port frame h
  | tunnelPieceTimeout dt tunnel => exact inv_execTunnelPieceTimeout dt tunnel h
  | tunnelResponseTimeout dt tunnel => exact inv_execTunnelResponseTimeout dt tunnel h
  | distributionRepeat dt => exact inv_execDistributionRepeat dt h
  | readingReceive dt port frame => exact inv_execReadingReceive dt port frame h
  | readingAckReceive dt port frame => exact inv_execReadingAckReceive dt port frame h
  | readingResend dt rid => exact inv_execReadingResend dt rid h
  | routedFrameForward dt port frame => exact inv_execRoutedFrameForward dt port frame h
  | frameReject dt port frame => exact inv_execFrameReject dt port frame h
  | portTransmit dt port => exact inv_execPortTransmit dt port h
  | dmaSubmit dt ch prio index descs root tables => exact inv_execDmaSubmit dt ch prio index descs root tables h
  | dmaPageWalk dt ch failing => exact inv_execDmaPageWalk dt ch failing h
  | dmaPreempt dt ch granules => exact inv_execDmaPreempt dt ch granules h
  | dmaResume dt ch => exact inv_execDmaResume dt ch h
  | dmaAbort dt ch => exact inv_execDmaAbort dt ch h
  | dmaChannelDisable dt ch granules => exact inv_execDmaChannelDisable dt ch granules h
  | dmaTransferEnd dt ch failing => exact inv_execDmaTransferEnd dt ch failing h
  | iommuInvalidate dt page tables => exact inv_execIommuInvalidate dt page tables h
  | guardWindowRevoke dt window => exact inv_execGuardWindowRevoke dt window h
  | guardWindowRelease dt => exact inv_execGuardWindowRelease dt h
  | mramScrub dt finding => exact inv_execMramScrub dt finding h
  | sramScrubLine dt line finding => exact inv_execSramScrubLine dt line finding h
  | flashEraseComplete dt sector good => exact inv_execFlashEraseComplete dt sector good h
  | flashProgramComplete dt => exact inv_execFlashProgramComplete dt h
  | archiveHeadCommit dt => exact inv_execArchiveHeadCommit dt h
  | captureRecord dt pch => exact inv_execCaptureRecord dt pch h
  | nonlegalActivationTimeout dt env => exact inv_execNonlegalActivationTimeout dt env h
  | legalActivationTimeout dt env => exact inv_execLegalActivationTimeout dt env h
  | trialConfirm dt component => exact inv_execTrialConfirm dt component h
  | trialWatchdogExpiry dt component env => exact inv_execTrialWatchdogExpiry dt component env h
  | mainPowerReturn dt => exact inv_execMainPowerReturn dt h
  | keyRelease dt key => exact inv_execKeyRelease dt key h
  | dspClockRelockTry dt locked => exact inv_execDspClockRelockTry dt locked h
  | registerListScreenEnd dt => exact inv_execRegisterListScreenEnd dt h
  | screenHalfSwitch dt => exact inv_execScreenHalfSwitch dt h
  | optReadoutEnd dt => exact inv_execOptReadoutEnd dt h
  | ringStatusWrite dt ring value => exact inv_execRingStatusWrite dt ring value h
  | activateResponseDiscard dt => exact inv_execActivateResponseDiscard dt h

theorem step_next_inv {s : State} (h : s.Inv) : ∃ t, step s = .next t ∧ t.Inv := by
  cases hp : s.pending with
  | nil => exact ⟨s, stepRunsTheFrontCommand.2 s hp, h⟩
  | cons c rest =>
    rw [stepRunsTheFrontCommand.1 s c rest hp]
    exact exec_next_inv (inv_pending rest h) c

/-- Settles O4: each command's own lemma keeps the invariant, and a step is a command or nothing. -/
theorem everyStepKeepsTheInvariant : Obligations.EveryStepKeepsTheInvariant := by
  intro s t h ht
  obtain ⟨u, hu, hinv⟩ := step_next_inv h
  obtain rfl : t = u := Host.Outcome.next.inj (ht.symm.trans hu)
  exact hinv

/-- Settles O3: the logs are empty, the counters 0 or 1, and the lists have their lengths. -/
theorem resetMeetsTheInvariant : Obligations.ResetMeetsTheInvariant where
  mem := by decide
  logs := ⟨by decide, by decide, by decide, by decide⟩
  aon := ⟨by decide, by decide, by decide, by decide⟩
  gate := ⟨by decide, by decide⟩
  channels := by decide
  counters := by decide
  points := by decide
  rings := by decide
  ports := by decide
  components := by decide

/-- The armed comparator answers a next state whether it is armed, early or due. -/
theorem exec_syncAtFire_next (dt : Ticks) (afterPs : Nat) (s : State) : ∃ t, exec (.syncAtFire dt afterPs) s = .next t := by
  rw [exec_syncAtFire]
  unfold execSyncAtFire
  dsimp only
  split
  case h_1 => exact ⟨_, rfl⟩
  case h_2 => exact ⟨_, rfl⟩

/-- Settles O5: each arm of `exec` ends in `.next`, that of SYNC_AT's comparator after a look at what is armed. -/
theorem everyCommandAnswersANextState : Obligations.EveryCommandAnswersANextState := by
  intro c s
  cases c
  case syncAtFire dt afterPs => exact exec_syncAtFire_next dt afterPs s
  all_goals exact ⟨_, rfl⟩

end Sys2Proof.Machine
end

section
/-! PROOFS. What the DMA engine may change: its writes lie in the pages that the IOMMU grants for writing, all of them in
the regions of Table 13.2, and the rest of its work touches no byte of memory (R373 to R375). -/

namespace Sys2Proof.Machine

/-- Two memories read alike outside the regions that DMA may write (Table 13.2). -/
def DmaFrame (m k : Memory) : Prop := ∀ a, dmaWrites a = false → k.read a = m.read a

theorem DmaFrame.refl (m : Memory) : DmaFrame m m := fun _ _ => rfl

theorem DmaFrame.trans {m k l : Memory} (h : DmaFrame m k) (h' : DmaFrame k l) : DmaFrame m l :=
  fun a ha => (h' a ha).trans (h a ha)

theorem DmaFrame.foldl {α β : Type} {mem : β → Memory} {f : β → α → β} {p : α → Prop}
    (hf : ∀ b x, p x → DmaFrame (mem b) (mem (f b x))) (l : List α) (hl : ∀ x ∈ l, p x) (b : β) :
    DmaFrame (mem b) (mem (l.foldl f b)) := by
  induction l generalizing b with
  | nil => exact .refl _
  | cons x l ih =>
    have hx := hf b x (hl x (List.mem_cons_self ..))
    exact hx.trans (ih (fun y hy => hl y (List.mem_cons_of_mem _ hy)) (f b x))

/-! ### Ranges that DMA may write -/

/-- Every byte of a range may be written by DMA. -/
def DmaRange (a n : Nat) : Prop := ∀ x, a ≤ x → x < a + n → dmaWrites x = true

theorem DmaRange.part {a n b k : Nat} (h : DmaRange a n) (hb : a ≤ b) (hk : b + k ≤ a + n) : DmaRange b k :=
  fun x hx hlt => h x (by omega) (by omega)

theorem DmaRange.writeBytes {a : Nat} {bs : Bytes} (h : DmaRange a bs.length) (m : Memory) :
    DmaFrame m (Memory.writeBytes m a bs) := by
  intro x hx
  apply Memory.read_writeBytes_other
  by_contra hin
  exact Bool.false_ne_true (hx.symm.trans (h x (by omega) (by omega)))

/-- The regions of Table 13.2 are made of whole pages. -/
theorem dmaRange_of_page {phys o n : Nat} (h : dmaWrites (4096 * phys) = true) (hn : o + n ≤ 4096) :
    DmaRange (4096 * phys + o) n := by
  intro x hx hlt
  simp only [dmaWrites, undercoatRegion, Bool.or_eq_true, Bool.and_eq_true, decide_eq_true_eq] at h ⊢
  omega

theorem dmaRange_of_undercoat {a : Nat} (h : undercoatRegion a = true) (ha : a % 4 = 0) : DmaRange a 4 := by
  intro x hx hlt
  simp only [dmaWrites, undercoatRegion, Bool.or_eq_true, Bool.and_eq_true, decide_eq_true_eq] at h ⊢
  omega

theorem mem_lineChunks_within : ∀ (n : Nat) {a : Nat} {bs : Bytes} {c : Nat × Bytes}, c ∈ lineChunks n a bs →
    a ≤ c.1 ∧ c.1 + c.2.length ≤ a + bs.length
  | 0, _, _, _, h => by simp [lineChunks] at h
  | n + 1, a, bs, c, h => by
    unfold lineChunks at h
    split at h
    · simp at h
    · rcases List.mem_cons.1 h with rfl | h
      · simp
      · have hlen : (bs.drop (32 - a % 32)).length ≠ 0 := by
          intro h0
          rw [List.length_eq_zero_iff] at h0
          rw [h0] at h
          cases n <;> simp [lineChunks] at h
        have := mem_lineChunks_within n h
        rw [List.length_drop] at this hlen
        omega

theorem mem_wordParts_within {a n : Nat} {q : Nat × Nat} (h : q ∈ wordParts a n) : a ≤ q.1 ∧ q.1 + q.2 ≤ a + n := by
  simp only [wordParts, upTo, List.mem_map, List.mem_range] at h
  obtain ⟨i, hi, rfl⟩ := h
  dsimp only
  omega

/-! ### Writes -/

theorem dmaFrame_sramWrite {a : Nat} {bs : Bytes} (h : DmaRange a bs.length) (m : MemSys) :
    DmaFrame m.cells (m.sramWrite a bs).cells := by
  refine DmaFrame.foldl (mem := MemSys.cells) (p := fun c => DmaRange c.1 c.2.length) ?_ _ ?_ m
  · intro m c hc
    unfold MemSys.writeChunk
    split
    · exact hc.writeBytes _
    · split
      · exact .refl _
      · exact hc.writeBytes _
  · intro c hc
    obtain ⟨hlo, hhi⟩ := mem_lineChunks_within _ hc
    exact h.part hlo hhi

theorem dmaFrame_mramPart (x : MemSys × Bool × Bytes) {q : Nat × Nat} (h : DmaRange q.1 q.2) :
    DmaFrame x.1.cells (MemSys.mramPart x q).1.cells := by
  have htake : DmaRange q.1 (x.2.2.take q.2).length := h.part le_rfl (by simp)
  unfold MemSys.mramPart
  dsimp only
  split
  next h8 =>
    rw [h8] at htake
    exact htake.writeBytes _
  · split
    · exact .refl _
    · exact htake.writeBytes _

@[simp] theorem MemSys.poison_cells (m : MemSys) (a : Nat) : (m.poison a).cells = m.cells := by
  unfold MemSys.poison
  split <;> rfl

theorem foldl_poison_cells (l : List Nat) (m : MemSys) :
    (l.foldl (fun m l => m.poison (32 * l)) m).cells = m.cells := by
  induction l generalizing m with
  | nil => rfl
  | cons x l ih => rw [List.foldl_cons, ih, MemSys.poison_cells]

theorem dmaFrame_writePiece (failing : List Nat) (x : MemSys × Bool × Bytes) {q : Nat × Nat} (h : DmaRange q.1 q.2) :
    DmaFrame x.1.cells (MemSys.writePiece failing x q).1.cells := by
  unfold MemSys.writePiece
  dsimp only
  split
  · have hw := dmaFrame_sramWrite (bs := x.2.2.take q.2) (h.part le_rfl (by simp))
      (((linesOf q.1 q.2).filter failing.contains).foldl (fun m l => m.poison (32 * l)) x.1)
    rwa [foldl_poison_cells] at hw
  · refine DmaFrame.foldl (mem := fun x => x.1.cells) (fun y r hr => dmaFrame_mramPart y hr) _ ?_ _
    intro r hr
    obtain ⟨hlo, hhi⟩ := mem_wordParts_within hr
    exact h.part hlo hhi

/-! ### Translations (R373 to R375, R380) -/

theorem DescCause.rank_le (c : DescCause) : c.rank ≤ 9 := by cases c <;> decide

/-- A write that the IOMMU does not stop reaches a page that DMA may write. -/
theorem dmaWrites_of_judgePage {m : MemSys} {phys : Nat} {r w : Bool} (h : (m.judgePage phys r w true).rank = 9) :
    dmaWrites (4096 * phys) = true := by
  by_contra hw
  rw [Bool.not_eq_true] at hw
  unfold MemSys.judgePage at h
  simp only [hw, if_true, Bool.not_false] at h
  split at h
  · exact absurd h (by decide)
  · exact absurd h (by decide)

theorem dmaWrites_of_translate {m : MemSys} {page : Nat} (h : (m.translate page true).2.1.rank = 9) :
    dmaWrites (4096 * (m.translate page true).2.2) = true := by
  unfold MemSys.translate at h ⊢
  dsimp only at h ⊢
  split
  next he =>
    simp only [he] at h
    exact dmaWrites_of_judgePage h
  next he =>
    simp only [he] at h
    split at h
    · simp [DescCause.rank] at h
    · next hf =>
      rw [if_neg hf]
      split at h
      · simp [DescCause.rank] at h
      · exact dmaWrites_of_judgePage h

@[simp] theorem MemSys.useEntry_cells (m : MemSys) (e : TlbEntry) : (m.useEntry e).cells = m.cells := rfl

@[simp] theorem MemSys.translate_cells (m : MemSys) (page : Nat) (write : Bool) :
    (m.translate page write).1.cells = m.cells := by
  unfold MemSys.translate
  split
  · rfl
  · split
    · rfl
    · split
      · rfl
      · dsimp only
        split <;> rfl

@[simp] theorem MemSys.pieces_cells (m : MemSys) (iova n : Nat) (write : Bool) :
    (m.pieces iova n write).1.cells = m.cells := by
  unfold MemSys.pieces
  dsimp only
  split <;> simp

theorem DescCause.first_eq_none {a b : DescCause} (h : a.first b = .none_) : a.rank = 9 ∧ b.rank = 9 := by
  have ha := a.rank_le
  have hb := b.rank_le
  have hnone : DescCause.none_.rank = 9 := rfl
  unfold DescCause.first at h
  split at h
  next hlt =>
    rw [h] at hlt
    omega
  next hge =>
    rw [h] at hge ⊢
    exact ⟨hnone, by omega⟩

/-- The physical pieces of a beat that may be written lie in the regions that DMA may write. -/
theorem dmaRange_of_pieces {m : MemSys} {iova n : Nat} (hn : n ≤ 4096) (h : (m.pieces iova n true).2.1 = .none_) :
    ∀ q ∈ (m.pieces iova n true).2.2, DmaRange q.1 q.2 := by
  have ho : iova % 4096 < 4096 := Nat.mod_lt _ (by decide)
  unfold MemSys.pieces at h ⊢
  dsimp only at h ⊢
  split at h
  next hone =>
    rw [if_pos hone]
    have hw := dmaWrites_of_translate (m := m) (page := iova / 4096) (by rw [h]; rfl)
    simpa using dmaRange_of_page hw (by omega)
  next htwo =>
    rw [if_neg htwo]
    obtain ⟨hfirst, hsecond⟩ := DescCause.first_eq_none h
    have h1 := dmaRange_of_page (o := iova % 4096) (n := min n (4096 - iova % 4096)) (dmaWrites_of_translate hfirst)
      (by omega)
    have h2 := dmaRange_of_page (o := 0) (n := n - min n (4096 - iova % 4096)) (dmaWrites_of_translate hsecond) (by omega)
    simpa using ⟨h1, h2⟩

/-! ### Granules -/

theorem mem_beats_le {n : Nat} {b : Nat × Nat} (h : b ∈ beats n) : b.2 ≤ 4096 := by
  simp only [beats, upTo, List.mem_map, List.mem_range] at h
  obtain ⟨j, _, rfl⟩ := h
  dsimp only
  omega

theorem MemSys.readPiece_cells (failing : List Nat) (x : MemSys × Bool × Bytes) (q : Nat × Nat) :
    (MemSys.readPiece failing x q).1.cells = x.1.cells := foldl_poison_cells ..

theorem foldl_readPiece_cells (failing : List Nat) (l : List (Nat × Nat)) (x : MemSys × Bool × Bytes) :
    (l.foldl (MemSys.readPiece failing) x).1.cells = x.1.cells := by
  induction l generalizing x with
  | nil => rfl
  | cons q l ih => rw [List.foldl_cons, ih, MemSys.readPiece_cells]

@[simp] theorem readBeat_cells (failing : List Nat) (src : Nat) (x : GranuleStep) (b : Nat × Nat) :
    (readBeat failing src x b).mem.cells = x.mem.cells := by
  unfold readBeat
  dsimp only
  split
  · rfl
  · split
    · simp
    · split <;> simp [foldl_readPiece_cells]

theorem dmaFrame_writeBeat (failing : List Nat) (dst : Nat) (data : Bytes) (x : GranuleStep) {b : Nat × Nat}
    (hb : b.2 ≤ 4096) : DmaFrame x.mem.cells (writeBeat failing dst data x b).mem.cells := by
  unfold writeBeat
  dsimp only
  split
  · exact .refl _
  · split
    · rw [MemSys.pieces_cells]
      exact .refl _
    next hcause =>
      have hw := DmaFrame.foldl (mem := fun x => x.1.cells) (fun y q hq => dmaFrame_writePiece failing y hq) _
        (dmaRange_of_pieces hb (not_not.1 hcause))
        ((x.mem.pieces (dst + b.1) b.2 true).1, false, slice data b.1 b.2)
      rw [MemSys.pieces_cells] at hw
      split <;> exact hw

theorem dmaFrame_moveGranule (m : MemSys) (failing : List Nat) (d : Descriptor) (done : Nat) :
    DmaFrame m.cells (m.moveGranule failing d done).1.cells := by
  unfold MemSys.moveGranule
  extract_lets n r
  have hr : DmaFrame m.cells r.mem.cells := by
    dsimp only [r]
    split
    · exact .refl _
    · exact DmaFrame.foldl (mem := fun x : GranuleStep => x.mem.cells) (p := fun _ => True)
        (fun x b _ => by rw [readBeat_cells]; exact .refl _) _ (fun _ _ => trivial) _
  split
  · exact hr
  · exact hr.trans (DmaFrame.foldl (mem := fun x : GranuleStep => x.mem.cells) (p := fun b => b.2 ≤ 4096)
      (fun x b hb => dmaFrame_writeBeat failing (d.dst + done) r.data x hb) _ (fun b hb => mem_beats_le hb) r)

theorem dmaFrame_writeTables (m : MemSys) (tables : List (Nat × Word)) :
    DmaFrame m.cells (m.writeTables tables).cells := by
  refine DmaFrame.foldl (mem := MemSys.cells) (p := fun _ => True) ?_ _ (fun _ _ => trivial) m
  intro m t _
  split
  next ht =>
    simp only [Bool.and_eq_true, beq_iff_eq] at ht
    exact dmaFrame_sramWrite (by rw [length_leBytes]; exact dmaRange_of_undercoat ht.1 ht.2) m
  · exact .refl _

/-! ### Channels and descriptors, which are no memory -/

@[simp] theorem MemSys.putDesc_cells (m : MemSys) (p : PoolDesc) : (m.putDesc p).cells = m.cells := rfl
@[simp] theorem MemSys.setDesc_cells (m : MemSys) (i : Nat) (state : DescState) (cause : DescCause) (done : Nat) :
    (m.setDesc i state cause done).cells = m.cells := rfl
@[simp] theorem MemSys.modDma_cells (m : MemSys) (c : Nat) (f : DmaChannel → DmaChannel) :
    (m.modDma c f).cells = m.cells := rfl
@[simp] theorem MemSys.event_cells (m : MemSys) : m.event.cells = m.cells := rfl
@[simp] theorem MemSys.suspend_cells (m : MemSys) (c i : Nat) (cause : DescCause) (done iova : Nat) (dst : Bool) :
    (m.suspend c i cause done iova dst).cells = m.cells := rfl

@[simp] theorem MemSys.stopChain_cells (n : Nat) (m : MemSys) (i : Nat) : (m.stopChain n i).cells = m.cells := by
  induction n generalizing m i with
  | zero => rfl
  | succ n ih =>
    unfold MemSys.stopChain
    split
    · rfl
    · split
      · rw [ih, MemSys.setDesc_cells]
      · rfl

@[simp] theorem MemSys.abortChannel_cells (m : MemSys) (c : Nat) (cause : DescCause) :
    (m.abortChannel c cause).cells = m.cells := by
  unfold MemSys.abortChannel
  split
  · rfl
  · dsimp only
    split <;> simp

@[simp] theorem MemSys.grant_cells (m : MemSys) : m.grant.cells = m.cells := by
  unfold MemSys.grant
  split
  · rfl
  · split
    · rfl
    · dsimp only
      split
      · rfl
      · split <;> rfl

@[simp] theorem MemSys.grantAll_cells (m : MemSys) : m.grantAll.cells = m.cells := by simp [MemSys.grantAll]

@[simp] theorem MemSys.yieldMover_cells (m : MemSys) (c : Nat) : (m.yieldMover c).cells = m.cells := by
  simp [MemSys.yieldMover]

@[simp] theorem MemSys.placeChain_cells (m : MemSys) (i : Nat) (ds : List Descriptor) :
    (m.placeChain i ds).cells = m.cells := by
  induction ds generalizing m i with
  | nil => rfl
  | cons d ds ih =>
    unfold MemSys.placeChain
    split
    · rfl
    · split
      · split
        · rfl
        · rw [ih, MemSys.putDesc_cells]
      · rw [ih, MemSys.putDesc_cells]

@[simp] theorem State.tell_mem (s : State) (u : Unsolicited) : (s.tell u).mem = s.mem := by
  unfold State.tell
  split <;> rfl

@[simp] theorem State.logAt_mem (s : State) (time : Nat) (rtc : Bool) (cls code origin mp : Nat) (data : Bytes) :
    (s.logAt time rtc cls code origin mp data).mem = s.mem := by
  unfold State.logAt
  rw [State.tell_mem, State.modLegal_mem]

@[simp] theorem State.blocked_mem (s : State) (row : Nat) : (s.blocked row).mem = s.mem := by
  unfold State.blocked State.logEvent
  rw [State.logAt_mem, State.modLegal_mem]

@[simp] theorem State.startDesc_cells (s : State) (c i : Nat) : (s.startDesc c i).mem.cells = s.mem.cells := by
  unfold State.startDesc
  split
  · rfl
  · dsimp only
    split <;> simp

@[simp] theorem State.stopGranule_cells (s : State) (c i done : Nat) (cause : DescCause) (iova : Nat) (dst : Bool) :
    (s.stopGranule c i done cause iova dst).mem.cells = s.mem.cells := by
  unfold State.stopGranule
  split <;> simp

@[simp] theorem State.finishDesc_cells (s : State) (c : Nat) (p : PoolDesc) :
    (s.finishDesc c p).mem.cells = s.mem.cells := by
  unfold State.finishDesc
  dsimp only
  split <;> simp <;> split <;> rfl

theorem dmaFrame_runDma (failing : List Nat) (c : Nat) (hit : Bool) (n : Nat) (s : State) :
    DmaFrame s.mem.cells (s.runDma failing c hit n).mem.cells := by
  induction n generalizing s with
  | zero => exact .refl _
  | succ n ih =>
    unfold State.runDma
    dsimp only
    split
    · exact .refl _
    next p _ =>
      have hg := dmaFrame_moveGranule s.mem failing p.desc p.done
      split
      · exact .refl _
      · split
        · exact .refl _
        · split
          · rw [State.stopGranule_cells]
            exact hg
          · exact hg.trans (ih _)

/-! ### The commands -/

section commands
variable {s t : State} {dt : Ticks}

theorem dmaFrame_dmaSubmit {ch prio index root : Nat} {ds : List Descriptor} {tables : List (Nat × Word)}
    (h : exec (.dmaSubmit dt ch prio index ds root tables) s = .next t) :
    DmaFrame (s.elapse dt).mem.cells t.mem.cells := by
  obtain rfl := Host.Outcome.next.inj h
  split
  · exact .refl _
  · simpa using dmaFrame_writeTables (s.elapse dt).mem tables

theorem dmaFrame_iommuInvalidate {page : Option Nat} {tables : List (Nat × Word)}
    (h : exec (.iommuInvalidate dt page tables) s = .next t) : DmaFrame (s.elapse dt).mem.cells t.mem.cells := by
  obtain rfl := Host.Outcome.next.inj h
  split
  · exact .refl _
  · cases page <;> exact dmaFrame_writeTables (s.elapse dt).mem tables

theorem dmaFrame_dmaTransferEnd {ch : Nat} {failing : List Nat}
    (h : exec (.dmaTransferEnd dt ch failing) s = .next t) : DmaFrame (s.elapse dt).mem.cells t.mem.cells := by
  obtain rfl := Host.Outcome.next.inj h
  split
  · exact .refl _
  · have hrun := dmaFrame_runDma failing ch false ((s.elapse dt).granulesLeft ch) (s.elapse dt)
    dsimp only
    split
    · simpa using hrun
    · split <;> simpa using hrun

theorem dmaFrame_dmaPageWalk {ch : Nat} {failing : List Nat}
    (h : exec (.dmaPageWalk dt ch failing) s = .next t) : DmaFrame (s.elapse dt).mem.cells t.mem.cells := by
  obtain rfl := Host.Outcome.next.inj h
  split
  · exact .refl _
  · rw [State.modMem_mem, MemSys.grantAll_cells]
    exact (dmaFrame_runDma failing ch true _ _).trans (dmaFrame_runDma failing ch false 1 _)

theorem dmaFrame_dmaPreempt {ch n : Nat} (h : exec (.dmaPreempt dt ch n) s = .next t) :
    DmaFrame (s.elapse dt).mem.cells t.mem.cells := by
  obtain rfl := Host.Outcome.next.inj h
  have hrun := dmaFrame_runDma [] ch false n (s.elapse dt)
  split
  · exact .refl _
  · split
    · exact .refl _
    · extract_lets
      split
      · rw [State.modMem_mem, MemSys.yieldMover_cells]
        exact hrun
      · rw [State.modMem_mem, MemSys.grantAll_cells]
        exact hrun

theorem dmaFrame_dmaChannelDisable {ch n : Nat} (h : exec (.dmaChannelDisable dt ch n) s = .next t) :
    DmaFrame (s.elapse dt).mem.cells t.mem.cells := by
  obtain rfl := Host.Outcome.next.inj h
  have hrun := dmaFrame_runDma [] ch false n (s.elapse dt)
  split
  · exact .refl _
  · have hstop : DmaFrame (s.elapse dt).mem.cells (if ((s.elapse dt).mem.channel ch).running then
        (s.elapse dt).runDma [] ch false n else s.elapse dt).mem.cells := by
      split
      · exact hrun
      · exact .refl _
    dsimp only
    split
    · rw [State.modMem_mem, MemSys.grantAll_cells]
      exact hstop
    · rw [State.modMem_mem, MemSys.grantAll_cells, MemSys.abortChannel_cells]
      exact hstop

theorem dmaFrame_dmaResume {ch : Nat} (h : exec (.dmaResume dt ch) s = .next t) :
    DmaFrame (s.elapse dt).mem.cells t.mem.cells := by
  obtain rfl := Host.Outcome.next.inj h
  split
  · rw [State.modMem_mem, MemSys.grantAll_cells]
    exact .refl _
  · exact .refl _

theorem dmaFrame_dmaAbort {ch : Nat} (h : exec (.dmaAbort dt ch) s = .next t) :
    DmaFrame (s.elapse dt).mem.cells t.mem.cells := by
  obtain rfl := Host.Outcome.next.inj h
  split
  · exact .refl _
  · split
    · exact .refl _
    · rw [State.modMem_mem, MemSys.grantAll_cells, MemSys.abortChannel_cells]
      exact .refl _

end commands

theorem dmaWrites_eq_false {a : Nat} (hcoat : ¬(0x20000000 ≤ a ∧ a ≤ 0x2037FFFF))
    (hhawk : ¬(0x203C0000 ≤ a ∧ a ≤ 0x203FFFFF)) (hmram : ¬(0x30100000 ≤ a ∧ a ≤ 0x301FFFFF)) :
    dmaWrites a = false := by
  simp [dmaWrites, undercoatRegion]
  omega

/-- Settles O58: a page that a beat is written to was judged writable, from the TLB or from a walk alike, and nothing
else of the engine's work writes but the tables in the Undercoat region. -/
theorem dmaWritesOnlyItsRegions : Obligations.DmaWritesOnlyItsRegions := by
  unfold Obligations.DmaWritesOnlyItsRegions
  rintro s u t dt ch n failing rfl _ hexec a hcoat hhawk hmram
  suffices hframe : DmaFrame (s.elapse dt).mem.cells t.mem.cells from
    hframe a (dmaWrites_eq_false hcoat hhawk hmram)
  rcases hexec with ⟨_, _, _, _, _, h⟩ | ⟨_, _, h⟩ | h | h | h | h | h | h
  · exact dmaFrame_dmaSubmit h
  · exact dmaFrame_iommuInvalidate h
  · exact dmaFrame_dmaTransferEnd h
  · exact dmaFrame_dmaPageWalk h
  · exact dmaFrame_dmaPreempt h
  · exact dmaFrame_dmaChannelDisable h
  · exact dmaFrame_dmaResume h
  · exact dmaFrame_dmaAbort h

end Sys2Proof.Machine
end

section
/-! PROOFS. Time that passes (R75, R78, R84, R143), and what is written to memory and to the entries of the rings
(Table 11.7). -/

namespace Sys2Proof.Machine

/-! ### The clocks -/

theorem Ntu.slewOver_zero {u : Ntu} {n : Nat} (hd : ((n * u.inc : Nat) : Int) * u.rateAdj = 0)
    (hhi : u.slew < slewLimit) : u.slewOver n = 0 := by
  unfold Ntu.slewOver
  rw [hd]
  simp [not_le.2 hhi]

/-- R75: the PLL's increment is 2 and 0x9AAAAAAB / 2^32 ns. -/
theorem Ntu.advance_acc_pll {u : Ntu} {n : Nat} (hs : u.sysSource = .pll) (hr : u.rateAdj = 0) (hw : u.slew = 0) :
    (u.advance n).acc = (u.acc + n * (2 * 4294967296 + 0x9AAAAAAB)) % 2 ^ 96 := by
  have hd : u.slewOver n = 0 := Ntu.slewOver_zero (by rw [hr, mul_zero]) (by rw [hw]; decide)
  have hinc : u.inc = 2 * 4294967296 + 0x9AAAAAAB := by rw [Ntu.inc, hs]; rfl
  simp only [Ntu.advance, hd, hinc, add_zero]
  rw [← Int.natCast_add, Int.toNat_natCast]

theorem Ntu.advance_time_stopped {u : Ntu} {n : Nat} (hs : u.sysSource = .stopped)
    (hhi : u.slew < slewLimit) (hacc : u.acc < 2 ^ 96) : (u.advance n).time = u.time := by
  have hinc : u.inc = 0 := by rw [Ntu.inc, hs]
  have hd : u.slewOver n = 0 := Ntu.slewOver_zero (by rw [hinc]; simp) hhi
  have hsame : (u.advance n).acc = u.acc := by
    simp only [Ntu.advance, hd, hinc]
    simpa using Nat.mod_eq_of_lt hacc
  unfold Ntu.time
  rw [hsame]

theorem AlwaysOn.advance_rtc {a : AlwaysOn} {n : Nat} (hp : a.powered = true) (ht : a.trim = 0) (hacc : a.trimAcc = 0) :
    (a.advance n).rtcSec * 32768 + (a.advance n).rtcFrac = (a.rtcSec * 32768 + a.rtcFrac + n) % 2 ^ 47 := by
  have hticks : (((n : Int) * (1000000000 + 954 * 0) + 0) / 1000000000).toNat = n := by omega
  simp only [AlwaysOn.advance, hp, if_true, ht, hacc, hticks]
  omega

theorem AlwaysOn.advance_unpowered {a : AlwaysOn} (n : Nat) (hp : a.powered = false) : a.advance n = a := by
  simp [AlwaysOn.advance, hp]

theorem ModDomain.advance_cycle {m : ModDomain} (n : Nat) (h : m.source ≠ .stopped) : (m.advance n).cycle = m.cycle + n := by
  unfold ModDomain.advance
  split
  next hs => exact absurd hs h
  · rfl

theorem State.syncFalls_eq {s : State} {n : Nat} (hout : s.sync.outHigh = true) (hsrc : s.modDom.source ≠ .stopped)
    (hrate : s.modDom.halfRate = false) : s.syncFalls n = decide (s.modDom.epochBase + 2 ≤ s.modDom.cycle + n) := by
  simp [State.syncFalls, hout, hrate, ModDomain.advance_cycle n hsrc]

/-- Settles O6: each clock's own law of advance, and `State.elapse` changes what it writes and no more. -/
theorem passingTimeMovesOnlyTheClocks : Obligations.PassingTimeMovesOnlyTheClocks := by
  refine ⟨fun _ _ => rfl, ?falls, ?low, ?pll, ?stopped, ?rtc, fun s dt h => AlwaysOn.advance_unpowered dt.aon h⟩
  case falls =>
    intro s dt hout hsrc hrate
    have hfalls := State.syncFalls_eq (n := dt.mod) hout hsrc hrate
    constructor
    · intro h
      simp [hfalls, h]
    · intro h
      simp [hfalls, not_le.2 h, hout]
  case low =>
    intro s dt h
    simp [h, State.syncFalls]
  case pll => exact fun s dt hs hr hw => Ntu.advance_acc_pll hs hr hw
  case stopped => exact fun s dt hs _ hhi hacc => Ntu.advance_time_stopped hs hhi hacc
  case rtc => exact fun s dt hp ht hacc _ _ => AlwaysOn.advance_rtc hp ht hacc

/-! ### NET_SLEW (R78) -/

theorem Ntu.advance_slew (u : Ntu) (n : Nat) : (u.advance n).slew = u.slew + u.slewOver n := rfl

theorem slewLimit_pos : 0 < slewLimit := by decide

theorem Ntu.advance_slew_bounds {u : Ntu} (n : Nat) (hlo : -slewLimit ≤ u.slew) (hhi : u.slew ≤ slewLimit) :
    -slewLimit ≤ (u.advance n).slew ∧ (u.advance n).slew ≤ slewLimit := by
  have hpos := slewLimit_pos
  rw [Ntu.advance_slew]
  unfold Ntu.slewOver
  dsimp only
  split
  · split <;> omega
  · split <;> omega

theorem Ntu.advance_slew_limit {u : Ntu} (n : Nat) (h : u.slew = slewLimit) (hr : 0 ≤ u.rateAdj) :
    (u.advance n).slew = slewLimit := by
  have hd : 0 ≤ ((n * u.inc : Nat) : Int) * u.rateAdj / 1000000000 :=
    Int.ediv_nonneg (Int.mul_nonneg (Int.natCast_nonneg _) hr) (by decide)
  rw [Ntu.advance_slew, Ntu.slewOver, if_pos hd, if_pos (by omega), h]
  simp

theorem Ntu.slewOver_inside {u : Ntu} {n : Nat} {d : Int} (hd : d = ((n * u.inc : Nat) : Int) * u.rateAdj / 1000000000)
    (hlo : -slewLimit < u.slew + d) (hhi : u.slew + d < slewLimit) : u.slewOver n = d := by
  unfold Ntu.slewOver
  rw [← hd]
  dsimp only
  rw [if_neg (not_le.2 hhi), if_neg (not_le.2 hlo)]
  simp

/-- Settles O7: what RATE_ADJ adds is cut at the limit, and is whole inside it. -/
theorem netSlewStaysWithinSixtySeconds : Obligations.NetSlewStaysWithinSixtySeconds := by
  refine ⟨?bounds, ?limit, ?inside⟩
  case bounds => exact fun s dt hlo hhi => Ntu.advance_slew_bounds dt.sys hlo hhi
  case limit => exact fun s dt h hr => Ntu.advance_slew_limit dt.sys h hr
  case inside =>
    intro s dt d hd hlo hhi
    rw [State.elapse_ntu, Ntu.advance_slew, Ntu.slewOver_inside hd hlo hhi]

/-! ### Memory and the entries of a ring -/

theorem Memory.read_clear (m : Memory) (a n x : Nat) :
    (m.clear a n).read x = if a ≤ x ∧ x < a + n then emptyByte x else m.read x := by
  refine (Memory.read_filter m (fun y => decide (y < a) || decide (a + n ≤ y)) x).trans ?_
  by_cases h : a ≤ x ∧ x < a + n
  · rw [if_neg (by simp; omega), if_pos h]
  · rw [if_pos (by simp; omega), if_neg h]

/-- A number that a string begins with is its first field. -/
theorem field_leBytes_append {k n : Nat} (c : Bytes) (hn : n < 256 ^ k) : field (leBytes k n ++ c) 0 k = n := by
  have hs := slice_append_middle [] (leBytes k n) c
  rw [length_leBytes] at hs
  exact (congrArg leNat hs).trans (leNat_leBytes k n hn)

/-- A field behind a string's first part is a field of its second. -/
theorem field_append_right {a : Bytes} (b : Bytes) {o : Nat} (n : Nat) (h : a.length ≤ o) :
    field (a ++ b) o n = field b (o - a.length) n := by
  rw [field, slice, List.drop_append, List.drop_eq_nil_of_le h, List.nil_append]
  rfl

section entry
variable (op tag flags origin status len : Nat) (p : Bytes)

/-- The header of an entry, its 16 bytes in order. -/
theorem entryBytes_eq : entryBytes op tag flags origin status len 0 p =
    leBytes 2 op ++ (leBytes 2 tag ++ (leBytes 1 flags ++ (leBytes 1 origin ++ (leBytes 1 status ++ (leBytes 1 0 ++
      (leBytes 4 len ++ (leBytes 2 0 ++ (zeros 2 ++ padTo 48 p)))))))) := by
  simp [entryBytes, leBytes]
  rfl

theorem entryBytes_fields (hop : op < 65536) (htag : tag < 65536) (hflags : flags < 256) (horigin : origin < 256)
    (hstatus : status < 256) (hlen : len < 4294967296) :
    let e := Entry.ofBytes (entryBytes op tag flags origin status len 0 p)
    e.opcode = op ∧ e.tag = tag ∧ e.flags = flags ∧ e.origin = origin ∧ e.status = status ∧ e.length = len := by
  intro e
  dsimp only [e]
  rw [entryBytes_eq]
  simp [Entry.ofBytes, field_append_right, field_leBytes_append, length_leBytes, *]

theorem entryBytes_payload : (entryBytes op tag flags origin status p.length 0 p).drop 16 = padTo 48 p := by
  simp [entryBytes, leBytes, zeros]

theorem take_padTo {n : Nat} (hp : p.length ≤ n) : (padTo n p).take p.length = p := by
  simp [padTo, List.take_of_length_le hp]

end entry

/-- Settles O8: the memory by its laws of read and write, an entry by the numbers that its header is made of. -/
theorem memoryAndEntriesReadBack : Obligations.MemoryAndEntriesReadBack := by
  refine ⟨⟨?back, ?others, fun m a n x _ => Memory.read_clear m a n x⟩, ?entries⟩
  case back => exact fun m a bs hwf => ⟨Memory.readBytes_writeBytes bs a hwf, Memory.wf_writeBytes bs a hwf⟩
  case others => exact fun m a x bs hx => Memory.read_writeBytes_other bs hx
  case entries =>
    intro op tag flags origin status len p hop htag hflags horigin hstatus hlen hp
    obtain ⟨h1, h2, h3, h4, h5, h6⟩ := entryBytes_fields op tag flags origin status len p hop htag hflags horigin hstatus hlen
    refine ⟨length_entryBytes op tag flags origin status len p hp, h1, h2, h3, h4, h5, h6, ?_⟩
    rintro rfl
    rw [Entry.inlinePayload, h6]
    exact (congrArg (List.take _) (entryBytes_payload op tag flags origin status p)).trans (take_padTo p hp)

end Sys2Proof.Machine
end

section
/-! PROOFS. The rows of Tables 12.1 to 12.11: what each starts with (R293, R315, log 14). -/

namespace Sys2Proof.Machine

/-! ### Commands that are turned away -/

theorem onCommand_none {s : State} {c : Call} {op : Nat} {p : Bytes} (ok : Bool) (n : Nat) (g : InFlight → State → State)
    (h : s.taken c op p = none) : s.onCommand c op p ok n g = s := by
  unfold State.onCommand
  rw [h]

theorem onCommand_malformed {s : State} {c : Call} {op : Nat} {p : Bytes} {f : InFlight} {ok : Bool} (n : Nat)
    (g : InFlight → State → State) (h : s.taken c op p = some f) (hok : ok = false) :
    s.onCommand c op p ok n g = s.respond f stBadParam [] := by
  unfold State.onCommand
  rw [h, hok]
  rfl

theorem onCommand_noRoom {s : State} {c : Call} {op n : Nat} {p : Bytes} {f : InFlight} (ok : Bool)
    (g : InFlight → State → State) (h : s.taken c op p = some f) (hn : f.room < n) :
    s.onCommand c op p ok n g = s.respond f stBadParam [] := by
  unfold State.onCommand
  rw [h]
  simp [hn]

/-- The rows that write the staging copies of the display (R425). -/
def stagingOpcodes : List Nat := [0x0601, 0x0602, 0x0603]

/-- The rows whose command is looked up with the job that it names: CTX_UPDATE and CTX_FINAL (Table 12.9). -/
def streamOpcodes : List Nat := [0x0904, 0x0905]

/-- A row runs its command through `State.onCommand`, with its LENGTH among the checks and the room of its result. -/
structure HostRow.Runs (r : HostRow) (i : Instr) (s : State) (ok : Bool) (room : Nat) (g : InFlight → State → State) :
    Prop where
  runs : exec i s = .next ((s.elapse r.dt).onCommand r.call r.opcode r.payload ok room g)
  length : ∀ n, requestLength r.opcode = some n → r.payload.length ≠ n → ok = false
  size : ∀ n, resultSize r.opcode = some n → n ≤ room

theorem exists_runs {i : Instr} {s : State} {r : HostRow} (h : hostRow i = some r)
    (hopen : r.opcode ∈ stagingOpcodes → (s.elapse r.dt).stagingOpen = true) (hstream : r.opcode ∉ streamOpcodes) :
    ∃ ok room g, r.Runs i s ok room g := by
  cases i <;> cases h
  case commSegments =>
    refine ⟨_, _, _, ⟨congrArg _ (if_pos (hopen (by simp [stagingOpcodes]))), ?_, ?_⟩⟩
    all_goals simp +contextual [requestLength, resultSize, List.lookup]
  case commDigits =>
    refine ⟨_, _, _, ⟨congrArg _ (if_pos (hopen (by simp [stagingOpcodes]))), ?_, ?_⟩⟩
    all_goals simp +contextual [requestLength, resultSize, List.lookup]
  case statusIcons =>
    refine ⟨_, _, _, ⟨congrArg _ (if_pos (hopen (by simp [stagingOpcodes]))), ?_, ?_⟩⟩
    all_goals simp +contextual [requestLength, resultSize, List.lookup]
  case ctxUpdate => simp [streamOpcodes] at hstream
  case ctxFinal => simp [streamOpcodes] at hstream
  all_goals refine ⟨_, _, _, ⟨rfl, ?_, ?_⟩⟩
  all_goals simp +contextual [requestLength, resultSize, List.lookup]

/-- Outside the window in which a layer takes writes its staging writes only let their time pass (R425, log 32). -/
theorem exec_staging_shut {i : Instr} {s : State} {r : HostRow} (h : hostRow i = some r)
    (hop : r.opcode ∈ stagingOpcodes) (hshut : (s.elapse r.dt).stagingOpen = false) : exec i s = .next (s.elapse r.dt) := by
  have hclosed : ¬(s.elapse r.dt).stagingOpen = true := by simp [hshut]
  cases i <;> cases h
  case commSegments => exact congrArg _ (if_neg hclosed)
  case commDigits => exact congrArg _ (if_neg hclosed)
  case statusIcons => exact congrArg _ (if_neg hclosed)
  all_goals simp [stagingOpcodes] at hop

theorem exec_stream_untaken {i : Instr} {s : State} {r : HostRow} (h : hostRow i = some r) (hop : r.opcode ∈ streamOpcodes)
    (hnone : (s.elapse r.dt).taken r.call r.opcode r.payload = none) : exec i s = .next (s.elapse r.dt) := by
  cases i <;> cases h
  case ctxUpdate =>
    rw [exec_ctxUpdate]
    unfold execCtxUpdate
    dsimp only at hnone ⊢
    split
    · rw [onCommand_none _ _ _ hnone]
    · split
      · rw [onCommand_none _ _ _ hnone]
      · rfl
      · rw [onCommand_none _ _ _ hnone]
  case ctxFinal =>
    rw [exec_ctxFinal]
    unfold execCtxFinal
    dsimp only at hnone ⊢
    split
    · rw [onCommand_none _ _ _ hnone]
    · split
      · rfl
      · rw [onCommand_none _ _ _ hnone]
  all_goals simp [streamOpcodes] at hop

theorem exec_untaken {i : Instr} {s : State} {r : HostRow} (h : hostRow i = some r)
    (hnone : (s.elapse r.dt).taken r.call r.opcode r.payload = none) : exec i s = .next (s.elapse r.dt) := by
  by_cases hstream : r.opcode ∈ streamOpcodes
  · exact exec_stream_untaken h hstream hnone
  · by_cases hshut : r.opcode ∈ stagingOpcodes ∧ (s.elapse r.dt).stagingOpen = false
    · exact exec_staging_shut h hshut.1 hshut.2
    · obtain ⟨ok, room, g, hruns⟩ := exists_runs h (fun hop => by simpa [hop] using hshut) hstream
      rw [hruns.runs, onCommand_none ok room g hnone]

theorem length_free_of_stream {op n : Nat} (h : requestLength op = some n) : op ∉ streamOpcodes := by
  intro hop
  simp only [streamOpcodes, List.mem_cons, List.not_mem_nil, or_false] at hop
  rcases hop with rfl | rfl <;> simp [requestLength, List.lookup] at h

theorem size_free_of_stream {op n : Nat} (h : resultSize op = some n) : op ∉ streamOpcodes ∧ op ∉ stagingOpcodes := by
  constructor
  · intro hop
    simp only [streamOpcodes, List.mem_cons, List.not_mem_nil, or_false] at hop
    rcases hop with rfl | rfl <;> simp [resultSize, List.lookup] at h
  · intro hop
    simp only [stagingOpcodes, List.mem_cons, List.not_mem_nil, or_false] at hop
    rcases hop with rfl | rfl | rfl <;> simp [resultSize, List.lookup] at h

/-- Settles O9: every row goes through `State.onCommand`, but for the two that look up a job first. -/
theorem hostRowsFollowTheirCommand : Obligations.HostRowsFollowTheirCommand := by
  refine ⟨fun i s r h hnone => exec_untaken h hnone, ?malformed, ?noRoom⟩
  case malformed =>
    intro i s r f n h htaken hlen hopen hne
    obtain ⟨ok, room, g, hruns⟩ := exists_runs h hopen (length_free_of_stream hlen)
    rw [hruns.runs, onCommand_malformed room g htaken (hruns.length n hlen hne)]
  case noRoom =>
    intro i s r f n h htaken hsize hroom
    obtain ⟨hstream, hstaging⟩ := size_free_of_stream hsize
    obtain ⟨ok, room, g, hruns⟩ := exists_runs h (fun hop => absurd hop hstaging) hstream
    rw [hruns.runs, onCommand_noRoom ok g htaken (lt_of_lt_of_le hroom (hruns.size n hsize))]

end Sys2Proof.Machine
end

section
/-! PROOFS. What a response changes and what it leaves alone (R289, R295, R309), the gate's requests (R27, R37), the
legal logs (R215 to R217), and SYSTEM_RESET (R320). -/

namespace Sys2Proof.Machine

/-! ### The frame of a response -/

/-- `s` with what a response can reach as it stands in `t`: the mailbox and its memory, the fabric, what leaves the part. -/
def State.withLink (s t : State) : State :=
  { s with hawk := t.hawk, mem := t.mem, fabric := t.fabric, diagCounters := t.diagCounters, out := t.out }

/-- `t` differs from `s` in what a response can reach, and nowhere else. -/
def LinkFrame (s t : State) : Prop := t = s.withLink t

theorem LinkFrame.refl (s : State) : LinkFrame s s := rfl

theorem LinkFrame.trans {s t u : State} (h : LinkFrame s t) (h' : LinkFrame t u) : LinkFrame s u := by
  unfold LinkFrame at h h' ⊢
  rw [h', h]
  rfl

theorem linkFrame_modHawk (s : State) (f : Hawk → Hawk) : LinkFrame s (s.modHawk f) := rfl
theorem linkFrame_modFabric (s : State) (f : Fabric → Fabric) : LinkFrame s (s.modFabric f) := rfl
theorem linkFrame_pushEntry (s : State) (n : Nat) (e : Bytes) : LinkFrame s (s.pushEntry n e) := rfl

theorem linkFrame_enqueueOn (s : State) (port : Nat) (f : TxFrame) : LinkFrame s (s.enqueueOn port f) := by
  unfold State.enqueueOn
  dsimp only
  split <;> rfl

theorem linkFrame_sendRouted (s : State) (type dst : Nat) (p : Bytes) : LinkFrame s (s.sendRouted type dst p) := by
  unfold State.sendRouted
  split
  · rfl
  · split
    · rfl
    · exact linkFrame_enqueueOn ..

theorem linkFrame_sendTunnel (n : Nat) (s : State) (type dst id : Nat) (entry : Bytes) (off : Nat) (data : Bytes) :
    LinkFrame s (s.sendTunnel type dst id entry n off data) := by
  induction n generalizing s off data with
  | zero => exact linkFrame_sendRouted ..
  | succ n ih =>
    unfold State.sendTunnel
    split
    · exact linkFrame_sendRouted ..
    · exact (linkFrame_sendRouted ..).trans (ih ..)

theorem linkFrame_respondHost (s : State) (final : Bool) (entry : Bytes) : LinkFrame s (s.respondHost final entry) := by
  unfold State.respondHost
  dsimp only
  split
  · rfl
  · split
    · rfl
    · split <;> rfl

theorem linkFrame_sendResponse (s : State) (f : InFlight) (final : Bool) (st : Nat) (result : Bytes) :
    LinkFrame s (s.sendResponse f final st result) := by
  unfold State.sendResponse
  dsimp only
  split
  · rfl
  · split
    · refine LinkFrame.trans ?_ (linkFrame_respondHost ..)
      split <;> rfl
    · split
      · rfl
      · exact (linkFrame_sendTunnel ..).trans rfl
    · split <;> rfl

theorem linkFrame_finishReset (s : State) : LinkFrame s s.finishReset := by
  unfold State.finishReset
  split <;> rfl

theorem linkFrame_respond (s : State) (f : InFlight) (st : Nat) (result : Bytes) :
    LinkFrame s (s.respond f st result) :=
  (linkFrame_modHawk s _).trans ((linkFrame_sendResponse ..).trans (linkFrame_finishReset _))

section respond
variable (s : State) (f : InFlight) (st : Nat) (b : Bytes)
theorem State.respond_frame : s.respond f st b = s.withLink (s.respond f st b) := linkFrame_respond s f st b

@[simp] theorem State.respond_ntu : (s.respond f st b).ntu = s.ntu := by rw [State.respond_frame]; rfl
@[simp] theorem State.respond_modDom : (s.respond f st b).modDom = s.modDom := by rw [State.respond_frame]; rfl
@[simp] theorem State.respond_aon : (s.respond f st b).aon = s.aon := by rw [State.respond_frame]; rfl
@[simp] theorem State.respond_boot : (s.respond f st b).boot = s.boot := by rw [State.respond_frame]; rfl
@[simp] theorem State.respond_params : (s.respond f st b).params = s.params := by rw [State.respond_frame]; rfl
@[simp] theorem State.respond_channels : (s.respond f st b).channels = s.channels := by rw [State.respond_frame]; rfl
@[simp] theorem State.respond_counters : (s.respond f st b).counters = s.counters := by rw [State.respond_frame]; rfl
@[simp] theorem State.respond_sync : (s.respond f st b).sync = s.sync := by rw [State.respond_frame]; rfl
@[simp] theorem State.respond_points : (s.respond f st b).points = s.points := by rw [State.respond_frame]; rfl
@[simp] theorem State.respond_legal : (s.respond f st b).legal = s.legal := by rw [State.respond_frame]; rfl
@[simp] theorem State.respond_gate : (s.respond f st b).gate = s.gate := by rw [State.respond_frame]; rfl
@[simp] theorem State.respond_flash : (s.respond f st b).flash = s.flash := by rw [State.respond_frame]; rfl
@[simp] theorem State.respond_crypto : (s.respond f st b).crypto = s.crypto := by rw [State.respond_frame]; rfl
@[simp] theorem State.respond_display : (s.respond f st b).display = s.display := by rw [State.respond_frame]; rfl
@[simp] theorem State.respond_ports : (s.respond f st b).ports = s.ports := by rw [State.respond_frame]; rfl
@[simp] theorem State.respond_skim : (s.respond f st b).skim = s.skim := by rw [State.respond_frame]; rfl
@[simp] theorem State.respond_update : (s.respond f st b).update = s.update := by rw [State.respond_frame]; rfl
end respond

/-! ### A response on the RESPONSE ring (R289, R309) -/

theorem State.ring_modRing {s : State} {i : Nat} (h : i < s.hawk.rings.length) (f : Ring → Ring) :
    (s.modRing i f).ring i = f (s.ring i) := by
  simp [State.ring, h, List.getD_eq_getElem?_getD]

theorem Ring.addr_mod {r : Ring} (h : r.base % 64 = 0) (i : BitVec 16) : r.addr i % 32 = 0 := by
  unfold Ring.addr hawkBase
  omega

/-- An entry pushed at an aligned TAIL is the memory's change. -/
theorem pushEntry_cells {s : State} {n : Nat} {e : Bytes} (h : (s.ring n).base % 64 = 0) (he : e.length = 64) :
    (s.pushEntry n e).mem.cells = Memory.writeBytes s.mem.cells ((s.ring n).addr (s.ring n).tail) e :=
  sramWrite_entry s.mem _ e (Ring.addr_mod h _) he

/-- A final response that the closed RESPONSE ring does not take is held (R309). -/
theorem respond_host_held {s : State} {f : InFlight} {st : Nat} {result : Bytes} (ho : f.call.origin = .host)
    (hb : f.bulk = false) (hl : f.orphan = false) (hz : s.hawk.resetting = false)
    (hclosed : (s.ring 1).works = false ∨ (s.ring 1).full = true) :
    s.respond f st result = s.modHawk (fun h => { h with
      inFlight := h.inFlight.erase f
      heldResponses := h.heldResponses ++ [entryBytes f.opcode f.tag flagFinal 0 st result.length 0 result] }) := by
  have hshut : ((s.ring 1).works && !(s.ring 1).full) = false := by
    rcases hclosed with h | h <;> simp [h]
  have hhost (e : Bytes) : (s.modHawk (fun h => { h with inFlight := h.inFlight.erase f })).respondHost true e =
      s.modHawk (fun h => { h with inFlight := h.inFlight.erase f, heldResponses := h.heldResponses ++ [e] }) := by
    unfold State.respondHost
    dsimp only
    rw [if_neg (by simp [hz]), if_neg (by exact Bool.eq_false_iff.1 hshut), if_pos rfl]
    rfl
  unfold State.respond State.sendResponse
  simp only [hl, ho, hb, Bool.false_eq_true, if_false, hhost]
  unfold State.finishReset
  rw [if_pos (by simp [hz])]
  simp [InFlight.responseEntry, hb, ho, originCode]

/-- Settles O10: an open RESPONSE ring takes the entry whole, and a closed one holds it. -/
theorem finalResponsesReachTheHost : Obligations.FinalResponsesReachTheHost := by
  refine ⟨?open_, fun s f st result ho hb hl hz hclosed => respond_host_held ho hb hl hz hclosed⟩
  intro s f st result hwf hrings ho hb hl hlen hz hw hf hbase
  rw [respond_host s f st result ho hb hl hz hw hf]
  -- the command has left the processor; the rings and the memory are as before
  have hring : (s.modHawk (fun h => { h with inFlight := h.inFlight.erase f })).ring 1 = s.ring 1 := rfl
  have he := length_entryBytes f.opcode f.tag flagFinal 0 st result.length result hlen
  have hcells := pushEntry_cells (n := 1) (by rw [hring]; exact hbase) he
  have hone : ((s.modHawk (fun h => { h with inFlight := h.inFlight.erase f })).pushEntry 1
      (entryBytes f.opcode f.tag flagFinal 0 st result.length 0 result)).ring 1 =
        { s.ring 1 with tail := (s.ring 1).tail + 1, posted := (s.ring 1).posted ++ [s.mono] } :=
    State.ring_modRing (by simp [hrings]) _
  rw [hring] at hcells
  refine ⟨?_, by rw [hone], by rw [hone], rfl, ?_, pushEntry_frame ..⟩
  · rw [hcells, ← he]
    exact Memory.readBytes_writeBytes _ _ hwf
  · intro a ha
    rw [hcells]
    exact Memory.read_writeBytes_other _ (by rw [he]; exact ha)

/-! ### Requests of the gate (R27, R37) -/

theorem submit_long {s : State} {f : InFlight} {code : Nat} {p : Bytes} (h : gatePayloadMax < p.length) :
    s.submit f code p = s.respond f stBadParam [] := by
  rw [State.submit, if_pos h]

theorem submit_halted {s : State} {f : InFlight} {code : Nat} {p : Bytes} (hp : p.length ≤ gatePayloadMax)
    (h : s.boot.lcHalt = true) : s.submit f code p = s.respond f stFault [] := by
  rw [State.submit, if_neg (not_lt.2 hp), if_pos h]

theorem submit_busy {s : State} {f : InFlight} {code : Nat} {p : Bytes} (hp : p.length ≤ gatePayloadMax)
    (hh : s.boot.lcHalt = false) (h : 8 ≤ s.gate.requests.length) : s.submit f code p = s.respond f stBusy [] := by
  rw [State.submit, if_neg (not_lt.2 hp), if_neg (by simp [hh]), if_pos h]

/-- Settles O11: the tests of `State.submit` in their order; a refusal is a response, which leaves the gate. -/
theorem gateTakesEightRequests : Obligations.GateTakesEightRequests := by
  refine ⟨?open_, ?busy, ?halted, fun s f code p hp => submit_long hp, fun s f st b => s.respond_gate f st b, ?next⟩
  case open_ => exact fun s f code p hp hh hn => submit_open s f code p (by simp [State.gateOpen, hh, hn]) hp
  case busy => exact fun s f code p hp hh hn => submit_busy hp hh hn
  case halted => exact fun s f code p hp hh => submit_halted hp hh
  case next => exact fun n => ⟨(nextSeq_bounded n).1, fun h => if_pos h⟩

/-! ### The legal logs (R215 to R217) -/

theorem State.tell_frame (s : State) (u : Unsolicited) : s.tell u = { s with gate := (s.tell u).gate } := by
  unfold State.tell
  split <;> rfl

@[simp] theorem State.tell_legal (s : State) (u : Unsolicited) : (s.tell u).legal = s.legal := by
  rw [State.tell_frame]

theorem State.tell_unready {s : State} (u : Unsolicited) (h : s.ready = false) : s.tell u = s := by
  unfold State.tell
  rw [if_neg (by simp [h])]

section logs
variable (s : State) (time cls code origin mp : Nat) (rtc : Bool) (data : Bytes)

theorem State.logAt_legal : (s.logAt time rtc cls code origin mp data).legal =
    ({ s.legal with
      eventLog := (⟨s.legal.elseq, time, s.logFlags rtc, cls, code, origin, mp, padTo 24 data⟩ ::
        s.legal.eventLog).take 1024 } : Legal).putElseq (min (s.legal.elseq + 1) 0xFFFFFFFFFFFF) :=
  State.tell_legal ..

theorem State.logAt_frame : s.logAt time rtc cls code origin mp data = { s with
    legal := (s.logAt time rtc cls code origin mp data).legal
    gate := (s.logAt time rtc cls code origin mp data).gate } := by
  unfold State.logAt
  exact (State.tell_frame _ _).trans (by rw [State.tell_legal]; rfl)

theorem length_logEntry (e : LogEntry) : e.toBytes.length = 48 := by
  simp [LogEntry.toBytes, LogEntry.body, length_leBytes, padTo, zeros]
  omega

variable {cls code}

/-- The last 8 entries take SEAL/OPEN, SEAL/CLOSE and LOG/ARCHIVE. -/
theorem sealReserved_iff : sealReserved cls code = true ↔ cls = 3 ∨ (cls = 0x10 ∧ code = 1) := by
  simp [sealReserved]

/-- The seal log has a place for an entry. -/
def sealTakes (used cls code : Nat) : Bool := used < 248 || (used < 256 && sealReserved cls code)

variable {s}

theorem State.sealLogAt_taken (h : sealTakes s.legal.sealLog.length cls code = true) :
    s.sealLogAt time rtc cls code origin mp data = s.modLegal (fun l => { l with
      sealLog := ⟨s.legal.sealLog.length, time, s.logFlags rtc, cls, code, origin, mp, padTo 24 data⟩ ::
        l.sealLog }) := if_pos h

theorem State.sealLogAt_missed (h : sealTakes s.legal.sealLog.length cls code = false) :
    s.sealLogAt time rtc cls code origin mp data = s.modLegal (fun l => { l with missed := min 65535 (l.missed + 1) }) :=
  if_neg (by simpa [sealTakes] using h)

end logs

/-- Settles O12: the event log by the fields of `logAt`, the seal log by whether it has a place. -/
theorem logsKeepTheirBounds : Obligations.LogsKeepTheirBounds := by
  refine ⟨⟨?entry, fun s time cls code origin mp rtc data => s.logAt_frame time cls code origin mp rtc data, ?unready,
    length_logEntry⟩, ?taken, ?missed⟩
  case entry =>
    intro s time cls code origin mp rtc data
    rw [State.logAt_legal]
    exact ⟨rfl, Legal.elseq_putElseq ..⟩
  case unready =>
    intro s time cls code origin mp rtc data h
    have htell (g : Legal → Legal) (n : Unsolicited) : (s.modLegal g).tell n = s.modLegal g := State.tell_unready n h
    unfold State.logAt
    dsimp only
    rw [htell, State.modLegal_gate]
  case taken =>
    intro s time cls code origin mp rtc data h
    apply State.sealLogAt_taken
    simpa [sealTakes, sealReserved_iff] using h
  case missed =>
    intro s time cls code origin mp rtc data h
    apply State.sealLogAt_missed
    rw [sealTakes, Bool.or_eq_false_iff, Bool.and_eq_false_iff]
    rcases h with h | ⟨h, hc, ho⟩
    · exact ⟨by simp [h], .inl (by simp [h])⟩
    · refine ⟨by simpa using h, .inr ?_⟩
      rw [← Bool.not_eq_true, sealReserved_iff]
      tauto

/-! ### Commands that are served, and SYSTEM_RESET (R320) -/

/-- A command that is served has its own effect. -/
theorem Serves.run {s u : State} {dt : Ticks} {c : Call} {op n : Nat} {p : Bytes} {f : InFlight}
    (h : Serves s dt u c op p n f) {ok : Bool} (g : InFlight → State → State) (hok : ok = true) :
    (s.elapse dt).onCommand c op p ok n g = g f u := by
  rw [h.time]
  exact onCommand_taken u c op n p ok g f h.taken h.room hok

@[simp] theorem State.freezeIntegrals_legal (s : State) : s.freezeIntegrals.legal = s.legal := by
  rw [freezeIntegrals_frame]

@[simp] theorem State.coldReset_calcnt (s : State) (n : Nat) : (s.coldReset n).legal.calcnt = s.legal.calcnt := rfl

@[simp] theorem State.freezeIntegrals_params (s : State) : s.freezeIntegrals.params = s.params := by
  rw [freezeIntegrals_frame]

/-- Settles O16: the reset is the plain one after the held integrals, and keeps field by field. -/
theorem systemResetStartsAgain : Obligations.SystemResetStartsAgain := by
  intro s u dt c p env f hserves hlen hconfirm
  refine ⟨(u.respond f stDone []).resetChip 7 .none, ?_, rfl, ?_⟩
  · rw [exec_systemReset]
    exact congrArg _ (hserves.run _ (by simp [hlen, hconfirm]))
  · rw [State.resetChip, State.applyCut_none]
    simp

end Sys2Proof.Machine
end

section
/-! PROOFS. Commands of Tables 12.1 to 12.4: those that the gate takes, the reads of the system, SET_PARAM and the
provisional path (R297, R317, R323, R339 to R342). -/

namespace Sys2Proof.Machine

variable {s u : State} {dt : Ticks} {c : Call} {f : InFlight} {op n : Nat} {p : Bytes}

/-! ### Requests of the gate (R297, R318, R340) -/

/-- A command in flight that is neither bulk nor fenced. -/
def InFlight.plain (c : Call) (op : Nat) (p : Bytes) : InFlight :=
  { call := c, tag := c.tag, opcode := op, fence := false, bulk := false, bufOff := 0, bufCap := 0, payload := p
    gseq := none, accepted := false, peer := 0, orphan := false }

namespace LongTimeout

/-- A WEIGH_BEGIN of metering point 0. -/
def begin_ : InFlight := .plain ⟨.host, 1⟩ 0x0301 (zeros 16)

/-- The part with a WG_TXN_TIMEOUT of 5,000 bytes stored, which no slot of the gate takes, and `begin_` in flight. -/
def state : State :=
  { State.reset with params := [(0x2041, zeros 5000)], hawk := { Hawk.reset with inFlight := [begin_] } }

theorem serves : Serves state ⟨0, 0, 0⟩ (state.elapse ⟨0, 0, 0⟩) begin_.call 0x0301 (zeros 16) 4 begin_ :=
  ⟨rfl, rfl, by decide⟩

theorem exec_weighBegin_state : exec (.weighBegin ⟨0, 0, 0⟩ begin_.call (zeros 16)) state =
    .next ((state.elapse ⟨0, 0, 0⟩).respond begin_ stBadParam []) := by
  have hparam : (state.elapse ⟨0, 0, 0⟩).param (pointId 0 0x41) = zeros 5000 := rfl
  rw [exec_weighBegin]
  refine (congrArg _ (serves.run _ (by decide))).trans ?_
  rw [submit_long]
  rw [show field (zeros 16) 0 1 = 0 from rfl, if_pos (by decide), hparam]
  rw [overlay, List.length_append, List.length_append, length_zeros, gatePayloadMax]
  omega

end LongTimeout

/-- Refutes O13: the clause of WEIGH_BEGIN has no premise on the stored WG_TXN_TIMEOUT, and one of 5,000 bytes makes a
payload that no slot takes, so that BAD_PARAM answers and the gate stays empty. -/
theorem not_hostCommandsBecomeGateRequests : ¬ Obligations.HostCommandsBecomeGateRequests := by
  intro h
  obtain ⟨-, -, -, -, -, -, -, hbegin, -⟩ := h
  have hrequest := hbegin _ _ _ _ _ _ LongTimeout.serves rfl rfl rfl
  rw [LongTimeout.exec_weighBegin_state] at hrequest
  have hgate := congrArg (fun t => t.gate.requests.length) (Host.Outcome.next.inj hrequest)
  simp [State.withRequest] at hgate

/-! ### The reads of the system (Table 12.1) -/

/-- Settles O14: each read answers through `Serves.run`; only TCH_STATE clears what it shows. -/
theorem systemReadsAnswer : Obligations.SystemReadsAnswer := by
  refine ⟨?info, ?ping, ?paramInfo, ?param, ?touch, ?unknown⟩
  case info =>
    rintro s u dt c p f h rfl
    exact congrArg _ (h.run _ rfl)
  case ping => exact fun s u dt c p f h hp => congrArg _ (h.run _ (by simpa using hp))
  case paramInfo =>
    rintro s u dt c _ p f i h hp rfl hi
    refine (congrArg _ (h.run _ (by simp [hp]))).trans ?_
    simp only [hi]
    rfl
  case param =>
    rintro s u dt c _ p f i h hp rfl hid hi
    obtain rfl := h.time
    have hv : (s.elapse dt).valueOf (field p 0 2) = (s.elapse dt).param (field p 0 2) := if_neg hid
    rw [← hv] at h ⊢
    refine (congrArg _ (h.run _ (by simp [hp]))).trans ?_
    simp only [hi, State.clearRead, if_neg hid]
    rfl
  case touch =>
    intro s u dt c p f h hp hid
    obtain rfl := h.time
    have hv : (s.elapse dt).valueOf (field p 0 2) = (s.elapse dt).touchState := if_pos hid
    have hi : paramInfo (field p 0 2) = paramInfo 0x6008 := by rw [hid]
    rw [← hv] at h ⊢
    refine (congrArg _ (h.run _ (by simp [hp]))).trans ?_
    rw [hid]
    rfl
  case unknown =>
    intro s u dt c p f h hp hi hv
    obtain rfl := h.time
    have hroom : Serves s dt (s.elapse dt) c 0x0103 p (8 + ((s.elapse dt).valueOf (field p 0 2)).length) f := by
      rw [hv]
      exact h
    refine (congrArg _ (hroom.run _ (by simp [hp]))).trans ?_
    simp only [hi]
    rfl

/-! ### SET_PARAM (R339 to R342) -/

@[simp] theorem State.param_putParam (s : State) (id : Nat) (v : Bytes) : (s.putParam id v).param id = v := by
  simp [State.param, State.putParam, lookupParam_insertParam]

theorem State.param_putParam_ne (s : State) {id j : Nat} (v : Bytes) (h : j ≠ id) :
    (s.putParam id v).param j = s.param j := by
  simp [State.param, State.putParam, lookupParam_insertParam_ne _ _ _ _ h]

theorem State.param_putPending (s : State) (id : Nat) (v : Bytes) : (s.putPending id v).param id = v :=
  s.param_putParam id v

theorem State.paramNow_putPending (s : State) (id : Nat) (v : Bytes) :
    (s.putPending id v).paramNow id = s.paramNow id := by
  rw [State.paramNow, State.putPending]
  simp [lookupParam_insertParam]

/-- A SET_PARAM of Undercoat's own that passes its checks stores its value. -/
theorem exec_setParam_done {i : ParamInfo} (h : Serves s dt u c 0x0104 p 0 f) (hp : 4 ≤ p.length)
    (hi : paramInfo (field p 0 2) = some i) (hroute : i.route = 0) (hlegal : legalSide (field p 0 2) = false)
    (hst : u.setAppStatus (field p 0 2) i.size (field p 2 2) (p.drop 4) = stDone) :
    exec (.setParam dt c p) s = .next ((u.storeApp (field p 0 2) (p.drop 4)).respond f stDone []) := by
  refine (congrArg _ (h.run _ (by simpa using hp))).trans ?_
  simp only [hi]
  rw [if_neg (not_not.2 hroute), if_neg (by simp [hlegal]), if_pos hst]
  rfl

/-- Settles O15: the store is one of three, by whether the value is new and waits. -/
theorem setParamStoresTheValue : Obligations.SetParamStoresTheValue := by
  refine ⟨?equal, ?waits, ?now, ?unknown, ?readOnly, fun s id j v => ⟨s.param_putParam id v, s.param_putParam_ne v,
    s.param_putPending id v, s.paramNow_putPending id v⟩⟩
  case equal =>
    rintro s u dt c _ p f i h hp rfl hi hroute hlegal hst heq
    rw [exec_setParam_done h hp hi hroute hlegal hst, State.storeApp, if_pos heq]
  case waits =>
    rintro s u dt c _ p f i h hp rfl hi hroute hlegal hst hne hw
    rw [exec_setParam_done h hp hi hroute hlegal hst, State.storeApp, if_neg hne, if_pos hw]
  case now =>
    rintro s u dt c _ p f i h hp rfl hi hroute hlegal hst hne hw
    rw [exec_setParam_done h hp hi hroute hlegal hst, State.storeApp, if_neg hne, if_neg (by simp [hw])]
  case unknown =>
    intro s u dt c p f h hp hi
    refine (congrArg _ (h.run _ (by simpa using hp))).trans ?_
    simp only [hi]
    rfl
  case readOnly =>
    intro s u dt c p f i h hp hi hroute
    refine (congrArg _ (h.run _ (by simpa using hp))).trans ?_
    simp only [hi]
    rw [if_pos hroute]
    rfl

/-! ### The provisional path (Table 12.4) -/

theorem mem_insertSample {x y : Nat × Int} {l : List (Nat × Int)} : y ∈ insertSample x l ↔ y = x ∨ y ∈ l := by
  induction l with
  | nil => simp [insertSample]
  | cons z l ih =>
    unfold insertSample
    split
    · simp
    · simp [ih, or_left_comm]

theorem mem_foldl_insertSample {y : Nat × Int} {xs l : List (Nat × Int)} :
    y ∈ xs.foldl (fun l x => insertSample x l) l ↔ y ∈ l ∨ y ∈ xs := by
  induction xs generalizing l with
  | nil => simp
  | cons x xs ih =>
    rw [List.foldl_cons, ih, mem_insertSample, List.mem_cons]
    tauto

/-- The samples of PROV_SAMPLES with their instants. -/
def provSamples (p : Bytes) : List (Nat × Int) :=
  (upTo (field p 1 1)).map (fun i => (field p 4 8 + i * field p 12 4, sfield p (16 + 4 * i) 4))

/-- Those of them that are at most 500 ms old (R171). -/
def provFresh (p : Bytes) (now : Nat) : List (Nat × Int) := (provSamples p).filter (fun x => decide (now ≤ x.1 + 500 * milli))

theorem mem_provFresh {p : Bytes} {now : Nat} {x : Nat × Int} : x ∈ provFresh p now ↔ ∃ i < field p 1 1,
    now ≤ field p 4 8 + i * field p 12 4 + 500 * milli ∧ x = (field p 4 8 + i * field p 12 4, sfield p (16 + 4 * i) 4) := by
  simp only [provFresh, provSamples, upTo, List.mem_filter, List.mem_map, List.mem_range, decide_eq_true_eq]
  constructor
  · rintro ⟨⟨i, hi, rfl⟩, hx⟩
    exact ⟨i, hi, hx, rfl⟩
  · rintro ⟨i, hi, hx, rfl⟩
    exact ⟨⟨i, hi, rfl⟩, hx⟩

theorem length_provFresh (p : Bytes) (now : Nat) : (provFresh p now).length = ((upTo (field p 1 1)).filter (fun i =>
    decide (now ≤ field p 4 8 + i * field p 12 4 + 500 * milli))).length := by
  rw [provFresh, provSamples, List.filter_map, List.length_map]
  rfl

/-- What PROV_SAMPLES does to the provisional path of its metering point. -/
def takeProvSamples (p : Bytes) (now : Nat) (v : Prov) : Prov :=
  { v with
    accel := ((provFresh p now).foldl (fun l x => insertSample x l) v.accel).filter (fun x => decide (now ≤ x.1 + 2 * second))
    lateDropped := satAdd 0xFFFFFFFF v.lateDropped ((provSamples p).length - (provFresh p now).length) }

theorem mem_accel_takeProvSamples {p : Bytes} {now : Nat} {v : Prov} {x : Nat × Int} :
    x ∈ (takeProvSamples p now v).accel ↔ (x ∈ v.accel ∨ x ∈ provFresh p now) ∧ now ≤ x.1 + 2 * second := by
  simp [takeProvSamples, mem_foldl_insertSample]

theorem provSamplesOk {p : Bytes} (hm : field p 0 1 < 4) (hn : 1 ≤ field p 1 1) (hp : p.length = 16 + 4 * field p 1 1)
    (hr : rsv p 2 2 = true) (hlo : 100000 ≤ field p 12 4) (hhi : field p 12 4 ≤ 100000000) :
    (field p 0 1 < 4 && 1 ≤ field p 1 1 && p.length == 16 + 4 * field p 1 1 && rsv p 2 2 && 100000 ≤ field p 12 4 &&
      field p 12 4 ≤ 100000000) = true := by
  simp [hm, hn, hp, hr, hlo, hhi]

/-- Settles O18: fresh samples enter the list of the metering point, which forgets only what is 2 s old. -/
theorem provisionalCommandsAnswer : Obligations.ProvisionalCommandsAnswer := by
  refine ⟨?taken, ?denied, ?status⟩
  case taken =>
    rintro s u dt c _ _ p f h rfl rfl hm hn hp hr hlo hhi hkind hpath
    refine ⟨takeProvSamples p u.nodeTime, ?_, fun v => ⟨?_, ?_, ?_⟩⟩
    · refine (congrArg _ (h.run _ (provSamplesOk hm hn hp hr hlo hhi))).trans ?_
      rw [if_pos ⟨hkind, hpath⟩]
      rfl
    · have hlen : (provSamples p).length = field p 1 1 := by simp [provSamples, upTo]
      rw [← length_provFresh, ← hlen]
      rfl
    · intro i hi hfresh
      rw [mem_accel_takeProvSamples]
      refine ⟨.inr (mem_provFresh.2 ⟨i, hi, hfresh, rfl⟩), hfresh.trans ?_⟩
      dsimp only
      have hage : 500 * milli ≤ 2 * second := by decide
      omega
    · intro x hx
      exact (mem_accel_takeProvSamples.1 hx).1.imp_right mem_provFresh.1
  case denied =>
    rintro s u dt c _ _ p f h rfl rfl hm hn hp hr hlo hhi hoff
    refine (congrArg _ (h.run _ (provSamplesOk hm hn hp hr hlo hhi))).trans ?_
    rw [if_neg (by tauto)]
    rfl
  case status =>
    rintro s u dt c _ p f h hp rfl hm
    obtain rfl := h.time
    exact congrArg _ (h.run _ (by simp [hp, hm]))

end Sys2Proof.Machine
end

section
/-! PROOFS. The memory window of the host (R281, R291, R364, R365). -/

namespace Sys2Proof.Machine

variable {s u t : State} {dt : Ticks} {addr off : Nat} {w : Word} {failing : List Nat}

theorem State.spiRuns_of (h : u.boot.held = false) : u.spiRuns = true := by simp [State.spiRuns, h]

/-! ### Reads -/

theorem State.readWord_beyond (st : Nat) (ws : List Word) (h : 0x3FFFC < off) :
    State.readWord failing (u, st, ws) off = (u, firstCode st stBadParam, ws ++ [0]) := if_pos h

theorem State.readWord_failing (st : Nat) (ws : List Word) (h : off ≤ 0x3FFFC)
    (hf : u.mem.isPoisoned (hawkBase + off) = true ∨ off / 32 ∈ failing) : State.readWord failing (u, st, ws) off =
      (u.modMem (·.poison (hawkBase + off)), firstCode st stIntegrity, ws ++ [0]) :=
  (if_neg (not_lt.2 h)).trans (if_pos (by simpa using hf))

theorem State.readWord_good (st : Nat) (ws : List Word) (h : off ≤ 0x3FFFC) (hp : u.mem.isPoisoned (hawkBase + off) = false)
    (hf : off / 32 ∉ failing) : State.readWord failing (u, st, ws) off =
      (u, st, ws ++ [BitVec.ofNat 32 (leNat (Memory.readBytes u.mem.cells (hawkBase + off) 4))]) :=
  (if_neg (not_lt.2 h)).trans (if_neg (by simpa [hp] using hf))

theorem map_blank (addr n : Nat) : ((upTo (frameWords n)).map (addr + 4 * ·)).map (fun _ => (0 : Word)) =
    List.replicate (if n = 0 then 256 else n) 0 := by
  rw [List.map_map]
  simp [Function.comp_def, upTo, frameWords]

/-- What a MEM_READ frame does while reset is not held. -/
theorem exec_memRead_eq {n : Nat} (hu : s.elapse dt = u) (h : u.boot.held = false) :
    exec (.memRead dt addr n failing) s = .next (
      if u.ready = false then (u.modHawk (fun h => { h with
        miso := List.replicate (if n = 0 then 256 else n) 0 })).endFrame stNotReady
      else if addr % 4 ≠ 0 then (u.modHawk (fun h => { h with
        miso := List.replicate (if n = 0 then 256 else n) 0 })).endFrame stBadParam
      else
        (let r := ((upTo (if n = 0 then 256 else n)).map (addr + 4 * ·)).foldl (State.readWord failing) (u, stDone, [])
        (r.1.modHawk (fun h => { h with miso := r.2.2 })).endFrame r.2.1)) := by
  obtain rfl := hu
  rw [exec_memRead]
  unfold execMemRead
  dsimp only
  rw [State.spiRuns_of h, if_neg (by simp), map_blank]
  congr 1
  exact if_congr (by simp) rfl rfl

theorem exec_memRead_word (hu : s.elapse dt = u) (h : u.boot.held = false) (hr : u.ready = true) (ha : addr % 4 = 0) :
    exec (.memRead dt addr 1 failing) s = .next
      (let r := State.readWord failing (u, stDone, []) addr
      (r.1.modHawk (fun h => { h with miso := r.2.2 })).endFrame r.2.1) := by
  rw [exec_memRead_eq hu h, if_neg (by simp [hr]), if_neg (not_not.2 ha)]
  rfl

/-! ### Writes -/

/-- What a MEM_WRITE frame of one word does at an aligned address. -/
theorem exec_memWrite_word (hu : s.elapse dt = u) (h : u.boot.held = false) (hr : u.ready = true) (ha : addr % 4 = 0) :
    exec (.memWrite dt addr [w] failing) s = .next
      (let r := State.writeWord failing addr (addr + 4) (u, stDone) (addr, w)
      r.1.endFrame r.2) := by
  obtain rfl := hu
  rw [exec_memWrite]
  unfold execMemWrite
  dsimp only
  rw [State.spiRuns_of h, hr, if_neg (by simp), if_neg (by simp), if_neg (not_not.2 ha)]
  rfl

theorem State.writeWord_refused {first last st : Nat} (h : 0x3FFFC < off ∨ u.hostWritable off = false) :
    State.writeWord failing first last (u, st) (off, w) = (u, firstCode st stBadParam) :=
  if_pos (by simpa using h)

/-- A frame of one word does not cover the word's line. -/
theorem State.not_whole_of_word : ¬(decide (addr ≤ 32 * (addr / 32)) && decide (32 * (addr / 32) + 32 ≤ addr + 4)) = true := by
  simp
  omega

theorem State.writeWord_failing (h : addr ≤ 0x3FFFC) (hw : u.hostWritable addr = true)
    (hf : u.mem.isPoisoned (hawkBase + addr) = true ∨ addr / 32 ∈ failing) :
    State.writeWord failing addr (addr + 4) (u, stDone) (addr, w) =
      (u.modMem (·.poison (hawkBase + addr)), stIntegrity) :=
  (if_neg (by simpa [hw] using h)).trans ((if_neg State.not_whole_of_word).trans (if_pos (by simpa using hf)))

theorem State.writeWord_good (h : addr ≤ 0x3FFFC) (hw : u.hostWritable addr = true)
    (hp : u.mem.isPoisoned (hawkBase + addr) = false) (hf : addr / 32 ∉ failing) :
    State.writeWord failing addr (addr + 4) (u, stDone) (addr, w) = (u.modMem (fun m => { m with
      cells := Memory.writeBytes m.cells (hawkBase + addr) (leBytes 4 w.toNat) }), stDone) :=
  (if_neg (by simpa [hw] using h)).trans ((if_neg State.not_whole_of_word).trans (if_neg (by simpa [hp] using hf)))

/-! ### What a MEM_WRITE of any words can reach -/

/-- The physical address of a byte that the host may write. -/
def HostByte (s : State) (a : Nat) : Prop := ∃ off < 0x40000, a = hawkBase + off ∧ s.hostWritable off = true

/-- `t` differs from `s` in memory alone, and there only where the host may write. -/
def WindowFrame (s t : State) : Prop :=
  t = { s with mem := t.mem } ∧ ∀ a, ¬HostByte s a → Memory.read t.mem.cells a = Memory.read s.mem.cells a

theorem WindowFrame.refl (s : State) : WindowFrame s s := ⟨rfl, fun _ _ => rfl⟩

theorem WindowFrame.hawk (h : WindowFrame s t) : t.hawk = s.hawk := by rw [h.1]

theorem WindowFrame.hostWritable (h : WindowFrame s t) (off : Nat) : t.hostWritable off = s.hostWritable off := by
  rw [h.1]
  rfl

theorem WindowFrame.trans (h : WindowFrame s t) (h' : WindowFrame t u) : WindowFrame s u := by
  have hbyte (a : Nat) : HostByte t a ↔ HostByte s a := by simp only [HostByte, h.hostWritable]
  refine ⟨?_, fun a ha => (h'.2 a (mt (hbyte a).1 ha)).trans (h.2 a ha)⟩
  rw [h'.1, h.1]

/-- The host may write all of a 64-byte place or none of it: COMMAND begins at one, and so does the host region. -/
theorem State.hostWritable_of_same_place {off' : Nat} (hbase : (s.ring 0).base % 64 = 0) (h : off' / 64 = off / 64)
    (hw : s.hostWritable off = true) : s.hostWritable off' = true := by
  simp only [State.hostWritable, Bool.or_eq_true, Bool.and_eq_true, decide_eq_true_eq] at hw ⊢
  rw [h]
  refine hw.imp_left fun hring => ?_
  omega

theorem windowFrame_put (hbase : (s.ring 0).base % 64 = 0) (ha : off % 4 = 0) (hoff : off ≤ 0x3FFFC)
    (hw : s.hostWritable off = true) : WindowFrame s (s.modMem (fun m => { m with
      cells := Memory.writeBytes m.cells (hawkBase + off) (leBytes 4 w.toNat) })) := by
  refine ⟨rfl, fun a hnot => Memory.read_writeBytes_other _ ?_⟩
  rw [length_leBytes]
  by_contra hin
  refine hnot ⟨a - hawkBase, by omega, by omega, ?_⟩
  exact State.hostWritable_of_same_place hbase (by omega) hw

theorem windowFrame_writeWord {first last : Nat} (x : State × Nat) (q : Nat × Word) (hbase : (x.1.ring 0).base % 64 = 0)
    (ha : q.1 % 4 = 0) : WindowFrame x.1 (State.writeWord failing first last x q).1 := by
  unfold State.writeWord
  dsimp only
  split
  · exact .refl _
  next hok =>
    simp only [Bool.or_eq_true, decide_eq_true_eq, Bool.not_eq_true', not_or, not_lt, Bool.not_eq_false] at hok
    have hput := windowFrame_put (w := q.2) hbase ha hok.1 hok.2
    split
    · exact ⟨rfl, hput.2⟩
    · split
      · exact ⟨rfl, fun a _ => by rw [State.modMem_mem, MemSys.poison_cells]⟩
      · exact hput

theorem windowFrame_writeWords_fold {first last : Nat} (qs : List (Nat × Word)) (hqs : ∀ q ∈ qs, q.1 % 4 = 0)
    (x : State × Nat) (hbase : (x.1.ring 0).base % 64 = 0) :
    WindowFrame x.1 (qs.foldl (State.writeWord failing first last) x).1 := by
  induction qs generalizing x with
  | nil => exact .refl _
  | cons q qs ih =>
    have hword := windowFrame_writeWord (failing := failing) (first := first) (last := last) x q hbase
      (hqs q (List.mem_cons_self ..))
    have hring : (State.writeWord failing first last x q).1.ring 0 = x.1.ring 0 := by
      rw [State.ring, State.ring, hword.hawk]
    exact hword.trans (ih (fun r hr => hqs r (List.mem_cons_of_mem _ hr)) _ (by rw [hring]; exact hbase))

theorem windowFrame_writeWords {ws : List Word} (hbase : (s.ring 0).base % 64 = 0) (ha : addr % 4 = 0) :
    WindowFrame s (s.writeWords addr ws failing).1 := by
  refine windowFrame_writeWords_fold _ ?_ (s, stDone) hbase
  intro q hq
  obtain ⟨x, -, rfl⟩ := List.mem_map.1 hq
  dsimp only
  omega

/-- After a MEM_WRITE: the frame's words, and then its status in Hawk's registers. -/
theorem exec_memWrite_next {ws : List Word} (hbase : ((s.elapse dt).ring 0).base % 64 = 0)
    (h : exec (.memWrite dt addr ws failing) s = .next t) : ∃ v, WindowFrame (s.elapse dt) v ∧
      t.mem = v.mem ∧ t.hawk.rings = v.hawk.rings ∧ t.legal = v.legal := by
  obtain rfl := Host.Outcome.next.inj h
  split
  · exact ⟨_, .refl _, rfl, rfl, rfl⟩
  · split
    · exact ⟨_, .refl _, rfl, rfl, rfl⟩
    · split
      · exact ⟨_, .refl _, rfl, rfl, rfl⟩
      next ha => exact ⟨_, windowFrame_writeWords hbase (not_not.1 ha), rfl, rfl, rfl⟩

/-- Settles O51: one word by the case of `readWord` or `writeWord` that it meets, and any words by what each may reach. -/
theorem hostMemoryWindowIsGuarded : Obligations.HostMemoryWindowIsGuarded := by
  refine ⟨?read, ?readBeyond, ?readFailing, fun s u dt addr n failing hu h => exec_memRead_eq hu h, ?write, ?refused,
    ?early, ?reach⟩
  case read =>
    intro s u dt addr hu h hr ha hin hp
    rw [exec_memRead_word hu h hr ha, State.readWord_good _ _ hin hp (by simp)]
    rfl
  case readBeyond =>
    intro s u dt addr hu h hr ha hout
    rw [exec_memRead_word hu h hr ha, State.readWord_beyond _ _ hout]
    rfl
  case readFailing =>
    intro s u dt addr failing hu h hr ha hin hf
    rw [exec_memRead_word hu h hr ha, State.readWord_failing _ _ hin hf]
    rfl
  case write =>
    intro s u dt addr w hu h hr ha hin hw hp
    rw [exec_memWrite_word hu h hr ha, State.writeWord_good hin hw hp (by simp)]
  case refused =>
    intro s u dt addr w failing hu h hr ha
    refine ⟨fun hout => ?_, fun hin hw hf => ?_⟩
    · rw [exec_memWrite_word hu h hr ha, State.writeWord_refused hout]
      rfl
    · rw [exec_memWrite_word hu h hr ha, State.writeWord_failing hin hw hf]
  case early =>
    rintro s u dt addr ws failing rfl h
    have hruns := State.spiRuns_of h
    refine ⟨fun hr => congrArg Host.Outcome.next ?_, fun hr ha => congrArg Host.Outcome.next ?_⟩
    · rw [if_neg (by simp [hruns]), if_pos (by simp [hr])]
    · rw [if_neg (by simp [hruns]), if_neg (by simp [hr]), if_pos ha]
  case reach =>
    rintro s u t dt addr ws failing rfl _ hbase hexec
    obtain ⟨v, hv, hmem, hrings, hlegal⟩ := exec_memWrite_next hbase hexec
    rw [hmem, hrings, hlegal, hv.hawk]
    refine ⟨fun a ha => hv.2 a ?_, fun off hoff => hv.2 _ ?_, rfl, by rw [hv.1]⟩
    · rintro ⟨off, hlt, rfl, -⟩
      omega
    · rintro ⟨off', hlt, heq, hw⟩
      obtain rfl : off = off' := by omega
      exact Bool.false_ne_true (hoff.symm.trans hw)

end Sys2Proof.Machine
end

section
/-! PROOFS. Time, LSAs, routes, addresses and the election on the fabric (R388, R397 to R402, R406, R417). -/

namespace Sys2Proof.Machine

variable {s u v : State} {dt : Ticks} {i : Nat} {b t : Bytes}

/-- A fold keeps what each of its steps keeps. -/
theorem foldl_keeps {σ α β : Type} {π : σ → β} {f : σ → α → σ} (hf : ∀ s x, π (f s x) = π s) (l : List α) (s : σ) :
    π (l.foldl f s) = π s := by
  induction l generalizing s with
  | nil => rfl
  | cons x l ih => rw [List.foldl_cons, ih, hf]

/-! ### Operations that leave the database (R397) and LSA_SEQ -/

/-- What LSAs have brought, and the number of the last one sent. -/
def Fabric.lsas (f : Fabric) : List Lsa × Rotated Nat := (f.database, f.lsaSeqWords)

section lsas

theorem State.enqueueOn_lsas (s : State) (port : Nat) (f : TxFrame) : (s.enqueueOn port f).fabric.lsas = s.fabric.lsas := by
  unfold State.enqueueOn
  dsimp only
  split <;> rfl

theorem State.sendLocal_lsas (s : State) (i type : Nat) (p : Bytes) : (s.sendLocal i type p).fabric.lsas = s.fabric.lsas :=
  State.enqueueOn_lsas ..

theorem State.sendRouted_lsas (s : State) (type dst : Nat) (p : Bytes) :
    (s.sendRouted type dst p).fabric.lsas = s.fabric.lsas := by
  unfold State.sendRouted
  split
  · rfl
  · split
    · rfl
    · exact State.enqueueOn_lsas ..

theorem State.sendTunnel_lsas (n : Nat) (s : State) (type dst id : Nat) (entry : Bytes) (off : Nat) (data : Bytes) :
    (s.sendTunnel type dst id entry n off data).fabric.lsas = s.fabric.lsas := by
  induction n generalizing s off data with
  | zero => exact State.sendRouted_lsas ..
  | succ n ih =>
    unfold State.sendTunnel
    split
    · exact State.sendRouted_lsas ..
    · rw [ih, State.sendRouted_lsas]

theorem State.respondHost_fabric (s : State) (final : Bool) (entry : Bytes) :
    (s.respondHost final entry).fabric = s.fabric := by
  unfold State.respondHost
  dsimp only
  split
  · rfl
  · split
    · rfl
    · split <;> rfl

theorem State.sendResponse_lsas (s : State) (f : InFlight) (final : Bool) (st : Nat) (result : Bytes) :
    (s.sendResponse f final st result).fabric.lsas = s.fabric.lsas := by
  unfold State.sendResponse
  dsimp only
  split
  · rfl
  · split
    · rw [State.respondHost_fabric]
      split <;> rfl
    · split
      · rfl
      next served _ =>
        rw [← State.sendTunnel_lsas 8 s 6 served.2.1 served.1 (f.responseEntry final st result) 0
          (if f.bulk then result else [])]
        dsimp only [State.modFabric, Fabric.lsas]
        split <;> rfl
    · split <;> rfl

theorem State.finishReset_fabric (s : State) : s.finishReset.fabric = s.fabric := by
  unfold State.finishReset
  split <;> rfl

theorem State.respond_lsas (s : State) (f : InFlight) (st : Nat) (result : Bytes) :
    (s.respond f st result).fabric.lsas = s.fabric.lsas := by
  rw [State.respond, State.finishReset_fabric, State.sendResponse_lsas]
  rfl

theorem State.completeJob_lsas (s : State) (x : Context) (st : Nat) (result : Bytes) :
    (s.completeJob x st result).fabric.lsas = s.fabric.lsas := by
  unfold State.completeJob
  dsimp only
  split
  · rfl
  · rw [State.respond_lsas]
    rfl

theorem State.dropJob_fabric (s : State) (n : Nat) : (s.dropJob n).fabric = s.fabric := by
  unfold State.dropJob
  split <;> rfl

theorem State.abortJobs_lsas (s : State) (o : Origin) : (s.abortJobs o).fabric.lsas = s.fabric.lsas :=
  foldl_keeps (π := fun s : State => s.fabric.lsas)
    (fun s x => by rw [State.completeJob_lsas, State.dropJob_fabric]) _ s

theorem State.endTunnel_lsas (s : State) (x : Tunnel) (st : Nat) (result : Bytes) :
    (s.endTunnel x st result).fabric.lsas = s.fabric.lsas := by
  unfold State.endTunnel
  dsimp only
  split
  · rfl
  · split
    · rfl
    · rw [State.respond_lsas]
      rfl

theorem State.abortTunnels_lsas (s : State) : s.abortTunnels.fabric.lsas = s.fabric.lsas :=
  foldl_keeps (π := fun s : State => s.fabric.lsas) (fun s x => s.endTunnel_lsas x _ _) _ s

theorem State.abortServed_lsas (s : State) : s.abortServed.fabric.lsas = s.fabric.lsas := by
  unfold State.abortServed
  dsimp only
  rw [State.abortTunnels_lsas,
    foldl_keeps (π := fun s : State => s.fabric.lsas) (fun s w => by rw [State.abortWaiting, State.sendResponse_lsas]; rfl),
    foldl_keeps (π := fun s : State => s.fabric.lsas) (fun s f => s.respond_lsas f _ _), State.abortJobs_lsas]

theorem State.postEvent_fabric (s : State) (code : Nat) (p : Bytes) : (s.postEvent code p).fabric = s.fabric := by
  rw [postEvent_frame]

theorem State.announce_fabric (s : State) (code : Nat) (p : Bytes) : (s.announce code p).fabric = s.fabric := by
  unfold State.announce
  split
  · exact s.postEvent_fabric code p
  · rfl

theorem State.followUpstream_lsas (s : State) : s.followUpstream.fabric.lsas = s.fabric.lsas := by
  unfold State.followUpstream
  extract_lets up
  split <;> rfl

theorem State.applyRole_lsas (s : State) (r : Nat × Nat × Nat) : (s.applyRole r).fabric.lsas = s.fabric.lsas := by
  unfold State.applyRole
  dsimp only
  rw [State.followUpstream_lsas]
  split
  · rfl
  · rw [State.announce_fabric]
    split
    · exact State.abortTunnels_lsas _
    · rfl

theorem State.noteElection_lsas (s : State) : s.noteElection.fabric.lsas = s.fabric.lsas := by
  unfold State.noteElection
  dsimp only
  split
  · split
    · rfl
    · exact s.applyRole_lsas _
  · have hrole : (if s.fabric.role = roleStandalone then s.applyRole (0, 0, roleWorker) else s).fabric.lsas =
        s.fabric.lsas := by
      split
      · exact s.applyRole_lsas _
      · rfl
    split
    · exact hrole
    · exact hrole

theorem State.topologyChanged_lsas (s : State) : s.topologyChanged.fabric.lsas = s.fabric.lsas := by
  unfold State.topologyChanged
  rw [State.followUpstream_lsas, State.noteElection_lsas]
  rfl

end lsas

/-! ### The database (R397, R399) -/

theorem find_putLsa (e : Lsa) (l : List Lsa) : (putLsa e l).find? (fun x => x.nodeId == e.nodeId) = some e := by
  induction l with
  | nil => simp [putLsa]
  | cons x l ih =>
    unfold putLsa
    split
    next hlt => simp [Nat.ne_of_lt hlt, ih]
    · split <;> simp

theorem find_putLsa_ne {e : Lsa} {id : Nat} (h : id ≠ e.nodeId) (l : List Lsa) :
    (putLsa e l).find? (fun x => x.nodeId == id) = l.find? (fun x => x.nodeId == id) := by
  induction l with
  | nil => simp [putLsa, Ne.symm h]
  | cons x l ih =>
    unfold putLsa
    split
    · rw [List.find?_cons, List.find?_cons, ih]
    · split
      next heq => simp [heq, Ne.symm h]
      · simp [Ne.symm h]

theorem State.originate_lsas (s : State) : s.originate.fabric.database =
      putLsa (s.ownLsa ((s.fabric.lsaSeq + 1) % 2 ^ 64)) s.fabric.database ∧
    s.originate.fabric.lsaSeq = (s.fabric.lsaSeq + 1) % 2 ^ 64 := by
  have hsent (l : List Nat) (p : Bytes) (s : State) : (l.foldl (fun s i => s.sendLocal i typeLsa p) s).fabric.lsas =
      s.fabric.lsas := foldl_keeps (π := fun s : State => s.fabric.lsas) (fun s i => s.sendLocal_lsas i _ p) l s
  unfold State.originate
  dsimp only
  constructor
  · exact congrArg Prod.fst (hsent _ _ _)
  · refine (congrArg (fun x => x.2.read 0) (hsent _ _ _)).trans ?_
    exact Rotated.read_write ..

theorem State.lsaOf_congr (h : v.fabric.lsas = s.fabric.lsas) (id : Nat) : v.lsaOf id = s.lsaOf id := by
  rw [State.lsaOf, State.lsaOf, show v.fabric.database = s.fabric.database from congrArg Prod.fst h]

theorem State.lsaOf_originate (s : State) {id : Nat} (h : id ≠ nodeId) : s.originate.lsaOf id = s.lsaOf id := by
  rw [State.lsaOf, s.originate_lsas.1]
  exact find_putLsa_ne h _

theorem State.lsaOf_giveUpAddress (s : State) {id : Nat} (h : id ≠ nodeId) : s.giveUpAddress.lsaOf id = s.lsaOf id := by
  unfold State.giveUpAddress
  extract_lets s1 s2 s3
  have h1 : s1.fabric.lsas = s.fabric.lsas := by
    dsimp only [s1]
    split
    · exact s.abortServed_lsas
    · rfl
  have h2 : s2.fabric.lsas = s.fabric.lsas := by
    dsimp only [s2]
    split <;> exact h1
  have h3 : s3.fabric.lsas = s.fabric.lsas := (State.topologyChanged_lsas _).trans h2
  split
  · rw [State.lsaOf_originate _ h, State.lsaOf_congr h3]
  · exact State.lsaOf_congr h3 id

/-- A newer LSA enters the database where there is room. -/
theorem State.lsaOf_takeLsa {id : Nat} (hid : field t 0 8 = id) (hne : id ≠ nodeId)
    (hnew : ∀ x, s.lsaOf id = some x → x.seqNo < field t 8 8) (hroom : s.fabric.database.length < 16381) :
    (s.takeLsa i t).lsaOf id = some (Lsa.ofBytes s.mono t) := by
  subst hid
  have hnode : (Lsa.ofBytes s.mono t).nodeId = field t 0 8 := rfl
  have hseq : (Lsa.ofBytes s.mono t).seqNo = field t 8 8 := rfl
  unfold State.takeLsa
  dsimp only
  rw [if_neg, if_neg]
  · -- the frames that go on, the routes and the address come after the entry
    have hput (r : State) (hr : r.fabric.database = putLsa (Lsa.ofBytes s.mono t) s.fabric.database) :
        r.lsaOf (field t 0 8) = some (Lsa.ofBytes s.mono t) := by
      rw [State.lsaOf, hr]
      exact find_putLsa (Lsa.ofBytes s.mono t) _
    have hsent (l : List Nat) (r : State) : (l.foldl (fun s j => s.sendLocal j typeLsa t) r).fabric.lsas = r.fabric.lsas :=
      foldl_keeps (π := fun s : State => s.fabric.lsas) (fun s j => s.sendLocal_lsas j _ t) l r
    have hdb (l : List Nat) (r : State) (hr : r.fabric.database = putLsa (Lsa.ofBytes s.mono t) s.fabric.database) :
        ((l.foldl (fun s j => s.sendLocal j typeLsa t) r).topologyChanged).lsaOf (field t 0 8) =
          some (Lsa.ofBytes s.mono t) :=
      (State.lsaOf_congr ((State.topologyChanged_lsas _).trans (hsent l r)) _).trans (hput r hr)
    split
    · rw [State.lsaOf_giveUpAddress _ hne]
      exact hdb _ _ rfl
    · exact hdb _ _ rfl
  · simp only [Bool.and_eq_true, decide_eq_true_eq, not_and, not_le]
    exact fun _ => hroom
  · rw [hnode, hseq]
    cases hold : s.lsaOf (field t 0 8) with
    | none => simp
    | some x => simp [hnew x hold]

/-! ### The best candidate (R406) -/

/-- `a` ranks before `b`: a higher PRIORITY, and with equal ones a lower address, or the same. -/
def RanksBefore (a b : Nat × Nat) : Prop := b.1 < a.1 ∨ (b.1 = a.1 ∧ a.2 ≤ b.2)

theorem RanksBefore.trans {a b c : Nat × Nat} (h : RanksBefore a b) (h' : RanksBefore b c) : RanksBefore a c := by
  unfold RanksBefore at *
  omega

/-- The fold of `bestNode`. -/
def betterNode (a b : Nat × Nat) : Nat × Nat := if b.1 > a.1 ∨ (b.1 = a.1 ∧ b.2 < a.2) then b else a

theorem betterNode_ranksBefore (a b : Nat × Nat) : RanksBefore (betterNode a b) a ∧ RanksBefore (betterNode a b) b := by
  unfold betterNode RanksBefore
  split <;> omega

theorem foldl_betterNode (l : List (Nat × Nat)) (a : Nat × Nat) : l.foldl betterNode a ∈ a :: l ∧
    ∀ x ∈ a :: l, RanksBefore (l.foldl betterNode a) x := by
  induction l generalizing a with
  | nil => exact ⟨List.mem_cons_self .., by simp [RanksBefore]⟩
  | cons b l ih =>
    obtain ⟨hmem, hbest⟩ := ih (betterNode a b)
    obtain ⟨ha, hb⟩ := betterNode_ranksBefore a b
    have hhead := hbest _ (List.mem_cons_self ..)
    constructor
    · rcases List.mem_cons.1 hmem with h | h
      · rw [List.foldl_cons, h]
        unfold betterNode
        split <;> simp
      · exact List.mem_cons_of_mem _ (List.mem_cons_of_mem _ h)
    · intro x hx
      rcases List.mem_cons.1 hx with rfl | hx
      · exact hhead.trans ha
      · rcases List.mem_cons.1 hx with rfl | hx
        · exact hhead.trans hb
        · exact hbest x (List.mem_cons_of_mem _ hx)

theorem exists_bestNode {l : List (Nat × Nat)} (h : l ≠ []) : ∃ p, (p, bestNode l) ∈ l ∧
    ∀ x ∈ l, x.1 < p ∨ (x.1 = p ∧ bestNode l ≤ x.2) := by
  cases l with
  | nil => exact absurd rfl h
  | cons a l =>
    obtain ⟨hmem, hbest⟩ := foldl_betterNode l a
    exact ⟨(l.foldl betterNode a).1, hmem, hbest⟩

/-! ### Time (R401, R402) -/

theorem State.takeFrame_mono (s : State) (i : Nat) (b : Bytes) : (s.takeFrame i b).mono = s.mono := rfl

theorem secondOffset_one (o d : Int) (t : Nat) (fine : Bool) : secondOffset [(o, d, t, fine)] = some (o, t, fine) := by
  simp [secondOffset, medianInt, insertInt]

/-- Of three exchanges the one whose delay lies more than 50 ns off the median is left out. -/
theorem secondOffset_three {a b c : Int × Int × Nat × Bool} (hab : a.2.1 ≤ b.2.1) (hbc : b.2.1 ≤ c.2.1)
    (hnear : b.2.1 - a.2.1 ≤ 50) (hfar : 50 < c.2.1 - b.2.1) (ho : a.1 ≤ b.1) :
    secondOffset [a, b, c] = some ((a.1 + b.1) / 2, max a.2.2.1 b.2.2.1, a.2.2.2 && b.2.2.2) := by
  have hmid : medianInt [a.2.1, b.2.1, c.2.1] = b.2.1 := by simp [medianInt, insertInt, hab, hbc]
  have ha : (a.2.1 - b.2.1).natAbs ≤ 50 := by omega
  have hc : ¬(c.2.1 - b.2.1).natAbs ≤ 50 := by omega
  have hoff : medianInt [a.1, b.1] = (a.1 + b.1) / 2 := by simp [medianInt, insertInt, ho]
  simp [secondOffset, hmid, ha, hc, hoff]

theorem State.links_isEmpty : s.links.isEmpty = true ↔ ∀ i < 3, (s.port i).state ≠ 4 := by
  simp [State.links, State.linkUp, upTo, List.isEmpty_iff]

theorem exec_lsaRefresh_idle (hu : s.elapse dt = u) (h : (∀ i, i < 3 → (u.port i).state ≠ 4) ∨
    u.since u.fabric.lsaAt 250000000 = false ∨ (u.lsaChanged = false ∧ u.since u.fabric.lsaAt 10000000000 = false)) :
    exec (.lsaRefresh dt) s = .next u := by
  obtain rfl := hu
  refine congrArg _ (if_neg ?_)
  simp only [Bool.and_eq_true, Bool.or_eq_true, Bool.not_eq_true', not_and, not_or, Bool.not_eq_true]
  have hmilli : 250 * milli = 250000000 := rfl
  have hsecond : 10 * second = 10000000000 := rfl
  rw [hmilli, hsecond]
  intro hlinks
  rcases h with h | h | ⟨hsame, hlong⟩
  · rw [State.links_isEmpty.2 h] at hlinks
    exact absurd hlinks (by decide)
  · refine ⟨?_, fun _ => h⟩
    simp only [State.since, decide_eq_false_iff_not] at h ⊢
    omega
  · refine ⟨hlong, fun hchanged => ?_⟩
    rw [hsame] at hchanged
    exact absurd hchanged (by decide)

theorem exec_lsaRefresh_due (hu : s.elapse dt = u) (hi : i < 3) (hup : (u.port i).state = 4)
    (h : u.since u.fabric.lsaAt 10000000000 = true ∨ (u.lsaChanged = true ∧ u.since u.fabric.lsaAt 250000000 = true)) :
    exec (.lsaRefresh dt) s = .next u.originate := by
  obtain rfl := hu
  have hlinks : (s.elapse dt).links.isEmpty = false := by
    rw [← Bool.not_eq_true, State.links_isEmpty]
    exact fun hno => hno i hi hup
  refine congrArg _ (if_pos ?_)
  simpa [hlinks, milli, second] using h

/-! ### Routed frames (R400) -/

/-- A routed frame that is not for this node, after it has been taken. -/
theorem exec_routedFrameForward_eq (hu : s.elapse dt = u) (hr : u.received i (frameType b) b = some t)
    (htype : 4 < frameType b) (hme : u.forMe b = false) : exec (.routedFrameForward dt i b) s = .next (
      if ((u.takeFrame i b).fabric.addrState = 2 ∧ frameSrc b = (u.takeFrame i b).fabric.addr) ∨ frameHop b ≤ 1 then
        (u.takeFrame i b).countDropped i
      else match (u.takeFrame i b).fabric.routeFor (frameDst b) with
        | none => (u.takeFrame i b).countDropped i
        | some j => (u.takeFrame i b).enqueueOn j ⟨frameType b, frameDst b, frameHop b - 1, frameSrc b, t⟩) := by
  obtain rfl := hu
  rw [exec_routedFrameForward]
  unfold execRoutedFrameForward
  dsimp only
  rw [hr]
  dsimp only
  rw [if_neg (by simp [linkLocal, htype, hme])] <;> rfl

/-- Settles O55: each row by its one test, the exchanges of a second by their medians, and the database by `putLsa`. -/
theorem fabricTimeRoutesAndElection : Obligations.FabricTimeRoutesAndElection := by
  refine ⟨?req, ?reqTaken, ?resp, ?exchange, ?noExchange, fun o d t fine => secondOffset_one o d t fine,
    fun a b c hab hbc hnear hfar ho => secondOffset_three hab hbc hnear hfar ho, ?noUpstream, ?second, ?originate,
    fun s u dt hu h => exec_lsaRefresh_idle hu h, ?stale, ?newer, ?ageOut, ?routes, ?assign, ?first, ?elected,
    fun l hl => exists_bestNode hl, ?forward, ?looped⟩
  case req =>
    rintro s u dt i rfl hup hdue
    exact congrArg _ (if_pos (by simp [State.linkUp, hup, milli, hdue]))
  case reqTaken =>
    rintro s u dt i b t rfl hr
    refine ⟨max 1 ((((s.elapse dt).port i).lineUntil - (s.elapse dt).mono + 39999) / 40000), by omega, by omega,
      fun j _ _ => by omega, ?_⟩
    rw [exec_timeReqReceive]
    unfold execTimeReqReceive
    dsimp only
    rw [show typeTimeReq = 3 from rfl, hr]
  case resp =>
    rintro s u dt i id t2 t3 rfl hup hp hdue hline
    rw [exec_timeRespSend]
    unfold execTimeRespSend
    dsimp only
    rw [hp]
    exact congrArg _ (if_pos (by simp [State.linkUp, hup, hdue, hline]))
  case exchange =>
    rintro s u v dt i t1 b t rfl hr rfl hreq hdue
    rw [exec_timeRespReceive]
    unfold execTimeRespReceive
    dsimp only
    rw [show typeTimeResp = 4 from rfl, hr]
    dsimp only
    rw [hreq]
    refine congrArg _ (if_neg ?_)
    simp only [milli]
    omega
  case noExchange =>
    rintro s u v dt i t1 id b t rfl hr rfl hreq
    rw [exec_timeRespReceive]
    unfold execTimeRespReceive
    dsimp only
    rw [show typeTimeResp = 4 from rfl, hr]
    dsimp only
    rcases hreq with hreq | ⟨hreq, hlate⟩
    · rw [hreq]
    · rw [hreq]
      exact congrArg _ (if_pos hlate)
  case noUpstream =>
    rintro s u dt rfl h
    rw [exec_fabricDisciplineSecond]
    unfold execFabricDisciplineSecond
    dsimp only
    by_cases hrole : (s.elapse dt).fabric.role ≠ roleWorker
    · exact congrArg _ (if_pos hrole)
    · rw [h.resolve_left hrole]
      exact congrArg _ (if_neg hrole)
  case second =>
    rintro s u v dt i t o fine rfl rfl hup hrole he
    rw [exec_fabricDisciplineSecond]
    unfold execFabricDisciplineSecond
    dsimp only
    rw [hup]
    dsimp only
    rw [he]
    exact congrArg _ (if_neg (not_not.2 hrole))
  case originate =>
    intro s u dt i hu hi hup h
    exact ⟨u.originate, exec_lsaRefresh_due hu hi hup h, u.originate_lsas.2, u.originate_lsas.1⟩
  case stale =>
    rintro s u dt i b t x rfl hr hx hseq
    rw [exec_lsaReceive]
    unfold execLsaReceive
    dsimp only
    rw [show typeLsa = 2 from rfl, hr]
    refine congrArg _ (if_pos ?_)
    rw [show (Lsa.ofBytes ((s.elapse dt).takeFrame i b).mono t).nodeId = field t 0 8 from rfl, hx]
    rw [Bool.not_eq_true', decide_eq_false_iff_not, not_lt]
    exact hseq
  case newer =>
    rintro s u dt i id b t rfl hr hid hne hnew hroom
    refine ⟨((s.elapse dt).takeFrame i b).takeLsa i t, ?_, State.lsaOf_takeLsa (s := (s.elapse dt).takeFrame i b) hid hne
      hnew hroom⟩
    rw [exec_lsaReceive]
    unfold execLsaReceive
    dsimp only
    rw [show typeLsa = 2 from rfl, hr]
  case ageOut =>
    rintro s u dt id x rfl hx hdue
    rw [exec_lsaAgeOut]
    unfold execLsaAgeOut
    dsimp only
    rw [hx]
    exact congrArg _ (if_pos hdue)
  case routes =>
    rintro s u dt rfl hdue
    exact congrArg _ (if_pos hdue)
  case assign =>
    rintro s u dt t rfl haddr hsince hdue
    exact congrArg _ (if_pos ⟨haddr, by rw [hsince]; exact hdue⟩)
  case first =>
    rintro s u dt t rfl helected hquiet hdue
    rw [exec_electionEvaluate]
    unfold execElectionEvaluate
    dsimp only
    rw [helected, if_pos (by decide), hquiet]
    exact congrArg _ (if_pos hdue)
  case elected =>
    rintro s u dt rfl helected
    refine ⟨fun hnone => ?_, fun m b r t hsome => ?_⟩
    all_goals
      rw [exec_electionEvaluate]
      unfold execElectionEvaluate
      dsimp only
      rw [helected, if_neg (by decide)]
    · rw [hnone]
    · rw [hsome]
      rfl
  case forward =>
    rintro s u v dt i _ b t hu rfl hr htype hme rfl hloop
    rw [exec_routedFrameForward_eq hu hr htype hme]
    refine ⟨fun hhop => congrArg _ (if_pos (.inr hhop)), fun hroute => ?_, fun j hhop hroute => ?_⟩
    · rw [hroute]
      exact congrArg _ (ite_self _)
    · rw [hroute, if_neg (by simp [hloop, hhop])]
  case looped =>
    rintro s u v dt i b t hu hr htype rfl haddr hsrc
    have hme : u.forMe b = false := by simp [State.forMe, hsrc]
    rw [exec_routedFrameForward_eq hu hr htype hme]
    exact congrArg _ (if_pos (.inl ⟨haddr, hsrc⟩))

end Sys2Proof.Machine
end

section
/-! PROOFS. The sync commands (Table 5.12), the reads of records (Table 12.5) and the commands of time (Table 12.6). -/

namespace Sys2Proof.Machine

variable {s u : State} {dt : Ticks} {c : Call} {f : InFlight} {p : Bytes}

/-! ### Sync events (R145, Table 5.12) -/

theorem State.logAt_sync (s : State) (time : Nat) (rtc : Bool) (cls code origin mp : Nat) (data : Bytes) :
    (s.logAt time rtc cls code origin mp data).sync = s.sync := by
  rw [State.logAt_frame]

theorem State.syncEvent_sync (s : State) (src e : Nat) : (s.syncEvent src e).sync = { s.sync with
    lastSource := src, lastE := e, acceptedAt := some s.mono, ignored := 0, outHigh := s.pnum 0x0020 == 1
    armed := (s.syncEvent src e).sync.armed } := by
  have htell (r : State) (x : Unsolicited) : (r.tell x).sync = r.sync := by rw [State.tell_frame]
  unfold State.syncEvent
  dsimp only
  split
  · rw [State.emit_sync, htell, State.logEvent, State.logAt_sync]
    rfl
  · rw [htell, State.logEvent, State.logAt_sync]
    rfl

theorem State.stopped_or {r : State} (h : r.modDom.source = .stopped ∨ r.legalRuns = false) :
    (decide (r.modDom.source = .stopped) || !r.legalRuns) = true := by
  rcases h with h | h <;> simp [h]

theorem State.syncAtStatus_of_runs {t : Nat} (ha : u.syncAllowed 3 = true) (hh : u.inHoldoff = false)
    (hm : u.modDom.source ≠ .stopped) (hl : u.legalRuns = true) : u.syncAtStatus t =
      if u.ntu.status ≠ .fine then stDeniedState else if t < u.nodeTime + 100000 then stTimeout
      else if u.nodeTime + 3600000000000 < t then stBadParam else stDone := by
  unfold State.syncAtStatus
  rw [if_neg (by simp [ha]), if_neg (by simp [hh]), if_neg (by simp [hm, hl])]
  rfl

/-- SYNC_AT with a status that refuses it. -/
theorem exec_syncAt_refused {st : Nat} (h : Serves s dt u c 0x0203 p 8 f) (hp : p.length = 8)
    (hst : u.syncAtStatus (field p 0 8) = st) (hne : st ≠ stDone) : exec (.syncAt dt c p) s =
      .next ((if !u.syncAllowed 3 || u.inHoldoff then u.ignoreSync else u).respond f st []) := by
  refine (congrArg _ (h.run _ (by simp [hp]))).trans ?_
  simp only [hst]
  rw [if_pos hne]
  rfl

/-- Settles O17: each command by the first of its tests that fails, and an event by what it writes. -/
theorem syncCommandsFollowTable : Obligations.SyncCommandsFollowTable := by
  refine ⟨?event, ?shut, ?held, ?stopped, ?armed, ?atRefused, ?atLate, ?status, ?writes, fun _ => rfl⟩
  case event =>
    rintro s u dt c p late f h rfl ha hh hm hl
    refine ⟨u.nodeTime + min (max late 81400) 122100 / 1000, by omega, by omega, ?_⟩
    refine (congrArg _ (h.run _ rfl)).trans ?_
    rw [if_neg (by simp [ha]), if_neg (by simp [hh]), if_neg (by simp [hm, hl])]
    rfl
  case shut =>
    rintro s u dt c p late f h rfl ha
    refine (congrArg _ (h.run _ rfl)).trans ?_
    rw [if_pos (by simp [ha])]
    rfl
  case held =>
    rintro s u dt c p late f h rfl ha hh
    refine (congrArg _ (h.run _ rfl)).trans ?_
    rw [if_neg (by simp [ha]), if_pos hh]
    rfl
  case stopped =>
    rintro s u dt c p late f h rfl ha hh hstop
    refine (congrArg _ (h.run _ rfl)).trans ?_
    rw [if_neg (by simp [ha]), if_neg (by simp [hh]), if_pos (State.stopped_or hstop)]
    rfl
  case armed =>
    intro s u dt c p f h hp ha hh hm hl hfine hlo hhi
    have hst : u.syncAtStatus (field p 0 8) = stDone := by
      rw [State.syncAtStatus_of_runs ha hh hm hl, if_neg (not_not.2 hfine), if_neg (not_lt.2 hlo), if_neg (not_lt.2 hhi)]
    refine (congrArg _ (h.run _ (by simp [hp]))).trans ?_
    simp only [hst]
    rw [if_neg (by simp)]
  case atRefused =>
    intro s u dt c p f h hp
    refine ⟨fun ha => ?_, fun ha hh => ?_, fun ha hh hstop => ?_⟩
    · rw [exec_syncAt_refused h hp (if_pos (by simp [ha])) (by decide), if_pos (by simp [ha])]
    · have hst : u.syncAtStatus (field p 0 8) = stBusy := (if_neg (by simp [ha])).trans (if_pos hh)
      rw [exec_syncAt_refused h hp hst (by decide), if_pos (by simp [hh])]
    · have hst : u.syncAtStatus (field p 0 8) = stFault :=
        (if_neg (by simp [ha])).trans ((if_neg (by simp [hh])).trans (if_pos (State.stopped_or hstop)))
      rw [exec_syncAt_refused h hp hst (by decide), if_neg (by simp [ha, hh])]
  case atLate =>
    intro s u dt c p f h hp ha hh hm hl
    have hst := State.syncAtStatus_of_runs (t := field p 0 8) ha hh hm hl
    have hkeeps : (if !u.syncAllowed 3 || u.inHoldoff then u.ignoreSync else u) = u := if_neg (by simp [ha, hh])
    refine ⟨fun hfine => ?_, fun hfine hlo => ?_, fun hfine hhi => ?_⟩
    · rw [exec_syncAt_refused h hp (hst.trans (if_pos hfine)) (by decide), hkeeps]
    · rw [if_neg (not_not.2 hfine), if_pos hlo] at hst
      rw [exec_syncAt_refused h hp hst (by decide), hkeeps]
    · rw [if_neg (not_not.2 hfine), if_neg (by omega), if_pos hhi] at hst
      rw [exec_syncAt_refused h hp hst (by decide), hkeeps]
  case status =>
    rintro s u dt c p f h rfl
    obtain rfl := h.time
    refine ⟨_, _, congrArg _ (h.run _ rfl), fun t call harmed => by rw [harmed], fun harmed => by rw [harmed],
      fun hacc => by rw [hacc], fun t hacc => by rw [hacc]; simp [second]⟩
  case writes =>
    intro s src e
    rw [State.syncEvent_sync]
    exact ⟨rfl, rfl, rfl, rfl⟩

/-! ### Records (Table 12.5) -/

/-- Settles O19: the stores' own functions, with the options that the rows leave as 0. -/
theorem recordReadsAnswer : Obligations.RecordReadsAnswer := by
  refine ⟨?read, ?status, ?external, ?denied⟩
  case read =>
    intro s u dt c p f h hp hr1 hr4 hm hlo hhi all hall hne
    refine (congrArg _ (h.run _ (by simp [hp, hr1, hr4, hm, hlo, hhi]))).trans ?_
    rw [← hall, if_neg (by simp [List.isEmpty_iff, hne])]
    cases all.drop (field p 2 2) <;> rfl
  case status =>
    intro s u dt c p f h hp hm
    refine (congrArg _ (h.run _ (by simp [hp, hm]))).trans ?_
    dsimp only
    generalize (u.storedReadings (field p 0 1)).head? = oldest, (u.storedReadings (field p 0 1)).getLast? = newest
    cases oldest <;> cases newest <;> rfl
  case external =>
    rintro s u dt c _ p f h hp rfl hm htype hsub
    obtain rfl := h.time
    refine ⟨_, (congrArg _ (h.run _ (by simp [hp, hm]))).trans (congrArg _ (if_pos ⟨htype, hsub⟩)), fun hnone => ?_,
      fun t hsome => ?_⟩
    · rw [hnone]
      rfl
    · rw [hsome]
      dsimp only
      split
      next hstale => simp [b2n, hstale]
      next hfresh => simp [b2n, hfresh]
  case denied =>
    rintro s u dt c _ p f h hp rfl hm hno
    refine (congrArg _ (h.run _ (by simp [hp, hm]))).trans ?_
    rw [if_neg (by tauto)]
    rfl

/-! ### Time (Table 12.6) -/

/-- The search of the next switch finds the first minute of another tariff, or none. -/
theorem nextSwitch_spec (cal : Bytes) (offset : Int) (tariff n minute : Nat) :
    (∃ k < n, nextSwitch cal offset tariff n minute =
        ((minute + k) * 60000000000, calendarTariff cal offset (minute + k)) ∧
      calendarTariff cal offset (minute + k) ≠ tariff ∧ ∀ j < k, calendarTariff cal offset (minute + j) = tariff) ∨
    (nextSwitch cal offset tariff n minute = (0, 0) ∧ ∀ j < n, calendarTariff cal offset (minute + j) = tariff) := by
  induction n generalizing minute with
  | zero => exact .inr ⟨rfl, fun j hj => absurd hj (Nat.not_lt_zero j)⟩
  | succ n ih =>
    by_cases hsame : calendarTariff cal offset minute = tariff
    · have hstep : nextSwitch cal offset tariff (n + 1) minute = nextSwitch cal offset tariff n (minute + 1) :=
        if_neg (not_not.2 hsame)
      have hfirst (m : Nat) (h : ∀ j < m, calendarTariff cal offset (minute + 1 + j) = tariff) :
          ∀ j < m + 1, calendarTariff cal offset (minute + j) = tariff := by
        intro j hj
        cases j with
        | zero => exact hsame
        | succ j =>
          rw [show minute + (j + 1) = minute + 1 + j by omega]
          exact h j (by omega)
      rw [hstep]
      rcases ih (minute + 1) with ⟨k, hk, heq, hne, hall⟩ | ⟨heq, hall⟩
      · refine .inl ⟨k + 1, by omega, ?_⟩
        rw [show minute + (k + 1) = minute + 1 + k by omega]
        exact ⟨heq, hne, hfirst k hall⟩
      · exact .inr ⟨heq, hfirst n hall⟩
    · exact .inl ⟨0, Nat.succ_pos n, if_pos hsame, hsame, fun j hj => absurd hj (Nat.not_lt_zero j)⟩

theorem clampInt_bounds {lo hi : Int} (h : lo ≤ hi) (n : Int) : lo ≤ clampInt lo hi n ∧ clampInt lo hi n ≤ hi := by
  unfold clampInt
  split
  · omega
  · split <;> omega

theorem clampInt_inside {lo hi n : Int} (hlo : lo ≤ n) (hhi : n ≤ hi) : clampInt lo hi n = n := by
  rw [clampInt, if_neg (not_lt.2 hlo), if_neg (not_lt.2 hhi)]

/-- Settles O20: the reads through `Serves.run`, DISCIPLINE by its two tests. -/
theorem timeCommandsAnswer : Obligations.TimeCommandsAnswer := by
  refine ⟨⟨?time, ?active, ?passive, ?empty, ?tariff, ?owner⟩, ?taken, ?late, ?worker, ?rate⟩
  case time =>
    rintro s u dt c p f h rfl
    exact congrArg _ (h.run _ rfl)
  case active =>
    rintro s u dt c p f h rfl hstate
    obtain rfl := h.time
    exact (congrArg _ (h.run _ rfl)).trans (congrArg _ (if_neg hstate))
  case passive =>
    rintro s u dt c p f h rfl hstate
    obtain rfl := h.time
    refine (congrArg _ (h.run _ rfl)).trans ?_
    have hw : field [1#8] 0 1 = 1 := rfl
    rw [State.elapse_legal] at hstate
    simp [hw, hstate]
    rfl
  case empty =>
    rintro s u dt c p f h hcase
    obtain rfl := h.time
    rcases hcase with ⟨rfl, hstate⟩ | ⟨rfl, hstate⟩
    all_goals exact (congrArg _ (h.run _ rfl)).trans (congrArg _ (if_pos hstate))
  case tariff =>
    rintro s u dt c p f h rfl
    obtain rfl := h.time
    refine ⟨_, _, congrArg _ (h.run _ rfl), fun hsrc => ?_, fun hsrc => ?_⟩
    · rw [if_neg hsrc]
      exact ⟨rfl, rfl⟩
    · rw [if_pos hsrc]
      rcases nextSwitch_spec (s.elapse dt).legal.active.bytes (s.elapse dt).utcOffset
        ((s.elapse dt).tariffAt (s.elapse dt).nodeTime) 2880 ((s.elapse dt).nodeTime / 60000000000 + 1) with
        ⟨k, hk, heq, hne, hall⟩ | ⟨heq, hall⟩
      · rw [heq]
        exact .inl ⟨k, hk, rfl, rfl, hne, hall⟩
      · rw [heq]
        exact .inr ⟨rfl, rfl, hall⟩
  case owner =>
    rintro s u dt c p f h rfl
    exact congrArg _ (h.run _ rfl)
  case taken =>
    intro s u dt c p f h hp hlo hhi hrole
    refine (congrArg _ (h.run _ (by simp [hp]))).trans ?_
    rw [if_neg (by omega), if_neg hrole]
    rfl
  case late =>
    intro s u dt c p f h hp hage
    refine (congrArg _ (h.run _ (by simp [hp]))).trans ?_
    rw [if_pos hage]
    rfl
  case worker =>
    intro s u dt c p f h hp hlo hhi hrole
    refine (congrArg _ (h.run _ (by simp [hp]))).trans ?_
    rw [if_neg (by omega), if_pos hrole]
    rfl
  case rate =>
    intro s v
    have hbounds := clampInt_bounds (lo := -100000) (hi := 100000) (by decide) v
    exact ⟨hbounds.1, hbounds.2, fun hlo hhi => clampInt_inside hlo hhi⟩

end Sys2Proof.Machine
end

section
/-! PROOFS. The commands of the display (R205, R423, R424, Table 12.7). -/

namespace Sys2Proof.Machine

variable {s u : State} {dt : Ticks} {c : Call} {f : InFlight} {p : Bytes}

/-! ### Staging (R205, R424) -/

theorem mem_upTo {n i : Nat} : i ∈ upTo n ↔ i < n := List.mem_range

theorem any_congr {α : Type} {l : List α} {q r : α → Bool} (h : ∀ x ∈ l, q x = r x) : l.any q = l.any r := by
  rw [Bool.eq_iff_iff, List.any_eq_true, List.any_eq_true]
  exact exists_congr fun x => and_congr_right fun hx => by rw [h x hx]

theorem State.blocked_display (s : State) (row : Nat) : (s.blocked row).display = s.display := by
  unfold State.blocked State.logEvent
  rw [State.logAt_frame]
  rfl

theorem State.discardMasked_display (s : State) (touched : List Nat) :
    (s.discardMasked touched).display = s.display := by
  unfold State.discardMasked
  split
  · exact s.blocked_display 5
  · rfl

/-- A touched segment of the legal mask is one blocked attempt, whichever list names it. -/
theorem State.discardMasked_of_any {touched : List Nat} {b : Bool} (h : touched.any u.masked = b) :
    u.discardMasked touched = if b = true then u.blocked 5 else u := by
  rw [← h]
  rfl

/-- A staging copy after a command whose place is `area` and whose lit segments are `lit`. -/
def staged (area lit stage : List Nat) : List Nat :=
  (upTo 512).filter (fun i => if area.contains i then lit.contains i else stage.contains i)

theorem mem_staged {area lit stage : List Nat} {i : Nat} (hi : i < 512) :
    i ∈ staged area lit stage ↔ if i ∈ area then i ∈ lit else i ∈ stage := by
  rw [staged, List.mem_filter, mem_upTo]
  by_cases ha : i ∈ area <;> simp [ha, hi]

theorem State.stageComm_respond {touched : List Nat} {b : Bool} (h : touched.any u.masked = b) (area lit : List Nat) :
    ((u.discardMasked touched).stageComm area lit).reply f stDone =
      ((if b = true then u.blocked 5 else u).modDisplay (fun d => { d with
        commStage := staged area lit u.display.commStage })).respond f stDone [] := by
  rw [← State.discardMasked_of_any h]
  unfold State.stageComm State.modDisplay
  rw [State.discardMasked_display]
  rfl

theorem lt_of_mem_mapCells {map : Bytes} {off i : Nat} {cs : List Cell} (h : i ∈ mapCells map off cs) : i < 512 := by
  simp only [mapCells, List.mem_flatMap, List.mem_filterMap] at h
  obtain ⟨x, -, k, -, hk⟩ := h
  split at hk
  · cases hk
    assumption
  · cases hk

/-- The segments below 512 of the icons that a word names. -/
def State.iconsNamed (s : State) (w : Nat) : List Nat :=
  (((upTo 31).filter (fun k => bit w k)).map s.iconSegment).filter (fun i => i < 512)

theorem State.mem_iconsNamed {w i : Nat} :
    i ∈ u.iconsNamed w ↔ i < 512 ∧ ∃ k < 31, bit w k = true ∧ u.iconSegment k = i := by
  simp only [State.iconsNamed, List.mem_filter, List.mem_map, mem_upTo, decide_eq_true_eq, and_assoc]
  exact and_comm

theorem State.stageIcons (u : State) (set clear : Nat) (touched : List Nat) :
    (u.discardMasked touched).modDisplay (fun d => { d with statusStage := (upTo 512).filter (fun i =>
      (d.statusStage.contains i || ((u.iconsNamed set).filter (fun i => !u.masked i)).contains i) &&
        !((u.iconsNamed clear).filter (fun i => !u.masked i)).contains i) }) =
    (u.discardMasked touched).modDisplay (fun d => { d with statusStage := (upTo 512).filter (fun i =>
      (u.display.statusStage.contains i || ((u.iconsNamed set).filter (fun i => !u.masked i)).contains i) &&
        !((u.iconsNamed clear).filter (fun i => !u.masked i)).contains i) }) := by
  unfold State.modDisplay
  rw [State.discardMasked_display]

/-- Settles O21: the segments that a command touches, by membership in what it names. -/
theorem displayCommandsWriteTheStagingCopies : Obligations.DisplayCommandsWriteTheStagingCopies := by
  refine ⟨?segments, ?digits, ?icons, ?commit, ?commitOff, ?status⟩
  case segments =>
    intro s u dt c p f h hp hcom hrsv hepd hopen
    obtain rfl := h.time
    have hok : (p.length == 12 && decide (field p 0 1 ≤ 7) && rsv p 1 3 && (!((s.elapse dt).pnum 0x4000 == 2) ||
        (field p 0 1 == 0 && decide (field p 4 8 < 2 ^ 48)))) = true := by
      by_cases h2 : (s.elapse dt).pnum 0x4000 = 2
      · obtain ⟨h0, hlt⟩ := hepd h2
        simp only [hp, hrsv, h0, h2]
        simp
        omega
      · simp [hp, hcom, hrsv, h2]
    have hany : (((upTo 64).map (64 * field p 0 1 + ·)).filter (fun i => bit (field p 4 8) (i % 64))).any
        (s.elapse dt).masked = (upTo 64).any (fun k => bit (field p 4 8) k &&
          (s.elapse dt).masked (64 * field p 0 1 + k)) := by
      rw [Bool.eq_iff_iff]
      simp only [List.any_eq_true, List.mem_filter, List.mem_map, mem_upTo, Bool.and_eq_true]
      constructor
      · rintro ⟨_, ⟨⟨k, hk, rfl⟩, hb⟩, hm⟩
        exact ⟨k, hk, by rwa [Nat.mul_add_mod, Nat.mod_eq_of_lt hk] at hb, hm⟩
      · rintro ⟨k, hk, hb, hm⟩
        exact ⟨_, ⟨⟨k, hk, rfl⟩, by rwa [Nat.mul_add_mod, Nat.mod_eq_of_lt hk]⟩, hm⟩
    refine ⟨_, congrArg _ ((if_pos hopen).trans ((h.run _ hok).trans (State.stageComm_respond hany _ _))), ?_⟩
    · intro i hi
      rw [mem_staged hi]
      have hrow : i ∈ (upTo 64).map (64 * field p 0 1 + ·) ↔ i / 64 = field p 0 1 := by
        simp only [List.mem_map, mem_upTo]
        constructor
        · rintro ⟨k, hk, rfl⟩
          omega
        · intro hq
          exact ⟨i % 64, by omega, by omega⟩
      by_cases hq : i / 64 = field p 0 1 <;> simp [List.mem_filter, hrow, hq]
  case digits =>
    rintro s u dt c p map f cells group h hp hg hrsv rfl rfl hcells hfit hopen
    obtain rfl := h.time
    have hok : (p.length == 20 && decide (field p 0 1 ≤ 7) && rsv p 1 3 &&
        decide (cells.length ≤ field ((s.elapse dt).param (0x4020 + field p 0 1)) 0 1)) = true := by
      simp [hp, hg, hrsv, hfit]
    set map := (s.elapse dt).param (0x4020 + field p 0 1) with hmap
    set group := indices map 2 (8 * field map 0 1) with hgroup
    have hany : ((mapCells map 2 cells).filter (group.filter (fun i => i < 512)).contains).any (s.elapse dt).masked =
        (mapCells map 2 cells).any (fun i => group.contains i && (s.elapse dt).masked i) := by
      rw [List.any_filter]
      refine any_congr fun i hi => ?_
      have hlt := lt_of_mem_mapCells hi
      simp [List.contains_eq_mem, List.mem_filter, hlt]
    rw [exec_commDigits]
    unfold execCommDigits
    dsimp only
    rw [hcells]
    refine ⟨_, congrArg _ ((if_pos hopen).trans ((h.run _ hok).trans (State.stageComm_respond hany _ _))), ?_⟩
    intro i hi
    rw [mem_staged hi]
    simp [List.mem_filter, hi, hmap, hgroup]
  case icons =>
    intro s u dt c p f set clear h hp hs hc hopen hset hclear
    obtain rfl := h.time
    refine ⟨_, (s.elapse dt).discardMasked ((s.elapse dt).iconsNamed (field p 0 4) ++
      (s.elapse dt).iconsNamed (field p 4 4)), congrArg _ ((if_pos hopen).trans ((h.run _ (by simp [hp, hs, hc])).trans
        (congrArg (fun r => State.respond r f stDone []) (State.stageIcons _ _ _ _)))), ?_, ?_, ?_⟩
    · rintro ⟨i, hi, hm, hn⟩
      exact if_pos (List.any_eq_true.mpr ⟨i, by simpa [State.mem_iconsNamed, hset, hclear, hi] using hn, hm⟩)
    · intro hfree
      refine if_neg fun hany => ?_
      obtain ⟨i, hi, hm⟩ := List.any_eq_true.mp hany
      simp only [List.mem_append, State.mem_iconsNamed, ← hset, ← hclear] at hi
      exact hfree i (by tauto) hm (by tauto)
    · intro i hi
      simp only [List.mem_filter, mem_upTo, Bool.and_eq_true, Bool.or_eq_true, Bool.not_eq_true', List.contains_eq_mem,
        decide_eq_true_eq, decide_eq_false_iff_not, State.mem_iconsNamed, hi, ← hset, ← hclear]
      simp only [State.elapse_display]
      tauto
  case commit =>
    rintro s u dt c p f h hp hlayers hmode
    refine (congrArg _ (h.run _ (by simp [hp, hlayers]))).trans ?_
    exact congrArg _ (if_neg hmode)
  case commitOff =>
    rintro s u dt c p f h rfl hmode
    refine (congrArg _ (h.run _ (by simp [field]; decide))).trans ?_
    refine congrArg _ ((if_pos (c := u.dispMode = 0) hmode).trans (congrArg (fun r => State.respond r f stDone []) ?_))
    have hcomm : bit (field [3] 0 1) 0 = true := by decide
    have hstatus : bit (field [3] 0 1) 1 = true := by decide
    simp only [State.modDisplay, hcomm, hstatus, Bool.or_true, if_true]
  case status =>
    rintro s u dt c p f h rfl
    obtain rfl := h.time
    exact congrArg _ (h.run _ rfl)

end Sys2Proof.Machine
end

section
/-! PROOFS. The composer and its frame boundaries (R425, R426, R441). -/

namespace Sys2Proof.Machine

variable {s u : State} {dt : Ticks} {c : Call} {f : InFlight} {p : Bytes}

/-! ### General frames -/

/-- A change of one part commutes with a log entry that does not read it. -/
theorem State.logEvent_modDisplay (s : State) (g : Display → Display) (cls code mp : Nat) (data : Bytes) :
    (s.modDisplay g).logEvent cls code mp data = (s.logEvent cls code mp data).modDisplay g := by
  unfold State.logEvent State.logAt State.tell
  by_cases h : s.ready = true
  · exact (if_pos h).trans (Eq.symm ((congrArg (State.modDisplay · g) (if_pos h)).trans rfl))
  · exact (if_neg h).trans (Eq.symm ((congrArg (State.modDisplay · g) (if_neg h)).trans rfl))

/-- What an announcement leaves. -/
theorem State.announce_frame (s : State) (code : Nat) (p : Bytes) : s.announce code p = { s with
    hawk := (s.announce code p).hawk, mem := (s.announce code p).mem, boot := (s.announce code p).boot } := by
  unfold State.announce
  split
  · rw [postEvent_frame]
  · rfl

theorem State.postFault_frame (s : State) (code : Nat) : s.postFault code = { s with
    hawk := (s.postFault code).hawk, mem := (s.postFault code).mem, boot := (s.postFault code).boot } := by
  unfold State.postFault
  split
  · rfl
  · exact State.announce_frame _ _ _

theorem State.since_iff {t n : Nat} : s.since t n = true ↔ t + n ≤ s.mono := decide_eq_true_iff

/-! ### The commits that wait (R328) -/

/-- What the composer reads of the parameters. -/
def State.paramFields (s : State) : List (Nat × Bytes) × List (Nat × Bytes) := (s.params, s.inForce)

theorem State.finishCommits_paramFields (s : State) : s.finishCommits.paramFields = s.paramFields := by
  unfold State.finishCommits
  refine (foldl_keeps (π := State.paramFields) (fun s c => ?_) _ _).trans rfl
  cases s.accepted c 0x0604 with
  | none => rfl
  | some f => dsimp only; rw [State.respond_frame]; rfl

theorem State.finishCommits_dispMode (s : State) : s.finishCommits.dispMode = s.dispMode := by
  have h := s.finishCommits_paramFields
  simp only [State.paramFields, Prod.mk.injEq] at h
  unfold State.dispMode State.pnumNow State.paramNow State.param
  rw [h.1, h.2]

/-! ### Parameters in force (R341) -/

theorem lookupParam_filter_none {l : List (Nat × Bytes)} {id : Nat} {q : Nat → Bool} (h : q id = true) :
    lookupParam (l.filter (fun e => !q e.1)) id = none := by
  unfold lookupParam
  rw [Option.map_eq_none_iff, List.find?_eq_none]
  intro e he heq
  have hid : e.1 = id := by simpa using heq
  have := (List.mem_filter.mp he).2
  simp [hid, h] at this

theorem State.pnumNow_bringIntoForce {id : Nat} {q : Nat → Bool} (h : q id = true) :
    (s.bringIntoForce q).pnumNow id = s.pnum id := by
  unfold State.pnumNow State.paramNow State.bringIntoForce
  rw [lookupParam_filter_none h]
  rfl

/-! ### The EPD update of a boundary (R434, R435) -/

theorem bandOf_le (t : Int) : bandOf t ≤ 7 := List.length_filter_le _ _

theorem nextBand_le (last : Nat) (t : Int) : nextBand last t ≤ 7 := by
  unfold nextBand
  extract_lets above below
  split
  · exact bandOf_le t
  · split
    · omega
    · exact bandOf_le t

theorem State.classesFor_getD (s : State) (target : List Nat) (full : Bool) {i : Nat} (hi : i < 48) :
    (s.classesFor target full).getD i 0 = if i ∈ target then (if i ∈ s.display.panel ∧ full = false then 0 else 1)
      else if i ∉ s.display.panel ∧ full = false then 0 else 2 := by
  unfold State.classesFor upTo
  rw [List.getD_eq_getElem _ _ (by simpa using hi), List.getElem_map, List.getElem_range]
  by_cases ht : i ∈ target <;> by_cases hp : i ∈ s.display.panel <;> cases full <;> simp [ht, hp]

/-! ### The layers (R423) -/

theorem State.provSegments_hidden {m : Nat} (h : (s.point m).prov.shown = false) : s.provSegments m = ([], []) := by
  unfold State.provSegments
  dsimp only
  rw [if_pos (by simp [h])]

theorem State.mem_compose (hprov : ∀ m < 4, (s.point m).prov.shown = false) {i : Nat} (hi : i < 512)
    (hseg : s.segmentNow i = true) : i ∈ s.compose ↔ if s.masked i = true then i ∈ s.display.legalLive
      else if i ∈ s.iconSegments then i ∈ s.display.statusLive else i ∈ s.display.commLive := by
  have hicon : (upTo 4).any (fun m => (s.point m).prov.shown) = false := by
    rw [List.any_eq_false]
    intro m hm
    simp [hprov m (mem_upTo.mp hm)]
  have hfind : ((upTo 4).map s.provSegments).find? (fun x => x.1.contains i) = none := by
    rw [List.find?_eq_none]
    rintro x hx
    obtain ⟨m, hm, rfl⟩ := List.mem_map.mp hx
    simp [State.provSegments_hidden (hprov m (mem_upTo.mp hm))]
  unfold State.compose
  dsimp only
  rw [List.mem_filter, hicon, hfind, mem_upTo, hseg]
  by_cases hm : s.masked i = true <;> by_cases hs : i ∈ s.iconSegments <;> simp [hm, hs, hi]

theorem State.logStale_some {t : Nat} (h : s.display.staleTime = some t) : s.logStale =
    if s.legalRuns = true then
      (s.logEvent 0x0E 0x02 0xFF (leBytes 8 t)).modDisplay (fun d => { d with staleTime := none })
    else s := by
  unfold State.logStale
  rw [h]

/-- The stale rule, due: the legal layer goes to dashes. -/
theorem exec_legalStale_due (hu : s.elapse dt = u) (hphase : u.boot.displayPhase = 5) (hmode : u.dispMode ≠ 0)
    (hstale : u.display.stale = false)
    (hage : (u.display.legalAt.getD u.boot.displayPhaseAt) + 2000000000 ≤ u.mono) :
    exec (.legalStale dt) s = .next (u.modDisplay (fun d => { d with
      legalLive := u.legalSegments (dashes u.legalDigits, []), stale := true
      staleTime := some u.nodeTime })).logStale := by
  have hsince : u.since (u.display.legalAt.getD u.boot.displayPhaseAt) (2 * second) = true :=
    State.since_iff.mpr hage
  rw [exec_legalStale]
  unfold execLegalStale
  dsimp only
  rw [hu, if_pos (by simp [hphase, hmode, hstale, hsince])]

/-- Settles O22: a boundary by its sequence of copies, the layers by the place of a segment. -/
theorem frameBoundariesComposeTheLayers : Obligations.FrameBoundariesComposeTheLayers := by
  refine ⟨⟨?boundary, ?idle, ?none, ?one, fun _ => rfl, ?epd, ?layers⟩, ?image, ?staleDown, ?staleUp, ?flash⟩
  case boundary =>
    rintro s u v w dt temp hu hphase hmode hpnum hupd rfl rfl
    rw [exec_displayFrameBoundary]
    unfold execDisplayFrameBoundary
    dsimp only
    rw [hu, if_neg (by simp [hupd, hmode]; omega)]
    refine congrArg _ ?_
    simp only [State.finishCommits_dispMode]
    have hnow (g g' : Display → Display) : (((u.bringIntoForce (fun id => decide (0x4000 ≤ id ∧ id <
        0x5000))).modDisplay g).modDisplay g').dispMode = u.pnum 0x4000 :=
      State.pnumNow_bringIntoForce (id := 0x4000) (q := fun id => decide (0x4000 ≤ id ∧ id < 0x5000)) (by decide)
    rw [State.copyLayers, hnow]
    rcases hpnum with h | h
    · rw [if_pos h, if_pos h]
      rfl
    · rw [if_neg (by omega), if_pos h, if_neg (by omega)]
      rfl
  case idle =>
    rintro s u dt temp rfl h
    refine congrArg _ (if_pos ?_)
    simp only [Bool.or_eq_true, decide_eq_true_eq]
    tauto
  case none =>
    intro s h
    unfold State.finishCommits State.modDisplay
    rw [h]
    dsimp only [List.foldl]
    rw [← h]
  case one =>
    intro s c f h ha
    unfold State.finishCommits
    rw [h]
    dsimp only [List.foldl]
    rw [show (s.modDisplay (fun d => { d with commits := [] })).accepted c 0x0604 = some f from ha]
  case epd =>
    intro s temp hne
    unfold State.epdBoundary
    dsimp only
    rw [if_neg (by simp [hne])]
    refine ⟨_, _, _, rfl, rfl, rfl, nextBand_le _ _, rfl, rfl, fun i hi => ?_⟩
    exact State.classesFor_getD s _ _ hi
  case layers =>
    intro s i hphase hprov hi hseg
    have htarget : s.target = s.compose := by
      unfold State.target
      rw [if_neg (by omega), if_neg (by omega)]
    have hmem := State.mem_compose hprov hi hseg
    rw [htarget, hmem]
    refine ⟨fun hm => ?_, fun hm hs => ?_, fun hm hs => ?_⟩
    · rw [if_pos hm]
    · rw [if_neg (by simp [hm]), if_pos hs]
    · rw [if_neg (by simp [hm]), if_neg hs]
  case image =>
    rintro s u dt rfl h
    exact congrArg _ (if_pos h)
  case staleDown =>
    intro s u dt hu hphase hmode hstale hage hlegal
    rw [exec_legalStale_due hu hphase hmode hstale hage, State.logStale_some rfl]
    generalize u.legalSegments (dashes u.legalDigits, []) = image
    rw [if_neg]
    · rfl
    · show ¬ u.legalRuns = true
      simp [hlegal]
  case staleUp =>
    intro s u dt hu hphase hmode hstale hage hlegal
    refine ⟨_, rfl, ?_⟩
    rw [exec_legalStale_due hu hphase hmode hstale hage, State.logStale_some rfl, ← State.logEvent_modDisplay]
    generalize u.legalSegments (dashes u.legalDigits, []) = image
    rw [if_pos]
    · rfl
    · exact hlegal
  case flash =>
    rintro s u dt rfl hlegal herr hage
    refine congrArg _ (if_pos ?_)
    simp only [hlegal, herr, Bool.true_and, State.since_iff]
    simpa [second] using hage

end Sys2Proof.Machine
end

section
/-! PROOFS. The drive of the panel and its read-back (R432, R435 to R438, R440, R441). -/

namespace Sys2Proof.Machine

variable {s u : State} {dt : Ticks} {c : Call} {f : InFlight} {p : Bytes}

/-! ### The rails and the ledger (R436, R437) -/

/-- A full phase holds each sample for its 32 ticks. -/
theorem railIntegral_full (l : List Int) : railIntegral 0 (32 * l.length) l = 32 * l.sum := by
  have hterm : ∀ x ∈ numbered l, x.2 * (((if x.1 + 1 = l.length then 32 * l.length
      else min (32 * l.length) (32 * (x.1 + 1) - 0)) - (32 * x.1 - 0) : Nat) : Int) = 32 * x.2 := by
    intro x hx
    have hlt : x.1 < l.length := mem_upTo.mp (List.of_mem_zip hx).1
    have hticks : (if x.1 + 1 = l.length then 32 * l.length else min (32 * l.length) (32 * (x.1 + 1) - 0)) -
        (32 * x.1 - 0) = 32 := by
      split <;> omega
    rw [hticks, Int.mul_comm]
    rfl
  have hsnd : (numbered l).map (·.2) = l := List.map_snd_zip (by simp [upTo])
  calc railIntegral 0 (32 * l.length) l = ((numbered l).map (fun x => 32 * x.2)).sum :=
        congrArg List.sum (List.map_congr_left hterm)
    _ = 32 * ((numbered l).map (·.2)).sum := List.sum_map_mul_left ..
    _ = 32 * l.sum := by rw [hsnd]

theorem map_numbered_getD {g : Nat × Int → Int} {l : List Int} {j : Nat} (hj : j < l.length) :
    ((numbered l).map g).getD j 0 = g (j, l.getD j 0) := by
  simp [List.getD_eq_getElem?_getD, getElem?_numbered, hj]

theorem State.pulseTicks_inside {l : Int} (h : l.natAbs ≤ 65536) : s.pulseTicks l = 0 := by
  unfold State.pulseTicks outside
  simp [h]

theorem State.compensate_of_pulse (h : ∃ l ∈ s.display.ledger, s.pulseTicks l ≠ 0) : s.compensate =
    s.startUpdate 8 ((s.display.ledger.map s.pulseTicks).map (fun n => if n = 0 then 0 else 3))
      (s.display.ledger.map s.pulseTicks) (nextBinary (s.display.ledger.map s.pulseTicks) 0) := by
  obtain ⟨l, hl, hne⟩ := h
  refine if_neg fun hall => hne ?_
  simpa using List.all_eq_true.mp hall _ (List.mem_map_of_mem hl)

/-! ### Read-back (R440, R441) -/

/-- Announcing does not touch what says that the LC runs. -/
theorem State.announce_legalRuns (s : State) (code : Nat) (p : Bytes) : (s.announce code p).legalRuns = s.legalRuns := by
  unfold State.announce
  split
  · rw [postEvent_frame]
    rfl
  · rfl

theorem State.postFault_legalRuns (s : State) (code : Nat) : (s.postFault code).legalRuns = s.legalRuns := by
  unfold State.postFault
  split
  · rfl
  · exact State.announce_legalRuns _ _ _

/-- The latch itself (R441). -/
def State.withDisplayError (s : State) : State :=
  s.modLegal (fun l => { l with displayError := true, errShown := true, errAt := s.mono })

theorem State.latchDisplayError_new (h : s.legal.displayError = false) : s.latchDisplayError =
    (s.withDisplayError.postEvent 0x0680 [byte s.withDisplayError.dflags]).postFault 0x0012 :=
  if_neg (by simp [h])

theorem State.latchDisplayError_old (h : s.legal.displayError = true) : s.latchDisplayError = s := if_pos h

theorem State.latchDisplayError_legalRuns (s : State) : s.latchDisplayError.legalRuns = s.legalRuns := by
  cases h : s.legal.displayError
  · rw [State.latchDisplayError_new h, State.postFault_legalRuns, postEvent_frame]
    rfl
  · rw [State.latchDisplayError_old h]

theorem State.latchDisplayError_frame (h : s.legal.displayError = false) :
    s.latchDisplayError.legal = { s.legal with displayError := true, errShown := true, errAt := s.mono } ∧
    s.latchDisplayError.display = s.display ∧ s.latchDisplayError.points = s.points := by
  rw [State.latchDisplayError_new h, State.postFault_frame, postEvent_frame]
  exact ⟨rfl, rfl, rfl⟩

theorem State.latchDisplayError_errorOutputs (s : State) :
    s.latchDisplayError.legal.errorOutputs = s.legal.errorOutputs := by
  cases h : s.legal.displayError
  · rw [(State.latchDisplayError_frame h).1]
  · rw [State.latchDisplayError_old h]

/-- An error of an output of the legal layer outside the display test. -/
theorem State.outputError_legal {o : Nat} (h : s.legalOutput o = true) (hphase : 4 ≤ s.boot.displayPhase) :
    s.outputError o = if (s.legalRuns && !s.legal.errorOutputs.contains o) = true then
      (s.latchDisplayError.logEvent 0x0E 0x01 0xFF (leBytes 2 o)).modLegal (fun l => { l with
        errorOutputs := o :: l.errorOutputs }) else s.latchDisplayError := by
  unfold State.outputError
  dsimp only
  rw [if_neg (by simp [h]), if_neg (c := s.boot.displayPhase ≤ 3) (by omega),
    State.latchDisplayError_legalRuns, State.latchDisplayError_errorOutputs]

/-- An output that the mode drives and that misreads, past ALL_OFF of the display sequence. -/
theorem exec_readbackMismatch_driven {o : Nat} {mv : Int} (hu : s.elapse dt = u) (hd : u.driven o = true)
    (hphase : 2 ≤ u.boot.displayPhase) (hm : u.misreads o mv = true) : exec (.readbackMismatch dt o mv) s =
      .next (if u.display.suspects.any (fun x => x.1 == o && (x.2 + 1) % 4294967296 ==
          u.checkNumber % 4294967296) = true then (u.suspect o u.checkNumber).outputError o
        else u.suspect o u.checkNumber) := by
  rw [exec_readbackMismatch]
  unfold execReadbackMismatch
  dsimp only
  rw [hu, if_neg (by simp [hd, hm]; omega)]

/-- Settles O23: each event by its guard, the ledger by its sums, the error by its latch. -/
theorem driveAndReadbackEvents : Obligations.DriveAndReadbackEvents := by
  refine ⟨⟨?vlcd, ?bounds, ?phase, ?level, railIntegral_full, ?ended, ?record, ?balanced, ?pulse⟩,
    ?reads, ?first, ?second, ?misreads, fun _ _ _ => rfl, fun _ => State.latchDisplayError_old,
    fun _ => State.latchDisplayError_frame⟩
  case vlcd =>
    intro s u dt temp hu
    rw [exec_vlcdUpdate]
    unfold execVlcdUpdate
    dsimp only
    rw [hu]
    simp only [State.modDisplay, Bool.and_eq_true, decide_eq_true_eq]
  case bounds =>
    rintro s temp v rfl
    have h := clampInt_bounds (lo := 2500) (hi := 5400) (by decide)
      ((s.pnumNow 0x4005 : Int) - 2 * s.pnumNow 0x4006 * (temp - 25))
    unfold State.vlcdAt
    refine ⟨by omega, by omega, fun hlo hhi => ?_⟩
    rw [clampInt_inside hlo hhi]
    omega
  case phase =>
    intro s u dt rails e r hu he hend hage hr
    have hsince : u.since e.phaseAt (e.ticks * second / 32768) = true := State.since_iff.mpr hage
    rw [exec_epdPhaseEnd]
    unfold execEpdPhaseEnd
    dsimp only
    rw [hu, he]
    dsimp only
    rw [if_neg (by simp [hend, hsince]), ← hr]
    refine ⟨_, rfl, rfl, ?_, rfl, rfl, fun j hj => ?_⟩
    · simp [State.modAon, length_numbered]
    · exact map_numbered_getD hj
  case level =>
    intro e j phase r b
    unfold EpdUpdate.level
    refine ⟨fun h => ?_, fun h => ?_, fun h => ?_⟩ <;> simp only [h] <;> rfl
  case ended =>
    intro s u dt e hu he hend
    rw [exec_epdUpdateEnd]
    unfold execEpdUpdateEnd
    dsimp only
    rw [hu, he]
    dsimp only
    rw [if_neg (by simp [hend])]
  case record =>
    exact fun s => ⟨_, _, rfl, rfl, rfl, rfl, rfl, rfl⟩
  case balanced =>
    intro s h
    refine if_pos (List.all_eq_true.mpr fun n hn => ?_)
    obtain ⟨l, hl, rfl⟩ := List.mem_map.mp hn
    simp [State.pulseTicks_inside (h l hl)]
  case pulse =>
    intro s h
    rw [State.compensate_of_pulse h]
    exact ⟨_, rfl, rfl, rfl⟩
  case reads =>
    intro s u dt o mv hu h
    rw [exec_readbackMismatch]
    unfold execReadbackMismatch
    dsimp only
    rw [hu, if_pos (by simp [h])]
  case first =>
    intro s u dt o mv hu hd hphase hm hnew
    rw [exec_readbackMismatch_driven hu hd hphase hm, if_neg]
    simpa using fun k hk => hnew (o, k) hk rfl
  case second =>
    rintro s u v dt o k mv hu hd hphase hm hmem hk rfl
    have hany : u.display.suspects.any (fun x => x.1 == o && (x.2 + 1) % 4294967296 ==
        u.checkNumber % 4294967296) = true := List.any_eq_true.mpr ⟨(o, k), hmem, by simp [hk]⟩
    rw [exec_readbackMismatch_driven hu hd (by omega) hm, if_pos hany]
    refine ⟨fun hl => ?_, fun hl hr he => ?_, fun hl he => ?_⟩
    · exact congrArg _ (if_pos (show (!u.legalOutput o) = true by simp [hl]))
    · rw [State.outputError_legal (s := u.suspect o u.checkNumber) hl hphase]
      exact congrArg _ (if_pos (show (u.legalRuns && !u.legal.errorOutputs.contains o) = true by rw [hr, he]; rfl))
    · rw [State.outputError_legal (s := u.suspect o u.checkNumber) hl hphase]
      exact congrArg _ (if_neg (show ¬ (u.legalRuns && !u.legal.errorOutputs.contains o) = true by rw [he]; simp))
  case misreads =>
    intro s o mv hmode hphase hheld
    unfold State.misreads State.outputNow State.displayRests
    have hrests : (decide (s.boot.displayPhase < 1) || s.dispMode == 0 || s.boot.held) = false := by
      simp [hmode, hheld]
      omega
    rw [hrests]
    simp [hmode, show ¬ s.boot.displayPhase < 2 by omega]

end Sys2Proof.Machine
end

section
/-! PROOFS. The display sequence, the keys and the screens of the legal layer (R59, R222, R429, R448, R450). -/

namespace Sys2Proof.Machine

variable {s u : State} {dt : Ticks}

/-- A time that has passed, its length written out. -/
theorem State.since_of {t n m : Nat} (h : t + m ≤ s.mono) (hn : n = m) : s.since t n = true :=
  hn ▸ State.since_iff.mpr h

theorem State.since_eq {t n m : Nat} (hn : n = m) : s.since t n = decide (t + m ≤ s.mono) := hn ▸ rfl

/-! ### The display sequence (R59) -/

/-- The end of a phase of the display sequence, with its test. -/
theorem exec_displaySequencePhaseEnd_over {mismatch : Bool} (hu : s.elapse dt = u) (h : u.sequencePhaseOver = true) :
    exec (.displaySequencePhaseEnd dt mismatch) s =
      let v := if (mismatch && (u.boot.displayPhase == 2 || u.boot.displayPhase == 3)) = true then
        u.failTest.latchDisplayError else u
      .next ((if (decide (u.boot.displayPhase = 3) && !v.display.testFail) = true then
          v.modLegal (fun l => { l with displayError := false, errorOutputs := [], errShown := false })
        else v).modBoot (fun b => { b with displayPhase := u.boot.displayPhase + 1, displayPhaseAt := u.mono })) := by
  rw [exec_displaySequencePhaseEnd]
  unfold execDisplaySequencePhaseEnd
  dsimp only
  rw [hu, if_neg (by simp [h])]

/-- A failed display test stays failed. -/
theorem State.failTest_latchDisplayError_testFail (s : State) :
    s.failTest.latchDisplayError.display.testFail = true := by
  have hfail : s.failTest.display.testFail = true := rfl
  cases h : s.failTest.legal.displayError
  · rw [(State.latchDisplayError_frame h).2.1, hfail]
  · rw [State.latchDisplayError_old h, hfail]

/-! ### Keys (R448) -/

/-- The LC takes a key that goes down. -/
theorem exec_keyPress_down {k : Nat} {second others : Bool} (hu : s.elapse dt = u) (hk : k < 4)
    (hl : u.legalRuns = true) (hup : u.legal.keysDown.getD k false = false)
    (ho : (second || (numbered u.legal.keysDown).any (fun x => x.1 != k && x.2)) = others) :
    exec (.keyPress dt k second) s =
      let v := { u with legal := { u.legal with
        keysDown := setAt u.legal.keysDown k true, keysAt := setAt u.legal.keysAt k u.mono
        keysWait := u.legal.keysWait || others } }
      .next (if (others || u.legal.keysWait) = true then v else v.keyFunction (field (v.param 0x8040) k 1)) := by
  rw [exec_keyPress]
  unfold execKeyPress
  dsimp only
  rw [hu, if_neg (by simp only [hl, hup]; simp; omega), ho]
  rfl

theorem others_down {l : List Bool} {j k : Nat} (hj : j < l.length) (hne : j ≠ k) (hd : l.getD j false = true) :
    (numbered l).any (fun x => x.1 != k && x.2) = true := by
  refine List.any_eq_true.mpr ⟨(j, l.getD j false), ?_, by rw [hd]; simpa using hne⟩
  refine List.mem_of_getElem? (i := j) ?_
  rw [getElem?_numbered]
  simp [List.getD_eq_getElem?_getD, hj]

/-! ### The register list (R429) -/

/-- The LC shows the register list. -/
theorem exec_registerListScreenEnd_shown {l : List (Nat × Nat × Nat)} (hu : s.elapse dt = u) (hl : u.legalRuns = true)
    (hp : u.boot.displayPhase = 5) (hs : u.legal.lcvScreen = 0) (hw : u.wastePoint = none)
    (hlist : u.legal.regList = l) : exec (.registerListScreenEnd dt) s = .next (
      if l = [] then u.modLegal (fun l => { l with
        regList := u.registerList, regValue := false, lowerHalf := false, screenAt := u.mono })
      else if u.legal.regValue = false then (if u.since u.legal.screenAt second = true then
          u.modLegal (fun l => { l with regValue := true, lowerHalf := false, screenAt := u.mono }) else u)
      else if u.since u.legal.screenAt (5 * second) = true then u.modLegal (fun r => { r with
          regList := if l.tail = [] then u.registerList else l.tail
          regValue := false, lowerHalf := false, screenAt := u.mono })
        else u) := by
  rw [exec_registerListScreenEnd]
  unfold execRegisterListScreenEnd
  dsimp only
  rw [hu, if_neg (by simp [hl, hp, hs, hw]), hlist]
  cases l with
  | nil => rfl
  | cons x rest =>
    rw [if_neg (List.cons_ne_nil _ _)]
    cases hv : u.legal.regValue <;> cases rest <;> rfl

/-- Settles O24: each event by its guard. -/
theorem keysAndScreens : Obligations.KeysAndScreens := by
  refine ⟨⟨?goesOn, ?passes, ?fails, fun _ => rfl, ?lengths⟩,
    ⟨?alone, ?waits, fun _ => rfl, ?functions, ?release, ?stuck⟩, ?lcvEnds, ?half, ?value, ?nextEntry, ?again⟩
  case goesOn =>
    intro s u dt hu h hne
    rw [exec_displaySequencePhaseEnd_over hu h]
    exact congrArg (fun r => Host.Outcome.next (State.modBoot r _)) (if_neg (by simp [hne]))
  case passes =>
    intro s u dt hu h heq hpass
    rw [exec_displaySequencePhaseEnd_over hu h]
    refine (congrArg (fun r => Host.Outcome.next (State.modBoot r _)) (if_pos ?_)).trans ?_
    · simp [heq, hpass]
    · rw [heq]
      rfl
  case fails =>
    rintro s u dt k hu h rfl hk
    rw [exec_displaySequencePhaseEnd_over hu h]
    dsimp only
    rw [if_pos (c := (true && (u.boot.displayPhase == 2 || u.boot.displayPhase == 3)) = true) (by simpa using hk),
      if_neg (by rw [State.failTest_latchDisplayError_testFail]; simp)]
  case lengths =>
    intro s hmode
    unfold State.sequencePhaseOver
    refine ⟨fun h => ?_, fun h => ?_, fun h => ?_⟩ <;> simp only [h]
    · simp [hmode, State.since_eq, milli]
    · simp [hmode, State.since_eq, milli]
    · exact State.since_eq rfl
  case alone =>
    intro s u dt k hu hk hl hdown hwait
    have hup : u.legal.keysDown.getD k false = false := by
      rw [hdown]
      interval_cases k <;> rfl
    have hothers : (false || (numbered u.legal.keysDown).any (fun x => x.1 != k && x.2)) = false := by
      rw [hdown]
      simp [numbered, upTo, List.range, List.range.loop]
    rw [exec_keyPress_down hu hk hl hup hothers]
    dsimp only
    rw [if_neg (by simp [hwait]), Bool.or_false]
    rfl
  case waits =>
    intro s u dt k second hu hk hl hup h
    have hbusy : ((second || (numbered u.legal.keysDown).any (fun x => x.1 != k && x.2)) || u.legal.keysWait) =
        true := by
      rcases h with h | h | ⟨j, hj, hne, hd⟩
      · simp [h]
      · simp [h]
      · simp [others_down hj hne hd]
    rw [exec_keyPress_down hu hk hl hup rfl]
    dsimp only
    rw [if_pos hbusy]
    rw [Bool.or_comm u.legal.keysWait, hbusy]
  case functions =>
    intro s m h
    unfold State.keyFunction
    rw [h]
    exact ⟨rfl, rfl, rfl⟩
  case release =>
    intro s u dt k hu hk hl
    rw [exec_keyRelease]
    unfold execKeyRelease
    dsimp only
    rw [hu, if_neg (by simp [hl, hk])]
    rfl
  case stuck =>
    intro s u dt k hu hk hl hd hs hage
    have hsince : u.since (u.legal.keysAt.getD k 0) (60 * second) = true := State.since_of hage rfl
    rw [exec_keyStuck]
    unfold execKeyStuck
    dsimp only
    rw [hu, if_pos (by rw [hl, hd, hs, hsince]; simp [hk])]
  case lcvEnds =>
    intro s u dt hu hl hs hage
    have hsince : u.since u.legal.screenAt (5 * second) = true := State.since_of hage rfl
    rw [exec_showLcvTimeout]
    unfold execShowLcvTimeout
    dsimp only
    rw [hu, if_pos (by simp [hl, hs, hsince])]
    rfl
  case half =>
    intro s u dt hu hl hshown hdigits hlower hage
    have hsince : u.since u.legal.screenAt (2500 * milli) = true := State.since_of hage rfl
    rw [exec_screenHalfSwitch]
    unfold execScreenHalfSwitch
    dsimp only
    rw [hu, if_pos (by simp [hl, hlower, hsince, hdigits, hshown])]
    rfl
  case value =>
    intro s u dt x rest hu hl hp hs hw hlist hv hage
    have hsince : u.since u.legal.screenAt second = true := State.since_of hage rfl
    rw [exec_registerListScreenEnd_shown hu hl hp hs hw hlist, if_neg (List.cons_ne_nil _ _), if_pos hv, if_pos hsince]
    rfl
  case nextEntry =>
    intro s u dt x rest hu hl hp hs hw hlist hv hage
    have hsince : u.since u.legal.screenAt (5 * second) = true := State.since_of hage rfl
    rw [exec_registerListScreenEnd_shown hu hl hp hs hw hlist, if_neg (List.cons_ne_nil _ _), if_neg (by simp [hv]),
      if_pos hsince]
    rfl
  case again =>
    intro s u dt hu hl hp hs hw hlist
    rw [exec_registerListScreenEnd_shown hu hl hp hs hw hlist, if_pos rfl]
    rfl

end Sys2Proof.Machine
end

section
/-! PROOFS. Crypto commands and the contexts that they take (R268, R269, R271, R274, R331). -/

namespace Sys2Proof.Machine

variable {s u : State} {dt : Ticks} {c : Call} {f : InFlight} {p : Bytes}

/-- The lowest context without a job. -/
theorem Crypto.freeContext_spec {c : Crypto} {i : Nat} (h : c.freeContext = some i) :
    i < 4 ∧ c.contexts.getD i none = none ∧ ∀ j < i, c.contexts.getD j none ≠ none := by
  unfold Crypto.freeContext at h
  have hi : i < 4 := mem_upTo.mp (List.mem_of_find?_eq_some h)
  have hfree : (c.contexts.getD i none).isNone = true := List.find?_some (p := fun i => (c.contexts.getD i none).isNone) h
  refine ⟨hi, by simpa using hfree, fun j hj hnone => ?_⟩
  unfold upTo at h
  rw [List.find?_range_eq_some] at h
  have := h.2.2 j hj
  rw [hnone] at this
  simp at this

theorem State.startJob_busy {prio : Nat} {job : CryptoJob} (h : s.crypto.freeContext = none) :
    s.startJob f prio job = s.respond f stBusy [] := by
  unfold State.startJob
  rw [h]
  rfl

theorem State.startJob_free {prio i : Nat} {job : CryptoJob} (h : s.crypto.freeContext = some i) :
    s.startJob f prio job = (s.accept f).openContext i false prio f.call.origin (some f.call) job := by
  unfold State.startJob
  rw [h]

/-- Settles O25: each command past its fields, and the context that it takes. -/
theorem cryptoCommandsTakeAContext : Obligations.CryptoCommandsTakeAContext := by
  refine ⟨⟨?sign, ?verify, ?ecdh, ?keygen, ?random, ?ctxOpen⟩, fun s f prio job =>
    ⟨State.startJob_busy, fun i => State.startJob_free⟩, fun c i => Crypto.freeContext_spec,
    fun s i byLc prio o call job => rfl, ?key⟩
  case sign =>
    intro s u dt c p f h hp hprio hrsv hslot
    obtain rfl := h.time
    exact congrArg _ (h.run _ (by simp [hp, hprio, hrsv, hslot]))
  case verify =>
    intro s u dt c p f h hp hprio hrsv hkey
    exact congrArg _ (h.run _ (by simp [hp, hprio, hrsv, hkey]))
  case ecdh =>
    intro s u dt c p f h hp hrsv hprio hdest hslot hkey hown
    obtain rfl := h.time
    refine (congrArg _ (h.run _ (by simp [hp, hprio, hrsv, hslot, hdest, hkey, hown]))).trans ?_
    simp only [linkSlot, decide_eq_true_eq]
    rfl
  case keygen =>
    intro s u dt c p f h hp hrsv hprio hslot
    refine (congrArg _ (h.run _ (by simp [hp, hprio, hrsv, hslot]))).trans ?_
    simp only [linkSlot, decide_eq_true_eq, Bool.not_eq_true']
    rfl
  case random =>
    intro s u dt c p f h hp hlo hhi
    refine (congrArg _ (h.run _ (by simp [hp, hlo, hhi]))).trans ?_
    simp only [Bool.not_eq_true']
    rfl
  case ctxOpen =>
    intro s u dt c p f h hp hprio hrsv hop job hjob
    obtain rfl := h.time
    have hok : (p.length == 16 && rsv p 3 1 && decide (1 ≤ field p 0 1 ∧ field p 0 1 ≤ 3) && decide (field p 1 1 ≤ 3) &&
        (if field p 0 1 = 1 then field p 2 1 == 0 && rsv p 4 12 else (s.elapse dt).slotType (field p 2 1) [1, 2])) =
        true := by
      rcases hop with ⟨h1, h2, h3⟩ | ⟨h1 | h1, h2⟩ <;> simp only [hp, hprio, hrsv, h1, h2] <;> simp
      exact h3
    constructor
    · intro hfree
      refine (congrArg _ (h.run _ hok)).trans ?_
      simp only [hfree]
      rfl
    · intro i hfree
      refine (congrArg _ (h.run _ hok)).trans ?_
      simp only [hfree, ← hjob]
      rfl
  case key =>
    intro s n k digest h
    unfold State.jobKey
    simp [CryptoJob.keyOf, h]

end Sys2Proof.Machine
end

section
/-! PROOFS. Crypto jobs and what their commands answer, and the key slots (R268 to R274, R331, Table 12.10). -/

namespace Sys2Proof.Machine

variable {s u : State} {dt : Ticks} {c : Call} {f : InFlight} {p : Bytes} {i : Nat} {x : Context}

/-! ### One-shot jobs (R268) -/

/-- A one-shot job of the AC ends: its context is free, and its command is answered. -/
theorem exec_cryptoJobComplete_ac {t : State} {st : Nat} {b : Bytes} (hu : s.elapse dt = u)
    (hx : u.crypto.contexts.getD i none = some x) (hac : x.byLc = false) (hcall : x.call = some c)
    (hf : u.accepted c x.job.opcode = some f) (hwork : u.work x.key x.job = (st, b, t))
    (hcontexts : t.crypto.contexts = u.crypto.contexts) (hhawk : t.hawk = u.hawk) :
    exec (.cryptoJobComplete dt i) s = .next ((t.modCrypto (fun k => { k.place i none with
      lastSuspensions := x.suspensions })).respond f st b) := by
  have hx' : t.crypto.contexts.getD i none = some x := hcontexts ▸ hx
  have hf' : ((t.modCrypto (fun k => k.place i none)).modCrypto (fun c => { c with
      lastSuspensions := x.suspensions })).accepted c x.job.opcode = some f := by
    rw [← hf]
    unfold State.accepted
    rw [show ((t.modCrypto (fun k => k.place i none)).modCrypto (fun c => { c with
      lastSuspensions := x.suspensions })).hawk = t.hawk from rfl, hhawk]
  rw [exec_cryptoJobComplete]
  unfold execCryptoJobComplete
  dsimp only
  rw [hu, hx]
  dsimp only
  rw [if_neg (by simp [hac]), if_neg (by simp [hcall]), hwork, closeContext_ac t i x hx' hac]
  unfold State.completeJob
  dsimp only
  rw [hcall]
  dsimp only [Option.bind]
  rw [hf']
  rfl

section
variable (s)

theorem State.putKey_contexts (n : Nat) (k : Option KeySlot) :
    (s.putKey n k).crypto.contexts = s.crypto.contexts := rfl
theorem State.putKey_hawk (n : Nat) (k : Option KeySlot) : (s.putKey n k).hawk = s.hawk := rfl
theorem State.drbgBytes_contexts (n : Nat) : (s.drbgBytes n).2.crypto.contexts = s.crypto.contexts := rfl
theorem State.drbgBytes_hawk (n : Nat) : (s.drbgBytes n).2.hawk = s.hawk := rfl
theorem State.reseed_contexts : s.reseed.crypto.contexts = s.crypto.contexts := rfl
theorem State.reseed_hawk : s.reseed.hawk = s.hawk := rfl

end

/-- KEYGEN with seed material. -/
theorem State.work_keygen {key : Bytes} {n : Nat} (hs : u.crypto.seeded = true) : u.work key (.keygen n) =
    (stDone, ecPublic (beNat (u.reseed.drbgBytes 48).1 % (p256N - 1) + 1), (u.reseed.drbgBytes 48).2.putKey n
      (some ⟨3, beBytes 32 (beNat (u.reseed.drbgBytes 48).1 % (p256N - 1) + 1)⟩)) := by
  simp only [State.work, hs, Bool.not_true, Bool.false_eq_true, if_false]

theorem State.work_random {key : Bytes} {n : Nat} (hs : u.crypto.seeded = true) : u.work key (.random n) =
    (stDone, (u.drbgBytes n).1, (u.drbgBytes n).2) := by
  simp only [State.work, hs, Bool.not_true, Bool.false_eq_true, if_false]

theorem p256N_scalar (n : Nat) : 1 ≤ n % (p256N - 1) + 1 ∧ n % (p256N - 1) + 1 < p256N := by
  have h : 0 < p256N - 1 := by decide
  have hlt := Nat.mod_lt n h
  omega

/-! ### Contexts of the LC (R270) -/

theorem closeContext_lc (hx : s.crypto.contexts.getD i none = some x) (hlc : x.byLc = true) :
    (s.crypto.saved = [] → s.closeContext i = s.modCrypto (fun k => k.place i none)) ∧
    ∀ y, s.crypto.saved = [y] → s.closeContext i = s.modCrypto (fun k => { k.place i (some y) with saved := [] }) := by
  unfold State.closeContext State.modCrypto
  rw [hx]
  dsimp only
  rw [if_pos hlc]
  refine ⟨fun h => ?_, fun y h => ?_⟩
  · have hnext : s.crypto.nextSaved = none := by simp [Crypto.nextSaved, h]
    rw [hnext]
  · have hnext : s.crypto.nextSaved = some y := by simp [Crypto.nextSaved, h]
    rw [hnext]
    simp [h]

/-! ### Streamed jobs (R269, R273) -/

theorem State.streamOf_call {o : Origin} {n : Nat} (h : u.streamOf o n = some x) : x.call = none := by
  unfold State.streamOf at h
  cases hj : u.crypto.jobOf n with
  | none => simp [hj] at h
  | some y =>
    rw [hj, Option.bind_some] at h
    split at h
    · rename_i hy
      cases h
      simpa using hy.2
    · cases h

/-- A streamed job has no command of its own that its end would answer. -/
theorem State.completeJob_stream {st : Nat} {b : Bytes} (h : x.call = none) :
    u.completeJob x st b = u.modCrypto (fun k => { k with lastSuspensions := x.suspensions }) := by
  unfold State.completeJob
  dsimp only
  rw [h]
  rfl

/-- CTX_FINAL of a running stream of its route. -/
theorem exec_ctxFinal_stream {len room : Nat} {st : Nat} {b : Bytes} (h : Serves s dt u c 0x0905 p room f)
    (hx : u.streamOf c.origin (field p 0 1) = some x) (hi : u.crypto.whereIs (field p 0 1) = some i)
    (hrsv : rsv p 1 3 = true) (hform : x.job.finalForm = (len, room)) (hp : p.length = len)
    (hend : x.job.finish x.key (p.drop 4) = (st, b)) : exec (.ctxFinal dt c p) s =
      .next (State.respond (if st = stInvalid then ((u.closeContext i).modCrypto (fun k =>
        { k with lastSuspensions := x.suspensions })).zeroBuffer f room
      else (u.closeContext i).modCrypto (fun k => { k with lastSuspensions := x.suspensions })) f st b) := by
  have hu := h.time
  rw [exec_ctxFinal]
  unfold execCtxFinal
  dsimp only
  rw [hu, hx]
  dsimp only
  rw [hi]
  dsimp only
  rw [hform]
  dsimp only
  rw [← hu, h.run _ (by simp [hp, hrsv]), hend]
  dsimp only
  rw [State.completeJob_stream (State.streamOf_call hx), hu]
  rfl

/-- Settles O26: a one-shot job by what its work gives, a streamed one by its form and its finish. -/
theorem cryptoJobsComplete : Obligations.CryptoJobsComplete := by
  refine ⟨⟨?oneShot, ?ofLc⟩, ?update, ?hash, ?final, ?abort⟩
  case oneShot =>
    rintro s u dt i c x op f hu hx hac hcall rfl hf
    refine ⟨fun n d hj hd => ?_, fun q d r g hj => ?_, fun n dest q hj hd => ?_, fun n hj hs => ?_, fun n hj hs => ?_⟩
    · exact exec_cryptoJobComplete_ac hu hx hac hcall hf (by simp only [hj, State.work, if_pos hd]) rfl rfl
    · exact exec_cryptoJobComplete_ac hu hx hac hcall hf (by simp only [hj, State.work]) rfl rfl
    · exact exec_cryptoJobComplete_ac hu hx hac hcall hf (by simp only [hj, State.work, if_pos hd])
        (State.putKey_contexts ..) (State.putKey_hawk ..)
    · obtain ⟨hlo, hhi⟩ := p256N_scalar (beNat (u.reseed.drbgBytes 48).1)
      have hwork := State.work_keygen (key := x.key) (n := n) hs
      rw [← hj] at hwork
      refine ⟨_, _, hlo, hhi, rfl, exec_cryptoJobComplete_ac hu hx hac hcall hf hwork ?_ ?_⟩
      · rw [State.putKey_contexts, State.drbgBytes_contexts, State.reseed_contexts]
      · rw [State.putKey_hawk, State.drbgBytes_hawk, State.reseed_hawk]
    · have hwork := State.work_random (key := x.key) (n := n) hs
      rw [← hj] at hwork
      exact exec_cryptoJobComplete_ac hu hx hac hcall hf hwork (State.drbgBytes_contexts ..) (State.drbgBytes_hawk ..)
  case ofLc =>
    intro s u dt i x hu hx hlc
    refine ⟨?_, closeContext_lc hx hlc⟩
    rw [exec_cryptoJobComplete]
    unfold execCryptoJobComplete
    dsimp only
    rw [hu, hx]
    exact congrArg _ (if_pos hlc)
  case update =>
    intro s u dt c p f x job h hp hpart hrsv hx hfeed
    have hu := h.time
    rw [exec_ctxUpdate]
    unfold execCtxUpdate
    dsimp only
    rw [hu, hx]
    dsimp only
    rw [hfeed]
    refine ⟨fun hi => ?_, fun i hi => ?_⟩
    · rw [hi]
    · have hok : (decide (4 ≤ p.length) && rsv p 2 2 && decide (field p 1 1 ≤ 1)) = true := by simp [hp, hpart, hrsv]
      rw [hi]
      dsimp only
      rw [← hu, h.run _ hok, hu]
      rfl
  case hash =>
    intro d data h
    exact if_pos ⟨rfl, by rw [List.length_append]; exact h⟩
  case final =>
    intro s u dt c p i n f x iv a t b hx hi hrsv
    refine ⟨fun d hj h hp => ?_, fun hj h hp => ?_, fun hj h hp htag => ?_, fun hj h hp htag => ?_⟩
    · rw [exec_ctxFinal_stream (st := stDone) (b := sha256 d) h hx hi hrsv (by rw [hj]; rfl) hp
        (by simp only [hj, CryptoJob.finish]), if_neg (by decide)]
    · rw [exec_ctxFinal_stream (st := stDone) (b := gcmTag x.key iv a (gcmCrypt x.key iv t)) h hx hi hrsv (by rw [hj]; rfl) hp
        (by simp only [hj, CryptoJob.finish]), if_neg (by decide)]
    · rw [exec_ctxFinal_stream (st := stDone) (b := gcmCrypt x.key iv t) h hx hi hrsv (by rw [hj]; rfl) hp
        (by simp only [hj, CryptoJob.finish, if_pos htag]), if_neg (by decide)]
    · rw [exec_ctxFinal_stream (st := stInvalid) (b := []) h hx hi hrsv (by rw [hj]; rfl) hp
        (by simp only [hj, CryptoJob.finish, if_neg htag]), if_pos rfl]
  case abort =>
    intro s u dt c p f x h hp hx hown
    obtain rfl := h.time
    have hok : (p.length == 1 && x.owner == c.origin) = true := by simp [hp, hown]
    rw [exec_ctxAbort]
    unfold execCtxAbort
    dsimp only
    rw [hx]
    dsimp only
    rw [h.run _ hok, hx]
    rfl

/-- Settles O27: each command by its fields, and a slot by `getD` of the list that `setAt` changes. -/
theorem keySlotsAreLoadedAndErased : Obligations.KeySlotsAreLoadedAndErased := by
  have hshut (u : State) (n : Nat) (h : n ≤ 2 ∨ (n ≤ 15 ∧ u.slotHeld n = true)) :
      (linkSlot n || u.slotHeld n) = true ∧ n ≤ 15 := by
    rcases h with h | ⟨h, hh⟩
    · exact ⟨by simp [linkSlot, h], by omega⟩
    · exact ⟨by simp [hh], h⟩
  have hopen (u : State) (n : Nat) (h : 3 ≤ n) (hh : u.slotHeld n = false) :
      ¬ (linkSlot n || u.slotHeld n) = true := by
    simp [linkSlot, hh]
    omega
  refine ⟨?load, ?loadShut, ?erase, ?eraseShut, ?status, ?slots⟩
  case load =>
    intro s u dt c p f h hp hrsv hlo hhi hform hheld
    refine (congrArg _ (h.run _ (by simp [hp, hrsv, hhi, hform]))).trans ?_
    exact congrArg _ ((if_neg (hopen u _ hlo hheld)).trans rfl)
  case loadShut =>
    intro s u dt c p f h hp hrsv hform hn
    obtain ⟨hs, hle⟩ := hshut u _ hn
    refine (congrArg _ (h.run _ (by simp [hp, hrsv, hle, hform]))).trans ?_
    exact congrArg _ (if_pos hs)
  case erase =>
    intro s u dt c p f h hp hlo hhi hheld
    refine (congrArg _ (h.run _ (by simp [hp, hhi]))).trans ?_
    exact congrArg _ (if_neg (hopen u _ hlo hheld))
  case eraseShut =>
    intro s u dt c p f h hp hn
    obtain ⟨hs, hle⟩ := hshut u _ hn
    refine (congrArg _ (h.run _ (by simp [hp, hle]))).trans ?_
    exact congrArg _ (if_pos hs)
  case status =>
    rintro s u dt c p f h rfl
    obtain rfl := h.time
    exact congrArg _ (h.run _ rfl)
  case slots =>
    intro s n k hn
    unfold State.keySlot State.putKey setAt
    refine ⟨?_, fun m hm => ?_⟩ <;> simp [State.modCrypto, List.getD_eq_getElem?_getD, hn, List.getElem?_set]
    rw [if_neg (Ne.symm hm)]

end Sys2Proof.Machine
end

section
/-! PROOFS. The contexts of the LC and the entropy source (R269, R270, R274, R275). -/

namespace Sys2Proof.Machine

variable {s u : State} {dt : Ticks} {i : Nat} {x : Context}

/-! ### The victim of a pre-emption (R270) -/

theorem Context.victimBefore_iff {a b : Context} : a.victimBefore b = true ↔ a.prio < b.prio ∨ a.prio = b.prio ∧
    ((a.job.ecc = false ∧ b.job.ecc = true) ∨ (a.job.ecc = b.job.ecc ∧ b.opened < a.opened)) := by
  simp [Context.victimBefore]

theorem Context.victimBefore_irrefl (a : Context) : a.victimBefore a = false := by
  rw [Bool.eq_false_iff, ne_eq, Context.victimBefore_iff]
  cases a.job.ecc <;> simp

/-- The order is total up to ties: what does not come before does so through every third context. -/
theorem Context.not_victimBefore_trans {a b c : Context} (hab : a.victimBefore b = false)
    (hbc : b.victimBefore c = false) : a.victimBefore c = false := by
  rw [Bool.eq_false_iff, ne_eq, Context.victimBefore_iff] at *
  cases ha : a.job.ecc <;> cases hb : b.job.ecc <;> cases hc : c.job.ecc <;> simp [ha, hb, hc] at * <;> omega

theorem Context.victimBefore_asymm {a b : Context} (h : a.victimBefore b = true) : b.victimBefore a = false := by
  by_contra hba
  rw [Bool.not_eq_false, Context.victimBefore_iff] at *
  cases ha : a.job.ecc <;> cases hb : b.job.ecc <;> simp [ha, hb] at * <;> omega

/-- The better of a context and the best so far. -/
def betterVictim (acc : Option (Nat × Context)) (x : Nat × Context) : Option (Nat × Context) :=
  match acc with
  | none => some x
  | some y => if x.2.victimBefore y.2 then some x else some y

/-- The contexts that an AC job holds. -/
def Crypto.heldByAc (c : Crypto) : List (Nat × Context) :=
  (upTo 4).filterMap (fun i => (c.contexts.getD i none).bind (fun x => if x.byLc then none else some (i, x)))

theorem Crypto.victim_eq (c : Crypto) : c.victim = (c.heldByAc.foldl betterVictim none).map (·.1) := rfl

theorem Crypto.mem_heldByAc {c : Crypto} {j : Nat} {y : Context} : (j, y) ∈ c.heldByAc ↔
    j < 4 ∧ c.contexts.getD j none = some y ∧ y.byLc = false := by
  simp only [Crypto.heldByAc, List.mem_filterMap, mem_upTo, Option.bind_eq_some_iff]
  constructor
  · rintro ⟨k, hk, z, hz, h⟩
    split at h
    · cases h
    · rename_i hb
      cases h
      exact ⟨hk, hz, by simpa using hb⟩
  · rintro ⟨hj, hy, hb⟩
    exact ⟨j, hj, y, hy, by simp [hb]⟩

/-- The fold ends with one of what it has seen, before which none of it comes. -/
theorem foldl_betterVictim {l : List (Nat × Context)} {acc : Option (Nat × Context)} {x : Nat × Context}
    (h : l.foldl betterVictim acc = some x) :
    (x ∈ l ∨ acc = some x) ∧ ∀ z, z ∈ l ∨ acc = some z → z.2.victimBefore x.2 = false := by
  induction l generalizing acc with
  | nil =>
    have hx : acc = some x := h
    refine ⟨.inr hx, fun z hz => ?_⟩
    rcases hz with hz | hz
    · cases hz
    · cases hx.symm.trans hz
      exact Context.victimBefore_irrefl _
  | cons a l ih =>
    obtain ⟨hmem, hmin⟩ := ih h
    cases acc with
    | none =>
      have hax : a.2.victimBefore x.2 = false := hmin a (.inr rfl)
      refine ⟨.inl ?_, fun z hz => ?_⟩
      · rcases hmem with hm | hm
        · exact List.mem_cons_of_mem _ hm
        · cases hm
          exact List.mem_cons_self
      · rcases hz with hz | hz
        · rcases List.mem_cons.mp hz with rfl | hz
          · exact hax
          · exact hmin z (.inl hz)
        · cases hz
    | some y =>
      have hacc : betterVictim (some y) a = if a.2.victimBefore y.2 = true then some a else some y := rfl
      rw [hacc] at hmem hmin
      have hboth : a.2.victimBefore x.2 = false ∧ y.2.victimBefore x.2 = false := by
        by_cases hay : a.2.victimBefore y.2 = true
        · rw [if_pos hay] at hmin
          have hax := hmin a (.inr rfl)
          exact ⟨hax, Context.not_victimBefore_trans (Context.victimBefore_asymm hay) hax⟩
        · rw [if_neg hay] at hmin
          have hyx := hmin y (.inr rfl)
          exact ⟨Context.not_victimBefore_trans (by simpa using hay) hyx, hyx⟩
      refine ⟨?_, fun z hz => ?_⟩
      · rcases hmem with hm | hm
        · exact .inl (List.mem_cons_of_mem _ hm)
        · split at hm
          · cases hm
            exact .inl List.mem_cons_self
          · exact .inr hm
      · rcases hz with hz | hz
        · rcases List.mem_cons.mp hz with rfl | hz
          · exact hboth.1
          · exact hmin z (.inl hz)
        · cases hz
          exact hboth.2

theorem Crypto.victim_spec {c : Crypto} {j : Nat} {y : Context} (hv : c.victim = some i)
    (hx : c.contexts.getD i none = some x) (hj : j < 4) (hy : c.contexts.getD j none = some y) (hb : y.byLc = false) :
    x.byLc = false ∧ y.victimBefore x = false := by
  rw [Crypto.victim_eq, Option.map_eq_some_iff] at hv
  obtain ⟨⟨k, z⟩, hz, rfl⟩ := hv
  obtain ⟨hmem, hmin⟩ := foldl_betterVictim hz
  simp only [reduceCtorEq, or_false, Crypto.mem_heldByAc] at hmem
  obtain ⟨-, hk, hlc⟩ := hmem
  cases hx.symm.trans hk
  exact ⟨hlc, hmin (j, y) (.inl (Crypto.mem_heldByAc.mpr ⟨hj, hy, hb⟩))⟩

/-! ### The entropy source (R274) -/

theorem NoiseTests.run_cons (t : NoiseTests) (b : Bool) (l : List Bool) :
    (t.run_ (b :: l)).2 ≠ none ↔ ((t.feed b).2.1 = true ∨ (t.feed b).2.2 = true ∨ ((t.feed b).1.run_ l).2 ≠ none) := by
  rw [NoiseTests.run_]
  rcases t.feed b with ⟨v, r, a⟩
  cases r <;> cases a <;> simp

/-- A run of identical bits that reaches the cutoff fails. -/
theorem NoiseTests.run_replicate {b : Bool} {k : Nat} (t : NoiseTests) (hk : 0 < k) (hlast : t.last = b)
    (hrun : t.run ≠ 0) (h : 41 ≤ t.run + k) : (t.run_ (List.replicate k b)).2 ≠ none := by
  induction k generalizing t with
  | zero => omega
  | succ k ih =>
    have hfeed : (t.feed b).1.run = t.run + 1 := if_pos ⟨hrun, hlast⟩
    rw [List.replicate_succ, NoiseTests.run_cons]
    by_cases hcut : 41 ≤ t.run + 1
    · exact .inl (decide_eq_true (show 41 ≤ (t.feed b).1.run by omega))
    · exact .inr (.inr (ih _ (by omega) rfl (by omega) (by omega)))

theorem NoiseTests.feed_run_ne (t : NoiseTests) (b : Bool) : (t.feed b).1.run ≠ 0 := by
  have h : (t.feed b).1.run = if t.run ≠ 0 ∧ t.last = b then t.run + 1 else 1 := rfl
  rw [h]
  split <;> omega

/-- What a failed source leaves, beside the jobs that waited for it. -/
def State.entropyState (s : State) : Bool × Bool × Nat × Nat × Bool × List (Option KeySlot) × Legal :=
  (s.crypto.seeded, s.crypto.entropyFail, s.crypto.fails, s.crypto.failedAt, s.crypto.latched, s.crypto.slots, s.legal)

theorem State.closeContext_entropyState (s : State) (i : Nat) : (s.closeContext i).entropyState = s.entropyState := by
  unfold State.closeContext
  extract_lets byLc
  unfold State.modCrypto State.entropyState
  dsimp only
  split <;> rfl

theorem State.dropJob_entropyState (s : State) (n : Nat) : (s.dropJob n).entropyState = s.entropyState := by
  unfold State.dropJob
  split
  · exact s.closeContext_entropyState _
  · rfl

theorem State.completeJob_entropyState (s : State) (x : Context) (st : Nat) (b : Bytes) :
    (s.completeJob x st b).entropyState = s.entropyState := by
  unfold State.completeJob
  dsimp only
  split
  · rfl
  · unfold State.entropyState
    rw [State.respond_crypto, State.respond_legal]
    rfl

theorem State.entropyFailed_entropyState (s : State) : s.entropyFailed.entropyState =
    (false, true, min 255 (s.crypto.fails + 1), s.mono, s.crypto.latched || decide (2 ≤ s.crypto.fails),
      s.crypto.slots, s.legal) := by
  have hfold (l : List Context) (r : State) : (l.foldl (fun s x => (s.dropJob x.number).completeJob x stEntropyFail [])
      r).entropyState = r.entropyState :=
    foldl_keeps (fun r x => by rw [State.completeJob_entropyState, State.dropJob_entropyState]) l r
  have hann (r : State) : r.holdPorts.announceEntropy.entropyState = r.entropyState := by
    unfold State.announceEntropy
    rw [State.announce_frame]
    rfl
  have hpost (r : State) : (r.postFault 0x0011).entropyState = r.entropyState := by
    rw [State.postFault_frame]
    rfl
  unfold State.entropyFailed
  dsimp only
  split
  · rw [hpost, hann, hfold]
    rfl
  · rw [hann, hfold]
    rfl

theorem State.countTrip_eq (s : State) (rct : Bool) : s.countTrip rct = s.modCrypto (fun c => { c with
    rctTrips := if rct then min 0xFFFFFFFF (c.rctTrips + 1) else min 0xFFFFFFFF c.rctTrips
    aptTrips := if rct then min 0xFFFFFFFF c.aptTrips else min 0xFFFFFFFF (c.aptTrips + 1) }) := by
  cases rct <;> rfl

/-- Settles O28: the victim as a minimum of the fold, the tests by their runs, the events by their guards. -/
theorem lcContextsAndTheEntropySource : Obligations.LcContextsAndTheEntropySource := by
  refine ⟨⟨?free, ?preempt, ?full, ?victim⟩, ?health, ?repeated, State.countTrip_eq, ?failed, ?restart, ?latched,
    ?reseed⟩
  case free =>
    intro s u dt i hu hl hc hi
    rw [exec_cryptoPreempt]
    unfold execCryptoPreempt
    dsimp only
    rw [hu, if_neg (by simp [hl]; omega), hi]
  case preempt =>
    intro s u dt i x hu hl hc hfree hv hx
    rw [exec_cryptoPreempt]
    unfold execCryptoPreempt
    dsimp only
    rw [hu, if_neg (by simp [hl]; omega), hfree, hv]
    dsimp only
    rw [hx]
  case full =>
    intro s u dt hu hc
    rw [exec_cryptoPreempt]
    unfold execCryptoPreempt
    dsimp only
    rw [hu, if_pos (by simp [hc])]
  case victim =>
    intro c i j x y hv hx hj hy hb
    obtain ⟨hlc, hbefore⟩ := Crypto.victim_spec hv hx hj hy hb
    rw [Bool.eq_false_iff, ne_eq, Context.victimBefore_iff] at hbefore
    refine ⟨hlc, by omega, fun heq hye => ?_⟩
    by_contra hxe
    exact hbefore (.inr ⟨heq.symm, .inl ⟨hye, by simpa using hxe⟩⟩)
  case health =>
    intro s u dt bits hu hs
    rw [exec_entropyHealthFail]
    unfold execEntropyHealthFail State.feedNoise
    dsimp only
    rw [hu, if_neg (by simp [hs])]
    refine ⟨fun h => ?_, fun rct h => ?_⟩ <;> rw [h]
  case repeated =>
    intro t b
    rw [List.replicate_succ, NoiseTests.run_cons]
    have hne := t.feed_run_ne b
    exact .inr (.inr (NoiseTests.run_replicate _ (by omega) rfl hne (by omega)))
  case failed =>
    intro s
    have h := s.entropyFailed_entropyState
    simp only [State.entropyState, Prod.mk.injEq] at h
    tauto
  case restart =>
    rintro s u v dt noise hu hs hf hl hage rfl
    have hsince : u.since u.crypto.failedAt second = true := State.since_of hage rfl
    rw [exec_entropySourceRestart]
    unfold execEntropySourceRestart State.runStartTests
    dsimp only
    generalize startTests noise = t
    rw [hu, if_neg (by simp [hs, hf, hl, hsince])]
    refine ⟨fun h hports => ?_, fun rct h => ?_⟩ <;> rw [h]
    dsimp only
    rw [List.filter_eq_nil_iff.mpr]
    · rfl
    · intro i hi
      exact fun h5 => hports i (mem_upTo.mp hi) (beq_iff_eq.mp h5)
  case latched =>
    intro s u dt noise hu hl
    rw [exec_entropySourceRestart]
    unfold execEntropySourceRestart State.runStartTests
    dsimp only
    generalize startTests noise = t
    rw [hu, if_pos (by simp [hl])]
  case reseed =>
    intro s u dt hu hs hdue
    refine ⟨?_, rfl, rfl, rfl, rfl, rfl, rfl⟩
    rw [exec_drbgReseed]
    unfold execDrbgReseed
    dsimp only
    rw [hu, if_pos]
    rw [hs, Bool.true_and, Bool.or_eq_true]
    rcases hdue with h | h
    · exact .inl (decide_eq_true h)
    · exact .inr (State.since_of h rfl)

end Sys2Proof.Machine
end

section
/-! PROOFS. The reads of observation (Tables 12.10, 12.11, R205, R332, R334, R525). -/

namespace Sys2Proof.Machine

variable {s u : State} {dt : Ticks} {c : Call} {f : InFlight} {p : Bytes}

/-! ### M-Bus meters (R334) -/

/-- The entry of MBUS_LIST for a meter whose state is `st` and age is `age`. -/
def meterEntry (s : State) (i st age : Nat) : Bytes :=
  [byte i, byte st, byte (s.mbusPrimary i), 0] ++ slice (s.mbusEntry i) 4 8 ++ leBytes 4 age

theorem State.mbusState_settled {i : Nat} (h : s.mbusMode i = 0 ∨ (s.mbusRun i).responding.isSome = true) :
    s.mbusState i = (if s.mbusMode i = 0 then 0 else if (s.mbusRun i).responding = some true then 1 else 2, s) := by
  unfold State.mbusState
  by_cases h0 : s.mbusMode i = 0
  · rw [if_pos h0, if_pos h0]
  · rw [if_neg h0, if_neg h0]
    obtain ⟨r, hr⟩ := Option.isSome_iff_exists.mp (h.resolve_left h0)
    rw [hr]
    cases r <;> rfl

theorem State.mbusAge_known {i t : Nat} (h : (s.mbusRun i).lastOk = some t) :
    s.mbusAge i = (min 4294967295 ((s.mono - t) / 1000000000), s) := by
  unfold State.mbusAge
  rw [h]
  rfl

/-- The state of an entry, settled or not: 0 without a mode, else 1 or 2. -/
theorem State.mbusState_cases (s : State) (i : Nat) : ∃ n, (s.mbusState i).2 = { s with free := n } ∧
    (s.mbusMode i = 0 → (s.mbusState i).1 = 0) ∧
    (s.mbusMode i ≠ 0 → (s.mbusState i).1 = 1 ∨ (s.mbusState i).1 = 2) := by
  unfold State.mbusState
  by_cases h0 : s.mbusMode i = 0
  · rw [if_pos h0]
    exact ⟨s.free, rfl, fun _ => rfl, fun h => absurd h0 h⟩
  · rw [if_neg h0]
    cases (s.mbusRun i).responding with
    | some r => exact ⟨s.free, rfl, fun h => absurd h h0, fun _ => by cases r <;> simp⟩
    | none =>
      refine ⟨s.free + 1, rfl, fun h => absurd h h0, fun _ => ?_⟩
      have hlt := (s.drawFree 1).1.isLt
      dsimp only
      omega

/-- The age of an entry, known or open. -/
theorem State.mbusAge_cases (s : State) (i : Nat) : ∃ n, (s.mbusAge i).2 = { s with free := n } ∧
    ∀ t, (s.mbusRun i).lastOk = some t → (s.mbusAge i).1 = min 4294967295 ((s.mono - t) / 1000000000) := by
  unfold State.mbusAge
  cases (s.mbusRun i).lastOk with
  | none => exact ⟨s.free + 1, rfl, fun t ht => by cases ht⟩
  | some t => exact ⟨s.free, rfl, fun t' ht => by cases ht; rfl⟩

/-- The list of settled meters, from any bytes on. -/
theorem foldl_listMeter {l : List Nat} {b : Bytes} (h : ∀ i ∈ l, (u.mbusRun i).lastOk.isSome = true ∧
    (u.mbusMode i = 0 ∨ (u.mbusRun i).responding.isSome = true)) :
    l.foldl listMeter (u, b) = (u, b ++ l.flatMap (fun i => meterEntry u i
      (if u.mbusMode i = 0 then 0 else if (u.mbusRun i).responding = some true then 1 else 2)
      (min 4294967295 ((u.mono - (u.mbusRun i).lastOk.getD 0) / 1000000000)))) := by
  induction l generalizing b with
  | nil => simp
  | cons i l ih =>
    obtain ⟨hage, hstate⟩ := h i List.mem_cons_self
    obtain ⟨t, ht⟩ := Option.isSome_iff_exists.mp hage
    have hstep : listMeter (u, b) i = (u, b ++ meterEntry u i
        (if u.mbusMode i = 0 then 0 else if (u.mbusRun i).responding = some true then 1 else 2)
        (min 4294967295 ((u.mono - (u.mbusRun i).lastOk.getD 0) / 1000000000))) := by
      unfold listMeter meterEntry
      dsimp only
      rw [State.mbusState_settled hstate]
      dsimp only
      rw [State.mbusAge_known ht, ht]
      simp
    rw [List.foldl_cons, hstep, ih fun j hj => h j (List.mem_cons_of_mem _ hj), List.flatMap_cons, List.append_assoc]

/-! ### The separation test (R205) -/

/-- What an attempt that is blocked leaves: everything but the log, its delivery and the count. -/
theorem State.blocked_frame (s : State) (row : Nat) : s.blocked row = { s with
    legal := (s.blocked row).legal, gate := (s.blocked row).gate } := by
  unfold State.blocked State.logEvent
  rw [State.logAt_frame]
  rfl

/-- What the separation test must not reach. -/
def State.separated (s : State) := (s.mem, s.points, s.params, s.aon, s.channels, s.legal.calStore, s.legal.sealLog)

theorem State.blocked_separated (s : State) (row : Nat) : (s.blocked row).separated = s.separated := by
  unfold State.separated
  rw [State.blocked_frame]
  dsimp only
  unfold State.blocked State.logEvent
  rw [State.logAt_legal]
  rfl

theorem State.blocked_sepFaults (s : State) (row : Nat) :
    (s.blocked row).legal.sepFaults = min 4294967295 (s.legal.sepFaults + 1) := by
  unfold State.blocked State.logEvent
  rw [State.logAt_legal]
  rfl

theorem foldl_blocked_sepFaults (l : List Nat) (s : State) (h : l ≠ []) :
    (l.foldl (fun s k => s.blocked (k + 1)) s).legal.sepFaults = min 4294967295 (s.legal.sepFaults + l.length) := by
  induction l generalizing s with
  | nil => exact absurd rfl h
  | cons k l ih =>
    rw [List.foldl_cons]
    by_cases hl : l = []
    · subst hl
      exact State.blocked_sepFaults s _
    · rw [ih _ hl, State.blocked_sepFaults, List.length_cons]
      omega

/-- Settles O29: each read past its fields. -/
theorem observationCommandsAnswer : Obligations.ObservationCommandsAnswer := by
  refine ⟨?cert, ?diag, ?noReply, ?reply, ?list, ?listOne, ?separation⟩
  case cert =>
    intro s u dt c p f h hp hw hrsv der hder hoff
    have hok : (p.length == 4 && rsv p 1 1 && decide (field p 0 1 ≤ 5)) = true := by simp [hp, hrsv, hw]
    rw [exec_readCert]
    unfold execReadCert
    dsimp only
    rw [← hder, h.run _ hok, if_neg (by omega)]
    rfl
  case diag =>
    intro s u dt c p f h hp hlo hhi
    have hok : (p.length == 4 && decide (1 ≤ field p 2 2) && decide (field p 2 2 ≤ 1020) &&
        decide (field p 0 2 + field p 2 2 ≤ 1020)) = true := by
      simp [hp, hlo, hhi]
      omega
    exact congrArg _ (h.run _ hok)
  case noReply =>
    intro s u dt c p f h hp hi hraw
    obtain rfl := h.time
    refine (congrArg _ (h.run _ (by simp [hp, hi]))).trans ?_
    rw [hraw]
    rfl
  case reply =>
    intro s u dt c p raw f t h hp hi hraw ht
    obtain rfl := h.time
    refine (congrArg _ (h.run _ (by simp [hp, hi]))).trans ?_
    rw [hraw, ht]
    rfl
  case list =>
    intro s u dt c p f h hp hlo hhi hsettled
    refine (congrArg _ (h.run _ (by simp [hp, hlo, hhi]))).trans ?_
    dsimp only
    rw [foldl_listMeter, List.nil_append, List.flatMap_map]
    · rfl
    · intro i hi
      obtain ⟨k, hk, rfl⟩ := List.mem_map.mp hi
      have := mem_upTo.mp hk
      exact hsettled _ (by omega) (by omega)
  case listOne =>
    intro s u dt c p f i h hp hi hone hlt
    have hok : (p.length == 2 && decide (1 ≤ 1) && decide (i + 1 ≤ 64)) = true := by
      simp [hp]
      omega
    rw [exec_mbusList]
    unfold execMbusList
    dsimp only
    rw [hi, hone, h.run _ hok]
    obtain ⟨n, hn, hzero, hone⟩ := u.mbusState_cases i
    obtain ⟨k, hk, hage⟩ := (u.mbusState i).2.mbusAge_cases i
    refine ⟨k, (u.mbusState i).1, ((u.mbusState i).2.mbusAge i).1, ?_, hzero, hone, fun t ht => ?_⟩
    · have hstate : ((u.mbusState i).2.mbusAge i).2 = { u with free := k } := by rw [hk, hn]
      have hlist : ((upTo 1).map (i + ·)).foldl listMeter (u, []) = listMeter (u, []) i := rfl
      rw [hlist]
      unfold listMeter
      dsimp only
      rw [hstate]
      rfl
    · rw [hn] at hage ⊢
      exact hage t ht
  case separation =>
    rintro s u dt c p f h rfl
    have hkeeps : ((upTo 7).foldl (fun s k => s.blocked (k + 1)) u).separated = u.separated :=
      foldl_keeps (fun s k => s.blocked_separated (k + 1)) _ _
    refine ⟨(upTo 7).foldl (fun s k => s.blocked (k + 1)) u, (congrArg _ (h.run _ rfl)).trans ?_, ?_⟩
    · dsimp only
      rw [foldl_blocked_sepFaults _ _ (by decide)]
      rfl
    · simpa only [State.separated, Prod.mk.injEq] using hkeeps

end Sys2Proof.Machine
end

section
/-! PROOFS. Captures (R333, R480, R486). -/

namespace Sys2Proof.Machine

variable {s u : State} {dt : Ticks} {c : Call} {f : InFlight} {p : Bytes}

/-- The masked channels of which one is not in capture. -/
theorem any_not_captures {mask : Nat} : ((upTo 16).filter (bit mask)).any (fun n => !u.captures n) = true ↔
    ∃ n < 16, bit mask n = true ∧ u.captures n = false := by
  simp only [List.any_eq_true, List.mem_filter, mem_upTo, Bool.not_eq_true', and_assoc]

/-- A record that no capture and no external heat takes leaves the state. -/
theorem State.takeRecord_idle {n : Nat} (x : Bytes × Nat) (hcap : s.skim.capture = none)
    (hheat : pointsWhere (fun m => s.mpType m == typeHeat && s.mpSub m == 1 &&
      (bindPch (s.binding m) 0 == n || bindPch (s.binding m) 1 == n)) = []) : State.takeRecord n s x = s := by
  have hext (v : Int) (st : Nat) : s.addExternal n v st = s := by
    unfold State.addExternal
    dsimp only
    rw [hheat]
    split <;> rfl
  have hrun : s.capturing n = false := by
    unfold State.capturing
    rw [hcap]
  unfold State.takeRecord
  dsimp only
  split
  · rfl
  · rw [hext, hrun]
    rfl

theorem State.takeLine_idle {n : Nat} (hcap : s.skim.capture = none)
    (hheat : pointsWhere (fun m => s.mpType m == typeHeat && s.mpSub m == 1 &&
      (bindPch (s.binding m) 0 == n || bindPch (s.binding m) 1 == n)) = []) : ∃ mem : MemSys,
    s.takeLine n = { s.modChannel n (fun c => { c with capUnread := c.capUnread - 4 }) with mem := mem } := by
  have hfold (l : List (Bytes × Nat)) (r : State) (hr : r.skim.capture = none)
      (hh : pointsWhere (fun m => r.mpType m == typeHeat && r.mpSub m == 1 &&
        (bindPch (r.binding m) 0 == n || bindPch (r.binding m) 1 == n)) = []) :
      l.foldl (State.takeRecord n) r = r := by
    induction l with
    | nil => rfl
    | cons x l ih => rw [List.foldl_cons, State.takeRecord_idle x hr hh, ih]
  unfold State.takeLine
  dsimp only
  split
  · exact ⟨_, rfl⟩
  · exact ⟨_, hfold _ _ hcap hheat⟩

theorem State.channel_modChannel {n : Nat} {g : Channel → Channel} (h : n < s.channels.length) :
    (s.modChannel n g).channel n = g (s.channel n) := by
  unfold State.channel State.modChannel
  simp [List.getD_eq_getElem?_getD, h]

/-- Settles O30: the commands by their two tests, a capture's end by the blocks that it holds. -/
theorem capturesStartAndStop : Obligations.CapturesStartAndStop := by
  refine ⟨?start, fun s n k => rfl, ?denied, ?stop, ?stopped, ?none, ?ended, ?record, ?goesOn, ?finish, ?line⟩
  case start =>
    intro s u dt c p f h hp hrsv hb hm hcap hall
    refine ⟨_, rfl, (congrArg _ (h.run _ (by simp [hp, hrsv, hb, hm]))).trans ?_⟩
    have hany : ((upTo 16).filter (bit (field p 0 2))).any (fun n => !u.captures n) = false := by
      rw [Bool.eq_false_iff, ne_eq, any_not_captures]
      rintro ⟨n, hn, hbit, hno⟩
      rw [hall n hn hbit] at hno
      cases hno
    rw [if_neg (by rw [hany, hcap]; simp)]
  case denied =>
    intro s u dt c p f h hp hrsv hb hm hor
    refine (congrArg _ (h.run _ (by simp [hp, hrsv, hb, hm]))).trans ?_
    rw [if_pos (by rw [Bool.or_eq_true, any_not_captures]; exact hor)]
    rfl
  case stop =>
    rintro s u dt c p f h rfl hcap
    refine (congrArg _ (h.run _ rfl)).trans ?_
    rw [if_neg (by rw [← Option.not_isSome, hcap]; simp)]
    rfl
  case stopped =>
    intro s c h
    unfold State.stopCapture
    rw [h]
  case none =>
    rintro s u dt c p f h rfl hcap
    refine (congrArg _ (h.run _ rfl)).trans ?_
    rw [if_pos (by rw [hcap]; rfl)]
    rfl
  case ended =>
    intro s c f h hsrc hf
    have hnil : (s.skim.blocks.map (·.src)).filter (· < 16) = [] := by
      rw [List.filter_eq_nil_iff]
      rintro n hn
      obtain ⟨b, hb, rfl⟩ := List.mem_map.mp hn
      simpa using hsrc b hb
    unfold State.endCapture
    rw [h]
    dsimp only
    rw [hnil]
    dsimp only [List.foldl]
    rw [h]
    dsimp only [Option.getD]
    rw [show (s.modSkim (fun k => { k with capture := Option.none })).accepted c.call 0x0A01 = some f from hf]
  case record =>
    intro s u dt n hu hn hready
    rw [exec_captureRecord]
    unfold execCaptureRecord
    dsimp only
    rw [hu, if_neg (by simp [hn, hready])]
  case goesOn =>
    intro s c h
    unfold State.finishCapture
    rcases h with h | ⟨h, hs⟩
    · rw [h]
    · rw [h]
      exact if_neg (by simp [hs])
  case finish =>
    intro s c h hs
    unfold State.finishCapture
    rw [h]
    exact if_pos hs
  case line =>
    intro s n hn hfour hcap hheat
    obtain ⟨mem, hline⟩ := State.takeLine_idle hcap hheat
    rw [hline]
    exact ⟨congrArg Channel.capUnread (State.channel_modChannel hn), rfl, rfl⟩

end Sys2Proof.Machine
end

section
/-! PROOFS. Staging and the checks of ACTIVATE (R494 to R496, R499 to R504, Tables 18.2 to 18.4). -/

namespace Sys2Proof.Machine

variable {s u : State} {dt : Ticks} {c : Call} {f : InFlight} {p : Bytes} {k : Nat}

/-! ### Components and their banks (R490) -/

theorem State.component_modComponent {g : Component → Component} (h : k < s.boot.components.length) :
    (s.modComponent k g).component k = g (s.component k) := by
  unfold State.component State.modComponent State.modBoot
  simp [List.getD_eq_getElem?_getD, h]

@[simp] theorem Component.bank_putBank_same (c : Component) (b : Bool) (x : Bank) : (c.putBank b x).bank b = x := by
  cases b <;> rfl

@[simp] theorem Component.bank_putBank_other (c : Component) (b : Bool) (x : Bank) :
    (c.putBank b x).bank (!b) = c.bank (!b) := by
  cases b <;> rfl

/-! ### Checks in their order -/

theorem firstRefusal_pass {ok : Bool} {st : Nat} {l : List Nat} (h : ok = true) :
    firstRefusal (need ok st :: l) = firstRefusal l := by
  rw [h]
  rfl

theorem firstRefusal_done_iff {ok : Bool} {st : Nat} {l : List Nat} (hst : st ≠ stDone) :
    firstRefusal (need ok st :: l) = stDone ↔ ok = true ∧ firstRefusal l = stDone := by
  cases ok <;> simp [firstRefusal, need, hst]

theorem firstRefusal_need {ok : Bool} {st : Nat} {l : List Nat} (hst : st ≠ stDone) :
    firstRefusal (need ok st :: l) = if ok = true then firstRefusal l else st := by
  cases ok <;> simp [firstRefusal, need, hst]

theorem firstRefusal_fail {ok : Bool} {st : Nat} {l : List Nat} (h : ok = false) (hst : st ≠ stDone) :
    firstRefusal (need ok st :: l) = st := by
  rw [h]
  exact if_neg hst

/-! ### Staging -/

theorem State.stagingOf_some {g : Staging} {n : Nat} (hg : u.update.staging = some g) (hn : g.component + 2 = n) :
    u.stagingOf n = some g := by
  unfold State.stagingOf
  rw [hg]
  simp [Option.filter, hn]

theorem State.stagingOf_none {n : Nat} (h : ∀ g, u.update.staging = some g → g.component + 2 ≠ n) :
    u.stagingOf n = none := by
  unfold State.stagingOf
  rw [Option.filter_eq_none_iff]
  intro g hg
  simpa using h g hg

theorem componentOk_iff {n : Nat} : componentOk n = true ↔ 2 ≤ n ∧ n ≤ 5 := by simp [componentOk]

/-- STAGE_BEGIN past its fields. -/
theorem exec_stageBegin_fields (h : Serves s dt u c 0x0802 p 1 f) (hp : p.length = 12) (hr : rsv p 1 3 = true)
    (hn : field p 0 1 = k + 2) (hk : k < 4) (hsize : 257 ≤ field p 4 4) : exec (.stageBegin dt c p) s =
      let b := !(u.component k).activeB
      let l := stagingSectors k b (field p 4 4)
      .next (if u.stageStatus k (field p 4 4) ≠ stDone then u.respond f (u.stageStatus k (field p 4 4)) [] else
        (l.filter (fun n => !u.flash.jobs.any (fun j => j.erases n))).foldl (fun v n => v.pushJob (.erase n 0 0))
          (((u.accept f).modComponent k (fun x => x.putBank b ⟨.staged, false, false⟩)).modUpdate (fun v => { v with
            staging := some { component := k, bankB := b, size := field p 4 4, crc := field p 8 4, staged := 0
                              call := some c, sectorsLeft := l } }))) := by
  have hok : (p.length == 12 && rsv p 1 3 && componentOk (k + 2) && decide (257 ≤ field p 4 4)) = true := by
    simp [hp, hr, hsize, componentOk_iff]
    omega
  rw [exec_stageBegin]
  unfold execStageBegin
  dsimp only
  rw [hn, h.run _ hok]
  rfl

theorem exec_stageData_open {g : Staging} (h : Serves s dt u c 0x0803 p 0 f) (hlo : 9 ≤ p.length)
    (hhi : p.length ≤ 4096) (hr : rsv p 4 4 = true) (hg : u.update.staging = some g) : exec (.stageData dt c p) s =
      .next (if field p 0 4 ≠ g.staged ∨ g.size < g.staged + (p.length - 8) then u.respond f stBadParam []
        else if u.windowShut g.component g.bankB = true then u.respond f stDeniedState []
        else (u.programStaged g (p.drop 8)).respond f stDone []) := by
  refine (congrArg _ (h.run _ (by simp [hlo, hhi, hr]))).trans ?_
  rw [hg]
  rfl

theorem State.closeStaging_banks {g : Staging} {st : BankState} {ok : Bool}
    (h : g.component < s.boot.components.length) :
    ((s.closeStaging g st ok).component g.component).bank (!g.bankB) = (s.component g.component).bank (!g.bankB) ∧
    (((s.closeStaging g st ok).component g.component).bank g.bankB).state = st := by
  unfold State.closeStaging
  rw [State.component_modComponent (s := s.dropStagingJobs.modUpdate _) h]
  exact ⟨Component.bank_putBank_other _ _ _, by rw [Component.bank_putBank_same]⟩

/-- Settles O31: each command past its fields, the closed staging by the banks of its component. -/
theorem stagingFillsTheOtherBank : Obligations.StagingFillsTheOtherBank := by
  refine ⟨?status, ?begins, ?refused, ?data, ?noStaging, ?badData, ?ends, ?abort, ?notOpen, ?manifest, ?closed⟩
  case status =>
    rintro s u dt c p f h rfl
    exact congrArg _ (h.run _ rfl)
  case begins =>
    intro s u dt c p f k h hp hr hn hk hsize hst
    refine ⟨_, _, rfl, rfl, (exec_stageBegin_fields h hp hr hn hk hsize).trans ?_⟩
    exact congrArg _ (if_neg (by simp [hst]))
  case refused =>
    intro s u dt c p f k h hp hr hn hk hsize hst
    exact (exec_stageBegin_fields h hp hr hn hk hsize).trans (congrArg _ (if_pos hst))
  case data =>
    intro s u dt c p f g h hlo hhi hr hg hoff hfit hwin
    refine ⟨?_, ?_⟩
    · rw [exec_stageData_open h hlo hhi hr hg, if_neg (by omega), if_neg (by simp [hwin])]
    · unfold State.programStaged
      simp [State.modUpdate]
  case noStaging =>
    intro s u dt c p f h hlo hhi hr hg
    refine (congrArg _ (h.run _ (by simp [hlo, hhi, hr]))).trans ?_
    rw [hg]
    rfl
  case badData =>
    intro s u dt c p f g h hlo hhi hr hg
    rw [exec_stageData_open h hlo hhi hr hg]
    refine ⟨fun hbad => congrArg _ (if_pos hbad), fun hoff hfit hwin => ?_⟩
    rw [if_neg (by omega), if_pos hwin]
  case ends =>
    intro s u dt c p f g h hp hlo hhi hg hn
    refine (congrArg _ (h.run _ (by simp [hp, componentOk_iff, hlo, hhi]))).trans ?_
    rw [State.stagingOf_some hg hn]
    rfl
  case abort =>
    intro s u dt c p f g h hp hlo hhi hg hn
    refine (congrArg _ (h.run _ (by simp [hp, componentOk_iff, hlo, hhi]))).trans ?_
    rw [State.stagingOf_some hg hn]
    rfl
  case notOpen =>
    intro s u dt c p f hp hlo hhi hg
    refine ⟨fun h => ?_, fun h => ?_⟩
    · refine (congrArg _ (h.run _ (by simp [hp, componentOk_iff, hlo, hhi]))).trans ?_
      rw [State.stagingOf_none hg]
      rfl
    · refine (congrArg _ (h.run _ (by simp [hp, componentOk_iff, hlo, hhi]))).trans ?_
      rw [State.stagingOf_none hg]
      rfl
  case manifest =>
    intro s u dt c p f b h hp hlo hhi hb
    have hbank : (field p 1 1 == 1) = b := by rw [hb]; cases b <;> rfl
    have hle : field p 1 1 ≤ 1 := by rw [hb]; cases b <;> decide
    refine (congrArg _ (h.run _ (by simp [hp, componentOk_iff, hlo, hhi, hle]))).trans ?_
    rw [hbank]
    rfl
  case closed =>
    exact fun s g st ok h => ⟨rfl, State.closeStaging_banks h⟩

end Sys2Proof.Machine
end

section
/-! PROOFS. ACTIVATE and its request at the gate (R499 to R503, Tables 18.3 and 18.4). -/

namespace Sys2Proof.Machine

variable {s u : State} {dt : Ticks} {c : Call} {f : InFlight} {p : Bytes} {k : Nat} {r : GateRequest} {env : StartEnv}

/-! ### The checks -/

theorem State.activateStatus_done_iff : s.activateStatus k = stDone ↔
    ((s.component k).inactive.state = .valid ∨ (s.component k).inactive.state = .confirmed) ∧
      s.manifestVerifies k (!(s.component k).activeB) = true ∧ (∀ j < 4, s.inTrial j = false) ∧
      s.update.activation = none ∧ s.outOfOrder k = false := by
  have htrial : ((upTo 4).any s.inTrial = false) ↔ ∀ j < 4, s.inTrial j = false := by
    rw [List.any_eq_false]
    simp only [mem_upTo, Bool.not_eq_true]
  unfold State.activateStatus
  dsimp only
  rw [firstRefusal_done_iff (by decide), firstRefusal_done_iff (by decide), firstRefusal_done_iff (by decide)]
  simp only [Bool.and_eq_true, Bool.or_eq_true, beq_iff_eq, Bool.not_eq_true', htrial, State.activating,
    Option.isSome_eq_false_iff, Option.isNone_iff_eq_none, and_assoc]
  exact ⟨fun h => by tauto, fun h => by tauto⟩

theorem State.activateStatus_cases (s : State) (k : Nat) :
    s.activateStatus k = stDone ∨ s.activateStatus k = stDeniedState := by
  unfold State.activateStatus
  simp only [firstRefusal, need]
  split_ifs <;> simp_all

theorem State.startTrial_component (h : k < s.boot.components.length) :
    ((s.startTrial k).component k).activeB = !(s.component k).activeB ∧
      ((s.startTrial k).component k).active.state = .trial ∧
      ((s.startTrial k).component k).bank (s.component k).activeB = (s.component k).bank (s.component k).activeB := by
  unfold State.startTrial
  rw [State.component_modComponent h]
  refine ⟨rfl, ?_, ?_⟩
  · cases hb : (s.component k).activeB <;> simp [Component.active, Component.setState, Component.putBank, Component.bank, hb]
  · cases hb : (s.component k).activeB <;> simp [Component.setState, Component.putBank, Component.bank, hb]

/-! ### The command -/

theorem length_manifest (s : State) (k : Nat) (b : Bool) : (s.manifest k b).length = 256 := by
  unfold State.manifest
  split
  · exact length_leBytes _ _
  · simp [State.flashBytes, Memory.readBytes, upTo]

theorem length_legalRequest_le (s : State) (k : Nat) : (s.legalRequest k).length ≤ gatePayloadMax := by
  have hsecond : (if k = 0 then s.running 2 else zeros 256).length = 256 := by
    split
    · exact length_manifest _ _ _
    · exact List.length_replicate
  unfold State.legalRequest
  dsimp only
  rw [List.length_append, List.length_append, List.length_append, hsecond, length_manifest, State.running,
    length_manifest]
  exact (by decide : 4 + 256 + 256 + 256 ≤ gatePayloadMax)

/-- ACTIVATE past its fields. -/
theorem exec_activate_fields (h : Serves s dt u c 0x0806 p 4 f) (hp : p.length = 1) (hn : field p 0 1 = k + 2)
    (hk : k < 4) : exec (.activate dt c p env) s =
      let rest := firstRefusal (u.activateGates k ++
        [need (u.newMeets k (u.manifest k (!(u.component k).activeB)) u.running) stIncompatible])
      .next (if u.activateStatus k ≠ stDone then u.respond f (u.activateStatus k) []
        else if k < 2 then u.activateLegal f k
        else if rest ≠ stDone then u.respond f rest []
        else if k = 2 then u.activateApp f env
        else u.activateFe f) := by
  have hok : (p.length == 1 && componentOk (k + 2)) = true := by simp [hp, componentOk_add_two k hk]
  rw [exec_activate]
  unfold execActivate
  dsimp only
  rw [hn, h.run _ hok]
  rfl

/-- Checks 5 to 9 of a component that is not legal. -/
theorem State.activateGates_nonlegal (hk : 2 ≤ k) (meets : Bool) :
    firstRefusal (u.activateGates k ++ [need meets stIncompatible]) = if u.pnum 0x7000 = 1 then stDeniedLock
      else if u.ports.vbatLow then stLowBattery else if u.anyMoving then stMoving
      else if meets then stDone else stIncompatible := by
  unfold State.activateGates
  simp only [List.cons_append, List.nil_append]
  rw [firstRefusal_pass (by simp [hk]), firstRefusal_need (by decide), firstRefusal_need (by decide),
    firstRefusal_need (by decide), firstRefusal_need (by decide)]
  by_cases h : u.pnum 0x7000 = 1 <;> cases u.ports.vbatLow <;> cases u.anyMoving <;> simp [h, firstRefusal]

/-! ### The request at the gate -/

/-- Checks 5 to 9 of a request with the seal open. -/
theorem State.activateGates_open (hopen : u.legal.sealOpen = true) (l : List Nat) :
    firstRefusal (u.activateGates k ++ l) = if u.pnum 0x7000 = 1 then stDeniedLock
      else if u.ports.vbatLow then stLowBattery else if u.anyMoving then stMoving else firstRefusal l := by
  unfold State.activateGates
  simp only [List.cons_append, List.nil_append]
  rw [firstRefusal_pass (by simp [hopen]), firstRefusal_need (by decide), firstRefusal_need (by decide),
    firstRefusal_need (by decide)]
  by_cases h : u.pnum 0x7000 = 1 <;> cases u.ports.vbatLow <;> cases u.anyMoving <;> simp [h]

/-- The status of a request: its signature, then checks 5 to 9, then the room in the seal log. -/
def State.requestStatus (s : State) (k : Nat) (r : GateRequest) : Nat :=
  firstRefusal (need (s.requestVerifies k (slice r.payload 4 256)) stDeniedState :: s.activateGates k ++
    [need ((partners k).all (fun x => s.partnerVerifies x.2 (requestPartner k r.payload x.2)) &&
        s.newMeets k (slice r.payload 4 256) (requestPartner k r.payload)) stIncompatible,
      need (decide (s.legal.sealLog.length < 248)) stNoResource])

/-- The LC takes a well-formed request by its status. -/
theorem exec_gateActivateLegal_request (hu : s.elapse dt = u) (hr : u.nextRequest 0x0E = some r)
    (ha : u.legal.activation = none) (hp : r.payload.length = 772) (hn : field r.payload 0 1 = k + 2) (hk : k < 2) :
    exec (.gateActivateLegal dt) s = .next (
      if u.requestStatus k r = stNoResource then (u.noteSealFull (originCode r.origin)).answer r stNoResource []
      else if u.requestStatus k r ≠ stDone then u.answer r (u.requestStatus k r) []
      else (u.modMem (fun m => (upTo 4).foldl MemSys.revoke m)).modLegal (fun l => { l with activation := some {
        component := k, bankB := field r.payload 1 1 == 1, gseq := r.gseq, origin := r.origin, oldLcv := u.boot.lcv
        after := u.legal.lastCommit } })) := by
  rw [exec_gateActivateLegal]
  unfold execGateActivateLegal State.serve
  dsimp only
  rw [hu, hr]
  unfold State.answerActivate
  dsimp only
  rw [if_neg (by simp [ha]), if_neg (by omega), show field r.payload 0 1 - 2 = k by omega]
  by_cases h : u.requestStatus k r = stNoResource
  · refine (congrArg _ (if_pos h)).trans ?_
    rw [if_pos h]
    exact congrArg (fun st => Host.Outcome.next ((u.noteSealFull (originCode r.origin)).answer r st [])) h
  · refine (congrArg _ (if_neg h)).trans ?_
    rw [if_neg h]
    rfl

/-- The checks 5 to 9 of a request whose signature is good, with the seal open. -/
def State.openChecks (s : State) (k : Nat) (r : GateRequest) : Nat :=
  if s.pnum 0x7000 = 1 then stDeniedLock
  else if s.ports.vbatLow then stLowBattery
  else if s.anyMoving then stMoving
  else if (partners k).all (fun x => s.partnerVerifies x.2 (requestPartner k r.payload x.2)) &&
    s.newMeets k (slice r.payload 4 256) (requestPartner k r.payload) then stDone
  else stIncompatible

theorem State.requestStatus_open (hv : u.requestVerifies k (slice r.payload 4 256) = true)
    (hopen : u.legal.sealOpen = true) : u.requestStatus k r =
      if u.openChecks k r = stDone ∧ 248 ≤ u.legal.sealLog.length then stNoResource else u.openChecks k r := by
  have hroom : firstRefusal [need (decide (u.legal.sealLog.length < 248)) stNoResource] =
      if 248 ≤ u.legal.sealLog.length then stNoResource else stDone := by
    rw [firstRefusal_need (by decide)]
    by_cases h : 248 ≤ u.legal.sealLog.length
    · rw [if_neg (by simpa using h), if_pos h]
    · rw [if_pos (by simpa using h), if_neg h]
      rfl
  unfold State.requestStatus State.openChecks
  rw [List.cons_append, firstRefusal_pass hv, State.activateGates_open hopen, firstRefusal_need (by decide), hroom]
  by_cases hlock : u.pnum 0x7000 = 1
  · simp [hlock, stDeniedLock, stDone]
  · by_cases hbat : u.ports.vbatLow = true
    · simp [hlock, hbat, stLowBattery, stDone]
    · by_cases hmov : u.anyMoving = true
      · simp [hlock, hbat, hmov, stMoving, stDone]
      · rw [if_neg hlock, if_neg hbat, if_neg hmov, if_neg hlock, if_neg hbat, if_neg hmov]
        split
        · simp
        · simp [stIncompatible, stDone]

/-- Settles O32: each command by the status of its checks. -/
theorem activateFollowsItsChecks : Obligations.ActivateFollowsItsChecks := by
  refine ⟨?refused, ?toGate, ?starts, ?later, fun s k => State.activateStatus_done_iff, State.activateStatus_cases,
    fun s k => State.startTrial_component, ?taken, ?shut, ?signature, ?switch⟩
  case refused =>
    intro s u dt c p f env k h hp hn hk hst
    exact (exec_activate_fields h hp hn hk).trans (congrArg _ (if_pos hst))
  case toGate =>
    intro s u dt c p f env k h hp hn hk hst hopen
    rw [exec_activate_fields h hp hn (by omega)]
    dsimp only
    rw [if_neg (by simp [hst]), if_pos hk]
    unfold State.activateLegal
    dsimp only
    rw [submit_open u f _ _ hopen (length_legalRequest_le u k)]
    exact congrArg _ (if_pos hopen)
  case starts =>
    intro s u dt c p f env k h hp hn hk hst hlock hbat hmov hmeets
    rw [exec_activate_fields h hp hn (by omega)]
    dsimp only
    rw [if_neg (by simp [hst]), if_neg (by omega), State.activateGates_nonlegal (by omega),
      if_neg (by simp [hlock, hbat, hmov, hmeets])]
  case later =>
    rintro s u dt c p f env k st h hp hn hk hst rfl hne
    rw [exec_activate_fields h hp hn (by omega)]
    dsimp only
    rw [if_neg (by simp [hst]), if_neg (by omega), State.activateGates_nonlegal (by omega), if_pos hne]
  case taken =>
    intro s u dt r k hu hr ha hp hn hk hv hopen hlock hbat hmov hpart hmeets hroom
    have hall : ((partners k).all (fun x => u.partnerVerifies x.2 (requestPartner k r.payload x.2)) &&
        u.newMeets k (slice r.payload 4 256) (requestPartner k r.payload)) = true := by
      rw [hmeets, Bool.and_true]
      exact List.all_eq_true.mpr hpart
    have hst : u.requestStatus k r = stDone := by
      have hchecks : u.openChecks k r = stDone := by
        unfold State.openChecks
        rw [if_neg hlock, if_neg (by simp [hbat]), if_neg (by simp [hmov]), if_pos hall]
      rw [State.requestStatus_open hv hopen, if_neg (by omega), hchecks]
    rw [exec_gateActivateLegal_request hu hr ha hp hn hk, hst, if_neg (by decide), if_neg (by simp)]
  case shut =>
    intro s u dt r k hu hr ha hp hn hk hv hshut
    have hst : u.requestStatus k r = stDeniedSeal := by
      unfold State.requestStatus State.activateGates
      simp only [List.cons_append]
      rw [firstRefusal_pass hv, firstRefusal_fail (by simp [hshut]; omega) (by decide)]
    rw [exec_gateActivateLegal_request hu hr ha hp hn hk, hst, if_neg (by decide), if_pos (by decide)]
  case signature =>
    intro s u dt r k hu hr ha hp hn hk
    refine ⟨fun hv => ?_, fun st hv hopen hst => ⟨fun hne => ?_, fun hdone hfull => ?_⟩⟩
    · have hst : u.requestStatus k r = stDeniedState := by
        unfold State.requestStatus
        rw [List.cons_append, firstRefusal_fail hv (by decide)]
      rw [exec_gateActivateLegal_request hu hr ha hp hn hk, hst, if_neg (by decide), if_pos (by decide)]
    · have hchecks : u.openChecks k r = st := hst.symm
      have hstatus : u.requestStatus k r = st := by
        rw [State.requestStatus_open hv hopen, hchecks, if_neg (by simp [hne])]
      have hroom : st ≠ stNoResource := by
        rw [← hchecks]
        unfold State.openChecks
        split_ifs <;> decide
      rw [exec_gateActivateLegal_request hu hr ha hp hn hk, hstatus, if_neg hroom, if_pos hne]
    · have hchecks : u.openChecks k r = stDone := hst.symm.trans hdone
      have hstatus : u.requestStatus k r = stNoResource := by
        rw [State.requestStatus_open hv hopen, if_pos ⟨hchecks, hfull⟩]
      rw [exec_gateActivateLegal_request hu hr ha hp hn hk, hstatus, if_pos rfl]
  case switch =>
    intro s u dt env a r hu ha hruns hafter hfind
    rw [exec_legalActivationSwitch]
    unfold execLegalActivationSwitch
    dsimp only
    rw [hu, ha]
    dsimp only
    rw [if_neg (by simp [hruns]; omega), hfind]
    rfl

end Sys2Proof.Machine
end

section
/-! PROOFS. Trials and the restarts that end them (R500 to R506). -/

namespace Sys2Proof.Machine

variable {s u : State} {dt : Ticks} {k t : Nat} {env : StartEnv}

theorem State.not_since {t n m : Nat} (h : s.mono < t + m) (hn : n = m) : s.since t n = false := by
  rw [State.since_eq hn]
  exact decide_eq_false (by omega)

/-- A reverted trial: the bank is REJECTED and the other one active. -/
theorem State.revertTrial_component (h : k < s.boot.components.length) (ht : (s.component k).active.state = .trial) :
    (s.revertTrial k).component k = { (s.component k).setState (s.component k).activeB .rejected with
      activeB := !(s.component k).activeB, trialSince := none, trialCommits := 0 } := by
  have hannounce (r : State) (j kind : Nat) (b : Bool) : (r.announceUpdate j kind b).component k = r.component k := by
    unfold State.announceUpdate State.announce
    split
    · rw [postEvent_frame]
      rfl
    · rfl
  have hmod := State.component_modComponent (s := s) (g := fun c => { c.setState c.activeB .rejected with
    activeB := !c.activeB, trialSince := none, trialCommits := 0 }) h
  unfold State.revertTrial
  dsimp only
  rw [if_neg (by simp [ht])]
  split
  · refine Eq.trans ?_ hmod
    exact hannounce _ _ _ _
  · rw [hannounce]
    exact hmod

/-- TRIAL_CONFIRM of a component that is healthy in time. -/
theorem exec_trialConfirm_healthy (hu : s.elapse dt = u) (htrial : u.inTrial k = true)
    (ht : (u.component k).trialSince = some t) (hin : u.mono < t + 300000000000) (hh : u.healthy k = true) :
    exec (.trialConfirm dt k) s =
      let b := (u.component k).activeB
      let v := u.modComponent k (fun c => { c.setState b .confirmed with trialSince := none, trialCommits := 0 })
      .next ((if k < 2 then v.logConfirmed.modLegal (fun l => { l with slotsBefore := none, diagBefore := [] })
        else if k = 3 then v.modUpdate (fun x => { x with portsBefore := [] })
        else v).announceUpdate k 2 b) := by
  have hsince : u.sinceOpt (u.component k).trialSince (300 * second) = false := by
    rw [ht]
    exact State.not_since hin rfl
  rw [exec_trialConfirm]
  unfold execTrialConfirm
  dsimp only
  rw [hu, if_neg (by rw [htrial, hsince, hh]; simp)]

/-- The watchdog of a trial, due. -/
theorem State.trial_over (htrial : u.inTrial k = true) (ht : (u.component k).trialSince = some t)
    (hage : t + 300000000000 ≤ u.mono) :
    ¬ (!(u.inTrial k && u.sinceOpt (u.component k).trialSince (300 * second))) = true := by
  have hsince : u.sinceOpt (u.component k).trialSince (300 * second) = true := by
    rw [ht]
    exact State.since_of hage rfl
  rw [htrial, hsince]
  simp

/-- Settles O33: each event by its time, a trial's end by the component that it leaves. -/
theorem trialsEndConfirmedOrReverted : Obligations.TrialsEndConfirmedOrReverted := by
  refine ⟨?legalLate, ?appLate, ?confirmApp, ?confirmFe, ?confirmLegal, ?revert, ?expireApp, ?expireFe, ?expireLegal,
    ?discard⟩
  case legalLate =>
    intro s u dt env t hu hp halive hready hage
    have hlate : decide (t + 650 * milli ≤ u.nodeTime) = true := decide_eq_true hage
    rw [exec_legalActivationTimeout]
    unfold execLegalActivationTimeout
    dsimp only
    rw [hu, hp]
    dsimp only
    rw [if_pos (by rw [halive, hready, hlate]; rfl)]
  case appLate =>
    intro s u dt env a hu ha hcomp hsw hstage hage
    have hlate : u.since a.since (1800 * milli) = true := State.since_of hage rfl
    rw [exec_nonlegalActivationTimeout]
    unfold execNonlegalActivationTimeout
    dsimp only
    rw [hu, ha]
    exact congrArg _ (if_pos ⟨hcomp, hsw, hstage, hlate⟩)
  case confirmApp =>
    intro s u dt t hu htrial ht hin hh
    rw [exec_trialConfirm_healthy hu htrial ht hin hh]
    rfl
  case confirmFe =>
    intro s u dt t hu htrial ht hin hh
    rw [exec_trialConfirm_healthy hu htrial ht hin hh]
    rfl
  case confirmLegal =>
    intro s u dt t k hu hk htrial ht hin hh
    rw [exec_trialConfirm_healthy hu htrial ht hin hh]
    dsimp only
    rw [if_pos hk]
  case revert =>
    intro s k hk ht
    rw [State.revertTrial_component hk ht]
    cases hb : (s.component k).activeB <;>
      simp [Component.active, Component.inactive, Component.setState, Component.putBank, Component.bank, hb]
  case expireApp =>
    intro s u dt env t hu htrial ht hage
    rw [exec_trialWatchdogExpiry]
    unfold execTrialWatchdogExpiry
    dsimp only
    rw [hu, if_neg (State.trial_over htrial ht hage)]
    rfl
  case expireFe =>
    intro s u dt env t hu htrial ht hage
    rw [exec_trialWatchdogExpiry]
    unfold execTrialWatchdogExpiry
    dsimp only
    rw [hu, if_neg (State.trial_over htrial ht hage)]
    rfl
  case expireLegal =>
    intro s u dt env t k hu hk htrial ht hage
    rw [exec_trialWatchdogExpiry]
    unfold execTrialWatchdogExpiry
    dsimp only
    rw [hu, if_neg (State.trial_over htrial ht hage)]
    interval_cases k <;> rfl
  case discard =>
    intro s u dt x t hu hx hage husb
    have hsince : u.since t (60 * second) = true := State.since_of hage rfl
    rw [exec_activateResponseDiscard]
    unfold execActivateResponseDiscard
    dsimp only
    rw [hu, hx]
    exact congrArg _ (if_pos (by rw [hsince, husb]; rfl))

end Sys2Proof.Machine
end

section
/-! PROOFS. The commands of the fabric (Table 12.8, R329, R392, R393, R399, R400, R407). -/

namespace Sys2Proof.Machine

variable {s u : State} {dt : Ticks} {c : Call} {f : InFlight} {p : Bytes}

/-! ### The rows of NODE_LIST -/

/-- A row of NODE_LIST: the free value of an unknown HOPS is the one change of the state. -/
theorem listNode_row (s : State) (b : Bytes) (e : Lsa) : ∃ n h, listNode (s, b) e = ({ s with free := n },
    b ++ leBytes 2 e.addr ++ [byte e.role, byte h] ++ zeros 4 ++ leBytes 8 e.nodeId) := by
  unfold listNode
  dsimp only
  cases (if e.nodeId = nodeId then some 0 else s.hopsTo e.addr) with
  | none => exact ⟨s.free + 1, _, rfl⟩
  | some h => exact ⟨s.free, h, rfl⟩

theorem foldl_listNode (l : List Lsa) (s : State) (b : Bytes) : ∃ n r,
    l.foldl listNode (s, b) = ({ s with free := n }, b ++ r) ∧ r.length = 16 * l.length := by
  induction l generalizing s b with
  | nil => exact ⟨s.free, [], by simp, rfl⟩
  | cons e l ih =>
    obtain ⟨n, h, hrow⟩ := listNode_row s b e
    obtain ⟨m, r, hrest, hlen⟩ := ih { s with free := n }
      (b ++ leBytes 2 e.addr ++ [byte e.role, byte h] ++ zeros 4 ++ leBytes 8 e.nodeId)
    refine ⟨m, leBytes 2 e.addr ++ [byte e.role, byte h] ++ zeros 4 ++ leBytes 8 e.nodeId ++ r, ?_, ?_⟩
    · rw [List.foldl_cons, hrow, hrest]
      simp only [List.append_assoc]
    · simp only [List.length_append, length_leBytes, zeros, List.length_replicate, List.length_cons, List.length_nil, hlen]
      omega

/-- Settles O34: each command past its fields. -/
theorem fabricCommandsAnswer : Obligations.FabricCommandsAnswer := by
  refine ⟨?status, ?port, ?enable, ?nodes, ?routes, ?key, ?tunnel⟩
  case status =>
    rintro s u dt c p f h rfl
    obtain rfl := h.time
    refine ⟨_, congrArg _ (h.run _ rfl), fun h0 => if_pos h0, fun h0 => ?_⟩
    intro hops hk
    rw [if_neg h0, hk]
    rfl
  case port =>
    rintro s u dt c p f i h hp rfl hi
    refine (congrArg _ (h.run _ (by simp [hp, hi]))).trans ?_
    refine congrArg (fun b => Host.Outcome.next (u.respond f stDone b)) ?_
    simp only [List.flatMap_cons, List.flatMap_nil, List.append_nil, List.append_assoc]
  case enable =>
    rintro s u dt c p f i on h hp rfl hi hon horigin hbit
    obtain rfl := h.time
    have hok : (p.length == 2 && decide (field p 0 1 ≤ 2) && decide (field p 1 1 ≤ 1)) = true := by
      cases on <;> simp [hp, hi, hon, b2n]
    refine (congrArg _ (h.run _ hok)).trans ?_
    dsimp only
    rw [if_neg (by simp [horigin]), hon, hbit]
    cases on
    · simp [b2n]
      rfl
    · simp [b2n]
      rfl
  case nodes =>
    rintro s u dt c p f l h hp hlo hhi rfl
    obtain ⟨n, r, hrows, hlen⟩ := foldl_listNode ((u.fabric.database.drop (field p 0 2)).take (field p 2 2)) u []
    refine ⟨n, r, (congrArg _ (h.run _ (by simp [hp, hlo, hhi]))).trans ?_, hlen⟩
    simp only [page, hrows]
    rfl
  case routes =>
    rintro s u dt c p f l h hp hlo hhi rfl
    exact congrArg _ (h.run _ (by simp [hp, hlo, hhi]))
  case key =>
    rintro s u dt c p f i n h hp hr rfl hi rfl hn
    refine ⟨_, rfl, congrArg _ (h.run _ ?_)⟩
    rcases hn with hn | ⟨hn, hz⟩
    · simp [hp, hr, hi, hn]
    · simp [hp, hr, hi, hn, hz]
  case tunnel =>
    rintro s u dt c p f e rfl h hlen hr hlo hhi hdata hlen' hcap
    have hok : (decide (68 ≤ p.length) && rsv p 2 2 && decide (1 ≤ field p 0 2 ∧ field p 0 2 ≤ 0x3FFD) &&
        decide ((p.drop 68).length ≤ 4096) &&
        (p.drop 68).length == (if (Entry.ofBytes (slice p 4 64)).bulk then (Entry.ofBytes (slice p 4 64)).length else 0) &&
        (!(Entry.ofBytes (slice p 4 64)).bulk || decide ((Entry.ofBytes (slice p 4 64)).bufCap ≤ 4096))) = true := by
      simp only [List.length_drop]
      cases hb : (Entry.ofBytes (slice p 4 64)).bulk <;> simp_all
    exact congrArg _ (h.run _ hok)

end Sys2Proof.Machine
end

section
/-! PROOFS. The release of reset and the steps of the start (R41, R47, R48, R53, R54, R274). -/

namespace Sys2Proof.Machine

variable {s u : State} {dt : Ticks} {env : StartEnv}

theorem Ntu.time_of_acc {n : Ntu} {t : Nat} (h : n.acc = t * 4294967296) : n.time = t % 18446744073709551616 := by
  unfold Ntu.time
  rw [h, Nat.mul_div_cancel _ (by decide)]

/-- HALTED keeps the first error and touches the boot state and the stage's interrupt bit alone (R61). -/
theorem State.halt_spec (s : State) (code component : Nat) : (s.halt code component).boot.stage = 15 ∧
    (s.halt code component).boot.errCode = (if s.boot.errCode = 0 then code else s.boot.errCode) ∧
    s.halt code component = { s with
      boot := (s.halt code component).boot, hawk := { s.hawk with irqStage := true } } := by
  unfold State.halt State.bootError
  by_cases h : s.boot.errCode = 0
  · rw [if_neg (by simp [h]), if_pos h]
    exact ⟨rfl, rfl, rfl⟩
  · rw [if_pos h, if_neg h]
    exact ⟨rfl, rfl, rfl⟩

/-- Node time at the start (R54). -/
theorem State.seedTime_spec (s : State) : s.seedTime.nodeTime = (if s.aon.lostSupply then s.legal.storedTime
      else s.aon.rtcSec * 1000000000 + s.aon.rtcFrac * 1000000000 / 32768) % 18446744073709551616 ∧
    s.seedTime.ntu.status = (if s.aon.lostSupply = false ∧ s.aon.rtcValid = true then .coarse else .invalid) ∧
    s.seedTime.aon.lostSupply = false := by
  refine ⟨?_, ?_, rfl⟩
  · exact Ntu.time_of_acc rfl
  · have h : s.seedTime.ntu.status = if (!s.aon.lostSupply && s.aon.rtcValid) = true then .coarse else .invalid := rfl
    rw [h]
    cases s.aon.lostSupply <;> cases s.aon.rtcValid <;> rfl

theorem exec_entropyStartRetry_due {noise : BitVec 1024} (hu : s.elapse dt = u) (hs : u.boot.stage = 3)
    (hw : u.boot.entropyWait + 1000000000 ≤ u.mono) :
    exec (.entropyStartRetry dt noise env) s = .next (u.tryEntropy noise env) := by
  have hsince : u.since u.boot.entropyWait second = true := State.since_of hw rfl
  rw [exec_entropyStartRetry]
  unfold execEntropyStartRetry
  dsimp only
  rw [hu, if_pos ⟨hs, hsince⟩]

/-- Settles O36: each step by its guard. -/
theorem releaseStartsThePart : Obligations.ReleaseStartsThePart := by
  refine ⟨?release, ?stays, ?clocks, State.seedTime_spec, ?xtal, ?pll, ?passes, ?fails, fun s => ⟨rfl, rfl, rfl, rfl⟩,
    ?density, fun s c k => ⟨_, rfl, State.halt_spec s c k⟩⟩
  case release =>
    rintro s u v dt env hu hheld hpower htest rfl
    rw [exec_resetRelease]
    unfold execResetRelease State.release
    dsimp only
    rw [hu, if_pos (by simp [hheld, hpower]), if_neg (by simp [htest])]
    cases env.romOk <;> rfl
  case stays =>
    intro s u dt env hu h
    rw [exec_resetRelease]
    unfold execResetRelease
    dsimp only
    rw [hu]
    by_cases hrun : (u.boot.held && u.aon.mainPower) = true
    · have htest : env.testHigh = true := by
        rcases h with h | h | h
        · simp [h] at hrun
        · simp [h] at hrun
        · exact h
      rw [if_pos hrun]
      exact congrArg _ (if_pos htest)
    · rw [if_neg hrun]
  case clocks =>
    rintro s v env rfl
    rfl
  case xtal =>
    intro s u dt hu hs hx
    rw [exec_xtalMainTimeout]
    unfold execXtalMainTimeout
    dsimp only
    rw [hu, if_pos ⟨hs, hx⟩]
  case pll =>
    intro s u dt hu hs hx
    rw [exec_pllLockTimeout]
    unfold execPllLockTimeout
    dsimp only
    rw [hu, if_pos ⟨hs, hx⟩]
  case passes =>
    intro s u dt noise env hu hs hw hpass
    rw [exec_entropyStartRetry_due hu hs hw]
    unfold State.tryEntropy State.runStartTests
    dsimp only
    generalize startTests noise = t at hpass ⊢
    rw [hpass]
    dsimp only
    have hfree : (State.seedDrbg (u.modCrypto (fun c => { c with noise := t.1 }))).free + 1 = u.free + 2 := rfl
    generalize State.seedDrbg (u.modCrypto (fun c => { c with noise := t.1 })) = v at hfree ⊢
    refine ⟨(v.drawFree 256).1, ?_⟩
    rw [← hfree]
    generalize (v.drawFree 256).1 = key
    rfl
  case fails =>
    rintro s u v dt noise env rct hu hs hw hfail rfl
    rw [exec_entropyStartRetry_due hu hs hw]
    unfold State.tryEntropy State.runStartTests
    dsimp only
    rw [hfail]
    refine ⟨fun hlt => ?_, fun hge => ⟨_, rfl, ?_⟩⟩
    · exact congrArg _ (if_pos (show u.boot.entropyTries + 1 < 3 by omega))
    · exact congrArg _ (if_neg (show ¬ u.boot.entropyTries + 1 < 3 by omega))
  case density =>
    intro s env h
    exact if_pos h

end Sys2Proof.Machine
end

section
/-! PROOFS. The always-on domain (R57, R58, R66, R85, R99). -/

namespace Sys2Proof.Machine

variable {s u : State} {dt : Ticks}

/-! ### Samples of the switches (R57) -/

theorem AlwaysOn.store_room {a : AlwaysOn} (h : a.buffer.length < 64) (source level : Nat) :
    a.store source level = { a with buffer := a.buffer ++ [⟨a.rtcSec, a.rtcFrac / 4096, source, level,
      crc8 (leBytes 4 a.rtcSec ++ [byte (a.rtcFrac / 4096), byte source, byte level])⟩] } :=
  if_neg (by omega)

theorem AlwaysOn.store_full {a : AlwaysOn} (h : 64 ≤ a.buffer.length) (source level : Nat) :
    a.store source level = { a with overflow := true } := if_pos h

/-- What a switch of one input leaves. -/
theorem AlwaysOn.switch_counts (a : AlwaysOn) (source : Nat) (b l : Bool) :
    (a.switch source b l).sealCount = (if b = true ∧ l = false ∧ source = 0 then min 65535 (a.sealCount + 1)
      else a.sealCount) ∧
    (a.switch source b l).coverCount = (if b = true ∧ l = false ∧ source = 1 then min 65535 (a.coverCount + 1)
      else a.coverCount) ∧
    (a.switch source b l).termCount = (if b = true ∧ l = false ∧ source ≠ 0 ∧ source ≠ 1 then
      min 65535 (a.termCount + 1) else a.termCount) := by
  have hstore (lv : Nat) : (a.store source lv).sealCount = a.sealCount ∧
      (a.store source lv).coverCount = a.coverCount ∧ (a.store source lv).termCount = a.termCount := by
    unfold AlwaysOn.store
    split <;> exact ⟨rfl, rfl, rfl⟩
  obtain ⟨hs, hc, ht⟩ := hstore (b2n l)
  unfold AlwaysOn.switch
  cases b <;> cases l
  · simp
  · simp [hs, hc, ht]
  · match source with
    | 0 => simp [hs, hc, ht, satAdd]
    | 1 => simp [hs, hc, ht, satAdd]
    | n + 2 => simp [hs, hc, ht, satAdd]
  · simp

/-- The entry that a change to a level stores. -/
def AlwaysOn.entry (a : AlwaysOn) (source : Nat) (level : Bool) : RetainedEntry :=
  ⟨a.rtcSec, a.rtcFrac / 4096, source, b2n level,
    crc8 (leBytes 4 a.rtcSec ++ [byte (a.rtcFrac / 4096), byte source, byte (b2n level)])⟩

theorem AlwaysOn.switch_buffer {a : AlwaysOn} (h : a.buffer.length < 64) (source : Nat) (b l : Bool) :
    (a.switch source b l).buffer = a.buffer ++ (if b = l then [] else [a.entry source l]) ∧
    (a.switch source b l).rtcSec = a.rtcSec ∧ (a.switch source b l).rtcFrac = a.rtcFrac := by
  unfold AlwaysOn.switch
  rw [AlwaysOn.store_room h]
  by_cases hbl : b = l
  · simp [hbl]
  · rw [if_neg hbl, if_neg hbl]
    cases l
    · match source with
      | 0 => exact ⟨rfl, rfl, rfl⟩
      | 1 => exact ⟨rfl, rfl, rfl⟩
      | n + 2 => exact ⟨rfl, rfl, rfl⟩
    · exact ⟨rfl, rfl, rfl⟩

/-- A sample against the levels of the one before it. -/
theorem AlwaysOn.sample_of_levels {a : AlwaysOn} {b l : PinLevels} (h : a.levels = some b) : a.sample l =
    { ((a.switch 0 b.sealHigh l.sealHigh).switch 1 b.coverHigh l.coverHigh).switch 2 b.termHigh l.termHigh with
      levels := some l } := by
  unfold AlwaysOn.sample
  rw [h]
  rfl

theorem AlwaysOn.sample_buffer {a : AlwaysOn} {b l : PinLevels} (h : a.levels = some b) (hroom : a.buffer.length ≤ 61) :
    (a.sample l).buffer = a.buffer ++ (if b.sealHigh = l.sealHigh then [] else [a.entry 0 l.sealHigh]) ++
      (if b.coverHigh = l.coverHigh then [] else [a.entry 1 l.coverHigh]) ++
      (if b.termHigh = l.termHigh then [] else [a.entry 2 l.termHigh]) := by
  have hone (c : Prop) [Decidable c] (e : RetainedEntry) : (if c then [] else [e]).length ≤ 1 := by
    split <;> simp
  obtain ⟨h1, hsec1, hfrac1⟩ := AlwaysOn.switch_buffer (a := a) (by omega) 0 b.sealHigh l.sealHigh
  have hlen1 : (a.switch 0 b.sealHigh l.sealHigh).buffer.length < 63 := by
    rw [h1, List.length_append]
    have := hone (b.sealHigh = l.sealHigh) (a.entry 0 l.sealHigh)
    omega
  obtain ⟨h2, hsec2, hfrac2⟩ := AlwaysOn.switch_buffer (a := a.switch 0 b.sealHigh l.sealHigh) (by omega) 1
    b.coverHigh l.coverHigh
  have hlen2 : ((a.switch 0 b.sealHigh l.sealHigh).switch 1 b.coverHigh l.coverHigh).buffer.length < 64 := by
    rw [h2, List.length_append]
    have := hone (b.coverHigh = l.coverHigh) ((a.switch 0 b.sealHigh l.sealHigh).entry 1 l.coverHigh)
    omega
  obtain ⟨h3, -, -⟩ := AlwaysOn.switch_buffer hlen2 2 b.termHigh l.termHigh
  rw [AlwaysOn.sample_of_levels h]
  refine h3.trans ?_
  rw [h2, h1]
  unfold AlwaysOn.entry
  rw [hsec2, hfrac2, hsec1, hfrac1]

/-! ### The drain (R58) -/

theorem State.logAt_aon (s : State) (t : Nat) (rtc : Bool) (cls code origin mp : Nat) (data : Bytes) :
    (s.logAt t rtc cls code origin mp data).aon = s.aon := by
  rw [State.logAt_frame]

theorem State.tell_aon (s : State) (x : Unsolicited) : (s.tell x).aon = s.aon := by
  rw [State.tell_frame]

theorem State.logBoth_aon (s : State) (t : Nat) (rtc : Bool) (cls code origin mp : Nat) (data : Bytes) :
    (s.logBoth t rtc cls code origin mp data).aon = s.aon := by
  unfold State.logBoth
  rw [State.logAt_aon]
  unfold State.sealLogAt
  dsimp only
  split <;> rfl

theorem State.discardCal_aon (s : State) (cause origin : Nat) : (s.discardCal cause origin).aon = s.aon := by
  unfold State.discardCal
  split
  · rfl
  · exact State.logAt_aon _ _ _ _ _ _ _ _

theorem State.openSession_aon (s : State) (t : Nat) (rtc : Bool) : (s.openSession t rtc).aon = s.aon := by
  unfold State.openSession
  dsimp only
  rw [State.tell_aon, State.logBoth_aon]
  rfl

theorem State.closeSession_aon (s : State) (t : Nat) (rtc : Bool) : (s.closeSession t rtc).aon = s.aon := by
  unfold State.closeSession
  dsimp only
  rw [State.tell_aon, State.discardCal_aon, State.logBoth_aon]
  rfl

theorem State.logOutage_aon (s : State) (e : RetainedEntry) : (s.logOutage e).aon = s.aon := by
  unfold State.logOutage
  dsimp only
  rw [State.logAt_aon]
  rfl

/-- An entry that is drained changes the logs and what they count, not the domain. -/
theorem drainEntry_aon (x : State × Nat × Nat) (e : RetainedEntry) : (drainEntry x e).1.aon = x.1.aon := by
  obtain ⟨s, cover, term⟩ := x
  unfold drainEntry
  dsimp only
  split
  · rfl
  · split
    · dsimp only
      split_ifs
      · exact State.openSession_aon _ _ _
      · exact State.closeSession_aon _ _ _
      · exact State.logBoth_aon _ _ _ _ _ _ _ _
    · exact State.logAt_aon _ _ _ _ _ _ _ _
    · exact State.logAt_aon _ _ _ _ _ _ _ _
    · have hout := s.logOutage_aon e
      generalize s.logOutage e = r at hout
      dsimp only
      split_ifs
      · exact (State.closeSession_aon r _ _).trans hout
      · exact hout
      · exact hout

theorem State.logLost_aon (s : State) (a : AlwaysOn) (c : List Nat) : (s.logLost a c).aon = s.aon := by
  have hlog (r : State) (cls code mp : Nat) (data : Bytes) : (r.logEvent cls code mp data).aon = r.aon :=
    State.logAt_aon _ _ _ _ _ _ _ _
  have hwarn (r : State) (n : Nat) : (r.warn n).aon = r.aon := rfl
  unfold State.logLost
  dsimp only
  split_ifs <;> simp only [hlog, hwarn]

theorem State.drainCommit_aon (s : State) : s.drainCommit.aon = s.aon := by
  have hfold : (s.aon.buffer.foldl drainEntry (s, 0, 0)).1.aon = s.aon :=
    foldl_keeps (π := fun x : State × Nat × Nat => x.1.aon) drainEntry_aon _ _
  exact (State.logLost_aon _ _ _).trans hfold

/-- A drain takes the whole buffer. -/
theorem State.drainNew_buffer (s : State) : s.drainNew.aon.buffer = [] := by
  have hn : s.drainEpoch.drainCommit.legal.committedN = s.drainEpoch.aon.buffer.length := rfl
  have hbuf : s.drainNew.aon.buffer = s.drainEpoch.drainCommit.aon.buffer.drop
      s.drainEpoch.drainCommit.legal.committedN := rfl
  rw [hbuf, State.drainCommit_aon, hn, List.drop_length]

/-! ### The RTC (R99) -/

theorem State.writeRtc_powered (h : s.aon.powered = true) : s.writeRtc.aon = { s.aon with
    rtcSec := s.nodeTime / 1000000000 % 4294967296
    rtcFrac := s.nodeTime % 1000000000 * 32768 / 1000000000 } := if_pos h

/-- The domain as it powers up (R66). -/
def AlwaysOn.powerUp (a : AlwaysOn) (l : PinLevels) : AlwaysOn :=
  { a with
    powered := true, rtcSec := 0, rtcFrac := 0, trim := 0, trimAcc := 0, rtcValid := false
    levels := some l, buffer := [], sealCount := 0, coverCount := 0, termCount := 0
    epoch := 0, epochSet := false, overflow := false, updGen := 0, railIntegrals := [] }

theorem State.modAon_of_eq {g : AlwaysOn → AlwaysOn} (h : g s.aon = s.aon) : s.modAon g = s := by
  unfold State.modAon
  rw [h]

theorem State.writeRtc_aon_powered (s : State) : s.writeRtc.aon.powered = s.aon.powered := by
  unfold State.writeRtc State.modAon
  dsimp only [State.modNtu]
  split
  · rfl
  · rfl

/-- Settles O37: samples by the switch of each input, the drain by what its commit leaves, the rest by its guard. -/
theorem alwaysOnDomainKeepsTamper : Obligations.AlwaysOnDomainKeepsTamper := by
  refine ⟨?sample, ?first, ?counts, ?buffer, fun a source level h => AlwaysOn.store_full h source level, ?drain,
    ?powerUp, ?supplyLoss, ?powerBack, ?hourly, fun _ => rfl, ?written⟩
  case sample =>
    intro s u dt l hu hp
    rw [exec_tamperSample]
    unfold execTamperSample
    dsimp only
    rw [hu, if_pos hp]
    rfl
  case first =>
    intro a l h
    unfold AlwaysOn.sample
    rw [h]
  case counts =>
    intro a b l h
    rw [AlwaysOn.sample_of_levels h]
    obtain ⟨h1, h2, h3⟩ := a.switch_counts 0 b.sealHigh l.sealHigh
    obtain ⟨h4, h5, h6⟩ := (a.switch 0 b.sealHigh l.sealHigh).switch_counts 1 b.coverHigh l.coverHigh
    obtain ⟨h7, h8, h9⟩ := ((a.switch 0 b.sealHigh l.sealHigh).switch 1 b.coverHigh l.coverHigh).switch_counts 2
      b.termHigh l.termHigh
    refine ⟨rfl, ?_, ?_, ?_⟩
    · rw [h7, h4, h1]
      simp
    · rw [h8, h5, h2]
      simp
    · rw [h9, h6, h3]
      simp
  case buffer =>
    intro a b l e h hroom he
    have heq : e = a.entry := by
      funext source level
      exact he source level
    rw [AlwaysOn.sample_buffer h hroom, heq]
  case drain =>
    intro s u dt hu hl hp hany
    have hdrain : u.drain = u.drainPending.drainNew := if_neg (by simp [hp])
    refine ⟨?_, ?_, ?_⟩
    · have hguard : (u.legalRuns && u.aon.powered && (!u.aon.buffer.isEmpty ||
          u.aon.sealCount + u.aon.coverCount + u.aon.termCount != 0)) = true := by
        rw [hl, hp]
        simpa [← imp_iff_not_or, or_iff_not_imp_left] using hany
      rw [exec_retainedDrain]
      unfold execRetainedDrain
      dsimp only
      rw [hu, if_pos hguard]
    · rw [hdrain, State.drainNew_buffer]
    · rw [hdrain]
      rfl
  case powerUp =>
    intro s u dt l hu hp
    have hexec : exec (.aonPowerUp dt l) s = .next { u with aon := u.aon.powerUp l } := by
      rw [exec_aonPowerUp]
      unfold execAonPowerUp
      dsimp only
      rw [hu, if_neg (by simp [hp])]
      rfl
    exact ⟨_, hexec, rfl, rfl, rfl, rfl, rfl, rfl, rfl, rfl, rfl, rfl, rfl⟩
  case supplyLoss =>
    intro s u dt hu hp hor
    rw [exec_aonSupplyLoss]
    unfold execAonSupplyLoss
    dsimp only
    rw [hu, if_pos (by simpa [hp] using hor)]
    rfl
  case powerBack =>
    intro s u dt hu hp
    rw [exec_mainPowerReturn]
    unfold execMainPowerReturn
    dsimp only
    rw [hu, if_neg (by simp [hp])]
    rfl
  case hourly =>
    intro s u dt hu hl hf hage
    have hsince : u.since u.ntu.rtcWriteAt (3600 * second) = true := State.since_of hage rfl
    rw [exec_rtcHourlyWrite]
    unfold execRtcHourlyWrite
    dsimp only
    rw [hu, if_pos (by rw [hl, hf, hsince]; rfl)]
    have hp := u.writeRtc_aon_powered
    cases hpow : u.aon.powered
    · rw [if_neg (by simp)]
      refine congrArg Host.Outcome.next (State.modAon_of_eq (if_neg ?_))
      rw [hp, hpow]
      simp
    · rw [if_pos rfl]
      refine congrArg Host.Outcome.next (congrArg (fun a => { u.writeRtc with aon := a }) (if_pos ?_))
      rw [hp, hpow]
  case written =>
    intro s hp
    have h := State.writeRtc_powered hp
    exact ⟨by rw [h], by rw [h], rfl⟩

end Sys2Proof.Machine
end

section
/-! PROOFS. Faults of one side and its restart (R47, R64, R65, R364, R367, R516 to R519). -/

namespace Sys2Proof.Machine

variable {s u : State} {dt : Ticks} {env : StartEnv}

/-! ### The stopping of the LC (R516, R517) -/

/-- What the stopping of the LC leaves. -/
def State.kept (s : State) := (s.hawk, s.mem.cells, s.params, s.fabric, s.flash)

theorem State.openGap_kept (s : State) (m k f : Nat) : (s.openGap m k f).kept = s.kept := by
  unfold State.openGap
  dsimp only
  split <;> rfl

theorem State.closeContext_kept (s : State) (i : Nat) : (s.closeContext i).kept = s.kept := by
  unfold State.closeContext
  rfl

theorem State.lcDown_kept (s : State) (k f : Nat) : (s.lcDown k f).kept = s.kept := by
  have hgaps : (s.openGaps k f).kept = s.kept := foldl_keeps (fun r m => r.openGap_kept m k f) _ _
  have hjobs (r : State) : r.abortLegalJobs.kept = r.kept := foldl_keeps (fun r i => r.closeContext_kept i) _ _
  have h : ((s.openGaps k f).abortLegalJobs).kept = s.kept := (hjobs _).trans hgaps
  unfold State.lcDown
  dsimp only
  generalize (s.openGaps k f).abortLegalJobs = r at h ⊢
  exact h

theorem getElem?_setAt_nil (l : List Bytes) (i : Nat) : (setAt l i [])[i]?.getD [] = [] := by
  unfold setAt
  rw [List.getElem?_set_self']
  cases l[i]? <;> rfl

/-! ### The stopping of the AC side (R518) -/

/-- What a transfer that the restart cuts changes: the bytes of its destination, drawn anew. -/
def State.offMem (s : State) := (s.legal, s.points, s.crypto)

theorem State.scramble_offMem (s : State) (r : Nat × Nat) : (s.scramble r).offMem = s.offMem := by
  unfold State.scramble
  rfl

theorem State.scrambleTransfer_offMem (s : State) (p : PoolDesc) : (s.scrambleTransfer p).offMem = s.offMem := by
  unfold State.scrambleTransfer
  split
  · rfl
  · refine foldl_keeps (fun r x => ?_) _ _
    split
    · exact r.scramble_offMem x
    · rfl

theorem State.acDown_fold_offMem (s : State) :
    (s.mem.pool.foldl State.scrambleTransfer s.restartDiscipline).offMem = s.offMem :=
  foldl_keeps State.scrambleTransfer_offMem _ _

/-- The banks of the metering points pass the stopping. -/
theorem State.acDown_bank (s : State) (m : Nat) : (s.acDown.point m).bank = (s.point m).bank := by
  have hpoints : (s.mem.pool.foldl State.scrambleTransfer s.restartDiscipline).points = s.points :=
    congrArg (fun x => x.2.1) s.acDown_fold_offMem
  have hdown : s.acDown.points = (s.mem.pool.foldl State.scrambleTransfer s.restartDiscipline).points.map (fun p =>
    { p with prov := Prov.reset, extBase := none, extSupplySum := 0, extSupplyN := 0, extReturnSum := 0,
             extReturnN := 0 }) := rfl
  unfold State.point
  rw [hdown, hpoints, List.getD_eq_getElem?_getD, List.getD_eq_getElem?_getD, List.getElem?_map]
  cases s.points[m]? <;> rfl

/-! ### The LC held (R519) -/

/-- What holding the LC sets. -/
def State.heldMarks (s : State) := (s.boot.lcHalt, s.boot.lcv)

theorem State.stopImages_heldMarks (s : State) (l : List Nat) : (s.stopImages l).heldMarks = s.heldMarks :=
  foldl_keeps (f := fun s k => (s.modComponent k (fun c => { c with running := false })).modBoot (fun b => { b with
    versions := setAt b.versions k 0, loaded := setAt b.loaded k [] })) (π := State.heldMarks) (fun _ _ => rfl) _ _

theorem State.answer_heldMarks (s : State) (r : GateRequest) (st : Nat) (b : Bytes) :
    (s.answer r st b).heldMarks = s.heldMarks := rfl

theorem State.holdLc_heldMarks (s : State) : s.holdLc.heldMarks = (true, 0) := by
  have hfold (l : List GateRequest) (r : State) :
      (l.foldl (fun s r => s.answer r stFault []) r).heldMarks = r.heldMarks :=
    foldl_keeps (fun r x => r.answer_heldMarks x stFault []) _ _
  exact (hfold _ _).trans (State.stopImages_heldMarks _ _)

/-! ### RECOVERY (R62) -/

theorem State.enterRecovery_stage (s : State) : s.enterRecovery.boot.stage = 8 := by
  have hstart (r : State) : r.startSession.boot = r.boot := by
    unfold State.startSession
    split
    · rfl
    · extract_lets v w x
      have hx : x.boot = r.boot := by
        unfold x
        rw [postEvent_frame]
        rfl
      clear_value x
      split
      · exact hx
      · split
        · exact hx
        · rw [State.emit_boot]
          exact hx
  exact congrArg Boot.stage (hstart _)

/-! ### Restarts within 600 s -/

theorem length_recentRestarts_le (now : Nat) (l : List Nat) : (recentRestarts now l).length ≤ 3 :=
  List.length_take_le _ _

/-- Settles O38: each fault by its guard, the restarts by their count, the stops by what they leave. -/
theorem faultsRestartOneSide : Obligations.FaultsRestartOneSide := by
  refine ⟨?lc, ?ac, ?appLate, ?lcCount, fun _ _ _ _ => rfl, ?held, ?acCount, fun s k h => if_pos h, ?lcDown, ?acDown⟩
  case lc =>
    intro s u dt env hu ha
    refine ⟨?_, ?_, ?_, fun hr hage => ?_⟩
    · rw [exec_lockstepMismatch]
      unfold execLockstepMismatch
      dsimp only
      rw [hu, if_pos ha]
    · rw [exec_lcWatchdogExpiry]
      unfold execLcWatchdogExpiry
      dsimp only
      rw [hu, if_pos ha]
    · rw [exec_lcIntegrityFault]
      unfold execLcIntegrityFault
      dsimp only
      rw [hu, if_pos ha]
    · have hsince : u.since u.boot.legalStartAt second = true := State.since_of hage rfl
      rw [exec_legalStartFail]
      unfold execLegalStartFail
      dsimp only
      rw [hu, if_pos (by rw [ha, hr, hsince]; rfl)]
  case ac =>
    intro s u dt env hu ha
    refine ⟨?_, fun addr => ?_⟩
    · rw [exec_acWatchdogExpiry]
      unfold execAcWatchdogExpiry
      dsimp only
      rw [hu, if_pos ha]
    · rw [exec_acIntegrityFault]
      unfold execAcIntegrityFault inSram inHawkOrCapture
      dsimp only
      rw [hu, if_neg (by simp [ha])]
      simp only [Bool.and_eq_true, decide_eq_true_eq]
      by_cases hh : 0x20380000 ≤ addr ∧ addr ≤ 0x203FFFFF
      · rw [if_pos hh, if_pos hh, if_pos (by omega)]
      · rw [if_neg hh, if_neg hh]
        by_cases hs : 0x20000000 ≤ addr ∧ addr < 0x20380000
        · rw [if_pos hs, if_pos (by omega)]
        · rw [if_neg hs, if_neg (by omega)]
  case appLate =>
    intro s u dt env hu hs hage
    have hsince : u.since u.boot.appStartAt (2 * second) = true := State.since_of hage rfl
    rw [exec_appStartFail]
    unfold execAppStartFail
    dsimp only
    rw [hu, if_pos ⟨hs, hsince⟩]
  case lcCount =>
    rintro s v fault cause env recent hrecent rfl
    have hr : recentRestarts s.mono s.boot.lcRestarts = recent := hrecent.symm
    have hle : recent.length ≤ 3 := hr ▸ length_recentRestarts_le _ _
    unfold State.lcRestart
    dsimp only
    rw [hr]
    by_cases h3 : recent.length = 3
    · rw [if_pos (by omega), if_pos h3, h3]
      rfl
    · rw [if_neg (by omega), if_neg h3]
      rfl
  case held =>
    intro s
    have h := s.holdLc_heldMarks
    simp only [State.heldMarks, Prod.mk.injEq] at h
    refine ⟨h.1, h.2, ?_⟩
    unfold State.lcAlive
    rw [h.1]
    simp
  case acCount =>
    rintro s v fault env recent hrecent rfl
    have hr : recentRestarts s.mono s.boot.acRestarts = recent := hrecent.symm
    have hbit : causeBit 6 = 64#32 := rfl
    unfold State.acRestart
    dsimp only
    rw [hr, hbit]
    refine ⟨fun hlt => if_neg (by omega), ?_⟩
    rintro w h3 rfl
    rw [if_pos (by omega)]
    exact ⟨rfl, State.enterRecovery_stage _⟩
  case lcDown =>
    intro s k f
    have h := s.lcDown_kept k f
    simp only [State.kept, Prod.mk.injEq] at h
    obtain ⟨hhawk, hcells, hparams, hfabric, hflash⟩ := h
    refine ⟨hhawk, hcells, ?_, hparams, hfabric, hflash, ?_, ?_⟩
    · unfold State.lcDown
      rfl
    · unfold State.lcDown setAt
      dsimp only
      generalize (s.openGaps k f).abortLegalJobs = r
      rw [List.getElem?_set_ne (by decide)]
      exact getElem?_setAt_nil _ _
    · unfold State.lcDown
      dsimp only
      generalize (s.openGaps k f).abortLegalJobs = r
      exact getElem?_setAt_nil _ _
  case acDown =>
    intro s
    have h := s.acDown_fold_offMem
    simp only [State.offMem, Prod.mk.injEq] at h
    obtain ⟨hlegal, -, hcrypto⟩ := h
    have hseal (x : Legal) (hx : x = s.legal) : x.sealLog = s.legal.sealLog ∧ x.eventLog = s.legal.eventLog ∧
        x.calStore = s.legal.calStore := hx ▸ ⟨rfl, rfl, rfl⟩
    obtain ⟨h1, h2, h3⟩ := hseal _ hlegal
    refine ⟨h1, h2, h3, s.acDown_bank, rfl, (congrArg Crypto.slots hcrypto :), fun a hlo hhi => ?_⟩
    exact (MemSys.read_clearSram _ a).trans (if_pos ⟨hlo, hhi⟩)

end Sys2Proof.Machine
end

section
/-! PROOFS. The supervision of the modulator clock, the slew, the time status and sync events (R73, R78, R88 to R94,
R140 to R145). -/

namespace Sys2Proof.Machine

variable {s u : State} {dt : Ticks}

/-! ### What restarts and stops of the chains can change -/

/-- `s` with the channels and the metering points of `t`. -/
def State.withChains (s t : State) : State := { s with channels := t.channels, points := t.points }

/-- `t` differs from `s` in channels and metering points alone. -/
def ChainFrame (s t : State) : Prop := t = s.withChains t

theorem ChainFrame.refl (s : State) : ChainFrame s s := rfl

theorem ChainFrame.trans {s t v : State} (h : ChainFrame s t) (h' : ChainFrame t v) : ChainFrame s v := by
  unfold ChainFrame at h h' ⊢
  rw [h', h]
  rfl

theorem ChainFrame.modDom {t : State} (h : ChainFrame s t) : t.modDom = s.modDom := by
  unfold ChainFrame at h
  rw [h]
  rfl

theorem ChainFrame.foldl {α : Type} {f : State → α → State} (hf : ∀ s x, ChainFrame s (f s x)) (l : List α) (s : State) :
    ChainFrame s (l.foldl f s) := by
  induction l generalizing s with
  | nil => exact ChainFrame.refl s
  | cons x l ih => exact (hf s x).trans (ih _)

theorem chainFrame_modPoint (s : State) (m : Nat) (g : MeterPoint → MeterPoint) : ChainFrame s (s.modPoint m g) := rfl
theorem chainFrame_modChannel (s : State) (n : Nat) (g : Channel → Channel) : ChainFrame s (s.modChannel n g) := rfl

theorem chainFrame_openGap (s : State) (m k f : Nat) : ChainFrame s (s.openGap m k f) := by
  unfold State.openGap
  dsimp only
  split
  · exact ChainFrame.refl s
  · exact chainFrame_modPoint _ _ _

theorem chainFrame_gapsOf (s : State) (n k f : Nat) : ChainFrame s (s.gapsOf n k f) :=
  ChainFrame.foldl (fun s m => chainFrame_openGap s m k f) _ _

theorem chainFrame_dropWindows (s : State) (n : Nat) : ChainFrame s (s.dropWindows n) :=
  ChainFrame.foldl (fun s m => chainFrame_modPoint s m _) _ _

theorem chainFrame_resetChain (s : State) (n : Nat) : ChainFrame s (s.resetChain n) :=
  (chainFrame_modChannel _ _ _).trans (chainFrame_dropWindows _ _)

theorem chainFrame_restartAll (s : State) (k f : Nat) : ChainFrame s (s.restartAll k f) :=
  (ChainFrame.foldl (fun s n => chainFrame_gapsOf s n k f) _ _).trans (ChainFrame.foldl chainFrame_resetChain _ _)

theorem chainFrame_openGaps (s : State) (k f : Nat) : ChainFrame s (s.openGaps k f) :=
  ChainFrame.foldl (fun s m => chainFrame_openGap s m k f) _ _

theorem chainFrame_stopAll (s : State) (k f : Nat) : ChainFrame s (s.stopAll k f) :=
  (chainFrame_openGaps s k f).trans (ChainFrame.foldl (fun s n =>
    (chainFrame_modChannel s n _).trans (chainFrame_dropWindows _ n)) _ _)

theorem State.restartAll_modDom (s : State) (k f : Nat) : (s.restartAll k f).modDom = s.modDom :=
  (chainFrame_restartAll s k f).modDom

theorem State.stopAll_modDom (s : State) (k f : Nat) : (s.stopAll k f).modDom = s.modDom :=
  (chainFrame_stopAll s k f).modDom

/-! ### A stop reaches every channel -/

theorem State.dropWindows_channels (s : State) (n : Nat) : (s.dropWindows n).channels = s.channels :=
  foldl_keeps (π := State.channels) (fun r m => State.modPoint_channels r m _) _ _

theorem State.openGaps_channels (s : State) (k f : Nat) : (s.openGaps k f).channels = s.channels := by
  refine foldl_keeps (π := State.channels) (fun s m => ?_) _ _
  unfold State.openGap
  dsimp only
  split <;> rfl

/-- The stop of one channel. -/
def State.stopOne (s : State) (n : Nat) : State :=
  (s.modChannel n (fun c => { c with running := false, settled := false, cycle := [] })).dropWindows n

theorem State.stopOne_running (s : State) (n i : Nat) :
    ((s.stopOne n).channel i).running = if i = n then false else (s.channel i).running := by
  have hch : (s.stopOne n).channels = s.channels.modify n (fun c => { c with
      running := false, settled := false, cycle := [] }) := State.dropWindows_channels _ _
  unfold State.channel
  rw [hch, List.getD_eq_getElem?_getD, List.getD_eq_getElem?_getD, List.getElem?_modify]
  by_cases h : i = n
  · subst h
    cases s.channels[i]? <;> simp
    rfl
  · have hn : ¬ n = i := fun hn => h hn.symm
    rw [if_neg h]
    cases s.channels[i]? <;> simp [hn]

theorem foldl_stopOne_running (l : List Nat) (s : State) (i : Nat) :
    ((l.foldl State.stopOne s).channel i).running = if i ∈ l then false else (s.channel i).running := by
  induction l generalizing s with
  | nil => simp
  | cons n l ih =>
    rw [List.foldl_cons, ih, State.stopOne_running]
    by_cases h : i ∈ l <;> by_cases hn : i = n <;> simp [h, hn]

theorem State.stopAll_running (s : State) (k f : Nat) {n : Nat} (hn : n < 16) :
    ((s.stopAll k f).channel n).running = false := by
  refine (foldl_stopOne_running (upTo 16) (s.openGaps k f) n).trans (if_pos (mem_upTo.mpr hn))

/-! ### Clock events -/

theorem State.logClock_frame (s : State) (code : Nat) (v : Int) (b a : Nat) : s.logClock code v b a = { s with
    legal := (s.logClock code v b a).legal, gate := (s.logClock code v b a).gate } := by
  unfold State.logClock
  split
  · exact State.logAt_frame ..
  · rfl

theorem isGlitch_iff {p : Nat} : isGlitch p = true ↔ 40690 < 50 * ((p : Int) - 40690).natAbs := by
  unfold isGlitch
  exact decide_eq_true_iff

theorem State.logClock_mono (s : State) (code : Nat) (v : Int) (b a : Nat) : (s.logClock code v b a).mono = s.mono := by
  rw [State.logClock_frame]
  rfl

theorem State.logClock_modDom (s : State) (code : Nat) (v : Int) (b a : Nat) :
    (s.logClock code v b a).modDom = s.modDom := by
  rw [State.logClock_frame]

/-- A stop of MCLK or a period that is a GLITCH, while MCLK is preferred. -/
theorem exec_mclkStop_real {g : Option Nat} {recent : List Nat} (hu : s.elapse dt = u) (hp : u.prefersMclk = true)
    (hg : ∀ p, g = some p → 40690 < 50 * ((p : Int) - 40690).natAbs)
    (hrecent : recent = u.mono :: u.modDom.switches.filter (fun t => decide (u.mono ≤ t + 60000000000))) :
    exec (.mclkStop dt g) s =
      let v := u.modMod (fun m => { m with trackSince := none })
      let w := ((v.logClock (if g = none then 1 else 2) (g.getD 0) 1 0).modMod (fun m => { m with
        switches := recent })).modSwitch .xoMod
      .next (if u.modDom.source ≠ .mclk then v
        else if u.modDom.latched = true ∨ u.modDom.xoRuns = false then v.modLost
        else if 3 ≤ recent.length then (w.modMod (fun m => { m with latched := true })).logClock 5 recent.length 0 0
        else w) := by
  have hrec : (u.modMod (fun m => { m with trackSince := none })).mono ::
      (u.modMod (fun m => { m with trackSince := none })).modDom.switches.filter (fun t =>
        decide ((u.modMod (fun m => { m with trackSince := none })).mono ≤ t + 60 * second)) = recent := by
    rw [hrecent]
    rfl
  rw [exec_mclkStop]
  unfold execMclkStop
  dsimp only
  rw [hu]
  cases g with
  | none =>
    dsimp only
    simp only [State.logClock_mono, State.logClock_modDom]
    rw [hrec, if_neg (by simp [hp])]
    simp only [State.modMod, bne_iff_ne, Bool.or_eq_true, Bool.not_eq_true']
    rfl
  | some p =>
    dsimp only
    simp only [State.logClock_mono, State.logClock_modDom]
    rw [hrec, if_neg (by simp [hp, isGlitch_iff.mpr (hg p rfl)])]
    simp only [State.modMod, bne_iff_ne, Bool.or_eq_true, Bool.not_eq_true', reduceCtorEq, if_false, Option.getD_some]
    rfl

theorem State.postFault_modDom (s : State) (code : Nat) : (s.postFault code).modDom = s.modDom := by
  rw [State.postFault_frame]

theorem State.postFault_channels (s : State) (code : Nat) : (s.postFault code).channels = s.channels := by
  rw [State.postFault_frame]

theorem State.logClock_channels (s : State) (code : Nat) (v : Int) (b a : Nat) :
    (s.logClock code v b a).channels = s.channels := by
  rw [State.logClock_frame]

/-- Settles O39: each event by the source that it meets. -/
theorem modulatorClockIsSupervised : Obligations.ModulatorClockIsSupervised := by
  refine ⟨?stop, ?noStop, ?switch, ?lost, ?inTrack, ?outside, ?window, ?back, ?xoLost, ?xoStarts, ?xoFails, ?xoBehind,
    ?epoch⟩
  case stop =>
    rintro s u v w dt g recent hu hp hg rfl hrecent rfl
    rw [exec_mclkStop_real hu hp hg hrecent]
    dsimp only
    refine ⟨fun h => congrArg _ (if_pos h), fun h hor => ?_, fun h hl hx => ?_⟩
    · rw [if_neg (by simp [h]), if_pos hor]
    · rw [if_neg (by simp [h]), if_neg (by simp [hl, hx])]
      by_cases h3 : recent.length < 3
      · rw [if_neg (by omega), if_pos h3]
      · rw [if_pos (by omega), if_neg h3]
  case noStop =>
    intro s u dt g hu h
    rw [exec_mclkStop]
    unfold execMclkStop
    dsimp only
    rw [hu]
    refine congrArg _ (if_pos ?_)
    rcases h with h | ⟨p, rfl, hp⟩
    · simp [h]
    · have hno : isGlitch p = false := by
        rw [Bool.eq_false_iff, ne_eq, isGlitch_iff]
        omega
      simp [hno]
  case switch =>
    intro s src
    unfold State.modSwitch
    rw [State.restartAll_modDom]
    exact ⟨rfl, rfl⟩
  case lost =>
    intro s
    unfold State.modLost
    dsimp only
    refine ⟨?_, fun n hn => ?_⟩
    · rw [State.postFault_modDom, State.logClock_modDom, State.stopAll_modDom]
      rfl
    · unfold State.channel
      rw [State.postFault_channels, State.logClock_channels]
      exact State.stopAll_running _ gapClock 3 hn
  case inTrack =>
    intro s u dt ppm ok hu hp hsrc hppm
    rw [exec_mclkWindow]
    unfold execMclkWindow
    dsimp only
    rw [hu, if_neg (by simp [hp]), if_pos hsrc, if_pos (decide_eq_true hppm)]
  case outside =>
    intro s u dt ppm hu hp hsrc hppm hrel
    rw [exec_mclkWindow]
    unfold execMclkWindow
    dsimp only
    rw [hu, if_neg (by simp [hp]), if_pos hsrc, if_neg (by simpa using hppm), if_neg (by simp [hrel])]
    rfl
  case window =>
    intro s u dt ppm ok hu hp hsrc
    rw [exec_mclkWindow]
    unfold execMclkWindow
    dsimp only
    rw [hu, if_neg (by simp [hp]), if_neg hsrc]
    simp only [Bool.and_eq_true, decide_eq_true_eq]
    rfl
  case back =>
    intro s u dt t hu hp hl hsrc ht hage
    have hsince : u.sinceOpt u.modDom.trackSince second = true := by
      rw [ht]
      exact State.since_of hage rfl
    have hopen : ((u.modDom.source == .xoMod && !u.modDom.latched) || u.modDom.source == .stopped) = true := by
      rcases hsrc with ⟨h1, h2⟩ | h1
      · simp [h1, h2]
      · simp [h1]
    rw [exec_mclkReturn]
    unfold execMclkReturn
    dsimp only
    rw [hu, if_pos (by rw [hp, hl, hopen, hsince]; rfl), ht]
    rfl
  case xoLost =>
    intro s u dt hu h
    rw [exec_xoModLost]
    unfold execXoModLost
    dsimp only
    rw [hu, if_pos h]
  case xoStarts =>
    intro s u dt hu h hl
    rw [exec_xoModRestartTry]
    unfold execXoModRestartTry
    dsimp only
    rw [hu, if_neg (by simp [h, hl]), if_neg (by simp), if_pos h]
    rfl
  case xoFails =>
    intro s u dt hu h hl
    rw [exec_xoModRestartTry]
    unfold execXoModRestartTry
    dsimp only
    rw [hu, if_neg (by simp [h, hl]), if_pos (by simp)]
  case xoBehind =>
    intro s u dt hu h hl
    rw [exec_xoModRestartTry]
    unfold execXoModRestartTry
    dsimp only
    rw [hu, if_neg (by simp [h, hl]), if_neg (by simp), if_neg (by simp [h])]
    refine ⟨fun hx => ?_, fun t hx hlat ht hage => ?_⟩
    · rw [if_pos (by simp [hx])]
      rfl
    · have hsince : u.sinceOpt u.modDom.xoSince second = true := by
        rw [ht]
        exact State.since_of hage rfl
      rw [if_neg (by simp [hx]), if_pos (by rw [hlat, hsince]; rfl)]
  case epoch =>
    intro s u dt hu hsrc hbase hmod hstamps
    have hall : u.modDom.stamps.all (fun st => decide (st.1 < u.modDom.cycle)) = true :=
      List.all_eq_true.mpr fun x hx => decide_eq_true (hstamps x hx)
    rw [exec_modEpoch]
    unfold execModEpoch
    dsimp only
    rw [hu, if_pos (by rw [hall]; simp [hsrc, hbase, hmod])]
    rfl

end Sys2Proof.Machine
end

section
/-! PROOFS. The events of node time and sync (R73, R78, R140, R141, Tables 3.6, 5.11 and 5.12). -/

namespace Sys2Proof.Machine

variable {s u : State} {dt : Ticks}

/-- An event restarts the epoch counter at its cycle (R140). -/
theorem State.syncEvent_modDom (s : State) (src e : Nat) : (s.syncEvent src e).modDom = { s.modDom with
    epochBase := s.modDom.cycle, stamps := [(s.modDom.cycle, e)] } := by
  have htell (r : State) (x : Unsolicited) : (r.tell x).modDom = r.modDom := by rw [State.tell_frame]
  have hlog (r : State) (cls code mp : Nat) (b : Bytes) : (r.logEvent cls code mp b).modDom = r.modDom := by
    unfold State.logEvent
    rw [State.logAt_frame]
  have hsync (r : State) (g : Sync → Sync) : (r.modSync g).modDom = r.modDom := rfl
  unfold State.syncEvent
  dsimp only
  split
  · rw [State.emit_modDom, htell, hlog, hsync, State.restartAll_modDom]
    rfl
  · rw [htell, hlog, hsync, State.restartAll_modDom]
    rfl

/-- The completion of SYNC_AT, where its command is still in flight. -/
def State.completeSync (s : State) (c : Call) (st : Nat) (b : Bytes) : State :=
  match s.accepted c 0x0203 with
  | none => s
  | some f => s.respond f st b

theorem State.completeSync_some {c : Call} {f : InFlight} {st : Nat} {b : Bytes} (h : s.accepted c 0x0203 = some f) :
    s.completeSync c st b = s.respond f st b := by
  unfold State.completeSync
  rw [h]

theorem State.completeSync_none {c : Call} {st : Nat} {b : Bytes} (h : s.accepted c 0x0203 = none) :
    s.completeSync c st b = s := by
  unfold State.completeSync
  rw [h]

/-- The comparator, at its time. -/
theorem exec_syncAtFire_due {after t : Nat} {c : Call} (hu : s.elapse dt = u) (ha : u.sync.armed = some (t, c))
    (ht : t ≤ u.nodeTime + 82) : exec (.syncAtFire dt after) s =
      let v := u.modSync (fun y => { y with armed := none })
      let e := t + min after 40700 / 1000
      .next (if u.modDom.source = .stopped ∨ u.legalRuns = false then v.completeSync c stFault []
        else if u.syncAllowed 3 = false then v.ignoreSync.completeSync c stDeniedState []
        else if u.inHoldoff = true then v.ignoreSync.completeSync c stBusy []
        else (v.syncEvent 3 e).completeSync c stDone (leBytes 8 e)) := by
  rw [exec_syncAtFire]
  unfold execSyncAtFire
  dsimp only
  rw [hu, ha]
  dsimp only
  rw [if_neg (by omega)]
  simp only [Bool.or_eq_true, decide_eq_true_eq, Bool.not_eq_true']
  rfl

/-- Settles O40: each event by its condition, the comparator by what refuses it. -/
theorem timeAndSyncEvents : Obligations.TimeAndSyncEvents := by
  refine ⟨?slew, ?clamp, ?holdover, ?edge, ?noEdge, ?fires, ?refused, ?early, ?event, fun _ => rfl⟩
  case slew =>
    intro s u dt hu hl hs
    have hdue : decide ((u.ntu.slewHigh + 1) * second * 4294967296 ≤ u.ntu.slew.natAbs) = true := decide_eq_true hs
    rw [exec_slewSecond]
    unfold execSlewSecond
    dsimp only
    rw [hu, if_pos (by rw [hl, hdue]; rfl)]
    rfl
  case clamp =>
    intro s u dt hu hl hc hor
    rw [exec_slewClamp]
    unfold execSlewClamp
    dsimp only
    rw [hu, if_pos (by simpa [hl, hc] using hor)]
    rfl
  case holdover =>
    intro s u dt t hu hf ht hage
    have hsince : u.sinceOpt u.ntu.lastOffset (60 * second) = true := by
      rw [ht]
      exact State.since_of hage rfl
    rw [exec_fineHoldoverExpiry]
    unfold execFineHoldoverExpiry
    dsimp only
    rw [hu, if_pos ⟨hf, hsince⟩]
  case edge =>
    intro s u dt hu hsrc hl
    rw [exec_syncInEdge]
    unfold execSyncInEdge
    dsimp only
    rw [hu, if_neg (by simp [hsrc, hl])]
    cases u.syncAllowed 1 <;> cases u.inHoldoff <;> rfl
  case noEdge =>
    intro s u dt low high hu h
    rw [exec_syncInEdge]
    unfold execSyncInEdge
    dsimp only
    rw [hu, if_pos (by rw [h]; rfl)]
  case fires =>
    rintro s u v dt after t c hu ha ht hsrc hl hallow hhold hafter rfl
    have hmin : min after 40700 = after := min_eq_left hafter
    rw [exec_syncAtFire_due hu ha ht]
    dsimp only
    rw [if_neg (by simp [hsrc, hl]), if_neg (by simp [hallow]), if_neg (by simp [hhold]), hmin]
    exact ⟨fun f hf => congrArg _ (State.completeSync_some hf), fun hf => congrArg _ (State.completeSync_none hf)⟩
  case refused =>
    rintro s u v dt after t c f hu ha ht hf rfl
    rw [exec_syncAtFire_due hu ha ht]
    dsimp only
    refine ⟨fun h => ?_, fun hsrc hl hallow => ?_, fun hsrc hl hallow hhold => ?_⟩
    · rw [if_pos h]
      exact congrArg _ (State.completeSync_some hf)
    · rw [if_neg (by simp [hsrc, hl]), if_pos hallow]
      exact congrArg _ (State.completeSync_some hf)
    · rw [if_neg (by simp [hsrc, hl]), if_neg (by simp [hallow]), if_pos hhold]
      exact congrArg _ (State.completeSync_some hf)
  case early =>
    intro s u dt after t c hu ha ht
    rw [exec_syncAtFire]
    unfold execSyncAtFire
    dsimp only
    rw [hu, ha]
    exact congrArg _ (if_pos ht)
  case event =>
    intro s src e
    have hsync := s.syncEvent_sync src e
    have hmod := s.syncEvent_modDom src e
    exact ⟨_, rfl, by rw [hsync], by rw [hsync], by rw [hsync], by rw [hsync], by rw [hsync], by rw [hmod], by rw [hmod]⟩

end Sys2Proof.Machine
end

section
/-! PROOFS. Faults of the main and of the DSP clock (R520, R521). -/

namespace Sys2Proof.Machine

variable {s u : State} {dt : Ticks}

/-! ### What the ports do with the system clock: nothing -/

/-- The marks of the system clock's source. -/
def State.clockMarks (s : State) := (s.ntu.sysSource, s.boot.mainClockFault)

theorem LinkFrame.clockMarks {t : State} (h : LinkFrame s t) : t.clockMarks = s.clockMarks := by
  unfold LinkFrame at h
  rw [h]
  rfl

theorem ChainFrame.clockMarks {t : State} (h : ChainFrame s t) : t.clockMarks = s.clockMarks := by
  unfold ChainFrame at h
  rw [h]
  rfl

section
variable (s)

theorem State.respond_clockMarks (f : InFlight) (st : Nat) (b : Bytes) :
    (s.respond f st b).clockMarks = s.clockMarks := by
  unfold State.clockMarks
  rw [State.respond_ntu, State.respond_boot]

theorem State.postEvent_clockMarks (code : Nat) (p : Bytes) : (s.postEvent code p).clockMarks = s.clockMarks := by
  rw [postEvent_frame]
  rfl

theorem State.announce_clockMarks (code : Nat) (p : Bytes) : (s.announce code p).clockMarks = s.clockMarks := by
  unfold State.announce
  split
  · exact s.postEvent_clockMarks code p
  · rfl

theorem State.logEvent_clockMarks (cls code mp : Nat) (b : Bytes) :
    (s.logEvent cls code mp b).clockMarks = s.clockMarks := by
  unfold State.logEvent
  rw [State.logAt_frame]
  rfl

theorem State.closeGap_clockMarks (m : Nat) : (s.closeGap m).clockMarks = s.clockMarks := by
  unfold State.closeGap
  split
  · rfl
  · exact s.logEvent_clockMarks _ _ _ _

theorem State.settleGaps_clockMarks : s.settleGaps.clockMarks = s.clockMarks := by
  refine foldl_keeps (fun r m => ?_) _ _
  split
  · split
    · exact r.closeGap_clockMarks m
    · rfl
  · rfl

theorem State.completeJob_clockMarks (x : Context) (st : Nat) (b : Bytes) :
    (s.completeJob x st b).clockMarks = s.clockMarks := by
  unfold State.completeJob
  dsimp only
  split
  · rfl
  · rw [State.respond_clockMarks]
    rfl

theorem State.closeContext_clockMarks (i : Nat) : (s.closeContext i).clockMarks = s.clockMarks := by
  unfold State.closeContext
  rfl

theorem State.dropJob_clockMarks (n : Nat) : (s.dropJob n).clockMarks = s.clockMarks := by
  unfold State.dropJob
  split
  · exact s.closeContext_clockMarks _
  · rfl

theorem State.abortJobs_clockMarks (o : Origin) : (s.abortJobs o).clockMarks = s.clockMarks :=
  foldl_keeps (fun r x => by rw [State.completeJob_clockMarks, State.dropJob_clockMarks]) _ _

theorem State.endTunnel_clockMarks (x : Tunnel) (st : Nat) (b : Bytes) :
    (s.endTunnel x st b).clockMarks = s.clockMarks := by
  unfold State.endTunnel
  dsimp only
  split
  · rfl
  · split
    · rfl
    · rw [State.respond_clockMarks]
      rfl

theorem State.abortTunnels_clockMarks : s.abortTunnels.clockMarks = s.clockMarks :=
  foldl_keeps (fun r x => r.endTunnel_clockMarks x _ _) _ _

theorem State.followUpstream_clockMarks : s.followUpstream.clockMarks = s.clockMarks := by
  unfold State.followUpstream
  extract_lets up
  split <;> rfl

theorem State.applyRole_clockMarks (r : Nat × Nat × Nat) : (s.applyRole r).clockMarks = s.clockMarks := by
  unfold State.applyRole
  dsimp only
  rw [State.followUpstream_clockMarks]
  split
  · rfl
  · rw [State.announce_clockMarks]
    split
    · exact State.abortTunnels_clockMarks _
    · rfl

theorem State.noteElection_clockMarks : s.noteElection.clockMarks = s.clockMarks := by
  unfold State.noteElection
  dsimp only
  have hrole : (if s.fabric.role = roleStandalone then s.applyRole (0, 0, roleWorker) else s).clockMarks =
      s.clockMarks := by
    split
    · exact s.applyRole_clockMarks _
    · rfl
  split
  · split
    · rfl
    · exact s.applyRole_clockMarks _
  · split
    · exact hrole
    · exact hrole

theorem State.topologyChanged_clockMarks : s.topologyChanged.clockMarks = s.clockMarks := by
  unfold State.topologyChanged
  rw [State.followUpstream_clockMarks, State.noteElection_clockMarks]
  rfl

theorem State.rerouteQueue_clockMarks (i : Nat) : (s.rerouteQueue i).clockMarks = s.clockMarks := by
  unfold State.rerouteQueue
  refine foldl_keeps (fun r f => ?_) _ _
  split
  · rfl
  · exact (linkFrame_enqueueOn r _ f).clockMarks

theorem State.loseTunnels_clockMarks (i : Nat) : (s.loseTunnels i).clockMarks = s.clockMarks := by
  unfold State.loseTunnels
  dsimp only
  split
  · rw [State.abortJobs_clockMarks]
    rfl
  · rfl

theorem State.dropLink_disable_clockMarks (i : Nat) : (s.dropLink i true).clockMarks = s.clockMarks := by
  unfold State.dropLink
  extract_lets now up peer a b c d e
  have ha : a.clockMarks = s.clockMarks := by
    unfold a
    split
    · exact s.announce_clockMarks _ _
    · rfl
  have hc : c.clockMarks = a.clockMarks := State.rerouteQueue_clockMarks _ i
  have hd : d.clockMarks = c.clockMarks := by
    unfold d
    split
    · exact c.loseTunnels_clockMarks i
    · rfl
  have he : e = d := if_pos rfl
  rw [he]
  split
  · rw [State.topologyChanged_clockMarks, hd, hc, ha]
  · rw [hd, hc, ha]

theorem State.setPort_clockMarks (i : Nat) (on : Bool) : (s.setPort i on).clockMarks = s.clockMarks := by
  unfold State.setPort
  dsimp only
  split
  · split <;> rfl
  · split
    · rfl
    · exact s.dropLink_disable_clockMarks i

theorem State.applyPorts_clockMarks : s.applyPorts.clockMarks = s.clockMarks :=
  foldl_keeps (fun r i => r.setPort_clockMarks i _) _ _

theorem State.startSession_clockMarks : s.startSession.clockMarks = s.clockMarks := by
  unfold State.startSession
  split
  · rfl
  · extract_lets v w x
    have hx : x.clockMarks = s.clockMarks := by
      unfold x
      rw [State.postEvent_clockMarks]
      rfl
    clear_value x
    split
    · exact hx
    · split
      · exact hx
      · exact hx

theorem State.mainClockBack_clockMarks : s.mainClockBack.clockMarks = (.pll, false) := by
  unfold State.mainClockBack
  extract_lets now a b c
  have hb : b.clockMarks = (.pll, false) := by
    unfold b
    split
    · rw [State.settleGaps_clockMarks, (chainFrame_restartAll a _ _).clockMarks]
      rfl
    · rfl
  rw [State.startSession_clockMarks]
  split
  · exact (State.applyPorts_clockMarks _).trans hb
  · exact hb

end

/-- Settles O41: each fault and each return by its guard; what the fault leaves behind is composed of the model's
operations, and the return of the main clock ends with its two marks set. -/
theorem clockFaultsStopMeasurement : Obligations.ClockFaultsStopMeasurement := by
  refine ⟨?fault, ?locked, ?pll, ?back, ?dsp, ?relock, ?stopped⟩
  case fault =>
    intro s u dt hu hsource hfault
    refine ⟨_, _, rfl, rfl, ?_⟩
    rw [exec_mainClockFault]
    unfold execMainClockFault
    dsimp only
    rw [hu, if_neg (by simp [hsource, hfault])]
    rfl
  case locked =>
    intro s u dt t hu hfault hlock
    rw [exec_pllRestartTry]
    unfold execPllRestartTry
    dsimp only
    rw [hu, hfault, hlock]
    dsimp only
    rw [if_neg (by decide), if_neg (by decide)]
    exact congrArg _ (if_congr State.since_iff rfl rfl)
  case pll =>
    intro s u dt hu hfault
    constructor
    · intro hlock
      rw [exec_pllRestartTry]
      unfold execPllRestartTry
      dsimp only
      rw [hu, hfault, hlock]
      rfl
    · rw [exec_pllRestartTry]
      unfold execPllRestartTry
      dsimp only
      rw [hu, hfault]
      rfl
  case back =>
    intro s
    exact Prod.mk.inj s.mainClockBack_clockMarks
  case dsp =>
    intro s u dt hu hsource hlock
    refine ⟨_, rfl, ?_⟩
    rw [exec_dspClockFault]
    unfold execDspClockFault
    dsimp only
    rw [hu, if_neg (by simp [hsource, hlock])]
    rfl
  case relock =>
    intro s u dt hu hlock
    constructor
    · rw [exec_dspClockRelockTry]
      unfold execDspClockRelockTry
      dsimp only
      rw [hu, hlock]
      rfl
    · refine ⟨_, rfl, ?_⟩
      rw [exec_dspClockRelockTry]
      unfold execDspClockRelockTry
      dsimp only
      rw [hu, hlock]
      rfl
  case stopped =>
    exact fun s kind fault n hn => s.stopAll_running kind fault hn

end Sys2Proof.Machine
end

section
/-! PROOFS. The counters and the diagnostic bits (R103, R111 to R118, Tables 4.6 and 4.7). -/

namespace Sys2Proof.Machine

variable {s u : State} {dt : Ticks}

/-! ### The filter of the counter inputs (R116) -/

theorem State.counter_modCounter {n : Nat} {g : Counter → Counter} (h : n < s.counters.length) :
    (s.modCounter n g).counter n = g (s.counter n) := by
  unfold State.counter State.modCounter
  simp [List.getD_eq_getElem?_getD, h]

theorem State.counter_modCounter_ne {n k : Nat} {g : Counter → Counter} (h : n ≠ k) :
    (s.modCounter n g).counter k = s.counter k := by
  unfold State.counter State.modCounter
  simp [List.getD_eq_getElem?_getD, h]

theorem State.modCounter_self {n : Nat} {g : Counter → Counter} (h : n < s.counters.length)
    (hg : g (s.counter n) = s.counter n) : s.modCounter n g = s := by
  have hl : s.counters.modify n g = s.counters := by
    refine List.ext_getElem (by simp) (fun i hi hj => ?_)
    rw [List.getElem_modify]
    split
    · next hin =>
      subst hin
      have hget : s.counter n = s.counters[n] := by simp [State.counter, h]
      rw [hget] at hg
      exact hg
    · rfl
  unfold State.modCounter
  rw [hl]

theorem State.modCounter_modCounter (n : Nat) (f g : Counter → Counter) :
    (s.modCounter n f).modCounter n g = s.modCounter n (fun c => g (f c)) := by
  unfold State.modCounter
  dsimp only
  rw [List.modify_modify_eq]
  rfl

/-- A level that stood longer than the uncertain span is accepted. -/
theorem State.filterLevel_held {n f held : Nat} {level : Bool} (hn : n < s.counters.length)
    (h : (s.counter n).level = some level ∨ filterNs (s.pnum (cntId f 2)) + 2000 ≤ held) :
    s.filterLevel n f level held = s.modCounter n (fun c => { c with level := some level }) := by
  unfold State.filterLevel
  split
  · next hl =>
    refine (State.modCounter_self hn ?_).symm
    rw [← hl]
  · next hl =>
    have hheld := h.resolve_left hl
    have htakes : s.filterTakes f held = (true, s) := by
      unfold State.filterTakes
      dsimp only
      rw [if_neg (by omega), if_pos hheld]
    rw [htakes]
    rfl

/-- A level that stood shorter than the filter time is not. -/
theorem State.filterLevel_short {n f held : Nat} {level : Bool}
    (h : (s.counter n).level = some level ∨ held < filterNs (s.pnum (cntId f 2))) :
    s.filterLevel n f level held = s := by
  unfold State.filterLevel
  split
  · rfl
  · next hl =>
    have htakes : s.filterTakes f held = (false, s) := by
      unfold State.filterTakes
      dsimp only
      rw [if_pos (h.resolve_left hl)]
    rw [htakes]
    rfl

/-- The level `l` that the filter leaves for an input seen at `level` for `held`. -/
theorem State.filterLevel_settles {n f held : Nat} {level : Bool} {l : Option Bool} (hn : n < s.counters.length)
    (h : (l = some level ∧ ((s.counter n).level = some level ∨ filterNs (s.pnum (cntId f 2)) + 2000 ≤ held)) ∨
      (l = (s.counter n).level ∧ held < filterNs (s.pnum (cntId f 2)))) :
    s.filterLevel n f level held = s.modCounter n (fun c => { c with level := l }) := by
  rcases h with ⟨rfl, h⟩ | ⟨rfl, h⟩
  · exact State.filterLevel_held hn h
  · rw [State.filterLevel_short (.inr h)]
    exact (State.modCounter_self hn rfl).symm

/-! ### Pairs (R118) -/

theorem Counter.quad_same (c : Counter) {a b : Bool} (h : c.ref = some (a, b)) : c.quad a b = c := by
  unfold Counter.quad
  rw [h]
  cases a <;> cases b <;> rfl

theorem Counter.quad_both (c : Counter) {a b : Bool} (h : c.ref = some (a, b)) :
    c.quad (!a) (!b) = { c with ref := some (!a, !b), quadError := satAdd 65535 c.quadError 1, errorNow := true } := by
  unfold Counter.quad
  rw [h]
  cases a <;> cases b <;> rfl

section
variable {c : Counter} {a b a' b' : Bool}

/-- A quarter forward, short of the four that count. -/
theorem Counter.quad_ahead (h : c.ref = some (a, b)) (hd : (quadPhase a' b' + 4 - quadPhase a b) % 4 = 1)
    (hlo : c.last ≤ c.pos) (hhi : c.pos < c.last + 3) :
    c.quad a' b' = { c with ref := some (a', b'), pos := c.pos + 1 } := by
  unfold Counter.quad
  rw [h]
  dsimp only
  rw [hd, if_neg (by decide), if_neg (by decide), if_pos rfl, if_neg (by omega), if_neg (by omega)]

/-- The fourth quarter forward counts one. -/
theorem Counter.quad_counts_fwd (h : c.ref = some (a, b)) (hd : (quadPhase a' b' + 4 - quadPhase a b) % 4 = 1)
    (hp : c.pos = c.last + 3) :
    (c.quad a' b').fwd = c.fwd + 1 ∧ (c.quad a' b').rev = c.rev := by
  unfold Counter.quad
  rw [h]
  dsimp only
  rw [hd, if_neg (by decide), if_neg (by decide), if_pos rfl, if_pos (by omega)]
  exact ⟨rfl, rfl⟩

/-- A quarter back, short of the four that count. -/
theorem Counter.quad_back (h : c.ref = some (a, b)) (hd : (quadPhase a' b' + 4 - quadPhase a b) % 4 = 3)
    (hlo : c.last - 3 < c.pos) (hhi : c.pos ≤ c.last) :
    c.quad a' b' = { c with ref := some (a', b'), pos := c.pos - 1 } := by
  unfold Counter.quad
  rw [h]
  dsimp only
  rw [hd, if_neg (by decide), if_neg (by decide), if_neg (by omega), if_neg (by omega)]
  rfl

/-- The fourth quarter back counts one in reverse. -/
theorem Counter.quad_counts_rev (h : c.ref = some (a, b)) (hd : (quadPhase a' b' + 4 - quadPhase a b) % 4 = 3)
    (hp : c.pos = c.last - 3) :
    (c.quad a' b').rev = c.rev + 1 ∧ (c.quad a' b').fwd = c.fwd := by
  unfold Counter.quad
  rw [h]
  dsimp only
  rw [hd, if_neg (by decide), if_neg (by decide), if_neg (by omega), if_pos (by omega)]
  exact ⟨rfl, rfl⟩

/-- A whole turn forward from the reference of the last count counts one. -/
theorem Counter.quad_turn_fwd (h : c.ref = some (false, false)) (hp : c.pos = c.last) :
    ((((c.quad true false).quad true true).quad false true).quad false false).fwd = c.fwd + 1 ∧
      ((((c.quad true false).quad true true).quad false true).quad false false).rev = c.rev := by
  rw [Counter.quad_ahead h rfl (by omega) (by omega)]
  rw [Counter.quad_ahead (c := { c with ref := _, pos := _ }) rfl rfl (by dsimp only; omega) (by dsimp only; omega)]
  rw [Counter.quad_ahead (c := { c with ref := _, pos := _ }) rfl rfl (by dsimp only; omega) (by dsimp only; omega)]
  exact Counter.quad_counts_fwd (c := { c with ref := _, pos := _ }) rfl rfl (by dsimp only; omega)

/-- And a whole turn back one in reverse. -/
theorem Counter.quad_turn_rev (h : c.ref = some (false, false)) (hp : c.pos = c.last) :
    ((((c.quad false true).quad true true).quad true false).quad false false).rev = c.rev + 1 ∧
      ((((c.quad false true).quad true true).quad true false).quad false false).fwd = c.fwd := by
  rw [Counter.quad_back h rfl (by omega) (by omega)]
  rw [Counter.quad_back (c := { c with ref := _, pos := _ }) rfl rfl (by dsimp only; omega) (by dsimp only; omega)]
  rw [Counter.quad_back (c := { c with ref := _, pos := _ }) rfl rfl (by dsimp only; omega) (by dsimp only; omega)]
  exact Counter.quad_counts_rev (c := { c with ref := _, pos := _ }) rfl rfl (by dsimp only; omega)

end

/-! ### Diagnostic bits (R111 to R114) -/

/-- What a diagnostic bit's change marks in its channel. -/
def State.diagMarks (s : State) (n : Nat) := ((s.channel n).diag, (s.channel n).settled, (s.channel n).resetCycle)

theorem bitMask_getLsbD {b : Nat} (hb : b < 8) : (bitMask b).getLsbD b = true := by
  unfold bitMask
  rw [BitVec.getLsbD_ofNat, Nat.testBit_two_pow_self, decide_eq_true hb]
  rfl

/-- What an update keeps of every channel it keeps of each. -/
theorem State.channel_modChannel_keeps {α : Type} (π : Channel → α) {g : Channel → Channel} (hg : ∀ c, π (g c) = π c)
    (n k : Nat) : π ((s.modChannel k g).channel n) = π (s.channel n) := by
  unfold State.channel State.modChannel
  rw [List.getD_eq_getElem?_getD, List.getD_eq_getElem?_getD, List.getElem?_modify]
  cases hc : s.channels[n]? with
  | none => rfl
  | some c =>
    by_cases hk : k = n
    · simpa [hk] using hg c
    · simp [hk]

theorem State.channel_modChannel_marks {n k : Nat} {g : Channel → Channel}
    (hg : ∀ c, ((g c).diag, (g c).settled, (g c).resetCycle) = (c.diag, c.settled, c.resetCycle)) :
    (s.modChannel k g).diagMarks n = s.diagMarks n :=
  State.channel_modChannel_keeps (fun c => (c.diag, c.settled, c.resetCycle)) hg n k

theorem State.diagMarks_congr {t : State} (h : t.channels = s.channels) (n : Nat) : t.diagMarks n = s.diagMarks n := by
  unfold State.diagMarks State.channel
  rw [h]

theorem State.logEvent_channels (s : State) (cls code mp : Nat) (b : Bytes) :
    (s.logEvent cls code mp b).channels = s.channels := by
  unfold State.logEvent
  rw [State.logAt_frame]

theorem State.logEvent_modDom (s : State) (cls code mp : Nat) (b : Bytes) :
    (s.logEvent cls code mp b).modDom = s.modDom := by
  unfold State.logEvent
  rw [State.logAt_frame]

/-- A logged diagnostic changes the burst that is counted, and none of the marks. -/
theorem State.logDiag_marks (s : State) (k b : Nat) (sets : Bool) (n : Nat) :
    (s.logDiag k b sets).diagMarks n = s.diagMarks n ∧ (s.logDiag k b sets).channels.length = s.channels.length ∧
      (s.logDiag k b sets).modDom = s.modDom := by
  unfold State.logDiag
  split
  · exact ⟨rfl, rfl, rfl⟩
  · extract_lets c limited now
    clear_value limited
    split
    · exact ⟨State.channel_modChannel_marks (fun c => rfl), List.length_modify .., rfl⟩
    · have hch := s.logEvent_channels 0x08 (if sets then 0x01 else 0x02) ((s.pointsOfChannel k).headD 0xFF)
        [byte k, byte b]
      refine ⟨(State.channel_modChannel_marks ?_).trans (State.diagMarks_congr hch n),
        (List.length_modify ..).trans (congrArg _ hch), s.logEvent_modDom _ _ _ _⟩
      exact fun c => rfl

theorem State.holdReferring_marks (s : State) (k n : Nat) : (s.holdReferring k).diagMarks n = s.diagMarks n := by
  refine foldl_keeps (π := fun r : State => r.diagMarks n) (fun r i => ?_) _ _
  dsimp only
  split
  · exact State.channel_modChannel_marks (fun c => rfl)
  · rfl

theorem State.openGap_channels (s : State) (m k f : Nat) : (s.openGap m k f).channels = s.channels := by
  unfold State.openGap
  dsimp only
  split <;> rfl

theorem State.gapsOf_channels (s : State) (n k f : Nat) : (s.gapsOf n k f).channels = s.channels :=
  foldl_keeps (π := State.channels) (fun r m => r.openGap_channels m k f) _ _

theorem State.resetChannel_marks {n : Nat} (h : n < s.channels.length) :
    (s.resetChannel n).diagMarks n = ((s.channel n).diag, false, s.modDom.cycle) := by
  unfold State.resetChannel
  rw [State.holdReferring_marks]
  refine (State.diagMarks_congr (State.dropWindows_channels _ n) n).trans ?_
  unfold State.diagMarks
  rw [State.channel_modChannel h]
  rfl

theorem State.setDiag_bit {n b : Nat} (hn : n < s.channels.length) (hb : b < 8) :
    ((s.setDiag n b).channel n).diag.getLsbD b = true := by
  unfold State.setDiag
  extract_lets v w x
  split
  · assumption
  · have hmarks : (List.foldl (fun s m => s.openGap m gapDiag 0) x (x.pointsOfLegal n)).diagMarks n = w.diagMarks n := by
      refine (foldl_keeps (π := fun r : State => r.diagMarks n) (fun r m => ?_) _ _).trans ?_
      · exact State.diagMarks_congr (r.openGap_channels m _ _) n
      · unfold x
        rw [State.holdReferring_marks, (w.logDiag_marks n b true n).1]
    have hw : (w.channel n).diag = (v.channel n).diag ||| bitMask b := by
      unfold w
      rw [State.channel_modChannel (by unfold v State.seeDiag; simpa [State.modChannel] using hn)]
    refine (congrArg (fun m => BitVec.getLsbD (Prod.fst m) b) hmarks).trans ?_
    refine (congrArg (fun d => BitVec.getLsbD d b) hw).trans ?_
    rw [BitVec.getLsbD_or, bitMask_getLsbD hb, Bool.or_true]

theorem State.clearDiag_marks {n b : Nat} (hb : b < 8) (hset : (s.channel n).diag.getLsbD b = true)
    (hage : (s.channel n).diagAt.getD b 0 + 100000000 ≤ s.mono) (hn : n < s.channels.length) :
    ((s.clearDiag n b).channel n).diag.getLsbD b = false ∧ ((s.clearDiag n b).channel n).settled = false ∧
      ((s.clearDiag n b).channel n).resetCycle = s.modDom.cycle := by
  have hsince : s.since ((s.channel n).diagAt.getD b 0) (100 * milli) = true := State.since_of hage rfl
  unfold State.clearDiag
  rw [hset, hsince, if_neg (by decide)]
  extract_lets v
  obtain ⟨hmarks, hlen, hdom⟩ := v.logDiag_marks n b false n
  generalize hw : v.logDiag n b false = w at hmarks hlen hdom
  have hlen' : n < (w.gapsOf n gapDiag 0).channels.length := by
    rw [State.gapsOf_channels, hlen]
    exact (List.length_modify ..).symm ▸ hn
  have hdiag : ((w.gapsOf n gapDiag 0).channel n).diag = (s.channel n).diag &&& ~~~(bitMask b) := by
    refine (congrArg Prod.fst ((State.diagMarks_congr (w.gapsOf_channels n gapDiag 0) n).trans hmarks)).trans ?_
    exact congrArg Channel.diag (State.channel_modChannel hn)
  have hreset := State.resetChannel_marks hlen'
  rw [(chainFrame_gapsOf w n gapDiag 0).modDom, hdom, hdiag] at hreset
  simp only [State.diagMarks, Prod.mk.injEq] at hreset
  obtain ⟨hd, hs, hc⟩ := hreset
  unfold State.restartChannel
  refine ⟨?_, hs, hc⟩
  rw [hd, BitVec.getLsbD_and, BitVec.getLsbD_not, bitMask_getLsbD hb]
  simp

theorem State.clearDiag_young {n b : Nat} (hset : (s.channel n).diag.getLsbD b = true)
    (hage : s.mono < (s.channel n).diagAt.getD b 0 + 100000000) : s.clearDiag n b = s := by
  have hsince : s.since ((s.channel n).diagAt.getD b 0) (100 * milli) = false := by
    refine Bool.eq_false_iff.mpr (fun h => ?_)
    have := State.since_iff.mp h
    exact absurd (show (s.channel n).diagAt.getD b 0 + 100000000 ≤ s.mono from this) (by omega)
  unfold State.clearDiag
  rw [hset, hsince]
  rfl

theorem outsideWindow_iff {p v : Int} : outsideWindow p v = true ↔ p < 300 ∨ v - 300 < p := by
  simp [outsideWindow]

theorem State.mem_diagReach {n b k : Nat} (h : (b = 1 ∨ b = 2 ∨ b = 3) ∧ s.pchMode n = modeBridge) :
    k ∈ s.diagReach n b ↔ k < 16 ∧ s.pchMode k = modeBridge ∧ s.pchExc k = s.pchExc n := by
  unfold State.diagReach
  rw [if_pos ⟨by omega, by omega, h.2⟩]
  simp [mem_upTo]

theorem State.diagReach_own {n b : Nat} (h : ¬((b = 1 ∨ b = 2 ∨ b = 3) ∧ s.pchMode n = modeBridge)) :
    s.diagReach n b = [n] := by
  unfold State.diagReach
  refine if_neg (fun ⟨hlo, hhi, hmode⟩ => h ⟨by omega, hmode⟩)

/-! ### The latch of the counters (R117) -/

/-- What a latch keeps of a counter and what it takes. -/
def State.latchMarks (s : State) (n : Nat) :=
  ((s.counter n).latchFwd, (s.counter n).latchRev, (s.counter n).latchTime, (s.counter n).fwd)

theorem State.latchMarks_congr {t : State} (h : t.counters = s.counters) (n : Nat) :
    t.latchMarks n = s.latchMarks n := by
  unfold State.latchMarks State.counter
  rw [h]

theorem State.accrueVolume_counters (s : State) (m f r t : Nat) : (s.accrueVolume m f r t).counters = s.counters := by
  unfold State.accrueVolume
  dsimp only
  split <;> rfl

theorem State.noteQuadError_latchMarks {n : Nat} (m : Nat) (h : n < s.counters.length) :
    (s.noteQuadError n m).latchMarks n = s.latchMarks n := by
  unfold State.noteQuadError
  extract_lets c now quiet v
  clear_value quiet
  have hev (cls code mp : Nat) (b : Bytes) : (v.logEvent cls code mp b).counters = s.counters := by
    unfold State.logEvent
    rw [State.logAt_frame]
    rfl
  split
  · unfold State.latchMarks
    rw [State.counter_modCounter (by rw [hev]; exact h)]
    exact State.latchMarks_congr (hev _ _ _ _) n
  · unfold State.latchMarks
    rw [State.counter_modCounter (s := v) h]
    rfl

theorem State.latchCounter_latchMarks {n : Nat} (t : Nat) (h : n < s.counters.length) :
    (s.latchCounter n t).latchMarks n = ((s.counter n).fwd, (s.counter n).rev, t, (s.counter n).fwd) := by
  unfold State.latchCounter
  extract_lets c df dr m counts bad hold v
  clear_value bad hold
  have hv : v.latchMarks n = ((s.counter n).fwd, (s.counter n).rev, t, (s.counter n).fwd) := by
    unfold v State.latchMarks
    rw [State.counter_modCounter h]
  have hlen : n < v.counters.length := by
    unfold v State.modCounter
    simpa using h
  clear_value v counts m
  cases m with
  | none => exact hv
  | some m =>
    have hw : (if bad then v.noteQuadError n m else v).latchMarks n = v.latchMarks n := by
      split
      · exact State.noteQuadError_latchMarks m hlen
      · rfl
    dsimp only
    split
    · rw [State.latchMarks_congr (State.accrueVolume_counters _ _ _ _ _) n, hw, hv]
    · rw [hw, hv]

/-- Settles O42: the filter accepts or passes over each level, a pair steps by its phases, and a diagnostic bit follows
its condition. -/
theorem countersAndDiagnostics : Obligations.CountersAndDiagnostics := by
  refine ⟨⟨rfl, rfl, rfl⟩, ?single, ?pair, ?first, ?steps, ?four, ?latch, ?latched, ?bits, ?reach, ?sets, ?young, ?clears,
    ?present, ?reference, ?summary⟩
  case single =>
    intro s u dt n held rising hu hn hlen hlegal hmode hpartner
    have hon : (decide (n < 16) && u.legalRuns && u.cntMode n == 1 && !u.cntPartner n) = true := by
      simp [hn, hlegal, hmode, hpartner]
    rw [exec_counterInputEdge]
    unfold execCounterInputEdge
    dsimp only
    rw [hu, if_pos hon]
    constructor
    · intro h
      rw [State.filterLevel_short h]
      simp
    · intro hne hheld
      rw [State.filterLevel_held hlen (.inr hheld), State.counter_modCounter hlen, State.modCounter_modCounter]
      have hnum (g : Counter → Counter) : (u.modCounter n g).pnum (cntId n 3) = u.pnum (cntId n 3) := rfl
      by_cases hedge : u.pnum (cntId n 3) = 1 ↔ rising = true
      · rw [if_pos (by cases rising <;> simpa [hne, hnum] using hedge)]
        simp only [if_pos hedge]
      · rw [if_neg (by cases rising <;> simpa [hne, hnum] using hedge)]
        simp only [if_neg hedge]
  case pair =>
    intro s u v dt n heldA heldB a b la lb hu hn heven hlen hlegal hmode ha hb hv
    rw [exec_quadTransition]
    unfold execQuadTransition
    dsimp only
    have hodd : n + 1 < (u.modCounter n (fun c => { c with level := la })).counters.length := by
      unfold State.modCounter
      simpa using hlen
    have hlevel : (u.modCounter n (fun c => { c with level := la })).counter (n + 1) = u.counter (n + 1) :=
      State.counter_modCounter_ne (by omega)
    have hfirst : (v.counter n).level = la := by
      rw [hv, State.counter_modCounter_ne (by omega), State.counter_modCounter (by omega)]
    have hsecond : (v.counter (n + 1)).level = lb := by
      rw [hv, State.counter_modCounter hodd]
    rw [hu, if_pos (by simp [hn, heven, hlegal, hmode]), State.filterLevel_settles (by omega) ha,
      State.filterLevel_settles (l := lb) hodd (by rw [hlevel]; exact hb), ← hv, hfirst, hsecond] <;> rfl
  case first =>
    intro c a b h
    unfold Counter.quad
    rw [h]
  case steps =>
    intro c a b h
    rw [c.quad_same h, c.quad_both h]
    exact ⟨rfl, rfl, rfl, rfl, rfl⟩
  case four =>
    intro c h hp
    obtain ⟨hfwd, hrev⟩ := Counter.quad_turn_fwd h hp
    obtain ⟨hback, hkept⟩ := Counter.quad_turn_rev h hp
    exact ⟨hfwd, hrev, hback, hkept⟩
  case latch =>
    intro s u dt t hu hlegal ht hnew
    rw [exec_counterLatch]
    unfold execCounterLatch
    dsimp only
    rw [hu, ← ht, if_pos (by simp [hlegal, hnew])]
  case latched =>
    intro s n t hn
    have h := State.latchCounter_latchMarks t hn
    simpa [State.latchMarks, Prod.mk.injEq] using h
  case bits =>
    intro s u v dt n b e hu hv hn hlegal
    rw [exec_diagBitSet, exec_diagBitClear]
    unfold execDiagBitSet execDiagBitClear
    dsimp only
    rw [hu, ← hv]
    refine ⟨fun h => ?_, fun h => ?_, fun h hr hb => ?_, fun h => ?_⟩
    · rw [if_pos (by simp [hn, hlegal, h])]
    · rw [if_neg (by simp [h])]
    · rw [if_pos (by simp [hn, hlegal, h, hr, hb])]
    · rw [if_neg (by rcases h with h | h | h <;> simp [h])]
  case reach => exact fun s n b => ⟨fun h k => State.mem_diagReach h, State.diagReach_own⟩
  case sets => exact fun s n b hn hb => State.setDiag_bit hn hb
  case young => exact fun s n b hset hage => State.clearDiag_young hset hage
  case clears => exact fun s n b hb hset hage hn => State.clearDiag_marks hb hset hage hn
  case present =>
    intro s n e
    refine ⟨?_, ?_, ?_, ?_, ?_, ?_⟩
    · simp [State.diagPresent, State.diagApplies, outsideWindow_iff, or_assoc]
    · simp [State.diagPresent, State.diagApplies]
    · simp [State.diagPresent, State.diagApplies, and_assoc]
    · simp [State.diagPresent, State.diagApplies, beyondHard]
    · simp [State.diagPresent, State.diagApplies]
    · simp [State.diagPresent, State.diagApplies]
  case reference =>
    intro s n e hmode
    constructor
    · simp [State.diagPresent, State.diagApplies, hmode]
    · simp [State.refOff, hmode]
  case summary =>
    intro s u dt n t hu hlegal hburst hage
    have hsince : u.since t (10 * second) = true := State.since_of hage rfl
    rw [exec_diagSummary]
    unfold execDiagSummary
    dsimp only
    rw [hu, if_pos (by simp [hlegal, hburst, State.sinceOpt, hsince])]

end Sys2Proof.Machine
end

section
/-! PROOFS. The records of the channels (R32, R134, R136 to R139). -/

namespace Sys2Proof.Machine

variable {s u : State} {dt : Ticks}

/-! ### Words become records -/

/-- What the record of channel `n` is numbered by, and the last one. -/
def Channel.recordMarks (c : Channel) := (c.words, c.seqNo, c.outCount)

theorem Channel.takeFir_marks (c : Channel) (r : ChainRun) : (c.takeFir r).recordMarks = c.recordMarks := by
  unfold Channel.takeFir
  rfl

theorem Channel.takeWord_marks (c : Channel) (r : ChainRun) (w : BitVec 4) :
    (c.takeWord r w).recordMarks = (c.words + 1, c.seqNo, c.outCount) := by
  unfold Channel.takeWord
  dsimp only
  split
  · unfold Channel.takeCic
    dsimp only
    split
    · exact Channel.takeFir_marks _ r
    · rfl
  · rfl

/-- What feeding a crossing detector leaves as it was. -/
def State.feedMarks (s : State) (n : Nat) := (s.channels.length, (s.channel n).recordMarks)

theorem State.feedMarks_modChannel {g : Channel → Channel} (hg : ∀ c, (g c).recordMarks = c.recordMarks) (n k : Nat) :
    (s.modChannel k g).feedMarks n = s.feedMarks n :=
  Prod.ext (List.length_modify ..) (State.channel_modChannel_keeps Channel.recordMarks hg n k)

theorem State.feedFir_marks (s : State) (k : Nat) (x : Int) (t n : Nat) :
    (s.feedFir k x t).feedMarks n = s.feedMarks n := by
  unfold State.feedFir
  split
  · rfl
  · extract_lets r v
    have hv : v.feedMarks n = s.feedMarks n := by
      refine State.feedMarks_modChannel ?_ n k
      exact fun c => rfl
    split
    · refine (foldl_keeps (π := fun r : State => r.feedMarks n) (fun r i => ?_) _ _).trans hv
      split
      · unfold State.lineCross
        refine State.feedMarks_modChannel ?_ n i
        exact fun c => rfl
      · rfl
    · exact hv

theorem State.takeWords_marks (n : Nat) (l : List (BitVec 4)) (s : State) (hn : n < s.channels.length) :
    (s.takeWords n l).feedMarks n =
      (s.channels.length, (s.channel n).words + l.length, (s.channel n).seqNo, (s.channel n).outCount) := by
  induction l generalizing s with
  | nil => rfl
  | cons w l ih =>
    unfold State.takeWords
    extract_lets k v i x
    have hv : v.feedMarks n =
        (s.channels.length, (s.channel n).words + 1, (s.channel n).seqNo, (s.channel n).outCount) := by
      refine Prod.ext (List.length_modify ..) ?_
      exact (congrArg Channel.recordMarks (State.channel_modChannel hn)).trans (Channel.takeWord_marks _ _ w)
    have hx : x.feedMarks n = v.feedMarks n := by
      unfold x
      split
      · exact State.feedFir_marks _ _ _ _ n
      · rfl
    rw [hv] at hx
    simp only [State.feedMarks, Channel.recordMarks, Prod.mk.injEq] at hx
    obtain ⟨hlen, hwords, hseq, hout⟩ := hx
    rw [ih x (hlen ▸ hn), hlen, hwords, hseq, hout, List.length_cons, Nat.add_assoc, Nat.add_comm 1]

/-! ### What becomes of a record -/

/-- The number and the record that were formed last. -/
def State.formed (s : State) (n : Nat) := ((s.channel n).latest, (s.channel n).seqNo)

theorem State.formed_modChannel {g : Channel → Channel}
    (hg : ∀ c, ((g c).latest, (g c).seqNo) = (c.latest, c.seqNo)) (n k : Nat) :
    (s.modChannel k g).formed n = s.formed n :=
  State.channel_modChannel_keeps (fun c => (c.latest, c.seqNo)) hg n k

theorem State.formed_congr {t : State} (h : t.channels = s.channels) (n : Nat) : t.formed n = s.formed n := by
  unfold State.formed State.channel
  rw [h]

theorem State.capture_formed (s : State) (k : Nat) (r : Record) (held : Bool) (n : Nat) :
    (s.capture k r held).formed n = s.formed n := by
  unfold State.capture
  extract_lets c x line bytes
  split
  · rfl
  · split
    · refine State.formed_modChannel (s := s) ?_ n k
      exact fun c => rfl
    · split
      · refine State.formed_modChannel ?_ n k
        exact fun c => rfl
      · refine State.formed_modChannel (s := s.modMem _) ?_ n k
        exact fun c => rfl

theorem State.keepSample_formed (s : State) (k : Nat) (r : Record) (n : Nat) :
    (s.keepSample k r).formed n = s.formed n := by
  unfold State.keepSample
  split
  · refine State.formed_modChannel ?_ n k
    exact fun c => rfl
  · rfl

theorem State.useSample_formed (s : State) (k : Nat) (r : Record) (f : Nat → Option Int) (n : Nat) :
    (s.useSample k r f).formed n = s.formed n := by
  unfold State.useSample
  extract_lets v
  have hv : v.formed n = s.formed n := by
    refine State.formed_modChannel ?_ n k
    exact fun c => rfl
  refine (State.formed_congr (foldl_keeps (π := State.channels) (fun r m => ?_) _ _) n).trans hv
  exact State.modPoint_channels ..

theorem State.closeGap_channels (s : State) (m : Nat) : (s.closeGap m).channels = s.channels := by
  unfold State.closeGap
  split
  · rfl
  · exact s.logEvent_channels _ _ _ _

theorem State.settleGaps_channels (s : State) : s.settleGaps.channels = s.channels := by
  refine foldl_keeps (π := State.channels) (fun r m => ?_) _ _
  split
  · split
    · exact r.closeGap_channels m
    · rfl
  · rfl

/-- A flag of a status word is set where its condition holds and its word has the bit. -/
theorem getLsbD_flag (b : Bool) (w : BitVec 16) (i : Nat) :
    (if b = true then w else 0).getLsbD i = (b && w.getLsbD i) := by
  cases b <;> simp

/-- The output that a record takes, saturated: the last of the FIR, or the resampler's. -/
def State.outputOf (s : State) (n : Nat) : Int :=
  clampInt (-2147483648) 2147483647 (
    if (s.chain n).bypass then ((s.channel n).firs.head?.map (fun x => x.post)).getD 0
    else resample ((s.channel n).firs.map (fun x => x.post)) (s.channel n).rsPos)

/-- What becomes of a formed record: captured, kept and used, and its points' gaps opened or closed. -/
theorem State.formRecord_formed (s : State) (n : Nat) (words : List (BitVec 4)) (held : Bool)
    (hn : n < s.channels.length) : ∃ r, (s.formRecord n words held).formed n = (some r, (s.channel n).seqNo + 1) ∧
      r.seqNo = (s.channel n).seqNo ∧ r.position = (s.channel n).outCount + 1 ∧
      (r.status.getLsbD 8 = true → r.value = 0) ∧
      (r.status.getLsbD 8 = false → r.value = ((s.takeWords n words).outputOf n)) := by
  have hmarks := State.takeWords_marks n words s hn
  simp only [State.feedMarks, Channel.recordMarks, Prod.mk.injEq] at hmarks
  obtain ⟨hlen, -, hseq, hout⟩ := hmarks
  unfold State.formRecord
  extract_lets w c cfg grid span raw first lockOk settled value clip soft instant flag status r next diag v x y
  have hbit : status.getLsbD 8 = !settled := by
    unfold status flag
    simp only [BitVec.getLsbD_or, getLsbD_flag, BitVec.getLsbD_setWidth]
    simp [stSettling, stRestart, stClip, stLineHold, stTimeStep]
  refine ⟨r, ?_, hseq, congrArg (· + 1) hout, fun h => ?_, fun h => ?_⟩
  rotate_left
  · have hopen : ¬settled = true := by simpa using hbit.symm.trans h
    exact if_neg hopen
  · have hset : settled = true := by simpa using hbit.symm.trans h
    exact if_pos hset
  have hv : v.formed n = (some r, (s.channel n).seqNo + 1) := by
    have hch : v.channel n = { w.channel n with
        settled := settled, outCount := (w.channel n).outCount + 1, rsPos := next, seqNo := (w.channel n).seqNo + 1
        diag := diag, diagSeen := diag, timeStep := false, latest := some r
        recent := (r :: (w.channel n).recent).take 16 } := State.channel_modChannel (hlen.symm ▸ hn)
    unfold State.formed
    rw [hch, ← hseq]
  have hy : y.formed n = (some r, (s.channel n).seqNo + 1) := by
    rw [← hv, ← State.capture_formed v n r held n]
    unfold y
    split
    · exact State.keepSample_formed x n r n
    · rfl
  rw [← hy]
  split
  · exact (State.formed_congr (State.settleGaps_channels _) n).trans (State.useSample_formed _ _ _ _ n)
  · split
    · exact State.formed_congr (foldl_keeps (π := State.channels) (fun r m => r.openGap_channels m _ _) _ _) n
    · rfl

/-! ### Boundaries and LINE channels -/

theorem State.sampleBoundary_idle (n : Nat) (h : s.inForce = []) : s.sampleBoundary n = s := by
  have hbind (m : Nat) : s.bindBoundary m = s := by
    unfold State.bindBoundary
    rw [h]
    rfl
  have hfold (l : List Nat) :
      l.foldl (fun s m => if (s.boundaryChannels m).contains n then s.bindBoundary m else s) s = s := by
    induction l with
    | nil => rfl
    | cons m l ih => rw [List.foldl_cons, hbind, ite_self, ih]
  exact hfold _

theorem goodPeriod_iff {t : Nat} :
    goodPeriod t = true ↔ ¬(65 * t < 1000000000 * 65536 ∨ 1000000000 * 65536 < 45 * t) := by
  simp [goodPeriod]

/-- Settles O43: the words that are due form the record, and a LINE channel holds by its reference. -/
theorem channelsFormRecords : Obligations.ChannelsFormRecords := by
  refine ⟨?forms, ?due, fun s n h => State.sampleBoundary_idle n h, ?record, ?hold, ?lock⟩
  case forms =>
    intro s u v dt n words held hu hn hv
    rw [exec_faOutput]
    unfold execFaOutput
    dsimp only
    rw [hu, ← hv]
    refine ⟨fun hdue => ?_, fun hdue => ?_⟩
    · rw [if_pos ⟨hn, hdue⟩]
    · rw [if_neg (by simp [hdue])]
  case due =>
    intro s n words
    simp [State.recordDue, State.firsNeeded, and_assoc, Nat.mul_comm]
  case record =>
    intro s w n words held hn hw
    have hmarks := State.takeWords_marks n words s hn
    simp only [State.feedMarks, Channel.recordMarks, Prod.mk.injEq] at hmarks
    obtain ⟨-, hwords, -, -⟩ := hmarks
    obtain ⟨r, hformed, hseq, hpos, hzero, hval⟩ := s.formRecord_formed n words held hn
    simp only [State.formed, Prod.mk.injEq] at hformed
    obtain ⟨hlatest, hnext⟩ := hformed
    subst hw
    exact ⟨hwords, r, hlatest, hseq, hnext, hpos, hzero, hval⟩
  case hold =>
    intro s u dt n k hu hrun hmode hhold hk h
    rw [exec_lineHoldTimeout]
    unfold execLineHoldTimeout
    extract_lets v c j ref late bad
    subst hu hk
    have hdue : (late || bad) = true := by
      rcases h with ⟨z, hz, hage⟩ | ⟨hz, href, hage⟩ | ⟨t, ht, hperiod⟩
      · have hlate : late = decide (z + 33300000 * 65536 ≤ v.nodeTime * 65536) := by
          unfold late
          rw [show ref.cross.latest = some z from hz]
        rw [hlate, decide_eq_true hage, Bool.true_or]
      · have hlate : late = (ref.running && decide (v.refSettledAt j + v.fMod * 333 / 10000 ≤ v.modDom.cycle)) := by
          unfold late
          rw [show ref.cross.latest = none from hz]
        have hdone : v.refSettledAt j + v.fMod * 333 / 10000 ≤ v.modDom.cycle := hage
        rw [hlate, show ref.running = true from href, decide_eq_true hdone]
        rfl
      · have hbad : bad = !goodPeriod t := by
          unfold bad
          rw [show ref.cross.period = some t from ht]
          rfl
        rw [hbad, Bool.eq_false_iff.mpr (fun hgood => goodPeriod_iff.mp hgood hperiod)]
        exact Bool.or_true _
    rw [if_pos]
    rw [hdue, show c.running = true from hrun, show c.line.hold = false from hhold,
      show (v.chain n).mode = 1 from hmode]
    rfl
  case lock =>
    intro s u dt n k hu hrun hmode hlock hhold hk href hage
    rw [exec_lineLockTimeout]
    unfold execLineLockTimeout
    dsimp only
    rw [hu, hk, if_pos (by simp [hrun, hmode, hlock, hhold, href, State.refSettledAt, hage])]

end Sys2Proof.Machine
end

section
/-! PROOFS. Commits, cycles, positions and provisional values (R155 to R244). -/

namespace Sys2Proof.Machine

variable {s u : State} {dt : Ticks}

/-! ### What draws a value that no rule gives: the count of draws alone -/

/-- `t` differs from `s` in the number of free values drawn alone. -/
def FreeFrame (s t : State) : Prop := t = { s with free := t.free }

theorem FreeFrame.refl (s : State) : FreeFrame s s := rfl

theorem FreeFrame.trans {s t v : State} (h : FreeFrame s t) (h' : FreeFrame t v) : FreeFrame s v := by
  unfold FreeFrame at h h' ⊢
  rw [h', h]

theorem freeFrame_drawFree (s : State) (w : Nat) : FreeFrame s (s.drawFree w).2 := rfl

theorem FreeFrame.keeps {β : Type} (π : State → β) {t : State} (h : FreeFrame s t)
    (hπ : ∀ r n, π { r with free := n } = π r) : π t = π s := by
  unfold FreeFrame at h
  rw [h, hπ]

theorem FreeFrame.foldl {α β : Type} {f : State × β → α → State × β} (hf : ∀ x a, FreeFrame x.1 (f x a).1) (l : List α)
    (x : State × β) : FreeFrame x.1 (l.foldl f x).1 := by
  induction l generalizing x with
  | nil => exact FreeFrame.refl _
  | cons a l ih => exact (hf x a).trans (ih _)

theorem freeFrame_sum64 (s : State) (n : Nat) : FreeFrame s (s.sum64 n).2 := by
  unfold State.sum64
  split
  · rfl
  · exact freeFrame_drawFree s 64

theorem freeFrame_fitted (s : State) (w : Nat) (known : Bool) (x : Int) : FreeFrame s (s.fitted w known x).2 := by
  unfold State.fitted
  split
  · rfl
  · exact freeFrame_drawFree s w

theorem freeFrame_phaseAngle (s : State) (v i : Phasor) : FreeFrame s (s.phaseAngle v i).2 := by
  unfold State.phaseAngle
  split
  · rfl
  · exact freeFrame_drawFree s 16

theorem freeFrame_powerFactor (s : State) (w : Power) : FreeFrame s (s.powerFactor w).2 := by
  unfold State.powerFactor
  split
  · rfl
  · exact freeFrame_drawFree s 16

theorem freeFrame_blocksOf (ns : Nat) (l : List Power) (s : State) : FreeFrame s (s.blocksOf ns l).2 := by
  induction l generalizing s with
  | nil => rfl
  | cons w l ih => exact (freeFrame_powerFactor s w).trans (ih _)

theorem freeFrame_thd (s : State) (xs : List Phasor) : FreeFrame s (s.thd xs).2 := freeFrame_fitted s _ _ _

theorem freeFrame_phaseEntry (x : State × Bytes) (vi : Phasor × Phasor) : FreeFrame x.1 (phaseEntry x vi).1 :=
  (freeFrame_fitted _ _ _ _).trans ((freeFrame_fitted _ _ _ _).trans (freeFrame_phaseAngle _ _ _))

theorem freeFrame_harmonicBlock (s : State) (m top : Nat) (volts amps : List Float) (ph : Nat) :
    FreeFrame s (s.harmonicBlock m top volts amps ph).1 := by
  unfold State.harmonicBlock
  extract_lets cal vs is tv ti
  exact ((freeFrame_thd s vs).trans (freeFrame_thd tv.2 is)).trans (FreeFrame.foldl freeFrame_phaseEntry _ _)

theorem freeFrame_neutralBlock (s : State) (top : Nat) (amps : List Float) :
    FreeFrame s (s.neutralBlock top amps).1 := by
  unfold State.neutralBlock
  extract_lets is ti
  refine (freeFrame_thd s is).trans (FreeFrame.foldl (fun x a => ?_) _ _)
  exact freeFrame_drawFree x.1 32

theorem freeFrame_harmonicBlocks (s : State) (m top : Nat) (phases : List (List Float × List Float))
    (neutral : Option (List Float)) : FreeFrame s (s.harmonicBlocks m top phases neutral).1 := by
  unfold State.harmonicBlocks
  extract_lets r
  have hr : FreeFrame s r.1 := by
    refine FreeFrame.foldl (x := (s, [])) (fun x q => ?_) _
    exact freeFrame_harmonicBlock x.1 m top q.2.1 q.2.2 q.1
  clear_value r
  cases neutral with
  | none => exact hr
  | some amps => exact hr.trans (freeFrame_neutralBlock r.1 top amps)

/-! ### The commit of a second (R199) -/

theorem State.logAt_lastCommit (s : State) (time : Nat) (rtc : Bool) (cls code origin mp : Nat) (b : Bytes) :
    (s.logAt time rtc cls code origin mp b).legal.lastCommit = s.legal.lastCommit := by
  rw [State.logAt_legal]
  rfl

theorem State.scheduleReading_lastCommit (s : State) (g : Pedigree) (f : ReadingFields) :
    (s.scheduleReading g f).legal.lastCommit = s.legal.lastCommit := by
  unfold State.scheduleReading
  split
  · refine Eq.trans ?_ (show s.nextNumber.legal.lastCommit = s.legal.lastCommit from rfl)
    dsimp only
    unfold State.hand
    split
    · rw [State.tell_legal]
    · rfl
  · split <;> rfl

theorem State.profileReading_lastCommit (s : State) (g : Pedigree) (period m qd at_ tstat : Nat) (flags : Word) :
    (s.profileReading g period m qd at_ tstat flags).legal.lastCommit = s.legal.lastCommit := by
  unfold State.profileReading
  extract_lets p k open_ opened e v
  rw [State.scheduleReading_lastCommit]
  exact ((freeFrame_sum64 s _).trans (freeFrame_sum64 e.2 _)).keeps (fun r => r.legal.lastCommit) (fun r n => rfl)

theorem State.closeInterval_lastCommit (s : State) (g : Pedigree) (period m at_ : Nat) (more : Word) :
    (s.closeInterval g period m at_ more).legal.lastCommit = s.legal.lastCommit := by
  unfold State.closeInterval
  extract_lets p
  split
  · rfl
  · exact foldl_keeps (π := fun r : State => r.legal.lastCommit)
      (fun r qd => r.profileReading_lastCommit _ _ _ _ _ _ _) _ _

theorem State.openInterval_lastCommit (s : State) (m sec : Nat) :
    (s.openInterval m sec).legal.lastCommit = s.legal.lastCommit := by
  unfold State.openInterval
  dsimp only
  split <;> rfl

theorem State.profileStep_lastCommit (s : State) (m sec : Nat) :
    (s.profileStep m sec).legal.lastCommit = s.legal.lastCommit := by
  unfold State.profileStep
  extract_lets p period
  split
  · exact s.openInterval_lastCommit m sec
  · split
    · rw [State.openInterval_lastCommit, State.closeInterval_lastCommit]
    · split
      · rw [State.openInterval_lastCommit, State.closeInterval_lastCommit]
      · rfl

theorem State.takeTariff_lastCommit (s : State) (sec : Nat) :
    (s.takeTariff sec).legal.lastCommit = s.legal.lastCommit := by
  unfold State.takeTariff
  dsimp only
  split
  · rfl
  · rw [State.tell_legal]
    rfl

theorem State.commitAt_lastCommit (s : State) (sec : Nat) (all : Bool) :
    (s.commitAt sec all).legal.lastCommit = sec := by
  unfold State.commitAt
  extract_lets v
  rw [State.takeTariff_lastCommit]
  refine (foldl_keeps (π := fun r : State => r.legal.lastCommit) (fun r m => ?_) _ _).trans rfl
  split
  · rfl
  · exact r.profileStep_lastCommit m sec

theorem State.commitReady_iff {sec : Nat} : s.commitReady sec = true ↔ sec ≤ s.nodeTime ∧
    (sec + 100000000 ≤ s.nodeTime ∨ ∀ m < 4, s.mpType m = typeElec →
      ∀ t, (s.point m).cycleStart = some t → sec ≤ t) := by
  have hmilli : 100 * milli = 100000000 := rfl
  have hall (o : Option Nat) : o.all (fun t => decide (sec ≤ t)) = true ↔ ∀ t, o = some t → sec ≤ t := by
    cases o <;> simp
  simp [State.commitReady, State.cyclesIn, mem_upTo, hmilli, or_iff_not_imp_left, hall]

/-! ### The bank's registers (R184, R195) -/

/-- One amount is added to its register. -/
def addReg (tariff : Nat) (r : List Nat) (x : Nat × Nat) : List Nat :=
  modAt r (8 * x.1 + tariff - 1) (fun v => min regMax (v + wholeUnits x.2))

theorem getD_addReg (tariff : Nat) (r : List Nat) (x : Nat × Nat) (i : Nat) :
    (addReg tariff r x).getD i 0 = if i = 8 * x.1 + tariff - 1 ∧ i < r.length then
      min regMax (r.getD i 0 + wholeUnits x.2) else r.getD i 0 := by
  unfold addReg modAt
  generalize 8 * x.1 + tariff - 1 = k
  generalize regMax = top
  rw [List.getD_eq_getElem?_getD, List.getD_eq_getElem?_getD, List.getElem?_modify]
  by_cases hi : i < r.length
  · by_cases hk : k = i
    · simp [hk, hi]
    · simp [hk, Ne.symm hk]
  · simp [hi]

theorem addRegs_eq (regs amounts : List Nat) (tariff : Nat) :
    addRegs regs amounts tariff = (numbered amounts).foldl (addReg tariff) regs := rfl

/-- The added amounts keep the number of registers, let none fall and none exceed 64 bits. -/
theorem foldl_addReg_bounds (tariff : Nat) (l : List (Nat × Nat)) (regs : List Nat) (i : Nat)
    (h : ∀ j, regs.getD j 0 ≤ regMax) :
    regs.getD i 0 ≤ (l.foldl (addReg tariff) regs).getD i 0 ∧ (l.foldl (addReg tariff) regs).getD i 0 ≤ regMax ∧
      (l.foldl (addReg tariff) regs).length = regs.length := by
  induction l generalizing regs with
  | nil => exact ⟨le_refl _, h i, rfl⟩
  | cons x l ih =>
    have hle (j : Nat) : regs.getD j 0 ≤ (addReg tariff regs x).getD j 0 := by
      rw [getD_addReg]
      split
      · exact le_min (h j) (Nat.le_add_right _ _)
      · exact le_refl _
    have htop (j : Nat) : (addReg tariff regs x).getD j 0 ≤ regMax := by
      rw [getD_addReg]
      split
      · exact min_le_left _ _
      · exact h j
    obtain ⟨hrise, hmax, hlen⟩ := ih (addReg tariff regs x) htop
    exact ⟨(hle i).trans hrise, hmax, hlen.trans (List.length_modify ..)⟩

/-- An amount of another quantity leaves a register as it was. -/
theorem foldl_addReg_other {tariff q : Nat} (h1 : 1 ≤ tariff) (h8 : tariff ≤ 8) (l : List (Nat × Nat))
    (hl : ∀ x ∈ l, x.1 ≠ q) (regs : List Nat) :
    (l.foldl (addReg tariff) regs).getD (8 * q + tariff - 1) 0 = regs.getD (8 * q + tariff - 1) 0 := by
  induction l generalizing regs with
  | nil => rfl
  | cons x l ih =>
    have hx : x.1 ≠ q := hl x List.mem_cons_self
    rw [List.foldl_cons, ih (fun y hy => hl y (List.mem_cons_of_mem _ hy)), getD_addReg]
    exact if_neg (fun h => by omega)

theorem fst_of_numbered {l : List Nat} {j : Nat} {x : Nat × Nat} (h : (numbered l)[j]? = some x) : x.1 = j := by
  rw [getElem?_numbered] at h
  obtain ⟨y, -, rfl⟩ := Option.map_eq_some_iff.mp h
  rfl

/-- A list numbered holds the number of each place once. -/
theorem numbered_split {l : List Nat} {q : Nat} (hq : q < l.length) :
    ∃ a b, numbered l = a ++ (q, l.getD q 0) :: b ∧ (∀ x ∈ a, x.1 ≠ q) ∧ ∀ x ∈ b, x.1 ≠ q := by
  have hlen : q < (numbered l).length := by rw [length_numbered]; exact hq
  have hget : (numbered l)[q] = (q, l.getD q 0) := by
    rw [List.getElem_eq_iff, getElem?_numbered, List.getD_eq_getElem?_getD, List.getElem?_eq_getElem hq]
    rfl
  refine ⟨(numbered l).take q, (numbered l).drop (q + 1), ?_, fun x hx => ?_, fun x hx => ?_⟩
  · rw [← hget, List.cons_getElem_drop_succ, List.take_append_drop]
  · obtain ⟨j, hj⟩ := List.mem_iff_getElem?.mp hx
    rw [List.getElem?_take] at hj
    split at hj
    · next hlt => exact fst_of_numbered hj ▸ Nat.ne_of_lt hlt
    · exact absurd hj (by simp)
  · obtain ⟨j, hj⟩ := List.mem_iff_getElem?.mp hx
    rw [List.getElem?_drop] at hj
    rw [fst_of_numbered hj]
    omega

theorem addRegs_adds {regs amounts : List Nat} {tariff q : Nat} (hq : q < amounts.length) (h1 : 1 ≤ tariff)
    (h8 : tariff ≤ 8) (hr : 8 * q + tariff - 1 < regs.length) :
    (addRegs regs amounts tariff).getD (8 * q + tariff - 1) 0 =
      min regMax (regs.getD (8 * q + tariff - 1) 0 + wholeUnits (amounts.getD q 0)) := by
  obtain ⟨a, b, hsplit, ha, hb⟩ := numbered_split hq
  have hlen : (a.foldl (addReg tariff) regs).length = regs.length :=
    foldl_keeps (fun r x => List.length_modify ..) _ _
  rw [addRegs_eq, hsplit, List.foldl_append, List.foldl_cons, foldl_addReg_other h1 h8 b hb, getD_addReg,
    foldl_addReg_other h1 h8 a ha, if_pos ⟨rfl, hlen.symm ▸ hr⟩]

/-! ### A metering point after its change -/

theorem State.point_modPoint {m : Nat} {g : MeterPoint → MeterPoint} (h : m < s.points.length) :
    (s.modPoint m g).point m = g (s.point m) := by
  unfold State.point State.modPoint
  simp [List.getD_eq_getElem?_getD, h]

theorem State.point_congr {t : State} (h : t.points = s.points) (m : Nat) : t.point m = s.point m := by
  unfold State.point
  rw [h]

/-- What an update of points keeps of each it keeps of every one. -/
theorem State.point_modPoint_keeps {α : Type} (π : MeterPoint → α) {g : MeterPoint → MeterPoint}
    (hg : ∀ p, π (g p) = π p) (m k : Nat) : π ((s.modPoint k g).point m) = π (s.point m) := by
  unfold State.point State.modPoint
  rw [List.getD_eq_getElem?_getD, List.getD_eq_getElem?_getD, List.getElem?_modify]
  cases hp : s.points[m]? with
  | none => rfl
  | some p =>
    by_cases hk : k = m
    · simpa [hk] using hg p
    · simp [hk]

theorem MeterPoint.publish_copies (p : MeterPoint) (sec : Nat) :
    (p.publish sec).copyA = p.copyA ∧ (p.publish sec).copyB = p.copyB := by
  unfold MeterPoint.publish
  dsimp only
  split <;> exact ⟨rfl, rfl⟩

theorem State.logAt_points (s : State) (time : Nat) (rtc : Bool) (cls code origin mp : Nat) (b : Bytes) :
    (s.logAt time rtc cls code origin mp b).points = s.points := by
  rw [State.logAt_frame]

theorem State.logSaturation_points (s : State) (origin m : Nat) (k : BankCopy) (keys : List Nat) :
    (s.logSaturation origin m k keys).points = s.points := by
  refine foldl_keeps (π := State.points) (fun r i => ?_) _ _
  split
  · exact r.logAt_points _ _ _ _ _ _ _
  · rfl

/-- A commit writes its bank to the copy of its generation's parity and leaves the other. -/
theorem State.commitBank_copies {m : Nat} (sec tariff : Nat) (hm : m < s.points.length) :
    ∃ k : BankCopy, k = s.newBank m sec tariff (s.point m).amounts ∧
      (k.gen % 2 = 0 → ((s.commitBank m sec tariff false).point m).copyA = k ∧
        ((s.commitBank m sec tariff false).point m).copyB = (s.point m).copyB) ∧
      (k.gen % 2 = 1 → ((s.commitBank m sec tariff false).point m).copyB = k ∧
        ((s.commitBank m sec tariff false).point m).copyA = (s.point m).copyA) := by
  refine ⟨_, rfl, ?_⟩
  unfold State.commitBank
  extract_lets p amounts k rest next v
  have hpoints : v.points = s.points := State.logSaturation_points s _ _ _ _
  have hcopies (f : MeterPoint → MeterPoint) (hA : ∀ p, (f p).copyA = (p.putBank k).copyA)
      (hB : ∀ p, (f p).copyB = (p.putBank k).copyB) :
      ((v.modPoint m f).point m).copyA = ((s.point m).putBank k).copyA ∧
        ((v.modPoint m f).point m).copyB = ((s.point m).putBank k).copyB := by
    rw [State.point_modPoint (hpoints ▸ hm), hA, hB, State.point_congr hpoints]
    exact ⟨rfl, rfl⟩
  obtain ⟨hA, hB⟩ := hcopies (fun p => { (p.putBank k).publish sec with
      amounts := List.zipWith (· + ·) rest next, carried := List.replicate 32 0 })
    (fun p => (MeterPoint.publish_copies _ sec).1) (fun p => (MeterPoint.publish_copies _ sec).2)
  have hk : s.newBank m sec tariff (s.point m).amounts = k := rfl
  rw [hk, hA, hB]
  clear_value k
  unfold MeterPoint.putBank
  refine ⟨fun heven => ?_, fun hodd => ?_⟩
  · dsimp only
    rw [if_pos heven]
    exact ⟨rfl, rfl⟩
  · dsimp only
    rw [if_neg (by omega)]
    exact ⟨rfl, rfl⟩

/-! ### Calendars, cycles and positions -/

theorem State.takeTariff_calendars (s : State) (sec : Nat) :
    ((s.takeTariff sec).legal.active, (s.takeTariff sec).legal.passive) = (s.legal.active, s.legal.passive) := by
  unfold State.takeTariff
  dsimp only
  split
  · rfl
  · rw [State.tell_legal]
    rfl

/-- The passive calendar becomes the active one, from the commit on that it waits for. -/
theorem State.activateCalendar_calendars (s : State) :
    (s.activateCalendar.legal.active, s.activateCalendar.legal.passive) =
      ({ bytes := s.legal.passive.bytes, state := 1, at_ := s.legal.lastCommit },
        { s.legal.passive with state := 2 }) := by
  unfold State.activateCalendar
  extract_lets at_ old new image v
  rw [State.takeTariff_calendars]
  rfl

theorem State.gather_cycleStart (s : State) (m idx amount t k : Nat) :
    ((s.gather m idx amount t).point k).cycleStart = (s.point k).cycleStart := by
  refine State.point_modPoint_keeps MeterPoint.cycleStart (fun p => ?_) k m
  split <;> rfl

theorem State.accrueScope_cycleStart (s : State) (m scope : Nat) (w : Power) (span : Span) (k : Nat) :
    ((s.accrueScope m scope w span).point k).cycleStart = (s.point k).cycleStart := by
  unfold State.accrueScope
  extract_lets due before total
  refine foldl_keeps (π := fun r : State => (r.point k).cycleStart) (fun r d => ?_) _ _
  dsimp only
  rw [State.gather_cycleStart, State.gather_cycleStart]

theorem State.noteMeans_cycleStart (s : State) (m : Nat) (ws : List Power) (span : Span) (k : Nat) :
    ((s.noteMeans m ws span).point k).cycleStart = (s.point k).cycleStart := by
  unfold State.noteMeans
  extract_lets r blocks sec parts
  refine (State.point_modPoint_keeps MeterPoint.cycleStart ?_ k m).trans ?_
  · exact fun p => rfl
  exact (freeFrame_blocksOf _ ws s).keeps (fun r => (r.point k).cycleStart) (fun r n => rfl)

/-- An analysed cycle ends where the next begins, and one with a bad sample adds no amounts. -/
theorem State.analyse_point {m : Nat} (w : Span) (hm : m < s.points.length) :
    ((s.analyse m w).point m).cycleStart = some w.stop ∧
      (s.cycleGood m w = false → ((s.analyse m w).point m).amounts = (s.point m).amounts ∧
        ((s.analyse m w).point m).carried = (s.point m).carried) := by
  unfold State.analyse
  extract_lets b good next v phases total x y z
  have hv : v.point m = { s.point m with
      cycleStart := some w.stop, refPhase := next
      cycleHold := if w.hold then (s.point m).cycleHold <|> some w.start else none } := State.point_modPoint hm
  constructor
  · split
    · rw [hv]
    · have hx : (x.point m).cycleStart = some w.stop := by
        unfold x
        rw [State.accrueScope_cycleStart, hv]
      have hy : (y.point m).cycleStart = some w.stop := by
        rw [← hx]
        unfold y
        split
        · refine foldl_keeps (π := fun r : State => (r.point m).cycleStart) (fun r d => ?_) _ _
          exact State.accrueScope_cycleStart _ _ _ _ _ _
        · rfl
      refine (State.point_modPoint_keeps MeterPoint.cycleStart ?_ m m).trans ?_
      · exact fun p => rfl
      exact (State.noteMeans_cycleStart _ _ _ _ _).trans hy
  · intro hbad
    have hgood : good = false := by
      unfold good
      rw [hbad]
      rfl
    rw [if_pos (by rw [hgood]; rfl), hv]
    exact ⟨rfl, rfl⟩

/-- What zero tracking and the initial zero leave of a weighing point. -/
def State.weighMarks (s : State) (m : Nat) := ((s.point m).weigh.latest, (s.point m).weigh.lastPosition)

theorem State.weighMarks_modWeigh {g : Weigh → Weigh}
    (hg : ∀ w, ((g w).latest, (g w).lastPosition) = (w.latest, w.lastPosition)) (k m : Nat) :
    (s.modWeigh k g).weighMarks m = s.weighMarks m :=
  State.point_modPoint_keeps (fun p => (p.weigh.latest, p.weigh.lastPosition)) (fun p => hg p.weigh) m k

theorem State.trackZero_marks (s : State) (m : Nat) : (s.trackZero m).weighMarks m = s.weighMarks m := by
  unfold State.trackZero
  extract_lets c w g
  split
  · refine State.weighMarks_modWeigh ?_ m m
    exact fun w => rfl
  · rfl

theorem State.initialZero_marks (s : State) (m : Nat) : (s.initialZero m).weighMarks m = s.weighMarks m := by
  unfold State.initialZero
  extract_lets c w mean
  split
  · refine State.weighMarks_modWeigh ?_ m m
    exact fun w => rfl
  · refine State.weighMarks_modWeigh ?_ m m
    exact fun w => rfl

/-- A position's mass is what its cells give under the calibration. -/
theorem State.massPosition_marks {m : Nat} (t : Nat) (rs : List Record) (hm : m < s.points.length) :
    (s.massPosition m rs t).weighMarks m = (some ⟨t,
      massOf (s.calBlock m) (cellSum (s.calBlock m) rs) - (s.point m).weigh.zop,
      massOf (s.calBlock m) (cellSum (s.calBlock m) rs), rs.map (·.value)⟩, some t) := by
  unfold State.massPosition
  extract_lets c cal codes mass v
  have hv : v.weighMarks m = (some ⟨t, mass - (s.point m).weigh.zop, mass, codes⟩, some t) := by
    unfold State.weighMarks v State.modWeigh
    rw [State.point_modPoint hm]
  rw [← hv]
  split
  · rfl
  · split
    · exact v.trackZero_marks m
    · exact v.initialZero_marks m

theorem State.cancelTxn_txn {m : Nat} (cause origin : Nat) (hm : m < s.points.length) :
    ((s.cancelTxn m cause origin).point m).weigh.txn = none := by
  unfold State.cancelTxn
  split
  · assumption
  · unfold State.modWeigh
    rw [State.point_modPoint (by rw [State.logAt_points]; exact hm)]

/-! ### Provisional values -/

theorem State.weighStable_modProv (s : State) (m : Nat) (g : Prov → Prov) :
    (s.modProv m g).weighStable m = s.weighStable m := by
  refine State.point_modPoint_keeps (fun p => p.weigh.stable && p.gap.isNone) ?_ m m
  exact fun p => rfl

theorem State.modProv_modProv (s : State) (m : Nat) (f g : Prov → Prov) :
    (s.modProv m f).modProv m g = s.modProv m (fun p => g (f p)) := by
  unfold State.modProv State.modPoint
  dsimp only
  rw [List.modify_modify_eq]
  rfl

/-- Settles O44: each event by its guard; the bank, the registers, the cycle, the position and the provisional value by
the lemmas above. -/
theorem meteringFollowsItsEvents : Obligations.MeteringFollowsItsEvents := by
  refine ⟨?commit, ?noCommit, fun s m sec tariff l => ⟨rfl, rfl, rfl⟩, fun s m sec tariff hm => ?copies, ?bounds, ?adds,
    ?calendar, ?noCalendar, ?cycle, ?noCycle, fun s m w hm => State.analyse_point w hm, ?position, ?mass, ?timeout,
    fun s m cause origin hm => State.cancelTxn_txn cause origin hm, ?noProv, ?prov, ?steps, ?poll, ?harmonic,
    ?oneHarmonic, ?calIdle⟩
  case commit =>
    intro s u dt sec hu hlegal hsec hcome hin
    refine ⟨u.commitAt sec false, ?_, rfl, State.commitAt_lastCommit u sec false⟩
    have hnext : u.nextSecond = sec := by rw [hsec]; rfl
    have hready : u.commitReady sec = true := State.commitReady_iff.mpr ⟨hcome, hin⟩
    rw [exec_commitSecond]
    unfold execCommitSecond
    dsimp only
    rw [hu, hnext, if_pos (by rw [hlegal, hready]; rfl)]
  case noCommit =>
    intro s u dt hu h
    have hnot : (u.legalRuns && u.commitReady u.nextSecond) = false := by
      rcases h with h | h
      · rw [h, Bool.false_and]
      · have hlate : u.commitReady u.nextSecond = false := by
          refine Bool.eq_false_iff.mpr (fun hr => ?_)
          exact absurd (State.commitReady_iff.mp hr).1 (Nat.not_le_of_lt h)
        rw [hlate, Bool.and_false]
    rw [exec_commitSecond]
    unfold execCommitSecond
    dsimp only
    rw [hu, hnot, if_neg Bool.false_ne_true]
  case copies => exact State.commitBank_copies sec tariff hm
  case bounds =>
    intro regs amounts tariff i hregs
    have htop (j : Nat) : regs.getD j 0 ≤ regMax := by
      rw [List.getD_eq_getElem?_getD]
      cases hj : regs[j]? with
      | none => exact Nat.zero_le _
      | some r => exact Nat.le_sub_one_of_lt (hregs r (List.mem_of_getElem? hj))
    obtain ⟨hrise, hmax, hlen⟩ := foldl_addReg_bounds tariff (numbered amounts) regs i htop
    refine ⟨hrise, lt_of_le_of_lt hmax ?_, hlen⟩
    exact Nat.sub_lt (by decide) (by decide)
  case adds =>
    intro regs amounts tariff q hq h1 h8 hr
    exact addRegs_adds hq h1 h8 hr
  case calendar =>
    intro s u dt hu hlegal hstatus hstate hat hfrom hminute
    have h := u.activateCalendar_calendars
    simp only [Prod.mk.injEq] at h
    obtain ⟨hactive, hpassive⟩ := h
    refine ⟨u.activateCalendar, ?_, by rw [hactive], by rw [hactive], by rw [hactive], by rw [hpassive]⟩
    rw [exec_calendarActivation]
    unfold execCalendarActivation
    dsimp only
    rw [hu, if_pos (by simp [hlegal, hstatus, hstate, hat, hfrom, hminute])]
  case noCalendar =>
    intro s u dt hu h
    rw [exec_calendarActivation]
    unfold execCalendarActivation
    dsimp only
    rw [hu, if_neg]
    simp only [Bool.and_eq_true, bne_iff_ne, beq_iff_eq, decide_eq_true_eq]
    omega
  case cycle =>
    intro s u dt m w hu hm htype hlegal hspan
    rw [exec_analysisCycle]
    unfold execAnalysisCycle
    dsimp only
    rw [hu, if_pos (by simp [hm, htype, hlegal]), hspan]
  case noCycle =>
    intro s u dt m hu hspan
    rw [exec_analysisCycle]
    unfold execAnalysisCycle
    dsimp only
    rw [hu, hspan]
    exact congrArg _ (ite_self _)
  case position =>
    intro s u dt m t rs hu hm htype hlegal hrecords ht
    rw [exec_weighPosition]
    unfold execWeighPosition
    dsimp only
    rw [hu, if_pos (by simp [hm, htype, hlegal]), hrecords]
    dsimp only
    rw [← ht]
    exact congrArg _ (if_congr (Bool.and_eq_true_iff) rfl rfl)
  case mass =>
    intro s m t rs hm
    have h := State.massPosition_marks t rs hm
    simp only [State.weighMarks, Prod.mk.injEq] at h
    obtain ⟨hlatest, hlast⟩ := h
    exact ⟨_, hlatest, rfl, rfl, rfl, rfl, hlast⟩
  case timeout =>
    intro s u dt m t hu hm hlegal htxn hage
    have hsince : u.since t.since (t.timeoutS * second) = true := State.since_of hage rfl
    rw [exec_weighTimeout]
    unfold execWeighTimeout
    dsimp only
    rw [hu, htxn]
    dsimp only
    rw [if_pos (by simp [hm, hlegal, hsince])]
  case noProv =>
    intro s u dt m hu hnone
    rw [exec_provUpdate]
    unfold execProvUpdate
    dsimp only
    rw [hu, hnone]
    exact congrArg _ (ite_self _)
  case prov =>
    intro s u v dt m t rs hu hm hready htype hmode hrecords ht hv
    rw [exec_provUpdate]
    unfold execProvUpdate
    dsimp only
    rw [hu, if_pos (by simp [hm, hready, htype, hmode]), hrecords]
    dsimp only
    rw [← ht, ← hv] <;> rfl
  case steps =>
    intro s m t rs terms
    unfold State.provPosition
    refine ⟨fun ha => by rw [ha], fun a ha => ?_⟩
    rw [ha]
    refine ⟨_, State.modProv_modProv .., fun hstable => ?_⟩
    rw [State.weighStable_modProv, hstable]
    exact Bool.and_false _
  case poll =>
    intro s u dt m hu hm hready hshown
    rw [exec_provStabilityPoll]
    unfold execProvStabilityPoll
    dsimp only
    rw [hu, if_pos (by simp [hm, hready, hshown])]
    rfl
  case harmonic =>
    intro s u dt m n now b phases hu hm hready hmode hharm hb hnow hn hsecond hphases
    have hnow' : u.nodeTime / second * second = now := hnow.symm
    have hdue : ¬(!(decide (m < 4) && u.ready && u.pnum (pointId m 0x90) == 1 && u.harmReady m &&
        (u.point m).harmSecond != some (u.nodeTime / second * second))) = true := by
      rw [hnow']
      simp [hm, hready, hmode, hharm, hsecond]
    rw [exec_harmonicSecond]
    unfold execHarmonicSecond
    dsimp only
    rw [hu, if_neg hdue]
    rw [hnow', ← hb, ← hn, ← hphases]
    constructor
    · intro hmissing
      rw [hmissing, Bool.true_or, if_pos rfl]
    · intro hall hneutral
      rw [hall, Bool.false_or]
      generalize hcopies : (if bindPch b 6 < 16 then some (u.captureCopies (bindPch b 6) n now) else none) = neutral
      have hin : (neutral == some none) = false := by
        rw [← hcopies]
        split
        · next h =>
          obtain ⟨copies, hcopy⟩ := Option.isSome_iff_exists.mp (hneutral h)
          rw [hcopy]
          rfl
        · rfl
      have hblocks : b2n neutral.isSome = if bindPch b 6 < 16 then 1 else 0 := by
        rw [← hcopies]
        split <;> rfl
      rw [hin, if_neg Bool.false_ne_true, hblocks]
      exact ⟨_, _, rfl, _, freeFrame_harmonicBlocks u m _ _ _⟩
  case oneHarmonic =>
    intro s u dt m hu hsecond
    rw [exec_harmonicSecond]
    unfold execHarmonicSecond
    dsimp only
    rw [hu, if_pos]
    simp [hsecond, second]
  case calIdle =>
    intro s u dt c hu hseq hlegal hage
    have hsince : u.since c.lastStep (3600 * second) = true := State.since_of hage rfl
    refine ⟨u.discardCal 3 0xFF, ?_, ?_⟩
    · rw [exec_calIdleTimeout]
      unfold execCalIdleTimeout
      dsimp only
      rw [hu, hseq]
      dsimp only
      rw [hlegal, hsince]
      rfl
    · unfold State.discardCal
      rw [hseq]
      dsimp only
      rw [State.modLegal_legal, State.logAt_legal]
      exact ⟨rfl, rfl, rfl⟩

end Sys2Proof.Machine
end

section
/-! PROOFS. The reads of the gate (R28, R169, R219, R233, R263, R266, R277, R321). -/

namespace Sys2Proof.Machine

variable {s u : State} {dt : Ticks}

/-! ### How a request is served -/

/-- The oldest request of the class is served. -/
theorem State.serve_some {code : Nat} {r : GateRequest} (h : s.nextRequest code = some r)
    (f : GateRequest → State → State) : s.serve code f = f r s := by
  unfold State.serve
  rw [h]

/-- One that signs waits for a context of the LC. -/
theorem State.serveSigned_some {code : Nat} {r : GateRequest} (h : s.nextRequest code = some r)
    (hfree : s.crypto.lcCount < 2) (f : GateRequest → State → State) : s.serveSigned code f = f r s := by
  unfold State.serveSigned
  rw [if_neg (Nat.not_le_of_lt hfree), State.serve_some h]

theorem State.serveSigned_busy {code : Nat} (hbusy : 2 ≤ s.crypto.lcCount) (f : GateRequest → State → State) :
    s.serveSigned code f = s := if_pos hbusy

/-! ### Fields of what is answered -/

theorem leNat_leBytes_mod (k n : Nat) : leNat (leBytes k n) = n % 256 ^ k := by
  induction k generalizing n with
  | zero => simp [leBytes, leNat, Nat.mod_one]
  | succ k ih =>
    have hbyte : (byte n).toNat = n % 256 := BitVec.toNat_ofNat ..
    unfold leBytes leNat
    rw [ih, hbyte, Nat.pow_succ', Nat.mod_mul]

theorem length_padTo (n : Nat) (b : Bytes) : (padTo n b).length = n := by
  simp [padTo, zeros]
  omega

/-- A field that ends a string reads as it was written. -/
theorem field_append_leBytes {a : Bytes} {k n o : Nat} (ha : a.length = o) :
    field (a ++ leBytes k n) o k = n % 256 ^ k := by
  subst ha
  have hs := slice_append_middle a (leBytes k n) []
  rw [List.append_nil, length_leBytes] at hs
  unfold field
  rw [hs, leNat_leBytes_mod]

theorem length_bodyWith (s : State) (g : Pedigree) (f : ReadingFields) : (s.bodyWith g f).length = 128 := by
  simp [State.bodyWith, length_leBytes, length_padTo, length_zeros]

/-- The version, the time and the value of a body. -/
theorem bodyWith_fields (s : State) (g : Pedigree) (f : ReadingFields) : field (s.bodyWith g f) 1 1 = f.kind % 256 ∧
    field (s.bodyWith g f) 32 8 = f.time % 2 ^ 64 ∧ field (s.bodyWith g f) 40 8 = f.value % 2 ^ 64 := by
  have hkind : (byte f.kind).toNat = f.kind % 256 := BitVec.toNat_ofNat ..
  unfold State.bodyWith
  refine ⟨?_, ?_, ?_⟩
  · simp [field, slice, leNat, hkind]
  · simp (disch := simp [length_leBytes, length_zeros]) only [field_append_left]
    exact field_append_leBytes (by simp [length_leBytes])
  · simp (disch := simp [length_leBytes, length_zeros]) only [field_append_left]
    exact field_append_leBytes (by simp [length_leBytes])

theorem State.snapshot_fields (s : State) (key : Nat) :
    field (s.snapshot key).1 1 1 = 1 ∧ field (s.snapshot key).1 32 8 = (s.point (key / 256 % 4)).bank.commitS % 2 ^ 64 ∧
      field (s.snapshot key).1 40 8 = (s.point (key / 256 % 4)).bank.regs.getD (key % 256) 0 % 2 ^ 64 ∧
      (s.snapshot key).1.drop 128 =
        ecdsaSign (toScalar Config.readingKey) (sha256 ((s.snapshot key).1.take 128)) := by
  unfold State.snapshot
  extract_lets m k t qd v sum body
  obtain ⟨hkind, htime, hvalue⟩ := bodyWith_fields sum.2 sum.2.pedigree
    { kind := 1, mp := m, quantity := (qdCodes t.1 qd).1, direction := (qdCodes t.1 qd).2
      tariff := key % 8 + 1, scope := key / 64 % 4, tstat := k.tstat, time := k.commitS
      value := k.reg (key % 256), mstat := v.mstatCommit m, type := t.1, subtype := t.2, gen := k.gen
      data := sum.1 }
  have hlen : body.length = 128 := length_bodyWith _ _ _
  have hfield (o n : Nat) (h : o + n ≤ 128) : field (signBody body) o n = field body o n :=
    field_append_left _ _ _ _ (hlen.symm ▸ h)
  refine ⟨?_, ?_, ?_, ?_⟩
  · rw [hfield 1 1 (by decide)]
    exact hkind
  · rw [hfield 32 8 (by decide)]
    exact htime
  · rw [hfield 40 8 (by decide)]
    exact hvalue
  · unfold signBody
    dsimp only
    rw [List.drop_left' hlen, List.take_left' hlen]

/-! ### The reads -/

/-- Settles O45: each read by the checks of its answer, in their order. -/
theorem gateReadsAnswer : Obligations.GateReadsAnswer := by
  refine ⟨?status, ?ext, ?registers, ?busy, ?sign, ?badSign, ?snapshot, ?txn, ?log, ?attest, ?reserved⟩
  case status =>
    intro s u dt r hu hr
    rw [exec_gateReadStatus]
    unfold execGateReadStatus
    dsimp only
    rw [hu, State.serve_some hr]
    unfold State.answerStatus
    refine ⟨fun h => ?_, fun h => ?_, fun h1 h2 => ?_⟩
    · rw [if_pos h]
    · rw [if_neg (by omega), if_pos h]
      rfl
    · rw [if_neg h2, if_neg h1]
      rfl
  case ext =>
    intro s arg
    refine ⟨rfl, rfl, fun h => ⟨?channel, ?counter⟩, fun h => ?terms, fun h => ?elec, fun h => ?weigh, fun h => ?exc,
      fun ext h => if_pos (.inl h)⟩
    all_goals
      unfold State.readExt
      dsimp only
      rw [if_neg (by simp [extArgs]; omega)]
    case channel => rfl
    case counter => rfl
    case terms =>
      rw [if_neg (by decide), if_neg (by decide), if_pos rfl]
      exact if_congr beq_iff_eq rfl rfl
    case elec => rfl
    case weigh =>
      rw [if_neg (by decide), if_neg (by decide), if_neg (by decide), if_neg (by decide), if_pos rfl]
      exact if_congr beq_iff_eq rfl rfl
    case exc => rfl
  case registers =>
    intro s u dt r m first n hu hr hm hfirst hn
    rw [exec_gateReadRegisters]
    unfold execGateReadRegisters
    dsimp only
    rw [hu, State.serve_some hr]
    unfold State.answerRegisters
    dsimp only
    rw [hm, hfirst, hn]
    refine ⟨fun hlen hm4 h1 hend hfault k hk => ?_, fun hlen hm4 h1 hend hfault => ?_, fun h => ?_⟩
    · rw [if_neg (by omega), hfault, if_neg (by decide), ← hk]
      rfl
    · rw [if_neg (by omega), hfault, if_pos rfl]
      rfl
    · rw [if_pos (by omega)]
      rfl
  case busy =>
    intro s u dt hu hbusy
    rw [exec_gateSignReading, exec_gateAttest]
    unfold execGateSignReading execGateAttest
    dsimp only
    rw [hu, State.serveSigned_busy hbusy, State.serveSigned_busy hbusy]
    exact ⟨rfl, rfl⟩
  case sign =>
    intro s u dt r key hu hr hfree hlen hrsv hkind hkey
    rw [exec_gateSignReading]
    unfold execGateSignReading
    dsimp only
    rw [hu, State.serveSigned_some hr hfree]
    unfold State.answerSign
    dsimp only
    rw [hkey, if_neg (by simp [hlen, hrsv]), if_pos hkind]
    refine ⟨fun h => ?_, fun htxn hok h => ?_, fun htxn hok hfault hread => ⟨fun hleft => ?_, fun hleft => ?_⟩⟩
    · rw [if_pos h]
      rfl
    · rw [if_neg (by simp [htxn, hok]), if_pos (by rcases h with h | h <;> simp [h])]
      rfl
    · rw [if_neg (by simp [htxn, hok]), if_neg (by simp [hfault, hread]), hleft]
      rfl
    · rw [if_neg (by simp [htxn, hok]), if_neg (by simp [hfault, hread]), hleft, if_neg (by decide)]
  case badSign =>
    intro s u dt r hu hr hfree h
    rw [exec_gateSignReading]
    unfold execGateSignReading
    dsimp only
    rw [hu, State.serveSigned_some hr hfree]
    unfold State.answerSign
    dsimp only
    by_cases hform : r.payload.length ≠ 8 ∨ rsv r.payload 1 1 = false
    · rw [if_pos hform]
      rfl
    · rw [if_neg hform]
      rcases h with h | h | h | h | ⟨hkind, hkey⟩
      · exact absurd (.inl h) hform
      · exact absurd (.inr h) hform
      · rw [if_neg (by omega), if_neg (by omega)]
        rfl
      · rw [if_neg (by omega), if_neg (by omega)]
        rfl
      · rw [if_neg (by omega), if_pos hkind, if_pos hkey]
        rfl
  case snapshot =>
    intro s key k b hk hb
    subst hk hb
    exact s.snapshot_fields key
  case txn =>
    intro s u dt r m hu hr hfree hlen hrsv hkind hkey hm
    have hpoint : 256 * m / 256 % 4 = m := by omega
    rw [exec_gateSignReading]
    unfold execGateSignReading
    dsimp only
    rw [hu, State.serveSigned_some hr hfree]
    unfold State.answerSign
    dsimp only
    rw [hkey, if_neg (by simp [hlen, hrsv]), if_neg (by omega), if_pos hkind, hpoint, if_neg (by simp)]
    refine ⟨fun h => ?_, fun hfault hread => ?_⟩
    · rw [if_pos (by rcases h with h | h <;> simp [h])]
      rfl
    · rw [if_neg (by simp [hfault, hread])]
      cases (u.point m).weigh.bodies.find? (fun b => b.1 == field r.payload 4 4) <;> rfl
  case log =>
    intro s u dt r log n start hu hr hlog hn
    rw [exec_gateReadLog]
    unfold execGateReadLog
    dsimp only
    rw [hu, State.serve_some hr]
    unfold State.answerLog
    dsimp only
    rw [hlog, hn]
    refine ⟨fun hlen hlog2 hrsv1 hrsv2 h1 h84 hhigh hstart => ?_, fun h => ?_⟩
    · rw [← hstart, if_neg (by simp [hlen, hrsv1, hrsv2]; omega)]
      refine ⟨_, rfl, ?_, ?_⟩
      · simp [length_leBytes, length_zeros]
      · simp (disch := simp [length_leBytes]) only [field_append_left]
        exact field_append_leBytes (a := []) rfl
    · rw [if_pos (by simpa [or_assoc] using h)]
      rfl
  case attest =>
    intro s u dt r hu hr hfree
    rw [exec_gateAttest]
    unfold execGateAttest
    dsimp only
    rw [hu, State.serveSigned_some hr hfree]
    unfold State.answerAttest
    refine ⟨fun h => ?_, fun hlen hkey => ?_, fun hlen hkey => ⟨_, rfl, ?_⟩⟩
    · rw [if_pos h]
      rfl
    · rw [if_neg (not_not_intro hlen), hkey]
      rfl
    · rw [if_neg (not_not_intro hlen), hkey, if_neg (by decide)]
      rfl
  case reserved =>
    intro s u dt r hu hlegal hfind hcode
    rw [exec_gateReservedCode]
    unfold execGateReservedCode
    dsimp only
    rw [hu, if_pos hlegal, hfind]
    dsimp only
    rw [if_pos hcode]
    rfl

end Sys2Proof.Machine
end

section
/-! PROOFS. The changes of the gate (R79, R165 to R168, R220, R221, R224, R240, R325, R498). -/

namespace Sys2Proof.Machine

variable {s u : State} {dt : Ticks}

/-! ### What logs and gaps leave of the calendars -/

/-- Both calendars. -/
def State.calendars (s : State) := (s.legal.active, s.legal.passive)

theorem State.logAt_calendars (s : State) (time : Nat) (rtc : Bool) (cls code origin mp : Nat) (b : Bytes) :
    (s.logAt time rtc cls code origin mp b).calendars = s.calendars := by
  unfold State.calendars
  rw [State.logAt_legal]
  rfl

theorem State.settleGaps_calendars (s : State) : s.settleGaps.calendars = s.calendars := by
  refine foldl_keeps (π := State.calendars) (fun r m => ?_) _ _
  split
  · split
    · unfold State.closeGap
      split
      · rfl
      · exact r.logAt_calendars _ _ _ _ _ _ _
    · rfl
  · rfl

theorem State.unfault_calendars (s : State) (id : Nat) : (s.unfault id).calendars = s.calendars := by
  unfold State.unfault
  split
  · exact State.settleGaps_calendars _
  · rfl

theorem State.traceLogged_calendars (s : State) (id : Nat) (old new : Bytes) (origin : Nat) :
    (s.traceLogged id old new origin).calendars = s.calendars :=
  s.logAt_calendars _ _ _ _ _ _ _

/-! ### Transactions -/

theorem Txn.passFits_iff {t : Txn} {pass : Nat} : t.passFits pass = true ↔
    if pass = 1 then t.tareKind = 2 ∧ t.grossPass = none else t.tareKind = 2 → t.grossPass ≠ none := by
  unfold Txn.passFits
  split
  · simp
  · simp [Option.isSome_iff_ne_none, or_iff_not_imp_left]

theorem ite_swap {α : Type} {p q : Prop} [Decidable p] [Decidable q] {x x' y : α} (h : p ↔ ¬q) (hx : x = x') :
    (if p then x else y) = if q then y else x' := by
  subst hx
  by_cases hq : q
  · rw [if_neg (fun hp => h.mp hp hq), if_pos hq]
  · rw [if_pos (h.mpr hq), if_neg hq]

/-- Table 6.6 as one chain of checks. -/
theorem State.weighCommitStatus_eq (s : State) (m pass : Nat) (t : Txn) : s.weighCommitStatus m pass t =
    if (if pass = 1 then t.tareKind = 2 ∧ t.grossPass = none else t.tareKind = 2 → t.grossPass ≠ none) then
      (if s.cellsFaulty m then stFault
      else if s.weighStable m = false then stMoving
      else if (s.point m).weigh.zeroSet = false ∨ (s.wg m).overload (s.point m).weigh.gross = true ∨
        (s.wg m).underload (s.point m).weigh.gross = true then stDeniedState
      else if (if pass = 1 then (s.wg m).indicated (s.point m).weigh.gross else (s.finalValues m t).1) <
        20 * ((s.wg m).e1 : Int) then stDeniedState
      else if pass = 2 ∧ (s.point m).regFault = true then stIntegrity
      else if pass = 2 ∧ s.numbersLeft = false then stNoResource else stDone)
    else stBadParam := by
  unfold State.weighCommitStatus
  dsimp only
  rw [firstRefusal_need (by decide), firstRefusal_need (by decide), firstRefusal_need (by decide),
    firstRefusal_need (by decide), firstRefusal_need (by decide), firstRefusal_need (by decide),
    firstRefusal_need (by decide)]
  refine if_congr Txn.passFits_iff ?_ rfl
  cases s.cellsFaulty m
  case true => rfl
  cases s.weighStable m
  case false => rfl
  simp only [Bool.not_false, if_true, Bool.true_eq_false, if_false, Bool.false_eq_true]
  refine ite_swap (by simp [and_assoc]) (ite_swap (by simp) (ite_swap (by simp [imp_iff_not_or])
    (ite_swap (by simp [imp_iff_not_or]) rfl)))

/-- What the hand-over of a reading leaves of the metering points. -/
theorem State.handBody_points (s : State) (b : Bytes) : (s.handBody b).points = s.points := by
  unfold State.handBody
  split
  · rfl
  · split
    · unfold State.hand
      split
      · rw [State.tell_frame]
      · rfl
    · rfl

theorem State.accrueNet_length (s : State) (origin m net : Nat) :
    (s.accrueNet origin m net).points.length = s.points.length := by
  unfold State.accrueNet
  exact (List.length_modify ..).trans (congrArg _ (State.logSaturation_points _ _ _ _ _))

/-- The end of a final pass: the body is kept first, and the transaction and the tare are gone. -/
theorem State.endPass_weigh {m : Nat} (s : State) (n : Nat) (body rest : Bytes) (r : GateRequest) (hm : m < s.points.length) :
    ((((s.modWeigh m (fun w => { w with
      bodies := ((n, body) :: w.bodies).take 64, txn := none, tare := none })).handBody body).endLcvScreens.answer r
        stDone rest).point m).weigh = { (s.point m).weigh with
      bodies := ((n, body) :: (s.point m).weigh.bodies).take 64, txn := none, tare := none } := by
  have hend (v : State) : (v.endLcvScreens.answer r stDone rest).points = v.points := rfl
  refine (congrArg MeterPoint.weigh (State.point_congr ((hend _).trans (State.handBody_points _ body)) m)).trans ?_
  exact congrArg MeterPoint.weigh (State.point_modPoint hm)

/-- A final pass ends its transaction and its tare and keeps its body first. -/
theorem State.finalPass_weigh {m : Nat} (t : Txn) (r : GateRequest) (hm : m < s.points.length) :
    ((s.finalPass m t r).point m).weigh.txn = none ∧ ((s.finalPass m t r).point m).weigh.tare = none ∧
      ∃ body, (((s.finalPass m t r).point m).weigh.bodies).head? = some (t.number, body) := by
  unfold State.finalPass
  extract_lets v tariff x body y z
  have hx : m < x.points.length := by
    have hnext (r : State) : r.nextNumber.points = r.points := rfl
    unfold x
    rw [hnext, State.accrueNet_length]
    exact hm
  have h := x.endPass_weigh t.number body (leBytes 4 t.number ++ leBytes 4 z.legal.rseq ++ sBytes 8 v.1) r hx
  rw [h]
  exact ⟨rfl, rfl, body, rfl⟩

/-! ### Archives -/

theorem State.logBoth_points (s : State) (time : Nat) (rtc : Bool) (cls code origin mp : Nat) (b : Bytes) :
    (s.logBoth time rtc cls code origin mp b).points = s.points := by
  unfold State.logBoth
  rw [State.logAt_points]
  unfold State.sealLogAt
  dsimp only
  split <;> rfl

theorem State.logBoth_cfgcnt (s : State) (time : Nat) (rtc : Bool) (cls code origin mp : Nat) (b : Bytes) :
    (s.logBoth time rtc cls code origin mp b).legal.cfgcnt = s.legal.cfgcnt := by
  unfold State.logBoth
  rw [State.logAt_legal]
  unfold State.sealLogAt
  dsimp only
  split <;> rfl

/-- An entry of an empty seal log stands alone. -/
theorem State.logBoth_emptySeal (s : State) (time : Nat) (rtc : Bool) (cls code origin mp : Nat) (b : Bytes)
    (h : s.legal.sealLog = []) :
    (s.logBoth time rtc cls code origin mp b).legal.slarch = s.legal.slarch ∧
      (s.logBoth time rtc cls code origin mp b).legal.missed = s.legal.missed ∧
      (s.logBoth time rtc cls code origin mp b).legal.sealLog.length = 1 := by
  have htaken : sealTakes s.legal.sealLog.length cls code = true := by
    rw [h]
    rfl
  unfold State.logBoth
  rw [State.logAt_legal, State.sealLogAt_taken (h := htaken)]
  refine ⟨rfl, rfl, ?_⟩
  exact congrArg (fun l => List.length l + 1) h

theorem getD_replicate (n i : Nat) : (List.replicate n 0).getD i 0 = 0 := by
  rw [List.getD_eq_getElem?_getD, List.getElem?_replicate]
  split <;> rfl

theorem MeterPoint.zeroBank_regs (p : MeterPoint) (m i : Nat) : (p.zeroBank m).bank.regs.getD i 0 = 0 := by
  have hbank : (p.zeroBank m).bank = { BankCopy.factory m with wasReset := true } := rfl
  rw [hbank]
  exact getD_replicate 256 i

theorem State.point_modPoint_ne {m k : Nat} {g : MeterPoint → MeterPoint} (h : k ≠ m) :
    (s.modPoint m g).point k = s.point k := by
  unfold State.point State.modPoint
  simp [List.getD_eq_getElem?_getD, Ne.symm h]

/-- What is logged of an archive leaves the points as the archive left them. -/
theorem State.archived_point (v : State) (m : Nat) (g : MeterPoint → MeterPoint) (f : Legal → Legal) (time : Nat) (rtc : Bool)
    (cls code origin mp : Nat) (b : Bytes) (k : Nat) :
    (((v.nextNumber.modPoint m g).modLegal f).logBoth time rtc cls code origin mp b).point k =
      (v.modPoint m g).point k := by
  have hnext : v.nextNumber.points = v.points := rfl
  refine State.point_congr ?_ k
  rw [State.logBoth_points, State.modLegal_points, State.modPoint_points, State.modPoint_points, hnext]

/-! ### The calendar -/

/-- An accepted calendar is the passive one from its instant on, whatever is logged of it. -/
theorem State.acceptCalendar_calendars (s : State) (ctr : Option Nat) (cal old : Bytes) (at_ origin : Nat) :
    (((((s.consume ctr).modLegal (fun l => { l with passive := { bytes := cal, state := 1, at_ := at_ } })).putParam
      0x3100 cal).traceLogged 0x3100 old cal origin).unfault 0x3100).calendars =
        (s.legal.active, { bytes := cal, state := 1, at_ := at_ }) := by
  rw [State.unfault_calendars, State.traceLogged_calendars]
  unfold State.consume
  cases ctr <;> rfl

/-- Settles O46: each change by its checks in their order, and by what it leaves behind. -/
theorem gateChangesTakeEffect : Obligations.GateChangesTakeEffect := by
  refine ⟨?param, ?short, ?sealed, ?time, ?calendar, ?lock, ?begin_, ?commit, ?status, ?passes, ?badCommit, ?cancel,
    ?sealArchive, ?regArchive⟩
  case param =>
    intro s u dt r id st hu hr hlen hid hst
    rw [exec_gateSetParam]
    unfold execGateSetParam
    dsimp only
    rw [hu, State.serve_some hr]
    unfold State.answerSetParam
    dsimp only
    rw [hid, if_neg (Nat.not_lt_of_le hlen), ← hst]
    have hfull : ¬(stDone = stNoResource ∧ u.classNow id = 1 ∧ u.sealSpace = false) := fun h => absurd h.1 (by decide)
    refine ⟨fun hdone hsame => ?_, fun hdone hsame => ?_, fun hne => ?_⟩
    · rw [hdone, if_neg (not_not_intro rfl), if_neg hfull, hsame]
      rfl
    · rw [hdone, if_neg (not_not_intro rfl), if_neg hfull, hsame]
      rfl
    · rw [if_pos hne]
      rfl
  case short =>
    intro s u dt r hu hr hlen
    rw [exec_gateSetParam]
    unfold execGateSetParam
    dsimp only
    rw [hu, State.serve_some hr]
    unfold State.answerSetParam
    dsimp only
    have hne : stBadParam ≠ stDone := by decide
    have hfull : ¬(stBadParam = stNoResource ∧ u.classNow (field r.payload 0 2) = 1 ∧ u.sealSpace = false) :=
      fun h => absurd h.1 (by decide)
    rw [if_pos hlen, if_pos hne, if_neg hfull]
    rfl
  case sealed =>
    intro s id len v hside hknown hclass hclosed
    obtain ⟨i, hi⟩ := Option.isSome_iff_exists.mp hknown
    unfold State.setParamStatus
    rw [hi]
    dsimp only
    rw [if_neg (by simp [hside]), if_pos (by simp [hclass, hclosed])]
  case time =>
    intro s u dt r hu hr
    rw [exec_gateSetTime]
    unfold execGateSetTime
    dsimp only
    rw [hu, State.serve_some hr]
    unfold State.answerSetTime
    dsimp only
    refine ⟨fun hlen hauth hok => ⟨_, rfl, ?_⟩, fun hlen hauth => ?_, fun h => ?_⟩
    · rw [if_neg (not_not_intro hlen), if_neg (not_not_intro hauth), hok, if_neg (by decide)]
    · rw [if_neg (not_not_intro hlen), if_pos hauth]
      rfl
    · rcases h with hlen | ⟨hauth, hbad⟩
      · rw [if_pos hlen]
        rfl
      · by_cases hlen : r.payload.length = 80
        · rw [if_neg (not_not_intro hlen), if_neg (not_not_intro hauth), hbad, if_pos (by decide)]
          rfl
        · rw [if_pos hlen]
          rfl
  case calendar =>
    intro s u dt r cal hu hr hcal
    rw [exec_gateLoadCalendar]
    unfold execGateLoadCalendar
    dsimp only
    rw [hu, State.serve_some hr]
    unfold State.answerCalendar
    dsimp only
    rw [← hcal]
    refine ⟨fun hlen hauth hok => ?_, fun hlen hauth => ?_, fun h => ?_⟩
    · have h := u.acceptCalendar_calendars (u.ownerAuth r.payload).2 cal u.legal.passive.bytes (u.activateAt cal)
        (originCode r.origin)
      rw [if_neg (not_not_intro hlen), if_neg (not_not_intro hauth), hok, if_neg (by decide)]
      refine ⟨_, _, rfl, rfl, ?_⟩
      generalize ((((u.consume (u.ownerAuth r.payload).2).modLegal (fun l => { l with
        passive := { bytes := cal, state := 1, at_ := u.activateAt cal } })).putParam 0x3100 cal).traceLogged 0x3100
          u.legal.passive.bytes cal (originCode r.origin)).unfault 0x3100 = w at h ⊢
      simp only [State.calendars, Prod.mk.injEq] at h
      obtain ⟨hactive, hpassive⟩ := h
      have hlegal : (w.refuseGate r stDone).legal = w.legal := rfl
      rw [hlegal, hactive, hpassive]
      exact ⟨rfl, rfl, rfl, rfl⟩
    · rw [if_neg (not_not_intro hlen), if_pos hauth]
      rfl
    · rcases h with hlen | ⟨hauth, hbad⟩
      · rw [if_pos hlen]
        rfl
      · by_cases hlen : r.payload.length = 1988
        · rw [if_neg (not_not_intro hlen), if_neg (not_not_intro hauth), hbad, if_pos (by decide)]
          rfl
        · rw [if_pos hlen]
          rfl
  case lock =>
    intro s u dt r hu hr
    rw [exec_gateSetOwnerLock]
    unfold execGateSetOwnerLock
    dsimp only
    rw [hu, State.serve_some hr]
    unfold State.answerLock
    dsimp only
    refine ⟨fun hlen hauth hlock hrsv => ?_, fun hlen hauth => ?_, fun h => ?_⟩
    · rw [if_neg (not_not_intro hlen), if_neg (not_not_intro hauth), if_neg (by simp [hlock, hrsv])]
      rfl
    · rw [if_neg (not_not_intro hlen), if_pos hauth]
      rfl
    · rcases h with hlen | ⟨hauth, hbad⟩
      · rw [if_pos hlen]
        rfl
      · by_cases hlen : r.payload.length = 72
        · rw [if_neg (not_not_intro hlen), if_neg (not_not_intro hauth), if_pos hbad]
          rfl
        · rw [if_pos hlen]
          rfl
  case begin_ =>
    intro s u dt r m n hu hr hm hn
    rw [exec_gateWeighBegin]
    unfold execGateWeighBegin
    dsimp only
    rw [hu, State.serve_some hr]
    unfold State.answerWeighBegin
    dsimp only
    rw [hm, hn]
    refine ⟨fun hok hopen hany => ⟨⟨n, field r.payload 1 1, field r.payload 4 8, field r.payload 12 4, field r.payload 2 2,
      u.mono, none⟩, rfl, rfl, rfl, rfl, rfl, rfl, rfl, ?_⟩, fun hbad => ?_, fun hok h => ?_⟩
    · rw [if_neg (by simp [hok]), if_neg (by simp [hopen, hany])]
    · rw [if_pos (by simp [hbad])]
      rfl
    · rw [if_neg (by simp [hok]), if_pos (by simpa using h)]
      rfl
  case commit =>
    intro s u dt r m t hu hr hlen hm hm4 htxn
    rw [exec_gateWeighCommit]
    unfold execGateWeighCommit
    dsimp only
    rw [hu, State.serve_some hr]
    unfold State.answerWeighCommit
    dsimp only
    rw [hm]
    refine ⟨fun hk hst => ?_, fun hk hst => ?_, fun k st hk h12 hst hne => ?_⟩
    · rw [hk, if_neg (by omega), htxn]
      dsimp only
      rw [hst, if_neg (by decide), if_pos rfl]
    · rw [hk, if_neg (by omega), htxn]
      dsimp only
      rw [hst, if_neg (by decide), if_neg (by decide)]
    · rw [hk, if_neg (by omega), htxn]
      dsimp only
      rw [hst, if_pos hne]
      rfl
  case status =>
    intro s m pass t e he
    rw [he]
    exact s.weighCommitStatus_eq m pass t
  case passes =>
    intro s m t r g hm hg
    rw [hg]
    exact ⟨rfl, State.finalPass_weigh t r hm⟩
  case badCommit =>
    intro s u dt r hu hr
    rw [exec_gateWeighCommit]
    unfold execGateWeighCommit
    dsimp only
    rw [hu, State.serve_some hr]
    unfold State.answerWeighCommit
    dsimp only
    refine ⟨fun h => ?_, fun hlen hm h1 h2 htxn => ?_⟩
    · rw [if_pos h]
      rfl
    · rw [if_neg (by omega), htxn]
      rfl
  case cancel =>
    intro s u dt r m hu hr hm
    rw [exec_gateWeighCancel]
    unfold execGateWeighCancel
    dsimp only
    rw [hu, State.serve_some hr]
    unfold State.answerWeighCancel
    dsimp only
    rw [hm]
    refine ⟨fun hlen hm4 => ?_, fun h => ?_⟩
    · rw [if_neg (by omega)]
      cases (u.point m).weigh.txn <;> rfl
    · rw [if_pos h]
      rfl
  case sealArchive =>
    intro s u dt r hu hr
    rw [exec_gateSealLogArchive]
    unfold execGateSealLogArchive
    dsimp only
    rw [hu, State.serve_some hr]
    unfold State.answerSealArchive
    dsimp only
    refine ⟨fun hdone => ?_, fun hne => ?_⟩
    · rw [if_neg (not_not_intro hdone)]
      refine ⟨_, _, rfl, ?_⟩
      exact State.logBoth_emptySeal _ _ _ _ _ _ _ _ rfl
    · rw [if_pos hne]
      rfl
  case regArchive =>
    intro s u dt r m st hu hr hst hm
    rw [exec_gateRegArchive]
    unfold execGateRegArchive
    dsimp only
    rw [hu, State.serve_some hr]
    unfold State.answerRegArchive
    dsimp only
    rw [hm, ← hst]
    refine ⟨fun hdone hlen => ?_, fun hne => ?_⟩
    · have hfull : ¬(stDone = stNoResource ∧ u.sealSpace = false) := fun h => absurd h.1 (by decide)
      rw [hdone, if_neg (not_not_intro rfl), if_neg hfull]
      refine ⟨_, _, rfl, ?_, fun i => ?_, fun j hj => ?_⟩
      · rw [State.logBoth_cfgcnt]
        rfl
      · rw [State.archived_point, State.point_modPoint hlen]
        exact MeterPoint.zeroBank_regs _ m i
      · rw [State.archived_point]
        exact State.point_modPoint_ne hj
    · rw [if_pos hne]
      rfl

end Sys2Proof.Machine
end

section
/-! PROOFS. The calibration procedure (R212 to R214, Tables 8.4 and 8.5). -/

namespace Sys2Proof.Machine

variable {s u : State} {dt : Ticks} {r : GateRequest} {k : Nat}

/-! ### The checks before a step -/

section
variable (f : GateRequest → Nat → State → State)

theorem State.calStep_malformed (hr : s.nextRequest 13 = some r) (hbad : calFieldsOk r.payload = false) :
    s.calStep 1 f = s.answer r stBadParam [] := by
  unfold State.calStep
  rw [hr]
  dsimp only
  rw [hbad, if_neg Bool.false_ne_true, if_neg (not_not_intro rfl), if_pos rfl]
  rfl

theorem State.calStep_closed (hr : s.nextRequest 13 = some r) (hok : calFieldsOk r.payload = true)
    (hk : field r.payload 0 1 = k) (hclosed : s.legal.sealOpen = false) :
    s.calStep k f = s.answer r stDeniedSeal [] := by
  unfold State.calStep
  rw [hr]
  dsimp only
  rw [hok, if_pos rfl, if_neg (not_not_intro hk), if_neg (by decide), hclosed, if_pos (by decide)]
  rfl

/-- With the seal open a step is answered with its status, or taken. -/
theorem State.calStep_open (hr : s.nextRequest 13 = some r) (hok : calFieldsOk r.payload = true)
    (hk : field r.payload 0 1 = k) (hopen : s.legal.sealOpen = true) :
    s.calStep k f =
      let st := if k = 1 then s.calBeginStatus (field r.payload 1 1) else s.calStepStatus (field r.payload 1 1) k
      let t := if st = stNoResource then s.noteSealFull (originCode r.origin) else s
      if st ≠ stDone then t.refuseGate r st else f r (field r.payload 1 1) t := by
  unfold State.calStep
  rw [hr]
  dsimp only
  rw [hok, if_pos rfl, if_neg (not_not_intro hk), if_neg (by decide), hopen, if_neg (by decide)]

/-- No step of an open sequence is refused for want of room. -/
theorem State.calStepStatus_ne_noResource (m : Nat) : s.calStepStatus m k ≠ stNoResource := by
  have hstep (ok : Bool) {st : Nat} {l : List Nat} (hst : st ≠ stDone) (hne : st ≠ stNoResource)
      (hl : firstRefusal l ≠ stNoResource) : firstRefusal (need ok st :: l) ≠ stNoResource := by
    rw [firstRefusal_need hst]
    split
    · exact hl
    · exact hne
  unfold State.calStepStatus
  split
  · decide
  · exact hstep _ (by decide) (by decide) (hstep _ (by decide) (by decide) (hstep _ (by decide) (by decide)
      (hstep _ (by decide) (by decide) (by decide))))

theorem State.calStep_refused {m st : Nat} (hr : s.nextRequest 13 = some r) (hok : calFieldsOk r.payload = true)
    (hk : field r.payload 0 1 = k) (hk1 : k ≠ 1) (hm : field r.payload 1 1 = m) (hopen : s.legal.sealOpen = true)
    (hst : s.calStepStatus m k = st) (hne : st ≠ stDone) : s.calStep k f = s.answer r st [] := by
  have hroom : st ≠ stNoResource := hst ▸ s.calStepStatus_ne_noResource m
  rw [State.calStep_open f hr hok hk hopen, if_neg hk1, hm, hst]
  dsimp only
  rw [if_neg hroom, if_pos hne]
  rfl

end

/-! ### The write of a block (R213) -/

/-- What a COMMIT writes, and what the rest of it leaves. -/
def Legal.calMarks (l : Legal) := (l.calA, l.calB, l.calcnt, l.calSeq)

theorem State.logAt_calMarks (s : State) (time : Nat) (rtc : Bool) (cls code origin mp : Nat) (b : Bytes) :
    (s.logAt time rtc cls code origin mp b).legal.calMarks = s.legal.calMarks := by
  rw [State.logAt_legal]
  rfl

theorem State.logBoth_calMarks (s : State) (time : Nat) (rtc : Bool) (cls code origin mp : Nat) (b : Bytes) :
    (s.logBoth time rtc cls code origin mp b).legal.calMarks = s.legal.calMarks := by
  unfold State.logBoth
  rw [State.logAt_calMarks]
  unfold State.sealLogAt
  dsimp only
  split <;> rfl

theorem State.settleGaps_calMarks (s : State) : s.settleGaps.legal.calMarks = s.legal.calMarks := by
  refine foldl_keeps (π := fun r : State => r.legal.calMarks) (fun r m => ?_) _ _
  split
  · split
    · unfold State.closeGap
      split
      · rfl
      · exact r.logAt_calMarks _ _ _ _ _ _ _
    · rfl
  · rfl

theorem State.resetInstrument_calMarks (s : State) (m : Nat) :
    (s.resetInstrument m).legal.calMarks = s.legal.calMarks := by
  unfold State.resetInstrument
  rfl

theorem State.calEnforce_calMarks (s : State) (m : Nat) (b : Bytes) :
    (s.calEnforce m b).legal.calMarks = s.legal.calMarks := by
  unfold State.calEnforce
  split
  · rw [State.resetInstrument_calMarks]
    rfl
  · rfl

/-- What a COMMIT has written stays through what it logs and puts in force. -/
theorem State.calCommitted_marks {v t : State} {f : Legal → Legal} {time origin m : Nat} {x b : Bytes}
    (h : (((v.modLegal f).rewriteSlot6.logBoth time false 0x06 0x01 origin m x).calEnforce m b).settleGaps = t) :
    t.legal.calMarks = (f v.legal).calMarks := by
  rw [← h, State.settleGaps_calMarks, State.calEnforce_calMarks, State.logBoth_calMarks]
  rfl

/-- The block is written under the next CALCNT, and the sequence is over. -/
theorem State.calWrite_marks {m : Nat} {terms : Bytes} (hterms : s.calTerms m = some terms)
    (hcnt : s.legal.calcnt < 65535) (hroom : s.sealSpace = true) :
    ∃ (t : State) (l : Legal), State.calWrite r m s = t.answer r stDone (leBytes 2 (s.legal.calcnt + 1)) ∧
      l = s.legal.putCal (setAt s.legal.calStore m (padTo 96 ([byte m, byte (s.mpType m), 0, 0] ++
        leBytes 4 (s.legal.calcnt + 1) ++ terms))) ∧ t.legal.calA = l.calA ∧ t.legal.calB = l.calB ∧
      t.legal.calcnt = s.legal.calcnt + 1 ∧ t.legal.calSeq = none := by
  unfold State.calWrite
  rw [hterms]
  dsimp only
  rw [if_neg (Nat.not_le_of_lt hcnt), hroom, if_neg (by decide)]
  refine ⟨_, _, rfl, rfl, ?_⟩
  generalize ht : State.settleGaps _ = t
  have hmarks := State.calCommitted_marks ht
  simp only [Legal.calMarks, Prod.mk.injEq] at hmarks
  exact hmarks

theorem Legal.putCal_copies (l : Legal) (b : List Bytes) :
    ∃ g, ((l.putCal b).calA = ⟨g, b, true⟩ ∧ (l.putCal b).calB = l.calB) ∨
      ((l.putCal b).calB = ⟨g, b, true⟩ ∧ (l.putCal b).calA = l.calA) := by
  unfold Legal.putCal
  extract_lets gen c
  split
  · exact ⟨gen, .inl ⟨rfl, rfl⟩⟩
  · exact ⟨gen, .inr ⟨rfl, rfl⟩⟩

/-- The number of a corner is at least 1 where its fields are in order. -/
theorem calFieldsOk_corner {p : Bytes} (h : calFieldsOk p = true) (hk : field p 0 1 = 3) : 1 ≤ field p 2 1 := by
  unfold calFieldsOk at h
  simp [hk] at h
  omega

/-- Settles O47: a step by the checks that come before it, and by what it stages or writes. -/
theorem calibrationStagesAndCommits : Obligations.CalibrationStagesAndCommits := by
  refine ⟨?malformed, ?closed, ?begin_, ?refused, ?unopened, ?steps, fun l b => l.putCal_copies b, ?waste⟩
  case malformed =>
    intro s u dt r hu hr hbad
    rw [exec_calBegin]
    unfold execCalBegin
    dsimp only
    rw [hu, State.calStep_malformed _ hr hbad]
  case closed =>
    intro s u dt r k hu hr hok hk hclosed
    have h (f : GateRequest → Nat → State → State) := State.calStep_closed f hr hok hk hclosed
    refine ⟨?_, ?_, ?_, ?_, ?_, ?_, ?_, ?_⟩
    all_goals
      rintro rfl
      subst hu
      exact congrArg _ (h _)
  case begin_ =>
    intro s u dt r m hu hr hok hk hm hopen
    rw [exec_calBegin]
    unfold execCalBegin
    dsimp only
    rw [hu, State.calStep_open _ hr hok hk hopen, if_pos rfl, hm]
    dsimp only
    refine ⟨fun hst => ?_, fun hst => ?_⟩
    · have hroom : stDone ≠ stNoResource := by decide
      rw [hst, if_neg (not_not_intro rfl), if_neg hroom]
      rfl
    · rw [if_pos hst]
      rfl
  case refused =>
    intro s u dt r m k st hu hr hok hk hm hopen hst hne
    have h (f : GateRequest → Nat → State → State) (hk1 : k ≠ 1) :=
      State.calStep_refused f hr hok hk hk1 hm hopen hst hne
    refine ⟨?_, ?_, ?_, ?_, ?_, ?_, ?_⟩
    all_goals
      rintro rfl
      subst hu
      exact congrArg _ (h _ (by decide))
  case unopened =>
    intro s m k hnone
    unfold State.calStepStatus
    rw [hnone]
  case steps =>
    intro s u dt r m c hu hr hok hm hopen hseq hst
    have htake (k : Nat) (hk : field r.payload 0 1 = k) (hk1 : k ≠ 1) (f : GateRequest → Nat → State → State) :
        u.calStep k f = f r m u := calStep_done u r m k f hr hok hk hm hopen (hk ▸ hst) hk1
    have hzero : u.calZero = c.zero := by
      unfold State.calZero
      rw [hseq]
      rfl
    refine ⟨fun hk => ?zero, fun hk => ?corner, fun hk => ?span, fun hk h => ?badElec, fun hk hph ha hb hset => ?elec,
      fun hk a nominal ha hnominal => ?rref, fun hk => ?abort, fun hk => ?commit⟩
    case zero =>
      subst hu
      exact congrArg _ (htake 2 hk (by decide) _)
    case corner =>
      have h1 := calFieldsOk_corner hok hk
      refine (congrArg Host.Outcome.next ((congrArg (fun v => v.calStep 3 State.calTakeCorner) hu).trans
        (htake 3 hk (by decide) _))).trans (congrArg _ ?_)
      unfold State.calTakeCorner
      dsimp only
      rw [hzero]
      cases c.zero with
      | none => rfl
      | some z => exact ite_swap (by omega) rfl
    case span =>
      refine (congrArg Host.Outcome.next ((congrArg (fun v => v.calStep 4 State.calTakeSpan) hu).trans
        (htake 4 hk (by decide) _))).trans (congrArg _ ?_)
      unfold State.calTakeSpan
      dsimp only
      rw [hzero]
      cases c.zero with
      | none => rfl
      | some z => exact ite_swap (by omega) rfl
    case badElec =>
      refine (congrArg Host.Outcome.next ((congrArg (fun v => v.calStep 5 State.calTakeElec) hu).trans
        (htake 5 hk (by decide) _))).trans (congrArg _ ?_)
      unfold State.calTakeElec
      dsimp only
      rw [if_pos (by simpa [or_assoc] using h)]
      rfl
    case elec =>
      refine (congrArg Host.Outcome.next ((congrArg (fun v => v.calStep 5 State.calTakeElec) hu).trans
        (htake 5 hk (by decide) _))).trans (congrArg _ ?_)
      unfold State.calTakeElec
      dsimp only
      rw [if_neg (by simp [hph, ha, hb, hset])]
      cases u.lastCycles m with
      | none => rfl
      | some spans =>
        dsimp only
        cases u.refTerms m (field r.payload 2 1 - 1) r.payload spans <;> rfl
    case rref =>
      subst ha hnominal
      refine (congrArg Host.Outcome.next ((congrArg (fun v => v.calStep 6 State.calTakeRref) hu).trans
        (htake 6 hk (by decide) _))).trans (congrArg _ ?_)
      unfold State.calTakeRref
      exact if_congr decide_eq_true_iff rfl rfl
    case abort =>
      subst hu
      exact congrArg _ (htake 8 hk (by decide) _)
    case commit =>
      have hexec : exec (.calCommit dt) s = .next (State.calWrite r m u) :=
        congrArg Host.Outcome.next ((congrArg (fun v => v.calStep 7 State.calWrite) hu).trans
          (htake 7 hk (by decide) _))
      rw [hexec]
      refine ⟨fun hterms => ?_, fun terms hterms hcnt => ?_, fun terms hterms hcnt hroom => ?_,
        fun terms hterms hcnt hroom => ?_⟩
      · unfold State.calWrite
        rw [hterms]
        rfl
      · unfold State.calWrite
        rw [hterms]
        dsimp only
        rw [if_pos hcnt]
        rfl
      · unfold State.calWrite
        rw [hterms]
        dsimp only
        rw [if_neg (Nat.not_le_of_lt hcnt), hroom]
        rfl
      · obtain ⟨t, l, ht, hrest⟩ := State.calWrite_marks (r := r) hterms hcnt hroom
        exact ⟨t, l, congrArg _ ht, hrest⟩
  case waste =>
    intro c cells fs z a d k hfs hz hspan hd hk h0 htop
    unfold CalSeq.wasteTerms
    rw [hfs, hz, hspan]
    dsimp only
    rw [if_pos hd, ← hk, if_pos ⟨h0, htop⟩]

end Sys2Proof.Machine
end

section
/-! PROOFS. The replies of the gate and the delivery of readings (R27, R28, R37, R247, R298, R299). -/

namespace Sys2Proof.Machine

variable {s u : State} {dt : Ticks}

/-- What Undercoat does with a reply. -/
def State.takeReply (s : State) : GateReply → State
  | .answer g code st b => s.takeAnswer g code st b
  | .news n => s.takeNews n

/-- The oldest reply leaves its slot for the next one that waits, and is taken. -/
theorem exec_gateReplyReceive_front {r : GateReply} {rest : List GateReply} (hu : s.elapse dt = u)
    (hready : u.ready = true) (hreplies : u.gate.replies = r :: rest) :
    exec (.gateReplyReceive dt) s = .next ((u.modGate (fun x => { x with
      replies := rest ++ x.outbox.take 1, outbox := x.outbox.drop 1 })).takeReply r) := by
  have hfree : u.modGate Gate.freeReply =
      u.modGate (fun x => { x with replies := rest ++ x.outbox.take 1, outbox := x.outbox.drop 1 }) := by
    unfold State.modGate Gate.freeReply
    dsimp only
    rw [hreplies]
    rfl
  rw [exec_gateReplyReceive]
  unfold execGateReplyReceive
  dsimp only
  rw [hu, hready, if_neg (by decide), hreplies]
  dsimp only
  rw [hfree]
  cases r <;> rfl

/-- A reply to READ_STATUS that is done shows that the gate answers. -/
def State.noteGate (s : State) (code st : Nat) : State :=
  if code = 1 ∧ st = stDone then s.modUpdate (fun x => { x with gateSeen := true }) else s

/-- A reply to a command of a route goes on to it. -/
theorem State.takeAnswer_command {g code st : Nat} {b : Bytes} {f : InFlight}
    (hown : s.gate.own.find? (fun r => r.1 == g) = none)
    (hf : s.hawk.inFlight.find? (fun f => f.gseq == some g) = some f) (h6 : code ≠ 6) (hE : code ≠ 0x0E) :
    s.takeAnswer g code st b =
      (if st = stDone then (s.noteGate code st).keepItem code f.payload else s.noteGate code st).respond f st b := by
  have hgate : (s.noteGate code st).gate = s.gate := by
    unfold State.noteGate
    split <;> rfl
  have hhawk : (s.noteGate code st).hawk = s.hawk := by
    unfold State.noteGate
    split <;> rfl
  have hasked : (s.noteGate code st).askedBy g = some f := by
    unfold State.askedBy
    rw [hhawk]
    exact hf
  have htake : s.takeAnswer g code st b = (s.noteGate code st).answered f code st b := by
    unfold State.takeAnswer
    change (match (s.noteGate code st).gate.own.find? (fun r => r.1 == g) with
      | some r => _
      | none => match (s.noteGate code st).askedBy g with
        | none => _
        | some f => _) = _
    rw [hgate, hown, hasked]
    rfl
  rw [htake]
  unfold State.answered
  rw [if_neg hE]
  dsimp only
  rw [if_neg h6]

/-- A command that Undercoat keeps nothing of changes no set of the fabric. -/
theorem State.keepItem_other {code : Nat} (p : Bytes) (h8 : code ≠ 8) (h9 : code ≠ 9) : s.keepItem code p = s := by
  unfold State.keepItem
  rw [if_neg h8, if_neg h9]

/-- Settles O48: the oldest reply by its kind, the freed slots by who waits for them. -/
theorem gateRepliesAreTakenInOrder : Obligations.GateRepliesAreTakenInOrder := by
  refine ⟨?answer, ?news, ?idle, ?submit, ?full, ?delivery, ?store, ?empty, ?deliver⟩
  case answer =>
    intro s u v dt g code st b rest f hu hready hreplies hv hown hf h6 hE
    have htake : exec (.gateReplyReceive dt) s = .next ((if st = stDone then
        (v.noteGate code st).keepItem code f.payload else v.noteGate code st).respond f st b) := by
      rw [exec_gateReplyReceive_front hu hready hreplies, ← hv]
      exact congrArg _ (State.takeAnswer_command (by rw [hv]; exact hown) (by rw [hv]; exact hf) h6 hE)
    rw [htake]
    refine ⟨fun hne => ?_, fun hdone h1 h8 h9 => ?_, fun hdone h1 => ?_⟩
    · rw [if_neg hne, State.noteGate, if_neg (fun h => hne h.2)]
    · rw [if_pos hdone, State.keepItem_other _ h8 h9, State.noteGate, if_neg (fun h => h1 h.1), hdone]
    · rw [if_pos hdone, State.keepItem_other _ (by omega) (by omega), State.noteGate, if_pos ⟨h1, hdone⟩, hdone]
  case news =>
    intro s u v dt n rest hu hready hreplies hv
    rw [exec_gateReplyReceive_front hu hready hreplies, ← hv]
    refine ⟨?_, ?_, ?_, ?_⟩
    · rintro r rfl
      rfl
    · rintro e rfl hidle
      refine congrArg _ ?_
      have hupdate : (v.postEvent 0x0480 e).update.activation = none := by
        rw [postEvent_frame, hv]
        exact hidle
      unfold State.takeReply State.takeNews State.imageSeen
      dsimp only
      rw [hupdate]
    · rintro b rfl
      rfl
    · rintro old new rfl
      rfl
  case idle =>
    intro s u dt hu h
    rw [exec_gateReplyReceive]
    unfold execGateReplyReceive
    dsimp only
    rw [hu]
    rcases h with h | h
    · rw [h, if_pos (by decide)]
    · rw [h]
      exact congrArg _ (ite_self _)
  case submit =>
    intro s u dt code p rest hu hwaiting hroom hready hhalt
    rw [exec_gateSlotFreeSubmit]
    unfold execGateSlotFreeSubmit
    dsimp only
    rw [hu, hwaiting]
    dsimp only
    rw [if_neg (by simp [hroom, hready])]
    unfold State.schedule
    rw [State.modGate_boot, hhalt, if_neg (by decide), State.modGate_gate]
    dsimp only
    rw [if_neg (Nat.not_le_of_lt hroom)]
    rfl
  case full =>
    intro s u dt hu h
    rw [exec_gateSlotFreeSubmit]
    unfold execGateSlotFreeSubmit
    dsimp only
    rw [hu]
    rcases h with h | h
    · rw [h]
    · cases hwaiting : u.gate.waiting with
      | nil => rfl
      | cons x rest =>
        dsimp only
        rw [if_pos (.inl h)]
  case delivery =>
    intro s u dt hu
    rw [exec_readingDelivery]
    unfold execReadingDelivery
    dsimp only
    rw [hu]
    cases u.ready <;> rfl
  case store =>
    intro s r rest hstore hready
    unfold State.storeNext
    rw [hstore]
    dsimp only
    rw [if_pos hready]
  case empty =>
    intro s hstore
    unfold State.storeNext
    rw [hstore]
  case deliver =>
    intro s r rest hdelivery
    unfold State.deliverNext
    rw [hdelivery]
    dsimp only
    refine ⟨fun hroom => ?_, fun hroom => ?_⟩
    · rw [hroom, if_neg (by decide)]
    · rw [hroom, if_pos (by decide)]

end Sys2Proof.Machine
end

section
/-! PROOFS. The register frames (R46, R60, R280 to R285, R298 to R300, R314, Tables 11.2 to 11.6). -/

namespace Sys2Proof.Machine

variable {s u : State} {dt : Ticks} {addr off : Nat} {v : Word}

/-! ### Frames of one word -/

theorem exec_registerWrite_word (hu : s.elapse dt = u) (h : u.boot.held = false) (ho : off % 4 = 0) :
    exec (.registerWrite dt off [v]) s = .next ((u.writeRegister off v).2.endFrame (u.writeRegister off v).1) := by
  rw [← regWriteFrame_aligned u off v h ho, ← hu]
  rfl

/-- A read frame of one aligned word. -/
theorem State.regReadFrame_word (h : u.boot.held = false) (ha : addr % 4 = 0) :
    u.regReadFrame addr 1 = if u.readStatus addr = stDone then
      ((u.readRegister addr).2.modHawk (fun h => { h with miso := [(u.readRegister addr).1] })).endFrame stDone
    else (u.modHawk (fun h => { h with miso := [0] })).endFrame (u.readStatus addr) := by
  have hfold : (wordOffsets addr (frameWords 1)).foldl State.getRegister (u, stDone, []) =
      State.getRegister (u, stDone, []) addr := rfl
  unfold State.regReadFrame
  dsimp only
  rw [State.spiRuns_of h, if_neg (by decide), if_neg (not_not_intro ha), hfold]
  unfold State.getRegister
  dsimp only
  split <;> rfl

theorem described_aligned (h : described addr = true) : addr % 4 = 0 := by
  simp [described] at h
  exact h.1

theorem described_gap (h : (0x28 ≤ off ∧ off < 0x30) ∨ (0x38 ≤ off ∧ off < 0x40) ∨ (0x70 ≤ off ∧ off < 0x100) ∨
    0x180 ≤ off) : described off = false := by
  refine Bool.eq_false_iff.mpr (fun hd => ?_)
  simp only [described, describedOffsets, Bool.and_eq_true, Bool.or_eq_true, List.contains_iff_mem, List.mem_append,
    List.mem_map, mem_upTo, decide_eq_true_eq] at hd
  obtain ⟨-, (⟨x, hx, rfl⟩ | hlist) | hring⟩ := hd
  · omega
  · simp only [List.mem_cons, List.not_mem_nil, or_false] at hlist
    omega
  · omega

/-- A read of a register that nothing clears or latches leaves the state. -/
theorem State.readRegister_plain (h1 : addr ≠ 0x50) (h2 : addr ≠ 0x5C) (h3 : addr ≠ 0x6C) :
    u.readRegister addr = (BitVec.ofNat 32 (u.peekRegister addr), u) := by
  unfold State.readRegister
  dsimp only
  split
  · rfl
  · split
    · exact absurd rfl h1
    · exact absurd rfl h2
    · exact absurd rfl h3
    · rfl

theorem State.readStatus_done (h : described addr = true) (hd : addr ≠ 0x10C ∨ u.ready = true) :
    u.readStatus addr = stDone := by
  unfold State.readStatus isDoorbell
  rw [h, if_neg (by decide), if_neg (by rcases hd with hd | hd <;> simp [hd])]

theorem State.writeRegister_undescribed (h : described off = false) : u.writeRegister off v = (stBadParam, u) := by
  unfold State.writeRegister
  rw [h]
  rfl

/-! ### Frames that are not whole, or whose registers do not answer -/

theorem State.regWriteBurst_misaligned (ws : List Word) (h : u.boot.held = false) (ho : off % 4 ≠ 0) :
    u.regWriteBurst off ws = u.endFrame stBadParam := by
  unfold State.regWriteBurst
  rw [State.spiRuns_of h, if_neg (by decide), if_pos ho]

theorem State.regReadFrame_misaligned {n : Nat} (h : u.boot.held = false) (ha : addr % 4 ≠ 0) (h1 : 1 ≤ n) :
    u.regReadFrame addr n = (u.modHawk (fun h => { h with miso := List.replicate n 0 })).endFrame stBadParam := by
  have hblank : (wordOffsets addr (frameWords n)).map (fun _ => (0 : Word)) = List.replicate n 0 := by
    unfold wordOffsets
    rw [map_blank, if_neg (by omega)]
  unfold State.regReadFrame
  dsimp only
  rw [State.spiRuns_of h, if_neg (by decide), if_pos ha, hblank]

/-- Before READY the registers behind the boot registers take no write. -/
theorem State.writeRegister_unready (h : u.ready = false)
    (ho : off = 0x34 ∨ off = 0x44 ∨ off = 0x48 ∨ off = 0x4C ∨ off = 0x60 ∨ off = 0x64) :
    u.writeRegister off v = (stDone, u) := by
  have hnot : isDoorbell off = false := by
    rcases ho with rfl | rfl | rfl | rfl | rfl | rfl <;> rfl
  have hdesc : described off = true := by
    rcases ho with rfl | rfl | rfl | rfl | rfl | rfl <;> rfl
  unfold State.writeRegister
  dsimp only
  rw [hdesc, if_neg (by decide), if_neg (by omega), if_neg (by omega), h, if_pos (by decide), hnot]
  rfl

/-! ### The registers of a part that is READY -/

/-- What a register behind the boot registers shows from READY on (Table 11.4). -/
def State.hostRegister (s : State) (off : Nat) : Nat :=
  match off with
  | 0x30 => s.hawk.lastStatus + 256 * s.hawk.frameErr
  | 0x34 => s.hawk.scratch.toNat
  | 0x40 => s.irqStatus
  | 0x44 => s.hawk.irqEnable.toNat
  | 0x48 => b2n s.hawk.openDrain + 65536 * s.hawk.coalUs
  | 0x50 => s.nodeTime % 4294967296
  | 0x54 => s.hawk.timeHi.toNat
  | 0x58 => s.nodeStateNow
  | 0x5C => s.hawk.eventLost
  | 0x60 => s.hawk.poolBase
  | 0x64 => s.hawk.poolSize
  | 0x68 => s.hawk.poolUsed
  | 0x6C => s.hawk.bulkDropped
  | _ => 0

section
variable (h : u.ready = true)
include h

theorem State.writeRegister_scratch : u.writeRegister 0x34 v = (stDone, u.modHawk (fun h => { h with scratch := v })) := by
  unfold State.writeRegister
  rw [if_neg (by decide), if_neg (by decide), if_neg (by decide), h]
  rfl

theorem State.writeRegister_irqEnable :
    u.writeRegister 0x44 v = (stDone, u.modHawk (fun h => { h with irqEnable := v &&& 0xFF })) := by
  unfold State.writeRegister
  rw [if_neg (by decide), if_neg (by decide), if_neg (by decide), h]
  rfl

theorem State.writeRegister_pins : u.writeRegister 0x48 v = (stDone, u.modHawk (fun h => { h with
    openDrain := bit v.toNat 0, coalUs := v.toNat / 65536 })) := by
  unfold State.writeRegister
  rw [if_neg (by decide), if_neg (by decide), if_neg (by decide), h]
  rfl

theorem State.writeRegister_reset : u.writeRegister 0x4C 1 = (stDone, u.runHawkReset) := by
  unfold State.writeRegister
  rw [if_neg (by decide), if_neg (by decide), if_neg (by decide), h]
  rfl

/-- A register of a ring takes its write. -/
theorem State.writeRegister_ring {n o : Nat} (hn : n < 4) (ho : o ≤ 0x14) (h4 : o % 4 = 0) :
    u.writeRegister (0x100 + 32 * n + o) v = u.writeRing n o v.toNat := by
  have hdesc : described (0x100 + 32 * n + o) = true := by
    unfold described
    simp
    omega
  have hplace : (0x100 + 32 * n + o - 0x100) / 32 = n := by omega
  have hoff : (0x100 + 32 * n + o) % 32 = o := by omega
  unfold State.writeRegister
  dsimp only
  rw [hdesc, if_neg (by decide), if_neg (by omega), if_neg (by omega), h, if_neg (by decide), if_pos (by omega), hplace,
    hoff]

theorem State.peekRegister_ready (hd : described off = true) (hlo : ¬off < 0x28) (hhi : ¬0x100 ≤ off) :
    u.peekRegister off = u.hostRegister off := by
  unfold State.peekRegister
  dsimp only
  rw [hd, if_neg (by decide), if_neg hlo, h, if_neg (by simp), if_neg hhi]
  rfl

theorem State.readRegister_time : u.readRegister 0x50 = (BitVec.ofNat 32 u.nodeTime, u.modHawk (fun h => { h with
    timeLo := BitVec.ofNat 32 u.nodeTime, timeHi := BitVec.ofNat 32 (u.nodeTime / 4294967296) })) := by
  have hlow : BitVec.ofNat 32 (u.peekRegister 0x50) = BitVec.ofNat 32 u.nodeTime := by
    rw [State.peekRegister_ready h rfl (by decide) (by decide)]
    have hreg : u.hostRegister 0x50 = u.nodeTime % 4294967296 := rfl
    exact BitVec.eq_of_toNat_eq (by simp [hreg])
  unfold State.readRegister
  dsimp only
  rw [hlow, h]
  rfl

end

theorem State.getRegister_taken {x : State × Nat × List Word} (h : x.1.readStatus off = stDone) :
    State.getRegister x off = ((x.1.readRegister off).2, x.2.1, x.2.2 ++ [(x.1.readRegister off).1]) := if_pos h

/-- A burst of two from HW.NODE_TIME_LO returns both halves of one instant. -/
theorem State.nodeTimeLatch_two (h : u.boot.held = false) (hr : u.ready = true) :
    u.regReadFrame 0x50 2 = (u.modHawk (fun h => { h with
      timeLo := BitVec.ofNat 32 u.nodeTime, timeHi := BitVec.ofNat 32 (u.nodeTime / 4294967296)
      miso := [BitVec.ofNat 32 u.nodeTime, BitVec.ofNat 32 (u.nodeTime / 4294967296)] })).endFrame stDone := by
  have hfirst : State.getRegister (u, stDone, []) 0x50 = (u.modHawk (fun h => { h with
      timeLo := BitVec.ofNat 32 u.nodeTime, timeHi := BitVec.ofNat 32 (u.nodeTime / 4294967296) }), stDone,
        [BitVec.ofNat 32 u.nodeTime]) := by
    rw [State.getRegister_taken (State.readStatus_done rfl (.inl (by decide))), State.readRegister_time hr]
    rfl
  have hsecond (v : State) (ws : List Word) (hv : v.ready = true) :
      State.getRegister (v, stDone, ws) 0x54 = (v, stDone, ws ++ [v.hawk.timeHi]) := by
    have hpeek : v.peekRegister 0x54 = v.hawk.timeHi.toNat :=
      State.peekRegister_ready hv rfl (by decide) (by decide)
    rw [State.getRegister_taken (State.readStatus_done rfl (.inl (by decide))),
      State.readRegister_plain (by decide) (by decide) (by decide), hpeek, BitVec.ofNat_toNat, BitVec.setWidth_eq]
  have hready (g : Hawk → Hawk) : (u.modHawk g).ready = true := hr
  have hfold : (wordOffsets 0x50 (frameWords 2)).foldl State.getRegister (u, stDone, []) =
      State.getRegister (State.getRegister (u, stDone, []) 0x50) 0x54 := rfl
  unfold State.regReadFrame
  dsimp only
  rw [State.spiRuns_of h, if_neg (by decide), if_neg (by decide), hfold, hfirst, hsecond _ _ (hready _)]
  rfl

/-- Settles O49: each frame by what its words do, one after another. -/
theorem spiFramesReachTheRegisters : Obligations.SpiFramesReachTheRegisters := by
  refine ⟨fun s code => rfl, ?cause, ?irq, ?plain, ?pair, ?misaligned, ?refused, ?reset, ?ring, ?time, ?reads, ?ready,
    ?unready, ?counters, fun s dt n => ⟨rfl, rfl⟩, ?reserved, ?cut, ?effect, ?held⟩
  case cause =>
    intro s u dt v hu h
    refine (congrArg (fun w => Host.Outcome.next (State.regWriteFrame w 0x10 v)) hu).trans (congrArg _ ?_)
    exact regWriteFrame_aligned u 0x10 v h rfl
  case irq =>
    intro s u dt v hu h
    have hexec : exec (.irqStatusWrite dt v) s = .next ((u.writeIrqStatus v.toNat).endFrame stDone) := by
      refine (congrArg (fun w => Host.Outcome.next (State.regWriteFrame w 0x40 v)) hu).trans (congrArg _ ?_)
      exact regWriteFrame_aligned u 0x40 v h rfl
    rw [hexec]
    have hready (g : Hawk → Hawk) : (u.modHawk g).ready = u.ready := rfl
    unfold State.writeIrqStatus
    simp only [bit_toNat]
    refine ⟨fun hr => ?_, fun hr => ?_⟩
    · rw [if_neg (by rw [hready, hr]; decide)]
      rfl
    · rw [if_pos (by rw [hready, hr]; rfl)]
  case plain =>
    intro s u dt v hu h hr
    refine ⟨?_, ?_, ?_⟩
    · rw [exec_registerWrite_word hu h rfl, State.writeRegister_scratch hr]
    · rw [exec_registerWrite_word hu h rfl, State.writeRegister_irqEnable hr]
    · rw [exec_registerWrite_word hu h rfl, State.writeRegister_pins hr, bit_toNat]
  case pair =>
    intro s u v dt addr a b x y hu h ha hx hy
    have hfold : ((wordOffsets addr 2).zip [x, y]).foldl State.putRegister (u, stDone) =
        ((v.writeRegister (addr + 4) y).2, firstCode a b) := by
      have hone : State.putRegister (u, stDone) (addr, x) = (v, a) := by
        unfold State.putRegister
        rw [hx]
        rfl
      have htwo : State.putRegister (v, a) (addr + 4, y) = ((v.writeRegister (addr + 4) y).2, firstCode a b) := by
        unfold State.putRegister
        rw [← hy]
      exact (congrArg (fun z => State.putRegister z (addr + 4, y)) hone).trans htwo
    refine (congrArg (fun w => Host.Outcome.next (State.regWriteBurst w addr [x, y])) hu).trans (congrArg _ ?_)
    unfold State.regWriteBurst
    rw [State.spiRuns_of h, if_neg (by decide), if_neg (not_not_intro ha)]
    exact congrArg (fun z : State × Nat => z.1.endFrame z.2) hfold
  case misaligned =>
    intro s u dt off ws hu h ho
    refine (congrArg (fun w => Host.Outcome.next (State.regWriteBurst w off ws)) hu).trans (congrArg _ ?_)
    exact State.regWriteBurst_misaligned ws h ho
  case refused =>
    intro s u dt off v hu h
    refine ⟨fun ho hgap => ?_, fun hr ho => ?_⟩
    · rw [exec_registerWrite_word hu h ho, State.writeRegister_undescribed (described_gap hgap)]
    · rw [exec_registerWrite_word hu h (by omega), State.writeRegister_unready hr ho]
  case reset =>
    intro s u dt hu h hr
    refine (congrArg (fun w => Host.Outcome.next (State.regWriteFrame w 0x4C 1)) hu).trans (congrArg _ ?_)
    rw [regWriteFrame_aligned u 0x4C 1 h rfl, State.writeRegister_reset hr]
  case ring =>
    intro s u dt n v hu h hr hn
    have hoff : 0x110 + 32 * n = 0x100 + 32 * n + 0x10 := by omega
    refine (congrArg (fun w => Host.Outcome.next (State.regWriteFrame w (0x110 + 32 * n) v)) hu).trans (congrArg _ ?_)
    have hwrite : u.writeRing n 0x10 v.toNat = (stDone, u.modRing n (fun r => { r with
        idxErr := r.idxErr && !v.getLsbD 1, cfgErr := r.cfgErr && !v.getLsbD 2 })) := by
      unfold State.writeRing
      rw [bit_toNat, bit_toNat]
      rfl
    rw [regWriteFrame_aligned u _ v h (by omega), hoff, State.writeRegister_ring hr hn (by decide) rfl, hwrite]
  case time =>
    intro s u dt n hu h hr hn
    refine ⟨_, _, rfl, rfl, ?_⟩
    refine (congrArg (fun w => Host.Outcome.next (State.regReadFrame w 0x50 n)) hu).trans (congrArg _ ?_)
    rcases hn with rfl | rfl
    · rw [State.regReadFrame_word h rfl, State.readStatus_done rfl (.inl (by decide)), if_pos rfl,
        State.readRegister_time hr]
      rfl
    · exact State.nodeTimeLatch_two h hr
  case reads =>
    intro s u dt hu h
    have hexec (addr n : Nat) : exec (.nodeTimeLatch dt addr n) s = .next (u.regReadFrame addr n) :=
      congrArg (fun w => Host.Outcome.next (State.regReadFrame w addr n)) hu
    refine ⟨fun addr n ha h1 _ => ?_, fun addr hd ha => ?_, fun addr hd h1 h2 h3 hbell => ?_, fun hr => ?_⟩
    · rw [hexec, State.regReadFrame_misaligned h ha h1]
    · have hst : u.readStatus addr = stBadParam := by
        unfold State.readStatus
        rw [hd]
        rfl
      rw [hexec, State.regReadFrame_word h ha, hst, if_neg (by decide)]
    · rw [hexec, State.regReadFrame_word h (described_aligned hd), State.readStatus_done hd hbell, if_pos rfl,
        State.readRegister_plain h1 h2 h3]
    · have hst : u.readStatus 0x10C = stNotReady := by
        unfold State.readStatus
        rw [hr]
        rfl
      rw [hexec, State.regReadFrame_word h rfl, hst, if_neg (by decide)]
  case ready =>
    intro s hr
    refine ⟨?_, ?_, ?_, ?_, ?_, ?_, ?_, rfl⟩
    all_goals exact State.peekRegister_ready hr rfl (by decide) (by decide)
  case unready =>
    intro s hr
    have hreset (off : Nat) (hd : described off = true) (hlo : ¬off < 0x28) (hirq : off ≠ 0x40) :
        s.peekRegister off = resetRegister off := by
      unfold State.peekRegister
      dsimp only
      rw [hd, if_neg (by decide), if_neg hlo, hr, if_pos (by simp [hirq])]
    refine ⟨hreset _ rfl (by decide) (by decide), hreset _ rfl (by decide) (by decide),
      hreset _ rfl (by decide) (by decide), hreset _ rfl (by decide) (by decide), ?_⟩
    have hirq : s.peekRegister 0x40 = s.irqStatus := by
      unfold State.peekRegister
      dsimp only
      rw [if_neg (by decide), if_neg (by decide), if_neg (by simp), if_neg (by decide)]
      rfl
    rw [hirq]
    unfold State.irqStatus
    dsimp only
    rw [hr]
    rfl
  case counters =>
    intro s u dt hu h hr
    have hexec (addr : Nat) : exec (.nodeTimeLatch dt addr 1) s = .next (u.regReadFrame addr 1) :=
      congrArg (fun w => Host.Outcome.next (State.regReadFrame w addr 1)) hu
    have hlost : u.readRegister 0x5C = (BitVec.ofNat 32 u.hawk.eventLost,
        u.modHawk (fun h => { h with eventLost := 0 })) := by
      unfold State.readRegister
      rw [State.peekRegister_ready hr rfl (by decide) (by decide), hr]
      rfl
    have hdropped : u.readRegister 0x6C = (BitVec.ofNat 32 u.hawk.bulkDropped,
        u.modHawk (fun h => { h with bulkDropped := 0 })) := by
      unfold State.readRegister
      rw [State.peekRegister_ready hr rfl (by decide) (by decide), hr]
      rfl
    refine ⟨(hexec 0x5C).trans (congrArg _ ?_), (hexec 0x6C).trans (congrArg _ ?_)⟩
    · rw [State.regReadFrame_word h rfl, State.readStatus_done rfl (.inl (by decide)), if_pos rfl, hlost]
      rfl
    · rw [State.regReadFrame_word h rfl, State.readStatus_done rfl (.inl (by decide)), if_pos rfl, hdropped]
      rfl
  case reserved =>
    intro s u dt code hu h hcode
    rw [exec_spiReservedFrame]
    unfold execSpiReservedFrame
    dsimp only
    rw [hu, State.spiRuns_of h, if_neg (by simp; omega)]
  case cut =>
    intro s u dt cut hu h
    rw [exec_spiFrameCut]
    unfold execSpiFrameCut
    dsimp only
    rw [hu, State.spiRuns_of h]
    rfl
  case effect =>
    intro s addr n ws
    refine ⟨rfl, rfl, fun ha => ⟨if_pos ha, ?_⟩, fun ha w => ?_, fun hr => ?_⟩
    · exact if_pos (by simp [ha])
    · exact (if_neg (not_not_intro ha)).trans rfl
    · exact if_pos (by simp [hr])
  case held =>
    intro s u dt v ws addr n hu h
    have hspi : u.spiRuns = false := by
      unfold State.spiRuns
      rw [h]
      rfl
    have hwrite (a : Nat) (l : List Word) : u.regWriteBurst a l = u := by
      unfold State.regWriteBurst
      rw [hspi]
      rfl
    have hread : u.regReadFrame addr n = u := by
      unfold State.regReadFrame
      dsimp only
      rw [hspi]
      rfl
    refine ⟨?_, ?_, ?_⟩
    · exact (congrArg (fun w => Host.Outcome.next (State.regWriteBurst w addr ws)) hu).trans (congrArg _ (hwrite _ _))
    · exact (congrArg (fun w => Host.Outcome.next (State.regReadFrame w addr n)) hu).trans (congrArg _ hread)
    · exact (congrArg (fun w => Host.Outcome.next (State.regWriteFrame w 0x10 v)) hu).trans (congrArg _ (hwrite _ _))

end Sys2Proof.Machine
end

section
/-! PROOFS. The rings and the commands that they carry (R286 to R290, R294, R296, R301, R303, R304, R307, R309). -/

namespace Sys2Proof.Machine

variable {s u : State} {dt : Ticks} {v : Word}

/-! ### Doorbells and heads (R288) -/

/-- A frame of one word for a register of a ring. -/
theorem State.regWriteFrame_ring {n o : Nat} (h : u.boot.held = false) (hr : u.ready = true) (hn : n < 4) (ho : o ≤ 0x14)
    (h4 : o % 4 = 0) : u.regWriteFrame (0x100 + 32 * n + o) v =
      (u.writeRing n o v.toNat).2.endFrame (u.writeRing n o v.toNat).1 := by
  rw [regWriteFrame_aligned u _ v h (by omega), State.writeRegister_ring hr hn ho h4]

theorem State.writeTail_works (hw : (u.ring 0).works = true) : u.writeTail v.toNat =
    if ((v.setWidth 16) - (u.ring 0).tail).toNat ≤ (u.ring 0).size - (u.ring 0).count
    then (stDone, u.modRing 0 (fun r => { r with tail := v.setWidth 16 }))
    else (stBadParam, u.ringError 0 (fun r => { r with idxErr := true })) := by
  unfold State.writeTail
  dsimp only
  rw [hw, if_neg (by decide), BitVec.ofNat_toNat]
  exact ite_swap Nat.not_le.symm rfl

theorem State.writeTail_off (hw : (u.ring 0).works = false) (n : Nat) : u.writeTail n = (stDone, u) := by
  unfold State.writeTail
  dsimp only
  rw [hw, if_pos (by decide)]

/-! ### Escapes (R304) -/

theorem rilfyEscape_cons (b : BitVec 8) (c : Bytes) : rilfyEscape (b :: c) =
    (if b = 0x7E#8 ∨ b = 0x7D#8 then [0x7D#8, b ^^^ 0x20#8] else [b]) ++ rilfyEscape c := rfl

/-- What is escaped holds no delimiter. -/
theorem not_mem_rilfyEscape (c : Bytes) : 0x7E#8 ∉ rilfyEscape c := by
  induction c with
  | nil => exact List.not_mem_nil
  | cons b c ih =>
    rw [rilfyEscape_cons, List.mem_append]
    refine not_or.mpr ⟨?_, ih⟩
    split
    · next h => rcases h with rfl | rfl <;> decide
    · next h => simpa using fun hb => h (.inl hb.symm)

theorem rilfyUnescape_plain {b : BitVec 8} {l : Bytes} (h : b ≠ 0x7D#8) :
    rilfyUnescape (b :: l) = (rilfyUnescape l).map (fun r => b :: r) := by
  cases l with
  | nil => simp [rilfyUnescape, h]
  | cons c l => rw [rilfyUnescape, if_neg h]

theorem rilfyUnescape_escape (c : Bytes) : rilfyUnescape (rilfyEscape c) = some c := by
  induction c with
  | nil => rfl
  | cons b c ih =>
    rw [rilfyEscape_cons]
    split
    · have hback : (b ^^^ 0x20#8) ^^^ 0x20#8 = b := by
        rw [BitVec.xor_assoc, BitVec.xor_self, BitVec.xor_zero]
      rw [List.cons_append, List.cons_append, List.nil_append, rilfyUnescape, if_pos rfl, ih, hback]
      rfl
    · next h =>
      rw [List.cons_append, List.nil_append, rilfyUnescape_plain (fun hb => h (.inr hb)), ih]
      rfl

theorem rilfyInside_frame (kind : Nat) (entry d : Bytes) :
    rilfyInside (rilfyFrame kind entry d) = some (rilfyEscape (rilfyContent kind entry d)) := by
  have hnot := not_mem_rilfyEscape (rilfyContent kind entry d)
  unfold rilfyFrame
  generalize rilfyEscape (rilfyContent kind entry d) = x at hnot ⊢
  have hlast : (0x7E#8 :: (x ++ [0x7E#8])).getLast? = some 0x7E#8 :=
    List.getLast?_concat (l := 0x7E#8 :: x)
  unfold rilfyInside
  simp [hnot, hlast]

/-! ### The content of a Rilfy frame -/

theorem crc32_lt (b : Bytes) : crc32 b < 256 ^ 4 := by
  unfold crc32
  exact BitVec.isLt _

section
variable {entry d : Bytes} (he : entry.length = 64) (hd : d.length ≤ 4096)
include he

theorem length_rilfyContent : (rilfyContent 1 entry d).length = 70 + d.length := by
  unfold rilfyContent
  dsimp only
  rw [List.length_append, List.length_append, List.length_append, length_leBytes, he]
  simp
  omega

/-- The parts of a frame's content. -/
theorem rilfyContent_parts : slice (rilfyContent 1 entry d) 2 64 = entry ∧
    slice (rilfyContent 1 entry d) 66 ((rilfyContent 1 entry d).length - 70) = d ∧
    field (rilfyContent 1 entry d) 1 1 = 1 ∧ field (rilfyContent 1 entry d) 4 2 = field entry 2 2 := by
  have hlen : (rilfyContent 1 entry d).length - 70 = d.length := by rw [length_rilfyContent he]; omega
  rw [hlen]
  unfold rilfyContent
  dsimp only
  generalize leBytes 4 (crc32 ([0x01#8, byte 1] ++ entry ++ d)) = crc
  refine ⟨?_, ?_, rfl, ?_⟩
  · have hs := slice_append_middle [0x01#8, byte 1] entry (d ++ crc)
    rw [he] at hs
    rw [List.append_assoc ([0x01#8, byte 1] ++ entry) d crc]
    exact hs
  · have hs := slice_append_middle ([0x01#8, byte 1] ++ entry) d crc
    rw [List.length_append, he] at hs
    exact hs
  · rw [field_append_left _ _ _ _ (by simp [he]; omega), field_append_left _ _ _ _ (by simp [he]),
      field_append_right _ 2 (by decide)]
    rfl

include hd in
theorem rilfyOk_content : rilfyOk (rilfyContent 1 entry d) = true := by
  have hlen := length_rilfyContent (d := d) he
  obtain ⟨-, -, hkind, -⟩ := rilfyContent_parts (d := d) he
  have hversion : field (rilfyContent 1 entry d) 0 1 = 1 := rfl
  have hcrc : leNat ((rilfyContent 1 entry d).drop ((rilfyContent 1 entry d).length - 4)) =
      crc32 ((rilfyContent 1 entry d).take ((rilfyContent 1 entry d).length - 4)) := by
    have hbody : ([0x01#8, byte 1] ++ entry ++ d).length = (rilfyContent 1 entry d).length - 4 := by
      rw [hlen]
      simp [he]
      omega
    unfold rilfyContent at hbody ⊢
    dsimp only at hbody ⊢
    rw [List.drop_left' hbody, List.take_left' hbody, leNat_leBytes 4 _ (crc32_lt _)]
  unfold rilfyOk
  rw [hlen] at hcrc ⊢
  rw [hkind, hversion, hcrc]
  simp
  omega

end

/-- A whole frame with a command waits for its turn. -/
theorem State.takeRilfy_command (port : Origin) {entry d : Bytes} (he : entry.length = 64) (hd : d.length ≤ 4096)
    (hwhole : d.length = if (Entry.ofBytes entry).bulk then (Entry.ofBytes entry).length else 0) :
    u.takeRilfy port (some (rilfyContent 1 entry d)) =
      (if port = .optical then u.modPorts (fun p => { p with optAt := u.mono }) else u).modHawk (fun h => { h with
        waiting := h.waiting ++ [⟨⟨port, field entry 2 2⟩, entry, d, 0⟩] }) := by
  obtain ⟨hentry, hdata, hkind, htag⟩ := rilfyContent_parts (d := d) he
  have hw : rilfyWhole (rilfyContent 1 entry d) = true := by
    have hlen : (rilfyContent 1 entry d).length - 70 = d.length := by rw [length_rilfyContent he]; omega
    unfold rilfyWhole
    dsimp only
    rw [hentry, hlen, hwhole]
    exact beq_self_eq_true _
  unfold State.takeRilfy
  dsimp only
  rw [rilfyOk_content he hd, hw, if_neg (by decide), hkind, if_neg (by decide), hentry, hdata, htag]

/-! ### Commands in turn (R307) -/

/-- The first of a list that has a property. -/
theorem State.nextRoute_first (s : State) (failing : Bool) (k : Nat) (h : s.nextRoute failing = some k) :
    k < 4 ∧ s.routeReady failing k = true ∧
      ∀ j < (k + 4 - s.hawk.turn % 4) % 4, s.routeReady failing ((s.hawk.turn + j) % 4) = false := by
  unfold State.nextRoute at h
  obtain ⟨hready, i, hi, hik, hbefore⟩ := List.find?_eq_some_iff_getElem.mp h
  have hi4 : i < 4 := by simpa [upTo] using hi
  have hk : (s.hawk.turn + i) % 4 = k := by simpa [upTo] using hik
  refine ⟨by omega, hready, fun j hj => ?_⟩
  have hnot := hbefore j (by omega)
  simpa [upTo] using hnot

theorem State.avail_iff (s : State) (n : Nat) : s.avail n = true ↔ 0 < (s.ring n).count ∧
    ((s.ring n).thresh ≤ (s.ring n).count ∨
      ∃ t rest, (s.ring n).posted = t :: rest ∧ t + s.hawk.coalUs * 1000 ≤ s.mono) := by
  have hmicro (t : Nat) : s.since t (s.hawk.coalUs * micro) = true ↔ t + s.hawk.coalUs * 1000 ≤ s.mono := State.since_iff
  unfold State.avail
  dsimp only
  cases hp : (s.ring n).posted with
  | nil => simp
  | cons t rest => simp [hmicro]

/-- Settles O50: the indices by what a write of them does, the commands by whose turn it is. -/
theorem ringsFollowTheirIndices : Obligations.RingsFollowTheirIndices := by
  refine ⟨?doorbell, ?closed, ?head, ?enable, ?disable, fun s u dt n hu => congrArg _ hu, fun s n => s.avail_iff n, ?take,
    fun s failing k h => s.nextRoute_first failing k h, ?host, ?waiting, ?rilfy, ?broken, ?shut⟩
  case doorbell =>
    intro s u dt v hu h hr hw
    refine (congrArg (fun w => Host.Outcome.next (State.regWriteFrame w 0x10C v)) hu).trans (congrArg _ ?_)
    have hring : u.writeRing 0 0x0C v.toNat = u.writeTail v.toNat := rfl
    refine (State.regWriteFrame_ring (n := 0) (o := 0x0C) h hr (by decide) (by decide) rfl).trans ?_
    rw [hring, State.writeTail_works hw]
    split <;> rfl
  case closed =>
    intro s u dt v hu h
    have hexec : exec (.commandDoorbell dt v) s = .next (u.regWriteFrame 0x10C v) :=
      congrArg (fun w => Host.Outcome.next (State.regWriteFrame w 0x10C v)) hu
    rw [hexec]
    refine ⟨fun hr => congrArg _ ?_, fun hr hw => congrArg _ ?_⟩
    · have hwrite : u.writeRegister 0x10C v = (stNotReady, u) := by
        unfold State.writeRegister
        rw [if_neg (by decide), if_neg (by decide), if_neg (by decide), hr]
        rfl
      rw [regWriteFrame_aligned u _ v h rfl, hwrite]
    · have hring : u.writeRing 0 0x0C v.toNat = u.writeTail v.toNat := rfl
      refine (State.regWriteFrame_ring (n := 0) (o := 0x0C) h hr (by decide) (by decide) rfl).trans ?_
      rw [hring, State.writeTail_off hw]
  case head =>
    intro s u w dt n d v hu h hr h1 h4 hd hw
    have hring : u.writeRing n 0x08 v.toNat = u.writeHead n v.toNat := if_neg (by omega)
    have hoff : 0x108 + 32 * n = 0x100 + 32 * n + 0x08 := by omega
    have hexec : exec (.ringHeadWrite dt n v) s =
        .next ((u.writeHead n v.toNat).2.endFrame (u.writeHead n v.toNat).1) := by
      refine (congrArg (fun w => Host.Outcome.next (State.regWriteFrame w (0x108 + 32 * n) v)) hu).trans (congrArg _ ?_)
      rw [hoff, State.regWriteFrame_ring h hr h4 (by decide) rfl, hring]
    rw [hexec]
    unfold State.writeHead
    dsimp only
    rw [BitVec.ofNat_toNat, ← hd]
    refine ⟨fun hworks => ?_, fun hworks hover => ?_, fun hworks hin => ?_⟩
    · rw [hworks, if_pos (by decide)]
    · rw [hworks, if_neg (by decide), if_pos hover]
    · rw [hworks, if_neg (by decide), if_neg (Nat.not_lt_of_le hin), ← hw]
  case enable =>
    intro s u w dt n v hu h hr hn hoff hon
    have hexec : exec (.ringEnable dt n v) s = .next ((u.writeRingCfg n v.toNat).endFrame stDone) := by
      refine (congrArg (fun w => Host.Outcome.next (State.regWriteFrame w (0x104 + 32 * n) v)) hu).trans (congrArg _ ?_)
      have ho : 0x104 + 32 * n = 0x100 + 32 * n + 0x04 := by omega
      rw [ho, State.regWriteFrame_ring h hr hn (by decide) rfl]
      rfl
    rw [hexec]
    unfold State.writeRingCfg
    dsimp only
    rw [hoff, if_neg (by decide), bit_toNat, hon]
    refine ⟨fun hsize => ?_, fun hlo hhi hw => ⟨fun hplace => ?_, fun x hplace hx => ?_⟩⟩
    · rw [if_pos hsize]
    · rw [if_neg (by omega), ← hw, if_pos rfl]
      unfold State.enableRing
      rw [hplace, if_pos (by decide)]
    · rw [if_neg (by omega), ← hw, if_pos rfl]
      unfold State.enableRing
      rw [hplace, if_neg (by decide), ← hx]
  case disable =>
    intro s u dt n v hu h hr hn hon hoff
    refine (congrArg (fun w => Host.Outcome.next (State.regWriteFrame w (0x104 + 32 * n) v)) hu).trans (congrArg _ ?_)
    have ho : 0x104 + 32 * n = 0x100 + 32 * n + 0x04 := by omega
    rw [ho, State.regWriteFrame_ring h hr hn (by decide) rfl]
    have hcfg : u.writeRingCfg n v.toNat = u.disableRing n := by
      unfold State.writeRingCfg
      dsimp only
      rw [hon, if_pos rfl, bit_toNat, hoff, if_neg (by decide)]
    exact congrArg (fun w => State.endFrame w stDone) hcfg
  case take =>
    intro s u dt failing hu
    rw [exec_commandTake]
    unfold execCommandTake
    dsimp only
    rw [hu]
    refine ⟨fun h => ?_, fun h => ?_, fun k w h1 h hw => ?_⟩
    · rw [h]
    · rw [h]
      rfl
    · have hnext : (u.modHawk (fun h => { h with turn := (k + 1) % 4 })).nextWaiting (routeOf k) = some w := hw
      rw [h]
      dsimp only
      rw [if_neg (by omega), hnext]
  case host =>
    intro s b e hb he
    have hentry : s.entryAt 0 (s.ring 0).head = b := hb.symm
    refine ⟨fun hpass hbulk => ?_, ?_⟩
    · have hnext : s.nextEntry false = ((s.ring 0).addr (s.ring 0).head, false, e) := by
        unfold State.nextEntry
        dsimp only
        rw [hpass, hentry, ← he]
        rfl
      unfold State.takeHost
      rw [hnext]
      dsimp only
      rw [if_neg (by decide), hbulk]
      rfl
    · unfold State.takeHost State.nextEntry
      rfl
  case waiting =>
    intro s w e he
    subst he
    rfl
  case rilfy =>
    intro s u v dt port entry d hu hopen he hd hwhole hv
    rw [exec_rilfyFrameReceive]
    unfold execRilfyFrameReceive
    dsimp only
    rw [hu, hopen, if_neg (by decide), rilfyInside_frame]
    dsimp only
    rw [rilfyUnescape_escape, State.takeRilfy_command port he hd hwhole, ← hv]
  case broken =>
    intro s u dt port f x c hu hopen hinside hcontent hbad
    rw [exec_rilfyFrameReceive]
    unfold execRilfyFrameReceive
    dsimp only
    rw [hu, hopen, if_neg (by decide), hinside]
    dsimp only
    rw [hcontent]
    unfold State.takeRilfy
    dsimp only
    rw [hbad]
    rfl
  case shut =>
    intro s u dt port f hu h
    rw [exec_rilfyFrameReceive]
    unfold execRilfyFrameReceive
    dsimp only
    rw [hu]
    rcases h with h | h
    · rw [h]
      rfl
    · rw [h]
      exact congrArg _ (ite_self _)

end Sys2Proof.Machine
end

section
/-! PROOFS. The touch pads, VBAT, the USB service port and the optical head (R451, R455, R457 to R461). -/

namespace Sys2Proof.Machine

variable {s u : State} {dt : Ticks}

/-! ### Touch pads (R451) -/

/-- A scan of pads 0 to 7 takes each one that is named once, and leaves the others. -/
theorem foldl_scanPad (raws : List Nat) (l : List Nat) (hl : l.Nodup) (s : State) (h8 : ∀ k ∈ l, k < 8)
    (hlen : s.ports.pads.length = 8) : ∃ t, l.foldl (fun s k => s.scanPad k (raws.getD k 0)) s = t ∧
      t = { s with ports := { s.ports with
        pads := t.ports.pads, pressed := t.ports.pressed, released := t.ports.released, recal := t.ports.recal } } ∧
      ∀ k, t.ports.pads.getD k Pad.reset = if k ∈ l
        then ((s.ports.pads.getD k Pad.reset).scan (raws.getD k 0) (s.pnum 0x6001) (s.pnum 0x6002 * second) s.mono).1
        else s.ports.pads.getD k Pad.reset := by
  induction l generalizing s with
  | nil => exact ⟨s, rfl, rfl, fun k => (if_neg (by simp)).symm⟩
  | cons j l ih =>
    obtain ⟨hj, hl⟩ := List.nodup_cons.mp hl
    have hj8 := h8 j List.mem_cons_self
    have hpads : (s.scanPad j (raws.getD j 0)).ports.pads = s.ports.pads.set j
        ((s.ports.pads.getD j Pad.reset).scan (raws.getD j 0) (s.pnum 0x6001) (s.pnum 0x6002 * second) s.mono).1 := rfl
    obtain ⟨t, hfold, hframe, hscan⟩ := ih hl (s.scanPad j (raws.getD j 0))
      (fun k hk => h8 k (List.mem_cons_of_mem _ hk)) (by rw [hpads, List.length_set, hlen])
    refine ⟨t, hfold, ?_, fun k => ?_⟩
    · rw [hframe]
      rfl
    · have hp (id : Nat) : (s.scanPad j (raws.getD j 0)).pnum id = s.pnum id := rfl
      have hm : (s.scanPad j (raws.getD j 0)).mono = s.mono := rfl
      rw [hscan k, hp, hp, hm, hpads]
      by_cases hk : k = j
      · subst hk
        rw [if_neg hj, if_pos List.mem_cons_self]
        simp [List.getD_eq_getElem?_getD, hlen, hj8]
      · have hget : (s.ports.pads.set j ((s.ports.pads.getD j Pad.reset).scan (raws.getD j 0) (s.pnum 0x6001)
            (s.pnum 0x6002 * second) s.mono).1).getD k Pad.reset = s.ports.pads.getD k Pad.reset := by
          simp [List.getD_eq_getElem?_getD, List.getElem?_set_ne (Ne.symm hk)]
        rw [hget]
        exact if_congr (by simp [hk]) rfl rfl

theorem exec_touchScan_ready (hu : s.elapse dt = u) (hr : u.ready = true) (raws : List Nat) :
    exec (.touchScan dt raws) s = .next ((((upTo 8).filter (bit (u.pnum 0x6000))).foldl
      (fun s k => s.scanPad k (raws.getD k 0)) u).modPorts (fun p => { p with scanSeq := p.scanSeq + 1 })) := by
  rw [exec_touchScan]
  unfold execTouchScan
  dsimp only
  rw [hu, hr]
  rfl

/-- One bit names one pad. -/
theorem filter_bit_pow {k : Nat} (hk : k < 8) : (upTo 8).filter (bit (2 ^ k)) = [k] := by
  interval_cases k <;> rfl

/-! ### A pad's scan -/

theorem Pad.scan_start {p : Pad} {raw thresh maxOn now : Nat} (h : p.scans < 8) : p.scan raw thresh maxOn now =
    ({ p with raw := raw, scans := p.scans + 1, baseline := p.baseline + (raw : Rat) / 8 }, .none_) := if_pos h

section
variable {p : Pad} {raw thresh maxOn now : Nat} {delta : Rat} (h8 : 8 ≤ p.scans) (hb : 0 < p.baseline)
  (hd : delta = ((raw : Rat) - p.baseline) / p.baseline * 1000)
include hb hd

/-- The excess over the baseline, as a part of it. -/
theorem Pad.excess_eq : ((raw : Rat) - p.baseline) * 1000 = delta * p.baseline := by
  rw [hd]
  field_simp

include h8

/-- A scan of a pad whose baseline stands, by how far the raw value is from it. -/
theorem Pad.scan_eq : p.scan raw thresh maxOn now =
    let base := if delta < -thresh then (raw : Rat) else p.baseline
    if p.touched then
      if p.since + maxOn ≤ now then ({ p with raw := raw, baseline := raw, touched := false, above := 0, below := 0 }, .recal)
      else if delta * 4 < thresh * 3 then
        if 1 ≤ p.below then
          ({ p with raw := raw, baseline := base, touched := false, above := 0, below := 0 }, .released)
        else ({ p with raw := raw, baseline := base, below := p.below + 1 }, .none_)
      else ({ p with raw := raw, baseline := base, below := 0 }, .none_)
    else if thresh ≤ delta then
      if 1 ≤ p.above then
        ({ p with raw := raw, baseline := base, touched := true, above := 0, below := 0, since := now }, .pressed)
      else ({ p with raw := raw, baseline := base, above := p.above + 1 }, .none_)
    else
      ({ p with raw := raw, above := 0, baseline :=
          if delta * 2 < thresh ∧ -thresh < delta * 2 ∧ ¬delta < -thresh then p.baseline + ((raw : Rat) - p.baseline) / 64
          else base }, .none_) := by
  have hcancel (a c : Rat) : delta * p.baseline * a < thresh * p.baseline * c ↔ delta * a < thresh * c := by
    rw [mul_right_comm, mul_right_comm (thresh : Rat)]
    exact mul_lt_mul_iff_left₀ hb
  have hreach : (thresh : Rat) * p.baseline ≤ delta * p.baseline ↔ thresh ≤ delta := mul_le_mul_iff_left₀ hb
  have hlow : delta * p.baseline < -((thresh : Rat) * p.baseline) ↔ delta < -thresh := by
    rw [← neg_mul]
    exact mul_lt_mul_iff_left₀ hb
  have hnear : delta * p.baseline * 2 < (thresh : Rat) * p.baseline ↔ delta * 2 < thresh := by
    simpa using hcancel 2 1
  have hfar : -((thresh : Rat) * p.baseline) < delta * p.baseline * 2 ↔ -thresh < delta * 2 := by
    rw [← neg_mul, mul_right_comm]
    exact mul_lt_mul_iff_left₀ hb
  unfold Pad.scan Pad.track
  dsimp only
  rw [if_neg (Nat.not_lt_of_le h8), Pad.excess_eq hb hd]
  by_cases hl : delta < -thresh
  · simp [hlow, hcancel, hreach, hnear, hfar, hl]
  · simp [hlow, hcancel, hreach, hnear, hfar, hl]

end

/-! ### The service session and the messages of the optical head -/

theorem exec_vbatMeasure_runs (hu : s.elapse dt = u) (hlegal : u.legalRuns = true) (hpower : u.aon.mainPower = true)
    (mv : Nat) : exec (.vbatMeasure dt mv) s = .next (
      let good := if 2450 ≤ mv then min 2 (u.ports.vbatGood + 1) else 0
      let low := if mv < 2400 then true else u.ports.vbatLow && good < 2
      let v := u.modPorts (fun p => { p with vbat := mv, vbatGood := good, vbatLow := low })
      if low && !u.ports.vbatLow then v.postFault 0x0013 else v) := by
  rw [exec_vbatMeasure]
  unfold execVbatMeasure
  dsimp only
  rw [hu, hlegal, hpower]
  rfl

/-- What a session that starts leaves behind. -/
def State.sessionMarks (s : State) :=
  (s.ports.usbSession, s.ports.vbus, s.ports.servicePending, s.legal)

theorem State.startSession_marks (hvbus : u.ports.vbus = true) (hidle : u.ports.usbSession = false)
    (hclock : u.boot.mainClockFault = false) (hstage : u.boot.stage = 7 ∨ u.boot.stage = 8) :
    u.startSession.sessionMarks = (true, true, none, u.legal) := by
  unfold State.startSession
  rw [if_neg (by rcases hstage with h | h <;> simp [hvbus, hidle, hclock, h])]
  extract_lets v w x
  have hx : x.sessionMarks = (true, true, u.ports.servicePending, u.legal) := by
    unfold x State.sessionMarks
    rw [postEvent_frame]
    exact congrArg (fun b => (true, b, u.ports.servicePending, u.legal)) hvbus
  clear_value x
  clear_value w
  have hpending : x.ports.servicePending = u.ports.servicePending := congrArg (fun m => m.2.2.1) hx
  cases hp : x.ports.servicePending with
  | none => exact hx.trans (by rw [← hpending, hp])
  | some p =>
    obtain ⟨e, at_⟩ := p
    have hdone : (x.modPorts (fun p => { p with servicePending := none })).sessionMarks = (true, true, none, u.legal) :=
      congrArg (fun m : Bool × Bool × Option (Bytes × Nat) × Legal => (m.1, m.2.1, none, m.2.2.2)) hx
    dsimp only
    split
    · exact hdone
    · exact hdone

/-- The session's start, where no response waits for it. -/
theorem State.startSession_none (hvbus : u.ports.vbus = true) (hidle : u.ports.usbSession = false)
    (hclock : u.boot.mainClockFault = false) (hstage : u.boot.stage = 7 ∨ u.boot.stage = 8)
    (hnone : u.ports.servicePending = none) : u.startSession =
      ((u.bringIntoForce (fun id => id == 0x6010 || id == 0x6011)).modPorts
        (fun p => { p with usbSession := true })).postEvent 0x0181 [1, 1] := by
  unfold State.startSession
  rw [if_neg (by rcases hstage with h | h <;> simp [hvbus, hidle, hclock, h])]
  extract_lets v w x
  have hx : x.ports.servicePending = none := by
    unfold x
    rw [postEvent_frame]
    exact hnone
  rw [hx]

theorem State.startSession_refused (h : u.ports.usbSession = true ∨ u.boot.mainClockFault = true ∨
    (u.boot.stage ≠ 7 ∧ u.boot.stage ≠ 8)) : u.startSession = u := by
  unfold State.startSession
  refine if_pos ?_
  rcases h with h | h | ⟨h7, h8⟩
  · simp [h]
  · simp [h]
  · simp [h7, h8]

theorem signOnAddress_some (a : Bytes) : signOnAddress ([0x2F, 0x3F] ++ a ++ [0x21, 0x0D, 0x0A]) = some a := by
  have hlen : ([0x2F, 0x3F] ++ a ++ [0x21, 0x0D, 0x0A] : Bytes).length = a.length + 5 := by simp
  have hend : ([0x2F, 0x3F] ++ a ++ [0x21, 0x0D, 0x0A] : Bytes).drop (a.length + 2) = [0x21, 0x0D, 0x0A] :=
    List.drop_left' (by simp)
  unfold signOnAddress
  rw [hlen, show a.length + 5 - 3 = a.length + 2 by omega, hend, if_pos ⟨rfl, rfl, by omega⟩]
  simp

theorem signOnAddress_none {msg : Bytes} (h : ∀ a, msg ≠ [0x2F, 0x3F] ++ a ++ [0x21, 0x0D, 0x0A]) :
    signOnAddress msg = none := by
  unfold signOnAddress
  refine if_neg fun ⟨hhead, hend, hlen⟩ => h ((msg.drop 2).take (msg.length - 5)) ?_
  have htail : (msg.drop 2).drop (msg.length - 5) = [0x21, 0x0D, 0x0A] := by
    rw [List.drop_drop, show 2 + (msg.length - 5) = msg.length - 3 by omega, hend]
    rfl
  rw [← htail, List.append_assoc, List.take_append_drop, show ([0x2F, 0x3F] : Bytes) = msg.take 2 from hhead.symm,
    List.take_append_drop]

theorem optionOf_some {z y : Byte} (hlo : 0x30 ≤ z.toNat) (hhi : z.toNat ≤ 0x35) :
    optionOf [0x06, 0x30, z, y, 0x0D, 0x0A] = some (z.toNat - 0x30, y.toNat) := by
  unfold optionOf
  dsimp only
  rw [if_pos ⟨rfl, rfl, rfl, rfl, hlo, hhi⟩]

theorem optionOf_eq_some {msg : Bytes} {x : Nat × Nat} (h : optionOf msg = some x) :
    ∃ z y : Byte, msg = [0x06, 0x30, z, y, 0x0D, 0x0A] ∧ 0x30 ≤ z.toNat ∧ z.toNat ≤ 0x35 ∧
      x = (z.toNat - 0x30, y.toNat) := by
  unfold optionOf at h
  split at h
  · next a v z y c l =>
    split at h
    · next hform =>
      obtain ⟨rfl, rfl, rfl, rfl, hlo, hhi⟩ := hform
      exact ⟨z, y, rfl, hlo, hhi, (Option.some.inj h).symm⟩
    · exact absurd h (by simp)
  · exact absurd h (by simp)

section
variable (hu : s.elapse dt = u) (hlistens : u.optListens = true)
include hu hlistens

/-- A sign-on in idle, by its address. -/
theorem exec_optSignOn_idle (hidle : u.ports.optState = 0) {msg a : Bytes} (ha : signOnAddress msg = some a) :
    exec (.optSignOn dt msg) s = .next (if a = [] ∨ a = hexText 16 nodeId
      then (u.emit (.optical u.identification)).modPorts (fun p => { p with optState := 1, optAt := u.mono + identEnd })
      else u) := by
  rw [exec_optSignOn]
  unfold execOptSignOn
  dsimp only
  rw [hu, if_neg (by simp [hlistens, hidle]), if_neg (by simp [hidle]), ha]

/-- An option select message in its time. -/
theorem exec_optOptionSelect_open (hstate : u.ports.optState = 1) (hopen : u.since u.ports.optAt 1500000000 = false)
    (msg : Bytes) : exec (.optOptionSelect dt msg) s = .next (
      match optionOf msg with
      | none => u.opticalDeparts
      | some (z, y) =>
        if y = 0x30 then
          u.modPorts (fun p => { p with optState := 2, optRate := z, optAt := u.mono, optOut := u.readout })
        else if y = 0x32 ∧ z = 5 ∧ bit (u.pnum 0x6020) 1 = true then
          (u.modPorts (fun p => { p with optState := 3, optRate := 5, optAt := u.mono })).postEvent 0x0181 [2, 1]
        else u.opticalDeparts) := by
  have hsince : u.since u.ports.optAt (1500 * milli) = false := hopen
  rw [exec_optOptionSelect]
  unfold execOptOptionSelect
  dsimp only
  rw [hu, if_neg (by simp [hlistens, hstate]), if_neg (by simp [hsince, hstate])] <;> cases optionOf msg <;> rfl

/-- An option select message in idle, or too late. -/
theorem exec_optOptionSelect_late (hstate : u.ports.optState < 2)
    (hlate : u.ports.optState = 0 ∨ u.since u.ports.optAt 1500000000 = true) (msg : Bytes) :
    exec (.optOptionSelect dt msg) s = .next u.opticalDeparts := by
  have hsince : u.ports.optState = 0 ∨ u.since u.ports.optAt (1500 * milli) = true := hlate
  rw [exec_optOptionSelect]
  unfold execOptOptionSelect
  dsimp only
  rw [hu, if_neg (by simpa [hlistens] using hstate), if_pos (by simpa using hsince)]

end

/-- A message that is no option that Table 16.2 serves leads to idle. -/
theorem option_departs {msg : Bytes}
    (h : ∀ z y : Byte, msg = [0x06, 0x30, z, y, 0x0D, 0x0A] → z.toNat < 0x30 ∨ 0x35 < z.toNat ∨
      (y ≠ 0x30 ∧ (y ≠ 0x32 ∨ z ≠ 0x35 ∨ bit (u.pnum 0x6020) 1 = false))) (a : Nat → State) (b : State) :
    (match optionOf msg with
      | none => u.opticalDeparts
      | some (z, y) => if y = 0x30 then a z else if y = 0x32 ∧ z = 5 ∧ bit (u.pnum 0x6020) 1 = true then b
        else u.opticalDeparts) = u.opticalDeparts := by
  cases hopt : optionOf msg with
  | none => rfl
  | some x =>
    obtain ⟨z, y, hmsg, hlo, hhi, rfl⟩ := optionOf_eq_some hopt
    obtain hz | hz | ⟨hy, hsession⟩ := h z y hmsg
    · omega
    · omega
    · have hlist : ¬ y.toNat = 0x30 := fun e => hy (BitVec.eq_of_toNat_eq e)
      have hrilfy : ¬ (y.toNat = 0x32 ∧ z.toNat - 0x30 = 5 ∧ bit (u.pnum 0x6020) 1 = true) := by
        rintro ⟨hy2, hz5, hbit⟩
        obtain h2 | h5 | hoff := hsession
        · exact h2 (BitVec.eq_of_toNat_eq hy2)
        · exact h5 (BitVec.eq_of_toNat_eq (show z.toNat = 0x35 by omega))
        · exact absurd hbit (by simp [hoff])
      dsimp only
      rw [if_neg hlist, if_neg hrilfy]

/-- Settles O52: the scan of a pad by how far its raw value lies from the baseline, the fold of a scan over the enabled
pads, and the event rows of VBAT, VBUS and the optical head. -/
theorem touchVbatUsbAndOpticalEvents : Obligations.TouchVbatUsbAndOpticalEvents := by
  unfold Obligations.TouchVbatUsbAndOpticalEvents
  refine ⟨?_, ?_, ?_, ?_, ?_, ?_, ?_, ?_, ?_, ?_, ?_, ?_, ?_, ?_, ?_, ?_, ?_, ?_, ?_, ?_⟩
  · intro s u dt raws hu hready hmask
    rw [exec_touchScan_ready hu hready, hmask]
    rfl
  · intro s u dt raws k r hu hready hk hmask hr
    rw [exec_touchScan_ready hu hready, hmask, filter_bit_pow hk, hr]
    rfl
  · intro s u dt raws hu hready hlen
    obtain ⟨t, hfold, hframe, hscan⟩ := foldl_scanPad raws ((upTo 8).filter (bit (u.pnum 0x6000)))
      (List.Nodup.filter _ (List.nodup_range)) u (fun k hk => mem_upTo.mp (List.mem_filter.mp hk).1) hlen
    refine ⟨_, exec_touchScan_ready hu hready raws, ?_, fun k hk => ?_⟩
    · rw [hfold, hframe]
      rfl
    · rw [hfold]
      refine (hscan k).trans (if_congr ?_ rfl rfl)
      simp [mem_upTo, hk]
  · exact fun p raw thresh maxOn now h => Pad.scan_start h
  · intro p raw thresh maxOn now delta h8 hb ht hd hfree
    have ht' : (0 : Rat) < thresh := by exact_mod_cast ht
    rw [Pad.scan_eq h8 hb hd, hfree]
    refine ⟨fun hlow => ?_, fun hlo hhi => ?_, fun hfar hlo hhi => ?_, fun hreach hfirst => ?_, fun hreach hsecond => ?_⟩
    · simp [hlow, not_le.mpr (hlow.trans (by linarith : -(thresh : Rat) < thresh))]
    · have hlow : ¬ delta < -(thresh : Rat) := by linarith
      have hunder : ¬ (thresh : Rat) ≤ delta := by linarith
      have hnear : delta * 2 < thresh ∧ -(thresh : Rat) < delta * 2 := ⟨by linarith, by linarith⟩
      simp [hlow, hunder, hnear]
    · have hlow : ¬ delta < -(thresh : Rat) := by linarith
      have hunder : ¬ (thresh : Rat) ≤ delta := by linarith
      have hnear : ¬ (delta * 2 < thresh ∧ -(thresh : Rat) < delta * 2 ∧ ¬ delta < -(thresh : Rat)) := by
        rintro ⟨h1, h2, -⟩
        obtain h | h := hfar <;> linarith
      simp only [if_neg hnear, if_neg hlow, if_neg hunder, Bool.false_eq_true, if_false]
    · have hlow : ¬ delta < -(thresh : Rat) := by linarith
      simp [hlow, hreach, hfirst]
    · have hlow : ¬ delta < -(thresh : Rat) := by linarith
      simp [hlow, hreach, hsecond]
  · intro p raw thresh maxOn now delta h8 hb ht hd hdown
    have ht' : (0 : Rat) < thresh := by exact_mod_cast ht
    rw [Pad.scan_eq h8 hb hd, hdown]
    refine ⟨fun hmax => ?_, fun hmax hhold => ?_, fun hmax hunder hfirst => ?_, fun hmax hunder hsecond => ?_⟩
    · simp [hmax]
    · have hlow : ¬ delta < -(thresh : Rat) := by linarith
      have hunder : ¬ delta * 4 < (thresh : Rat) * 3 := by linarith
      simp [not_le.mpr hmax, hlow, hunder]
    · simp [not_le.mpr hmax, hunder, hfirst]
    · simp [not_le.mpr hmax, hunder, hsecond]
  · intro s u dt mv hu hlegal hpower
    rw [exec_vbatMeasure_runs hu hlegal hpower]
    refine ⟨fun hlo hhi => ?_, fun hlo hlow => ?_, fun hlo hlow => ?_, fun hlo hgood => ?_, fun hlo hgood => ?_⟩
    · have hnot : ¬ mv < 2400 := by omega
      have hnot' : ¬ 2450 ≤ mv := by omega
      simp [hnot, hnot']
      rfl
    · have hnot' : ¬ 2450 ≤ mv := by omega
      simp [hlo, hnot', hlow]
    · have hnot' : ¬ 2450 ≤ mv := by omega
      simp [hlo, hnot', hlow]
    · have hnot : ¬ mv < 2400 := by omega
      simp [hlo, hnot, hgood]
      rfl
    · have hnot : ¬ mv < 2400 := by omega
      have htwo : min 2 (u.ports.vbatGood + 1) = 2 := by omega
      simp [hlo, hnot, htwo]
  · intro s u dt hu hidle hclock hstage hnone
    refine (exec_vbusValid ..).trans ?_
    unfold execVbusValid
    dsimp only
    rw [hu]
    exact congrArg _ (State.startSession_none rfl hidle hclock hstage hnone)
  · intro s u dt hu hidle hclock hstage
    have hmarks : (u.modPorts (fun p => { p with vbus := true })).startSession.sessionMarks =
        (true, true, none, u.legal) := State.startSession_marks rfl hidle hclock hstage
    rw [exec_vbusValid]
    unfold execVbusValid
    dsimp only
    rw [hu]
    obtain ⟨hsession, hvbus, hpending, hlegal⟩ := by simpa only [State.sessionMarks, Prod.mk.injEq] using hmarks
    exact ⟨_, rfl, hsession, hvbus, hpending, hlegal⟩
  · intro s u dt hu
    refine ⟨fun h => ?_, fun hidle => ?_⟩
    · rw [exec_vbusValid]
      unfold execVbusValid
      dsimp only
      rw [hu]
      exact congrArg _ (State.startSession_refused h)
    · rw [exec_vbusInvalid]
      unfold execVbusInvalid State.endSession
      dsimp only
      rw [hu, if_pos (by simp [hidle])]
  · intro s u dt hu hsession
    rw [exec_vbusInvalid]
    unfold execVbusInvalid State.endSession
    dsimp only
    rw [hu, if_neg (by simp [hsession])]
    rfl
  · intro s u dt msg hu hlistens hidle hmsg
    obtain rfl | rfl := hmsg
    · exact (exec_optSignOn_idle hu hlistens hidle (signOnAddress_some [])).trans (congrArg _ (if_pos (.inl rfl)))
    · exact (exec_optSignOn_idle hu hlistens hidle (signOnAddress_some _)).trans (congrArg _ (if_pos (.inr rfl)))
  · intro s u dt a hu hlistens hidle hnamed hother
    rw [exec_optSignOn_idle hu hlistens hidle (signOnAddress_some a), if_neg (not_or.mpr ⟨hnamed, hother⟩)]
  · intro s u dt msg hu hlistens h
    rw [exec_optSignOn]
    unfold execOptSignOn
    dsimp only
    rw [hu, if_neg (by rcases h with h | ⟨h, -⟩ <;> simp [hlistens, h])]
    obtain hstate | ⟨hidle, hform⟩ := h
    · rw [if_pos hstate]
      rfl
    · rw [if_neg (by simp [hidle]), signOnAddress_none hform]
      rfl
  · intro s u dt z hu hlistens hstate hopen hlo hhi
    rw [exec_optOptionSelect_open hu hlistens hstate hopen, optionOf_some hlo hhi]
    exact congrArg _ (if_pos rfl)
  · intro s u dt hu hlistens hstate hopen hbit
    rw [exec_optOptionSelect_open hu hlistens hstate hopen, optionOf_some (by decide) (by decide)]
    exact congrArg _ ((if_neg (by decide)).trans (if_pos ⟨rfl, rfl, hbit⟩))
  · intro s u dt msg hu hlistens h
    obtain hidle | ⟨hstate, hlate | hform⟩ := h
    · exact exec_optOptionSelect_late hu hlistens (by omega) (.inl hidle) msg
    · exact exec_optOptionSelect_late hu hlistens (by omega) (.inr hlate) msg
    · cases hopen : u.since u.ports.optAt 1500000000 with
      | true => exact exec_optOptionSelect_late hu hlistens (by omega) (.inr hopen) msg
      | false =>
        rw [exec_optOptionSelect_open hu hlistens hstate hopen]
        exact congrArg _ (option_departs hform (fun z => u.modPorts (fun p => { p with
          optState := 2, optRate := z, optAt := u.mono, optOut := u.readout })) _)
  · intro s u dt hu hstate hlate
    rw [exec_optMessageTimeout]
    unfold execOptMessageTimeout
    dsimp only
    rw [hu, if_pos ⟨hstate, hlate⟩]
    rfl
  · intro s u dt hu hstate
    rw [exec_optReadoutEnd]
    unfold execOptReadoutEnd
    dsimp only
    rw [hu, if_pos hstate]
    rfl
  · intro s u dt hu hstate hlate
    rw [exec_optRilfyIdleTimeout]
    unfold execOptRilfyIdleTimeout
    dsimp only
    rw [hu, if_pos ⟨hstate, hlate⟩]
    rfl

end Sys2Proof.Machine
end

section
/-! PROOFS. The M-Bus manager's polls (R462, R464, R465, R468). -/

namespace Sys2Proof.Machine

variable {s u : State} {dt : Ticks}

/-! ### The entry that a cycle goes on with -/

/-- The cycle goes on with the first configured entry. -/
theorem State.pollFrom_first {i k : Nat} (hon : s.pnum 0x6030 = 1) (hik : i ≤ k) (hk : k < 64) (hmode : s.mbusMode k ≠ 0)
    (hskip : ∀ j, i ≤ j → j < k → s.mbusMode j = 0) : s.pollFrom i = (s.modPorts (fun p => { p with
      mbusCycle := some (k, 0, s.mbusMode k == 2), mbusDiscard := false })).sendPoll k (s.mbusMode k == 2) := by
  have hfind : (upTo 64).find? (fun k => decide (i ≤ k) && s.mbusMode k != 0) = some k := by
    unfold upTo
    rw [List.find?_range_eq_some]
    exact ⟨by simp [hik, hmode], by simpa using hk, fun j hj => by
      simpa using (Nat.lt_or_ge j i).imp_right fun hij => hskip j hij hj⟩
  unfold State.pollFrom
  rw [if_pos hon, hfind]

theorem State.pollFrom_none {i : Nat} (h : s.pnum 0x6030 ≠ 1 ∨ (∀ j, i ≤ j → j < 64 → s.mbusMode j = 0)) :
    s.pollFrom i = s.modPorts (fun p => { p with mbusCycle := none, mbusDiscard := false }) := by
  have hnext : (if s.pnum 0x6030 = 1 then (upTo 64).find? (fun k => decide (i ≤ k) && s.mbusMode k != 0) else none) =
      none := by
    obtain hoff | hnone := h
    · exact if_neg hoff
    · refine ite_eq_right_iff.mpr fun _ => List.find?_eq_none.mpr fun j hj => ?_
      simpa using fun hij => hnone j hij (mem_upTo.mp hj)
  unfold State.pollFrom
  rw [hnext]

theorem State.mbusRun_modMbus {i : Nat} (h : i < s.ports.mbus.length) (f : MbusEntry → MbusEntry) :
    (s.modMbus i f).mbusRun i = f (s.mbusRun i) := by
  have hmbus : (s.modMbus i f).ports.mbus = s.ports.mbus.modify i f := rfl
  unfold State.mbusRun
  rw [hmbus]
  simp [List.getD_eq_getElem?_getD, h]

/-! ### Frames (R462) -/

theorem mbusUser_eq_none {frame : Bytes} (h : ∀ user, frame ≠ longFrame user) : mbusUser frame = none :=
  if_neg fun hform => h _ hform.2.1

/-- A long frame of a meter carries its user data. -/
theorem mbusUser_longFrame {user : Bytes} (hshort : 3 ≤ user.length) (hlong : user.length ≤ 255)
    (hc : field user 0 1 % 16 = 8) (hdir : field user 0 1 < 0x40) (hci : field user 2 1 = 0x72 ∨ field user 2 1 = 0x78) :
    mbusUser (longFrame user) = some user := by
  have hn : field (longFrame user) 1 1 = user.length := by
    have hbyte : (byte user.length).toNat = user.length := Nat.mod_eq_of_lt (Nat.lt_succ_of_le hlong)
    exact (congrArg (· + 256 * 0) hbyte : _)
  have huser : slice (longFrame user) 4 user.length = user := slice_append_middle [0x68, byte user.length, byte user.length, 0x68] user _
  unfold mbusUser
  dsimp only
  rw [hn, huser]
  exact if_pos ⟨hshort, rfl, rfl, ⟨hc, hdir⟩, hci⟩

/-! ### Replies and missing replies -/

theorem State.pollMiss_again {i tries : Nat} (h : tries < 2) (selecting : Bool) : s.pollMiss i tries selecting =
    (s.modPorts (fun p => { p with mbusCycle := some (i, tries + 1, selecting) })).sendPoll i selecting :=
  if_neg (Nat.not_le_of_lt h)

section
variable {i tries : Nat} {selecting : Bool} (hu : s.elapse dt = u)
  (hcycle : u.ports.mbusCycle = some (i, tries, selecting))
include hu hcycle

/-- A reply to a transaction in progress. -/
theorem exec_mbusReply_polling (frame : Bytes) : exec (.mbusReply dt frame) s = .next (
    if u.discards then u.pollFrom (i + 1)
    else if selecting then
      (if frame = [0xE5] then (u.modPorts (fun p => { p with mbusCycle := some (i, tries, false) })).sendPoll i false
      else u.pollMiss i tries true)
    else
      match mbusUser frame with
      | none => u.pollMiss i tries false
      | some user => if u.answers i user then (u.pollGood i user).pollFrom (i + 1) else u.pollMiss i tries false) := by
  rw [exec_mbusReply]
  unfold execMbusReply
  dsimp only
  rw [hu, hcycle] <;> cases mbusUser frame <;> rfl

theorem exec_mbusReplyTimeout_polling (hlate : u.since u.ports.mbusSentAt (u.mbusWait i) = true) :
    exec (.mbusReplyTimeout dt) s = .next (if u.discards then u.pollFrom (i + 1) else u.pollMiss i tries selecting) := by
  rw [exec_mbusReplyTimeout]
  unfold execMbusReplyTimeout
  dsimp only
  rw [hu, hcycle]
  dsimp only
  rw [if_neg (by simp [hlate])]

end

theorem State.discards_iff : u.discards = true ↔ u.ports.mbusDiscard = true ∨ u.pnum 0x6030 = 0 := by
  simp [State.discards]

theorem State.not_discards (h : u.ports.mbusDiscard = false) (hon : u.pnum 0x6030 ≠ 0) : ¬ u.discards = true := by
  simp [State.discards_iff, h, hon]

/-- Settles O53: the search of the next configured entry, a reply and a missing reply of the transaction in progress. -/
theorem mbusPollingFollowsItsSchedule : Obligations.MbusPollingFollowsItsSchedule := by
  unfold Obligations.MbusPollingFollowsItsSchedule
  refine ⟨?_, ?_, ?_, ?_, ?_, ?_, ?_, ?_, ?_, ?_, ?_⟩
  · intro s u dt period hu hready hclock hon hperiod hboundary
    rw [exec_mbusPollCycle]
    unfold execMbusPollCycle
    dsimp only
    have hcount : u.nodeTime / (max 1 (u.pnum 0x6031) * second) ≠
        u.ports.mbusCycleAt / (max 1 (u.pnum 0x6031) * second) := by rwa [hperiod] at hboundary
    rw [hu, if_neg (by simp [hready, hclock, hon, hcount])]
  · intro s i k hon hik hk hmode hskip
    rw [State.pollFrom_first hon hik hk (by omega) hskip, hmode]
    exact (if_neg (by decide)).trans (congrArg _ (if_pos hmode))
  · intro s i k hon hik hk hmode hskip
    rw [State.pollFrom_first hon hik hk (by omega) hskip, hmode]
    rfl
  · exact fun s i h => State.pollFrom_none h
  · exact fun s i a => ⟨rfl, rfl⟩
  · intro s u dt frame i tries selecting hu hcycle
    refine ⟨fun hdiscards => ⟨?_, fun hlate => ?_⟩, fun hkept hon htries hbad => ?_⟩
    · exact (exec_mbusReply_polling hu hcycle frame).trans (congrArg _ (if_pos (State.discards_iff.mpr hdiscards)))
    · exact (exec_mbusReplyTimeout_polling hu hcycle hlate).trans
        (congrArg _ (if_pos (State.discards_iff.mpr hdiscards)))
    · rw [exec_mbusReply_polling hu hcycle, if_neg (State.not_discards hkept hon)]
      obtain ⟨rfl, hframe⟩ | ⟨rfl, hframe⟩ := hbad
      · rw [if_pos rfl, if_neg hframe, State.pollMiss_again htries]
      · rw [if_neg Bool.false_ne_true, mbusUser_eq_none hframe]
        exact congrArg _ (State.pollMiss_again htries false)
  · intro s i user hi hvolume
    unfold State.pollGood
    dsimp only
    rw [hvolume]
    exact State.mbusRun_modMbus hi _
  · intro s u dt i tries hu hcycle hkept hon
    rw [exec_mbusReply_polling hu hcycle, if_neg (State.not_discards hkept (by omega)), if_pos rfl, if_pos rfl]
  · intro s u dt i tries user hu hcycle hkept hon hshort hlong hc hdir hci hfrom
    have hanswers : u.answers i user = true := by simpa [State.answers] using hfrom
    rw [exec_mbusReply_polling hu hcycle, if_neg (State.not_discards hkept (by omega)), if_neg Bool.false_ne_true,
      mbusUser_longFrame hshort hlong hc hdir hci]
    exact congrArg _ (if_pos hanswers)
  · intro s u dt i tries selecting hu hcycle hkept hon hlate htries
    rw [exec_mbusReplyTimeout_polling hu hcycle hlate, if_neg (State.not_discards hkept (by omega)),
      State.pollMiss_again htries]
  · intro s u dt i selecting hu hcycle hkept hon hlate
    rw [exec_mbusReplyTimeout_polling hu hcycle hlate, if_neg (State.not_discards hkept (by omega))]
    rfl

end Sys2Proof.Machine
end

section
/-! PROOFS. The links of the fabric: bring-up, frames, renewal and loss (R387, R389 to R391, R393 to R395, R411). -/

namespace Sys2Proof.Machine

variable {s u v : State} {dt : Ticks} {i : Nat} {b t : Bytes}

/-! ### A port of the fabric -/

theorem State.port_modPort {g : Port → Port} (h : i < s.fabric.ports.length) :
    (s.modPort i g).port i = g (s.port i) := by
  have hports : (s.modPort i g).fabric.ports = s.fabric.ports.modify i g := rfl
  unfold State.port
  rw [hports]
  simp [List.getD_eq_getElem?_getD, h]

/-- What an update of a port keeps of each it keeps of every one. -/
theorem State.port_modPort_keeps {α : Type} (π : Port → α) {g : Port → Port} (hg : ∀ p, π (g p) = π p) (k i : Nat) :
    π ((s.modPort k g).port i) = π (s.port i) := by
  have hports : (s.modPort k g).fabric.ports = s.fabric.ports.modify k g := rfl
  unfold State.port
  rw [hports, List.getD_eq_getElem?_getD, List.getD_eq_getElem?_getD, List.getElem?_modify]
  by_cases hk : k = i
  · cases s.fabric.ports[i]? with
    | none => rfl
    | some p => simpa [hk] using hg p
  · simp [hk]

theorem State.modPort_modPort (f g : Port → Port) : (s.modPort i f).modPort i g = s.modPort i (fun p => g (f p)) := by
  unfold State.modPort State.modFabric
  dsimp only
  rw [List.modify_modify_eq]
  rfl

/-- Two updates of a port that agree on it are the same. -/
theorem State.modPort_congr {f g : Port → Port} (h : f (s.port i) = g (s.port i)) : s.modPort i f = s.modPort i g := by
  have hports : s.fabric.ports.modify i f = s.fabric.ports.modify i g := by
    refine List.ext_getElem? (fun k => ?_)
    rw [List.getElem?_modify, List.getElem?_modify]
    by_cases hk : i = k
    · subst hk
      cases hp : s.fabric.ports[i]? with
      | none => rfl
      | some p =>
        have hport : s.port i = p := by simp [State.port, List.getD_eq_getElem?_getD, hp]
        rw [hport] at h
        simpa using h
    · simp [hk]
  unfold State.modPort State.modFabric
  dsimp only
  rw [hports]

/-! ### What a change of the topology leaves of the ports -/

/-- The state and the session of each port. -/
def Fabric.linkMarks (f : Fabric) : List (Nat × Option LinkSession) := f.ports.map (fun p => (p.state, p.session))

theorem State.port_linkMarks (s : State) (i : Nat) : ((s.port i).state, (s.port i).session) =
    s.fabric.linkMarks.getD i (Port.reset.state, Port.reset.session) := by
  unfold State.port Fabric.linkMarks
  rw [List.getD_eq_getElem?_getD, List.getD_eq_getElem?_getD, List.getElem?_map]
  cases s.fabric.ports[i]? <;> rfl

theorem State.modPort_linkMarks {g : Port → Port} (hg : ∀ p, ((g p).state, (g p).session) = (p.state, p.session)) :
    (s.modPort i g).fabric.linkMarks = s.fabric.linkMarks := by
  refine List.ext_getElem? (fun k => ?_)
  have hports : (s.modPort i g).fabric.ports = s.fabric.ports.modify i g := rfl
  unfold Fabric.linkMarks
  rw [hports, List.getElem?_map, List.getElem?_map, List.getElem?_modify]
  cases s.fabric.ports[k]? with
  | none => rfl
  | some p =>
    refine congrArg some ?_
    split
    · exact hg p
    · rfl

theorem Port.enqueue_linkMarks (p : Port) (f : TxFrame) :
    ((p.enqueue f).state, (p.enqueue f).session) = (p.state, p.session) := by
  unfold Port.enqueue
  split
  · rfl
  · dsimp only
    split <;> rfl

section linkMarks

theorem State.enqueueOn_linkMarks (s : State) (port : Nat) (f : TxFrame) :
    (s.enqueueOn port f).fabric.linkMarks = s.fabric.linkMarks := by
  have h : (s.modPort port (·.enqueue f)).fabric.linkMarks = s.fabric.linkMarks :=
    State.modPort_linkMarks (fun p => p.enqueue_linkMarks f)
  unfold State.enqueueOn
  dsimp only
  split
  · exact h
  · exact h

theorem State.countDropped_linkMarks (s : State) (port : Nat) :
    (s.countDropped port).fabric.linkMarks = s.fabric.linkMarks :=
  State.modPort_linkMarks (s := s) (fun _ => rfl)

theorem State.sendRouted_linkMarks (s : State) (type dst : Nat) (p : Bytes) :
    (s.sendRouted type dst p).fabric.linkMarks = s.fabric.linkMarks := by
  unfold State.sendRouted
  split
  · rfl
  · split
    · rfl
    · exact State.enqueueOn_linkMarks ..

theorem State.sendTunnel_linkMarks (n : Nat) (s : State) (type dst id : Nat) (entry : Bytes) (off : Nat) (data : Bytes) :
    (s.sendTunnel type dst id entry n off data).fabric.linkMarks = s.fabric.linkMarks := by
  induction n generalizing s off data with
  | zero => exact State.sendRouted_linkMarks ..
  | succ n ih =>
    unfold State.sendTunnel
    split
    · exact State.sendRouted_linkMarks ..
    · rw [ih, State.sendRouted_linkMarks]

theorem State.sendResponse_linkMarks (s : State) (f : InFlight) (final : Bool) (st : Nat) (result : Bytes) :
    (s.sendResponse f final st result).fabric.linkMarks = s.fabric.linkMarks := by
  unfold State.sendResponse
  dsimp only
  split
  · rfl
  · split
    · rw [State.respondHost_fabric]
      split <;> rfl
    · split
      · rfl
      next served _ =>
        rw [← State.sendTunnel_linkMarks 8 s 6 served.2.1 served.1 (f.responseEntry final st result) 0
          (if f.bulk then result else [])]
        dsimp only [State.modFabric, Fabric.linkMarks]
        split <;> rfl
    · split <;> rfl

theorem State.respond_linkMarks (s : State) (f : InFlight) (st : Nat) (result : Bytes) :
    (s.respond f st result).fabric.linkMarks = s.fabric.linkMarks := by
  rw [State.respond, State.finishReset_fabric, State.sendResponse_linkMarks]
  rfl

theorem State.endTunnel_linkMarks (s : State) (x : Tunnel) (st : Nat) (result : Bytes) :
    (s.endTunnel x st result).fabric.linkMarks = s.fabric.linkMarks := by
  unfold State.endTunnel
  dsimp only
  split
  · rfl
  · split
    · rfl
    · rw [State.respond_linkMarks]
      rfl

theorem State.abortTunnels_linkMarks (s : State) : s.abortTunnels.fabric.linkMarks = s.fabric.linkMarks :=
  foldl_keeps (π := fun s : State => s.fabric.linkMarks) (fun s x => s.endTunnel_linkMarks x _ _) _ s

theorem State.followUpstream_linkMarks (s : State) : s.followUpstream.fabric.linkMarks = s.fabric.linkMarks := by
  unfold State.followUpstream
  extract_lets up
  split <;> rfl

theorem State.applyRole_linkMarks (s : State) (r : Nat × Nat × Nat) :
    (s.applyRole r).fabric.linkMarks = s.fabric.linkMarks := by
  unfold State.applyRole
  dsimp only
  rw [State.followUpstream_linkMarks]
  split
  · rfl
  · rw [State.announce_fabric]
    split
    · exact State.abortTunnels_linkMarks _
    · rfl

theorem State.noteElection_linkMarks (s : State) : s.noteElection.fabric.linkMarks = s.fabric.linkMarks := by
  unfold State.noteElection
  dsimp only
  have hrole : (if s.fabric.role = roleStandalone then s.applyRole (0, 0, roleWorker) else s).fabric.linkMarks =
      s.fabric.linkMarks := by
    split
    · exact s.applyRole_linkMarks _
    · rfl
  split
  · split
    · rfl
    · exact s.applyRole_linkMarks _
  · split
    · exact hrole
    · exact hrole

theorem State.topologyChanged_linkMarks (s : State) : s.topologyChanged.fabric.linkMarks = s.fabric.linkMarks := by
  unfold State.topologyChanged
  rw [State.followUpstream_linkMarks, State.noteElection_linkMarks]
  rfl

end linkMarks

/-- A port that is raised is UP, and its session begins. -/
theorem State.raiseLink_port (h : i < s.fabric.ports.length) :
    ((s.raiseLink i).port i).state = 4 ∧ ((s.raiseLink i).port i).session = some
      ⟨sessionKey (s.linkKey i) nodeId (s.port i).peerId (s.port i).nonce (s.port i).peerNonce, 0, s.mono, 0, 0, none,
        s.mono, none⟩ := by
  rw [← Prod.mk.injEq, State.port_linkMarks]
  unfold State.raiseLink
  dsimp only
  rw [State.topologyChanged_linkMarks, State.announce_fabric, ← State.port_linkMarks, State.port_modPort h]

/-! ### HELLOs (R391, R394, R395) -/

theorem exec_helloReceive_seeking (hu : s.elapse dt = u) (hr : u.received i 1 b = some t) (hstate : (u.port i).state = 3) :
    exec (.helloReceive dt i b) s = .next ((u.takeFrame i b).seekHello i t) := by
  rw [exec_helloReceive]
  unfold execHelloReceive
  dsimp only
  rw [hu, show u.received i typeHello b = some t from hr]
  exact congrArg _ (if_pos hstate)

theorem exec_helloReceive_up (hu : s.elapse dt = u) (hr : u.received i 1 b = some t) (hstate : (u.port i).state = 4) :
    ∃ current, exec (.helloReceive dt i b) s = .next ((u.takeFrame i b).upHello i t current) := by
  rw [exec_helloReceive]
  unfold execHelloReceive
  dsimp only
  rw [hu, show u.received i typeHello b = some t from hr]
  exact ⟨_, congrArg _ (if_neg (by omega))⟩

/-- A HELLO that asks for no renewal leaves the session. -/
theorem State.renewalHello_zero (h : allZero (slice t 8 16) = true) (current : Bool) :
    s.renewalHello i t current = s := by
  unfold State.renewalHello
  dsimp only
  split
  · rfl
  · exact if_pos (by simp [h])

theorem sessionKey_ends (lk na nb : Bytes) {a b : Nat} (h : a < b) :
    sessionKey lk a b na nb = (sha256 (lk ++ na ++ nb ++ leBytes 8 a ++ leBytes 8 b)).take lk.length ∧
    sessionKey lk b a nb na = (sha256 (lk ++ na ++ nb ++ leBytes 8 a ++ leBytes 8 b)).take lk.length := by
  have hswap : ¬ b < a := by omega
  unfold sessionKey
  simp only [h, hswap, if_true, if_false, List.append_assoc, and_self]

/-! ### What a port makes of a frame (R387, R389) -/

/-- A byte string is determined by its number and its length. -/
theorem leBytes_leNat (l : Bytes) : leBytes l.length (leNat l) = l := by
  induction l with
  | nil => rfl
  | cons a l ih =>
    have hlow : byte (a.toNat + 256 * leNat l) = a := by
      refine BitVec.eq_of_toNat_eq ?_
      simp [byte, Nat.add_mul_mod_self_left, Nat.mod_eq_of_lt a.isLt]
    have hrest : (a.toNat + 256 * leNat l) / 256 = leNat l := by
      have := a.isLt
      omega
    rw [List.length_cons, leNat, leBytes, hlow, hrest, ih]

/-- A whole frame is its body and the body's CRC. -/
theorem frameWhole_parts (h : frameWhole b = true) : ∃ body : Bytes, b = body ++ leBytes 4 (crc32 body) ∧
    body.length = 32 + field b 8 2 ∧ field b 8 2 ≤ 1024 := by
  unfold frameWhole at h
  simp only [Bool.and_eq_true, decide_eq_true_eq, beq_iff_eq] at h
  obtain ⟨⟨⟨hlong, hroom⟩, hlen⟩, hcrc⟩ := h
  have htail : leBytes 4 (leNat (b.drop (b.length - 4))) = b.drop (b.length - 4) := by
    have h4 : (b.drop (b.length - 4)).length = 4 := by
      rw [List.length_drop]
      omega
    simpa only [h4] using leBytes_leNat (b.drop (b.length - 4))
  refine ⟨b.take (b.length - 4), ?_, by rw [List.length_take]; omega, hroom⟩
  rw [hcrc, htail, List.take_append_drop]

section
variable (hready : s.ready = true)
include hready

theorem State.judge_seeking (hstate : (s.port i).state = 3) (hwhole : frameWhole b = true) : s.judge i b =
    if frameType b ≠ typeHello then .early
    else if !frameHandshake b || !s.handshakeOk i b then .authErr
    else if field (framePayload b) 0 8 = nodeId then .dropped
    else admitText b (framePayload b) := by
  unfold State.judge
  dsimp only
  rw [if_neg (by simp [hready]), if_neg (by simp [hstate]), if_neg (by simp [hwhole]), if_pos hstate]

theorem State.judge_crc (hstate : (s.port i).state = 3 ∨ (s.port i).state = 4) (hcut : frameWhole b = false) :
    s.judge i b = .crcErr := by
  unfold State.judge
  dsimp only
  rw [if_neg (by simp [hready]), if_neg (fun h => hstate.elim h.1 h.2), if_pos (by simp [hcut])]

theorem State.judge_upHandshake (hstate : (s.port i).state = 4) (hwhole : frameWhole b = true)
    (hhand : frameHandshake b = true) : s.judge i b = if s.handshakeOk i b = true then .dropped else .authErr := by
  unfold State.judge
  dsimp only
  rw [if_neg (by simp [hready]), if_neg (by simp [hstate]), if_neg (by simp [hwhole]), if_neg (by simp [hstate]),
    if_pos hhand]

end

theorem State.judge_early (h : s.ready = false ∨ ((s.port i).state ≠ 3 ∧ (s.port i).state ≠ 4)) :
    s.judge i b = .early := by
  unfold State.judge
  dsimp only
  obtain hboot | hidle := h
  · exact if_pos (by simp [hboot])
  · rw [if_pos hidle, ite_self]

/-! ### Frames that fail (R387, R395) -/

theorem exec_frameReject_judged (hu : s.elapse dt = u) (hi : i < 3) : exec (.frameReject dt i b) s = .next (
    match u.judge i b with
    | .good _ => u
    | .early => u.modPort i (fun p => { p with early := satAdd 0xFFFFFFFF p.early 1 })
    | .crcErr => u.modPort i (fun p => { p with crcErr := satAdd 0xFFFFFFFF p.crcErr 1, hellos := 0 })
    | .authErr => u.authFailed i
    | .dropped => ((u.takeFrame i b).modPort i (fun p => { p with hellos := 0 })).countDropped i) := by
  rw [exec_frameReject]
  unfold execFrameReject
  dsimp only
  rw [hu, if_neg (Nat.not_le_of_lt hi)] <;> cases u.judge i b <;> rfl

/-- A port that is not UP, or whose failures in succession are fewer than 16, stays. -/
theorem State.authFailed_stays (h : (s.port i).state = 3 ∨ (s.port i).authFails < 15) : s.authFailed i =
    s.modPort i (fun p => { p with
      authErr := satAdd 0xFFFFFFFF p.authErr 1, authFails := min 16 (p.authFails + 1), hellos := 0 }) := by
  unfold State.authFailed
  extract_lets v
  have hstate : (v.port i).state = (s.port i).state := by
    refine State.port_modPort_keeps Port.state ?_ i i
    exact fun _ => rfl
  refine if_neg ?_
  obtain hseek | hfew := h
  · simp [State.linkUp, hstate, hseek]
  · have hfails : (v.port i).authFails < 16 := by
      by_cases hi : i < s.fabric.ports.length
      · have hcount : (v.port i).authFails = min 16 ((s.port i).authFails + 1) :=
          congrArg Port.authFails (State.port_modPort hi)
        omega
      · have hport : v.port i = Port.reset := by
          have hlen : v.fabric.ports.length = s.fabric.ports.length := List.length_modify ..
          exact List.getD_eq_default _ _ (by omega)
        rw [hport]
        decide
    simp [hfails]

/-- The sixteenth failure in succession takes a link down. -/
theorem State.authFailed_drops (hstate : (s.port i).state = 4) (hfails : 15 ≤ (s.port i).authFails)
    (hi : i < s.fabric.ports.length) : s.authFailed i = (s.modPort i (fun p => { p with
      authErr := satAdd 0xFFFFFFFF p.authErr 1, authFails := 16, hellos := 0 })).dropLink i false := by
  have hmost : min 16 ((s.port i).authFails + 1) = 16 := by omega
  have hcount : (s.modPort i (fun p => { p with
      authErr := satAdd 0xFFFFFFFF p.authErr 1, authFails := min 16 (p.authFails + 1), hellos := 0 })) =
      s.modPort i (fun p => { p with authErr := satAdd 0xFFFFFFFF p.authErr 1, authFails := 16, hellos := 0 }) :=
    State.modPort_congr (by rw [hmost])
  unfold State.authFailed
  rw [hcount]
  refine if_pos ?_
  rw [State.linkUp, State.port_modPort hi]
  simp [hstate]

/-! ### Sending (R389, R390, R411) -/

theorem exec_portTransmit_free {f g : TxFrame} (hu : s.elapse dt = u) (hnext : (u.port i).nextFrame = some f)
    (hg : (if f.type = typeHello then { f with payload := u.helloPayload i, src := u.ownSource } else f) = g)
    (hready : u.ready = true) (hstate : (u.port i).state = 3 ∨ (u.port i).state = 4)
    (hfree : (u.port i).lineUntil ≤ u.mono) (hroom : u.beforeResponse i g = true) :
    exec (.portTransmit dt i) s = .next (((u.modPort i (fun p => { p with
      queue := p.queue.erase f })).sendFrame i g).afterSend i g) := by
  rw [exec_portTransmit]
  unfold execPortTransmit
  dsimp only
  rw [hu, hnext]
  dsimp only
  rw [hg, if_pos ⟨hready, hstate, hfree, hroom⟩]

/-- The bytes that a frame puts on the line. -/
theorem State.sendFrame_out (s : State) (i : Nat) (f : TxFrame) :
    ((s.port i).session = none → (s.sendFrame i f).out = s.out ++
      [.scrim i (List.replicate 7 0x55 ++ [0xD5] ++ handshakeFrame (s.linkKey i)
        (frameHeader f.dst f.src f.type f.hop 0 f.payload.length true 0) f.payload)]) ∧
    (∀ x, (s.port i).session = some x → (s.sendFrame i f).out = s.out ++
      [.scrim i (List.replicate 7 0x55 ++ [0xD5] ++ sessionFrame x.key
        (byte (if nodeId < (s.port i).peerId then 0 else 1) :: zeros 3 ++ beBytes 8 x.txSeq)
        (frameHeader f.dst f.src f.type f.hop x.txSeq f.payload.length false x.epoch) f.payload)]) := by
  unfold State.sendFrame
  dsimp only
  constructor
  · intro h
    rw [h]
    rfl
  · intro x h
    have hdir : sessionIv (decide (nodeId < (s.port i).peerId)) x.txSeq =
        byte (if nodeId < (s.port i).peerId then 0 else 1) :: zeros 3 ++ beBytes 8 x.txSeq := by
      by_cases hl : nodeId < (s.port i).peerId <;> simp [sessionIv, b2n, hl]
    rw [h, ← hdir]
    rfl

/-- Settles O54: the HELLOs by `seekHello` and `upHello`, a frame by the order of `State.judge`, the session of a raised
link by what a change of the topology leaves of the ports, and each timer by its guard. -/
theorem linksComeUpAndGo : Obligations.LinksComeUpAndGo := by
  unfold Obligations.LinksComeUpAndGo
  refine ⟨?_, ?_, ?_, ?_, ?_, ?_, ?_, fun lk na nb a b h => sessionKey_ends lk na nb h,
    fun s i h _ => State.raiseLink_port h, ?_, ?_, ?_, ?_, ?_, ?_, ?_, ?_⟩
  · intro s u dt i hu hstate hsince
    rw [exec_quietEnd]
    unfold execQuietEnd
    dsimp only
    rw [hu]
    exact congrArg _ (if_pos ⟨hstate, hsince⟩)
  · intro s u dt i hu hstate hready hlate
    have hdue : u.since (u.port i).helloAt (250 * milli) = true ∨
      ((u.port i).state = 3 ∧ (u.port i).helloAt < (u.port i).at_) := hlate
    rw [exec_helloTimer]
    unfold execHelloTimer
    dsimp only
    rw [hu, if_pos ⟨hstate, by simpa [hready] using hdue⟩]
    rfl
  · intro s u dt i hu hready
    constructor
    · rw [exec_helloTimer]
      unfold execHelloTimer
      dsimp only
      rw [hu, if_neg (by simp [hready])]
    · rw [exec_portTransmit]
      unfold execPortTransmit
      dsimp only
      rw [hu]
      refine congrArg _ ?_
      split
      · rfl
      · exact if_neg (by simp [hready])
  · intro s u v dt i b t hu hr hstate hv hcount hid htime hecho
    have hfollows : (0 < (v.port i).hellos && field t 0 8 == (v.port i).peerId &&
        v.mono ≤ (v.port i).lastHello + 375 * milli) = true := by
      have htime' : v.mono ≤ (v.port i).lastHello + 375 * milli := htime
      simp [hid, htime', show 0 < (v.port i).hellos by omega]
    rw [exec_helloReceive_seeking hu hr hstate, ← hv]
    unfold State.seekHello
    dsimp only
    rw [hfollows, if_pos rfl, if_pos ⟨by omega, hecho⟩, show min 3 ((v.port i).hellos + 1) = 3 by omega]
    exact congrArg (fun w : State => Host.Outcome.next (w.raiseLink i)) (State.modPort_congr (by rw [hid]))
  · intro s u v dt i b t hu hr hstate hv hid haddr hzero
    obtain ⟨current, hexec⟩ := exec_helloReceive_up hu hr hstate
    rw [hexec, ← hv]
    unfold State.upHello
    dsimp only
    rw [if_neg (not_not_intro hid), State.renewalHello_zero hzero, if_pos haddr]
  · intro s u v dt i b t hu hr hstate hv hid
    obtain ⟨current, hexec⟩ := exec_helloReceive_up hu hr hstate
    rw [hexec, ← hv]
    exact congrArg _ (if_pos hid)
  · intro s u v dt i b t hu hr hstate hv hfirst
    have hfollows : (0 < (v.port i).hellos && field t 0 8 == (v.port i).peerId &&
        v.mono ≤ (v.port i).lastHello + 375 * milli) = false := by
      obtain hnone | hother | hlate := hfirst
      · simp [hnone]
      · simp [hother]
      · have hlate' : ¬ v.mono ≤ (v.port i).lastHello + 375 * milli := Nat.not_le_of_lt hlate
        simp [hlate']
    rw [exec_helloReceive_seeking hu hr hstate, ← hv]
    unfold State.seekHello
    dsimp only
    rw [hfollows]
    rfl
  · intro s u dt i hu hstate hsince
    have hlate : u.since (u.port i).lastAuth second = true := hsince
    rw [exec_linkSilenceTimeout]
    unfold execLinkSilenceTimeout
    dsimp only
    rw [hu, if_pos (by simp [State.linkUp, hstate, hlate])]
  · intro s u dt i x hu hstate hx hsince
    have hlate : u.since x.since (7200 * second) = true := hsince
    rw [exec_sessionDeadline]
    unfold execSessionDeadline
    dsimp only
    rw [hu, hx]
    exact congrArg _ (if_pos (by simp [State.linkUp, hstate, hlate]))
  · intro s u dt i x hu hstate hx hlower hsince hretry hseed
    have hdue : u.since x.since (3600 * second) = true := hsince
    have hagain : x.renewalAt = x.since ∨ u.since x.renewalAt (60 * second) = true := hretry
    rw [exec_sessionRenewal]
    unfold execSessionRenewal
    dsimp only
    rw [hu, hx]
    exact congrArg _ ((if_neg (by simpa [State.linkUp, hstate, hlower, hdue] using or_iff_not_imp_left.mp hagain)).trans (if_neg (by simp [hseed])))
  · intro s i b
    refine ⟨State.judge_early, fun hready hstate hform => ?_, fun hready hstate hwhole htype => ?_,
      fun hready hstate hwhole htype hbad => ?_, fun hready hstate hwhole htype hhand hok hown => ?_,
      fun hready hstate hwhole hhand => State.judge_upHandshake hready hstate hwhole hhand⟩
    · exact State.judge_crc hready hstate (Bool.not_eq_true _ ▸ fun hwhole => hform (frameWhole_parts hwhole))
    · rw [State.judge_seeking hready hstate hwhole, typeHello, if_pos htype]
    · rw [State.judge_seeking hready hstate hwhole, typeHello, if_neg (not_not_intro htype),
        if_pos (by rcases hbad with h | h <;> simp [h])]
    · rw [State.judge_seeking hready hstate hwhole, typeHello, if_neg (not_not_intro htype), if_neg (by simp [hhand, hok]),
        if_pos hown]
  · intro s u dt i b hu hi
    refine ⟨fun hj => ?_, fun hj => ?_, fun hj hkeep => ?_, fun hj hstate hfails hlen => ?_, fun hj => ?_⟩
    · rw [exec_frameReject_judged hu hi, hj]
    · rw [exec_frameReject_judged hu hi, hj]
    · rw [exec_frameReject_judged hu hi, hj]
      exact congrArg _ (State.authFailed_stays hkeep)
    · rw [exec_frameReject_judged hu hi, hj]
      exact congrArg _ (State.authFailed_drops hstate hfails hlen)
    · rw [exec_frameReject_judged hu hi, hj]
      exact congrArg (fun w => Host.Outcome.next (w.bump 25)) (State.modPort_modPort _ _)
  · intro s u dt i f hu hnext htype hready hstate hfree hroom
    exact exec_portTransmit_free hu hnext (if_neg htype) hready (.inr hstate) hfree hroom
  · intro s u dt i f g hu hnext htype hg hready hstate hfree hroom
    exact exec_portTransmit_free hu hnext ((if_pos htype).trans hg.symm) hready hstate hfree hroom
  · intro s i f
    obtain ⟨hhand, hsession⟩ := s.sendFrame_out i f
    refine ⟨hhand, hsession, fun hi => ?_⟩
    have hline : ((s.sendFrame i f).port i).lineUntil = s.mono + frameTime f.size :=
      congrArg Port.lineUntil (State.port_modPort hi)
    rw [hline, frameTime, lineTime, TxFrame.size]
    congr 1
    omega

end Sys2Proof.Machine
end

section
/-! PROOFS. Tunnels, the distribution and the collection of readings on the fabric (R329, R407 to R409). -/

namespace Sys2Proof.Machine

variable {s u v : State} {dt : Ticks} {i id src : Nat} {b t held data : Bytes}

/-! ### Commands and responses of a tunnel (R407) -/

section
variable (hu : s.elapse dt = u) (hv : v = u.takeFrame i b)
include hu hv

/-- A command frame for this node, by its sender and its data. -/
theorem exec_tunnelCmdReceive_forMe (hr : u.receivedForMe i 5 b = some t) (whole : Option Bytes)
    (hwhole : v.assembled (field t 0 4) (frameSrc b) t = whole) : exec (.tunnelCmdReceive dt i b) s = .next (
      if v.fromManager b = false then v.countDropped i
      else whole.elim ((v.dropPieces (field t 0 4) (frameSrc b)).countDropped i) (fun data =>
        ((v.dropPieces (field t 0 4) (frameSrc b)).modFabric (fun f => { f with
          served := f.served ++ [(field t 0 4, frameSrc b, i)] })).modHawk (fun h => { h with
            waiting := h.waiting ++ [⟨⟨.fabric, field t 0 4⟩, slice t 4 64, data, frameSrc b⟩] }))) := by
  rw [exec_tunnelCmdReceive]
  unfold execTunnelCmdReceive
  dsimp only
  rw [hu, show u.receivedForMe i typeTunnelCmd b = some t from hr]
  dsimp only
  rw [← hv, hwhole]
  cases v.fromManager b <;> cases whole <;> rfl

/-- A piece of a tunnel. -/
theorem exec_tunnelBulkReceive_forMe (hr : u.receivedForMe i 7 b = some t) (hid : field t 0 4 = id)
    (hsrc : frameSrc b = src) (hheld : v.piecesOf id src = held) : exec (.tunnelBulkReceive dt i b) s = .next (
      if !((v.tunnelOf id src).isSome || v.fromManager b) then v.countDropped i
      else if !((v.tunnelOf id src).isSome || !held.isEmpty || v.fabric.pieces.length < 4) ||
          field t 4 4 != held.length || 4096 < held.length + (t.length - 8) then (v.dropPieces id src).countDropped i
      else v.modFabric (·.addPiece ⟨id, src, i, held ++ t.drop 8, v.mono⟩)) := by
  rw [exec_tunnelBulkReceive]
  unfold execTunnelBulkReceive
  dsimp only
  rw [hu, show u.receivedForMe i typeBulk b = some t from hr]
  dsimp only
  rw [← hv, hid, hsrc, hheld]

theorem exec_tunnelRespReceive_none (hr : u.receivedForMe i 6 b = some t)
    (hnone : v.tunnelOf (field t 0 4) (frameSrc b) = none) :
    exec (.tunnelRespReceive dt i b) s = .next (v.countDropped i) := by
  rw [exec_tunnelRespReceive]
  unfold execTunnelRespReceive
  dsimp only
  rw [hu, show u.receivedForMe i typeTunnelResp b = some t from hr]
  dsimp only
  rw [← hv, hnone]

/-- A response of a tunnel that is open, by its data. -/
theorem exec_tunnelRespReceive_some (hr : u.receivedForMe i 6 b = some t) {x : Tunnel}
    (hx : v.tunnelOf (field t 0 4) (frameSrc b) = some x) (whole : Option Bytes)
    (hwhole : v.assembled (field t 0 4) x.dest t = whole) : exec (.tunnelRespReceive dt i b) s = .next (
      whole.elim ((v.dropPieces (field t 0 4) x.dest).countDropped i) (fun data =>
        if bit (field (slice t 4 64) 4 1) 3 = false then v
        else if x.call.isSome then v.endTunnel x stDone (slice t 4 64 ++ data)
        else (v.endTunnel x stDone (slice t 4 64 ++ data)).itemDone x.dest x.item (field (slice t 4 64) 6 1))) := by
  rw [exec_tunnelRespReceive]
  unfold execTunnelRespReceive
  dsimp only
  rw [hu, show u.receivedForMe i typeTunnelResp b = some t from hr]
  dsimp only
  rw [← hv, hx]
  dsimp only
  rw [hwhole]
  cases whole with
  | none => rfl
  | some data => cases bit (field (slice t 4 64) 4 1) 3 <;> rfl

/-- A reading, by the node's role and by what BULK takes. -/
theorem exec_readingReceive_forMe (hr : u.receivedForMe i 8 b = some t) (hsrc : frameSrc b = src)
    (hid : field t 0 4 = id) : exec (.readingReceive dt i b) s = .next (
      if v.fabric.role ≠ roleManager then v.countDropped i
      else if v.fabric.acked.contains (src, id) then v.sendRouted 9 src (leBytes 4 id ++ zeros 4)
      else if !v.bulkRoom (leBytes 2 src ++ zeros 6 ++ t.drop 8).length then v
      else ((v.postBulk 0x0782 (leBytes 2 src ++ zeros 6 ++ t.drop 8)).modFabric (fun f => { f with
        acked := (src, id) :: (v.fabric.acked.filter (fun a => a.1 == src)).take 63 ++
          v.fabric.acked.filter (fun a => a.1 != src) })).sendRouted 9 src (leBytes 4 id ++ zeros 4)) := by
  rw [exec_readingReceive]
  unfold execReadingReceive
  dsimp only
  rw [hu, show u.receivedForMe i typeReading b = some t from hr]
  dsimp only
  rw [← hv, hsrc, hid]
  rfl

end

theorem State.itemDone_eq (dest item status : Nat) : s.itemDone dest item status =
    if status = stBusy ∨ status = stNotReady ∨ status = stTimeout ∨ status = stAborted then s
    else (s.bump (if status = stDone then 14 else 15)).modFabric (fun f => { f with
      refused := f.refused ++ [(dest, item)] }) :=
  if_congr (by simp) rfl rfl

/-- A reading that waits for its acknowledgement is sent again. -/
theorem exec_readingResend_due {rid at_ : Nat} {r : Bytes} (hu : s.elapse dt = u)
    (hforward : u.fabric.forward = [(rid, r, at_)]) (hlate : u.since at_ 2000000000 = true) (hmanager : u.fabric.manager ≠ 0)
    (hrole : u.fabric.role = roleWorker) : exec (.readingResend dt rid) s =
      .next ((u.modFabric (fun f => { f with forward := [(rid, r, u.mono)] })).sendReading rid r) := by
  have hdue : u.since at_ (2 * second) = true := hlate
  have hfind : u.fabric.forward.find? (fun x => x.1 == rid && u.since x.2.2 (2 * second)) = some (rid, r, at_) := by
    rw [hforward]
    exact List.find?_cons_of_pos (by simp [hdue])
  have hmap : u.modFabric (fun f => { f with
      forward := f.forward.map (fun y => if y.1 = rid then (y.1, y.2.1, u.mono) else y) }) =
      u.modFabric (fun f => { f with forward := [(rid, r, u.mono)] }) := by
    unfold State.modFabric
    dsimp only
    rw [hforward]
    simp
  rw [exec_readingResend]
  unfold execReadingResend
  dsimp only
  rw [hu, hfind]
  dsimp only
  rw [if_neg (by simp [hmanager, hrole]), hmap]

/-- Settles O56: each frame and timer by the case that its sender, its pieces and the node's role give. -/
theorem tunnelsAndReadingsAreCarried : Obligations.TunnelsAndReadingsAreCarried := by
  unfold Obligations.TunnelsAndReadingsAreCarried
  refine ⟨?_, ?_, ?_, ?_, ?_, ?_, ?_, ?_, ?_, fun s dest item status => State.itemDone_eq dest item status, ?_, ?_, ?_, ?_,
    fun s u dt rid at_ r hu hforward hlate hmanager hrole => exec_readingResend_due hu hforward hlate hmanager hrole⟩
  · intro s u v dt i b t hu hr hv hother
    exact (exec_tunnelCmdReceive_forMe hu hv hr _ rfl).trans (congrArg _ (if_pos hother))
  · intro s u v dt i b t hu hr hv hmanager hnone
    exact (exec_tunnelCmdReceive_forMe hu hv hr _ hnone).trans (congrArg _ (if_neg (by simp [hmanager])))
  · intro s u v dt i b t data hu hr hv hmanager hdata
    exact (exec_tunnelCmdReceive_forMe hu hv hr _ hdata).trans (congrArg _ (if_neg (by simp [hmanager])))
  · intro v id src t e he hlen
    unfold State.assembled
    dsimp only
    exact if_pos (he ▸ hlen)
  · intro s u v dt i id src b t held hu hr hv hid hsrc hheld
    refine ⟨fun hmine hother => ?_, fun hknown hbad => ?_⟩
    · rw [exec_tunnelBulkReceive_forMe hu hv hr hid hsrc hheld, if_pos (by simp [hmine, hother])]
    · rw [exec_tunnelBulkReceive_forMe hu hv hr hid hsrc hheld, if_neg (by simp [(Bool.or_eq_true ..).mpr hknown])]
      refine congrArg _ (if_pos ?_)
      obtain hoff | hlong | ⟨hmine, hfirst, hfull⟩ := hbad
      · simp [hoff]
      · simp [hlong]
      · simp [hmine, hfirst, Nat.not_lt_of_le hfull]
  · intro s u v dt i id src b t held hu hr hv hid hsrc hheld hknown hoff hlong
    have hroom : (!((v.tunnelOf id src).isSome || !held.isEmpty || v.fabric.pieces.length < 4) ||
        field t 4 4 != held.length || 4096 < held.length + (t.length - 8)) = false := by
      obtain hmine | ⟨-, hfollows | hfew⟩ := hknown
      · simp [hmine, hoff, hlong]
      · simp [hfollows, hoff, hlong]
      · simp [hfew, hoff, hlong]
    rw [exec_tunnelBulkReceive_forMe hu hv hr hid hsrc hheld,
      if_neg (by simp [(Bool.or_eq_true ..).mpr (hknown.imp_right And.left)]), hroom]
    rfl
  · intro s u dt id p hu hlate
    have hdue : u.fabric.pieces.filter (fun p => p.id == id && u.since p.at_ (2 * second)) = [p] := hlate
    rw [exec_tunnelPieceTimeout]
    unfold execTunnelPieceTimeout
    dsimp only
    rw [hu, hdue]
    rfl
  · intro s u v dt i b t data x hu hr hv hx hcall hfinal hdata
    rw [exec_tunnelRespReceive_some hu hv hr hx _ hdata]
    exact congrArg _ ((if_neg (by simp [hfinal])).trans (if_pos hcall))
  · intro s u v dt i b t hu hr hv
    refine ⟨exec_tunnelRespReceive_none hu hv hr, fun x hx => ⟨fun hnone => ?_, fun data hdata hmore => ?_,
      fun data hdata hfinal hcall => ?_⟩⟩
    · exact exec_tunnelRespReceive_some hu hv hr hx _ hnone
    · exact (exec_tunnelRespReceive_some hu hv hr hx _ hdata).trans (congrArg _ (if_pos hmore))
    · rw [exec_tunnelRespReceive_some hu hv hr hx _ hdata]
      exact congrArg _ ((if_neg (by simp [hfinal])).trans (if_neg (by simp [hcall])))
  · intro s u dt id x hu hid htunnels hlate
    have hdue : u.since x.at_ (10 * second) = true := hlate
    have hfind : u.fabric.tunnels.find? (fun t => t.id == id && u.since t.at_ (10 * second)) = some x := by
      rw [htunnels]
      exact List.find?_cons_of_pos (by simp [hid, hdue])
    rw [exec_tunnelResponseTimeout]
    unfold execTunnelResponseTimeout
    dsimp only
    rw [hu, hfind]
  · intro s u dt hu hrole hlate
    rw [exec_distributionRepeat]
    unfold execDistributionRepeat
    dsimp only
    rw [hu, if_pos ⟨hrole, hlate⟩]
  · intro s u v dt i src rid b t hu hr hv hsrc hid
    have hitem (hlen : t.length = 200) : (leBytes 2 src ++ zeros 6 ++ t.drop 8).length = 200 := by
      simp [length_leBytes, length_zeros, hlen]
    refine ⟨fun hrole => ?_, fun hrole hnew hlen hroom => ?_, fun hrole hknown => ?_, fun hrole hnone hroom hlen => ?_⟩
    · rw [exec_readingReceive_forMe hu hv hr hsrc hid, if_pos hrole]
    · rw [exec_readingReceive_forMe hu hv hr hsrc hid, if_neg (not_not_intro hrole), if_neg (Bool.eq_false_iff.mp hnew),
        hitem hlen, hroom]
      rfl
    · rw [exec_readingReceive_forMe hu hv hr hsrc hid, if_neg (not_not_intro hrole), if_pos hknown]
    · rw [exec_readingReceive_forMe hu hv hr hsrc hid, if_neg (not_not_intro hrole), if_neg (by simp [hnone]),
        hitem hlen, hroom, hnone]
      rfl
  · intro s u dt i b t hu hr
    rw [exec_readingAckReceive]
    unfold execReadingAckReceive
    dsimp only
    rw [hu, show u.receivedForMe i typeReadingAck b = some t from hr]

end Sys2Proof.Machine
end

section
/-! PROOFS. The erase journal, and what the model makes of a third failed erase whose store is none of Table 13.4
(R358, R359). -/

namespace Sys2Proof.Machine

variable {s u : State} {sector store : Nat}

/-! ### The erase journal (R358) -/

theorem find_insertWord (w : JournalWord) (l : List JournalWord) :
    (insertWord w l).find? (fun x => x.sector == w.sector) = some w := by
  induction l with
  | nil => simp [insertWord]
  | cons x xs ih =>
    unfold insertWord
    split
    · next hlt => rw [List.find?_cons_of_neg (by simpa using hlt.ne), ih]
    · split <;> exact List.find?_cons_of_pos (by simp)

/-- The word of a sector names it. -/
theorem Flash.word_sector (f : Flash) (n : Nat) : (f.word n).sector = n := by
  unfold Flash.word
  cases hfind : f.journal.find? (fun w => w.sector == n) with
  | none => rfl
  | some w => simpa using List.find?_some hfind

theorem State.word_putWord (s : State) {w : JournalWord} (h : w.sector = sector) :
    (s.putWord w).flash.word sector = w := by
  have hjournal : (s.putWord w).flash.journal = insertWord w s.flash.journal := rfl
  unfold Flash.word
  rw [hjournal, ← h, find_insertWord]
  rfl

/-- An erase that begins on a sector without records is journalled. -/
theorem State.word_beginErase (h : (s.flash.word sector).written = false) :
    ((s.beginErase store sector).flash.word sector).state = 1 := by
  have htail : s.dropTail store sector = s := if_pos (by simp [h])
  unfold State.beginErase
  dsimp only
  rw [htail]
  have hword : (s.putWord (s.flash.word sector).erase).flash.word sector = (s.flash.word sector).erase :=
    s.word_putWord (s.flash.word_sector sector)
  rw [hword]
  rfl

/-! ### A third failed erase of a store that is none -/

/-- The flash has no sector for store 3, so no other sector is tried; the job is none of the archive's, so it stays first
and begins again, and its sector, just journalled BAD, is journalled as one whose erase has begun. -/
theorem State.eraseBad_stray (hjobs : u.flash.jobs = [.erase sector 2 3]) (hdensity : u.flash.density = 0) :
    ((u.eraseBad 3 sector 2).flash.word sector).state = 1 := by
  unfold State.eraseBad
  rw [if_neg (by decide)]
  extract_lets old v dropped
  have hword : v.flash.word sector = { u.flash.word sector with state := 3 } :=
    u.word_putWord (u.flash.word_sector sector)
  have hnext : v.flash.nextSector 3 (sector, 64) = none := by
    have hnone : v.flash.density = 0 := hdensity
    have hcount : v.flash.sectorCount 3 = 0 := by simp [Flash.sectorCount, hnone]
    unfold Flash.nextSector Flash.ringAfter
    rw [if_neg (by simp [JournalWord.bad, hword]), hcount]
    rfl
  rw [if_neg (by decide), hnext]
  dsimp only
  rw [if_neg (by decide)]
  generalize hw : (v.modFlash (fun f => { f with jobs := f.jobs.filter (fun j => !j.ofStore 2) })).loseArchive dropped = w
  have hleft : w.flash.jobs = [.erase sector 2 3] := by
    rw [← hw]
    exact congrArg (List.filter fun j => !j.ofStore 2) (show v.flash.jobs = [.erase sector 2 3] from hjobs)
  have hbad : w.flash.word sector = { u.flash.word sector with state := 3 } := by
    rw [← hw]
    exact hword
  unfold State.beginJob
  rw [hleft]
  exact State.word_beginErase (by rw [hbad]; rfl)

namespace StrayErase

/-- The state after reset without a flash device, its controller at the third try of an erase for store 3. -/
def state : State := State.reset.modFlash (fun f => { f with density := 0, jobs := [.erase 5 2 3] })

theorem sectorShut_elapse : (state.elapse ⟨0, 0, 0⟩).sectorShut 5 = false := by
  have hwindows : (state.elapse ⟨0, 0, 0⟩).mem.windows = MemSys.reset.windows := rfl
  unfold State.sectorShut MemSys.revokedPage
  rw [hwindows]
  decide

/-- The erase fails for the third time, and its sector does not stay BAD. -/
theorem exec_flashEraseComplete_state : exec (.flashEraseComplete ⟨0, 0, 0⟩ 5 false) state =
    .next ((state.elapse ⟨0, 0, 0⟩).eraseBad 3 5 2) := by
  have hjobs : (state.elapse ⟨0, 0, 0⟩).flash.jobs = [.erase 5 2 3] := rfl
  rw [exec_flashEraseComplete]
  unfold execFlashEraseComplete
  dsimp only
  rw [hjobs]
  exact congrArg _ ((if_neg (by simp [sectorShut_elapse])).trans (if_neg Bool.false_ne_true))

end StrayErase

/-- Refutes O57: the clause of the third failed erase leaves the job's store open, and one of store 3, of which no sector is
left, begins again on the sector that it has just journalled BAD. -/
theorem not_enginesFinishTheirWork : ¬ Obligations.EnginesFinishTheirWork := by
  intro h
  obtain ⟨-, -, -, -, -, -, -, -, -, -, -, -, -, -, -, -, -, herase, -⟩ := h
  obtain ⟨-, -, -, hthird⟩ := herase StrayErase.state _ ⟨0, 0, 0⟩ 5 2 3 [] rfl rfl
  obtain ⟨t, hexec, hbad⟩ := hthird StrayErase.sectorShut_elapse (le_refl 2) rfl
  rw [StrayErase.exec_flashEraseComplete_state, Host.Outcome.next.injEq] at hexec
  rw [← hexec, State.eraseBad_stray rfl rfl] at hbad
  exact absurd hbad (by decide)

end Sys2Proof.Machine
end
